-- ==== Sys2Proof/Word.lean ====
section
/-!
DEFINITION. Word.lean: the word types of the block and their plainest arithmetic.
Registers are 32-bit words of the BAR0 register file; 64-bit registers are two of them (spec/01_architecture.md, R9, R10).
-/
namespace Sys2Proof

/-- One byte of a memory or of a container. -/
abbrev Byte := BitVec 8
/-- One 32-bit register word (R9). -/
abbrev Word := BitVec 32
/-- One 64-bit register or descriptor field (R10). -/
abbrev Dword := BitVec 64
/-- One 16-byte sequencer word (R92): bit 127 lies in byte 15. -/
abbrev SeqWord := BitVec 128

/-- The serial-number order of R8 over `w`-bit counters: `a` precedes `b` when (b - a) mod 2^w lies in 1 .. 2^(w-1) - 1. -/
def serialLt (w a b : Nat) : Bool :=
  let d := (b + 2 ^ w - a % 2 ^ w) % 2 ^ w
  decide (0 < d) && decide (d < 2 ^ (w - 1))

/-- R8: two serial numbers whose distance is 2^31 cannot be compared. -/
def serialComparable (a b : Nat) : Bool := decide ((b + 2 ^ 32 - a % 2 ^ 32) % 2 ^ 32 ≠ 2 ^ 31)

/-- `bits x hi lo`: the field `[hi:lo]` of a natural number read as bits. -/
def bits (x hi lo : Nat) : Nat := (x / 2 ^ lo) % 2 ^ (hi + 1 - lo)

/-- `bit x n`: bit `n` of a natural number. -/
def bit (x n : Nat) : Bool := decide (x / 2 ^ n % 2 = 1)

/-- A `w`-bit two's complement field read as an integer. -/
def signed (w x : Nat) : Int :=
  if x % 2 ^ w < 2 ^ (w - 1) then (x % 2 ^ w : Nat) else ((x % 2 ^ w : Nat) : Int) - (2 ^ w : Nat)

/-- An integer written as a `w`-bit two's complement field. -/
def unsigned (w : Nat) (x : Int) : Nat := (x % ((2 ^ w : Nat) : Int)).toNat

end Sys2Proof
end

