-- ==== Sys2Proof/Machine/Tab.lean ====
section
/-!
DEFINITION. Machine/Tab.lean: the one sparse table of the model. Every memory, register file and array of State is such a
table: a list of (key, value) pairs in one canonical form, keys strictly rising, and no entry equal to what an unlisted
key reads as. What an unlisted key reads as is the function `d` each use passes.
-/
namespace Sys2Proof.Machine

/-- A sparse table: (key, value) pairs. -/
abbrev Tab (α : Type) := List (Nat × α)

/-- The value at key `k`; an unlisted key reads as `d k`. -/
def tget {α : Type} (d : Nat → α) : Tab α → Nat → α
  | [], k => d k
  | (j, v) :: t, k => if j = k then v else tget d t k

/-- The table without any entry of key `k`. -/
def terase {α : Type} (k : Nat) : Tab α → Tab α
  | [] => []
  | (j, v) :: t => if j = k then terase k t else (j, v) :: terase k t

/-- Insert an entry before the first larger key. -/
def tins {α : Type} (k : Nat) (v : α) : Tab α → Tab α
  | [] => [(k, v)]
  | (j, w) :: t => if k < j then (k, v) :: (j, w) :: t else (j, w) :: tins k v t

/-- Write `v` at key `k`, keeping the canonical form. -/
def tset {α : Type} [DecidableEq α] (d : Nat → α) (t : Tab α) (k : Nat) (v : α) : Tab α :=
  if v = d k then terase k t else tins k v (terase k t)

/-- Apply `f` to the value at key `k`. -/
def tmod {α : Type} [DecidableEq α] (d : Nat → α) (t : Tab α) (k : Nat) (f : α → α) : Tab α :=
  tset d t k (f (tget d t k))

/-- Every key of the table is above `lo`, keys rise strictly, and no entry equals its default. -/
def twfFrom {α : Type} [DecidableEq α] (d : Nat → α) : Option Nat → Tab α → Bool
  | _, [] => true
  | lo, (k, v) :: t =>
    (match lo with
      | none => true
      | some l => decide (l < k)) && decide (v ≠ d k) && twfFrom d (some k) t

/-- The canonical form of a table. -/
def twf {α : Type} [DecidableEq α] (d : Nat → α) (t : Tab α) : Bool := twfFrom d none t

/-- Write the values `vs` at keys `k`, `k + 1`, … -/
def tsetList {α : Type} [DecidableEq α] (d : Nat → α) (t : Tab α) (k : Nat) : List α → Tab α
  | [] => t
  | v :: vs => tsetList d (tset d t k v) (k + 1) vs

/-- The `n` values at keys `k`, `k + 1`, … -/
def tgetList {α : Type} (d : Nat → α) (t : Tab α) (k n : Nat) : List α :=
  (List.range n).map fun i => tget d t (k + i)

/-- A byte memory, unlisted bytes zero. -/
abbrev Mem := Tab Byte

/-- What an unlisted byte of every memory of the block reads as (R148, R431; log 6 for the staging window). -/
def memDefault : Nat → Byte := fun _ => 0

/-- The byte at `a`. -/
def memByte (m : Mem) (a : Nat) : Byte := tget memDefault m a

/-- The `n` bytes from `a` on. -/
def memRead (m : Mem) (a n : Nat) : List Byte := tgetList memDefault m a n

/-- Write the bytes `bs` from `a` on. -/
def memWrite (m : Mem) (a : Nat) (bs : List Byte) : Mem := tsetList memDefault m a bs

/-- Zero `n` bytes from `a` on: no byte of the range stays listed. -/
def memZero (m : Mem) (a n : Nat) : Mem := m.filter fun e => decide (e.1 < a) || decide (a + n ≤ e.1)

/-- A little-endian natural number from bytes: the first byte is the least significant. -/
def leNat : List Byte → Nat
  | [] => 0
  | b :: bs => b.toNat + 256 * leNat bs

/-- `n` little-endian bytes of a natural number. -/
def natLE : Nat → Nat → List Byte
  | 0, _ => []
  | n + 1, x => BitVec.ofNat 8 x :: natLE n (x / 256)

/-- `n` big-endian bytes of a natural number. -/
def natBE (n x : Nat) : List Byte := (natLE n x).reverse

/-- The little-endian number in `n` bytes of `m` at `a`. -/
def memNat (m : Mem) (a n : Nat) : Nat := leNat (memRead m a n)

/-- The `n` bytes of a byte string from offset `o`, short where the string ends. -/
def slice (bs : List Byte) (o n : Nat) : List Byte := (bs.drop o).take n

/-- The little-endian number in `n` bytes of a byte string at offset `o`. -/
def le (bs : List Byte) (o n : Nat) : Nat := leNat (slice bs o n)

end Sys2Proof.Machine
end

