-- ==== Sys2Proof/Machine/Frames.lean ====
section
/-!
DEFINITION. Machine/Frames.lean: what arrives on the pod ports and the Firic link, as operands of commands, and
what bring-up trains.
-/
namespace Sys2Proof.Machine

/-- A received pod frame: its bytes from the destination address without the FCS, whether the FCS holds, and the bytes the ingress
buffer holds when it arrives (how fast the buffer drains is open, so the command says it; log 26). -/
structure RxFrame where
  bytes : List Byte
  fcs : Bool
  fill : Nat
  deriving DecidableEq, Repr

/-- What arrives on the Firic link as one frame: its words as they were on the link, the 72 bits of each (R380, R450). -/
structure FiricWords where
  words : List Nat
  deriving DecidableEq, Repr

/-- A received Firic frame as it is read (Table 18.2): the header's bytes and fields, the payload, whether length and CRC were good, the
words that the 72/64 code corrected in it, and the syndromes of those that it could not correct (R380, R455). -/
structure FiricRx where
  head : List Byte
  vc : Nat
  type : Nat
  seq : Nat
  ackC : Nat
  ackJ : Nat
  ackB : Nat
  credC : Nat
  credJ : Nat
  credB : Nat
  epoch : Nat
  payload : List Byte
  good : Bool
  corrected : Nat
  ues : List Nat
  deriving DecidableEq, Repr

/-- What a twin-channel message says (R375, R415): its layout is in no table, so the command names its content. -/
inductive TwinMsg where
  /-- the twin's certificate chain and report: whether the chain ends at the device root and the report's signature holds,
  IDENT_PART and IDENT_VARIANT, measurement 0x06, DEBUG, DEVICE_ID, and its KEM encapsulation key -/
  | identity (chainGood : Bool) (part variant : Nat) (roots : List Byte) (unlocked : Bool) (deviceId : Nat) (kem : List Byte)
  /-- the ciphertext of the twin's encapsulation -/
  | ciphertext (ct : List Byte)
  /-- the twin has a SEAL pending, or has sealed after a rejoin -/
  | seal
  /-- the twin asks to rejoin -/
  | rejoin
  /-- a message for a mailbox channel 24 to 31 -/
  | channel (c : Nat) (data : List Byte)
  deriving DecidableEq, Repr

/-- Something that is trained (R439): an LPDDR channel, 8 * device + channel; a die bridge; the host port; a pod port; the Firic link. -/
inductive TrainUnit where
  | channel (k : Nat)
  | bridge (b : Nat)
  | hostPort
  | podPort (n : Nat)
  | firic
  deriving DecidableEq, Repr

/-- The pass bitmaps of topology discovery (R437): dies and SRAM dies; by die the groups that passed their self test, their slices'
test, and are reached by a route; die bridges; memory devices that answered and that identified themselves rightly; pod port PHYs;
the Firic PHY. -/
structure Discovery where
  dies : Nat
  srams : Nat
  groups : List Nat
  slices : List Nat
  routes : List Nat
  bridges : Nat
  memPresent : Nat
  memGood : Nat
  ports : Nat
  firic : Bool
  deriving DecidableEq, Repr

/-- A training record in module flash (R439) without its settings, which no rule lays out: its key (DEVICE_ID, CRC of the fuse map, version
of the training firmware), the partner of an external link, and the die hot-spot in 1/16 °C. -/
structure TrainRec where
  device : Nat
  fuseCrc : Nat
  firmware : Nat
  partner : List Byte
  t16 : Nat
  deriving DecidableEq, Repr

/-- What the bring-up stage found (R439, R440): the units whose record failed its CRC as it was read, the die hot-spot in 1/16 °C, the units
that would not show half of a saved eye margin, and the first that failed full training. -/
structure Training where
  crcBad : List TrainUnit
  t16 : Nat
  weak : List TrainUnit
  failed : Option TrainUnit
  deriving DecidableEq, Repr

/-- What an external link found as it trained (R439 to R441): whether its record failed its CRC as it was read, the die hot-spot in 1/16 °C,
the identity of its partner (the serial number of the OSFP module, the twin's DEVICE_ID, none for the host), and whether it would not show half
of a saved eye margin. -/
structure LinkTraining where
  crcBad : Bool
  t16 : Nat
  partner : List Byte
  weak : Bool
  deriving DecidableEq, Repr

/-- What the sender of STEP_BOUNDARY says of a step (log 32). The image's programs compute it, and no chunk lays out where they leave
it: the query vector of each request whose EMBED steps end (FP32 codes); the logit of each row of a request whose cross-encoder steps end,
where one was written; the sequences whose masks will be late (R248); and the division of the new work list: for each core its segments
in order, each a list of items (R286). -/
structure StepIn where
  vectors : List (Nat × List Nat)
  logits : List (Nat × List (Option Nat))
  late : List Nat
  deal : List (Nat × List (List Nat))
  deriving DecidableEq, Repr

/-- Where a checked word lies (R453, R455): the scratchpad of a core at a byte address, LPDDR at a region and byte offset, a Mortar flit
on a die (`fourth`: the retries are used up), or Keystone memory, the active sequence table and the journal buffers. -/
inductive EccPlaceOf where
  | scratchpad (core addr : Nat)
  | lpddr (region offset : Nat)
  | mortar (die : Nat) (fourth : Bool)
  | keystone
  deriving DecidableEq, Repr

/-! ## Host accesses -/

/-- Which base address register an access names. -/
inductive Bar where
  /-- BAR0: the block map of Table 16.2, or a virtual function's windows -/
  | bar0
  /-- BAR2: doorbell pages -/
  | bar2
  /-- BAR4: the staging window -/
  | bar4
  deriving DecidableEq, Repr

/-- The command fields of R479, and BOND_CTRL. -/
inductive CmdReg where
  | stg | sw | tab | ts | ptPin | bond
  deriving DecidableEq, Repr


end Sys2Proof.Machine
end

