-- ==== Sys2Proof/Syntax.lean ====
section
/-!
DEFINITION. Syntax.lean: the commands of the block, one constructor per row of spec/opcode_table.json, with the operands that its rule gives the
event. An operand whose range the hardware fixes is a number below that range.
-/
namespace Sys2Proof

open Machine

/-! ## Operand ranges -/

/-- A core: 64 times its core group, 128 groups to a die, four dies (R1). -/
abbrev CoreNo := Fin 32768
/-- A section of the image. -/
abbrev SectionNo := Fin 64
/-- A 64 KiB slice of a scratchpad (R148). -/
abbrev SliceNo := Fin 6
/-- The index of a resettable unit or selection unit: 128 times the die plus the group (Table 21.6). -/
abbrev UnitNo := Fin 512
/-- An ASSET_ID. -/
abbrev AssetNo := Fin 65536
/-- A pending switch slot (R61). -/
abbrev SwitchNo := Fin 64
/-- An entry of the active sequence table. -/
abbrev EntryNo := Fin 65536
/-- A request: its REQ_SEQ plus 2^32 times its role (R269). -/
abbrev ReqKey := Fin 8589934592
/-- A queue pair (R323). -/
abbrev PairNo := Fin 256
/-- A function (R321). -/
abbrev FnNo := Fin 64
/-- A requester number: a function plus 1 (R321). -/
abbrev ReqNo := Fin 65
/-- A mailbox channel (R339). -/
abbrev ChanNo := Fin 32
/-- A pod port. -/
abbrev PortNo := Fin 4
/-- A peer of a port (R348). -/
abbrev PeerNo := Fin 256
/-- A meter of a port (R360). -/
abbrev MeterNo := Fin 1024
/-- A traffic class (R362). -/
abbrev ClassNo := Fin 8
/-- A virtual channel of the Firic link (R381). -/
abbrev VcNo := Fin 3
/-- An event counter (R460). -/
abbrev CounterNo := Fin 96
/-- A 16-bit value. -/
abbrev Code16 := Fin 65536
/-- A 32-bit value. -/
abbrev Code32 := Fin 4294967296
/-- A 64-bit value. -/
abbrev Code64 := Fin 18446744073709551616

/-- The way an access comes in: the base address register it names and the function it comes from (R321). -/
structure Aperture where
  /-- the base address register -/
  bar : Bar
  /-- the function -/
  fn : FnNo
  deriving DecidableEq, Repr

/-- A doorbell page: a page of the BAR2 of a function (R321). -/
structure Page where
  /-- the function -/
  fn : FnNo
  /-- the page within its BAR2 -/
  number : PairNo
  deriving DecidableEq, Repr

/-- A command. -/
inductive Instr where
  /-- REGISTER_WRITE (R9): A host write to a BAR0 register that has no row of its own updates the register under its access codes. `data` holds the bytes written, the lowest first. -/
  | registerWrite (bar : Bar) (fn : FnNo) (off : Nat) (data : List Byte)
  /-- REGISTER_READ_CLEAR (R10): A read of an RC register returns its value and clears it. -/
  | registerReadClear (fn : FnNo) (off : Nat) (size : Nat)
  /-- LOW_HALF_READ (R10): A 32-bit read of the low half of a 64-bit register returns it and latches the high half. -/
  | lowHalfRead (fn : FnNo) (off : Nat)
  /-- BAD_SIZE_ACCESS (R10): An access that is not aligned 32 or 64 bits returns zero, is ignored if a write, and logs code 0x0001. -/
  | badSizeAccess (fn : FnNo) (off : Nat) (size : Nat) (write : Bool)
  /-- UNMAPPED_ACCESS (R11): An access to an unmapped BAR0 offset, or a virtual-function access outside its windows, reads zero, ignores writes and is logged. A write carries data that no register takes. -/
  | unmappedAccess (via : Aperture) (off : Nat) (size : Nat) (write : Bool)
  /-- UNDEFINED_COMMAND (R479): A write of an undefined command code, or of several BOND_CTRL commands at once, has no effect and logs code 0x000B. -/
  | undefinedCommand (reg : CmdReg) (code : Code32)
  /-- BEAT_LOST (R32): BEAT is declared lost and the local beat switches to the synthesiser, entering HOLDOVER where a count exists. -/
  | beatLost
  /-- FORCE_HOLDOVER (R21): Setting FORCE_HOLDOVER treats BEAT as lost, and clearing it starts the holdover exit. -/
  | forceHoldover (on : Bool)
  /-- MEASURE_MARKER (R26): A MEASURE marker arrives and is checked against the local measure boundaries. -/
  | measureMarker
  /-- TIMECODE_FRAME (R27): A whole TIMECODE frame is received, validated and used for loading, comparison or holdover exit. The bytes of the frame as received. -/
  | timecodeFrame (bytes : List Byte)
  /-- TC_LOST (R32): Three measures pass without a valid TIMECODE frame and TC_LOST is set. -/
  | tcLost
  /-- SLEW_DONE (R34): The slewed offset reaches zero, the state returns to LOCKED and HOLDOVER_EXIT is raised. -/
  | slewDone
  /-- RELOAD (R30): A RELOAD write is accepted in UNSET or FAULT with nothing in flight, setting RELOAD_PENDING, or is refused with RELOAD_REFUSED. -/
  | reload
  /-- WRAP_NEAR (R25): The local count reaches 0xFF00_0000_0000 and WRAP_NEAR is set. -/
  | wrapNear
  /-- WRAP_FAULT (R25): The count reaches 0xFFFF_FFFF_0000, the module enters FAULT with cause WRAP and clears ADMIT_CTRL.OPEN. -/
  | wrapFault
  /-- WRAP_HOLD (R25): The count reaches 0xFFFF_FFFF_FFFF and holds there with nothing further falling due. -/
  | wrapHold
  /-- MEASURE_BOUNDARY (R26): A measure boundary falls, at which deficits, allowance, thermal state, heartbeat, frequency, ratio and snapshots are updated. The BEAT frequency and the reference cycles that the measure counted. -/
  | measureBoundary (hz : Nat) (cycles : Nat)
  /-- STEP_BOUNDARY (R31): A section's step boundary falls, ending the previous step and starting the next with its work list. -/
  | stepBoundary (sect : SectionNo) (io : StepIn)
  /-- OP_NOP (R93): A NOP word issues and does nothing. -/
  | opNop (core : CoreNo)
  /-- LOOP (R94): A LOOP word repeats its body COUNT times, adding strides each iteration. -/
  | loop (core : CoreNo)
  /-- STEP_END (R93): A STEP_END word makes the core idle to its next step boundary. -/
  | stepEnd (core : CoreNo)
  /-- YIELD (R286): A YIELD word moves the core to the next segment, with write-back, zeroing and restore, or acts as a NOP. -/
  | yield (core : CoreNo)
  /-- MMA (R97): An MMA word issues one strip of products into an accumulator set. -/
  | mma (core : CoreNo)
  /-- WLOAD (R96): A WLOAD word loads one weight block, and optionally scales, into a weight buffer. -/
  | wload (core : CoreNo)
  /-- PREPASS (R95): A PREPASS word computes the pending anchors of a run of accumulator sets. -/
  | prepass (core : CoreNo)
  /-- ACCUM_DRAIN (R98): The drain path takes an ended accumulator set, in END order, to the epilogue. -/
  | accumDrain (core : CoreNo)
  /-- EPI_BIND (R112): An EPI_BIND word attaches a chain to the accumulator sets drained after it. -/
  | epiBind (core : CoreNo)
  /-- PROLOGUE (R114): A PROLOGUE word runs a chain's prologue stages and writes the activation operand in block order. -/
  | prologue (core : CoreNo)
  /-- VPASS (R114): A VPASS word runs a chain's stages over a stored tensor and writes the result row-major. -/
  | vpass (core : CoreNo)
  /-- RECMERGE (R117): A RECMERGE word adds partial row statistic records together. -/
  | recmerge (core : CoreNo)
  /-- SMXMERGE (R141): An SMXMERGE word folds partial soft-maximum row records in ascending order. -/
  | smxmerge (core : CoreNo)
  /-- GET (R153): A GET word moves data from an LPDDR region into scratchpad, possibly multicast. -/
  | get (core : CoreNo)
  /-- PUT (R153): A PUT word moves data from scratchpad to an LPDDR region. -/
  | put (core : CoreNo)
  /-- XFER (R153): An XFER word copies scratchpad into another core's scratchpad. -/
  | xfer (core : CoreNo)
  /-- PF_WAIT (R154): A PF_WAIT word holds until a prefetch entry of the step has completed. -/
  | pfWait (core : CoreNo)
  /-- DMA_WAIT (R154): A DMA_WAIT word holds until the tagged DMA words of the core have completed. -/
  | dmaWait (core : CoreNo)
  /-- ARRIVE_WAIT (R154): An ARRIVE_WAIT word holds until the arrival counter reaches COUNT, then subtracts it. -/
  | arriveWait (core : CoreNo)
  /-- DELIVERY_ARRIVAL (R154): The last byte of a multicast GET or XFER delivery lands and increments the receiver's arrival counter. -/
  | deliveryArrival (core : CoreNo)
  /-- PREFETCH_ENTRY (R156): A prefetch entry starts when its trigger issues and a flight slot is free, and fills its destination. -/
  | prefetchEntry (core : CoreNo)
  /-- SLICE_CLEAR_DONE (R148): A powered-up scratchpad slice finishes clearing itself to zero. -/
  | sliceClearDone (core : CoreNo) (slice : SliceNo)
  /-- SCAN_UNIT (R183): A scan context works through one segment unit, reading, filtering and scoring its entries into the candidate list. The unit's position in the present round. -/
  | scanUnit (key : ReqKey) (unit : Nat)
  /-- SEL_TOPK (R195): A SEL_TOPK word streams unsorted items and keeps the best K distinct items. -/
  | selTopk (core : CoreNo)
  /-- SEL_MERGE (R193): A SEL_MERGE word merges sorted runs into K outputs, optionally writing a result record. -/
  | selMerge (core : CoreNo)
  /-- RUN_DELIVERY (R194): A run is delivered into a selection unit's run slot. `parent`: a run sent to the unit above; else one of the unit's own cores. -/
  | runDelivery (unit : UnitNo) (parent : Bool)
  /-- TGATHER (R211): A TGATHER word gathers and pools embedding-table rows for its bags. -/
  | tgather (core : CoreNo)
  /-- TFETCH (R256): A TFETCH word fetches candidate tokens and builds cross-encoder rows and keep areas. -/
  | tfetch (core : CoreNo)
  /-- SFUNC_SLOT_FILL (R130): Between steps the Opfort fills a free SFUNC table slot with a new version. -/
  | sfuncSlotFill (core : CoreNo) (asset : AssetNo) (ver : Code32)
  /-- BOND_LOAD (R44): Writing LOAD starts loading a bond image from BAR4 or the twin, or is refused. -/
  | bondLoad
  /-- BOND_LOAD_COMPLETE (R45): The loader finishes its checks and enters LOADED, or REJECTED with a reason. The container as the twin sent it; unused for a load from BAR4. -/
  | bondLoadComplete (container : List Byte)
  /-- BOND_ABORT (R46): Writing ABORT during CHECKING stops the load and returns to EMPTY. -/
  | bondAbort
  /-- BOND_SEAL (R54): Writing SEAL in LOADED seals the image when its assets and twin digest allow, or refuses it. -/
  | bondSeal
  /-- BOND_UNLOAD (R55): Writing UNLOAD in SEALED with nothing in flight returns the state to EMPTY, or is refused. -/
  | bondUnload
  /-- STG_BEGIN (R59): STG_CMD BEGIN checks the asset header and opens a staging in a free version slot. -/
  | stgBegin
  /-- STG_DATA (R59): STG_CMD DATA writes the next piece of a version into its slot, decrypting if needed. -/
  | stgData
  /-- STG_END (R59): STG_CMD END verifies the staged version and makes it resident. -/
  | stgEnd
  /-- STG_ABORT (R59): STG_CMD ABORT discards a staging in progress, zeroing and freeing the slot. -/
  | stgAbort
  /-- STG_COMPLETE (R59): A staging command finishes, STG_RESULT leaves BUSY and STAGE_DONE or STAGE_FAILED is raised. -/
  | stgComplete
  /-- SW_COMMIT (R61): SW_CMD commit checks and registers a scheduled switch, journalling it to the twin. -/
  | swCommit
  /-- SW_CANCEL (R62): SW_CMD cancel removes a pending switch early enough before S. -/
  | swCancel
  /-- SWITCH_DUE (R62): At the first edge at or after S the switched version becomes current and SWITCH_APPLIED is raised. -/
  | switchDue (slot : SwitchNo)
  /-- TAB_OPEN (R216): TAB_CMD OPEN starts a build of a new embedding-table version from a resident base. -/
  | tabOpen
  /-- TAB_APPLY (R218): TAB_CMD APPLY applies an update batch to the touched rows of an open build. -/
  | tabApply
  /-- TAB_CLOSE (R220): TAB_CMD CLOSE completes a build, compares BUILD_DIGEST with the twin and makes the version resident. -/
  | tabClose
  /-- TAB_ABORT (R216): TAB_CMD ABORT discards an open build and frees its pages. -/
  | tabAbort
  /-- TAB_COMMAND_DONE (R216): A table command finishes and TAB_RESULT leaves BUSY. -/
  | tabCommandDone
  /-- TS_INIT (R255): TS_CMD INIT loads the token store's rank map while every block is empty. -/
  | tsInit
  /-- TS_WRITE (R255): TS_CMD WRITE replaces whole token store blocks, or is refused with LIVE. -/
  | tsWrite
  /-- TOKENISE (R234): A tokeniser lane finishes normalising and tokenising a request and writes its tokens before E. -/
  | tokenise (key : ReqKey)
  /-- MASK_BUILD (R247): A mask lane builds a grammar sequence's token mask for a step. -/
  | maskBuild (entry : EntryNo)
  /-- SAMPLE_TOKEN (R290): At its sampling slot a sequence's logits are masked, collected and a token drawn and emitted. The logits, FP32 codes, in token order. -/
  | sampleToken (entry : EntryNo) (logits : List Nat)
  /-- COMPLETION_INSTANT (R16): At acceptance plus L a front-end request's result is written or handed off per DEST. -/
  | completionInstant (key : ReqKey)
  /-- PT_PIN (R281): PT_PIN_CMD PIN pins a prefix tree node and its ancestors, within PT_PIN_MAX. -/
  | ptPin
  /-- PT_UNPIN (R281): PT_PIN_CMD UNPIN removes a pin from a node and its ancestors. -/
  | ptUnpin
  /-- SERVE_CANCEL (R296): SERVE_CANCEL_CMD GO cancels a request, journalled to the twin. -/
  | serveCancel (role : Bool)
  /-- SERVE_WIN_SNAPSHOT (R300): Writing SERVE_WIN_INDEX snapshots that active sequence table entry into SERVE_WIN. -/
  | serveWinSnapshot (entry : EntryNo)
  /-- ADMIT_OPEN (R304): Writing ADMIT_CTRL.OPEN opens admission, or clears it and refuses every queued request. -/
  | admitOpen (on : Bool)
  /-- ADMIT_DECISION (R305): At a decision edge admission examines queue heads by tag and decides at most one request. -/
  | admitDecision
  /-- DRAIN_COMPLETE (R317): The last work of a draining module ends, it powers down its groups and enters DRAINED. -/
  | drainComplete
  /-- SQ_DOORBELL (R324): A SQ_TAIL doorbell write makes new submissions of a pair available to be taken. The page of BAR2 that is written (R321). -/
  | sqDoorbell (page : Page) (v : Code16)
  /-- CQ_HEAD_DOORBELL (R324): A CQ_HEAD doorbell write consumes completion slots, letting held entries be written. The page of BAR2 that is written (R321). -/
  | cqHeadDoorbell (page : Page) (v : Code16)
  /-- SUBMIT_QUERY (R328): A QUERY submission is taken by HSN, checked, and presented to its account's admission queue or answered MALFORMED. The 64 bytes of the entry, the bytes of its descriptor, and whether every read of it completed. -/
  | submitQuery (pair : PairNo) (e : List Byte) (d : List Byte) (ok : Bool)
  /-- SUBMIT_NOP (R329): A NOP submission is taken and answered with a NOP completion. The 64 bytes of the entry. -/
  | submitNop (pair : PairNo) (e : List Byte)
  /-- SUBMIT_CANCEL (R338): A CANCEL submission cancels a request taken through the same function. The 64 bytes of the entry. -/
  | submitCancel (pair : PairNo) (e : List Byte)
  /-- COAL_TIMER (R330): The Q_COAL time field expires after an unannounced completion and an MSI-X message is sent. -/
  | coalTimer (pair : PairNo)
  /-- Q_ENABLE (R336): Setting or clearing Q_CTRL.ENABLE starts or stops a queue pair. -/
  | qEnable (pair : PairNo) (on : Bool)
  /-- Q_RESYNC (R336): Q_CTRL.RESYNC resets a pair's ring indices and phase to zero. -/
  | qResync (pair : PairNo)
  /-- Q_RESUME (R326): Q_CTRL.RESUME restarts a STOPPED_GAP pair and re-examines its head. -/
  | qResume (pair : PairNo)
  /-- Q_BIND (R323): A Q_BIND write binds or unbinds a disabled queue pair and clears its sequence state. -/
  | qBind (pair : PairNo) (v : Code32)
  /-- Q_REPLAY_FROM (R335): A Q_REPLAY_FROM write starts rewriting completion entries from a DSN, or is refused. -/
  | qReplayFrom (pair : PairNo) (dsn : Code32)
  /-- REPLAY_COMPLETE (R335): A replay reaches Q_DSN_LAST and REPLAY_RESULT reads DONE. -/
  | replayComplete (pair : PairNo)
  /-- FUNCTION_LEVEL_RESET (R337): An FLR disables a function's pairs, drops untaken submissions and releases its mailbox locks. -/
  | functionLevelReset (fn : FnNo)
  /-- HOT_RESET (R337): A hot reset, PERST_N or link loss does the same for every function and closes the secure session. `linkLost`: the link itself went down. -/
  | hotReset (linkLost : Bool)
  /-- MB_LOCK_READ (R340): A read of MB_LOCK acquires a free lock or reports the owner. -/
  | mbLockRead (chan : ChanNo) (n : ReqNo)
  /-- MB_LOCK_RELEASE (R340): A write of its number by the owner releases a mailbox lock and zeroes the channel. -/
  | mbLockRelease (chan : ChanNo) (n : ReqNo) (v : Code32)
  /-- LOCK_EXPIRED (R340): A lock held for MB_LOCK_TIMEOUT beats is released by force and LOCK_EXPIRED raised. -/
  | lockExpired (chan : ChanNo)
  /-- MB_DOORBELL (R341): A MB_DOORBELL write submits a mailbox message and sets PENDING. -/
  | mbDoorbell (chan : ChanNo) (n : ReqNo) (len : Fin 512) (id : Code16)
  /-- MB_ACK (R341): The Keystone finishes a mailbox command, writes the response and acknowledgement and raises ACK. -/
  | mbAck (chan : ChanNo) (code : Code16)
  /-- SESSION_OPEN (R404): SESSION_OPEN starts the secure handshake and returns the chain, ephemeral key and signature. The nonce of the message, its buffer address, and whether every host access completed. -/
  | sessionOpen (nonce : List Byte) (addr : Code64) (ok : Bool)
  /-- SESSION_KEY (R404): SESSION_KEY decapsulates the host ciphertext and opens the session. The ciphertext read from the host buffer, and whether the read completed. -/
  | sessionKey (ct : List Byte) (ok : Bool)
  /-- SESSION_CLOSE (R342): SESSION_CLOSE closes the secure session. -/
  | sessionClose (chan : ChanNo)
  /-- GET_REPORT (R407): GET_REPORT writes a signed attestation report with measurements. -/
  | getReport (chan : ChanNo) (nonce : List Byte) (addr : Code64)
  /-- KEY_RELEASE (R411): KEY_RELEASE installs an asset key under its policy. -/
  | keyRelease (chan : ChanNo) (object : List Byte) (ok : Bool)
  /-- KEY_REVOKE (R411): KEY_REVOKE erases an asset key from the engine and flash. -/
  | keyRevoke (chan : ChanNo) (id : Code64)
  /-- ENROLL_ROOT (R403): ENROLL_ROOT adds an owner image root when permitted. -/
  | enrollRoot (chan : ChanNo) (key : List Byte) (sig : List Byte) (ok : Bool)
  /-- SET_FLOOR (R406): SET_FLOOR raises an image line's rollback floor. -/
  | setFloor (chan : ChanNo) (id : Code64) (floor : Code32) (sig : List Byte) (ok : Bool)
  /-- DEBUG_UNLOCK (R418): DEBUG_UNLOCK accepts a signed token, erases keys and opens the debug windows. -/
  | debugUnlock (chan : ChanNo) (id : Code64) (nonce : List Byte) (expiry : Code64) (sig : List Byte) (ok : Bool)
  /-- DEBUG_EXPIRY (R418): A debug unlock reaches its expiry BeatTime and ends, restoring the cadence output. -/
  | debugExpiry
  /-- JOB_KEY_OPEN (R412): JOB_KEY_OPEN derives a job key bound to one source and returns its handle. `peer` is 256 * port + peer of a pod source; none for the sending function. -/
  | jobKeyOpen (chan : ChanNo) (peer : Option Nat) (ct : List Byte) (ok : Bool)
  /-- JOB_KEY_CLOSE (R412): JOB_KEY_CLOSE erases a job key. -/
  | jobKeyClose (chan : ChanNo) (handle : Code32)
  /-- POD_FRAME_DROP (R359): A received pod frame failing FCS, EtherType, peer, header, policer or buffer checks is dropped and counted. -/
  | podFrameDrop (port : PortNo) (f : RxFrame)
  /-- POD_REQUEST (R357): A whole REQUEST message from a client peer is checked and queued for admission. -/
  | podRequest (port : PortNo) (f : RxFrame)
  /-- POD_CANCEL (R357): A CANCEL message from a client peer cancels one of its requests. -/
  | podCancel (port : PortNo) (f : RxFrame)
  /-- SEL_RUN (R204): A remote shard's run arrives at the root and is matched, checked and kept for level 4. -/
  | selRun (port : PortNo) (f : RxFrame)
  /-- POD_MERGE_START (R204): The level-4 merge starts at D or once every shard's run has arrived. -/
  | podMergeStart (key : ReqKey)
  /-- TOK_REQ (R258): A shard answers a root's token request from its own token store. -/
  | tokReq (port : PortNo) (f : RxFrame)
  /-- TOK_REPLY (R258): A token reply arrives at the root and takes part, or the candidate is DROPPED. -/
  | tokReply (port : PortNo) (f : RxFrame)
  /-- COLL (R350): A COLL message is written to a region and increments the target core's arrival counter. `sameImage`: the sender runs the same image (R350). -/
  | coll (port : PortNo) (f : RxFrame) (sameImage : Bool)
  /-- HELLO (R355): A HELLO with a new epoch resynchronises the receive side of a peer stream. -/
  | hello (port : PortNo) (f : RxFrame)
  /-- POD_ACK (R353): An ACK frame releases acknowledged outstanding frames of a peer. -/
  | podAck (port : PortNo) (f : RxFrame)
  /-- ACK_DELAY_EXPIRY (R353): POD_ACK_DELAY passes, or 16 frames accumulate, and an ACK frame is sent. -/
  | ackDelayExpiry (port : PortNo) (peer : PeerNo)
  /-- POD_RTO_EXPIRY (R354): No acknowledgement advances for POD_RTO and outstanding frames are resent, or the peer goes DOWN. -/
  | podRtoExpiry (port : PortNo) (peer : PeerNo)
  /-- PEER_RETRY (R354): A DOWN peer is tried again after 16 times POD_RTO. -/
  | peerRetry (port : PortNo) (peer : PeerNo)
  /-- PENDING_EXPIRY (R354): A client token record pending for 64 measures is discarded and counted. -/
  | pendingExpiry (port : PortNo) (peer : PeerNo)
  /-- RESTART (R355): PEER_CMD.RESTART restarts a peer stream with a new epoch and a HELLO. -/
  | restart (port : PortNo) (peer : PeerNo)
  /-- PEER_ENABLE (R355): Enabling a peer entry restarts its stream. -/
  | peerEnable (port : PortNo) (peer : PeerNo) (v : Code32)
  /-- POD_RESET (R356): POD_CTRL.RESET resets a pod port, losing frames on the wire but keeping peer state. -/
  | podReset (port : PortNo)
  /-- POD_ENABLE (R369): POD_CTRL.ENABLE enables or disables a pod port. -/
  | podEnable (port : PortNo) (on : Bool)
  /-- POD_LINK_UP (R441): A pod port trains and reports LINK_UP. The module type of the cage, and what training found. -/
  | podLinkUp (port : PortNo) (media : Fin 8) (x : LinkTraining)
  /-- POD_LINK_DOWN (R369): A pod port loses its link and raises LINK_DOWN. -/
  | podLinkDown (port : PortNo)
  /-- POL_CTRL (R360): A POL_CTRL write sets a meter's mode and fills both buckets. -/
  | polCtrl (port : PortNo) (meter : MeterNo) (v : Code32)
  /-- TC_SHAPE_WRITE (R366): A write to a class's shaper registers takes effect at the next ck and resets its credit. The register of the class, 0, 4, 8 or 12, and the value. -/
  | tcShapeWrite (port : PortNo) (cls : ClassNo) (off : Nat) (v : Code32)
  /-- GATE_ENTRY_CHANGE (R363): The gate-list entry in force changes at ck 0 of a beat. -/
  | gateEntryChange (port : PortNo)
  /-- FRAME_TRANSMIT (R367): The port is free and the scheduler chooses one eligible class's head frame to send. -/
  | frameTransmit (port : PortNo)
  /-- FIRIC_JOURNAL (R383): A JOURNAL frame is received, its acknowledgements applied and its entry bytes appended to the stream. The verdict it carries on a command that reads BUSY (log 27). -/
  | firicJournal (f : FiricWords) (verdict : Option Bool)
  /-- JOURNAL_ACCEPT (R384): An ACCEPT entry books a shadow of the twin's request in its slot. -/
  | journalAccept
  /-- JOURNAL_VSET (R384): A VSET entry maps the twin's version set to a local one. -/
  | journalVset
  /-- JOURNAL_SWITCH (R63): A SWITCH entry applies the twin's commit or cancel, settling conflicts by role. -/
  | journalSwitch
  /-- JOURNAL_TABLE (R220): A TABLE entry performs the twin's table command. -/
  | journalTable
  /-- JOURNAL_STORE (R255): A STORE entry performs the twin's token store command. -/
  | journalStore
  /-- JOURNAL_CANCEL (R389): A CANCEL entry records the twin's cancel. -/
  | journalCancel
  /-- JOURNAL_TOKENS (R383): A TOKENS entry records a shadow sequence's sampled tokens. -/
  | journalTokens
  /-- JOURNAL_RESULT (R384): A RESULT entry discards the shadow of a non-generating request. -/
  | journalResult
  /-- JOURNAL_END (R384): An END entry discards the shadow of a generating request. -/
  | journalEnd
  /-- JOURNAL_KEY (R416): A KEY entry installs or erases a wrapped job or asset key. -/
  | journalKey
  /-- JOURNAL_ASSET_STATE (R397): An ASSET_STATE entry sets an asset's current and resident versions on the destination. -/
  | journalAssetState
  /-- JOURNAL_BUILD_STATE (R397): A BUILD_STATE entry re-creates an open table build on the destination. -/
  | journalBuildState
  /-- JOURNAL_FREE_MAP (R397): A FREE_MAP entry sets the free-page map of a store range. -/
  | journalFreeMap
  /-- FIRIC_HEARTBEAT (R385): A HEARTBEAT frame counts for its measure and is compared when time is locked. -/
  | firicHeartbeat (f : FiricWords)
  /-- FIRIC_FAULT (R388): A FAULT frame from the twin leads to declaring it failed at the next boundary. -/
  | firicFault (f : FiricWords)
  /-- FIRIC_MBOX (R375): An MBOX frame carries a twin-channel message, such as attestation and pair-key agreement. -/
  | firicMbox (f : FiricWords) (m : TwinMsg)
  /-- RESYNC_DATA (R394): A RESYNC_DATA frame writes copied segment data on the rejoining module. -/
  | resyncData (f : FiricWords)
  /-- PASS_START (R396): RESYNC_CTRL PASS_START opens a copy pass. -/
  | passStart (f : FiricWords)
  /-- PASS_END (R396): RESYNC_CTRL PASS_END closes a copy pass with its marked count. -/
  | passEnd (f : FiricWords)
  /-- STATE_BEGIN (R396): RESYNC_CTRL STATE_BEGIN opens the final state message. -/
  | stateBegin (f : FiricWords)
  /-- STATE_END (R397): RESYNC_CTRL STATE_END closes the state message and the destination answers STATE_ACK. -/
  | stateEnd (f : FiricWords)
  /-- STATE_ACK (R397): RESYNC_CTRL STATE_ACK with a matching digest lets the source release its held commands, or it aborts. -/
  | stateAck (f : FiricWords)
  /-- RESYNC_ABORT (R396): RESYNC_CTRL ABORT ends the rejoin and the destination discards its copy. -/
  | resyncAbort (f : FiricWords)
  /-- RESYNC_PASS_DONE (R395): The source finishes sending a pass and starts the next pass or the final state message. -/
  | resyncPassDone
  /-- FIRIC_IDLE (R382): An IDLE frame delivers acknowledgement and credit fields only. -/
  | firicIdle (f : FiricWords)
  /-- FIRIC_RTO (R382): No acknowledgement advances for TWIN_RTO and a VC's frames are resent. -/
  | firicRto (vc : VcNo)
  /-- FIRIC_LINK_DOWN (R382): After 250 timeouts or loss of training the link is down, the state becomes ABSENT and held ADMIT entries are released. -/
  | firicLinkDown
  /-- FIRIC_LINK_UP (R441): The Firic link trains and pairing starts in LINKING, or role B enters DRAINING after a split. Whether the twin is SOLO, and what training found. -/
  | firicLinkUp (peerSolo : Bool) (x : LinkTraining)
  /-- WATCHDOG_FIRE (R386): The unfed watchdog sends FAULT KEYSTONE_HANG, closes admission and stops all emissions. -/
  | watchdogFire
  /-- HANDOVER (R387): TWIN_CTRL.HANDOVER declares FAULT with cause HANDOVER and drains the module. -/
  | handover
  /-- REJOIN (R394): TWIN_CTRL.REJOIN starts the copy from the SOLO twin and both enter RESYNC. -/
  | rejoin
  /-- TWIN_FAIL_DECLARE (R388): Three missed heartbeats, or an accepted FAULT frame, make the module declare its twin failed at a boundary. -/
  | twinFailDeclare
  /-- INPUT_VALID (R427): Input rises above the start threshold with the interlock closed and power-up sequencing begins. -/
  | inputValid
  /-- RAIL_PGOOD_FAIL (R427): A rail misses its power-good window, all rails fall and a retry is scheduled. -/
  | railPgoodFail
  /-- POWER_RETRY (R427): One second after a rail failure the Plinth retries power-up once. -/
  | powerRetry
  /-- RESET_RELEASE (R431): The logic side leaves reset, reads fuses, derives keys and verifies firmware. -/
  | resetRelease
  /-- DISCOVERY_DONE (R437): Topology discovery finishes and is compared with the fuse map. -/
  | discoveryDone (d : Discovery)
  /-- TRAINING_DONE (R440): LPDDR channel and die bridge training finishes from saved records or in full. -/
  | trainingDone (t : Training)
  /-- MEM_INIT_DONE (R431): Every usable LPDDR byte has been zeroed and bring-up waits for time. The device that failed, if any. -/
  | memInitDone (failed : Option Nat)
  /-- WARM_RESET (R435): TOPO_CTRL.WARM_RESET reruns bring-up from FUSE, ending all in-flight requests. -/
  | warmReset
  /-- UNIT_RESET (R446): TOPO_UNIT_CMD RESET starts a unit reset and increments its epoch. The unit that error handling names, class and index; none for the host command. -/
  | unitReset (named : Option (Nat × Nat))
  /-- UNIT_RETURN (R442): A reset unit returns to service and UNIT_RESET_DONE is raised. -/
  | unitReturn (cls : Fin 6) (index : UnitNo)
  /-- UV_WARN (R420): Input stays below 350 V for 50 us and UV_WARN is flagged. -/
  | uvWarn
  /-- UV_TRIP (R428): Input falls below 340 V, or the interlock opens, and the INPUT_LOSS flag crosses the barrier. -/
  | uvTrip
  /-- INPUT_LOSS (R428): The INPUT_LOSS flag reaches the logic side and the module declares FAULT with cause INPUT_LOSS. -/
  | inputLoss
  /-- RAIL_SHUTDOWN (R428): The hold-up ends, or the bus falls below 10 V, and the rails are lowered and discharged. -/
  | railShutdown
  /-- OV_TRIP (R429): Input exceeds 440 V for 50 us and the converter stops at once. -/
  | ovTrip
  /-- PEAK_LIMIT (R421): The input current limit engages in a 20 us window and counts in PWR_CNT_PEAK. -/
  | peakLimit
  /-- PLINTH_RECORD (R426): A Plinth telemetry record arrives, is validated and updates the PWR mirror and ENERGY_TOTAL. The bytes that crossed the barrier; none when they are those the Plinth latched. -/
  | plinthRecord (crossed : Option (List Byte))
  /-- SCRUB_ACCESS (R453): A scrub reads and checks a word, writing back a corrected value. The stored bits that changed, whether another write overtook the write-back, whether a full pass ends here. -/
  | scrubAccess (place : EccPlaceOf) (flips : Nat) (dropped : Bool) (pass : Bool)
  /-- EVT_COUNTER_WRAP (R462): An event counter wraps to zero, sets its EVT_OVF bit and raises OVF. -/
  | evtCounterWrap (n : CounterNo)
  /-- EVT_FREEZE (R462): EVT_CTRL.FREEZE stops every event counter. -/
  | evtFreeze (on : Bool)
  /-- EVT_CLEAR (R462): EVT_CTRL.CLEAR zeroes every counter and EVT_OVF. -/
  | evtClear
  /-- EVT_SEL (R461): An EVT_SEL write selects a counter's source and zeroes it, or is ignored and logged. -/
  | evtSel (n : CounterNo) (v : Code32)
  /-- BEAT_EDGE (R22): A rising edge of the local beat, from BEAT or the synthesiser, advances the beat count and refills policer buckets and channel credits. -/
  | beatEdge
  /-- BEAT_RETURN (R32): BEAT edges arrive again after a loss, the local beat returns to BEAT in UNSET and the 16-measure holdover exit count starts. -/
  | beatReturn
  /-- HOST_LINK_UP (R433): The PCI Express link finishes training after reset release, a hot reset, PERST_N deassertion or a link loss, and HQ_LINK reports its rate and width. HQ_LINK as trained, and what training found. -/
  | hostLinkUp (link : Code32) (x : LinkTraining)
  /-- DMA_COMPLETION (R147): The last access of a GET, PUT, XFER or prefetch entry completes, releasing its scoreboard ranges and satisfying DMA_WAIT or PF_WAIT. The position among the transfers of the core. -/
  | dmaCompletion (core : CoreNo) (n : Nat)
  /-- MESSAGE_PART (R351): A pod frame that is a non-final part of a message is accepted in order, advancing the expected SEQ and applying its ACK field. -/
  | messagePart (port : PortNo) (f : RxFrame)
  /-- PLINTH_SAMPLE (R425): At each Plinth sample the voltage, current and temperature are calibrated, the power is added to the energy accumulator and the current limit is recomputed. The raw codes of voltage, current and temperature. -/
  | plinthSample (volts : Code16) (amps : Code16) (temp : Code16)
  /-- TELEM_SAMPLE (R310): A telemetry sample updates the hottest die hot-spot temperature T16 read into ENERGY_TMAX. -/
  | telemSample (t16 : Code16)
  /-- TRAINING_RECORD_WRITE (R440): The Keystone finishes writing a training record back to flash while the module runs, incrementing the epoch of its controller or port. -/
  | trainingRecordWrite (u : TrainUnit)
  deriving DecidableEq, Repr

end Sys2Proof
end

