-- ==== Sys2Proof/Machine/Hash.lean ====
section
/-!
DEFINITION. Machine/Hash.lean: the public algorithms the spec names: SHAKE256 (spec/19_security.md, Table 19.1; FIPS 202,
PRESUMED, log 12), CRC-32C (spec/16_host_interface.md, R328 and spec/17_pod_ports.md, Table 17.1; PRESUMED, log 12) and
the counter-based generator Philox4x32-10 (spec/04_number_formats.md, R78; PRESUMED, log 12).
-/
namespace Sys2Proof.Machine

/-! ## SHAKE256 -/

/-- One lane of the Keccak state. -/
abbrev Lane := BitVec 64

/-- Lane `i` of a list of lanes. -/
def laneAt (l : List Lane) (i : Nat) : Lane := l.getD i 0

/-- Rotation offsets of the rho step, lane x + 5 y. -/
def keccakRho : List Nat :=
  [0, 1, 62, 28, 27, 36, 44, 6, 55, 20, 3, 10, 43, 25, 39, 41, 45, 15, 21, 8, 18, 2, 61, 56, 14]

/-- Round constants of the iota step. -/
def keccakRc : List Lane :=
  [0x0000000000000001, 0x0000000000008082, 0x800000000000808A, 0x8000000080008000, 0x000000000000808B, 0x0000000080000001,
   0x8000000080008081, 0x8000000000008009, 0x000000000000008A, 0x0000000000000088, 0x0000000080008009, 0x000000008000000A]
  ++ [0x000000008000808B, 0x800000000000008B, 0x8000000000008089, 0x8000000000008003, 0x8000000000008002, 0x8000000000000080,
   0x000000000000800A, 0x800000008000000A, 0x8000000080008081, 0x8000000000008080, 0x0000000080000001, 0x8000000080008008]

/-- One round of Keccak-f[1600]. -/
def keccakRound (a : List Lane) (rc : Lane) : List Lane :=
  let c := (List.range 5).map fun x =>
    laneAt a x ^^^ laneAt a (x + 5) ^^^ laneAt a (x + 10) ^^^ laneAt a (x + 15) ^^^ laneAt a (x + 20)
  let d := (List.range 5).map fun x => laneAt c ((x + 4) % 5) ^^^ (laneAt c ((x + 1) % 5)).rotateLeft 1
  let t := (List.range 25).map fun i => laneAt a i ^^^ laneAt d (i % 5)
  -- B[y, 2x + 3y] = rot(A[x, y]); the lane at (x, y) of B comes from (x + 3y mod 5, x)
  let b := (List.range 25).map fun i =>
    let x := i % 5
    let y := i / 5
    let src := (x + 3 * y) % 5 + 5 * x
    (laneAt t src).rotateLeft (keccakRho.getD src 0)
  let e := (List.range 25).map fun i =>
    let x := i % 5
    let y := i / 5
    laneAt b i ^^^ (~~~ (laneAt b ((x + 1) % 5 + 5 * y)) &&& laneAt b ((x + 2) % 5 + 5 * y))
  match e with
  | [] => []
  | l :: r => (l ^^^ rc) :: r

/-- Keccak-f[1600]. -/
def keccakF (a : List Lane) : List Lane := keccakRc.foldl keccakRound a

/-- Lanes of a block of bytes, 8 bytes a lane, little-endian. -/
def lanesOf : Nat → List Byte → List Lane
  | 0, _ => []
  | n + 1, bs => BitVec.ofNat 64 (leNat (bs.take 8)) :: lanesOf n (bs.drop 8)

/-- XOR a block of `rate` bytes into the state. -/
def keccakAbsorb (rate : Nat) (a : List Lane) (block : List Byte) : List Lane :=
  let l := lanesOf (rate / 8) block
  keccakF ((List.range 25).map fun i => laneAt a i ^^^ laneAt l i)

/-- Absorb `n` blocks. -/
def keccakBlocks (rate : Nat) : Nat → List Lane → List Byte → List Lane
  | 0, a, _ => a
  | n + 1, a, bs => keccakBlocks rate n (keccakAbsorb rate a (bs.take rate)) (bs.drop rate)

/-- Squeeze `n` blocks. -/
def keccakSqueeze (rate : Nat) : Nat → List Lane → List Byte
  | 0, _ => []
  | n + 1, a => (a.take (rate / 8)).flatMap (fun l => natLE 8 l.toNat) ++ keccakSqueeze rate n (keccakF a)

/-- The message padded to a multiple of the rate: the suffix bits, then 10*1. -/
def keccakPad (rate : Nat) (suffix : Byte) (m : List Byte) : List Byte :=
  let r := rate - 1 - m.length % rate
  if r = 0 then m ++ [suffix ||| 0x80] else m ++ [suffix] ++ List.replicate (r - 1) 0 ++ [0x80]

/-- The sponge over Keccak-f[1600]: `n` output bytes of a byte string. -/
def sponge (rate : Nat) (suffix : Byte) (m : List Byte) (n : Nat) : List Byte :=
  let p := keccakPad rate suffix m
  (keccakSqueeze rate ((n + rate - 1) / rate) (keccakBlocks rate (p.length / rate) (List.replicate 25 0) p)).take n

/-- SHAKE256 of a byte string, `n` output bytes. -/
def shake256 (m : List Byte) (n : Nat) : List Byte := sponge 136 0x1F m n

/-- The 64-byte digest the spec uses throughout. -/
def digest64 (m : List Byte) : List Byte := shake256 m 64

/-! ## CRC-32C -/

/-- One bit of the reflected CRC-32C. -/
def crcBit (c : Nat) : Nat := if c % 2 = 1 then Nat.xor (c / 2) 0x82F63B78 else c / 2

/-- One byte of the reflected CRC-32C. -/
def crcByte (c : Nat) (b : Byte) : Nat :=
  crcBit (crcBit (crcBit (crcBit (crcBit (crcBit (crcBit (crcBit (Nat.xor c b.toNat))))))))

/-- CRC-32C of a byte string: reflected, initial value and final XOR all ones. -/
def crc32c (bs : List Byte) : Nat := Nat.xor (bs.foldl crcByte 0xFFFFFFFF) 0xFFFFFFFF

/-! ## Philox4x32-10 -/

/-- One round of Philox4x32. -/
def philoxRound (c : Nat × Nat × Nat × Nat) (k0 k1 : Nat) : Nat × Nat × Nat × Nat :=
  let p0 := 0xD2511F53 * c.1
  let p1 := 0xCD9E8D57 * c.2.2.1
  (Nat.xor (Nat.xor (p1 / 2 ^ 32) c.2.1) k0, p1 % 2 ^ 32, Nat.xor (Nat.xor (p0 / 2 ^ 32) c.2.2.2) k1, p0 % 2 ^ 32)

/-- `n` rounds with the key bumped between rounds. -/
def philoxRounds : Nat → Nat × Nat × Nat × Nat → Nat → Nat → Nat × Nat × Nat × Nat
  | 0, c, _, _ => c
  | n + 1, c, k0, k1 => philoxRounds n (philoxRound c k0 k1) ((k0 + 0x9E3779B9) % 2 ^ 32) ((k1 + 0xBB67AE85) % 2 ^ 32)

/-- The four output words of Philox4x32-10 for counter (c0, c1, c2, c3) and key (k0, k1). -/
def philox (c0 c1 c2 c3 k0 k1 : Nat) : Nat × Nat × Nat × Nat := philoxRounds 10 (c0, c1, c2, c3) k0 k1

/-- The keyed draw of R78: word 0 for a 64-bit seed, a 64-bit element index, a TENSOR_ID and c3 = 0. -/
def keyedDraw (seed index tensor : Nat) : Nat :=
  (philox (index % 2 ^ 32) (index / 2 ^ 32 % 2 ^ 32) tensor 0 (seed % 2 ^ 32) (seed / 2 ^ 32 % 2 ^ 32)).1

/-! ## mix64 (R209) -/

/-- R209: mix64. -/
def mix64 (key seed : Nat) : Nat :=
  let m := 2 ^ 64
  let z0 := Nat.xor (key % m) (seed % m)
  let z1 := Nat.xor z0 (z0 / 2 ^ 33) * 0xff51afd7ed558ccd % m
  let z2 := Nat.xor z1 (z1 / 2 ^ 33) * 0xc4ceb9fe1a85ec53 % m
  Nat.xor z2 (z2 / 2 ^ 33)

/-- kdf of R400: the first n bytes of SHAKE256 over a label and a byte string. -/
def kdf (label : String) (x : List Byte) (n : Nat) : List Byte :=
  shake256 (label.toList.map (fun c => BitVec.ofNat 8 c.toNat) ++ x) n

end Sys2Proof.Machine
end

