-- ==== Sys2Proof/Machine/Num.lean ====
section
/-!
DEFINITION. Machine/Num.lean: exact values, the element formats of Table 04.1, rounding (R76 to R81), MX block conversion
(R79, R81), the wide accumulator (R71 to R75) and the row statistic arithmetic (R82 to R84) of spec/04_number_formats.md.
-/
namespace Sys2Proof.Machine

/-- An exact value: a NaN, an infinity, or plus or minus n / d with d positive. Zero keeps its sign. -/
inductive Val where
  | nan
  | inf (neg : Bool)
  | fin (neg : Bool) (n d : Nat)
  deriving DecidableEq, Repr

/-- Plus zero. -/
def Val.zero : Val := .fin false 0 1
/-- One. -/
def Val.one : Val := .fin false 1 1

/-- The rational n / d times 2^e, as a pair. -/
def scalePow (n d : Nat) (e : Int) : Nat × Nat :=
  if 0 ≤ e then (n * 2 ^ e.toNat, d) else (n, d * 2 ^ (-e).toNat)

/-- Divide numerator and denominator by their common power of two, so that exact values stay short. -/
def trimPow (n d : Nat) : Nat × Nat :=
  let g := Nat.gcd n d
  if g = 0 then (n, d) else (n / g, d / g)

/-- A finite value of a signed numerator over a positive denominator; zero is plus zero. -/
def Val.ofInt (x : Int) (d : Nat) : Val :=
  let p := trimPow x.natAbs d
  .fin (decide (x < 0)) p.1 p.2

/-- The signed numerator of a finite value. -/
def signedNum (neg : Bool) (n : Nat) : Int := if neg then -(n : Int) else n

/-- Negation. -/
def Val.neg : Val → Val
  | .nan => .nan
  | .inf s => .inf (!s)
  | .fin s n d => .fin (!s) n d

/-- Magnitude. -/
def Val.abs : Val → Val
  | .nan => .nan
  | .inf _ => .inf false
  | .fin _ n d => .fin false n d

/-- The exact sum, with the IEEE 754 results for special values (R108). -/
def Val.add : Val → Val → Val
  | .nan, _ => .nan
  | _, .nan => .nan
  | .inf a, .inf b => if a = b then .inf a else .nan
  | .inf a, _ => .inf a
  | _, .inf b => .inf b
  | .fin a n d, .fin b m e =>
    if n = 0 ∧ m = 0 then .fin (a && b) 0 1
    else .ofInt (signedNum a n * e + signedNum b m * d) (d * e)

/-- The exact difference. -/
def Val.sub (x y : Val) : Val := x.add y.neg

/-- The exact product, with the IEEE 754 results for special values (R108). -/
def Val.mul : Val → Val → Val
  | .nan, _ => .nan
  | _, .nan => .nan
  | .inf a, .inf b => .inf (a != b)
  | .inf a, .fin b n _ => if n = 0 then .nan else .inf (a != b)
  | .fin a n _, .inf b => if n = 0 then .nan else .inf (a != b)
  | .fin a n d, .fin b m e =>
    let p := trimPow (n * m) (d * e)
    .fin (a != b) p.1 p.2

/-- The exact reciprocal, with the IEEE 754 results for zero and infinity. -/
def Val.recip : Val → Val
  | .nan => .nan
  | .inf a => .fin a 0 1
  | .fin a n d => if n = 0 then .inf a else .fin a d n

/-- The value times 2^e. -/
def Val.scale2 (e : Int) : Val → Val
  | .nan => .nan
  | .inf a => .inf a
  | .fin a n d => let p := scalePow n d e; let q := trimPow p.1 p.2; .fin a q.1 q.2

/-- Comparison of two values that are no NaN: minus zero equals plus zero. -/
def Val.le : Val → Val → Bool
  | .nan, _ => false
  | _, .nan => false
  | .inf a, .inf b => a || !b
  | .inf a, _ => a
  | _, .inf b => !b
  | .fin a n d, .fin b m e => decide (signedNum a n * e ≤ signedNum b m * d)

/-- Strict comparison. -/
def Val.lt (x y : Val) : Bool := x.le y && !(y.le x)

/-- Whether the value is a finite zero. -/
def Val.isZero : Val → Bool
  | .fin _ n _ => decide (n = 0)
  | _ => false

/-- The floor of log2 (n / d), for positive n and d. -/
def log2Q (n d : Nat) : Int :=
  let e : Int := (Nat.log2 n : Int) - (Nat.log2 d : Int)
  let p := scalePow d 1 e
  if n * p.2 < p.1 then e - 1 else e

/-- The floor of a signed rational. -/
def floorQ (neg : Bool) (n d : Nat) : Int := (signedNum neg n) / (d : Int)

/-- The nearest integer of a signed rational, ties to even. -/
def nearestQ (neg : Bool) (n d : Nat) : Int :=
  let k := n / d
  let r := n % d
  let m := if 2 * r < d then k else if d < 2 * r then k + 1 else k + k % 2
  signedNum neg m

/-- How a value between two neighbours is rounded: to nearest even, or stochastically with the element's 32-bit draw. -/
inductive RMode where
  | nearest
  | keyed (u : Nat)
  deriving DecidableEq, Repr

/-- R77 and R78 on the magnitude n / d in units of the target: lo is the neighbour below the SIGNED value. -/
def roundMag (mode : RMode) (neg : Bool) (n d : Nat) : Nat :=
  let k := n / d
  let r := n % d
  if r = 0 then k
  else
    match mode with
    | .nearest => if 2 * r < d then k else if d < 2 * r then k + 1 else k + k % 2
    | .keyed u =>
      if neg then
        let f := (d - r) * 2 ^ 32 / d
        if 2 ^ 32 ≤ f + u then k else k + 1
      else
        let f := r * 2 ^ 32 / d
        if 2 ^ 32 ≤ f + u then k + 1 else k

/-- The element formats, by the FORMAT code of Table 04.2. -/
inductive Fmt where
  | fp32 | bf16 | e4m3 | e5m2 | e2m3 | e3m2 | e2m1 | int8
  deriving DecidableEq, Repr

/-- The format a FORMAT code of Table 04.2 names; 8 to 15 name none. -/
def Fmt.ofCode : Nat → Option Fmt
  | 0 => some .fp32
  | 1 => some .bf16
  | 2 => some .e4m3
  | 3 => some .e5m2
  | 4 => some .e2m3
  | 5 => some .e3m2
  | 6 => some .e2m1
  | 7 => some .int8
  | _ => none

/-- Mantissa bits of a floating format (Table 04.1). -/
def Fmt.mbits : Fmt → Nat
  | .fp32 => 23 | .bf16 => 7 | .e4m3 => 3 | .e5m2 => 2 | .e2m3 => 3 | .e3m2 => 2 | .e2m1 => 1 | .int8 => 0

/-- Exponent of the smallest normal number, 1 - bias (Table 04.1). -/
def Fmt.emin : Fmt → Int
  | .fp32 => -126 | .bf16 => -126 | .e4m3 => -6 | .e5m2 => -14 | .e2m3 => 0 | .e3m2 => -2 | .e2m1 => 0 | .int8 => 0

/-- Magnitude code of the largest finite value (Table 04.1). -/
def Fmt.maxCode : Fmt → Nat
  | .fp32 => 0x7F7FFFFF | .bf16 => 0x7F7F | .e4m3 => 0x7E | .e5m2 => 0x7B | .e2m3 => 0x1F | .e3m2 => 0x1F | .e2m1 => 0x7
  | .int8 => 0x7F

/-- Bits of one element. -/
def Fmt.width : Fmt → Nat
  | .fp32 => 32 | .bf16 => 16 | .e4m3 => 8 | .e5m2 => 8 | .e2m3 => 6 | .e3m2 => 6 | .e2m1 => 4 | .int8 => 8

/-- Whether the format is an MX format, stored in blocks of 32 with a scale byte (R67). -/
def Fmt.isMx : Fmt → Bool
  | .fp32 => false | .bf16 => false | _ => true

/-- Column emax of Table 04.1. -/
def Fmt.emax : Fmt → Int
  | .fp32 => 127 | .bf16 => 127 | .e4m3 => 8 | .e5m2 => 15 | .e2m3 => 2 | .e3m2 => 4 | .e2m1 => 2 | .int8 => 0

/-- Column b of Table 04.1, the exponent bound of an MX format. -/
def Fmt.bound : Fmt → Int
  | .fp32 => 128 | .bf16 => 128 | .e4m3 => 9 | .e5m2 => 16 | .e2m3 => 3 | .e3m2 => 5 | .e2m1 => 3 | .int8 => 2

/-- The canonical NaN code of a format that has one (R69); an MX block that is NaN as a whole has element bits 0. -/
def Fmt.nanCode : Fmt → Nat
  | .fp32 => 0x7FC00000 | .bf16 => 0x7FC0 | .e4m3 => 0x7F | .e5m2 => 0x7E | _ => 0

/-- Sign bit weight. -/
def Fmt.signBit (f : Fmt) : Nat := 2 ^ (f.width - 1)

/-- The exact value of an element code (R66, R68, R69), before any block scale. -/
def Fmt.decode (f : Fmt) (c : Nat) : Val :=
  match f with
  | .int8 => .ofInt (signed 8 c) 64
  | _ =>
    let neg := decide (c / f.signBit % 2 = 1)
    let mag := c % f.signBit
    let m := f.mbits
    let e := mag / 2 ^ m
    let man := mag % 2 ^ m
    let special : Option Val :=
      match f with
      | .fp32 => if e = 255 then some (if man = 0 then .inf neg else .nan) else none
      | .bf16 => if e = 255 then some (if man = 0 then .inf neg else .nan) else none
      | .e5m2 => if e = 31 then some (if man = 0 then .inf neg else .nan) else none
      | .e4m3 => if mag = 0x7F then some .nan else none
      | _ => none
    match special with
    | some v => v
    | none =>
      let k := if e = 0 then man else man + 2 ^ m
      let q : Int := (if e = 0 then f.emin else f.emin + (e : Int) - 1) - (m : Int)
      let p := scalePow k 1 q
      let t := trimPow p.1 p.2
      .fin neg t.1 t.2

/-- The magnitude code of a rounded magnitude `k` at exponent `q`; it may lie beyond the largest finite code. -/
def Fmt.codeOf (f : Fmt) (k : Nat) (q : Int) : Nat :=
  let m := f.mbits
  if k < 2 ^ m then k
  else ((q + (m : Int) - f.emin + 1).toNat) * 2 ^ m + (k - 2 ^ m)

/-- What a conversion counts in the section's arithmetic counters (Table 04.5). -/
structure ArithEv where
  truncProd : Nat := 0
  truncStat : Nat := 0
  sat : Nat := 0
  ovf : Nat := 0
  nan : Nat := 0
  statClamp : Nat := 0
  statOvf : Nat := 0
  deriving DecidableEq, Repr

/-- The sum of two counts. -/
def ArithEv.add (a b : ArithEv) : ArithEv :=
  { truncProd := a.truncProd + b.truncProd, truncStat := a.truncStat + b.truncStat, sat := a.sat + b.sat,
    ovf := a.ovf + b.ovf, nan := a.nan + b.nan, statClamp := a.statClamp + b.statClamp, statOvf := a.statOvf + b.statOvf }

/-- No event. -/
def ArithEv.none : ArithEv := {}

/-- The fields of a conversion descriptor (Table 04.2). -/
structure Cvt where
  fp8Inf : Bool
  keyed : Bool
  fmt : Option Fmt
  deriving DecidableEq, Repr

/-- Table 04.2. -/
def Cvt.ofNat (x : Nat) : Cvt := { fp8Inf := bit x 5, keyed := bit x 4, fmt := Fmt.ofCode (bits x 3 0) }

/-- One element stored (R77, R78, R80, R81): its code and what it counts. MX elements come already scaled by 2^-X. -/
def Fmt.encode (f : Fmt) (fp8Inf : Bool) (mode : RMode) : Val → Nat × ArithEv
  | .nan => (f.nanCode, { nan := 1 })
  | .inf neg =>
    let s := if neg then f.signBit else 0
    match f with
    | .fp32 => (s + 0x7F800000, {})
    | .bf16 => (s + 0x7F80, {})
    | .e5m2 => if fp8Inf then (s + 0x7C, {}) else (s + f.maxCode, { sat := 1 })
    | .e4m3 => if fp8Inf then (f.nanCode, { nan := 1 }) else (s + f.maxCode, { sat := 1 })
    | .int8 => (if neg then 0x81 else 0x7F, { sat := 1 })
    | _ => (s + f.maxCode, { sat := 1 })
  | .fin neg n d =>
    let s := if neg then f.signBit else 0
    match f with
    | .int8 =>
      let k := roundMag mode neg (n * 64) d
      let overRange := decide (127 < k)
      let k' := if overRange then 127 else k
      (if neg ∧ 0 < k' then 256 - k' else k', if overRange then { sat := 1 } else {})
    | _ =>
      if n = 0 then (s, {})
      else
        let q : Int := (if log2Q n d < f.emin then f.emin else log2Q n d) - (f.mbits : Int)
        let p := scalePow n d (-q)
        let k := roundMag mode neg p.1 p.2
        let c := f.codeOf k q
        if c ≤ f.maxCode then (s + c, {})
        else
          match f with
          | .fp32 => (s + 0x7F800000, { ovf := 1 })
          | .bf16 => (s + 0x7F80, { ovf := 1 })
          | .e5m2 => if fp8Inf then (s + 0x7C, { ovf := 1 }) else (s + f.maxCode, { sat := 1 })
          | .e4m3 => if fp8Inf then (f.nanCode, { ovf := 1, nan := 1 }) else (s + f.maxCode, { sat := 1 })
          | _ => (s + f.maxCode, { sat := 1 })

/-- A value rounded once to FP32 with round-to-nearest-even, as a value again. -/
def rne32 (v : Val) : Val := Fmt.fp32.decode (Fmt.fp32.encode false .nearest v).1

/-- The FP32 value of a 32-bit code. -/
def f32 (c : Nat) : Val := Fmt.fp32.decode c

/-- An E8M0 scale code as a power of two; 0xFF is NaN (Table 04.1). -/
def scaleExp (code : Nat) : Option Int := if code = 0xFF then none else some ((code : Int) - 127)

/-- The exact value of an MX element under its block scale (R67, R73). -/
def Fmt.decodeScaled (f : Fmt) (code scale : Nat) : Val :=
  match scaleExp scale with
  | none => .nan
  | some x => (f.decode code).scale2 x

/-- The largest finite magnitude of a list of values, as n / d, zero when there is none. -/
def maxMag : List Val → Nat × Nat
  | [] => (0, 1)
  | .fin _ n d :: vs => let p := maxMag vs; if p.1 * d < n * p.2 then (n, d) else p
  | _ :: vs => maxMag vs

/-- The shared exponent of a block (R79). -/
def blockExp (f : Fmt) (vs : List Val) : Int :=
  let p := maxMag vs
  if p.1 = 0 then (if vs.any (fun v => match v with | .inf _ => true | _ => false) then 127 else -127)
  else max (-127) (min 127 (log2Q p.1 p.2 - f.emax))

/-- Encode a list of elements, each with its own rounding mode. -/
def encodeAll (f : Fmt) (fp8Inf : Bool) : List (Val × RMode) → List Nat × ArithEv
  | [] => ([], {})
  | (v, m) :: r =>
    let p := f.encode fp8Inf m v
    let q := encodeAll f fp8Inf r
    (p.1 :: q.1, p.2.add q.2)

/-- R79 and R81: one MX block (or its short last part) to a scale code and element codes. `n` elements of the block are computed or
padding: those that a NaN block counts. -/
def encodeBlock (f : Fmt) (fp8Inf : Bool) (n : Nat) (vs : List (Val × RMode)) : Nat × List Nat × ArithEv :=
  if vs.any (fun v => decide (v.1 = .nan)) then
    (0xFF, vs.map (fun _ => 0), { nan := n })
  else
    let x := blockExp f (vs.map (·.1))
    let p := encodeAll f fp8Inf (vs.map fun v => (v.1.scale2 (-x), v.2))
    ((x + 127).toNat, p.1, p.2)

/-- Pack element codes little-endian, `w` bits an element, lowest element lowest (R67). -/
def packNat (w : Nat) : List Nat → Nat
  | [] => 0
  | c :: cs => c + 2 ^ w * packNat w cs

/-- The bytes of a packed run of `n` elements. -/
def packBytes (f : Fmt) (cs : List Nat) : List Byte := natLE ((f.width * cs.length + 7) / 8) (packNat f.width cs)

/-- Element `i` of a packed run that begins at the start of `bs`. -/
def unpack (f : Fmt) (bs : List Byte) (i : Nat) : Nat := leNat bs / 2 ^ (f.width * i) % 2 ^ f.width

/-! ## The wide accumulator -/

/-- One output's accumulator (R71, R73): W, the anchor and pending anchor, the three side flags, the truncation flag, and whether a product
violated the anchor (R98). -/
structure Wacc where
  w : BitVec 128
  anchor : Int
  pending : Int
  nan : Bool
  posInf : Bool
  negInf : Bool
  trunc : Bool
  viol : Bool
  deriving DecidableEq, Repr

/-- An accumulator cleared, both anchors 0 (log 7). -/
def Wacc.clear : Wacc := { w := 0, anchor := 0, pending := 0, nan := false, posInf := false, negInf := false, trunc := false, viol := false }

/-- R98: a START clears W and the side flags and moves the pending anchor into the anchor. DESIGN CHOICE (log 61): it clears the truncation
flag of R72 too. -/
def Wacc.start (a : Wacc) : Wacc := { Wacc.clear with anchor := a.pending, pending := a.pending }

/-- A magnitude n / d in units of 2^q, truncated toward zero, and whether a nonzero bit was lost (R72). -/
def truncAt (q : Int) (n d : Nat) : Nat × Bool :=
  let p := scalePow n d (-q)
  (p.1 / p.2, decide (p.1 % p.2 ≠ 0))

/-- One product entering the accumulator (R72, R73, R98). The count is what it adds to the arithmetic counters, the last
component whether it is the first of the output that met or exceeded 2^A (ANCHOR_VIOLATION). The output counts in ARITH_NAN as the NaN that
its conversion stores (log 16). -/
def Wacc.addProduct (a : Wacc) : Val → Wacc × ArithEv × Bool
  | .nan => ({ a with nan := true }, {}, false)
  | .inf false => ({ a with posInf := true }, {}, false)
  | .inf true => ({ a with negInf := true }, {}, false)
  | .fin neg n d =>
    let top := scalePow d 1 a.anchor
    if n ≠ 0 ∧ top.1 ≤ n * top.2 then ({ a with nan := true, viol := true }, {}, !a.viol)
    else
      let t := truncAt (a.anchor - 107) n d
      ({ a with w := a.w + BitVec.ofInt 128 (signedNum neg t.1), trunc := a.trunc || t.2 },
        { truncProd := if t.2 then 1 else 0 }, false)

/-- The value of an output (R71, R73). -/
def Wacc.value (a : Wacc) : Val :=
  if a.nan || (a.posInf && a.negInf) then .nan
  else if a.posInf then .inf false
  else if a.negInf then .inf true
  else (Val.ofInt a.w.toInt 1).scale2 (a.anchor - 107)

/-! ## Row statistics -/

/-- The row statistic record of Table 04.3. -/
structure StatRec where
  sum : BitVec 128
  sumsq : BitVec 128
  b : Int
  trunc : Bool
  overflow : Bool
  special : Bool
  n : Nat
  deriving DecidableEq, Repr

/-- Table 04.3, bytes to record. -/
def StatRec.ofBytes (bs : List Byte) : StatRec :=
  { sum := BitVec.ofNat 128 (le bs 0 16), sumsq := BitVec.ofNat 128 (le bs 16 16), b := signed 16 (le bs 32 2),
    trunc := bit (le bs 34 2) 0, overflow := bit (le bs 34 2) 1, special := bit (le bs 34 2) 2, n := le bs 36 4 }

/-- Table 04.3, record to its 64 bytes. -/
def StatRec.toBytes (r : StatRec) : List Byte :=
  natLE 16 r.sum.toNat ++ natLE 16 r.sumsq.toNat ++ natLE 2 (unsigned 16 r.b)
    ++ natLE 2 ((if r.trunc then 1 else 0) + (if r.overflow then 2 else 0) + (if r.special then 4 else 0))
    ++ natLE 4 (r.n % 2 ^ 32) ++ List.replicate 24 0

/-- R83: a record zeroed, with B written into it. -/
def StatRec.fresh (b : Int) : StatRec :=
  { sum := 0, sumsq := 0, b := b, trunc := false, overflow := false, special := false, n := 0 }

/-- R82: one stored value entering the record. -/
def StatRec.addValue (r : StatRec) : Val → StatRec × ArithEv
  | .nan => ({ r with special := true }, {})
  | .inf _ => ({ r with special := true }, {})
  | .fin neg n d =>
    let top := scalePow d 1 r.b
    if top.1 < n * top.2 then ({ r with overflow := true }, { statOvf := 1 })
    else
      let t := truncAt (r.b - 107) n d
      let q := truncAt (2 * r.b - 107) (n * n) (d * d)
      ({ r with
          sum := r.sum + BitVec.ofInt 128 (signedNum neg t.1), sumsq := r.sumsq + BitVec.ofNat 128 q.1,
          trunc := r.trunc || t.2 || q.2, n := r.n + 1 },
        { truncStat := (if t.2 then 1 else 0) + (if q.2 then 1 else 0) })

/-- R117: a partial record merged into another; records that disagree in B make the result SPECIAL. -/
def StatRec.merge (r p : StatRec) : StatRec :=
  { r with
      sum := r.sum + p.sum, sumsq := r.sumsq + p.sumsq, n := r.n + p.n, trunc := r.trunc || p.trunc,
      overflow := r.overflow || p.overflow, special := r.special || p.special || decide (r.b ≠ p.b) }

/-- R84: the mean of the record, rounded once to FP32. -/
def StatRec.mean (r : StatRec) : Val :=
  if r.special || r.overflow || decide (r.n = 0) then .nan
  else rne32 ((Val.ofInt r.sum.toInt r.n).scale2 (r.b - 107))

/-- R84: the variance of the record, rounded once to FP32, and whether it was clamped to plus zero. -/
def StatRec.variance (r : StatRec) : Val × Bool :=
  if r.special || r.overflow || decide (r.n = 0) then (.nan, false)
  else
    -- S = SUM * 2^(B-107), Q = SUMSQ * 2^(2B-107); N*Q - S^2 in units of 2^(2B-214)
    let num : Int := (r.n : Int) * r.sumsq.toInt * (2 ^ 107 : Nat) - r.sum.toInt * r.sum.toInt
    if num < 0 then (.zero, true)
    else (rne32 ((Val.ofInt num (r.n * r.n)).scale2 (2 * r.b - 214)), false)

/-- R118: the mean square Q / N, rounded once to FP32. -/
def StatRec.meanSquare (r : StatRec) : Val :=
  if r.special || r.overflow || decide (r.n = 0) then .nan
  else rne32 ((Val.ofInt r.sumsq.toInt r.n).scale2 (2 * r.b - 107))

/-! ## The soft maximum record -/

/-- The soft maximum row record of Table 07.6. -/
structure SmxRec where
  sum : Nat
  k : Int
  n : Nat
  npinf : Nat
  nan : Bool
  clamp : Bool
  deriving DecidableEq, Repr

/-- R134: the record before the first tile. -/
def SmxRec.fresh : SmxRec := { sum := 0, k := -2147483648, n := 0, npinf := 0, nan := false, clamp := false }

/-- Table 07.6, bytes to record. -/
def SmxRec.ofBytes (bs : List Byte) : SmxRec :=
  { sum := le bs 0 16, k := signed 32 (le bs 16 4), n := le bs 20 4, npinf := le bs 24 4, nan := bit (le bs 28 1) 0,
    clamp := bit (le bs 28 1) 1 }

/-- Table 07.6, record to its 32 bytes. -/
def SmxRec.toBytes (r : SmxRec) : List Byte :=
  natLE 16 (r.sum % 2 ^ 128) ++ natLE 4 (unsigned 32 r.k) ++ natLE 4 (r.n % 2 ^ 32) ++ natLE 4 (r.npinf % 2 ^ 32)
    ++ natLE 1 ((if r.nan then 1 else 0) + (if r.clamp then 2 else 0)) ++ List.replicate 3 0

/-- R136, function fold: a tile or a partial record (kt, st) into the record, by exact shifts. -/
def SmxRec.fold (r : SmxRec) (kt : Int) (st : Nat) : SmxRec :=
  if r.k < kt then { r with sum := (r.sum / 2 ^ (min (kt - r.k).toNat 128) + st) % 2 ^ 128, k := kt }
  else { r with sum := (r.sum + st / 2 ^ (min (r.k - kt).toNat 128)) % 2 ^ 128 }

/-- L2E, log2 e in Q8.56 (R135). -/
def l2e : Nat := 0x017154765FE0A3BC

/-- R135: the base-two argument of a finite element as a pair of a signed numerator and a denominator, and whether it was
clamped to the range from -2^30 to 2^30. -/
def smxArg (neg : Bool) (n d : Nat) : Int × Nat × Bool :=
  let num : Int := signedNum neg n * (l2e : Int)
  let den : Nat := d * 2 ^ 56
  let top : Int := 1073741824
  if top * (den : Int) < num then (top, 1, true)
  else if num < -(top * (den : Int)) then (-top, 1, true)
  else (num, den, false)

/-- The ceiling of a signed rational. -/
def ceilQ (n : Int) (d : Nat) : Int := -((-n) / (d : Int))

end Sys2Proof.Machine
end

