-- ==== Sys2Proof/Config.lean ====
section
/-!
DEFINITION. Config.lean: what an implementation fixes and the free values: opaque constants that no proof can evaluate. Each is
applied to what its value may depend on, or to the counter `fresh` of the state where nothing fixes it.
-/
namespace Sys2Proof

open Machine in
/-- exp_acc of R135, 2^(a - k) in FP32 within 0.51 ulp: which of the values within the bound the hardware gives, counted from below (log 14).
The arguments are the exact argument a as a numerator and a denominator, and k. -/
opaque Config.expAcc : Int → Nat → Int → Nat

/-- exp_short of R135, 2^(a - k) in FP32 within 0.75 ulp, likewise. -/
opaque Config.expShort : Int → Nat → Int → Nat

/-- The hardware reciprocal square root of R118 and R132, by the FP32 code of its argument: which of the values within 0.51 ulp it gives,
counted from below (log 14). -/
opaque Config.rsqrt : Nat → Nat

/-- The reduced argument a micro-program's RRED leaves for an argument its definition does not cover: EXPO and EXPO2 of a value
that is not positive and finite, FLOOR and NEAREST of a value that is not finite (R127). Arguments: function number, step
index, input code. -/
opaque Config.openReduce : Nat → Nat → Nat → Int × Nat × Int

/-! ## The placement of logical tensors (log 30): the bond image decides which rows and columns of a logical tensor a word works on,
in no chunk the manual lays out. A place is the section, the core, the word, the iterations of its loops and the number of work
items (`placeOf`). -/

/-- The position among the segment's work items of the one that owns a row (R78, R88, R130, R213); no such position where the row belongs
to no request. Arguments: TENSOR_ID, place, row. -/
opaque Config.rowItem : Nat → List Nat → Nat → Nat
/-- The number of a row among the rows that its request has in the logical tensor in this step (R78). Arguments likewise. -/
opaque Config.itemRow : Nat → List Nat → Nat → Nat
/-- The column of the logical tensor in which the word's tile begins (R78). Arguments: TENSOR_ID, place. -/
opaque Config.tileCol : Nat → List Nat → Nat
/-- The columns of a logical tensor (R78), by TENSOR_ID. -/
opaque Config.tensorCols : Nat → Nat

/-- Where a version of a MODEL holds its stationary tensors (R82): no table lays out a MODEL. By ASSET_ID: for each tensor the TENSOR_ID of
its product, its WFMT code, and the byte offsets of its scale bytes, of its elements for BF16. -/
opaque Config.stationary : Nat → List (Nat × Nat × List Nat)
/-- WB of R82 for a stationary operand that is no tensor of a version, by the TENSOR_ID of the product: the spec states none. -/
opaque Config.weightBound : Nat → Int
/-- The bound of R82 without its headroom, for a row that a vector pass reads and no product of the core stored (log 63). Arguments: TENSOR_ID,
place, row. -/
opaque Config.rowBound : Nat → List Nat → Nat → Int

/-- A value the spec leaves open and nothing fixes: applied to the state's counter `fresh`. -/
opaque Config.free : Nat → Nat

/-- The count of σ that a sum with a NaN among its terms rounds to (R167, R173): the spec states no result. Argument: centroid or
codeword number. -/
opaque Config.nanCount : Nat → Int

/-- Which of several assets of a KIND the image binds to a user (R224, R254, R259, R276): the bond image binds in no chunk the manual lays
out (log 24). Arguments: section KIND of the user, 0 for the module; asset KIND. -/
opaque Config.binding : Nat → Nat → Nat
/-- The pod peer, as a PEER field, that reaches the module of a SHARD_ID (R203, R258): no table names it. -/
opaque Config.shardPeer : Nat → Nat
/-- Entries of the token store's block directory (R252), by the region's size: the spec gives its start and no length. -/
opaque Config.tsBlocks : Nat → Nat
/-- R350 names the target core of a COLL message in its section and no section: the SECTION_ID for a region (log 27). -/
opaque Config.collSection : Nat → Nat

/-! ## What signed objects hold (R57, R402, R403, R409): the manual lays out neither certificates nor asset headers (log 12) -/

/-- The Taltemas image root's public key, fixed in firmware (R403). -/
opaque Config.imageRoot : List Byte
/-- The public key that a DER certificate chain certifies, when it ends at one of the given roots (R41). -/
opaque Config.chainKey : List Byte → List (List Byte) → Option (List Byte)
/-- A field of a signed asset header, whose layout no table gives (R57, R409): 0 ASSET_ID, 1 KIND, 2 version, 3 size, 4 ENC, 5 KEY_ID. -/
opaque Config.headerNat : List Byte → Nat → Nat
/-- SHAPE (0) and DIGEST (1) of a signed asset header. -/
opaque Config.headerBytes : List Byte → Nat → List Byte
/-- Whether an asset header is signed under one of the given roots. -/
opaque Config.headerSigned : List Byte → List (List Byte) → Bool
/-- The SHAPE fingerprint of a version (R56): the input of its SHAKE256 is in no table. Arguments: ASSET_ID, and the bytes of the version
that SHAPE covers. -/
opaque Config.shapeOf : Nat → List Byte → List Byte
/-- Where in a MODEL version its 16-byte calibration record lies (R260), by ASSET_ID: the spec does not say. -/
opaque Config.calOffset : Nat → Nat
/-- Bytes of the engine's random generator, by the state's counter `fresh` (nonces and ephemeral seeds, R404). -/
opaque Config.random : Nat → Nat → List Byte

/-! ## What one module's fuses, flash and meters hold -/

/-- The DER bytes of the device root and the product authority certificates (R402). -/
opaque Config.upperCerts : List Byte
/-- The DER bytes of the device certificate for an identity public key, a KEM encapsulation key and the fuse map's IDENT values (R402): X.509 lays
it out, and the authority signs it. -/
opaque Config.certify : List Byte → List Byte → List Byte → List Byte
/-- The device secret (R401). -/
opaque Config.deviceSecret : List Byte
/-- The fuse map's 128 bytes (R436). -/
opaque Config.fuseBytes : List Byte
/-- A Keystone firmware image of module flash (R434): whether its signature verifies, its version, its digest. -/
opaque Config.firmware : Nat → Bool × Nat × List Byte
/-- Which firmware image flash holds as the active one, and the firmware floor (R434). -/
opaque Config.activeImage : Nat
/-- The firmware floor in flash (R434). -/
opaque Config.firmwareFloor : Nat
/-- Bytes of the module reserve of LPDDR that check 12 counts (R354): the spec gives no size. -/
opaque Config.moduleReserve : Nat
/-- Calibration coefficients O, G, K of a Plinth channel (R424). -/
opaque Config.plinthCal : Nat → Nat × Nat × Int
/-- Digest and version of the Plinth firmware image (Table 19.4). -/
opaque Config.plinthFirmware : Nat × List Byte
/-- The set, modulo their number, of the vocabulary cache that a 64-byte line falls into (R236): the spec gives no index function. -/
opaque Config.cacheSet : Nat → Nat
/-- Where a request's image (0), table keys (1) or tokens (2) stand in the EMBED section's working region (R234, R327), modulo the WORKING regions
and the room in one: no chunk says which region it is, nor the place. Arguments: request key, part. -/
opaque Config.inputPlace : Nat → Nat → Nat × Nat
/-- Bytes 4,672 to 5,119 of a sequence area (R271), whose layout the spec does not give: of the pending bytes and the held characters. -/
opaque Config.tailByte : List Byte → List Byte → Nat → Byte

/-- The bytes that a measured item with no stated encoding is digested over (Table 19.4): the item and its values. -/
opaque Config.itemBytes : Nat → List Nat → List Byte

/-- The bytes of a twin-channel message (R375, R415), by kind and content: no table lays them out. -/
opaque Config.mboxBytes : Nat → List Byte → List Byte
/-- The size of a copied version's body, and the store pages of its page records in the order in which they were staged (R60, R395): ASSET_STATE
names neither. Arguments: ASSET_ID, version, digest. -/
opaque Config.copyLayout : Nat → Nat → List Byte → Nat × List Nat
/-- The rows an open build has touched (R397): BUILD_STATE carries only their number. Arguments: ASSET_ID, base, version, entries. -/
opaque Config.touchedRows : Nat → Nat → Nat → Nat → List Nat
/-- The packed prompt of a generating request that a rejoin hands over (R395): the state message does not carry it. Arguments: REQ_SEQ
and ROLE as a request key, ACCEPT_TIME. -/
opaque Config.rejoinPrompt : Nat → Nat → List Nat

end Sys2Proof
end

