-- ==== Sys2Proof/Machine/Crypt.lean ====
section
/-!
DEFINITION. Machine/Crypt.lean: the other algorithms of Table 19.1 (spec/19_security.md, R400), as their standards define them: AES-256-GCM (FIPS 197,
NIST SP 800-38D), ML-KEM-1024 (FIPS 203) and SLH-DSA-SHAKE-256s (FIPS 205). The standards are no part of the spec: PRESUMED, log 12.
-/
namespace Sys2Proof.Machine

/-! ## AES-256 -/

/-- Twice an element of GF(2^8). -/
def gfDouble (a : Nat) : Nat := if a < 128 then 2 * a else Nat.xor (2 * a) 0x11B

/-- The product in GF(2^8) of `a` and the low `n` bits of `b`. -/
def gfMulBits : Nat → Nat → Nat → Nat
  | 0, _, _ => 0
  | n + 1, a, b => Nat.xor (if b % 2 = 1 then a else 0) (gfMulBits n (gfDouble a) (b / 2))

/-- The product in GF(2^8). -/
def gfMul (a b : Nat) : Nat := gfMulBits 8 a b

/-- The inverse in GF(2^8), 0 for 0: the 254th power. -/
def gfInv (a : Nat) : Nat :=
  let a2 := gfMul a a
  let a4 := gfMul a2 a2
  let a8 := gfMul a4 a4
  let a16 := gfMul a8 a8
  let a32 := gfMul a16 a16
  let a64 := gfMul a32 a32
  gfMul (gfMul (gfMul a2 a4) (gfMul a8 a16)) (gfMul (gfMul a32 a64) (gfMul a64 a64))

/-- A byte rotated left. -/
def rotByte (a n : Nat) : Nat := (a * 2 ^ n + a * 2 ^ n / 256) % 256

/-- The substitution box. -/
def aesSub (a : Nat) : Nat :=
  let i := gfInv a
  Nat.xor (Nat.xor (Nat.xor i (rotByte i 1)) (Nat.xor (rotByte i 2) (rotByte i 3))) (Nat.xor (rotByte i 4) 0x63)

/-- The bytewise exclusive or of two lists. -/
def xorList (a b : List Nat) : List Nat := List.zipWith Nat.xor a b

/-- The round constant of word 8 i. -/
def aesRcon : Nat → Nat
  | 0 => 0
  | 1 => 1
  | n + 2 => gfDouble (aesRcon (n + 1))

/-- The next word of the key schedule after the words `ws`. -/
def aesNextWord (ws : List (List Nat)) : List Nat :=
  let i := ws.length
  let last := ws.getD (i - 1) []
  let t :=
    if i % 8 = 0 then xorList ((last.drop 1 ++ last.take 1).map aesSub) [aesRcon (i / 8), 0, 0, 0]
    else if i % 8 = 4 then last.map aesSub
    else last
  xorList (ws.getD (i - 8) []) t

/-- `n` more words of the key schedule. -/
def aesExpand : Nat → List (List Nat) → List (List Nat)
  | 0, ws => ws
  | n + 1, ws => aesExpand n (ws ++ [aesNextWord ws])

/-- The 60 words of the schedule of a 32-byte key. -/
def aesKeys (key : List Byte) : List (List Nat) :=
  aesExpand 52 ((List.range 8).map fun i => (List.range 4).map fun j => (key.getD (4 * i + j) 0).toNat)

/-- The round key of round `r`. -/
def aesRoundKey (ws : List (List Nat)) (r : Nat) : List Nat := ((ws.drop (4 * r)).take 4).flatten

/-- ShiftRows: byte r + 4 c of the state is row r of column c. -/
def aesShift (s : List Nat) : List Nat := (List.range 16).map fun k => s.getD (k % 4 + 4 * ((k / 4 + k % 4) % 4)) 0

/-- MixColumns. -/
def aesMix (s : List Nat) : List Nat :=
  (List.range 16).map fun k =>
    let at_ (i : Nat) := s.getD (k / 4 * 4 + (k + i) % 4) 0
    Nat.xor (Nat.xor (gfMul 2 (at_ 0)) (gfMul 3 (at_ 1))) (Nat.xor (at_ 2) (at_ 3))

/-- The cipher on a block of 16 bytes. -/
def aesBlock (ws : List (List Nat)) (b : List Nat) : List Nat :=
  let s := (List.range 13).foldl (fun s i => xorList (aesMix (aesShift (s.map aesSub))) (aesRoundKey ws (i + 1))) (xorList b (aesRoundKey ws 0))
  xorList (aesShift (s.map aesSub)) (aesRoundKey ws 14)

/-! ## GCM -/

/-- A byte string as a big-endian number. -/
def beNat (bs : List Byte) : Nat := bs.foldl (fun n b => 256 * n + b.toNat) 0

/-- A number as `n` big-endian bytes. -/
def beBytes (n x : Nat) : List Byte := (natLE n x).reverse

/-- The cipher on a number of 128 bits. -/
def aesNat (ws : List (List Nat)) (x : Nat) : Nat :=
  (aesBlock ws ((beBytes 16 x).map (·.toNat))).foldl (fun n b => 256 * n + b) 0

/-- The product of GCM's field over the bits of `x` from bit `n` - 1 down: bit 127 is the coefficient of 1. -/
def ghashMulBits : Nat → Nat → Nat → Nat → Nat
  | 0, _, _, z => z
  | n + 1, x, v, z =>
    ghashMulBits n x (if v % 2 = 1 then Nat.xor (v / 2) (0xE1 * 2 ^ 120) else v / 2) (if x.testBit n then Nat.xor z v else z)

/-- The product of GCM's field. -/
def ghashMul (x y : Nat) : Nat := ghashMulBits 128 x y 0

/-- The blocks of a byte string as numbers, the last padded with zeros. -/
def gcmBlocks (bs : List Byte) : List Nat :=
  (List.range ((bs.length + 15) / 16)).map fun i => beNat (((bs.drop (16 * i)).take 16 ++ List.replicate 16 0).take 16)

/-- GHASH of additional data and ciphertext. -/
def ghash (h : Nat) (aad ct : List Byte) : Nat :=
  (gcmBlocks aad ++ gcmBlocks ct ++ [8 * aad.length * 2 ^ 64 + 8 * ct.length]).foldl (fun y x => ghashMul (Nat.xor y x) h) 0

/-- A byte string under the key stream from counter block `j` + 1. -/
def gcmStream (ws : List (List Nat)) (nonce bs : List Byte) : List Byte :=
  let block (i : Nat) := beBytes 16 (aesNat ws (beNat nonce * 2 ^ 32 + (2 + i) % 2 ^ 32))
  (List.range ((bs.length + 15) / 16)).flatMap fun i => List.zipWith (· ^^^ ·) ((bs.drop (16 * i)).take 16) (block i)

/-- The tag of a ciphertext. -/
def gcmTag (ws : List (List Nat)) (nonce aad ct : List Byte) : List Byte :=
  beBytes 16 (Nat.xor (ghash (aesNat ws 0) aad ct) (aesNat ws (beNat nonce * 2 ^ 32 + 1)))

/-- AES-256-GCM with a 96-bit nonce: key, nonce, additional data, plaintext; the ciphertext followed by its tag. -/
def gcmSeal (key nonce aad pt : List Byte) : List Byte :=
  let ws := aesKeys key
  let ct := gcmStream ws nonce pt
  ct ++ gcmTag ws nonce aad ct

/-- AES-256-GCM: key, nonce, additional data, ciphertext with its tag; none when the tag fails. -/
def gcmOpen (key nonce aad bs : List Byte) : Option (List Byte) :=
  let ws := aesKeys key
  let ct := bs.take (bs.length - 16)
  if 16 ≤ bs.length ∧ bs.drop (bs.length - 16) = gcmTag ws nonce aad ct then some (gcmStream ws nonce ct) else none

/-! ## ML-KEM-1024: polynomials -/

/-- The modulus of ML-KEM. -/
def kemQ : Nat := 3329

/-- `n` bits of a number reversed. -/
def bitRev : Nat → Nat → Nat
  | 0, _ => 0
  | n + 1, x => x % 2 * 2 ^ n + bitRev n (x / 2)

/-- A power modulo q. -/
def kemPow (b : Nat) : Nat → Nat
  | 0 => 1
  | n + 1 => kemPow b n * b % kemQ

/-- The power of the root of unity that node `i` of the transform takes. -/
def kemZeta (i : Nat) : Nat := kemPow 17 (bitRev 7 i)

/-- The sum of two polynomials. -/
def polyAdd (a b : List Nat) : List Nat := List.zipWith (fun x y => (x + y) % kemQ) a b

/-- The difference of two polynomials. -/
def polySub (a b : List Nat) : List Nat := List.zipWith (fun x y => (x + kemQ - y) % kemQ) a b

/-- A polynomial times a number. -/
def polyScale (c : Nat) (a : List Nat) : List Nat := a.map fun x => c * x % kemQ

/-- The number-theoretic transform of a block at node `i`, over `d` layers. -/
def nttAt : Nat → Nat → List Nat → List Nat
  | 0, _, f => f
  | d + 1, i, f =>
    let h := 2 ^ (d + 1)
    let t := polyScale (kemZeta i) (f.drop h)
    nttAt d (2 * i) (polyAdd (f.take h) t) ++ nttAt d (2 * i + 1) (polySub (f.take h) t)

/-- NTT of FIPS 203. -/
def kemNtt (f : List Nat) : List Nat := nttAt 7 1 f

/-- The inverse transform of a block at node `i`, over `d` layers; `m` is the node that mirrors it within its layer. -/
def inttAt : Nat → Nat → List Nat → List Nat
  | 0, _, f => f
  | d + 1, m, f =>
    let h := 2 ^ (d + 1)
    let a := inttAt d (2 * m + 1) (f.take h)
    let b := inttAt d (2 * m) (f.drop h)
    polyAdd a b ++ polyScale (kemZeta m) (polySub b a)

/-- Inverse NTT of FIPS 203. -/
def kemIntt (f : List Nat) : List Nat := polyScale 3303 (inttAt 7 1 f)

/-- The product of two transforms. -/
def kemMul (a b : List Nat) : List Nat :=
  (List.range 128).flatMap fun i =>
    let x0 := a.getD (2 * i) 0
    let x1 := a.getD (2 * i + 1) 0
    let y0 := b.getD (2 * i) 0
    let y1 := b.getD (2 * i + 1) 0
    [(x0 * y0 + x1 * y1 % kemQ * kemPow 17 (2 * bitRev 7 i + 1)) % kemQ, (x0 * y1 + x1 * y0) % kemQ]

/-- The scalar product of two vectors of transforms. -/
def kemDot (a b : List (List Nat)) : List Nat := (List.zipWith kemMul a b).foldl polyAdd (List.replicate 256 0)

/-- ByteEncode_d. -/
def kemEncode (d : Nat) (f : List Nat) : List Byte := natLE (32 * d) (f.foldr (fun x n => n * 2 ^ d + x % 2 ^ d) 0)

/-- ByteDecode_d. -/
def kemDecode (d : Nat) (bs : List Byte) : List Nat :=
  let n := leNat bs
  (List.range 256).map fun i => n / 2 ^ (d * i) % 2 ^ d % (if d = 12 then kemQ else 2 ^ d)

/-- Compress_d. -/
def kemCompress (d : Nat) (f : List Nat) : List Nat := f.map fun x => (x * 2 ^ (d + 1) + kemQ) / (2 * kemQ) % 2 ^ d

/-- Decompress_d. -/
def kemDecompress (d : Nat) (f : List Nat) : List Nat := f.map fun y => (2 * kemQ * y + 2 ^ d) / 2 ^ (d + 1)

/-- The coefficients below q among the 12-bit pairs of a byte string. -/
def kemReject : List Byte → List Nat
  | a :: b :: c :: r =>
    let x := a.toNat + 256 * (b.toNat % 16)
    let y := b.toNat / 16 + 16 * c.toNat
    (if x < kemQ then [x] else []) ++ (if y < kemQ then [y] else []) ++ kemReject r
  | _ => []

/-- SampleNTT, over the 280 rounds that FIPS 203 allows an implementation to stop at. -/
def kemSample (b : List Byte) : List Nat := (kemReject (sponge 168 0x1F b 840)).take 256

/-- SamplePolyCBD of η = 2 over 128 bytes. -/
def kemCbd (b : List Byte) : List Nat :=
  let n := leNat b
  let bit_ (i : Nat) := n / 2 ^ i % 2
  (List.range 256).map fun i => (bit_ (4 * i) + bit_ (4 * i + 1) + kemQ - bit_ (4 * i + 2) - bit_ (4 * i + 3)) % kemQ

/-- Noise polynomial `n` of a seed. -/
def kemNoise (seed : List Byte) (n : Nat) : List Nat := kemCbd (shake256 (seed ++ natLE 1 n) 128)

/-- Entry (i, j) of the matrix of a seed. -/
def kemEntry (rho : List Byte) (i j : Nat) : List Nat := kemSample (rho ++ natLE 1 j ++ natLE 1 i)

/-- Four of something. -/
def four {α : Type} (f : Nat → α) : List α := (List.range 4).map f

/-- A byte string cut into pieces of `n` bytes. -/
def pieces (n : Nat) (k : Nat) (bs : List Byte) : List (List Byte) := (List.range k).map fun i => (bs.drop (n * i)).take n

/-! ## ML-KEM-1024: keys, encapsulation, decapsulation -/

/-- K-PKE.KeyGen from the seed d: encryption key and decryption key. -/
def kpkeKeys (d : List Byte) : List Byte × List Byte :=
  let g := sponge 72 0x06 (d ++ [4]) 64
  let rho := g.take 32
  let sigma := g.drop 32
  let s := four fun i => kemNtt (kemNoise sigma i)
  let e := four fun i => kemNtt (kemNoise sigma (4 + i))
  let t := four fun i => polyAdd (kemDot (four fun j => kemEntry rho i j) s) (e.getD i [])
  (t.flatMap (kemEncode 12) ++ rho, s.flatMap (kemEncode 12))

/-- K-PKE.Encrypt. -/
def kpkeEncrypt (ek m r : List Byte) : List Byte :=
  let t := (pieces 384 4 ek).map (kemDecode 12)
  let rho := (ek.drop 1536).take 32
  let y := four fun i => kemNtt (kemNoise r i)
  let u := four fun i => polyAdd (kemIntt (kemDot (four fun j => kemEntry rho j i) y)) (kemNoise r (4 + i))
  let v := polyAdd (polyAdd (kemIntt (kemDot t y)) (kemNoise r 8)) (kemDecompress 1 (kemDecode 1 m))
  u.flatMap (fun f => kemEncode 11 (kemCompress 11 f)) ++ kemEncode 5 (kemCompress 5 v)

/-- K-PKE.Decrypt. -/
def kpkeDecrypt (dk c : List Byte) : List Byte :=
  let u := (pieces 352 4 c).map fun b => kemNtt (kemDecompress 11 (kemDecode 11 b))
  let v := kemDecompress 5 (kemDecode 5 ((c.drop 1408).take 160))
  let s := (pieces 384 4 dk).map (kemDecode 12)
  kemEncode 1 (kemCompress 1 (polySub v (kemIntt (kemDot s u))))

/-- The encapsulation key of the ML-KEM-1024 pair generated from a seed of 64 bytes. -/
def kemPublic (seed : List Byte) : List Byte := (kpkeKeys (seed.take 32)).1

/-- ML-KEM-1024 encapsulation to a key with 32 random bytes: ciphertext and shared secret. -/
def kemEncap (ek m : List Byte) : List Byte × List Byte :=
  let g := sponge 72 0x06 (m ++ sponge 136 0x06 ek 32) 64
  (kpkeEncrypt ek m (g.drop 32), g.take 32)

/-- ML-KEM-1024 decapsulation under the pair generated from a seed of 64 bytes. -/
def kemDecap (seed ct : List Byte) : List Byte :=
  let k := kpkeKeys (seed.take 32)
  let m := kpkeDecrypt k.2 ct
  let g := sponge 72 0x06 (m ++ sponge 136 0x06 k.1 32) 64
  if kpkeEncrypt k.1 m (g.drop 32) = ct then g.take 32 else shake256 (seed.drop 32 ++ ct) 32

/-! ## SLH-DSA-SHAKE-256s: addresses and hashes -/

/-- An address of FIPS 205: layer, tree, type, key pair; chain or tree height; hash or tree index. -/
structure Adrs where
  layer : Nat
  tree : Nat
  kind : Nat
  pair : Nat
  chain : Nat
  hash : Nat
  deriving DecidableEq, Repr

/-- The 32 bytes of an address. -/
def Adrs.bytes (a : Adrs) : List Byte :=
  beBytes 4 a.layer ++ beBytes 12 a.tree ++ beBytes 4 a.kind ++ beBytes 4 a.pair ++ beBytes 4 a.chain ++ beBytes 4 a.hash

/-- F, H and T of FIPS 205: 32 bytes from the public seed, an address and a message. -/
def slhHash (seed : List Byte) (a : Adrs) (m : List Byte) : List Byte := shake256 (seed ++ a.bytes ++ m) 32

/-- The digits of `w` bits of a byte string, the most significant first. -/
def slhDigits (w n : Nat) (bs : List Byte) : List Nat :=
  let x := beNat bs
  (List.range n).map fun i => x / 2 ^ (8 * bs.length - w * (i + 1)) % 2 ^ w

/-! ## WOTS+ -/

/-- `n` steps of a chain from step `i`. -/
def wotsChain (seed : List Byte) (a : Adrs) : Nat → Nat → List Byte → List Byte
  | 0, _, x => x
  | n + 1, i, x => wotsChain seed a n (i + 1) (slhHash seed { a with hash := i } x)

/-- The 67 digits that sign a message of 32 bytes: 64 of it and 3 of its checksum. -/
def wotsDigits (m : List Byte) : List Nat :=
  let d := slhDigits 4 64 m
  d ++ slhDigits 4 3 (beBytes 2 (16 * d.foldl (fun n x => n + (15 - x)) 0))

/-- The secret of chain `i`. -/
def wotsSecret (sk seed : List Byte) (a : Adrs) (i : Nat) : List Byte :=
  slhHash seed { a with kind := 5, chain := i, hash := 0 } sk

/-- The public key that the ends of the 67 chains give. -/
def wotsKey (seed : List Byte) (a : Adrs) (ends : List (List Byte)) : List Byte :=
  slhHash seed { a with kind := 1, chain := 0, hash := 0 } ends.flatten

/-- wots_pkGen. -/
def wotsPublic (sk seed : List Byte) (a : Adrs) : List Byte :=
  wotsKey seed a ((List.range 67).map fun i => wotsChain seed { a with chain := i } 15 0 (wotsSecret sk seed a i))

/-- wots_sign. -/
def wotsSign (sk seed : List Byte) (a : Adrs) (m : List Byte) : List (List Byte) :=
  let d := wotsDigits m
  (List.range 67).map fun i => wotsChain seed { a with chain := i } (d.getD i 0) 0 (wotsSecret sk seed a i)

/-- wots_pkFromSig. -/
def wotsFromSig (seed : List Byte) (a : Adrs) (sig : List (List Byte)) (m : List Byte) : List Byte :=
  let d := wotsDigits m
  wotsKey seed a ((List.range 67).map fun i => wotsChain seed { a with chain := i } (15 - d.getD i 0) (d.getD i 0) (sig.getD i []))

/-! ## Trees -/

/-- A node of a binary tree at height `z` and index `i` over leaves, each inner node hashed at its own height and index. -/
def treeNode (node : Nat → Nat → List Byte → List Byte) (leaf : Nat → List Byte) : Nat → Nat → List Byte
  | 0, i => leaf i
  | z + 1, i => node (z + 1) i (treeNode node leaf z (2 * i) ++ treeNode node leaf z (2 * i + 1))

/-- The authentication path of leaf `i`, `h` nodes from the leaves up. -/
def authPath (node : Nat → Nat → List Byte → List Byte) (leaf : Nat → List Byte) (h i : Nat) : List (List Byte) :=
  (List.range h).map fun j => treeNode node leaf j (Nat.xor (i / 2 ^ j) 1)

/-- The root that leaf `i` and its authentication path give, from height `k` on. -/
def climb (node : Nat → Nat → List Byte → List Byte) : List (List Byte) → Nat → Nat → List Byte → List Byte
  | [], _, _, x => x
  | p :: ps, k, i, x => climb node ps (k + 1) (i / 2) (node (k + 1) (i / 2) (if i % 2 = 0 then x ++ p else p ++ x))

/-- The inner nodes of an XMSS tree at a layer and tree address. -/
def xmssHash (seed : List Byte) (layer tree : Nat) (z i : Nat) (x : List Byte) : List Byte :=
  slhHash seed { layer := layer, tree := tree, kind := 2, pair := 0, chain := z, hash := i } x

/-- The address of a WOTS+ key pair. -/
def wotsAdrs (layer tree i : Nat) : Adrs := { layer := layer, tree := tree, kind := 0, pair := i, chain := 0, hash := 0 }

/-- The leaves of an XMSS tree. -/
def xmssLeaf (sk seed : List Byte) (layer tree i : Nat) : List Byte := wotsPublic sk seed (wotsAdrs layer tree i)

/-- xmss_sign: the WOTS+ signature and the authentication path, 75 values. -/
def xmssSign (sk seed : List Byte) (layer tree i : Nat) (m : List Byte) : List (List Byte) :=
  wotsSign sk seed (wotsAdrs layer tree i) m ++ authPath (xmssHash seed layer tree) (xmssLeaf sk seed layer tree) 8 i

/-- xmss_pkFromSig. -/
def xmssFromSig (seed : List Byte) (layer tree i : Nat) (sig : List (List Byte)) (m : List Byte) : List Byte :=
  climb (xmssHash seed layer tree) (sig.drop 67) 0 i (wotsFromSig seed (wotsAdrs layer tree i) (sig.take 67) m)

/-- ht_sign from layer `j` on, `n` layers. -/
def htSign (sk seed : List Byte) : Nat → Nat → Nat → Nat → List Byte → List (List Byte)
  | 0, _, _, _, _ => []
  | n + 1, j, tree, leaf, m =>
    let sig := xmssSign sk seed j tree leaf m
    sig ++ htSign sk seed n (j + 1) (tree / 256) (tree % 256) (xmssFromSig seed j tree leaf sig m)

/-- The root that a hypertree signature gives, from layer `j` on, `n` layers. -/
def htRoot (seed : List Byte) : Nat → Nat → Nat → Nat → List (List Byte) → List Byte → List Byte
  | 0, _, _, _, _, m => m
  | n + 1, j, tree, leaf, sig, m =>
    htRoot seed n (j + 1) (tree / 256) (tree % 256) (sig.drop 75) (xmssFromSig seed j tree leaf (sig.take 75) m)

/-! ## FORS -/

/-- The inner nodes of the FORS trees of a key pair. -/
def forsHash (seed : List Byte) (tree pair : Nat) (z i : Nat) (x : List Byte) : List Byte :=
  slhHash seed { layer := 0, tree := tree, kind := 3, pair := pair, chain := z, hash := i } x

/-- fors_skGen. -/
def forsSecret (sk seed : List Byte) (tree pair i : Nat) : List Byte :=
  slhHash seed { layer := 0, tree := tree, kind := 6, pair := pair, chain := 0, hash := i } sk

/-- fors_sign: for each of the 22 trees a secret and its path of 14 nodes. -/
def forsSign (sk seed : List Byte) (tree pair : Nat) (md : List Byte) : List (List Byte) :=
  let d := slhDigits 14 22 md
  (List.range 22).flatMap fun k =>
    let i := k * 2 ^ 14 + d.getD k 0
    forsSecret sk seed tree pair i
      :: authPath (forsHash seed tree pair) (fun x => forsHash seed tree pair 0 x (forsSecret sk seed tree pair x)) 14 i

/-- fors_pkFromSig. -/
def forsFromSig (seed : List Byte) (tree pair : Nat) (sig : List (List Byte)) (md : List Byte) : List Byte :=
  let d := slhDigits 14 22 md
  slhHash seed { layer := 0, tree := tree, kind := 4, pair := pair, chain := 0, hash := 0 }
    ((List.range 22).flatMap fun k =>
      let i := k * 2 ^ 14 + d.getD k 0
      let s := (sig.drop (15 * k)).take 15
      climb (forsHash seed tree pair) (s.drop 1) 0 i (forsHash seed tree pair 0 i (s.headD [])))

/-! ## SLH-DSA -/

/-- The public key, 64 bytes, of the pair generated from 96 bytes: SK.seed, SK.prf, PK.seed. -/
def slhPublic (seeds : List Byte) : List Byte :=
  let sk := seeds.take 32
  let seed := (seeds.drop 64).take 32
  seed ++ treeNode (xmssHash seed 7 0) (xmssLeaf sk seed 7 0) 8 0

/-- The message of the pure form with an empty context. -/
def slhMessage (m : List Byte) : List Byte := [0, 0] ++ m

/-- What a message's digest selects: the FORS digest, the tree and the leaf. -/
def slhSelect (r seed root m : List Byte) : List Byte × Nat × Nat :=
  let d := shake256 (r ++ seed ++ root ++ slhMessage m) 47
  (d.take 39, beNat ((d.drop 39).take 7) % 2 ^ 56, beNat (d.drop 46) % 256)

/-- The signature, 29,792 bytes, over a message by the pair generated from 96 bytes, with 32 random bytes. -/
def slhSign (seeds random m : List Byte) : List Byte :=
  let sk := seeds.take 32
  let seed := (seeds.drop 64).take 32
  let root := (slhPublic seeds).drop 32
  let r := shake256 ((seeds.drop 32).take 32 ++ random ++ slhMessage m) 32
  let x := slhSelect r seed root m
  let f := forsSign sk seed x.2.1 x.2.2 x.1
  r ++ f.flatten ++ (htSign sk seed 8 0 x.2.1 x.2.2 (forsFromSig seed x.2.1 x.2.2 f x.1)).flatten

/-- SLH-DSA-SHAKE-256s verification: public key, message, signature. -/
def slhVerify (key m sig : List Byte) : Bool :=
  let seed := key.take 32
  let root := key.drop 32
  let v := pieces 32 931 sig
  let x := slhSelect (v.headD []) seed root m
  decide (key.length = 64) && decide (sig.length = 29792)
    && decide (htRoot seed 8 0 x.2.1 x.2.2 (v.drop 331) (forsFromSig seed x.2.1 x.2.2 ((v.drop 1).take 330) x.1) = root)

end Sys2Proof.Machine
end

