-- ==== Sys2Proof/Machine/Identity.lean ====
section
/-!
DEFINITION. Machine/Identity.lean: the keys that the engine derives from the device secret, and the device certificate (spec/19_security.md, R401, R402).
-/
namespace Sys2Proof.Machine

/-- What the device secret gives (R401): the seeds of the identity and KEM key pairs, and the flash storage key. -/
structure DeviceKeys where
  identity : List Byte
  kem : List Byte
  storage : List Byte
  deriving DecidableEq, Repr

/-- The keys of this module. -/
def deviceKeys : DeviceKeys :=
  { identity := kdf "OPF-DIK" Config.deviceSecret 96, kem := kdf "OPF-DKEM" Config.deviceSecret 64, storage := kdf "OPF-FSK" Config.deviceSecret 32 }

/-- The device certificate's DER bytes: it binds the identity public key, the KEM encapsulation key and the IDENT values, which follow from the
fuse map (R402, R436). -/
def deviceCert : List Byte :=
  Config.certify (slhPublic deviceKeys.identity) (kemPublic deviceKeys.kem) (Config.fuseBytes.take 80)

/-- The chain of R402: device root, product authority, device certificate. -/
def certChain : List Byte := Config.upperCerts ++ deviceCert

/-- DEVICE_ID: the first 64 bits of SHAKE256 over the device certificate (R402). -/
def deviceId : Nat := leNat (shake256 deviceCert 8)

end Sys2Proof.Machine
end

