-- ==== Sys2Proof/Machine/Regs.lean ====
section
/-!
DEFINITION. Machine/Regs.lean: the BAR0 register map: the offset, access code, reset value and writable bits of every register of
the manual's register tables (spec/00_scope.md to spec/22_monitoring.md), the access codes of Table 00.5 (R9), and the
blocks' interrupt bits (R459) and RC counters in ascending offset (Table 22.5).
-/
namespace Sys2Proof.Machine

/-- The access codes of Table 00.5 that a register carries; `lk` is RW/LK, `w1c` is W1C/ST, `roSt` is RO/ST. -/
inductive Acc where
  | ro | rc | rw | w1c | lk | roSt | wo
  deriving DecidableEq, Repr

/-- A row of a register table. The register (or array of registers) begins at `base + i * s1 + j * s2` for `i < n1`, `j < n2`,
and is `words` 32-bit words long; `mask` holds the bits a write reaches, `reset` the reset value of the whole register. -/
structure RegRow where
  base : Nat
  words : Nat
  s1 : Nat
  n1 : Nat
  s2 : Nat
  n2 : Nat
  acc : Acc
  reset : Nat
  mask : Nat
  deriving DecidableEq, Repr

/-! ## Offsets -/

/-- Offset of IDENT_VENDOR. -/
def Reg.IDENT_VENDOR : Nat := 0x0
/-- Offset of IDENT_PART. -/
def Reg.IDENT_PART : Nat := 0x4
/-- Offset of IDENT_SILICON. -/
def Reg.IDENT_SILICON : Nat := 0x8
/-- Offset of IDENT_ARCH. -/
def Reg.IDENT_ARCH : Nat := 0xC
/-- Offset of IDENT_DIES. -/
def Reg.IDENT_DIES : Nat := 0x10
/-- Offset of IDENT_GROUPS. -/
def Reg.IDENT_GROUPS : Nat := 0x14
/-- Offset of IDENT_CORES. -/
def Reg.IDENT_CORES : Nat := 0x18
/-- Offset of IDENT_ARRAYS. -/
def Reg.IDENT_ARRAYS : Nat := 0x1C
/-- Offset of IDENT_SCRATCH. -/
def Reg.IDENT_SCRATCH : Nat := 0x20
/-- Offset of IDENT_MEMDEV. -/
def Reg.IDENT_MEMDEV : Nat := 0x24
/-- Offset of IDENT_HOSTLANES. -/
def Reg.IDENT_HOSTLANES : Nat := 0x28
/-- Offset of IDENT_PODPORTS. -/
def Reg.IDENT_PODPORTS : Nat := 0x2C
/-- Offset of IDENT_TWIN. -/
def Reg.IDENT_TWIN : Nat := 0x30
/-- Offset of IDENT_VARIANT. -/
def Reg.IDENT_VARIANT : Nat := 0x34
/-- Offset of BEAT_NOW. -/
def Reg.BEAT_NOW : Nat := 0x10000
/-- Offset of BEAT_STATUS. -/
def Reg.BEAT_STATUS : Nat := 0x10008
/-- Offset of BEAT_CTRL. -/
def Reg.BEAT_CTRL : Nat := 0x1000C
/-- Offset of BEAT_MEASURE_N. -/
def Reg.BEAT_MEASURE_N : Nat := 0x10010
/-- Offset of BEAT_MEASURE_OBS. -/
def Reg.BEAT_MEASURE_OBS : Nat := 0x10014
/-- Offset of BEAT_FREQ. -/
def Reg.BEAT_FREQ : Nat := 0x10018
/-- Offset of BEAT_RATIO. -/
def Reg.BEAT_RATIO : Nat := 0x10020
/-- Offset of BEAT_HOLD_START. -/
def Reg.BEAT_HOLD_START : Nat := 0x10028
/-- Offset of BEAT_OFFSET. -/
def Reg.BEAT_OFFSET : Nat := 0x10030
/-- Offset of BEAT_SLEW_MAX. -/
def Reg.BEAT_SLEW_MAX : Nat := 0x10034
/-- Offset of BEAT_TC_LAST. -/
def Reg.BEAT_TC_LAST : Nat := 0x10038
/-- Offset of BEAT_CNT_TC_BAD. -/
def Reg.BEAT_CNT_TC_BAD : Nat := 0x10040
/-- Offset of BEAT_CNT_TC_MISMATCH. -/
def Reg.BEAT_CNT_TC_MISMATCH : Nat := 0x10044
/-- Offset of BEAT_CNT_MEAS_SLIP. -/
def Reg.BEAT_CNT_MEAS_SLIP : Nat := 0x10048
/-- Offset of BEAT_CNT_HOLDOVER. -/
def Reg.BEAT_CNT_HOLDOVER : Nat := 0x1004C
/-- Offset of BEAT_INT_STATUS. -/
def Reg.BEAT_INT_STATUS : Nat := 0x10050
/-- Offset of BEAT_INT_ENABLE. -/
def Reg.BEAT_INT_ENABLE : Nat := 0x10054
/-- Offset of BOND_STATUS. -/
def Reg.BOND_STATUS : Nat := 0x20000
/-- Offset of BOND_CTRL. -/
def Reg.BOND_CTRL : Nat := 0x20004
/-- Offset of BOND_SRC. -/
def Reg.BOND_SRC : Nat := 0x20008
/-- Offset of BOND_SRC_OFFSET. -/
def Reg.BOND_SRC_OFFSET : Nat := 0x20010
/-- Offset of BOND_SRC_LEN. -/
def Reg.BOND_SRC_LEN : Nat := 0x20018
/-- Offset of BOND_REASON. -/
def Reg.BOND_REASON : Nat := 0x20020
/-- Offset of BOND_IMAGE_ID. -/
def Reg.BOND_IMAGE_ID : Nat := 0x20028
/-- Offset of BOND_IMAGE_VER. -/
def Reg.BOND_IMAGE_VER : Nat := 0x20030
/-- Offset of BOND_L. -/
def Reg.BOND_L : Nat := 0x20034
/-- Offset of BOND_SEAL_TIME. -/
def Reg.BOND_SEAL_TIME : Nat := 0x20038
/-- Offset of BOND_DIGEST. -/
def Reg.BOND_DIGEST : Nat := 0x20040
/-- Offset of BOND_SWITCH_LEAD. -/
def Reg.BOND_SWITCH_LEAD : Nat := 0x20080
/-- Offset of SW_ASSET. -/
def Reg.SW_ASSET : Nat := 0x20090
/-- Offset of SW_VERSION. -/
def Reg.SW_VERSION : Nat := 0x20094
/-- Offset of SW_AT. -/
def Reg.SW_AT : Nat := 0x20098
/-- Offset of SW_CMD. -/
def Reg.SW_CMD : Nat := 0x200A0
/-- Offset of SW_RESULT. -/
def Reg.SW_RESULT : Nat := 0x200A4
/-- Offset of BOND_CNT_OVERRUN. -/
def Reg.BOND_CNT_OVERRUN : Nat := 0x200A8
/-- Offset of BOND_INT_STATUS. -/
def Reg.BOND_INT_STATUS : Nat := 0x200AC
/-- Offset of BOND_INT_ENABLE. -/
def Reg.BOND_INT_ENABLE : Nat := 0x200B0
/-- Offset of STG_ASSET. -/
def Reg.STG_ASSET : Nat := 0x200C0
/-- Offset of STG_CMD. -/
def Reg.STG_CMD : Nat := 0x200C4
/-- Offset of STG_RESULT. -/
def Reg.STG_RESULT : Nat := 0x200C8
/-- Offset of STG_OFFSET. -/
def Reg.STG_OFFSET : Nat := 0x200D0
/-- Offset of STG_LEN. -/
def Reg.STG_LEN : Nat := 0x200D8
/-- Offset of STG_DONE. -/
def Reg.STG_DONE : Nat := 0x200E0
/-- Offset of SEC_INFO of window or element `i`. -/
def Reg.SEC_INFO (i : Nat) : Nat := 0x21000 + 0x20 * i
/-- Offset of SW_SLOT of window or element `i`. -/
def Reg.SW_SLOT (i : Nat) : Nat := 0x22000 + 0x10 * i
/-- Offset of ASSET_INFO of window or element `i`. -/
def Reg.ASSET_INFO (i : Nat) : Nat := 0x24000 + 0x10 * i
/-- Offset of ARITH_TRUNC_PROD of window or element `i`. -/
def Reg.ARITH_TRUNC_PROD (i : Nat) : Nat := 0x488000 + 0x40 * i
/-- Offset of ARITH_TRUNC_STAT of window or element `i`. -/
def Reg.ARITH_TRUNC_STAT (i : Nat) : Nat := 0x488008 + 0x40 * i
/-- Offset of ARITH_SAT of window or element `i`. -/
def Reg.ARITH_SAT (i : Nat) : Nat := 0x488010 + 0x40 * i
/-- Offset of ARITH_OVF of window or element `i`. -/
def Reg.ARITH_OVF (i : Nat) : Nat := 0x488018 + 0x40 * i
/-- Offset of ARITH_NAN of window or element `i`. -/
def Reg.ARITH_NAN (i : Nat) : Nat := 0x488020 + 0x40 * i
/-- Offset of ARITH_STAT_CLAMP of window or element `i`. -/
def Reg.ARITH_STAT_CLAMP (i : Nat) : Nat := 0x488028 + 0x40 * i
/-- Offset of ARITH_FLAGS of window or element `i`. -/
def Reg.ARITH_FLAGS (i : Nat) : Nat := 0x488030 + 0x40 * i
/-- Offset of SEARCH_SEL. -/
def Reg.SEARCH_SEL : Nat := 0x80000
/-- Offset of SEARCH_VER. -/
def Reg.SEARCH_VER : Nat := 0x80004
/-- Offset of SEARCH_SHAPE. -/
def Reg.SEARCH_SHAPE : Nat := 0x80008
/-- Offset of SEARCH_CENTROIDS. -/
def Reg.SEARCH_CENTROIDS : Nat := 0x8000C
/-- Offset of SEARCH_PASSAGES. -/
def Reg.SEARCH_PASSAGES : Nat := 0x80010
/-- Offset of SEARCH_SHARD. -/
def Reg.SEARCH_SHARD : Nat := 0x80014
/-- Offset of SEARCH_SCORE_KEY. -/
def Reg.SEARCH_SCORE_KEY : Nat := 0x80018
/-- Offset of SEARCH_STORE_PAGES. -/
def Reg.SEARCH_STORE_PAGES : Nat := 0x80020
/-- Offset of SEARCH_STORE_FREE. -/
def Reg.SEARCH_STORE_FREE : Nat := 0x80024
/-- Offset of SEARCH_FILTERS. -/
def Reg.SEARCH_FILTERS : Nat := 0x80028
/-- Offset of SEARCH_CNT_DEAD_EDGE. -/
def Reg.SEARCH_CNT_DEAD_EDGE : Nat := 0x80040
/-- Offset of SEARCH_CNT_PROBE_SHORT. -/
def Reg.SEARCH_CNT_PROBE_SHORT : Nat := 0x80044
/-- Offset of SEARCH_CNT_ROUND2. -/
def Reg.SEARCH_CNT_ROUND2 : Nat := 0x80048
/-- Offset of SEARCH_CNT_FILTER_SHORT. -/
def Reg.SEARCH_CNT_FILTER_SHORT : Nat := 0x8004C
/-- Offset of SEARCH_CNT_SCORE_SAT. -/
def Reg.SEARCH_CNT_SCORE_SAT : Nat := 0x80050
/-- Offset of SEARCH_CNT_SEG_BAD. -/
def Reg.SEARCH_CNT_SEG_BAD : Nat := 0x80054
/-- Offset of SEARCH_CNT_DUP. -/
def Reg.SEARCH_CNT_DUP : Nat := 0x80058
/-- Offset of SEARCH_CNT_STORE_FULL. -/
def Reg.SEARCH_CNT_STORE_FULL : Nat := 0x8005C
/-- Offset of SEARCH_INT_STATUS. -/
def Reg.SEARCH_INT_STATUS : Nat := 0x80060
/-- Offset of SEARCH_INT_ENABLE. -/
def Reg.SEARCH_INT_ENABLE : Nat := 0x80064
/-- Offset of SELECT_UNITS. -/
def Reg.SELECT_UNITS : Nat := 0x90000
/-- Offset of SELECT_POD_WAIT. -/
def Reg.SELECT_POD_WAIT : Nat := 0x90004
/-- Offset of SELECT_SHARD. -/
def Reg.SELECT_SHARD : Nat := 0x90008
/-- Offset of SEL_CNT_DISPLACED. -/
def Reg.SEL_CNT_DISPLACED : Nat := 0x90040
/-- Offset of SEL_CNT_NAN. -/
def Reg.SEL_CNT_NAN : Nat := 0x90044
/-- Offset of SEL_CNT_TIE_AT_K. -/
def Reg.SEL_CNT_TIE_AT_K : Nat := 0x90048
/-- Offset of SEL_CNT_SHARD_LATE. -/
def Reg.SEL_CNT_SHARD_LATE : Nat := 0x9004C
/-- Offset of SEL_CNT_KEY_MISMATCH. -/
def Reg.SEL_CNT_KEY_MISMATCH : Nat := 0x90050
/-- Offset of SEL_CNT_SHARD_DUP. -/
def Reg.SEL_CNT_SHARD_DUP : Nat := 0x90054
/-- Offset of SEL_CNT_DUP_UNIQUE. -/
def Reg.SEL_CNT_DUP_UNIQUE : Nat := 0x90058
/-- Offset of SEL_CNT_SHORT. -/
def Reg.SEL_CNT_SHORT : Nat := 0x9005C
/-- Offset of SEL_INT_STATUS. -/
def Reg.SEL_INT_STATUS : Nat := 0x90060
/-- Offset of SEL_INT_ENABLE. -/
def Reg.SEL_INT_ENABLE : Nat := 0x90064
/-- Offset of TAB_ASSET. -/
def Reg.TAB_ASSET : Nat := 0xA0000
/-- Offset of TAB_BASE_VER. -/
def Reg.TAB_BASE_VER : Nat := 0xA0004
/-- Offset of TAB_NEW_VER. -/
def Reg.TAB_NEW_VER : Nat := 0xA0008
/-- Offset of TAB_UPD_OFFSET. -/
def Reg.TAB_UPD_OFFSET : Nat := 0xA0010
/-- Offset of TAB_UPD_LEN. -/
def Reg.TAB_UPD_LEN : Nat := 0xA0018
/-- Offset of TAB_CMD. -/
def Reg.TAB_CMD : Nat := 0xA0020
/-- Offset of TAB_RESULT. -/
def Reg.TAB_RESULT : Nat := 0xA0024
/-- Offset of TAB_PROGRESS. -/
def Reg.TAB_PROGRESS : Nat := 0xA0028
/-- Offset of TAB_DIGEST. -/
def Reg.TAB_DIGEST : Nat := 0xA0030
/-- Offset of TAB_CNT_OOR. -/
def Reg.TAB_CNT_OOR : Nat := 0xA0038
/-- Offset of TAB_CNT_ROWS. -/
def Reg.TAB_CNT_ROWS : Nat := 0xA003C
/-- Offset of TAB_CNT_PAGES. -/
def Reg.TAB_CNT_PAGES : Nat := 0xA0040
/-- Offset of TAB_CNT_REFUSED. -/
def Reg.TAB_CNT_REFUSED : Nat := 0xA0044
/-- Offset of TAB_INT_STATUS. -/
def Reg.TAB_INT_STATUS : Nat := 0xA0048
/-- Offset of TAB_INT_ENABLE. -/
def Reg.TAB_INT_ENABLE : Nat := 0xA004C
/-- Offset of TEXT_STATUS. -/
def Reg.TEXT_STATUS : Nat := 0xB0000
/-- Offset of TEXT_PIN_SIZE. -/
def Reg.TEXT_PIN_SIZE : Nat := 0xB0004
/-- Offset of TEXT_PIN_USED. -/
def Reg.TEXT_PIN_USED : Nat := 0xB0008
/-- Offset of TEXT_MISS_MAX. -/
def Reg.TEXT_MISS_MAX : Nat := 0xB000C
/-- Offset of TEXT_CNT_TOKENS. -/
def Reg.TEXT_CNT_TOKENS : Nat := 0xB0040
/-- Offset of TEXT_CNT_REPLACED. -/
def Reg.TEXT_CNT_REPLACED : Nat := 0xB0044
/-- Offset of TEXT_CNT_MALFORMED. -/
def Reg.TEXT_CNT_MALFORMED : Nat := 0xB0048
/-- Offset of TEXT_CNT_TOO_LONG. -/
def Reg.TEXT_CNT_TOO_LONG : Nat := 0xB004C
/-- Offset of TEXT_CNT_STREAMSAFE. -/
def Reg.TEXT_CNT_STREAMSAFE : Nat := 0xB0050
/-- Offset of TEXT_CNT_LATE. -/
def Reg.TEXT_CNT_LATE : Nat := 0xB0054
/-- Offset of VC_CNT_HIT. -/
def Reg.VC_CNT_HIT : Nat := 0xB0058
/-- Offset of VC_CNT_MISS. -/
def Reg.VC_CNT_MISS : Nat := 0xB005C
/-- Offset of DETOK_CNT_REPLACED. -/
def Reg.DETOK_CNT_REPLACED : Nat := 0xB0060
/-- Offset of STOP_CNT_STRING. -/
def Reg.STOP_CNT_STRING : Nat := 0xB0064
/-- Offset of STOP_CNT_TOKEN. -/
def Reg.STOP_CNT_TOKEN : Nat := 0xB0068
/-- Offset of GRAM_CNT_MASKS. -/
def Reg.GRAM_CNT_MASKS : Nat := 0xB006C
/-- Offset of GRAM_CNT_MASK_LATE. -/
def Reg.GRAM_CNT_MASK_LATE : Nat := 0xB0070
/-- Offset of GRAM_CNT_DEAD. -/
def Reg.GRAM_CNT_DEAD : Nat := 0xB0074
/-- Offset of TEXT_INT_STATUS. -/
def Reg.TEXT_INT_STATUS : Nat := 0xB0080
/-- Offset of TEXT_INT_ENABLE. -/
def Reg.TEXT_INT_ENABLE : Nat := 0xB0084
/-- Offset of TS_REGION. -/
def Reg.TS_REGION : Nat := 0x80100
/-- Offset of TS_CMD. -/
def Reg.TS_CMD : Nat := 0x80104
/-- Offset of TS_RESULT. -/
def Reg.TS_RESULT : Nat := 0x80108
/-- Offset of TS_SRC_OFFSET. -/
def Reg.TS_SRC_OFFSET : Nat := 0x80110
/-- Offset of TS_SRC_LEN. -/
def Reg.TS_SRC_LEN : Nat := 0x80118
/-- Offset of TS_FREE. -/
def Reg.TS_FREE : Nat := 0x80120
/-- Offset of RR_POD_WAIT. -/
def Reg.RR_POD_WAIT : Nat := 0x80128
/-- Offset of RR_CNT_FETCH. -/
def Reg.RR_CNT_FETCH : Nat := 0x80140
/-- Offset of RR_CNT_ABSENT. -/
def Reg.RR_CNT_ABSENT : Nat := 0x80144
/-- Offset of RR_CNT_BAD. -/
def Reg.RR_CNT_BAD : Nat := 0x80148
/-- Offset of RR_CNT_LATE. -/
def Reg.RR_CNT_LATE : Nat := 0x8014C
/-- Offset of RR_CNT_NAN. -/
def Reg.RR_CNT_NAN : Nat := 0x80150
/-- Offset of PACK_CNT_TRUNC. -/
def Reg.PACK_CNT_TRUNC : Nat := 0x80154
/-- Offset of TS_CNT_REFUSED. -/
def Reg.TS_CNT_REFUSED : Nat := 0x80158
/-- Offset of RR_INT_STATUS. -/
def Reg.RR_INT_STATUS : Nat := 0x8015C
/-- Offset of RR_INT_ENABLE. -/
def Reg.RR_INT_ENABLE : Nat := 0x80160
/-- Offset of SERVE_AST_SIZE. -/
def Reg.SERVE_AST_SIZE : Nat := 0xC0000
/-- Offset of SERVE_AST_USED. -/
def Reg.SERVE_AST_USED : Nat := 0xC0004
/-- Offset of SERVE_AST_READY. -/
def Reg.SERVE_AST_READY : Nat := 0xC0008
/-- Offset of SERVE_VSETS. -/
def Reg.SERVE_VSETS : Nat := 0xC000C
/-- Offset of SERVE_KV_BLOCKS. -/
def Reg.SERVE_KV_BLOCKS : Nat := 0xC0010
/-- Offset of SERVE_KV_FREE. -/
def Reg.SERVE_KV_FREE : Nat := 0xC0014
/-- Offset of SERVE_KV_RESERVED. -/
def Reg.SERVE_KV_RESERVED : Nat := 0xC0018
/-- Offset of SERVE_BLOCK_BYTES. -/
def Reg.SERVE_BLOCK_BYTES : Nat := 0xC001C
/-- Offset of SERVE_WIN_INDEX. -/
def Reg.SERVE_WIN_INDEX : Nat := 0xC0020
/-- Offset of SERVE_CANCEL_SEQ. -/
def Reg.SERVE_CANCEL_SEQ : Nat := 0xC0024
/-- Offset of SERVE_CANCEL_CMD. -/
def Reg.SERVE_CANCEL_CMD : Nat := 0xC0028
/-- Offset of SERVE_CANCEL_RESULT. -/
def Reg.SERVE_CANCEL_RESULT : Nat := 0xC002C
/-- Offset of PT_NODES. -/
def Reg.PT_NODES : Nat := 0xC0030
/-- Offset of PT_PINNED. -/
def Reg.PT_PINNED : Nat := 0xC0034
/-- Offset of PT_PIN_MAX. -/
def Reg.PT_PIN_MAX : Nat := 0xC0038
/-- Offset of PT_PIN_KEY. -/
def Reg.PT_PIN_KEY : Nat := 0xC0040
/-- Offset of PT_PIN_CMD. -/
def Reg.PT_PIN_CMD : Nat := 0xC0048
/-- Offset of PT_PIN_RESULT. -/
def Reg.PT_PIN_RESULT : Nat := 0xC004C
/-- Offset of SERVE_CNT_STEPS. -/
def Reg.SERVE_CNT_STEPS : Nat := 0xC0080
/-- Offset of SERVE_CNT_TOKENS. -/
def Reg.SERVE_CNT_TOKENS : Nat := 0xC0084
/-- Offset of SERVE_CNT_DEFERRED. -/
def Reg.SERVE_CNT_DEFERRED : Nat := 0xC0088
/-- Offset of SERVE_CNT_PREEMPT. -/
def Reg.SERVE_CNT_PREEMPT : Nat := 0xC008C
/-- Offset of SERVE_CNT_NAN. -/
def Reg.SERVE_CNT_NAN : Nat := 0xC0090
/-- Offset of SERVE_CNT_DEADLINE. -/
def Reg.SERVE_CNT_DEADLINE : Nat := 0xC0094
/-- Offset of SERVE_CNT_CANCEL. -/
def Reg.SERVE_CNT_CANCEL : Nat := 0xC0098
/-- Offset of PT_CNT_HIT. -/
def Reg.PT_CNT_HIT : Nat := 0xC009C
/-- Offset of PT_CNT_MISS. -/
def Reg.PT_CNT_MISS : Nat := 0xC00A0
/-- Offset of PT_CNT_COLLISION. -/
def Reg.PT_CNT_COLLISION : Nat := 0xC00A4
/-- Offset of PT_CNT_EVICT. -/
def Reg.PT_CNT_EVICT : Nat := 0xC00A8
/-- Offset of PT_CNT_BCAST. -/
def Reg.PT_CNT_BCAST : Nat := 0xC00AC
/-- Offset of PT_CNT_DUP_INSERT. -/
def Reg.PT_CNT_DUP_INSERT : Nat := 0xC00B0
/-- Offset of SERVE_INT_STATUS. -/
def Reg.SERVE_INT_STATUS : Nat := 0xC00C0
/-- Offset of SERVE_INT_ENABLE. -/
def Reg.SERVE_INT_ENABLE : Nat := 0xC00C4
/-- Offset of SERVE_WIN of window or element `i`. -/
def Reg.SERVE_WIN (i : Nat) : Nat := 0xC1000 + 0x4 * i
/-- Offset of ADMIT_STATUS. -/
def Reg.ADMIT_STATUS : Nat := 0x60000
/-- Offset of ADMIT_CTRL. -/
def Reg.ADMIT_CTRL : Nat := 0x60004
/-- Offset of ADMIT_DEFER_MAX. -/
def Reg.ADMIT_DEFER_MAX : Nat := 0x60008
/-- Offset of ADMIT_RESERVE. -/
def Reg.ADMIT_RESERVE : Nat := 0x6000C
/-- Offset of ADMIT_DEADLINE_DEFAULT. -/
def Reg.ADMIT_DEADLINE_DEFAULT : Nat := 0x60010
/-- Offset of ADMIT_DEF_CAP. -/
def Reg.ADMIT_DEF_CAP : Nat := 0x60018
/-- Offset of ADMIT_ACCT_SEL. -/
def Reg.ADMIT_ACCT_SEL : Nat := 0x60020
/-- Offset of ADMIT_ACCT_WEIGHT. -/
def Reg.ADMIT_ACCT_WEIGHT : Nat := 0x60024
/-- Offset of ADMIT_ACCT_QDEPTH. -/
def Reg.ADMIT_ACCT_QDEPTH : Nat := 0x60028
/-- Offset of ADMIT_ACCT_QUEUED. -/
def Reg.ADMIT_ACCT_QUEUED : Nat := 0x6002C
/-- Offset of ADMIT_ACCT_DEFICIT. -/
def Reg.ADMIT_ACCT_DEFICIT : Nat := 0x60030
/-- Offset of ADMIT_USE_SEL. -/
def Reg.ADMIT_USE_SEL : Nat := 0x60038
/-- Offset of ADMIT_USE. -/
def Reg.ADMIT_USE : Nat := 0x60040
/-- Offset of ADMIT_CNT_ON_TIME. -/
def Reg.ADMIT_CNT_ON_TIME : Nat := 0x60080
/-- Offset of ADMIT_CNT_DEFERRED. -/
def Reg.ADMIT_CNT_DEFERRED : Nat := 0x60084
/-- Offset of ADMIT_CNT_SHARE. -/
def Reg.ADMIT_CNT_SHARE : Nat := 0x60088
/-- Offset of ADMIT_CNT_ENERGY. -/
def Reg.ADMIT_CNT_ENERGY : Nat := 0x6008C
/-- Offset of ADMIT_CNT_QUEUE. -/
def Reg.ADMIT_CNT_QUEUE : Nat := 0x60090
/-- Offset of ADMIT_CNT_DEADLINE. -/
def Reg.ADMIT_CNT_DEADLINE : Nat := 0x60094
/-- Offset of ADMIT_CNT_HELD. -/
def Reg.ADMIT_CNT_HELD : Nat := 0x60098
/-- Offset of ADMIT_INT_STATUS. -/
def Reg.ADMIT_INT_STATUS : Nat := 0x600A0
/-- Offset of ADMIT_INT_ENABLE. -/
def Reg.ADMIT_INT_ENABLE : Nat := 0x600A4
/-- Offset of ENERGY_STATUS. -/
def Reg.ENERGY_STATUS : Nat := 0x70000
/-- Offset of ENERGY_CEILING. -/
def Reg.ENERGY_CEILING : Nat := 0x70004
/-- Offset of ENERGY_FE_MAX. -/
def Reg.ENERGY_FE_MAX : Nat := 0x70008
/-- Offset of ENERGY_DRAIN_W. -/
def Reg.ENERGY_DRAIN_W : Nat := 0x7000C
/-- Offset of ENERGY_TMAX. -/
def Reg.ENERGY_TMAX : Nat := 0x70010
/-- Offset of ENERGY_MEAS. -/
def Reg.ENERGY_MEAS : Nat := 0x70018
/-- Offset of ENERGY_FIXED. -/
def Reg.ENERGY_FIXED : Nat := 0x70020
/-- Offset of ENERGY_MARGIN. -/
def Reg.ENERGY_MARGIN : Nat := 0x70028
/-- Offset of ENERGY_AVAR. -/
def Reg.ENERGY_AVAR : Nat := 0x70030
/-- Offset of ENERGY_TOTAL. -/
def Reg.ENERGY_TOTAL : Nat := 0x70038
/-- Offset of ENERGY_CLASS_SEL. -/
def Reg.ENERGY_CLASS_SEL : Nat := 0x70040
/-- Offset of ENERGY_CLASS_COST. -/
def Reg.ENERGY_CLASS_COST : Nat := 0x70048
/-- Offset of ENERGY_INT_STATUS. -/
def Reg.ENERGY_INT_STATUS : Nat := 0x70050
/-- Offset of ENERGY_INT_ENABLE. -/
def Reg.ENERGY_INT_ENABLE : Nat := 0x70054
/-- Offset of HQ_QUEUES. -/
def Reg.HQ_QUEUES : Nat := 0x40000
/-- Offset of HQ_FUNCS. -/
def Reg.HQ_FUNCS : Nat := 0x40004
/-- Offset of HQ_LINK. -/
def Reg.HQ_LINK : Nat := 0x40008
/-- Offset of HQ_REPLAY_DEPTH. -/
def Reg.HQ_REPLAY_DEPTH : Nat := 0x4000C
/-- Offset of HQ_IN_IMAGE_LEN. -/
def Reg.HQ_IN_IMAGE_LEN : Nat := 0x40010
/-- Offset of HQ_IN_KEYS. -/
def Reg.HQ_IN_KEYS : Nat := 0x40014
/-- Offset of HQ_CNT_FETCH_ERR. -/
def Reg.HQ_CNT_FETCH_ERR : Nat := 0x40018
/-- Offset of HQ_CNT_LINK_DOWN. -/
def Reg.HQ_CNT_LINK_DOWN : Nat := 0x4001C
/-- Offset of Q_SQ_BASE of window or element `i`. -/
def Reg.Q_SQ_BASE (i : Nat) : Nat := 0x48000 + 0x80 * i
/-- Offset of Q_CQ_BASE of window or element `i`. -/
def Reg.Q_CQ_BASE (i : Nat) : Nat := 0x48008 + 0x80 * i
/-- Offset of Q_SIZE of window or element `i`. -/
def Reg.Q_SIZE (i : Nat) : Nat := 0x48010 + 0x80 * i
/-- Offset of Q_CTRL of window or element `i`. -/
def Reg.Q_CTRL (i : Nat) : Nat := 0x48014 + 0x80 * i
/-- Offset of Q_BIND of window or element `i`. -/
def Reg.Q_BIND (i : Nat) : Nat := 0x48018 + 0x80 * i
/-- Offset of Q_VECTOR of window or element `i`. -/
def Reg.Q_VECTOR (i : Nat) : Nat := 0x4801C + 0x80 * i
/-- Offset of Q_HSN_NEXT of window or element `i`. -/
def Reg.Q_HSN_NEXT (i : Nat) : Nat := 0x48020 + 0x80 * i
/-- Offset of Q_HSN_LAST of window or element `i`. -/
def Reg.Q_HSN_LAST (i : Nat) : Nat := 0x48024 + 0x80 * i
/-- Offset of Q_DSN_LAST of window or element `i`. -/
def Reg.Q_DSN_LAST (i : Nat) : Nat := 0x48028 + 0x80 * i
/-- Offset of Q_DSN_OLDEST of window or element `i`. -/
def Reg.Q_DSN_OLDEST (i : Nat) : Nat := 0x4802C + 0x80 * i
/-- Offset of Q_REPLAY_FROM of window or element `i`. -/
def Reg.Q_REPLAY_FROM (i : Nat) : Nat := 0x48030 + 0x80 * i
/-- Offset of Q_STATUS of window or element `i`. -/
def Reg.Q_STATUS (i : Nat) : Nat := 0x48034 + 0x80 * i
/-- Offset of Q_HEADS of window or element `i`. -/
def Reg.Q_HEADS (i : Nat) : Nat := 0x48038 + 0x80 * i
/-- Offset of Q_COAL of window or element `i`. -/
def Reg.Q_COAL (i : Nat) : Nat := 0x4803C + 0x80 * i
/-- Offset of Q_CNT_DUP of window or element `i`. -/
def Reg.Q_CNT_DUP (i : Nat) : Nat := 0x48040 + 0x80 * i
/-- Offset of Q_CNT_OOW of window or element `i`. -/
def Reg.Q_CNT_OOW (i : Nat) : Nat := 0x48044 + 0x80 * i
/-- Offset of Q_CNT_MALFORMED of window or element `i`. -/
def Reg.Q_CNT_MALFORMED (i : Nat) : Nat := 0x48048 + 0x80 * i
/-- Offset of Q_CNT_CQ_WAIT of window or element `i`. -/
def Reg.Q_CNT_CQ_WAIT (i : Nat) : Nat := 0x4804C + 0x80 * i
/-- Offset of Q_CNT_LOST of window or element `i`. -/
def Reg.Q_CNT_LOST (i : Nat) : Nat := 0x48050 + 0x80 * i
/-- Offset of Q_INT_STATUS of window or element `i`. -/
def Reg.Q_INT_STATUS (i : Nat) : Nat := 0x48054 + 0x80 * i
/-- Offset of Q_INT_ENABLE of window or element `i`. -/
def Reg.Q_INT_ENABLE (i : Nat) : Nat := 0x48058 + 0x80 * i
/-- Offset of MB_LOCK of window or element `i`. -/
def Reg.MB_LOCK (i : Nat) : Nat := 0x50000 + 0x400 * i
/-- Offset of MB_DOORBELL of window or element `i`. -/
def Reg.MB_DOORBELL (i : Nat) : Nat := 0x50004 + 0x400 * i
/-- Offset of MB_ACK of window or element `i`. -/
def Reg.MB_ACK (i : Nat) : Nat := 0x50008 + 0x400 * i
/-- Offset of MB_STATUS of window or element `i`. -/
def Reg.MB_STATUS (i : Nat) : Nat := 0x5000C + 0x400 * i
/-- Offset of MB_FN of window or element `i`. -/
def Reg.MB_FN (i : Nat) : Nat := 0x50010 + 0x400 * i
/-- Offset of MB_INT_STATUS of window or element `i`. -/
def Reg.MB_INT_STATUS (i : Nat) : Nat := 0x50018 + 0x400 * i
/-- Offset of MB_INT_ENABLE of window or element `i`. -/
def Reg.MB_INT_ENABLE (i : Nat) : Nat := 0x5001C + 0x400 * i
/-- Offset of MB_VECTOR of window or element `i`. -/
def Reg.MB_VECTOR (i : Nat) : Nat := 0x50020 + 0x400 * i
/-- Offset of MB_DATA of window or element `i`. -/
def Reg.MB_DATA (i : Nat) : Nat := 0x50100 + 0x400 * i
/-- Offset of MB_RESP of window or element `i`. -/
def Reg.MB_RESP (i : Nat) : Nat := 0x50200 + 0x400 * i
/-- Offset of MB_SEC_STATE. -/
def Reg.MB_SEC_STATE : Nat := 0x58000
/-- Offset of MB_LOCK_TIMEOUT. -/
def Reg.MB_LOCK_TIMEOUT : Nat := 0x58004
/-- Offset of MB_CNT_LOCK_DENIED. -/
def Reg.MB_CNT_LOCK_DENIED : Nat := 0x58008
/-- Offset of MB_CNT_BAD_RELEASE. -/
def Reg.MB_CNT_BAD_RELEASE : Nat := 0x5800C
/-- Offset of MB_CNT_BUSY. -/
def Reg.MB_CNT_BUSY : Nat := 0x58010
/-- Offset of MB_CNT_EXPIRED. -/
def Reg.MB_CNT_EXPIRED : Nat := 0x58014
/-- Offset of POD_STATUS of window or element `i`. -/
def Reg.POD_STATUS (i : Nat) : Nat := 0x100000 + 0x40000 * i
/-- Offset of POD_CTRL of window or element `i`. -/
def Reg.POD_CTRL (i : Nat) : Nat := 0x100004 + 0x40000 * i
/-- Offset of POD_MAC of window or element `i`. -/
def Reg.POD_MAC (i : Nat) : Nat := 0x100008 + 0x40000 * i
/-- Offset of POD_ETHERTYPE of window or element `i`. -/
def Reg.POD_ETHERTYPE (i : Nat) : Nat := 0x100010 + 0x40000 * i
/-- Offset of POD_RTO of window or element `i`. -/
def Reg.POD_RTO (i : Nat) : Nat := 0x100014 + 0x40000 * i
/-- Offset of POD_RETRY_MAX of window or element `i`. -/
def Reg.POD_RETRY_MAX (i : Nat) : Nat := 0x100018 + 0x40000 * i
/-- Offset of POD_ACK_DELAY of window or element `i`. -/
def Reg.POD_ACK_DELAY (i : Nat) : Nat := 0x10001C + 0x40000 * i
/-- Offset of POD_ACK_TC of window or element `i`. -/
def Reg.POD_ACK_TC (i : Nat) : Nat := 0x100020 + 0x40000 * i
/-- Offset of POD_GATE_ASSET of window or element `i`. -/
def Reg.POD_GATE_ASSET (i : Nat) : Nat := 0x100024 + 0x40000 * i
/-- Offset of POD_YELLOW_THRESH of window or element `i`. -/
def Reg.POD_YELLOW_THRESH (i : Nat) : Nat := 0x100028 + 0x40000 * i
/-- Offset of POD_GATE_STATE of window or element `i`. -/
def Reg.POD_GATE_STATE (i : Nat) : Nat := 0x10002C + 0x40000 * i
/-- Offset of POD_CNT_RX_BYTES of window or element `i`. -/
def Reg.POD_CNT_RX_BYTES (i : Nat) : Nat := 0x100040 + 0x40000 * i
/-- Offset of POD_CNT_TX_BYTES of window or element `i`. -/
def Reg.POD_CNT_TX_BYTES (i : Nat) : Nat := 0x100048 + 0x40000 * i
/-- Offset of POD_CNT_ETYPE of window or element `i`. -/
def Reg.POD_CNT_ETYPE (i : Nat) : Nat := 0x100050 + 0x40000 * i
/-- Offset of POD_CNT_UNKNOWN_PEER of window or element `i`. -/
def Reg.POD_CNT_UNKNOWN_PEER (i : Nat) : Nat := 0x100054 + 0x40000 * i
/-- Offset of POD_CNT_CRC of window or element `i`. -/
def Reg.POD_CNT_CRC (i : Nat) : Nat := 0x100058 + 0x40000 * i
/-- Offset of POD_CNT_DUP of window or element `i`. -/
def Reg.POD_CNT_DUP (i : Nat) : Nat := 0x10005C + 0x40000 * i
/-- Offset of POD_CNT_OOO of window or element `i`. -/
def Reg.POD_CNT_OOO (i : Nat) : Nat := 0x100060 + 0x40000 * i
/-- Offset of POD_CNT_OOW of window or element `i`. -/
def Reg.POD_CNT_OOW (i : Nat) : Nat := 0x100064 + 0x40000 * i
/-- Offset of POD_CNT_RETX of window or element `i`. -/
def Reg.POD_CNT_RETX (i : Nat) : Nat := 0x100068 + 0x40000 * i
/-- Offset of POD_CNT_LOST of window or element `i`. -/
def Reg.POD_CNT_LOST (i : Nat) : Nat := 0x10006C + 0x40000 * i
/-- Offset of POD_CNT_PARTIAL of window or element `i`. -/
def Reg.POD_CNT_PARTIAL (i : Nat) : Nat := 0x100070 + 0x40000 * i
/-- Offset of POD_CNT_EPOCH of window or element `i`. -/
def Reg.POD_CNT_EPOCH (i : Nat) : Nat := 0x100074 + 0x40000 * i
/-- Offset of POD_CNT_UNMATCHED of window or element `i`. -/
def Reg.POD_CNT_UNMATCHED (i : Nat) : Nat := 0x100078 + 0x40000 * i
/-- Offset of POD_CNT_BUF_DROP of window or element `i`. -/
def Reg.POD_CNT_BUF_DROP (i : Nat) : Nat := 0x10007C + 0x40000 * i
/-- Offset of POD_CNT_GATE_OVERRUN of window or element `i`. -/
def Reg.POD_CNT_GATE_OVERRUN (i : Nat) : Nat := 0x100080 + 0x40000 * i
/-- Offset of POD_INT_STATUS of window or element `i`. -/
def Reg.POD_INT_STATUS (i : Nat) : Nat := 0x100084 + 0x40000 * i
/-- Offset of POD_INT_ENABLE of window or element `i`. -/
def Reg.POD_INT_ENABLE (i : Nat) : Nat := 0x100088 + 0x40000 * i
/-- Offset of TC_SHAPE_CTRL of port `i`, class `j`. -/
def Reg.TC_SHAPE_CTRL (i j : Nat) : Nat := 0x101000 + 0x40000 * i + 0x40 * j
/-- Offset of TC_IDLE_SLOPE of port `i`, class `j`. -/
def Reg.TC_IDLE_SLOPE (i j : Nat) : Nat := 0x101004 + 0x40000 * i + 0x40 * j
/-- Offset of TC_HI_CREDIT of port `i`, class `j`. -/
def Reg.TC_HI_CREDIT (i j : Nat) : Nat := 0x101008 + 0x40000 * i + 0x40 * j
/-- Offset of TC_LO_CREDIT of port `i`, class `j`. -/
def Reg.TC_LO_CREDIT (i j : Nat) : Nat := 0x10100C + 0x40000 * i + 0x40 * j
/-- Offset of TC_QUANTUM of port `i`, class `j`. -/
def Reg.TC_QUANTUM (i j : Nat) : Nat := 0x101010 + 0x40000 * i + 0x40 * j
/-- Offset of TC_QUEUED of port `i`, class `j`. -/
def Reg.TC_QUEUED (i j : Nat) : Nat := 0x101014 + 0x40000 * i + 0x40 * j
/-- Offset of TC_CREDIT of port `i`, class `j`. -/
def Reg.TC_CREDIT (i j : Nat) : Nat := 0x101018 + 0x40000 * i + 0x40 * j
/-- Offset of TC_DEFICIT of port `i`, class `j`. -/
def Reg.TC_DEFICIT (i j : Nat) : Nat := 0x101020 + 0x40000 * i + 0x40 * j
/-- Offset of TC_CNT_FRAMES of port `i`, class `j`. -/
def Reg.TC_CNT_FRAMES (i j : Nat) : Nat := 0x101024 + 0x40000 * i + 0x40 * j
/-- Offset of TC_CNT_GATE_WAIT of port `i`, class `j`. -/
def Reg.TC_CNT_GATE_WAIT (i j : Nat) : Nat := 0x101028 + 0x40000 * i + 0x40 * j
/-- Offset of TC_CNT_CREDIT_WAIT of port `i`, class `j`. -/
def Reg.TC_CNT_CREDIT_WAIT (i j : Nat) : Nat := 0x10102C + 0x40000 * i + 0x40 * j
/-- Offset of POL_SEL of window or element `i`. -/
def Reg.POL_SEL (i : Nat) : Nat := 0x102000 + 0x40000 * i
/-- Offset of POL_CTRL of window or element `i`. -/
def Reg.POL_CTRL (i : Nat) : Nat := 0x102004 + 0x40000 * i
/-- Offset of POL_CIR of window or element `i`. -/
def Reg.POL_CIR (i : Nat) : Nat := 0x102008 + 0x40000 * i
/-- Offset of POL_PIR of window or element `i`. -/
def Reg.POL_PIR (i : Nat) : Nat := 0x10200C + 0x40000 * i
/-- Offset of POL_CBS of window or element `i`. -/
def Reg.POL_CBS (i : Nat) : Nat := 0x102010 + 0x40000 * i
/-- Offset of POL_PBS of window or element `i`. -/
def Reg.POL_PBS (i : Nat) : Nat := 0x102014 + 0x40000 * i
/-- Offset of POL_CNT_GREEN of window or element `i`. -/
def Reg.POL_CNT_GREEN (i : Nat) : Nat := 0x102018 + 0x40000 * i
/-- Offset of POL_CNT_YELLOW of window or element `i`. -/
def Reg.POL_CNT_YELLOW (i : Nat) : Nat := 0x10201C + 0x40000 * i
/-- Offset of POL_CNT_RED of window or element `i`. -/
def Reg.POL_CNT_RED (i : Nat) : Nat := 0x102020 + 0x40000 * i
/-- Offset of PEER_SEL of window or element `i`. -/
def Reg.PEER_SEL (i : Nat) : Nat := 0x103000 + 0x40000 * i
/-- Offset of PEER_MAC of window or element `i`. -/
def Reg.PEER_MAC (i : Nat) : Nat := 0x103008 + 0x40000 * i
/-- Offset of PEER_CONN of window or element `i`. -/
def Reg.PEER_CONN (i : Nat) : Nat := 0x103010 + 0x40000 * i
/-- Offset of PEER_CTRL of window or element `i`. -/
def Reg.PEER_CTRL (i : Nat) : Nat := 0x103014 + 0x40000 * i
/-- Offset of PEER_STATUS of window or element `i`. -/
def Reg.PEER_STATUS (i : Nat) : Nat := 0x103018 + 0x40000 * i
/-- Offset of PEER_TX_NEXT of window or element `i`. -/
def Reg.PEER_TX_NEXT (i : Nat) : Nat := 0x10301C + 0x40000 * i
/-- Offset of PEER_TX_ACKED of window or element `i`. -/
def Reg.PEER_TX_ACKED (i : Nat) : Nat := 0x103020 + 0x40000 * i
/-- Offset of PEER_RX_NEXT of window or element `i`. -/
def Reg.PEER_RX_NEXT (i : Nat) : Nat := 0x103024 + 0x40000 * i
/-- Offset of PEER_CMD of window or element `i`. -/
def Reg.PEER_CMD (i : Nat) : Nat := 0x103028 + 0x40000 * i
/-- Offset of TWIN_STATUS. -/
def Reg.TWIN_STATUS : Nat := 0x200000
/-- Offset of TWIN_CTRL. -/
def Reg.TWIN_CTRL : Nat := 0x200004
/-- Offset of TWIN_MODE. -/
def Reg.TWIN_MODE : Nat := 0x200008
/-- Offset of TWIN_ALLOW. -/
def Reg.TWIN_ALLOW : Nat := 0x20000C
/-- Offset of TWIN_RTO. -/
def Reg.TWIN_RTO : Nat := 0x200010
/-- Offset of TWIN_TAKEOVER_TIME. -/
def Reg.TWIN_TAKEOVER_TIME : Nat := 0x200018
/-- Offset of TWIN_JSEQ. -/
def Reg.TWIN_JSEQ : Nat := 0x200020
/-- Offset of TWIN_RESYNC_LEFT. -/
def Reg.TWIN_RESYNC_LEFT : Nat := 0x200028
/-- Offset of TWIN_RESYNC_PASS. -/
def Reg.TWIN_RESYNC_PASS : Nat := 0x200030
/-- Offset of TWIN_CNT_HB_MISSED. -/
def Reg.TWIN_CNT_HB_MISSED : Nat := 0x200040
/-- Offset of TWIN_CNT_CORR. -/
def Reg.TWIN_CNT_CORR : Nat := 0x200044
/-- Offset of TWIN_CNT_BAD_FRAME. -/
def Reg.TWIN_CNT_BAD_FRAME : Nat := 0x200048
/-- Offset of TWIN_CNT_RETX. -/
def Reg.TWIN_CNT_RETX : Nat := 0x20004C
/-- Offset of TWIN_CNT_TAKEOVER. -/
def Reg.TWIN_CNT_TAKEOVER : Nat := 0x200050
/-- Offset of TWIN_CNT_SHADOW_LATE. -/
def Reg.TWIN_CNT_SHADOW_LATE : Nat := 0x200054
/-- Offset of TWIN_CNT_SKEW. -/
def Reg.TWIN_CNT_SKEW : Nat := 0x200058
/-- Offset of TWIN_CNT_UNDELIVERED. -/
def Reg.TWIN_CNT_UNDELIVERED : Nat := 0x20005C
/-- Offset of TWIN_CNT_UNPROTECTED. -/
def Reg.TWIN_CNT_UNPROTECTED : Nat := 0x200060
/-- Offset of TWIN_INT_STATUS. -/
def Reg.TWIN_INT_STATUS : Nat := 0x200064
/-- Offset of TWIN_INT_ENABLE. -/
def Reg.TWIN_INT_ENABLE : Nat := 0x200068
/-- Offset of SEC_STATUS. -/
def Reg.SEC_STATUS : Nat := 0x280000
/-- Offset of SEC_DEVICE_ID. -/
def Reg.SEC_DEVICE_ID : Nat := 0x280008
/-- Offset of SEC_JOBKEYS. -/
def Reg.SEC_JOBKEYS : Nat := 0x280010
/-- Offset of SEC_ASSETKEYS. -/
def Reg.SEC_ASSETKEYS : Nat := 0x280014
/-- Offset of SEC_OWNER_ROOTS. -/
def Reg.SEC_OWNER_ROOTS : Nat := 0x280018
/-- Offset of SEC_DEBUG_EXPIRY. -/
def Reg.SEC_DEBUG_EXPIRY : Nat := 0x28001C
/-- Offset of SEC_WIN_SEL. -/
def Reg.SEC_WIN_SEL : Nat := 0x280040
/-- Offset of SEC_WIN_BASE. -/
def Reg.SEC_WIN_BASE : Nat := 0x280048
/-- Offset of SEC_WIN_LIMIT. -/
def Reg.SEC_WIN_LIMIT : Nat := 0x280050
/-- Offset of SEC_WIN_CTRL. -/
def Reg.SEC_WIN_CTRL : Nat := 0x280058
/-- Offset of SEC_CNT_AUTH_FAIL. -/
def Reg.SEC_CNT_AUTH_FAIL : Nat := 0x280080
/-- Offset of SEC_CNT_JOB_FAIL. -/
def Reg.SEC_CNT_JOB_FAIL : Nat := 0x280084
/-- Offset of SEC_CNT_ASSET_FAIL. -/
def Reg.SEC_CNT_ASSET_FAIL : Nat := 0x280088
/-- Offset of SEC_CNT_PAIR_FAIL. -/
def Reg.SEC_CNT_PAIR_FAIL : Nat := 0x28008C
/-- Offset of SEC_CNT_WIN. -/
def Reg.SEC_CNT_WIN : Nat := 0x280090
/-- Offset of SEC_INT_STATUS. -/
def Reg.SEC_INT_STATUS : Nat := 0x280094
/-- Offset of SEC_INT_ENABLE. -/
def Reg.SEC_INT_ENABLE : Nat := 0x280098
/-- Offset of PWR_STATUS. -/
def Reg.PWR_STATUS : Nat := 0x300000
/-- Offset of PWR_SEQ. -/
def Reg.PWR_SEQ : Nat := 0x300004
/-- Offset of PWR_E_MEAS. -/
def Reg.PWR_E_MEAS : Nat := 0x300008
/-- Offset of PWR_TOTAL. -/
def Reg.PWR_TOTAL : Nat := 0x300010
/-- Offset of PWR_V_MIN. -/
def Reg.PWR_V_MIN : Nat := 0x300018
/-- Offset of PWR_V_MAX. -/
def Reg.PWR_V_MAX : Nat := 0x30001C
/-- Offset of PWR_I_MAX. -/
def Reg.PWR_I_MAX : Nat := 0x300020
/-- Offset of PWR_T16_HV. -/
def Reg.PWR_T16_HV : Nat := 0x300024
/-- Offset of PWR_CAL_SEL. -/
def Reg.PWR_CAL_SEL : Nat := 0x300028
/-- Offset of PWR_CAL. -/
def Reg.PWR_CAL : Nat := 0x300030
/-- Offset of PWR_CNT_PEAK. -/
def Reg.PWR_CNT_PEAK : Nat := 0x300040
/-- Offset of PWR_CNT_TLM_BAD. -/
def Reg.PWR_CNT_TLM_BAD : Nat := 0x300044
/-- Offset of PWR_CNT_TLM_MISS. -/
def Reg.PWR_CNT_TLM_MISS : Nat := 0x300048
/-- Offset of PWR_INT_STATUS. -/
def Reg.PWR_INT_STATUS : Nat := 0x30004C
/-- Offset of PWR_INT_ENABLE. -/
def Reg.PWR_INT_ENABLE : Nat := 0x300050
/-- Offset of TOPO_STAGE. -/
def Reg.TOPO_STAGE : Nat := 0x380000
/-- Offset of TOPO_CODE. -/
def Reg.TOPO_CODE : Nat := 0x380004
/-- Offset of TOPO_CTRL. -/
def Reg.TOPO_CTRL : Nat := 0x380008
/-- Offset of TOPO_BRINGUP_MS. -/
def Reg.TOPO_BRINGUP_MS : Nat := 0x38000C
/-- Offset of TOPO_WARM_COUNT. -/
def Reg.TOPO_WARM_COUNT : Nat := 0x380010
/-- Offset of TOPO_FW_IMAGE. -/
def Reg.TOPO_FW_IMAGE : Nat := 0x380014
/-- Offset of TOPO_FUSE_GROUPS of window or element `i`. -/
def Reg.TOPO_FUSE_GROUPS (i : Nat) : Nat := 0x380100 + 0x10 * i
/-- Offset of TOPO_FUSE_MISC. -/
def Reg.TOPO_FUSE_MISC : Nat := 0x380140
/-- Offset of TOPO_DISC_GROUPS of window or element `i`. -/
def Reg.TOPO_DISC_GROUPS (i : Nat) : Nat := 0x380200 + 0x10 * i
/-- Offset of TOPO_DISC_LINKS. -/
def Reg.TOPO_DISC_LINKS : Nat := 0x380240
/-- Offset of TOPO_DISC_MEM. -/
def Reg.TOPO_DISC_MEM : Nat := 0x380244
/-- Offset of TOPO_UNIT_SEL. -/
def Reg.TOPO_UNIT_SEL : Nat := 0x380260
/-- Offset of TOPO_UNIT_CMD. -/
def Reg.TOPO_UNIT_CMD : Nat := 0x380264
/-- Offset of TOPO_UNIT_RESULT. -/
def Reg.TOPO_UNIT_RESULT : Nat := 0x380268
/-- Offset of TOPO_EPOCH. -/
def Reg.TOPO_EPOCH : Nat := 0x38026C
/-- Offset of TOPO_CNT_SAVED_REJECT. -/
def Reg.TOPO_CNT_SAVED_REJECT : Nat := 0x380280
/-- Offset of TOPO_CNT_TRAIN_FULL. -/
def Reg.TOPO_CNT_TRAIN_FULL : Nat := 0x380284
/-- Offset of TOPO_CNT_UNAVAIL. -/
def Reg.TOPO_CNT_UNAVAIL : Nat := 0x380288
/-- Offset of TOPO_CNT_STALE. -/
def Reg.TOPO_CNT_STALE : Nat := 0x38028C
/-- Offset of TOPO_CNT_UNIT_RESET. -/
def Reg.TOPO_CNT_UNIT_RESET : Nat := 0x380290
/-- Offset of TOPO_INT_STATUS. -/
def Reg.TOPO_INT_STATUS : Nat := 0x380294
/-- Offset of TOPO_INT_ENABLE. -/
def Reg.TOPO_INT_ENABLE : Nat := 0x380298
/-- Offset of EVT_CTRL. -/
def Reg.EVT_CTRL : Nat := 0x400000
/-- Offset of EVT_SNAP_TIME. -/
def Reg.EVT_SNAP_TIME : Nat := 0x400008
/-- Offset of EVT_OVF of window or element `i`. -/
def Reg.EVT_OVF (i : Nat) : Nat := 0x400010 + 0x4 * i
/-- Offset of EVT_OVF_ENABLE of window or element `i`. -/
def Reg.EVT_OVF_ENABLE (i : Nat) : Nat := 0x400020 + 0x4 * i
/-- Offset of EVT_INT_STATUS. -/
def Reg.EVT_INT_STATUS : Nat := 0x400030
/-- Offset of EVT_INT_ENABLE. -/
def Reg.EVT_INT_ENABLE : Nat := 0x400034
/-- Offset of EVT_SEL of window or element `i`. -/
def Reg.EVT_SEL (i : Nat) : Nat := 0x401000 + 0x4 * i
/-- Offset of EVT_CNT of window or element `i`. -/
def Reg.EVT_CNT (i : Nat) : Nat := 0x402000 + 0x8 * i
/-- Offset of EVT_SNAP of window or element `i`. -/
def Reg.EVT_SNAP (i : Nat) : Nat := 0x403000 + 0x8 * i
/-- Offset of ERR_STATUS. -/
def Reg.ERR_STATUS : Nat := 0x480000
/-- Offset of ERR_LOG_HEAD. -/
def Reg.ERR_LOG_HEAD : Nat := 0x480004
/-- Offset of ERR_LOG_COUNT. -/
def Reg.ERR_LOG_COUNT : Nat := 0x480008
/-- Offset of ERR_CNT_OVERWRITTEN. -/
def Reg.ERR_CNT_OVERWRITTEN : Nat := 0x48000C
/-- Offset of ERR_CNT_CE_SCRATCH. -/
def Reg.ERR_CNT_CE_SCRATCH : Nat := 0x480010
/-- Offset of ERR_CNT_CE_LPDDR. -/
def Reg.ERR_CNT_CE_LPDDR : Nat := 0x480014
/-- Offset of ERR_CNT_CE_MORTAR. -/
def Reg.ERR_CNT_CE_MORTAR : Nat := 0x480018
/-- Offset of ERR_CNT_UE. -/
def Reg.ERR_CNT_UE : Nat := 0x48001C
/-- Offset of ERR_CNT_PROTOCOL. -/
def Reg.ERR_CNT_PROTOCOL : Nat := 0x480020
/-- Offset of ERR_SCRUB_LPDDR. -/
def Reg.ERR_SCRUB_LPDDR : Nat := 0x480028
/-- Offset of ERR_SCRUB_SP. -/
def Reg.ERR_SCRUB_SP : Nat := 0x480030
/-- Offset of ERR_CE_THRESH. -/
def Reg.ERR_CE_THRESH : Nat := 0x480038
/-- Offset of ERR_INT_STATUS. -/
def Reg.ERR_INT_STATUS : Nat := 0x48003C
/-- Offset of ERR_INT_ENABLE. -/
def Reg.ERR_INT_ENABLE : Nat := 0x480040
/-- Offset of ERR_INT_SUMMARY. -/
def Reg.ERR_INT_SUMMARY : Nat := 0x480044
/-- Offset of ERR_INT_ROUTE of window or element `i`. -/
def Reg.ERR_INT_ROUTE (i : Nat) : Nat := 0x480080 + 0x4 * i
/-- Offset of ERR_LOG of window or element `i`. -/
def Reg.ERR_LOG (i : Nat) : Nat := 0x481000 + 0x20 * i
/-- Offset of ARITH_SUMMARY, 64 bits (R86). -/
def Reg.ARITH_SUMMARY : Nat := 0x489000

/-! ## The map -/

/-- Rows of the register map, part 0. -/
def regRows0 : List RegRow := [
  ⟨0x0, 1, 0x0, 1, 0x0, 1, .ro, 0x7A1E, 0x0⟩,
  ⟨0x4, 1, 0x0, 1, 0x0, 1, .ro, 0xCA50F09, 0x0⟩,
  ⟨0x8, 1, 0x0, 1, 0x0, 1, .ro, 0x100, 0x0⟩,
  ⟨0xC, 1, 0x0, 1, 0x0, 1, .ro, 0x10000, 0x0⟩,
  ⟨0x10, 1, 0x0, 1, 0x0, 1, .ro, 0x404, 0x0⟩,
  ⟨0x14, 1, 0x0, 1, 0x0, 1, .ro, 0x1E00080, 0x0⟩,
  ⟨0x18, 1, 0x0, 1, 0x0, 1, .ro, 0x40, 0x0⟩,
  ⟨0x1C, 1, 0x0, 1, 0x0, 1, .ro, 0x4, 0x0⟩,
  ⟨0x20, 1, 0x0, 1, 0x0, 1, .ro, 0x180, 0x0⟩,
  ⟨0x24, 1, 0x0, 1, 0x0, 1, .ro, 0x20200040, 0x0⟩,
  ⟨0x28, 1, 0x0, 1, 0x0, 1, .ro, 0x8, 0x0⟩,
  ⟨0x2C, 1, 0x0, 1, 0x0, 1, .ro, 0x404, 0x0⟩,
  ⟨0x30, 1, 0x0, 1, 0x0, 1, .ro, 0x1, 0x0⟩,
  ⟨0x34, 1, 0x0, 1, 0x0, 1, .ro, 0x920, 0x0⟩,
  ⟨0x10000, 2, 0x0, 1, 0x0, 1, .ro, 0x0, 0x0⟩,
  ⟨0x10008, 1, 0x0, 1, 0x0, 1, .ro, 0x100, 0x0⟩,
  ⟨0x1000C, 1, 0x0, 1, 0x0, 1, .rw, 0x0, 0x2⟩,
  ⟨0x10010, 1, 0x0, 1, 0x0, 1, .ro, 0x3E8, 0x0⟩,
  ⟨0x10014, 1, 0x0, 1, 0x0, 1, .ro, 0x0, 0x0⟩,
  ⟨0x10018, 1, 0x0, 1, 0x0, 1, .ro, 0x0, 0x0⟩,
  ⟨0x10020, 2, 0x0, 1, 0x0, 1, .ro, 0x32000000000000, 0x0⟩,
  ⟨0x10028, 2, 0x0, 1, 0x0, 1, .roSt, 0x0, 0x0⟩,
  ⟨0x10030, 1, 0x0, 1, 0x0, 1, .ro, 0x0, 0x0⟩,
  ⟨0x10034, 1, 0x0, 1, 0x0, 1, .rw, 0x2710, 0x7FFF⟩]

/-- Rows of the register map, part 1. -/
def regRows1 : List RegRow := [
  ⟨0x10038, 2, 0x0, 1, 0x0, 1, .ro, 0x0, 0x0⟩,
  ⟨0x10040, 1, 0x0, 1, 0x0, 1, .rc, 0x0, 0x0⟩,
  ⟨0x10044, 1, 0x0, 1, 0x0, 1, .rc, 0x0, 0x0⟩,
  ⟨0x10048, 1, 0x0, 1, 0x0, 1, .rc, 0x0, 0x0⟩,
  ⟨0x1004C, 1, 0x0, 1, 0x0, 1, .roSt, 0x0, 0x0⟩,
  ⟨0x10050, 1, 0x0, 1, 0x0, 1, .w1c, 0x0, 0xFF⟩,
  ⟨0x10054, 1, 0x0, 1, 0x0, 1, .rw, 0x0, 0xFF⟩,
  ⟨0x20000, 1, 0x0, 1, 0x0, 1, .ro, 0x0, 0x0⟩,
  ⟨0x20004, 1, 0x0, 1, 0x0, 1, .wo, 0x0, 0x0⟩,
  ⟨0x20008, 1, 0x0, 1, 0x0, 1, .rw, 0x0, 0x1⟩,
  ⟨0x20010, 2, 0x0, 1, 0x0, 1, .rw, 0x0, 0xFFFFFFFFFFFFFFFF⟩,
  ⟨0x20018, 2, 0x0, 1, 0x0, 1, .rw, 0x0, 0xFFFFFFFFFFFFFFFF⟩,
  ⟨0x20020, 1, 0x0, 1, 0x0, 1, .ro, 0x0, 0x0⟩,
  ⟨0x20028, 2, 0x0, 1, 0x0, 1, .ro, 0x0, 0x0⟩,
  ⟨0x20030, 1, 0x0, 1, 0x0, 1, .ro, 0x0, 0x0⟩,
  ⟨0x20034, 1, 0x0, 1, 0x0, 1, .ro, 0x0, 0x0⟩,
  ⟨0x20038, 2, 0x0, 1, 0x0, 1, .ro, 0x0, 0x0⟩,
  ⟨0x20040, 2, 0x8, 8, 0x0, 1, .ro, 0x0, 0x0⟩,
  ⟨0x20080, 1, 0x0, 1, 0x0, 1, .lk, 0x7D0, 0xFFFFF⟩,
  ⟨0x20090, 1, 0x0, 1, 0x0, 1, .rw, 0x0, 0xFFFF⟩,
  ⟨0x20094, 1, 0x0, 1, 0x0, 1, .rw, 0x0, 0xFFFFFFFF⟩,
  ⟨0x20098, 2, 0x0, 1, 0x0, 1, .rw, 0x0, 0xFFFFFFFFFFFFFFFF⟩,
  ⟨0x200A0, 1, 0x0, 1, 0x0, 1, .wo, 0x0, 0x0⟩,
  ⟨0x200A4, 1, 0x0, 1, 0x0, 1, .ro, 0x0, 0x0⟩]

/-- Rows of the register map, part 2. -/
def regRows2 : List RegRow := [
  ⟨0x200A8, 1, 0x0, 1, 0x0, 1, .rc, 0x0, 0x0⟩,
  ⟨0x200AC, 1, 0x0, 1, 0x0, 1, .w1c, 0x0, 0x7FF⟩,
  ⟨0x200B0, 1, 0x0, 1, 0x0, 1, .rw, 0x0, 0x7FF⟩,
  ⟨0x200C0, 1, 0x0, 1, 0x0, 1, .rw, 0x0, 0x1FFFF⟩,
  ⟨0x200C4, 1, 0x0, 1, 0x0, 1, .wo, 0x0, 0x0⟩,
  ⟨0x200C8, 1, 0x0, 1, 0x0, 1, .ro, 0x0, 0x0⟩,
  ⟨0x200D0, 2, 0x0, 1, 0x0, 1, .rw, 0x0, 0xFFFFFFFFFFFFFFFF⟩,
  ⟨0x200D8, 2, 0x0, 1, 0x0, 1, .rw, 0x0, 0xFFFFFFFFFFFFFFFF⟩,
  ⟨0x200E0, 2, 0x0, 1, 0x0, 1, .ro, 0x0, 0x0⟩,
  ⟨0x21000, 8, 0x20, 64, 0x0, 1, .ro, 0x0, 0x0⟩,
  ⟨0x22000, 4, 0x10, 64, 0x0, 1, .ro, 0x0, 0x0⟩,
  ⟨0x24000, 4, 0x10, 256, 0x0, 1, .ro, 0x0, 0x0⟩,
  ⟨0x488000, 2, 0x40, 64, 0x0, 1, .rc, 0x0, 0x0⟩,
  ⟨0x488008, 2, 0x40, 64, 0x0, 1, .rc, 0x0, 0x0⟩,
  ⟨0x488010, 2, 0x40, 64, 0x0, 1, .rc, 0x0, 0x0⟩,
  ⟨0x488018, 2, 0x40, 64, 0x0, 1, .rc, 0x0, 0x0⟩,
  ⟨0x488020, 2, 0x40, 64, 0x0, 1, .rc, 0x0, 0x0⟩,
  ⟨0x488028, 2, 0x40, 64, 0x0, 1, .rc, 0x0, 0x0⟩,
  ⟨0x488030, 1, 0x40, 64, 0x0, 1, .w1c, 0x0, 0x7F⟩,
  ⟨0x80000, 1, 0x0, 1, 0x0, 1, .rw, 0x0, 0xFFFF⟩,
  ⟨0x80004, 1, 0x0, 1, 0x0, 1, .ro, 0x0, 0x0⟩,
  ⟨0x80008, 1, 0x0, 1, 0x0, 1, .ro, 0x0, 0x0⟩,
  ⟨0x8000C, 1, 0x0, 1, 0x0, 1, .ro, 0x0, 0x0⟩,
  ⟨0x80010, 1, 0x0, 1, 0x0, 1, .ro, 0x0, 0x0⟩]

/-- Rows of the register map, part 3. -/
def regRows3 : List RegRow := [
  ⟨0x80014, 1, 0x0, 1, 0x0, 1, .ro, 0x0, 0x0⟩,
  ⟨0x80018, 2, 0x0, 1, 0x0, 1, .ro, 0x0, 0x0⟩,
  ⟨0x80020, 1, 0x0, 1, 0x0, 1, .ro, 0x0, 0x0⟩,
  ⟨0x80024, 1, 0x0, 1, 0x0, 1, .ro, 0x0, 0x0⟩,
  ⟨0x80028, 1, 0x0, 1, 0x0, 1, .ro, 0x0, 0x0⟩,
  ⟨0x80040, 1, 0x0, 1, 0x0, 1, .rc, 0x0, 0x0⟩,
  ⟨0x80044, 1, 0x0, 1, 0x0, 1, .rc, 0x0, 0x0⟩,
  ⟨0x80048, 1, 0x0, 1, 0x0, 1, .rc, 0x0, 0x0⟩,
  ⟨0x8004C, 1, 0x0, 1, 0x0, 1, .rc, 0x0, 0x0⟩,
  ⟨0x80050, 1, 0x0, 1, 0x0, 1, .rc, 0x0, 0x0⟩,
  ⟨0x80054, 1, 0x0, 1, 0x0, 1, .rc, 0x0, 0x0⟩,
  ⟨0x80058, 1, 0x0, 1, 0x0, 1, .rc, 0x0, 0x0⟩,
  ⟨0x8005C, 1, 0x0, 1, 0x0, 1, .rc, 0x0, 0x0⟩,
  ⟨0x80060, 1, 0x0, 1, 0x0, 1, .w1c, 0x0, 0x7⟩,
  ⟨0x80064, 1, 0x0, 1, 0x0, 1, .rw, 0x0, 0x7⟩,
  ⟨0x90000, 1, 0x0, 1, 0x0, 1, .ro, 0x1E0, 0x0⟩,
  ⟨0x90004, 1, 0x0, 1, 0x0, 1, .lk, 0x1F4, 0xFFFFF⟩,
  ⟨0x90008, 1, 0x0, 1, 0x0, 1, .ro, 0x0, 0x0⟩,
  ⟨0x90040, 1, 0x0, 1, 0x0, 1, .rc, 0x0, 0x0⟩,
  ⟨0x90044, 1, 0x0, 1, 0x0, 1, .rc, 0x0, 0x0⟩,
  ⟨0x90048, 1, 0x0, 1, 0x0, 1, .rc, 0x0, 0x0⟩,
  ⟨0x9004C, 1, 0x0, 1, 0x0, 1, .rc, 0x0, 0x0⟩,
  ⟨0x90050, 1, 0x0, 1, 0x0, 1, .rc, 0x0, 0x0⟩,
  ⟨0x90054, 1, 0x0, 1, 0x0, 1, .rc, 0x0, 0x0⟩]

/-- Rows of the register map, part 4. -/
def regRows4 : List RegRow := [
  ⟨0x90058, 1, 0x0, 1, 0x0, 1, .rc, 0x0, 0x0⟩,
  ⟨0x9005C, 1, 0x0, 1, 0x0, 1, .rc, 0x0, 0x0⟩,
  ⟨0x90060, 1, 0x0, 1, 0x0, 1, .w1c, 0x0, 0xF⟩,
  ⟨0x90064, 1, 0x0, 1, 0x0, 1, .rw, 0x0, 0xF⟩,
  ⟨0xA0000, 1, 0x0, 1, 0x0, 1, .rw, 0x0, 0xFFFF⟩,
  ⟨0xA0004, 1, 0x0, 1, 0x0, 1, .rw, 0x0, 0xFFFFFFFF⟩,
  ⟨0xA0008, 1, 0x0, 1, 0x0, 1, .rw, 0x0, 0xFFFFFFFF⟩,
  ⟨0xA0010, 2, 0x0, 1, 0x0, 1, .rw, 0x0, 0xFFFFFFFFFFFFFFFF⟩,
  ⟨0xA0018, 2, 0x0, 1, 0x0, 1, .rw, 0x0, 0xFFFFFFFFFFFFFFFF⟩,
  ⟨0xA0020, 1, 0x0, 1, 0x0, 1, .wo, 0x0, 0x0⟩,
  ⟨0xA0024, 1, 0x0, 1, 0x0, 1, .ro, 0x0, 0x0⟩,
  ⟨0xA0028, 1, 0x0, 1, 0x0, 1, .ro, 0x0, 0x0⟩,
  ⟨0xA0030, 2, 0x0, 1, 0x0, 1, .ro, 0x0, 0x0⟩,
  ⟨0xA0038, 1, 0x0, 1, 0x0, 1, .rc, 0x0, 0x0⟩,
  ⟨0xA003C, 1, 0x0, 1, 0x0, 1, .rc, 0x0, 0x0⟩,
  ⟨0xA0040, 1, 0x0, 1, 0x0, 1, .rc, 0x0, 0x0⟩,
  ⟨0xA0044, 1, 0x0, 1, 0x0, 1, .rc, 0x0, 0x0⟩,
  ⟨0xA0048, 1, 0x0, 1, 0x0, 1, .w1c, 0x0, 0x7⟩,
  ⟨0xA004C, 1, 0x0, 1, 0x0, 1, .rw, 0x0, 0x7⟩,
  ⟨0xB0000, 1, 0x0, 1, 0x0, 1, .ro, 0x100040, 0x0⟩,
  ⟨0xB0004, 1, 0x0, 1, 0x0, 1, .ro, 0x10000, 0x0⟩,
  ⟨0xB0008, 1, 0x0, 1, 0x0, 1, .ro, 0x0, 0x0⟩,
  ⟨0xB000C, 1, 0x0, 1, 0x0, 1, .ro, 0x5DC, 0x0⟩,
  ⟨0xB0040, 1, 0x0, 1, 0x0, 1, .rc, 0x0, 0x0⟩]

/-- Rows of the register map, part 5. -/
def regRows5 : List RegRow := [
  ⟨0xB0044, 1, 0x0, 1, 0x0, 1, .rc, 0x0, 0x0⟩,
  ⟨0xB0048, 1, 0x0, 1, 0x0, 1, .rc, 0x0, 0x0⟩,
  ⟨0xB004C, 1, 0x0, 1, 0x0, 1, .rc, 0x0, 0x0⟩,
  ⟨0xB0050, 1, 0x0, 1, 0x0, 1, .rc, 0x0, 0x0⟩,
  ⟨0xB0054, 1, 0x0, 1, 0x0, 1, .rc, 0x0, 0x0⟩,
  ⟨0xB0058, 1, 0x0, 1, 0x0, 1, .rc, 0x0, 0x0⟩,
  ⟨0xB005C, 1, 0x0, 1, 0x0, 1, .rc, 0x0, 0x0⟩,
  ⟨0xB0060, 1, 0x0, 1, 0x0, 1, .rc, 0x0, 0x0⟩,
  ⟨0xB0064, 1, 0x0, 1, 0x0, 1, .rc, 0x0, 0x0⟩,
  ⟨0xB0068, 1, 0x0, 1, 0x0, 1, .rc, 0x0, 0x0⟩,
  ⟨0xB006C, 1, 0x0, 1, 0x0, 1, .rc, 0x0, 0x0⟩,
  ⟨0xB0070, 1, 0x0, 1, 0x0, 1, .rc, 0x0, 0x0⟩,
  ⟨0xB0074, 1, 0x0, 1, 0x0, 1, .rc, 0x0, 0x0⟩,
  ⟨0xB0080, 1, 0x0, 1, 0x0, 1, .w1c, 0x0, 0xF⟩,
  ⟨0xB0084, 1, 0x0, 1, 0x0, 1, .rw, 0x0, 0xF⟩,
  ⟨0x80100, 1, 0x0, 1, 0x0, 1, .ro, 0x0, 0x0⟩,
  ⟨0x80104, 1, 0x0, 1, 0x0, 1, .wo, 0x0, 0x0⟩,
  ⟨0x80108, 1, 0x0, 1, 0x0, 1, .ro, 0x0, 0x0⟩,
  ⟨0x80110, 2, 0x0, 1, 0x0, 1, .rw, 0x0, 0xFFFFFFFFFFFFFFFF⟩,
  ⟨0x80118, 2, 0x0, 1, 0x0, 1, .rw, 0x0, 0xFFFFFFFFFFFFFFFF⟩,
  ⟨0x80120, 2, 0x0, 1, 0x0, 1, .ro, 0x0, 0x0⟩,
  ⟨0x80128, 1, 0x0, 1, 0x0, 1, .lk, 0x258, 0xFFFFF⟩,
  ⟨0x80140, 1, 0x0, 1, 0x0, 1, .rc, 0x0, 0x0⟩,
  ⟨0x80144, 1, 0x0, 1, 0x0, 1, .rc, 0x0, 0x0⟩]

/-- Rows of the register map, part 6. -/
def regRows6 : List RegRow := [
  ⟨0x80148, 1, 0x0, 1, 0x0, 1, .rc, 0x0, 0x0⟩,
  ⟨0x8014C, 1, 0x0, 1, 0x0, 1, .rc, 0x0, 0x0⟩,
  ⟨0x80150, 1, 0x0, 1, 0x0, 1, .rc, 0x0, 0x0⟩,
  ⟨0x80154, 1, 0x0, 1, 0x0, 1, .rc, 0x0, 0x0⟩,
  ⟨0x80158, 1, 0x0, 1, 0x0, 1, .rc, 0x0, 0x0⟩,
  ⟨0x8015C, 1, 0x0, 1, 0x0, 1, .w1c, 0x0, 0x7⟩,
  ⟨0x80160, 1, 0x0, 1, 0x0, 1, .rw, 0x0, 0x7⟩,
  ⟨0xC0000, 1, 0x0, 1, 0x0, 1, .ro, 0x10000, 0x0⟩,
  ⟨0xC0004, 1, 0x0, 1, 0x0, 1, .ro, 0x0, 0x0⟩,
  ⟨0xC0008, 1, 0x0, 1, 0x0, 1, .ro, 0x0, 0x0⟩,
  ⟨0xC000C, 1, 0x0, 1, 0x0, 1, .ro, 0x0, 0x0⟩,
  ⟨0xC0010, 1, 0x0, 1, 0x0, 1, .ro, 0x0, 0x0⟩,
  ⟨0xC0014, 1, 0x0, 1, 0x0, 1, .ro, 0x0, 0x0⟩,
  ⟨0xC0018, 1, 0x0, 1, 0x0, 1, .ro, 0x0, 0x0⟩,
  ⟨0xC001C, 1, 0x0, 1, 0x0, 1, .ro, 0x0, 0x0⟩,
  ⟨0xC0020, 1, 0x0, 1, 0x0, 1, .rw, 0x0, 0xFFFF⟩,
  ⟨0xC0024, 1, 0x0, 1, 0x0, 1, .rw, 0x0, 0xFFFFFFFF⟩,
  ⟨0xC0028, 1, 0x0, 1, 0x0, 1, .wo, 0x0, 0x0⟩,
  ⟨0xC002C, 1, 0x0, 1, 0x0, 1, .ro, 0x0, 0x0⟩,
  ⟨0xC0030, 1, 0x0, 1, 0x0, 1, .ro, 0x0, 0x0⟩,
  ⟨0xC0034, 1, 0x0, 1, 0x0, 1, .ro, 0x0, 0x0⟩,
  ⟨0xC0038, 1, 0x0, 1, 0x0, 1, .lk, 0x40000, 0xFFFFFFFF⟩,
  ⟨0xC0040, 2, 0x0, 1, 0x0, 1, .rw, 0x0, 0xFFFFFFFFFFFFFFFF⟩,
  ⟨0xC0048, 1, 0x0, 1, 0x0, 1, .wo, 0x0, 0x0⟩]

/-- Rows of the register map, part 7. -/
def regRows7 : List RegRow := [
  ⟨0xC004C, 1, 0x0, 1, 0x0, 1, .ro, 0x0, 0x0⟩,
  ⟨0xC0080, 1, 0x0, 1, 0x0, 1, .rc, 0x0, 0x0⟩,
  ⟨0xC0084, 1, 0x0, 1, 0x0, 1, .rc, 0x0, 0x0⟩,
  ⟨0xC0088, 1, 0x0, 1, 0x0, 1, .rc, 0x0, 0x0⟩,
  ⟨0xC008C, 1, 0x0, 1, 0x0, 1, .rc, 0x0, 0x0⟩,
  ⟨0xC0090, 1, 0x0, 1, 0x0, 1, .rc, 0x0, 0x0⟩,
  ⟨0xC0094, 1, 0x0, 1, 0x0, 1, .rc, 0x0, 0x0⟩,
  ⟨0xC0098, 1, 0x0, 1, 0x0, 1, .rc, 0x0, 0x0⟩,
  ⟨0xC009C, 1, 0x0, 1, 0x0, 1, .rc, 0x0, 0x0⟩,
  ⟨0xC00A0, 1, 0x0, 1, 0x0, 1, .rc, 0x0, 0x0⟩,
  ⟨0xC00A4, 1, 0x0, 1, 0x0, 1, .rc, 0x0, 0x0⟩,
  ⟨0xC00A8, 1, 0x0, 1, 0x0, 1, .rc, 0x0, 0x0⟩,
  ⟨0xC00AC, 1, 0x0, 1, 0x0, 1, .rc, 0x0, 0x0⟩,
  ⟨0xC00B0, 1, 0x0, 1, 0x0, 1, .rc, 0x0, 0x0⟩,
  ⟨0xC00C0, 1, 0x0, 1, 0x0, 1, .w1c, 0x0, 0xF⟩,
  ⟨0xC00C4, 1, 0x0, 1, 0x0, 1, .rw, 0x0, 0xF⟩,
  ⟨0xC1000, 1, 0x4, 32, 0x0, 1, .ro, 0x0, 0x0⟩,
  ⟨0x60000, 1, 0x0, 1, 0x0, 1, .ro, 0x0, 0x0⟩,
  ⟨0x60004, 1, 0x0, 1, 0x0, 1, .rw, 0x0, 0x1⟩,
  ⟨0x60008, 1, 0x0, 1, 0x0, 1, .lk, 0x8, 0xFF⟩,
  ⟨0x6000C, 1, 0x0, 1, 0x0, 1, .lk, 0x1, 0xFFFF⟩,
  ⟨0x60010, 1, 0x0, 1, 0x0, 1, .rw, 0x186A0, 0xFFFFFFFF⟩,
  ⟨0x60018, 2, 0x0, 1, 0x0, 1, .lk, 0x10000000000, 0xFFFFFFFFFFFFFFFF⟩,
  ⟨0x60020, 1, 0x0, 1, 0x0, 1, .rw, 0x0, 0xFF⟩]

/-- Rows of the register map, part 8. -/
def regRows8 : List RegRow := [
  ⟨0x60024, 1, 0x0, 1, 0x0, 1, .rw, 0x0, 0xFFFF⟩,
  ⟨0x60028, 1, 0x0, 1, 0x0, 1, .rw, 0x400, 0x1FFF⟩,
  ⟨0x6002C, 1, 0x0, 1, 0x0, 1, .ro, 0x0, 0x0⟩,
  ⟨0x60030, 2, 0x0, 1, 0x0, 1, .ro, 0x0, 0x0⟩,
  ⟨0x60038, 1, 0x0, 1, 0x0, 1, .rw, 0x0, 0x3FFF⟩,
  ⟨0x60040, 2, 0x0, 1, 0x0, 1, .ro, 0x0, 0x0⟩,
  ⟨0x60080, 1, 0x0, 1, 0x0, 1, .rc, 0x0, 0x0⟩,
  ⟨0x60084, 1, 0x0, 1, 0x0, 1, .rc, 0x0, 0x0⟩,
  ⟨0x60088, 1, 0x0, 1, 0x0, 1, .rc, 0x0, 0x0⟩,
  ⟨0x6008C, 1, 0x0, 1, 0x0, 1, .rc, 0x0, 0x0⟩,
  ⟨0x60090, 1, 0x0, 1, 0x0, 1, .rc, 0x0, 0x0⟩,
  ⟨0x60094, 1, 0x0, 1, 0x0, 1, .rc, 0x0, 0x0⟩,
  ⟨0x60098, 1, 0x0, 1, 0x0, 1, .rc, 0x0, 0x0⟩,
  ⟨0x600A0, 1, 0x0, 1, 0x0, 1, .w1c, 0x0, 0x7⟩,
  ⟨0x600A4, 1, 0x0, 1, 0x0, 1, .rw, 0x0, 0x7⟩,
  ⟨0x70000, 1, 0x0, 1, 0x0, 1, .ro, 0x0, 0x0⟩,
  ⟨0x70004, 1, 0x0, 1, 0x0, 1, .rw, 0xBB8, 0xFFF⟩,
  ⟨0x70008, 1, 0x0, 1, 0x0, 1, .lk, 0x8000, 0x1FFFF⟩,
  ⟨0x7000C, 1, 0x0, 1, 0x0, 1, .lk, 0x12C, 0xFFF⟩,
  ⟨0x70010, 1, 0x0, 1, 0x0, 1, .ro, 0x0, 0x0⟩,
  ⟨0x70018, 2, 0x0, 1, 0x0, 1, .ro, 0x0, 0x0⟩,
  ⟨0x70020, 2, 0x0, 1, 0x0, 1, .ro, 0x0, 0x0⟩,
  ⟨0x70028, 2, 0x0, 1, 0x0, 1, .ro, 0x0, 0x0⟩,
  ⟨0x70030, 2, 0x0, 1, 0x0, 1, .ro, 0x0, 0x0⟩]

/-- Rows of the register map, part 9. -/
def regRows9 : List RegRow := [
  ⟨0x70038, 2, 0x0, 1, 0x0, 1, .roSt, 0x0, 0x0⟩,
  ⟨0x70040, 1, 0x0, 1, 0x0, 1, .rw, 0x0, 0xFFF⟩,
  ⟨0x70048, 2, 0x0, 1, 0x0, 1, .ro, 0x0, 0x0⟩,
  ⟨0x70050, 1, 0x0, 1, 0x0, 1, .w1c, 0x0, 0xF⟩,
  ⟨0x70054, 1, 0x0, 1, 0x0, 1, .rw, 0x0, 0xF⟩,
  ⟨0x40000, 1, 0x0, 1, 0x0, 1, .ro, 0x100, 0x0⟩,
  ⟨0x40004, 1, 0x0, 1, 0x0, 1, .ro, 0x3F, 0x0⟩,
  ⟨0x40008, 1, 0x0, 1, 0x0, 1, .ro, 0x0, 0x0⟩,
  ⟨0x4000C, 1, 0x0, 1, 0x0, 1, .ro, 0x1000, 0x0⟩,
  ⟨0x40010, 1, 0x0, 1, 0x0, 1, .ro, 0x0, 0x0⟩,
  ⟨0x40014, 1, 0x0, 1, 0x0, 1, .ro, 0x0, 0x0⟩,
  ⟨0x40018, 1, 0x0, 1, 0x0, 1, .rc, 0x0, 0x0⟩,
  ⟨0x4001C, 1, 0x0, 1, 0x0, 1, .roSt, 0x0, 0x0⟩,
  ⟨0x48000, 2, 0x80, 256, 0x0, 1, .rw, 0x0, 0xFFFFFFFFFFFFFFFF⟩,
  ⟨0x48008, 2, 0x80, 256, 0x0, 1, .rw, 0x0, 0xFFFFFFFFFFFFFFFF⟩,
  ⟨0x48010, 1, 0x80, 256, 0x0, 1, .rw, 0x606, 0x1F1F⟩,
  ⟨0x48014, 1, 0x80, 256, 0x0, 1, .rw, 0x0, 0x1⟩,
  ⟨0x48018, 1, 0x80, 256, 0x0, 1, .rw, 0x0, 0x803F00FF⟩,
  ⟨0x4801C, 1, 0x80, 256, 0x0, 1, .rw, 0x0, 0x1F⟩,
  ⟨0x48020, 1, 0x80, 256, 0x0, 1, .rw, 0x0, 0xFFFFFFFF⟩,
  ⟨0x48024, 1, 0x80, 256, 0x0, 1, .ro, 0xFFFFFFFF, 0x0⟩,
  ⟨0x48028, 1, 0x80, 256, 0x0, 1, .ro, 0xFFFFFFFF, 0x0⟩,
  ⟨0x4802C, 1, 0x80, 256, 0x0, 1, .ro, 0x0, 0x0⟩,
  ⟨0x48030, 1, 0x80, 256, 0x0, 1, .wo, 0x0, 0x0⟩]

/-- Rows of the register map, part 10. -/
def regRows10 : List RegRow := [
  ⟨0x48034, 1, 0x80, 256, 0x0, 1, .ro, 0x0, 0x0⟩,
  ⟨0x48038, 1, 0x80, 256, 0x0, 1, .ro, 0x0, 0x0⟩,
  ⟨0x4803C, 1, 0x80, 256, 0x0, 1, .rw, 0x1, 0xFFFFFFFF⟩,
  ⟨0x48040, 1, 0x80, 256, 0x0, 1, .rc, 0x0, 0x0⟩,
  ⟨0x48044, 1, 0x80, 256, 0x0, 1, .rc, 0x0, 0x0⟩,
  ⟨0x48048, 1, 0x80, 256, 0x0, 1, .rc, 0x0, 0x0⟩,
  ⟨0x4804C, 1, 0x80, 256, 0x0, 1, .rc, 0x0, 0x0⟩,
  ⟨0x48050, 1, 0x80, 256, 0x0, 1, .rc, 0x0, 0x0⟩,
  ⟨0x48054, 1, 0x80, 256, 0x0, 1, .w1c, 0x0, 0xF⟩,
  ⟨0x48058, 1, 0x80, 256, 0x0, 1, .rw, 0x0, 0xF⟩,
  ⟨0x50000, 1, 0x400, 32, 0x0, 1, .rw, 0x0, 0x0⟩,
  ⟨0x50004, 1, 0x400, 32, 0x0, 1, .wo, 0x0, 0x0⟩,
  ⟨0x50008, 1, 0x400, 32, 0x0, 1, .ro, 0x0, 0x0⟩,
  ⟨0x5000C, 1, 0x400, 32, 0x0, 1, .ro, 0x0, 0x0⟩,
  ⟨0x50010, 2, 0x400, 32, 0x0, 1, .lk, 0x1, 0xFFFFFFFFFFFFFFFF⟩,
  ⟨0x50018, 1, 0x400, 32, 0x0, 1, .w1c, 0x0, 0x3⟩,
  ⟨0x5001C, 1, 0x400, 32, 0x0, 1, .rw, 0x0, 0x3⟩,
  ⟨0x50020, 1, 0x400, 32, 0x0, 1, .rw, 0x0, 0x1F⟩,
  ⟨0x50100, 64, 0x400, 32, 0x0, 1, .rw, 0x0, 0xFFFFFFFFFFFFFFFF⟩,
  ⟨0x50200, 64, 0x400, 32, 0x0, 1, .ro, 0x0, 0x0⟩,
  ⟨0x58000, 1, 0x0, 1, 0x0, 1, .ro, 0x0, 0x0⟩,
  ⟨0x58004, 1, 0x0, 1, 0x0, 1, .lk, 0x186A0, 0xFFFFFF⟩,
  ⟨0x58008, 1, 0x0, 1, 0x0, 1, .rc, 0x0, 0x0⟩,
  ⟨0x5800C, 1, 0x0, 1, 0x0, 1, .rc, 0x0, 0x0⟩]

/-- Rows of the register map, part 11. -/
def regRows11 : List RegRow := [
  ⟨0x58010, 1, 0x0, 1, 0x0, 1, .rc, 0x0, 0x0⟩,
  ⟨0x58014, 1, 0x0, 1, 0x0, 1, .rc, 0x0, 0x0⟩,
  ⟨0x100000, 1, 0x40000, 4, 0x0, 1, .ro, 0x0, 0x0⟩,
  ⟨0x100004, 1, 0x40000, 4, 0x0, 1, .rw, 0x0, 0x1⟩,
  ⟨0x100008, 2, 0x40000, 4, 0x0, 1, .lk, 0x0, 0xFFFFFFFFFFFF⟩,
  ⟨0x100010, 1, 0x40000, 4, 0x0, 1, .lk, 0x88B5, 0xFFFF⟩,
  ⟨0x100014, 1, 0x40000, 4, 0x0, 1, .rw, 0x32, 0xFFFF⟩,
  ⟨0x100018, 1, 0x40000, 4, 0x0, 1, .rw, 0x8, 0xFF⟩,
  ⟨0x10001C, 1, 0x40000, 4, 0x0, 1, .rw, 0x2, 0xFF⟩,
  ⟨0x100020, 1, 0x40000, 4, 0x0, 1, .rw, 0x7, 0x7⟩,
  ⟨0x100024, 1, 0x40000, 4, 0x0, 1, .lk, 0xFFFF, 0xFFFF⟩,
  ⟨0x100028, 1, 0x40000, 4, 0x0, 1, .rw, 0xC00, 0x1FFF⟩,
  ⟨0x10002C, 1, 0x40000, 4, 0x0, 1, .ro, 0xFF, 0x0⟩,
  ⟨0x100040, 2, 0x40000, 4, 0x0, 1, .rc, 0x0, 0x0⟩,
  ⟨0x100048, 2, 0x40000, 4, 0x0, 1, .rc, 0x0, 0x0⟩,
  ⟨0x100050, 1, 0x40000, 4, 0x0, 1, .rc, 0x0, 0x0⟩,
  ⟨0x100054, 1, 0x40000, 4, 0x0, 1, .rc, 0x0, 0x0⟩,
  ⟨0x100058, 1, 0x40000, 4, 0x0, 1, .rc, 0x0, 0x0⟩,
  ⟨0x10005C, 1, 0x40000, 4, 0x0, 1, .rc, 0x0, 0x0⟩,
  ⟨0x100060, 1, 0x40000, 4, 0x0, 1, .rc, 0x0, 0x0⟩,
  ⟨0x100064, 1, 0x40000, 4, 0x0, 1, .rc, 0x0, 0x0⟩,
  ⟨0x100068, 1, 0x40000, 4, 0x0, 1, .rc, 0x0, 0x0⟩,
  ⟨0x10006C, 1, 0x40000, 4, 0x0, 1, .rc, 0x0, 0x0⟩,
  ⟨0x100070, 1, 0x40000, 4, 0x0, 1, .rc, 0x0, 0x0⟩]

/-- Rows of the register map, part 12. -/
def regRows12 : List RegRow := [
  ⟨0x100074, 1, 0x40000, 4, 0x0, 1, .rc, 0x0, 0x0⟩,
  ⟨0x100078, 1, 0x40000, 4, 0x0, 1, .rc, 0x0, 0x0⟩,
  ⟨0x10007C, 1, 0x40000, 4, 0x0, 1, .rc, 0x0, 0x0⟩,
  ⟨0x100080, 1, 0x40000, 4, 0x0, 1, .rc, 0x0, 0x0⟩,
  ⟨0x100084, 1, 0x40000, 4, 0x0, 1, .w1c, 0x0, 0xF⟩,
  ⟨0x100088, 1, 0x40000, 4, 0x0, 1, .rw, 0x0, 0xF⟩,
  ⟨0x101000, 1, 0x40000, 4, 0x40, 8, .rw, 0x0, 0x3⟩,
  ⟨0x101004, 1, 0x40000, 4, 0x40, 8, .rw, 0x0, 0x1FFFF⟩,
  ⟨0x101008, 1, 0x40000, 4, 0x40, 8, .rw, 0x2400, 0xFFFFFF⟩,
  ⟨0x10100C, 1, 0x40000, 4, 0x40, 8, .rw, 0x2400, 0xFFFFFF⟩,
  ⟨0x101010, 1, 0x40000, 4, 0x40, 8, .rw, 0x2400, 0x3FFFF⟩,
  ⟨0x101014, 1, 0x40000, 4, 0x40, 8, .ro, 0x0, 0x0⟩,
  ⟨0x101018, 2, 0x40000, 4, 0x40, 8, .ro, 0x0, 0x0⟩,
  ⟨0x101020, 1, 0x40000, 4, 0x40, 8, .ro, 0x0, 0x0⟩,
  ⟨0x101024, 1, 0x40000, 4, 0x40, 8, .rc, 0x0, 0x0⟩,
  ⟨0x101028, 1, 0x40000, 4, 0x40, 8, .rc, 0x0, 0x0⟩,
  ⟨0x10102C, 1, 0x40000, 4, 0x40, 8, .rc, 0x0, 0x0⟩,
  ⟨0x102000, 1, 0x40000, 4, 0x0, 1, .rw, 0x0, 0x3FF⟩,
  ⟨0x102004, 1, 0x40000, 4, 0x0, 1, .rw, 0x0, 0x7⟩,
  ⟨0x102008, 1, 0x40000, 4, 0x0, 1, .rw, 0x0, 0xFFFFFFFF⟩,
  ⟨0x10200C, 1, 0x40000, 4, 0x0, 1, .rw, 0x0, 0xFFFFFFFF⟩,
  ⟨0x102010, 1, 0x40000, 4, 0x0, 1, .rw, 0x2400, 0xFFFFFF⟩,
  ⟨0x102014, 1, 0x40000, 4, 0x0, 1, .rw, 0x2400, 0xFFFFFF⟩,
  ⟨0x102018, 1, 0x40000, 4, 0x0, 1, .rc, 0x0, 0x0⟩]

/-- Rows of the register map, part 13. -/
def regRows13 : List RegRow := [
  ⟨0x10201C, 1, 0x40000, 4, 0x0, 1, .rc, 0x0, 0x0⟩,
  ⟨0x102020, 1, 0x40000, 4, 0x0, 1, .rc, 0x0, 0x0⟩,
  ⟨0x103000, 1, 0x40000, 4, 0x0, 1, .rw, 0x0, 0xFF⟩,
  ⟨0x103008, 2, 0x40000, 4, 0x0, 1, .rw, 0x0, 0xFFFFFFFFFFFF⟩,
  ⟨0x103010, 1, 0x40000, 4, 0x0, 1, .rw, 0x0, 0xFFFF⟩,
  ⟨0x103014, 1, 0x40000, 4, 0x0, 1, .rw, 0x0, 0x7FFFF1F⟩,
  ⟨0x103018, 1, 0x40000, 4, 0x0, 1, .ro, 0x0, 0x0⟩,
  ⟨0x10301C, 1, 0x40000, 4, 0x0, 1, .ro, 0x0, 0x0⟩,
  ⟨0x103020, 1, 0x40000, 4, 0x0, 1, .ro, 0xFFFFFFFF, 0x0⟩,
  ⟨0x103024, 1, 0x40000, 4, 0x0, 1, .ro, 0x0, 0x0⟩,
  ⟨0x103028, 1, 0x40000, 4, 0x0, 1, .wo, 0x0, 0x0⟩,
  ⟨0x200000, 1, 0x0, 1, 0x0, 1, .ro, 0x0, 0x0⟩,
  ⟨0x200004, 1, 0x0, 1, 0x0, 1, .rw, 0x0, 0x4⟩,
  ⟨0x200008, 1, 0x0, 1, 0x0, 1, .lk, 0x0, 0x3⟩,
  ⟨0x20000C, 1, 0x0, 1, 0x0, 1, .lk, 0x2710, 0xFFFFFF⟩,
  ⟨0x200010, 1, 0x0, 1, 0x0, 1, .rw, 0x4, 0xFFFF⟩,
  ⟨0x200018, 2, 0x0, 1, 0x0, 1, .roSt, 0x0, 0x0⟩,
  ⟨0x200020, 2, 0x0, 1, 0x0, 1, .ro, 0x0, 0x0⟩,
  ⟨0x200028, 2, 0x0, 1, 0x0, 1, .ro, 0x0, 0x0⟩,
  ⟨0x200030, 1, 0x0, 1, 0x0, 1, .ro, 0x0, 0x0⟩,
  ⟨0x200040, 1, 0x0, 1, 0x0, 1, .rc, 0x0, 0x0⟩,
  ⟨0x200044, 1, 0x0, 1, 0x0, 1, .rc, 0x0, 0x0⟩,
  ⟨0x200048, 1, 0x0, 1, 0x0, 1, .rc, 0x0, 0x0⟩,
  ⟨0x20004C, 1, 0x0, 1, 0x0, 1, .rc, 0x0, 0x0⟩]

/-- Rows of the register map, part 14. -/
def regRows14 : List RegRow := [
  ⟨0x200050, 1, 0x0, 1, 0x0, 1, .roSt, 0x0, 0x0⟩,
  ⟨0x200054, 1, 0x0, 1, 0x0, 1, .rc, 0x0, 0x0⟩,
  ⟨0x200058, 1, 0x0, 1, 0x0, 1, .rc, 0x0, 0x0⟩,
  ⟨0x20005C, 1, 0x0, 1, 0x0, 1, .rc, 0x0, 0x0⟩,
  ⟨0x200060, 1, 0x0, 1, 0x0, 1, .rc, 0x0, 0x0⟩,
  ⟨0x200064, 1, 0x0, 1, 0x0, 1, .w1c, 0x0, 0x3F⟩,
  ⟨0x200068, 1, 0x0, 1, 0x0, 1, .rw, 0x0, 0x3F⟩,
  ⟨0x280000, 1, 0x0, 1, 0x0, 1, .ro, 0x0, 0x0⟩,
  ⟨0x280008, 2, 0x0, 1, 0x0, 1, .ro, 0x0, 0x0⟩,
  ⟨0x280010, 1, 0x0, 1, 0x0, 1, .ro, 0x0, 0x0⟩,
  ⟨0x280014, 1, 0x0, 1, 0x0, 1, .ro, 0x0, 0x0⟩,
  ⟨0x280018, 1, 0x0, 1, 0x0, 1, .ro, 0x0, 0x0⟩,
  ⟨0x28001C, 2, 0x0, 1, 0x0, 1, .ro, 0x0, 0x0⟩,
  ⟨0x280040, 1, 0x0, 1, 0x0, 1, .rw, 0x0, 0x3F03⟩,
  ⟨0x280048, 2, 0x0, 1, 0x0, 1, .rw, 0x0, 0xFFFFFFFFFFFFFFFF⟩,
  ⟨0x280050, 2, 0x0, 1, 0x0, 1, .rw, 0x0, 0xFFFFFFFFFFFFFFFF⟩,
  ⟨0x280058, 2, 0x0, 1, 0x0, 1, .rw, 0x0, 0xFFFFFFFFFFFFFFFF⟩,
  ⟨0x280080, 1, 0x0, 1, 0x0, 1, .rc, 0x0, 0x0⟩,
  ⟨0x280084, 1, 0x0, 1, 0x0, 1, .rc, 0x0, 0x0⟩,
  ⟨0x280088, 1, 0x0, 1, 0x0, 1, .rc, 0x0, 0x0⟩,
  ⟨0x28008C, 1, 0x0, 1, 0x0, 1, .rc, 0x0, 0x0⟩,
  ⟨0x280090, 1, 0x0, 1, 0x0, 1, .rc, 0x0, 0x0⟩,
  ⟨0x280094, 1, 0x0, 1, 0x0, 1, .w1c, 0x0, 0xF⟩,
  ⟨0x280098, 1, 0x0, 1, 0x0, 1, .rw, 0x0, 0xF⟩]

/-- Rows of the register map, part 15. -/
def regRows15 : List RegRow := [
  ⟨0x300000, 1, 0x0, 1, 0x0, 1, .ro, 0x0, 0x0⟩,
  ⟨0x300004, 1, 0x0, 1, 0x0, 1, .ro, 0x0, 0x0⟩,
  ⟨0x300008, 2, 0x0, 1, 0x0, 1, .ro, 0x0, 0x0⟩,
  ⟨0x300010, 2, 0x0, 1, 0x0, 1, .ro, 0x0, 0x0⟩,
  ⟨0x300018, 1, 0x0, 1, 0x0, 1, .ro, 0x0, 0x0⟩,
  ⟨0x30001C, 1, 0x0, 1, 0x0, 1, .ro, 0x0, 0x0⟩,
  ⟨0x300020, 1, 0x0, 1, 0x0, 1, .ro, 0x0, 0x0⟩,
  ⟨0x300024, 1, 0x0, 1, 0x0, 1, .ro, 0x0, 0x0⟩,
  ⟨0x300028, 1, 0x0, 1, 0x0, 1, .rw, 0x0, 0x3⟩,
  ⟨0x300030, 2, 0x0, 1, 0x0, 1, .ro, 0x0, 0x0⟩,
  ⟨0x300040, 1, 0x0, 1, 0x0, 1, .rc, 0x0, 0x0⟩,
  ⟨0x300044, 1, 0x0, 1, 0x0, 1, .rc, 0x0, 0x0⟩,
  ⟨0x300048, 1, 0x0, 1, 0x0, 1, .rc, 0x0, 0x0⟩,
  ⟨0x30004C, 1, 0x0, 1, 0x0, 1, .w1c, 0x0, 0xF⟩,
  ⟨0x300050, 1, 0x0, 1, 0x0, 1, .rw, 0x0, 0xF⟩,
  ⟨0x380000, 1, 0x0, 1, 0x0, 1, .ro, 0x0, 0x0⟩,
  ⟨0x380004, 1, 0x0, 1, 0x0, 1, .roSt, 0x0, 0x0⟩,
  ⟨0x380008, 1, 0x0, 1, 0x0, 1, .rw, 0x0, 0x2⟩,
  ⟨0x38000C, 1, 0x0, 1, 0x0, 1, .ro, 0x0, 0x0⟩,
  ⟨0x380010, 1, 0x0, 1, 0x0, 1, .roSt, 0x0, 0x0⟩,
  ⟨0x380014, 1, 0x0, 1, 0x0, 1, .ro, 0x0, 0x0⟩,
  ⟨0x380100, 4, 0x10, 4, 0x0, 1, .ro, 0x0, 0x0⟩,
  ⟨0x380140, 4, 0x0, 1, 0x0, 1, .ro, 0x0, 0x0⟩,
  ⟨0x380200, 4, 0x10, 4, 0x0, 1, .ro, 0x0, 0x0⟩]

/-- Rows of the register map, part 16. -/
def regRows16 : List RegRow := [
  ⟨0x380240, 1, 0x0, 1, 0x0, 1, .ro, 0x0, 0x0⟩,
  ⟨0x380244, 1, 0x0, 1, 0x0, 1, .ro, 0x0, 0x0⟩,
  ⟨0x380260, 1, 0x0, 1, 0x0, 1, .rw, 0x0, 0x701FF⟩,
  ⟨0x380264, 1, 0x0, 1, 0x0, 1, .wo, 0x0, 0x0⟩,
  ⟨0x380268, 1, 0x0, 1, 0x0, 1, .ro, 0x0, 0x0⟩,
  ⟨0x38026C, 1, 0x0, 1, 0x0, 1, .ro, 0x0, 0x0⟩,
  ⟨0x380280, 1, 0x0, 1, 0x0, 1, .rc, 0x0, 0x0⟩,
  ⟨0x380284, 1, 0x0, 1, 0x0, 1, .rc, 0x0, 0x0⟩,
  ⟨0x380288, 1, 0x0, 1, 0x0, 1, .rc, 0x0, 0x0⟩,
  ⟨0x38028C, 1, 0x0, 1, 0x0, 1, .rc, 0x0, 0x0⟩,
  ⟨0x380290, 1, 0x0, 1, 0x0, 1, .roSt, 0x0, 0x0⟩,
  ⟨0x380294, 1, 0x0, 1, 0x0, 1, .w1c, 0x0, 0xF⟩,
  ⟨0x380298, 1, 0x0, 1, 0x0, 1, .rw, 0x0, 0xF⟩,
  ⟨0x400000, 1, 0x0, 1, 0x0, 1, .rw, 0x0, 0x5⟩,
  ⟨0x400008, 2, 0x0, 1, 0x0, 1, .ro, 0x0, 0x0⟩,
  ⟨0x400010, 1, 0x4, 3, 0x0, 1, .w1c, 0x0, 0xFFFFFFFF⟩,
  ⟨0x400020, 1, 0x4, 3, 0x0, 1, .rw, 0x0, 0xFFFFFFFF⟩,
  ⟨0x400030, 1, 0x0, 1, 0x0, 1, .w1c, 0x0, 0x1⟩,
  ⟨0x400034, 1, 0x0, 1, 0x0, 1, .rw, 0x0, 0x1⟩,
  ⟨0x401000, 1, 0x4, 96, 0x0, 1, .rw, 0x0, 0xFFFFFF⟩,
  ⟨0x402000, 2, 0x8, 96, 0x0, 1, .ro, 0x0, 0x0⟩,
  ⟨0x403000, 2, 0x8, 96, 0x0, 1, .ro, 0x0, 0x0⟩,
  ⟨0x480000, 1, 0x0, 1, 0x0, 1, .roSt, 0x0, 0x0⟩,
  ⟨0x480004, 1, 0x0, 1, 0x0, 1, .ro, 0x0, 0x0⟩]

/-- Rows of the register map, part 17. -/
def regRows17 : List RegRow := [
  ⟨0x480008, 1, 0x0, 1, 0x0, 1, .roSt, 0x0, 0x0⟩,
  ⟨0x48000C, 1, 0x0, 1, 0x0, 1, .rc, 0x0, 0x0⟩,
  ⟨0x480010, 1, 0x0, 1, 0x0, 1, .rc, 0x0, 0x0⟩,
  ⟨0x480014, 1, 0x0, 1, 0x0, 1, .rc, 0x0, 0x0⟩,
  ⟨0x480018, 1, 0x0, 1, 0x0, 1, .rc, 0x0, 0x0⟩,
  ⟨0x48001C, 1, 0x0, 1, 0x0, 1, .rc, 0x0, 0x0⟩,
  ⟨0x480020, 1, 0x0, 1, 0x0, 1, .rc, 0x0, 0x0⟩,
  ⟨0x480028, 2, 0x0, 1, 0x0, 1, .ro, 0x0, 0x0⟩,
  ⟨0x480030, 2, 0x0, 1, 0x0, 1, .ro, 0x0, 0x0⟩,
  ⟨0x480038, 1, 0x0, 1, 0x0, 1, .rw, 0x400, 0xFFFFFFFF⟩,
  ⟨0x48003C, 1, 0x0, 1, 0x0, 1, .w1c, 0x0, 0x1F⟩,
  ⟨0x480040, 1, 0x0, 1, 0x0, 1, .rw, 0x0, 0x1F⟩,
  ⟨0x480044, 1, 0x0, 1, 0x0, 1, .ro, 0x0, 0x0⟩,
  ⟨0x480080, 1, 0x4, 21, 0x0, 1, .rw, 0x0, 0x9F⟩,
  ⟨0x481000, 8, 0x20, 512, 0x0, 1, .ro, 0x0, 0x0⟩,
  ⟨0x489000, 2, 0x0, 1, 0x0, 1, .ro, 0x0, 0x0⟩,
  ⟨0x488034, 1, 0x40, 64, 0x0, 1, .ro, 0x0, 0x0⟩,
  ⟨0x488038, 2, 0x40, 64, 0x0, 1, .ro, 0x0, 0x0⟩,
  ⟨0x4805C, 9, 0x80, 256, 0x0, 1, .ro, 0x0, 0x0⟩]

/-- The register map. -/
def regMap : List RegRow :=
  regRows0 ++ regRows1 ++ regRows2 ++ regRows3 ++ regRows4 ++ regRows5 ++ regRows6 ++ regRows7 ++ regRows8 ++ regRows9 ++ regRows10 ++ regRows11 ++ regRows12 ++ regRows13 ++ regRows14 ++ regRows15 ++ regRows16 ++ regRows17

/-- RC counters of the blocks of event classes 0x10 to 0x1E, in ascending offset (Table 22.5). -/
def rcBlocks : List (List Nat) := [
  [0x10040, 0x10044, 0x10048],
  [0x80040, 0x80044, 0x80048, 0x8004C, 0x80050, 0x80054, 0x80058, 0x8005C, 0x80140, 0x80144, 0x80148, 0x8014C, 0x80150, 0x80154, 0x80158],
  [0x90040, 0x90044, 0x90048, 0x9004C, 0x90050, 0x90054, 0x90058, 0x9005C],
  [0xA0038, 0xA003C, 0xA0040, 0xA0044],
  [0xB0040, 0xB0044, 0xB0048, 0xB004C, 0xB0050, 0xB0054, 0xB0058, 0xB005C, 0xB0060, 0xB0064, 0xB0068, 0xB006C, 0xB0070, 0xB0074],
  [0xC0080, 0xC0084, 0xC0088, 0xC008C, 0xC0090, 0xC0094, 0xC0098, 0xC009C, 0xC00A0, 0xC00A4, 0xC00A8, 0xC00AC, 0xC00B0],
  [0x60080, 0x60084, 0x60088, 0x6008C, 0x60090, 0x60094, 0x60098],
  [0x100040, 0x100048, 0x100050, 0x100054, 0x100058, 0x10005C, 0x100060, 0x100064, 0x100068, 0x10006C, 0x100070, 0x100074, 0x100078, 0x10007C, 0x100080, 0x101024, 0x101028, 0x10102C, 0x101064, 0x101068, 0x10106C, 0x1010A4, 0x1010A8, 0x1010AC, 0x1010E4, 0x1010E8, 0x1010EC, 0x101124, 0x101128, 0x10112C, 0x101164, 0x101168, 0x10116C, 0x1011A4, 0x1011A8, 0x1011AC, 0x1011E4, 0x1011E8, 0x1011EC, 0x102018, 0x10201C, 0x102020],
  [0x140040, 0x140048, 0x140050, 0x140054, 0x140058, 0x14005C, 0x140060, 0x140064, 0x140068, 0x14006C, 0x140070, 0x140074, 0x140078, 0x14007C, 0x140080, 0x141024, 0x141028, 0x14102C, 0x141064, 0x141068, 0x14106C, 0x1410A4, 0x1410A8, 0x1410AC, 0x1410E4, 0x1410E8, 0x1410EC, 0x141124, 0x141128, 0x14112C, 0x141164, 0x141168, 0x14116C, 0x1411A4, 0x1411A8, 0x1411AC, 0x1411E4, 0x1411E8, 0x1411EC, 0x142018, 0x14201C, 0x142020],
  [0x180040, 0x180048, 0x180050, 0x180054, 0x180058, 0x18005C, 0x180060, 0x180064, 0x180068, 0x18006C, 0x180070, 0x180074, 0x180078, 0x18007C, 0x180080, 0x181024, 0x181028, 0x18102C, 0x181064, 0x181068, 0x18106C, 0x1810A4, 0x1810A8, 0x1810AC, 0x1810E4, 0x1810E8, 0x1810EC, 0x181124, 0x181128, 0x18112C, 0x181164, 0x181168, 0x18116C, 0x1811A4, 0x1811A8, 0x1811AC, 0x1811E4, 0x1811E8, 0x1811EC, 0x182018, 0x18201C, 0x182020],
  [0x1C0040, 0x1C0048, 0x1C0050, 0x1C0054, 0x1C0058, 0x1C005C, 0x1C0060, 0x1C0064, 0x1C0068, 0x1C006C, 0x1C0070, 0x1C0074, 0x1C0078, 0x1C007C, 0x1C0080, 0x1C1024, 0x1C1028, 0x1C102C, 0x1C1064, 0x1C1068, 0x1C106C, 0x1C10A4, 0x1C10A8, 0x1C10AC, 0x1C10E4, 0x1C10E8, 0x1C10EC, 0x1C1124, 0x1C1128, 0x1C112C, 0x1C1164, 0x1C1168, 0x1C116C, 0x1C11A4, 0x1C11A8, 0x1C11AC, 0x1C11E4, 0x1C11E8, 0x1C11EC, 0x1C2018, 0x1C201C, 0x1C2020],
  [0x200040, 0x200044, 0x200048, 0x20004C, 0x200054, 0x200058, 0x20005C, 0x200060],
  [0x280080, 0x280084, 0x280088, 0x28008C, 0x280090],
  [0x300040, 0x300044, 0x300048],
  [0x380280, 0x380284, 0x380288, 0x38028C]]

/-- The row and the byte offset within the register of BAR0 offset `a`, where row `r` covers it. -/
def RegRow.covers (r : RegRow) (a : Nat) : Option Nat :=
  if a < r.base then none
  else
    let d := a - r.base
    let i := if r.n1 ≤ 1 then 0 else d / r.s1
    let d1 := d - i * r.s1
    let j := if r.n2 ≤ 1 then 0 else d1 / r.s2
    let d2 := d1 - j * r.s2
    if i < r.n1 ∧ j < r.n2 ∧ d2 < 4 * r.words then some d2 else none

/-- The register that covers BAR0 offset `a`: its row and the byte offset of `a` within it. -/
def findReg (a : Nat) : List RegRow → Option (RegRow × Nat)
  | [] => none
  | r :: rs =>
    match r.covers a with
    | some d => some (r, d)
    | none => findReg a rs

/-- The row of the 32-bit word at offset `a`. -/
def regRow (a : Nat) : Option (RegRow × Nat) := findReg a regMap

/-- The 32-bit word of a register's reset value at byte offset `d` within it. Values longer than 64 bits reset to 0. -/
def RegRow.resetWord (r : RegRow) (d : Nat) : Word := if d < 8 then BitVec.ofNat 32 (r.reset / 2 ^ (8 * (d / 4 * 4))) else 0

/-- The writable bits of the 32-bit word at byte offset `d` of a register. -/
def RegRow.maskWord (r : RegRow) (d : Nat) : Word :=
  if r.words ≤ 2 then BitVec.ofNat 32 (r.mask / 2 ^ (8 * (d / 4 * 4))) else if r.mask = 0 then 0 else 0xFFFFFFFF

/-- What an unlisted word of the register file reads as: the reset value of its register. -/
def regReset (a : Nat) : Word :=
  match regRow a with
  | some (r, d) => r.resetWord d
  | none => 0

/-- The INT_STATUS and INT_ENABLE offsets of summary bits 0 to 19 of ERR_INT_SUMMARY (R459). -/
def intBlocks : List (Nat × Nat) :=
  [(0x10050, 0x10054), (0x200AC, 0x200B0), (0x600A0, 0x600A4), (0x70050, 0x70054), (0x80060, 0x80064), (0x8015C, 0x80160),
   (0x90060, 0x90064), (0xA0048, 0xA004C), (0xB0080, 0xB0084), (0xC00C0, 0xC00C4), (0x100084, 0x100088), (0x140084, 0x140088),
   (0x180084, 0x180088), (0x1C0084, 0x1C0088), (0x200064, 0x200068), (0x280094, 0x280098), (0x30004C, 0x300050),
   (0x380294, 0x380298), (0x400030, 0x400034), (0x48003C, 0x480040)]

end Sys2Proof.Machine
end

