-- ==== Sys2Proof/Machine/State.lean ====
section
/-!
DEFINITION. Machine/State.lean: everything the spec gives the block, as plain data, the faults and refusals, and the state after reset.
The registers of the manual's tables stand in one register file (`regs`); state that has a structure of its own (the bond
image, cores, requests, sequences, queue pairs, peers, the twin link, the Plinth, units) stands in a record of its own.
-/
namespace Sys2Proof.Machine

/-! ## Time (spec/02_beat_time.md) -/

/-- TIME_STATE (Table 02.4). -/
inductive TimeMode where
  | unset | locked | holdover | slewing | fault
  deriving DecidableEq, Repr

/-- FAULT_CAUSE (Table 02.4). -/
inductive FaultCause where
  | none | timecode | slewLimit | wrap
  deriving DecidableEq, Repr

/-- The local beat, the time state and what the Opfort remembers between markers and frames. -/
structure TimeSt where
  /-- local beat count (R7, R22) -/
  beat : Nat
  /-- arithmetic clock within the beat, 0 to 1,499 (R23) -/
  ck : Nat
  mode : TimeMode
  cause : FaultCause
  /-- the local beat is the synthesised beat in FAULT (R22, R32) -/
  synth : Bool
  /-- BEAT edges arrive (R21) -/
  beatIn : Bool
  /-- the deviation measured over the last measure exceeds 1,100 ppm (R21) -/
  overRange : Bool
  /-- FORCE_HOLDOVER (R21) -/
  forced : Bool
  rangeWarn : Bool
  tcSrcHold : Bool
  tcLost : Bool
  measurePresent : Bool
  wrapNear : Bool
  ratioValid : Bool
  reloadPending : Bool
  /-- the count is held at its last value (R25, step 3) -/
  hold : Bool
  /-- a beat after the one at which the hold began: nothing falls due (R25, step 3) -/
  held : Bool
  /-- local beats since reset, counted also without a count (R28) -/
  rawBeats : Nat
  /-- the last valid frame of a pair: COUNT and the raw beat of its marker (R28) -/
  firstFrame : Option (Nat × Nat)
  /-- raw beat and local BeatTime of the last marker (R27, R34) -/
  marker : Option (Nat × Nat)
  /-- the amount of the last mismatch (R29) -/
  mismatch : Option Int
  /-- reference cycles and beats of the measures spent LOCKED, newest first, at most 1,024 (R33) -/
  ratioWindow : List (Nat × Nat)
  /-- the synthesiser's 64-bit accumulator (R33) -/
  acc : Nat
  /-- what is left of the offset in SLEWING, in 10^-6 of 1/65,536 beat (R34) -/
  slewLeft : Int
  /-- consecutive measures with BEAT present in HOLDOVER (R34) -/
  cleanMeasures : Nat
  /-- BEAT was present since the last measure boundary (R34) -/
  wholeMeasure : Bool
  /-- raw beat of the boundary that completed the 16 measures (R34) -/
  exitFrom : Option Nat
  /-- measures without a valid frame (R32) -/
  framesMissed : Nat
  /-- a valid frame came in this measure -/
  framed : Bool
  /-- a marker came in this measure (Table 02.4) -/
  markerSeen : Bool
  /-- beat of the last measure boundary that was handled, plus 1 -/
  measureAt : Nat
  deriving DecidableEq, Repr

/-- Time at reset: UNSET, no count, no memory of markers (R28, Tables 02.3, 02.4; log 4). -/
def TimeSt.reset : TimeSt :=
  { beat := 0, ck := 0, mode := .unset, cause := .none, synth := false, beatIn := false, overRange := false, forced := false,
    rangeWarn := false, tcSrcHold := false, tcLost := false, measurePresent := false, wrapNear := false,
    ratioValid := false, reloadPending := false, hold := false, held := false, rawBeats := 0, firstFrame := none, marker := none,
    mismatch := none, ratioWindow := [], acc := 0, slewLeft := 0, cleanMeasures := 0, wholeMeasure := false, exitFrom := none, framesMissed := 0,
    framed := false, markerSeen := false, measureAt := 0 }

/-! ## The bond image (spec/03_bond_image.md) -/

/-- Section table entry (Table 03.4). -/
structure Section where
  id : Nat
  kind : Nat
  flags : Nat
  period : Nat
  phase : Nat
  groups : List Nat
  wcet : Nat
  chanBudget : Nat
  energyBase : Nat
  chainBase : Nat
  deriving DecidableEq, Repr

/-- Sequencer table (Table 05.3). -/
structure SeqTable where
  sect : Nat
  gateCols : Nat
  gateRows : Nat
  seed : Nat
  words : List SeqWord
  deriving DecidableEq, Repr

/-- Stage entry (Table 06.2). -/
structure Stage where
  kind : Nat
  cvt : Nat
  sub : Nat
  tensor : Nat
  aAddr : Nat
  bAddr : Nat
  headroom : Nat
  rowlen : Nat
  deriving DecidableEq, Repr

/-- Chain record (Table 06.1). -/
structure Chain where
  sect : Nat
  pro : List Stage
  epi : List Stage
  prodCvt : Nat
  product : Bool
  prodTensor : Nat
  deriving DecidableEq, Repr

/-- SFUNC directory entry with its table, program and pool (Table 07.1, R126). -/
structure SFunc where
  no : Nat
  ninf : Nat
  pinf : Nat
  nzero : Nat
  pzero : Nat
  assetBound : Bool
  asset : Nat
  bound : Nat
  segs : List (Nat × Nat × Nat)
  prog : List Nat
  pool : List Nat
  deriving DecidableEq, Repr

/-- Allocation entry (Table 08.4); base and length in bytes. -/
structure Alloc where
  sect : Nat
  flags : Nat
  base : Nat
  len : Nat
  region : Nat
  deriving DecidableEq, Repr

/-- Region entry (Table 08.6). -/
structure Region where
  kind : Nat
  asset : Nat
  size : Nat
  deriving DecidableEq, Repr

/-- Prefetch entry (Table 08.8); lengths and offsets in bytes. -/
structure PfEntry where
  trigger : Nat
  dset : Nat
  versioned : Bool
  item : Bool
  region : Nat
  alloc : Nat
  dstOff : Nat
  len : Nat
  srcOff : Nat
  deriving DecidableEq, Repr

/-- Prefetch schedule of one section (R155). -/
structure PfSched where
  sect : Nat
  entries : List PfEntry
  deriving DecidableEq, Repr

/-- Yield record of one section (R287): (WORD, FIRST_RANGE, NRANGE) entries and (ALLOC_ID, FIRST_PAGE, PAGES) ranges. -/
structure YieldRec where
  sect : Nat
  points : List (Nat × Nat × Nat)
  ranges : List (Nat × Nat × Nat)
  deriving DecidableEq, Repr

/-- KV pool header (R274). -/
structure KvPool where
  region : Nat
  blockBytes : Nat
  nblk : Nat
  hbits : Nat
  ctxMax : Nat
  prefillChunk : Nat
  homeStride : Nat
  deriving DecidableEq, Repr

/-- Energy class entry (Table 15.2). -/
structure EClass where
  sect : Nat
  keyMin : Nat
  engCk : Nat
  e0 : Nat
  deriving DecidableEq, Repr

/-- Shared-resource claim (R51). -/
structure Claim where
  cls : Nat
  index : Nat
  mode : Nat
  sect : Nat
  feature : Nat
  deriving DecidableEq, Repr

/-- Asset table entry (Table 03.6). -/
structure AssetE where
  id : Nat
  kind : Nat
  instant : Bool
  initial : Nat
  size : Nat
  shape : List Byte
  digest : List Byte
  deriving DecidableEq, Repr

/-- Budget entry (R158). -/
structure Budget where
  sect : Nat
  borrow : Bool
  burst : Nat
  deriving DecidableEq, Repr

/-- Front-end plan (R49): header fields and (SECTION_ID, USE) steps. -/
structure Plan where
  slots : Nat
  inImageLen : Nat
  inKeys : Nat
  period : Nat
  steps : List (Nat × Nat)
  deriving DecidableEq, Repr

/-- Proof record (R50). -/
structure ProofRec where
  sect : Nat
  itemLimit : Nat
  wcet : Nat
  proofId : List Byte
  deriving DecidableEq, Repr

/-- The bond image as loaded: the header fields of Table 03.1 and the content of every chunk of Table 03.2. -/
structure Image where
  imageId : Nat
  imageVer : Nat
  measureN : Nat
  frontL : Nat
  reqMemdev : Nat
  reqPodports : Nat
  reqTwin : Bool
  reqGroups : List Nat
  sections : List Section
  seq : List SeqTable
  chains : List Chain
  funcs : List SFunc
  allocs : List Alloc
  regions : List Region
  prefetch : List PfSched
  kv : KvPool
  yields : List YieldRec
  f0 : Nat
  classes : List EClass
  splits : List (Nat × Nat)
  claims : List Claim
  assets : List AssetE
  budgets : List Budget
  plan : Plan
  proofs : List ProofRec
  digest : List Byte
  deriving DecidableEq, Repr

/-- STATE of BOND_STATUS (Table 03.10). -/
inductive BondMode where
  | empty | checking | loaded | sealed | rejected
  deriving DecidableEq, Repr

/-- The bond block: its state, the container being checked, the image in force, the seal time. -/
structure BondSt where
  mode : BondMode
  /-- the running load comes from the twin (R44) -/
  fromTwin : Bool
  /-- the container being checked -/
  bytes : List Byte
  image : Option Image
  deriving DecidableEq, Repr

/-- R64: EMPTY at reset. -/
def BondSt.reset : BondSt := { mode := .empty, fromTwin := false, bytes := [], image := none }

/-! ## Assets (spec/03_bond_image.md, R56 to R63; spec/11_embedding_tables.md) -/

/-- A resident version of an asset: its slot of the asset's region, and what R58 asks about it. -/
structure Version where
  ver : Nat
  slot : Nat
  size : Nat
  /-- first 256 bits of SHAKE256 over the version as staged (R57) -/
  digest : List Byte
  /-- verified for R54 and R61 -/
  verified : Bool
  everCurrent : Bool
  /-- a switch of the asset to another version took effect since it became resident (R58) -/
  superseded : Bool
  /-- store pages the version references (R164, R214) -/
  pages : List Nat
  /-- WB of each stationary tensor of a MODEL version, by the TENSOR_ID of its product (R82) -/
  wb : List (Nat × Int)
  deriving DecidableEq, Repr

/-- One asset of the asset table. -/
structure Asset where
  current : Nat
  versions : List Version
  freed : Nat
  deriving DecidableEq, Repr

/-- An asset before anything is staged. -/
def Asset.reset : Asset := { current := 0, versions := [], freed := 0 }

/-- A pending switch (R61). -/
structure Switch where
  asset : Nat
  version : Nat
  at_ : Nat
  /-- the twin has not acknowledged the commit (R63) -/
  awaiting : Bool
  deriving DecidableEq, Repr

/-- The staging in progress (R59). -/
structure Staging where
  asset : Nat
  /-- position in the asset table -/
  pos : Nat
  ver : Nat
  slot : Nat
  initial : Bool
  /-- the size, SHAPE and digest the header (or the asset table) names -/
  size : Nat
  shape : List Byte
  digest : List Byte
  /-- the signed header; empty for an initial version without one -/
  header : List Byte
  /-- KEY_ID of an encrypted version, and the chunk counter -/
  key : Option Nat
  chunks : Nat
  /-- the version as staged so far -/
  data : List Byte
  /-- the last piece broke the multiple rule, so it must be the last (R60) -/
  lastPiece : Bool
  deriving DecidableEq, Repr

/-- An open table build (R216). -/
structure Build where
  asset : Nat
  base : Nat
  ver : Nat
  slot : Nat
  /-- page directory of the new version -/
  dir : List Nat
  /-- pages copied so far (R214) -/
  copied : List Nat
  /-- touched rows, ascending -/
  touched : List Nat
  /-- entries applied (Table 18.10) -/
  applied : Nat
  deriving DecidableEq, Repr

/-- A command that reads BUSY until it completes or the twin acknowledges: the result code and slot it will report, and
the journal entry that must be acknowledged (R63, R220, R255, R296). -/
structure BusyCmd where
  code : Nat
  slot : Nat
  /-- index in the journal stream that the twin must acknowledge; none when unpaired -/
  jseq : Option Nat
  op : Nat
  /-- what the command names: asset, version, or switch time -/
  args : List Nat
  deriving DecidableEq, Repr

/-- A command that changes assets, held by the source of a rejoin while it sends its last pass (R395): the command field (0 STG_CMD,
1 SW_CMD, 2 TAB_CMD, 3 TS_CMD), its operation and what its registers held. -/
structure HeldCmd where
  field : Nat
  op : Nat
  args : List Nat
  deriving DecidableEq, Repr

/-- A staging command that reads BUSY (R59): its operation, STG_ASSET, whether the state refused it at its write (BAD_STATE), whether its
range lies in the window, and the bytes it names there. -/
structure StgCmd where
  op : Nat
  sel : Nat
  badState : Bool
  inWindow : Bool
  bytes : List Byte
  deriving DecidableEq, Repr

/-- An APPLY that runs (R216 to R218, R311): the table, the batch's bytes, the entries not yet listed, those the running step lists, the
pages reserved, and whether the command is this module's own or the twin's. -/
structure BatchRun where
  asset : Nat
  bytes : List Byte
  left : Nat
  listed : Nat
  pages : List Nat
  own : Bool
  deriving DecidableEq, Repr

/-- A table slot of an SFUNC asset in a core's scratchpad (R130): the version, the slot and the coefficients c0, c1, c2 of each segment. No
field places the slots in an allocation, so they stand beside the scratchpad's bytes (log 64). -/
structure FuncSlot where
  ver : Nat
  slot : Nat
  segs : List (Nat × Nat × Nat)
  deriving DecidableEq, Repr

/-- Assets, switches, builds and the commands in progress. -/
structure AssetSt where
  /-- by ASSET_ID -/
  table : Tab Asset
  staging : Option Staging
  /-- the staging command that reads BUSY (R59) -/
  stgBusy : Option StgCmd
  /-- pending switches by slot, 0 to 63 -/
  switches : Tab (Option Switch)
  builds : List Build
  /-- the batches being applied, the oldest first -/
  batches : List BatchRun
  swBusy : Option BusyCmd
  tabBusy : Option BusyCmd
  tsBusy : Option BusyCmd
  /-- SFUNC table slots: key asset * 65536 + core (R130) -/
  funcSlots : Tab (List FuncSlot)
  /-- token store blocks replaced, with the acceptance stamp that frees their space (R255) -/
  tsOld : List (Nat × Nat × Nat)
  held : List HeldCmd
  deriving DecidableEq, Repr

/-- No asset known. -/
def AssetSt.reset : AssetSt :=
  { table := [], staging := none, stgBusy := none, switches := [], builds := [], batches := [], swBusy := none, tabBusy := none,
    tsBusy := none, funcSlots := [], tsOld := [], held := [] }
/-! ## Cores (spec/05_matrix_cores.md to spec/08_scratchpad_tiers.md) -/

/-- A loop in progress (R94): the first word and length of its body, its count and iteration, and its strides. -/
structure Loop where
  first : Nat
  body : Nat
  count : Nat
  iter : Nat
  kloop : Bool
  acc : Int
  s : Int
  w : Int
  a : Int
  deriving DecidableEq, Repr

/-- What an accumulator set is doing (R98, R103). -/
inductive SetMode where
  | free
  | accumulating
  | draining
  deriving DecidableEq, Repr

/-- An accumulator set beside its WACCs: masks of its words and whether its pending anchors wait for a START (R98, R103). -/
structure AccSet where
  mode : SetMode
  rows : Nat
  cols : Nat
  pendingReady : Bool
  /-- the largest X_a + b_a of each of the 4 rows (R82), as the last PREPASS found it; none where no group contributes -/
  pendBound : List (Option Int)
  /-- the same for the product under way, moved by START -/
  bound : List (Option Int)
  deriving DecidableEq, Repr

/-- A set at reset (log 7). -/
def AccSet.reset : AccSet := { mode := .free, rows := 0, cols := 0, pendingReady := false, pendBound := [], bound := [] }

/-- A weight buffer (R96): the block's element codes by column and depth, its format, and its 16 column scales. -/
structure WBuf where
  fmt : Nat
  block : List Byte
  scales : List Nat
  loaded : Bool
  deriving DecidableEq, Repr

/-- A weight buffer at reset (log 7). -/
def WBuf.reset : WBuf := { fmt := 0, block := [], scales := [], loaded := false }

/-- A held range of the scoreboard, in 16-byte units, inclusive (R146); `holder` names the word that holds it. -/
structure SbRange where
  lo : Nat
  hi : Nat
  write : Bool
  holder : Nat
  deriving DecidableEq, Repr

/-- A DMA word or prefetch entry in progress (R153, R156). -/
structure Dma where
  holder : Nat
  /-- TAG of a DMA word; none for a prefetch entry -/
  tag : Option Nat
  /-- prefetch entry number -/
  entry : Option Nat
  deriving DecidableEq, Repr

/-- A delivery under way into a core (R154): its bytes, address and TAG; no tag counts for a prefetch entry's copies. It carries the epoch of
the core group that asked for it and that of the group it goes to, as they stood when it was sent (R444). -/
structure Delivery where
  core : Nat
  tag : Option Nat
  addr : Nat
  data : List Byte
  asker : Nat
  askerEpoch : Nat
  groupEpoch : Nat
  deriving DecidableEq, Repr

/-- An EPI_BIND word in force: the chain that its sets pass on the drain path (R112). -/
structure EpiSt where
  chain : Nat
  run : Nat
  mblocks : Nat
  strips : Nat
  outAddr : Nat
  outScale : Nat
  pitch : Nat
  /-- place of the word (log 30) -/
  place : List Nat
  /-- sets ended since the word, while it is the last one -/
  ended : Nat
  /-- of these, sets drained -/
  drained : Nat
  /-- scoreboard holder -/
  holder : Nat
  deriving DecidableEq, Repr

/-- A segment of a core's work list (R286): its items (request or entry numbers) and their accounts; none owns no request. -/
structure Segment where
  items : List Nat
  owners : List (Option Nat)
  /-- the seeds of the items' requests (R78) -/
  seeds : List Nat
  /-- home offset of the segment's item (R153, R274) -/
  home : Nat
  /-- version set of the segment's items (R156, R284) -/
  vset : Nat
  deriving DecidableEq, Repr

/-- State of a scratchpad slice (R148). -/
inductive SliceSt where
  | off | clearing | on
  deriving DecidableEq, Repr

/-- One core. -/
structure Core where
  pc : Nat
  loops : List Loop
  idle : Bool
  /-- key set * 64 + row * 16 + column -/
  wacc : Tab Wacc
  /-- activation scale bytes, key set * 4 + row -/
  ascale : Tab Nat
  sets : Tab AccSet
  wbuf0 : WBuf
  wbuf1 : WBuf
  /-- scales of the last WLOAD in issue order (R96) -/
  lastScales : List Nat
  /-- ended sets in END order (R98), each with the holder of the EPI_BIND that governs it and its number t under it (R112) -/
  drainQ : List (Nat × Option (Nat × Nat))
  /-- the EPI_BIND words in force: those with sets still to drain, and last the one that governs the sets ended from now on (R112) -/
  epis : List EpiSt
  /-- half blocks held between strips (R113), key (holder * 2^20 + row) * 65536 + column -/
  held : Tab (Option Val)
  /-- the bound of R82 without headroom of each stored row, by the byte address the row begins at: the bytes of the row, and the bound
  (log 63) -/
  rowBounds : Tab (Option (Nat × Int))
  board : List SbRange
  nextHolder : Nat
  dma : List Dma
  arrive : Tab Nat
  /-- prefetch entries started in this step, in order; done entries (R156) -/
  pfStarted : Nat
  pfDone : List Nat
  /-- the words that issued in this step, ascending: a prefetch entry starts once its trigger is among them (R156) -/
  issued : List Nat
  dirty : List Nat
  slices : Tab SliceSt
  /-- writes of the Opfort that wait for a slice to finish clearing (R148): address and bytes -/
  fills : List (Nat × List Byte)
  segments : List Segment
  current : Option Segment
  /-- the items of the segments that YIELDs have ended in this step (R286, R289) -/
  served : List Nat
  /-- the 64-byte line of each bitmap input that a scan context keeps, by context, by its store offset (R183); between commands every
  context is IDLE -/
  lines : Tab (List (Option Nat))
  /-- version set of the work the core runs, for VERSIONED entries (R156) -/
  vset : Nat
  deriving DecidableEq, Repr

/-- A core at reset (log 7); slices are powered down (R148). -/
def Core.reset : Core :=
  { pc := 0, loops := [], idle := true, wacc := [], ascale := [], sets := [], wbuf0 := WBuf.reset, wbuf1 := WBuf.reset,
    lastScales := [], drainQ := [], epis := [], rowBounds := [], held := [], board := [], nextHolder := 0, dma := [], arrive := [],
    pfStarted := 0, pfDone := [], issued := [], dirty := [], slices := [], fills := [], segments := [], current := none, served := [], lines := [],
    vset := 0 }

/-! ## Selection (spec/10_selection.md) -/

/-- A selection entry (Table 10.1); SCORE is signed. -/
structure SelEntry where
  score : Int
  id : Nat
  pos : Nat
  deriving DecidableEq, Repr

/-- A run (R194): header fields and entries. -/
structure Run where
  tailTies : Nat
  dup : Nat
  flags : Nat
  entries : List SelEntry
  deriving DecidableEq, Repr

/-- A run on its way to a slot (R194): the issuing core, the slot, whether it goes to the unit above, and the beat of its issue. -/
structure RunFlight where
  core : Nat
  slot : Nat
  parent : Bool
  run : Run
  beat : Nat
  /-- the epoch of its own group's selection unit as the group last learned it (R444) -/
  target : Nat
  deriving DecidableEq, Repr

/-- The run slots of the selection units and the runs on their way to them (R193, R194, R200). -/
structure SelSt where
  /-- key unit * 64 + slot -/
  slots : Tab (Option Run)
  /-- runs issued and not yet delivered -/
  flight : List RunFlight
  deriving DecidableEq, Repr

/-- R193: every slot is empty. -/
def SelSt.reset : SelSt := { slots := [], flight := [] }

/-! ## Requests (spec/09_vector_search.md, 13 to 16) -/

/-- Search parameter block (Table 09.4). -/
structure SearchBlk where
  k : Nat
  np1 : Nat
  np2 : Nat
  tt : Nat
  filters : List Nat
  deriving DecidableEq, Repr

/-- Pack block (Table 13.5). -/
structure PackBlk where
  rrN : Nat
  npack : Nat
  template : Nat
  budget : Nat
  dest : Nat
  peer : Nat
  deriving DecidableEq, Repr

/-- Serve block (Table 14.2). -/
structure ServeBlk where
  mode : Nat
  topK : Nat
  pinDepth : Nat
  temperature : Nat
  topP : Nat
  maxNew : Nat
  seed : Nat
  deriving DecidableEq, Repr

/-- Where a request came from: the requester its records go to. -/
inductive Origin where
  /-- a submission of a pair, taken for a function (R328) -/
  | host (fn pair hsn tag resultAddr resultLen : Nat)
  /-- a REQUEST message of a client peer (R357) -/
  | pod (port peer msg tag : Nat)
  deriving DecidableEq, Repr

/-- The result of a selection: valid entries and the record fields that selection decides (Table 10.4). -/
structure SelResult where
  kind : Nat
  k : Nat
  entries : List SelEntry
  ties : Nat
  dup : Nat
  dupPod : Nat
  /-- flags of Table 10.4 raised below (R194) -/
  flags : Nat
  shards : Nat
  deriving DecidableEq, Repr

/-- A candidate in the fetch step (R257, R258): its first-stage rank and entry, the kept tokens, and the row. -/
structure Fetched where
  rank : Nat
  entry : SelEntry
  /-- tokens kept for PACK, NTOK of the record -/
  keep : List Nat
  ntok : Nat
  used : Nat
  dropped : Bool
  trunc : Bool
  /-- the reply of another shard is still to come -/
  waiting : Bool
  score : Option Int
  deriving DecidableEq, Repr

/-- A remote shard's run at the root (R204). -/
structure RemoteRun where
  shard : Nat
  run : Run
  deriving DecidableEq, Repr

/-- The lookup table of one group of subspaces (R174): OFF, Δ, and the q bytes of each subspace. -/
structure LutGroup where
  off : Int
  delta : Nat
  q : List (List Nat)
  deriving DecidableEq, Repr

/-- A request, from its queue to the write of its final record. -/
structure Req where
  account : Nat
  origin : Origin
  /-- JOB_KEY handle and the copy of the key held for the request (R412) -/
  jobKey : Option (Nat × List Byte)
  /-- the descriptor as fetched (Table 18.4) -/
  desc : List Byte
  arrival : Nat
  deadline : Option Nat
  /-- finish tag F (R305) -/
  ftag : Nat
  /-- passed over under rule 4 of R307 until this front-end boundary -/
  heldTo : Nat
  strict : Bool
  text : Bool
  input : List Byte
  tokens : List Nat
  image : List Byte
  keys : List Nat
  rootShard : Nat
  shardCount : Nat
  search : SearchBlk
  pack : Option PackBlk
  genText : List Byte
  serve : Option ServeBlk
  -- from acceptance (R269, R306)
  seq : Nat
  role : Bool
  accept : Nat
  /-- entry boundary, beats -/
  entry : Nat
  instant : Nat
  deferred : Bool
  /-- plan slot within its boundary -/
  slot : Nat
  vset : Nat
  ast : Option Nat
  seed : Nat
  /-- the twin has not acknowledged its ADMIT entry (R384) -/
  awaiting : Bool
  /-- JOURNAL SEQ that covers its ACCEPT entry -/
  ajseq : Option Nat
  shadow : Bool
  /-- the result left, or the twin reported it (R389) -/
  resulted : Bool
  /-- taken over from the twin (R389, R391) -/
  adopted : Bool
  /-- its final record is posted and not yet written (R269) -/
  ended : Bool
  cancelled : Option Nat
  -- text unit (R227, R234)
  lane : Bool
  tokenised : Bool
  textReplaced : Bool
  textMalformed : Bool
  textTooLong : Bool
  textLate : Bool
  malOffset : Nat
  -- search (R169 to R186)
  qvec : List Nat
  /-- probe lists in rank order: centroid, LT_fix -/
  probe : List (Nat × Int)
  deadEdges : Nat
  probeShort : Bool
  team : List Nat
  resident : Bool
  /-- the query's table and group records, built once at its first SCAN step for the slots of the team's cores (R174, R181) -/
  table : List LutGroup
  /-- candidate list of each core of the team -/
  cands : Tab (List SelEntry)
  /-- of each core: occurrences its full list left out whose score is that of its last entry (R194) -/
  candTied : Tab (List SelEntry)
  /-- units of the present round scanned -/
  unitsDone : List Nat
  /-- 1 in round 1, 2 in round 2, 0 outside a scan -/
  round : Nat
  matched : Nat
  round2 : Bool
  segBad : Bool
  short : Bool
  dupCore : Nat
  remote : List RemoteRun
  shardLate : Bool
  keyMismatch : Bool
  shardDup : Bool
  /-- D of R204, once the merging step has begun -/
  mergeBy : Option Nat
  first : Option SelResult
  -- rerank and pack (R256 to R266)
  fetched : List Fetched
  fetchBy : Option Nat
  /-- the fetch word's output: region, byte offset, descriptor (R256, R257) -/
  fetchAt : Option (Nat × Nat × List Byte)
  tokensLate : Bool
  tokensBad : Bool
  rrNan : Bool
  rerank : Option SelResult
  prompt : List Nat
  prov : List Byte
  packed : Bool
  inexact : Bool
  deriving DecidableEq, Repr

/-- A request with nothing filled in; acceptance and submission fill its fields. -/
def Req.blank : Req :=
  { account := 0, origin := .host 0 0 0 0 0 0, jobKey := none, desc := [], arrival := 0, deadline := none, ftag := 0,
    heldTo := 0, strict := false, text := false, input := [], tokens := [], image := [], keys := [], rootShard := 0,
    shardCount := 0, search := { k := 1, np1 := 1, np2 := 1, tt := 0, filters := [] }, pack := none, genText := [],
    serve := none, seq := 0, role := false, accept := 0, entry := 0, instant := 0, deferred := false, slot := 0,
    vset := 0, ast := none, seed := 0, awaiting := false, ajseq := none, shadow := false, resulted := false, adopted := false, ended := false,
    cancelled := none, lane := false, tokenised := false, textReplaced := false, textMalformed := false,
    textTooLong := false, textLate := false, malOffset := 0, qvec := [], probe := [], deadEdges := 0,
    probeShort := false, team := [], resident := false, table := [], cands := [], candTied := [], unitsDone := [], round := 0, matched := 0,
    round2 := false, segBad := false, short := false, dupCore := 0, remote := [], shardLate := false,
    keyMismatch := false, shardDup := false, mergeBy := none, first := none, fetched := [], fetchBy := none,
    fetchAt := none, tokensLate := false, tokensBad := false, rrNan := false, rerank := none, prompt := [], prov := [],
    packed := false, inexact := false }

/-- The front end: requests from acceptance to their final record, by REQ_SEQ + 2^32 * role, and the next scan team (R181). -/
structure FrontSt where
  reqs : Tab (Option Req)
  deal : Nat
  deriving DecidableEq, Repr

/-- No request. -/
def FrontSt.reset : FrontSt := { reqs := [], deal := 0 }

/-! ## Serving (spec/14_serving.md) -/

/-- State of an active sequence table entry (Table 14.1). -/
inductive AstMode where
  | free | reserved | prefill | ready | ended
  deriving DecidableEq, Repr

/-- An active sequence table entry (Table 14.1) with its sequence area (R271), and the tokens the Caller works from. -/
structure SeqEntry where
  mode : AstMode
  grammar : Bool
  role : Bool
  account : Nat
  vset : Nat
  reqSeq : Nat
  accept : Nat
  deadline : Nat
  seed : Nat
  nextTsn : Nat
  promptLen : Nat
  ctxLen : Nat
  genCount : Nat
  maxNew : Nat
  lastToken : Nat
  tailNode : Option Nat
  shared : Nat
  resBlocks : Nat
  sampleMode : Nat
  topK : Nat
  skips : Nat
  temperature : Nat
  topP : Nat
  gstate : Nat
  /-- grammar stack, bottom first; its length is GDEPTH -/
  gstack : List Nat
  /-- block list: key/value block of each 32 positions -/
  blocks : List Nat
  /-- tree nodes held, block by block -/
  nodes : List Nat
  genText : List Byte
  /-- pending bytes of an incomplete character (R237) -/
  pendingBytes : List Byte
  /-- held characters (R241) -/
  heldChars : List Byte
  /-- prompt and sampled tokens, in position order -/
  tokens : List Nat
  pinDepth : Nat
  /-- an uncorrectable error was logged in a block or home it holds (R294, R455) -/
  memError : Bool
  /-- replayed after a takeover: listed first (R390) -/
  replay : Bool
  /-- listed in the running step -/
  listed : Bool
  /-- tokens sampled since the last TOKENS entry (Table 18.4) -/
  journalled : Nat
  /-- mask built for the present step (R247, R248) -/
  mask : Option (List Nat)
  /-- the grammar unit was reset before the mask of the running step was built (R250) -/
  maskLate : Bool
  /-- a product or statistic of its present token's step was truncated or saturated (R88, R295) -/
  inexact : Bool
  /-- it entered PREFILL at this edge, and its lookup (R278) has yet to run in its place among the edge's tree operations (R282) -/
  lookup : Bool
  /-- a PREFILL boundary settled this end reason while a DECODE step ran it: it ends once that step's token is out (R296) -/
  ending : Option Nat
  deriving DecidableEq, Repr

/-- A FREE entry. -/
def SeqEntry.reset : SeqEntry :=
  { mode := .free, grammar := false, role := false, account := 0, vset := 0, reqSeq := 0, accept := 0, deadline := 0, seed := 0,
    nextTsn := 0, promptLen := 0, ctxLen := 0, genCount := 0, maxNew := 0, lastToken := 0, tailNode := none, shared := 0,
    resBlocks := 0, sampleMode := 0, topK := 0, skips := 0, temperature := 0, topP := 0, gstate := 0, gstack := [],
    blocks := [], nodes := [], genText := [], pendingBytes := [], heldChars := [], tokens := [], pinDepth := 0,
    memError := false, replay := false, listed := false, journalled := 0, mask := none, maskLate := false, inexact := false,
    lookup := false, ending := none }

/-- A prefix tree node (Table 14.3). -/
structure Node where
  key : Nat
  parent : Option Nat
  firstChild : Option Nat
  nextSibling : Option Nat
  hashNext : Option Nat
  block : Nat
  refs : Nat
  lastUse : Nat
  pins : Nat
  depth : Nat
  tokens : List Nat
  /-- VALID; an uncorrectable error clears it (R455) -/
  valid : Bool
  deriving DecidableEq, Repr

/-- A cancel that the twin has not acknowledged (R296, R338): the JOURNAL SEQ, who asked (none: SERVE_CANCEL_CMD), and its result. -/
structure PendCancel where
  jseq : Nat
  origin : Option Origin
  code : Nat
  target : Nat
  deriving DecidableEq, Repr

/-- Serving. -/
structure ServeSt where
  ast : Tab SeqEntry
  nodes : Tab (Option Node)
  /-- the bucket array: the first node of each hash chain (R277) -/
  buckets : Tab (Option Nat)
  /-- key/value blocks in use, ascending -/
  blocks : List Nat
  /-- version sets by number: (ASSET_ID, version) pairs -/
  vsets : Tab (List (Nat × Nat))
  /-- the newest set, unless a switch took effect since it was made (R270) -/
  newest : Option Nat
  nextSeq : Nat
  cancels : List PendCancel
  /-- what sequences that ended in the running DECODE step sampled: role, REQ_SEQ, first TSN, tokens (R383) -/
  sampled : List (Bool × Nat × Nat × List Nat)
  deriving DecidableEq, Repr

/-- R271, R277: every entry FREE, no node VALID, every block free; REQ_SEQ from 0 (log 8). -/
def ServeSt.reset : ServeSt := { ast := [], nodes := [], buckets := [], blocks := [], vsets := [], newest := none, nextSeq := 0, cancels := [], sampled := [] }

/-! ## Admission and energy (spec/15_admission_energy.md) -/

/-- What admission keeps for a front-end boundary (R306, R308, R379). -/
structure Bound where
  used : Nat
  own : Nat
  ledger : Int
  budget : Option Int
  deriving DecidableEq, Repr

/-- A boundary nobody examined. -/
def Bound.reset : Bound := { used := 0, own := 0, ledger := 0, budget := none }

/-- Accounts and boundaries. -/
structure AdmitSt where
  /-- weight in force and weight written (R301) -/
  weight : Tab Nat
  weightNew : Tab Nat
  depth : Tab Nat
  queues : Tab (List Req)
  fLast : Tab Nat
  deficit : Tab Int
  /-- engine time charged in this measure, by account (R303) -/
  charged : Tab Nat
  /-- engine time since the seal: account * 64 + section, core-ck (ADMIT_USE) -/
  engine : Tab Nat
  /-- engine time charged to each section since the seal, core-ck (R302) -/
  sectEngine : Tab Nat
  /-- accounts active in this measure (R303) -/
  active : List Nat
  v : Nat
  /-- BeatTime of the decision edge that decided last (R305) -/
  decided : Option Nat
  /-- by boundary beat -/
  bounds : Tab Bound
  deriving DecidableEq, Repr

/-- Table 15.3; V from 0 (log 8). -/
def AdmitSt.reset : AdmitSt :=
  { weight := [], weightNew := [], depth := [], queues := [], fLast := [], deficit := [], charged := [], engine := [], sectEngine := [],
    active := [], v := 0, decided := none, bounds := [] }

/-- Thermal state (R316). -/
inductive Thermal where
  | normal | margin | zero | stop | drained
  deriving DecidableEq, Repr

/-- The energy governor. -/
structure EnergySt where
  thermal : Thermal
  aVar : Int
  /-- c_k by class (R312) -/
  cost : Tab Int
  fBar : Int
  /-- predicted item energy of the running measure and the classes that ran -/
  predicted : Int
  ran : List Nat
  /-- the same of the finished measure, with the values then in force: I, classes, F-bar, measure number -/
  last : Option (Int × List Nat × Int × Nat)
  /-- latest complete reading: measure number, E_meas -/
  reading : Option (Nat × Int)
  deriving DecidableEq, Repr

/-- Table 15.4. -/
def EnergySt.reset : EnergySt :=
  { thermal := .normal, aVar := 0, cost := [], fBar := 0, predicted := 0, ran := [], last := none, reading := none }

/-! ## Host queues (spec/16_host_interface.md) -/

/-- A completion entry in the replay window (R334): its DSN, its 64 bytes with PHASE and REPLAYED clear, and whether it has
been written. -/
structure Cpl where
  dsn : Nat
  bytes : List Byte
  written : Bool
  /-- the result buffer that must be complete before the entry: host address and bytes (R330) -/
  buffer : Option (Nat × List Byte)
  deriving DecidableEq, Repr

/-- A queue pair beside its registers (R323 to R337). -/
structure Pair where
  gap : Bool
  sqTail : Nat
  sqHead : Nat
  cqHead : Nat
  cqTail : Nat
  /-- PHASE of the next entry -/
  phase : Bool
  /-- entries unconsumed in the completion ring -/
  filled : Nat
  hsnNext : Nat
  hsnLast : Nat
  dsnNext : Nat
  window : List Cpl
  /-- entries since the last message, and the BeatTime of the first of them (R330) -/
  since : Nat
  timer : Option Nat
  /-- the next DSN to replay, and the DSN after the replay's last (R335) -/
  replay : Option Nat
  replayEnd : Nat
  replayResult : Nat
  deriving DecidableEq, Repr

/-- Table 16.10: DISABLED, the first HSN and DSN are 0, the first PHASE is 1. -/
def Pair.reset : Pair :=
  { gap := false, sqTail := 0, sqHead := 0, cqHead := 0, cqTail := 0, phase := true, filled := 0, hsnNext := 0,
    hsnLast := 0xFFFFFFFF, dsnNext := 0, window := [], since := 0, timer := none, replay := none, replayEnd := 0,
    replayResult := 0 }

/-- A mailbox channel beside its registers and areas (R339 to R341). -/
structure Chan where
  owner : Option Nat
  /-- BeatTime from which the lock's timeout counts -/
  since : Nat
  /-- pending message: LEN, MSG_ID, sender's requester number -/
  pending : Option (Nat × Nat × Nat)
  /-- BeatTime of the last doorbell (R341) -/
  rung : Nat
  /-- the Keystone has started it -/
  started : Bool
  /-- its owner lost the lock while it ran: the response is discarded -/
  lost : Bool
  done : Bool
  respLen : Nat
  data : List Byte
  resp : List Byte
  deriving DecidableEq, Repr

/-- Table 16.11: free, nothing pending, areas zero. -/
def Chan.reset : Chan :=
  { owner := none, since := 0, pending := none, rung := 0, started := false, lost := false, done := false, respLen := 0,
    data := List.replicate 256 0, resp := List.replicate 256 0 }

/-- The host port. -/
structure HostSt where
  pairs : Tab Pair
  chans : Tab Chan
  linkUp : Bool
  deriving DecidableEq, Repr

/-- Tables 16.9 to 16.11. -/
def HostSt.reset : HostSt := { pairs := [], chans := [], linkUp := false }

/-! ## The twin (spec/18_twin.md) -/

/-- Pair state (Table 18.1). -/
inductive PairMode where
  | absent | linking | attested | resync | paired | solo | draining
  deriving DecidableEq, Repr

/-- A Firic frame to send or sent: TYPE, SEQ, payload. -/
structure Frame where
  type : Nat
  seq : Nat
  payload : List Byte
  deriving DecidableEq, Repr

/-- One virtual channel of the Firic link (R381, R382). -/
structure Vc where
  nextSeq : Nat
  /-- wraps of the SEQ since link-up (R416) -/
  wraps : Nat
  /-- last SEQ the other side acknowledged, and last accepted from it -/
  acked : Nat
  accepted : Nat
  /-- wraps of the other side's SEQ -/
  rxWraps : Nat
  /-- frames that wait for credit; the first `again` of them were sent and are to be resent (R382) -/
  queue : List Frame
  again : Nat
  /-- frames sent and not acknowledged -/
  out : List Frame
  /-- flits sent, and the CRED received -/
  sent : Nat
  cred : Nat
  /-- flits freed here since link-up -/
  freed : Nat
  timeouts : Nat
  /-- BeatTime of the last progress -/
  since : Nat
  deriving DecidableEq, Repr

/-- R381, R382: nothing sent, nothing accepted. -/
def Vc.reset : Vc :=
  { nextSeq := 0, wraps := 0, acked := 0xFFFFFFFF, accepted := 0xFFFFFFFF, rxWraps := 0, queue := [], again := 0, out := [], sent := 0, cred := 0, freed := 0,
    timeouts := 0, since := 0 }

/-- The rejoin copy (R394 to R397). -/
structure Resync where
  source : Bool
  pass : Nat
  /-- segments of the pass still to come, at the destination -/
  left : Nat
  /-- source: segments written since they were sent, as region * 2^40 + segment, ascending -/
  marked : List Nat
  /-- source: holding its commands for the state message; destination: between STATE_BEGIN and STATE_END -/
  final : Bool
  /-- source: the state message was sent (R395) -/
  sent : Bool
  /-- destination: STATE_END as received: JSEQ, COUNT and DIGEST -/
  ending : Option (Nat × Nat × List Byte)
  /-- entries of the state message, sent or received -/
  entries : List (List Byte)
  /-- STATE_ACK with the matching digest was exchanged -/
  agreed : Bool
  /-- destination: the slots and KEY_IDs of the job and asset keys that the copy brought (R396, R397) -/
  jobs : List Nat
  keys : List Nat
  deriving DecidableEq, Repr

/-- The twin link and the pair. -/
structure TwinSt where
  mode : PairMode
  /-- true for role B -/
  role : Bool
  linkUp : Bool
  linkEpoch : Nat
  vcs : Tab Vc
  /-- journal bytes received and not yet applied -/
  stream : List Byte
  /-- the twin's version sets by their VSET: (ASSET_ID, version) pairs (R384) -/
  vmap : Tab (List (Nat × Nat))
  hbCounted : Bool
  missed : Nat
  /-- a FAULT frame was accepted and not yet acted on -/
  faultSeen : Bool
  lastCause : Nat
  /-- last heartbeat's TIME_STATE was not LOCKED -/
  peerDegraded : Bool
  /-- last heartbeat's pair state, TWIN_MODE, BOND_DIGEST word 0 -/
  peerState : Nat
  peerMode : Nat
  peerDigest : Nat
  /-- FAULT causes this module declared (R387) -/
  declared : List Nat
  /-- generation has stopped under a declared FAULT (R387, R480) -/
  genStop : Bool
  /-- the watchdog fired: nothing leaves the module (R386) -/
  silent : Bool
  /-- the raw beat at which the Keystone last fed the watchdog (R386) -/
  fedAt : Nat
  /-- a SEAL waits for the pair's measure boundary here, and at the twin (R376) -/
  sealPending : Bool
  peerSeal : Bool
  resync : Option Resync
  /-- both sealed after a rejoin: PAIRED at the next measure boundary (R395) -/
  joinReady : Bool
  /-- in PAIRED, or since then without having declared the twin failed (R388) -/
  joined : Bool
  deriving DecidableEq, Repr

/-- Table 18.9: ABSENT, role A, link down. -/
def TwinSt.reset : TwinSt :=
  { mode := .absent, role := false, linkUp := false, linkEpoch := 0, vcs := [], stream := [], vmap := [], hbCounted := false,
    missed := 0, faultSeen := false, lastCause := 0, peerDegraded := false, peerState := 0, peerMode := 0, peerDigest := 0,
    declared := [], genStop := false, silent := false, fedAt := 0, sealPending := false, peerSeal := false, resync := none, joinReady := false, joined := false }
/-! ## Pod ports (spec/17_pod_ports.md) -/

/-- A two-rate three-colour meter (R360, Table 17.6): settings in force, settings written, buckets in 1/256 byte. -/
structure Meter where
  ctrl : Nat
  cir : Nat
  pir : Nat
  cbs : Nat
  pbs : Nat
  cirNew : Nat
  pirNew : Nat
  cbsNew : Nat
  pbsNew : Nat
  tc : Nat
  tp : Nat
  green : Nat
  yellow : Nat
  red : Nat
  deriving DecidableEq, Repr

/-- Table 17.6; buckets empty (log 9). -/
def Meter.reset : Meter :=
  { ctrl := 0, cir := 0, pir := 0, cbs := 0x2400, pbs := 0x2400, cirNew := 0, pirNew := 0, cbsNew := 0x2400, pbsNew := 0x2400,
    tc := 0, tp := 0, green := 0, yellow := 0, red := 0 }

/-- A pod frame that waits or was sent: its header fields and payload (Table 17.2). -/
structure PodFrame where
  type : Nat
  seq : Nat
  msgId : Nat
  part : Nat
  parts : Nat
  payload : List Byte
  /-- BeatTime at which it began to wait, and whether it is a token record (R354) -/
  since : Nat
  token : Bool
  deriving DecidableEq, Repr

/-- A peer (R348, Table 17.7). -/
structure Peer where
  mac : Nat
  conn : Nat
  ctrl : Nat
  down : Bool
  epoch : Nat
  unsynced : Bool
  txNext : Nat
  txAcked : Nat
  out : List PodFrame
  waiting : List PodFrame
  msgNext : Nat
  rxNext : Nat
  /-- MSG_ID of the last message accepted whole (R413) -/
  rxMsg : Nat
  rxEpoch : Option Nat
  /-- parts received of the message in progress: its MSG_ID, next PART and bytes; none when part 0 was missed -/
  partial_ : Option (Nat × Nat × List Byte)
  /-- frames accepted since the last frame sent to it, and since when (R353) -/
  unacked : Nat
  ackSince : Nat
  timeouts : Nat
  /-- BeatTime of the last progress or timeout (R354) -/
  rtoSince : Nat
  deriving DecidableEq, Repr

/-- Table 17.7: DISABLED, the cursors of the table. -/
def Peer.reset : Peer :=
  { mac := 0, conn := 0, ctrl := 0, down := false, epoch := 0, unsynced := false, txNext := 0, txAcked := 0xFFFFFFFF, out := [],
    waiting := [], msgNext := 0, rxNext := 0, rxMsg := 0, rxEpoch := none, partial_ := none, unacked := 0, ackSince := 0, timeouts := 0,
    rtoSince := 0 }

/-- A traffic class (R362 to R367, Table 17.5): queued frames as bytes, credit, deficit, and a configuration write that takes
effect at the next ck. -/
structure Class where
  queue : List (List Byte)
  /-- frames at the end of the queue that joined at the present edge (R368) -/
  joined : Nat
  credit : Int
  deficit : Nat
  /-- settings in force: SHAPE_CTRL, IDLE_SLOPE, HI_CREDIT, LO_CREDIT -/
  ctrl : Nat
  slope : Nat
  hi : Nat
  lo : Nat
  fresh : Bool
  deriving DecidableEq, Repr

/-- Table 17.5. -/
def Class.reset : Class :=
  { queue := [], joined := 0, credit := 0, deficit := 0, ctrl := 0, slope := 0, hi := 0x2400, lo := 0x2400, fresh := false }

/-- A port beside its registers. -/
structure Port where
  linkUp : Bool
  media : Nat
  /-- class in transmission and the ck it still takes (R362) -/
  busy : Option (Nat × Nat)
  /-- class holding the turn (R367) -/
  turn : Nat
  /-- gate-list entry in force and its gates (R363) -/
  gateEntry : Nat
  gates : Nat
  deriving DecidableEq, Repr

/-- Table 17.4: link down, every gate open. -/
def Port.reset : Port := { linkUp := false, media := 0, busy := none, turn := 0, gateEntry := 0, gates := 0xFF }

/-- The pod ports. -/
structure PodSt where
  ports : Tab Port
  /-- port * 1024 + meter -/
  meters : Tab Meter
  /-- port * 256 + peer -/
  peers : Tab Peer
  /-- port * 8 + class -/
  classes : Tab Class
  deriving DecidableEq, Repr

/-- Nothing configured. -/
def PodSt.reset : PodSt := { ports := [], meters := [], peers := [], classes := [] }
/-! ## Bring-up and topology (spec/21_bringup_reset.md) -/

/-- State of a resettable unit (R442). -/
inductive UnitMode where
  | off | available | resetting
  deriving DecidableEq, Repr

/-- A resettable unit: its state and epoch (R442, R443). -/
structure UnitSt where
  mode : UnitMode
  epoch : Nat
  /-- the edge at which the epoch last changed, in ck of the beats counted since reset: distinct events of one edge change it once (R443) -/
  at_ : Option Nat := none
  deriving DecidableEq, Repr

/-- R442: OFF, epoch 0. -/
def UnitSt.reset : UnitSt := { mode := .off, epoch := 0 }

/-- Bring-up stage (Table 21.1). -/
inductive BringUp where
  | power | fuse | firmware | discovery | training | memInit | timeWait | ready | halted
  deriving DecidableEq, Repr

/-- Bring-up and topology. -/
structure TopoSt where
  stage : BringUp
  /-- the fuse map as read, 128 bytes (R436) -/
  fuse : List Byte
  /-- enabled physical groups of dies 0 to 3, one bit a group (R436) -/
  fuseGroups : List Nat
  fuseMem : Nat
  /-- enabled pod ports, and TWIN_PRESENT -/
  fusePods : Nat
  fuseTwin : Bool
  /-- groups that passed discovery, by die -/
  discGroups : List Nat
  /-- the result record of discovery: a pass bitmap for each class of R437 -/
  discovery : List Byte
  /-- devices trained and initialised; bridges trained -/
  discMem : Nat
  bridges : Nat
  /-- class * 512 + index -/
  units : Tab UnitSt
  /-- epochs of selection units and memory controllers that a core group still sends though they have changed, by group * 4096 + class * 512 +
  index (R444); without an entry the group knows the present one -/
  known : Tab (Option Nat)
  /-- unit of the host's reset command that reads BUSY: class, index (R446) -/
  cmd : Option (Nat × Nat)
  /-- the training records in module flash (R439) -/
  records : List (TrainUnit × TrainRec)
  /-- records that full training produced and flash does not hold yet (R440) -/
  unsaved : List (TrainUnit × TrainRec)
  /-- units that have trained since stage FUSE -/
  trained : List TrainUnit
  /-- TOPO_CTRL.RETRAIN_FULL as the last warm reset found it (R440) -/
  retrain : Bool
  deriving DecidableEq, Repr

/-- Stage POWER, nothing read, nothing discovered. -/
def TopoSt.reset : TopoSt :=
  { stage := .power, fuse := [], fuseGroups := [], fuseMem := 0, fusePods := 0, fuseTwin := false, discGroups := [], discovery := [], discMem := 0,
    bridges := 0, units := [], known := [], cmd := none, records := [], unsaved := [], trained := [], retrain := false }
/-! ## Errors and events (spec/22_monitoring.md) -/

/-- An error log entry (Table 22.3). -/
structure ErrEntry where
  time : Nat
  code : Nat
  cls : Nat
  die : Nat
  unit : Nat
  sect : Nat
  addr : Nat
  syndrome : Nat
  requester : Nat
  repeats : Nat
  deriving DecidableEq, Repr

/-- The error block beside its registers. -/
structure ErrSt where
  /-- the ring by slot, 0 to 511 (R457) -/
  ring : Tab (Option ErrEntry)
  /-- slot of the newest entry, and the measure it was written in (R457) -/
  newest : Option (Nat × Nat)
  /-- corrected errors of this measure (R464) -/
  ceMeasure : Nat
  /-- whether CE_STORM was raised in this measure (R464) -/
  storm : Bool
  /-- interrupt levels last seen: summary bits 0 to 20, then 32 + q for queue pairs, 512 + c for mailbox channels (R459) -/
  levels : List Nat
  deriving DecidableEq, Repr

/-- Table 22.7: the ring is empty. -/
def ErrSt.reset : ErrSt := { ring := [], newest := none, ceMeasure := 0, storm := false, levels := [] }

/-- Event counters and snapshots (R460 to R462). -/
structure EvtSt where
  cnt : Tab Nat
  snap : Tab Nat
  deriving DecidableEq, Repr

/-- Table 22.6. -/
def EvtSt.reset : EvtSt := { cnt := [], snap := [] }

/-! ## What leaves the block -/

/-- Something the block sends out of itself: the model's own record of it (log 13). -/
inductive Emission where
  /-- the data a register read returns -/
  | readData (off size value : Nat)
  /-- an MSI-X message of a function (R330, R459) -/
  | msix (fn vector : Nat)
  /-- an I3C in-band interrupt (R459) -/
  | i3c (bit : Nat)
  /-- a write to host memory by a function's requester (R330, R331) -/
  | hostWrite (fn addr : Nat) (data : List Byte)
  /-- a frame on a pod port: class, bytes (R367) -/
  | podFrame (port cls : Nat) (data : List Byte)
  /-- a frame on the Firic link: virtual channel, type, SEQ, and its words of 72 bits (R380, R381) -/
  | firicFrame (vc type seq : Nat) (words : List Nat)
  deriving DecidableEq, Repr
/-! ## The security engine (spec/19_security.md) -/

/-- A released asset key (R411): KEY_ID, POLICY_DIGEST, key. -/
structure AssetKey where
  id : Nat
  policy : List Byte
  key : List Byte
  deriving DecidableEq, Repr

/-- An open job key (R412, R413): its handle and source, the key, and the counters at which it was opened. -/
structure JobKey where
  handle : Nat
  source : Nat
  key : List Byte
  /-- REQ_SEQ counter at the opening -/
  seqAt : Nat
  /-- HSN_NEXT of each pair of the source at the opening; for a peer its last MSG_ID, under pair 0 (R413) -/
  marks : List (Nat × Nat)
  deriving DecidableEq, Repr

/-- MB_SEC_STATE (R404). -/
inductive SessMode where
  | closed | handshake | opened
  deriving DecidableEq, Repr

/-- The secure session (R404, R405). -/
structure Session where
  mode : SessMode
  hostNonce : List Byte
  devNonce : List Byte
  /-- seed of the ephemeral ML-KEM pair -/
  ephem : List Byte
  keyIn : List Byte
  keyOut : List Byte
  ctrIn : Nat
  ctrOut : Nat
  /-- nonces of the reports issued in this session (R418) -/
  nonces : List (List Byte)
  deriving DecidableEq, Repr

/-- A closed session. -/
def Session.reset : Session :=
  { mode := .closed, hostNonce := [], devNonce := [], ephem := [], keyIn := [], keyOut := [], ctrIn := 0, ctrOut := 0, nonces := [] }

/-- What SVC_AUX drives (R471). -/
inductive AuxPin where
  | low
  /-- the square wave of the cadence output, with its level -/
  | cadence (high : Bool)
  | traceClock
  deriving DecidableEq, Repr

/-- The engine: what it holds beside its registers. Owner roots, floors and released keys also stand in module flash (R401). -/
structure SecSt where
  /-- the identity, encapsulation and storage keys of Table 19.5, once derived (R401, R408); held: SEC_STATUS.READY -/
  keys : Option DeviceKeys
  owners : List (List Byte)
  /-- rollback floor by IMAGE_ID -/
  floors : Tab Nat
  assetKeys : List AssetKey
  /-- by slot -/
  jobKeys : Tab (Option JobKey)
  jobGen : Tab Nat
  session : Session
  /-- the GET_REPORT being signed (R407): its channel, nonce and host buffer -/
  report : Option (Nat × List Byte × Nat)
  /-- the pair secret, 96 bytes (R415), and the twin's DEVICE_ID -/
  pairSecret : Option (List Byte)
  /-- the secret this module encapsulated for its twin (R415) -/
  share : Option (List Byte)
  twinId : Nat
  /-- expiry of the debug unlock in force, and its token (R418) -/
  unlocked : Option Nat
  token : List Byte
  /-- the raw beat in which the last debug unlock ended: SVC_AUX drives no cadence before the next (R53) -/
  auxOff : Option Nat
  /-- windows by 4 * function + window: first and last byte (R417) -/
  windows : Tab (Nat × Nat)
  deriving DecidableEq, Repr

/-- Table 19.7; no root enrolled, no floor, no key (log 10). A window whose LIMIT lies below its BASE is disabled. -/
def SecSt.reset : SecSt :=
  { keys := none, owners := [], floors := [], assetKeys := [], jobKeys := [], jobGen := [], session := Session.reset, report := none,
    pairSecret := none, share := none, twinId := 0, unlocked := none, token := [], auxOff := none, windows := [] }

/-! ## The Plinth (spec/20_power_supply.md) -/

/-- State of the power path (R427 to R429). -/
inductive PowerMode where
  /-- no input, or input below the start threshold -/
  | off
  /-- rails rising -/
  | rising
  /-- rails up, reset released or about to be -/
  | on
  /-- a rail failed once: a retry is due -/
  | retry
  /-- a second failure, or an overvoltage trip: off until the input is removed and applied again -/
  | lockout
  /-- hold-up after UV_TRIP -/
  | holdup
  deriving DecidableEq, Repr

/-- The Plinth: meters and sequencing. -/
structure PlinthSt where
  mode : PowerMode
  /-- a rail failed in this power-up -/
  failed : Bool
  /-- the energy accumulator, 96 bits, 2^-37 J (R425) -/
  acc : Nat
  /-- energy since the Plinth started, 2^-37 J -/
  total : Nat
  /-- last calibrated samples: voltage, current, temperature -/
  v : Nat
  i : Nat
  t16 : Nat
  /-- current limit in 2^-12 A (R421) -/
  limit : Nat
  /-- extremes and flags of the measure -/
  vMin : Nat
  vMax : Nat
  iMax : Nat
  peak : Nat
  uvWarn : Bool
  /-- the telemetry record of the last latched measure; empty before the first latch (R425, Table 20.4) -/
  record : List Byte
  /-- SEQ of the next record -/
  txSeq : Nat
  /-- SEQ of the last record the logic side accepted; none before the first -/
  seq : Option Nat
  /-- TOTAL of the last record accepted since power-on, up to which ENERGY_TOTAL has advanced (R426) -/
  seenTotal : Nat
  /-- a valid record came in this measure; measures missed in a row -/
  recorded : Bool
  missRun : Nat
  deriving DecidableEq, Repr

/-- No input (log 11). -/
def PlinthSt.reset : PlinthSt :=
  { mode := .off, failed := false, acc := 0, total := 0, v := 0, i := 0, t16 := 0, limit := 0, vMin := 0xFFFFFFFF, vMax := 0, iMax := 0,
    peak := 0, uvWarn := false, record := [], txSeq := 0, seq := none, seenTotal := 0, recorded := false, missRun := 0 }

/-! ## The text and grammar units (spec/12_text_grammar.md) -/

/-- The vocabulary cache (R236): by set, the lines held, the most recently used first. -/
structure TextSt where
  cache : Tab (List Nat)
  deriving DecidableEq, Repr

/-- An empty cache (log 7). -/
def TextSt.reset : TextSt := { cache := [] }

/-! ## Steps -/

/-- What the block remembers of a section's running step. -/
structure StepSt where
  /-- beat of the boundary that began it, plus 1; 0 before the first -/
  at_ : Nat
  /-- items of the step that fell short: a unit reset or an access that was not served (R289, R447, R455) -/
  lost : List Nat
  /-- the step's PREFILL or DECODE items in list order: entry, account and class key (R283, R302) -/
  work : List (Nat × Nat × Nat)
  deriving DecidableEq, Repr

/-- No step yet. -/
def StepSt.reset : StepSt := { at_ := 0, lost := [], work := [] }

/-! ## Stops -/

/-- Why a command stops the model. No image that the loader accepts reaches either stop (R152, R155). -/
inductive Fault where
  /-- A sequencer word addresses a scratchpad byte above 393,215, which R142 does not give a core. Raised by the words of
  Tables 05.6 to 05.8, 06.4 to 06.6, 08.7 and the scan, selection, gather and fetch words. Safe. -/
  | scratchpadRange
  /-- A sequencer word or a prefetch entry addresses a byte past the end of an LPDDR region, or a region the image does not
  define (R149, R150). Raised by GET, PUT, TFETCH and PREFETCH_ENTRY. Safe. -/
  | regionRange
  deriving DecidableEq, Repr

/-- Why a command is refused by the model. -/
inductive Refusal where
  /-- The command has no meaning yet. Safe. -/
  | notModelled (mnemonic : String)
  /-- A host write to a per-die debug window (Table 16.2) while debug is unlocked (R418): the spec gives the debug unit's registers
  and the effect of such a write nowhere. Raised by REGISTER_WRITE. Safe. -/
  | debugWindow
  deriving DecidableEq, Repr

/-! ## The state -/

/-- Everything the spec gives the block. `regs` holds the register words of the BAR0 tables that differ from their reset values,
`latch` the high halves latched by low-half reads (R10), `staging` the BAR4 window, `lpddr` the regions' bytes, `scratch` the
scratchpads, `poison` the poisoned 8-byte words of LPDDR (R455), ascending, `credits` the channel credits (R157), `deliveries` what is under way into cores
(R154), `steps` the sections' running steps. `pending` is the queue of waiting commands, first in, first out (log 1); `emitted`
records what left the block (log 13) and `fresh` counts the free values taken (log 3): these three are the model's own. -/
structure State where
  pending : List Instr
  regs : Tab Word
  latch : Tab Word
  emitted : List Emission
  fresh : Nat
  time : TimeSt
  bond : BondSt
  assets : AssetSt
  staging : Mem
  lpddr : Mem
  scratch : Mem
  poison : List Nat
  cores : Tab Core
  credits : Tab Int
  deliveries : List Delivery
  steps : Tab StepSt
  sel : SelSt
  front : FrontSt
  serve : ServeSt
  adm : AdmitSt
  energy : EnergySt
  host : HostSt
  twin : TwinSt
  pod : PodSt
  sec : SecSt
  plinth : PlinthSt
  text : TextSt
  topo : TopoSt
  err : ErrSt
  evt : EvtSt
  deriving DecidableEq, Repr

/-- The block as power-on leaves it: no input yet, stage POWER, every register at its table's reset value, memories zero. -/
def State.reset : State :=
  { pending := [], regs := [], latch := [], emitted := [], fresh := 0, time := TimeSt.reset, bond := BondSt.reset,
    assets := AssetSt.reset, staging := [], lpddr := [], scratch := [], poison := [], cores := [], credits := [], deliveries := [],
    steps := [], sel := SelSt.reset, front := FrontSt.reset, serve := ServeSt.reset, adm := AdmitSt.reset,
    energy := EnergySt.reset, host := HostSt.reset, twin := TwinSt.reset, pod := PodSt.reset, sec := SecSt.reset,
    plinth := PlinthSt.reset, text := TextSt.reset, topo := TopoSt.reset, err := ErrSt.reset, evt := EvtSt.reset }

end Sys2Proof.Machine
end

