-- ==== Sys2Proof/Machine/Ops.lean ====
section
/-!
DEFINITION. Machine/Ops.lean: the named operations every meaning shares: register words, counters, interrupt bits, the error log
(R457), event counters (R460 to R462), interrupt levels (R459), BeatTime (R23) and the image in force.
-/
namespace Sys2Proof.Machine

/-! ## Registers -/

/-- The 32-bit register word at offset `a`. -/
def reg (s : State) (a : Nat) : Nat := (tget regReset s.regs a).toNat

/-- Write the 32-bit register word at offset `a`. -/
def setReg (s : State) (a v : Nat) : State := { s with regs := tset regReset s.regs a (BitVec.ofNat 32 v) }

/-- The 64-bit register at offset `a`. -/
def reg64 (s : State) (a : Nat) : Nat := reg s a + 2 ^ 32 * reg s (a + 4)

/-- Write the 64-bit register at offset `a`. -/
def setReg64 (s : State) (a v : Nat) : State := setReg (setReg s a (v % 2 ^ 32)) (a + 4) (v / 2 ^ 32 % 2 ^ 32)

/-- Bit `n` of the register word at `a`. -/
def regBit (s : State) (a n : Nat) : Bool := bit (reg s a) n

/-- Set the bits of `m` in the register word at `a`. -/
def setBits (s : State) (a m : Nat) : State := setReg s a (Nat.lor (reg s a) m)

/-- Clear the bits of `m` in the register word at `a`. -/
def clearBits (s : State) (a m : Nat) : State := setReg s a (Nat.land (reg s a) (Nat.xor 0xFFFFFFFF (m % 2 ^ 32)))

/-- Set bit `n` of the word at `a` to `b`. -/
def putBit (s : State) (a n : Nat) (b : Bool) : State := if b then setBits s a (2 ^ n) else clearBits s a (2 ^ n)

/-- Write the field `[hi:lo]` of the word at `a`. -/
def putField (s : State) (a hi lo v : Nat) : State :=
  let m := (2 ^ (hi + 1 - lo) - 1) * 2 ^ lo
  setReg s a (Nat.land (reg s a) (Nat.xor 0xFFFFFFFF m) + v % 2 ^ (hi + 1 - lo) * 2 ^ lo)

/-! ## BeatTime -/

/-- R23: the stamp of the edge (n, c). -/
def stamp (n c : Nat) : Nat := n * 65536 + c * 65536 / 1500

/-- R23: the first edge whose stamp is at or after BeatTime `t`. -/
def ckAtOrAfter (t : Nat) : Nat × Nat :=
  let c := (t % 65536 * 1500 + 65535) / 65536
  if c = 1500 then (t / 65536 + 1, 0) else (t / 65536, c)

/-- R23: BeatTime `t` plus `k` beats. -/
def addBeats (t k : Nat) : Nat := t + k * 65536

/-- The stamp of the present edge; the held count reads phase 0xFFFF (R25, step 3). -/
def now (s : State) : Nat :=
  if s.time.hold then s.time.beat * 65536 + 0xFFFF else stamp s.time.beat s.time.ck

/-- Whether the present edge is at or past the edge R23 gives for BeatTime `t`. -/
def isDue (s : State) (t : Nat) : Bool := decide (t ≤ now s)

/-- N, the beats of a measure (R26). -/
def measureN (s : State) : Nat :=
  match s.bond.image with
  | some i => i.measureN
  | none => if reg s Reg.BEAT_MEASURE_OBS = 0 then 1000 else reg s Reg.BEAT_MEASURE_OBS

/-- The number of the present measure. -/
def measureNo (s : State) : Nat := s.time.beat / measureN s

/-- Whether a count exists (R28). -/
def hasCount (s : State) : Bool := decide (s.time.mode ≠ .unset)

/-- BEAT present and not lost (R21, BEAT_STATUS.BEAT_PRESENT). -/
def beatPresent (t : TimeSt) : Bool := t.beatIn && !t.overRange && !t.forced

/-- R22: whether the local beat is BEAT itself. -/
def localIsBeat (t : TimeSt) : Bool :=
  match t.mode with
  | .unset => beatPresent t
  | .locked => true
  | .fault => !t.synth
  | .holdover => false
  | .slewing => false

/-! ## The image in force -/

/-- Section `i` of the image in force. -/
def sectionOf (s : State) (i : Nat) : Option Section :=
  match s.bond.image with
  | some im => im.sections.find? (fun x => x.id = i)
  | none => none

/-- Whether the image is sealed (R54). -/
def isSealed (s : State) : Bool := decide (s.bond.mode = .sealed)

/-- Whether physical core group `g` of die `d` is enabled in the fuse map (R436). -/
def groupEnabled (s : State) (d g : Nat) : Bool := decide (g < 128) && bit (s.topo.fuseGroups.getD d 0) g

/-- The enabled physical groups of die `d`, ascending. -/
def enabledGroups (s : State) (d : Nat) : List Nat := (List.range 128).filter (groupEnabled s d)

/-- R43: the section, of a section list, that takes the enabled group of rank `r` on die `d`; a rank beyond the last section
belongs to the implicit DARK set. -/
def sectionOfRank (d : Nat) : List Section → Nat → Option Nat
  | [], _ => none
  | x :: xs, r => if r < x.groups.getD d 0 then some x.id else sectionOfRank d xs (r - x.groups.getD d 0)

/-- R43: the section of physical group 128 * d + g. -/
def groupSection (s : State) (gi : Nat) : Option Nat :=
  match s.bond.image with
  | none => none
  | some im =>
    let d := gi / 128
    let g := gi % 128
    if groupEnabled s d g then sectionOfRank d im.sections (((List.range g).filter (groupEnabled s d)).length) else none

/-- R43: the physical groups (128 * die + group) of section `i`, by die and then group. -/
def sectionGroups (s : State) (i : Nat) : List Nat :=
  (List.range 4).flatMap fun d =>
    ((enabledGroups s d).map (128 * d + ·)).filter fun gi => decide (groupSection s gi = some i)

/-- The physical cores of section `i`: core c of group G is number 64 * G + c. -/
def sectionCores (s : State) (i : Nat) : List Nat :=
  (sectionGroups s i).flatMap fun g => (List.range 64).map (64 * g + ·)

/-- The section that core `c` belongs to. -/
def coreSection (s : State) (c : Nat) : Option Nat := groupSection s (c / 64)

/-- The die of a core. -/
def dieOf (c : Nat) : Nat := c / 8192

/-! ## Event counters -/

/-- The position of `a` in a list of offsets. -/
def indexOf (a : Nat) : List Nat → Nat → Option Nat
  | [], _ => none
  | x :: xs, i => if x = a then some i else indexOf a xs (i + 1)

/-- The class (from 0x10) and event of an RC counter of a block class (Table 22.5). -/
def rcEvent (a : Nat) : List (List Nat) → Nat → Option (Nat × Nat)
  | [], _ => none
  | l :: ls, c =>
    match indexOf a l 0 with
    | some i => some (c, i)
    | none => rcEvent a ls (c + 1)

/-- Whether EVT_SEL value `v` of counter `n` selects an event (R461): class, event, section and die of the event. -/
def evtSelects (n v cls evt : Nat) (sect : Option Nat) (die : Option Nat) : Bool :=
  bit v 23 && decide (bits v 15 8 = cls) && decide (bits v 7 0 = evt)
    && (match die with
        | some d => decide (n / 24 = d)
        | none => true)
    && (if bit v 22 && decide (cls ≤ 4) then decide (sect = some (bits v 21 16)) else true)

/-- Add `k` events to counter `n`, wrapping at 48 bits; a wrap sets its EVT_OVF bit and OVF (R462). -/
def evtAdd (s : State) (n k : Nat) : State :=
  let v := tget (fun _ => 0) s.evt.cnt n + k
  let s1 := { s with evt := { s.evt with cnt := tset (fun _ => 0) s.evt.cnt n (v % 2 ^ 48) } }
  if v < 2 ^ 48 then s1
  else
    let s2 := setBits s1 (Reg.EVT_OVF (n / 32)) (2 ^ (n % 32))
    if bit (reg s2 (Reg.EVT_OVF_ENABLE (n / 32))) (n % 32) then setBits s2 Reg.EVT_INT_STATUS 1 else s2

/-- Add `k` events to every counter of a list of EVT_SEL entries that selects the event. -/
def evtAll (s : State) (cls evt : Nat) (sect die : Option Nat) (k : Nat) : List (Nat × Word) → State
  | [] => s
  | (a, v) :: r =>
    let n := (a - Reg.EVT_SEL 0) / 4
    evtAll (if Reg.EVT_SEL 0 ≤ a ∧ a < Reg.EVT_SEL 96 ∧ evtSelects n v.toNat cls evt sect die then evtAdd s n k else s)
      cls evt sect die k r

/-- R460: `k` events of a source, counted by every counter that selects it, unless the counters are frozen (R462). -/
def event (s : State) (cls evt : Nat) (sect die : Option Nat) (k : Nat) : State :=
  if k = 0 ∨ regBit s Reg.EVT_CTRL 0 then s else evtAll s cls evt sect die k s.regs

/-- Add `k` to the 32-bit counter at `a`, which saturates; its increments are events of its block class (R461). -/
def bumpBy (s : State) (a k : Nat) : State :=
  let s1 := setReg s a (min (reg s a + k) 0xFFFFFFFF)
  match rcEvent a rcBlocks 0x10 with
  | some (c, e) => event s1 c e none none k
  | none => s1

/-- Add 1 to the 32-bit counter at `a`. -/
def bump (s : State) (a : Nat) : State := bumpBy s a 1

/-- Add `k` to the 64-bit counter at `a`, which saturates at `cap`. -/
def bump64 (s : State) (a k cap : Nat) : State :=
  let s1 := setReg64 s a (min (reg64 s a + k) cap)
  match rcEvent a rcBlocks 0x10 with
  | some (c, e) => event s1 c e none none k
  | none => s1

/-- An increment of an RC counter that stands in a record of its own is an event of its block class (R461). -/
def countEvent (s : State) (a k : Nat) : State :=
  match rcEvent a rcBlocks 0x10 with
  | some (c, e) => event s c e none none k
  | none => s

/-! ## Arithmetic counters (R86, R87) -/

/-- Add a count to one arithmetic counter of section `i` and set its flag. -/
def arithOne (s : State) (i die off n flag evt : Nat) : State :=
  if n = 0 then s
  else
    let a := Reg.ARITH_TRUNC_PROD i + off
    let s1 := setReg64 s a (min (reg64 s a + n) (2 ^ 48 - 1))
    event (setBits s1 (Reg.ARITH_FLAGS i) flag) 1 evt (some i) (some die) n

/-- R86, R87: an arithmetic event record enters the counters and flags of section `i`; the die is the core's. A statistic
overflow counts in ARITH_OVF and sets STAT_OVERFLOW (Table 04.6). -/
def arith (s : State) (i die : Nat) (e : ArithEv) : State :=
  let s := arithOne s i die 0x00 e.truncProd 1 0
  let s := arithOne s i die 0x08 e.truncStat 2 1
  let s := arithOne s i die 0x10 e.sat 4 2
  let s := arithOne s i die 0x18 e.ovf 8 3
  let s := arithOne s i die 0x18 e.statOvf 64 3
  let s := arithOne s i die 0x20 e.nan 16 4
  arithOne s i die 0x28 e.statClamp 32 5

/-- ARITH_SUMMARY (R86): bit i is set while any flag of section i is set. -/
def arithSummary (s : State) : Nat :=
  (List.range 64).foldl (fun acc i => if reg s (Reg.ARITH_FLAGS i) = 0 then acc else acc + 2 ^ i) 0

/-! ## The error log -/

/-- What an event to be logged says of itself (Table 22.3). -/
structure LogItem where
  code : Nat
  cls : Nat
  die : Nat := 0xFF
  unit : Nat := 0xFFFF
  sect : Nat := 0xFFFF
  addr : Nat := 0
  syndrome : Nat := 0
  requester : Nat := 0
  deriving DecidableEq, Repr

/-- Whether an event repeats entry `e` (R457). -/
def LogItem.repeats (x : LogItem) (e : ErrEntry) : Bool :=
  decide (x.code = e.code) && decide (x.die = e.die) && decide (x.unit = e.unit) && decide (x.addr = e.addr)

/-- R457: the newest entry of the ring, when it belongs to the present measure and `x` repeats it. -/
def repeated (s : State) (x : LogItem) : Option (Nat × ErrEntry) :=
  match s.err.newest with
  | none => none
  | some (slot, m) =>
    match tget (fun _ => none) s.err.ring slot with
    | none => none
    | some e => if m = measureNo s ∧ x.repeats e then some (slot, e) else none

/-- PROTOCOL events count in ERR_CNT_PROTOCOL (Table 22.7). -/
def logCount (s : State) (x : LogItem) : State := if x.cls = 2 then bump s Reg.ERR_CNT_PROTOCOL else s

/-- A repeated event adds to REPEATS of the newest entry. -/
def logRepeat (s : State) (slot : Nat) (e : ErrEntry) : State :=
  { s with
    err := { s.err with
      ring := tset (fun _ => none) s.err.ring slot (some { e with repeats := min (e.repeats + 1) 0xFFFF }) } }

/-- The entry of an event at the present edge (Table 22.3). -/
def LogItem.entry (s : State) (x : LogItem) : ErrEntry :=
  { time := now s, code := x.code, cls := x.cls, die := x.die, unit := x.unit, sect := x.sect, addr := x.addr,
    syndrome := x.syndrome, requester := x.requester, repeats := 0 }

/-- A new entry goes to slot ERR_LOG_HEAD, which moves on; LOGGED is raised, and LOG_OVERWRITE where the slot held one. -/
def logNew (s : State) (x : LogItem) : State :=
  let head := reg s Reg.ERR_LOG_HEAD
  let s1 :=
    { s with
      err := { s.err with
        ring := tset (fun _ => none) s.err.ring head (some (x.entry s)), newest := some (head, measureNo s) } }
  let s2 := setReg s1 Reg.ERR_LOG_HEAD ((head + 1) % 512)
  let s3 := setReg s2 Reg.ERR_LOG_COUNT (min (reg s2 Reg.ERR_LOG_COUNT + 1) 0xFFFFFFFF)
  let s4 := setBits s3 Reg.ERR_INT_STATUS 1
  if tget (fun _ => none) s.err.ring head = none then s4 else setBits (bump s4 Reg.ERR_CNT_OVERWRITTEN) Reg.ERR_INT_STATUS 16

/-- R457: log an event. -/
def logErr (s : State) (x : LogItem) : State :=
  match repeated (logCount s x) x with
  | some p => logRepeat (logCount s x) p.1 p.2
  | none => logNew (logCount s x) x

/-- A PROTOCOL event at a BAR0 offset by a requester (R458). -/
def protocol (s : State) (code off requester : Nat) : State :=
  logErr s { code := code, cls := 2, addr := off, requester := requester }

/-- The 32 bytes of a log entry (Table 22.3). -/
def ErrEntry.toBytes (e : ErrEntry) : List Byte :=
  natLE 8 e.time ++ natLE 2 e.code ++ natLE 1 e.cls ++ natLE 1 e.die ++ natLE 2 e.unit ++ natLE 2 e.sect ++ natLE 8 e.addr
    ++ natLE 1 e.syndrome ++ natLE 1 e.requester ++ natLE 2 e.repeats ++ natLE 4 0

/-! ## Emissions and free values -/

/-- Record something that leaves the block. -/
def emit (s : State) (e : Emission) : State := { s with emitted := s.emitted ++ [e] }

/-- Take the next free value's index. -/
def tick (s : State) : State := { s with fresh := s.fresh + 1 }

/-! ## Cores -/

/-- Core `c`. -/
def core (s : State) (c : Nat) : Core := tget (fun _ => Core.reset) s.cores c

/-- Replace core `c`. -/
def setCore (s : State) (c : Nat) (k : Core) : State := { s with cores := tset (fun _ => Core.reset) s.cores c k }

/-- Apply `f` to core `c`. -/
def modCore (s : State) (c : Nat) (f : Core → Core) : State := setCore s c (f (core s c))

/-- Bytes of a scratchpad (R142). -/
def spSize : Nat := 393216

/-- Key of scratchpad byte `x` of core `c`. -/
def spKey (c x : Nat) : Nat := c * spSize + x

/-- Read `n` scratchpad bytes of core `c` from byte address `x`. -/
def spRead (s : State) (c x n : Nat) : List Byte := memRead s.scratch (spKey c x) n

/-- The little-endian number in `n` scratchpad bytes. -/
def spNat (s : State) (c x n : Nat) : Nat := leNat (spRead s c x n)

/-- Write scratchpad bytes, clipped to the core's 384 KiB. -/
def spPut (s : State) (c x : Nat) (bs : List Byte) : State :=
  { s with scratch := memWrite s.scratch (spKey c x) (bs.take (spSize - x)) }

/-- The allocations of a core's section. -/
def coreAllocs (s : State) (c : Nat) : List Alloc :=
  match s.bond.image, coreSection s c with
  | some im, some i => im.allocs.filter fun a => a.sect = i
  | _, _ => []

/-- Allocation flags (Table 08.5). -/
def Alloc.pinScratch (a : Alloc) : Bool := bit a.flags 0
/-- BACKED. -/
def Alloc.backed (a : Alloc) : Bool := bit a.flags 1
/-- STREAM. -/
def Alloc.stream (a : Alloc) : Bool := bit a.flags 2
/-- SHARED_RO. -/
def Alloc.sharedRo (a : Alloc) : Bool := bit a.flags 3
/-- ZERO_ON_HANDOVER. -/
def Alloc.zeroOnHandover (a : Alloc) : Bool := bit a.flags 4

/-- R159: the 4 KiB pages of BACKED allocations that a write of `n` bytes at `x` touches. -/
def dirtyPages (as : List Alloc) (x n : Nat) : List Nat :=
  if n = 0 then []
  else ((List.range ((x + n - 1) / 4096 - x / 4096 + 1)).map (x / 4096 + ·)).filter fun p =>
    as.any fun a => a.backed && decide (a.base / 4096 ≤ p) && decide (p * 4096 < a.base + a.len)

/-- Insert into a strictly ascending list. -/
def insertAsc (x : Nat) : List Nat → List Nat
  | [] => [x]
  | y :: ys => if x < y then x :: y :: ys else if x = y then y :: ys else y :: insertAsc x ys

/-- Insert by an order that holds between an earlier and a later element. -/
def insertOrd {α : Type} (before : α → α → Bool) (x : α) : List α → List α
  | [] => [x]
  | y :: ys => if before y x then y :: insertOrd before x ys else x :: y :: ys

/-- Sort by an order. -/
def sortOrd {α : Type} (before : α → α → Bool) (l : List α) : List α := l.foldl (fun acc x => insertOrd before x acc) []

/-- R82: whether a kept bound is of a row that has bytes in a range. -/
def boundHit (x n : Nat) (p : Nat × Option (Nat × Int)) : Bool :=
  match p.2 with
  | some b => decide (p.1 < x + n) && decide (x < p.1 + b.1)
  | none => true

/-- R82: the bounds of rows that have bytes in a range are kept no longer. -/
def Core.forgetBounds (k : Core) (x n : Nat) : Core := { k with rowBounds := k.rowBounds.filter fun p => !boundHit x n p }

/-- R159: a write by a sequencer word: the bytes, and the dirty bits of the pages; the bounds of rows that it overwrites are over (R82). -/
def spWrite (s : State) (c x : Nat) (bs : List Byte) : State :=
  let s := spPut s c x bs
  let ps := dirtyPages (coreAllocs s c) x bs.length
  if ps = [] ∧ !((core s c).rowBounds.any (boundHit x bs.length)) then s
  else modCore s c fun k => { k.forgetBounds x bs.length with dirty := ps.foldl (fun l p => insertAsc p l) k.dirty }

/-! ## Resettable units (R442) -/

/-- Key of a resettable unit (Table 21.5). -/
def unitKey (cls i : Nat) : Nat := cls * 512 + i
/-- A resettable unit. -/
def unitSt (s : State) (cls i : Nat) : UnitSt := tget (fun _ => UnitSt.reset) s.topo.units (unitKey cls i)
/-- Replace a unit. -/
def setUnit (s : State) (cls i : Nat) (u : UnitSt) : State := { s with
    topo := { s.topo with
      units := tset (fun _ => UnitSt.reset) s.topo.units (unitKey cls i) u } }

/-! ## Unit epochs (R443 to R445) -/

/-- The present edge, in ck of the beats counted since reset. -/
def edgeNow (s : State) : Nat := s.time.rawBeats * 1500 + s.time.ck

/-- R443: a unit's epoch increments, once at an edge; epochs wrap. -/
def raiseEpoch (s : State) (cls i : Nat) : State :=
  let u := unitSt s cls i
  if u.at_ = some (edgeNow s) then s
  else setUnit s cls i { u with
    epoch := (u.epoch + 1) % 65536
    at_ := some (edgeNow s) }

/-- Key of what group `g` knows of a unit. -/
def knownKey (g cls i : Nat) : Nat := g * 4096 + unitKey cls i

/-- The epoch of a unit as group `g` last learned it (R444). -/
def learned (s : State) (g cls i : Nat) : Nat := (tget (fun _ => none) s.topo.known (knownKey g cls i)).getD (unitSt s cls i).epoch

/-- Group `g` takes a unit's present epoch from its answer (R444). -/
def learn (s : State) (g cls i : Nat) : State := { s with
    topo := { s.topo with
      known := tset (fun _ => none) s.topo.known (knownKey g cls i) none } }

/-- The core groups that run. -/
def runningGroups (s : State) : List Nat := (List.range 512).filter fun g => decide ((unitSt s 0 g).mode = .available)

/-- R443, R444: a unit's epoch increments while the module runs: the groups that run still send the epoch they know. A core group that leaves
service forgets what it knew. -/
def bumpEpoch (s : State) (cls i : Nat) : State :=
  let e := (unitSt s cls i).epoch
  let s1 := raiseEpoch s cls i
  if cls = 0 then { s1 with
    topo := { s1.topo with
      known := s1.topo.known.filter fun p => decide (p.1 / 4096 ≠ i) } }
  else if cls = 1 ∨ cls = 2 then
    (runningGroups s1).foldl (fun s' g =>
      if (tget (fun _ => none) s'.topo.known (knownKey g cls i)).isSome ∨ e = (unitSt s' cls i).epoch then s'
      else { s' with
        topo := { s'.topo with
          known := tset (fun _ => none) s'.topo.known (knownKey g cls i) (some e) } }) s1
  else s1

/-! ## LPDDR regions (R150) -/

/-- Key of byte `o` of region `g`. -/
def ldKey (g o : Nat) : Nat := g * 2 ^ 48 + o

/-- The number by which the model names the module reserve of LPDDR (R354), beyond every region of an image (log 53). -/
def reserveRegion : Nat := 0xFFFF

/-- The number by which it names LPDDR that neither a region nor the reserve takes (log 53). -/
def looseRegion : Nat := 0xFFFE

/-- Read `n` bytes of region `g` from offset `o`. -/
def ldRead (s : State) (g o n : Nat) : List Byte := memRead s.lpddr (ldKey g o) n

/-- The little-endian number in `n` bytes of region `g`. -/
def ldNat (s : State) (g o n : Nat) : Nat := leNat (ldRead s g o n)

/-- R395: the 2 KiB segments that a write of `n` bytes at `o` of region `g` touches, as region * 2^40 + segment. -/
def segmentsOf (g o n : Nat) : List Nat :=
  if n = 0 then [] else (List.range ((o + n - 1) / 2048 - o / 2048 + 1)).map fun i => g * 2 ^ 40 + o / 2048 + i

/-- R395: the source of a rejoin marks the segments that are written after they were sent. -/
def markSegments (t : TwinSt) (g o n : Nat) : TwinSt :=
  match t.resync with
  | none => t
  | some r =>
    if r.source ∧ !r.sent then
      let r1 : Resync := { r with marked := (segmentsOf g o n).foldl (fun l x => insertAsc x l) r.marked }
      { t with resync := some r1 }
    else t

/-- R455: a write of `n` bytes at key `k` clears the poison of the words that it covers whole. -/
def clearPoison (l : List Nat) (k n : Nat) : List Nat := l.filter fun w => decide (w < k) || decide (k + n < w + 8)

/-- Write bytes of region `g`. -/
def ldWrite (s : State) (g o : Nat) (bs : List Byte) : State :=
  { s with
    lpddr := memWrite s.lpddr (ldKey g o) bs
    poison := clearPoison s.poison (ldKey g o) bs.length
    twin := markSegments s.twin g o bs.length }

/-- The region of an asset's version slots (KIND ASSET, R150). -/
def assetRegion (im : Image) (a : Nat) : Option Nat :=
  (List.range im.regions.length).find? fun i =>
    match im.regions[i]? with
    | some r => decide (r.kind = 1 ∧ r.asset = a)
    | none => false

/-- Bytes of one version slot of region `g` of an image. -/
def slotSize (im : Image) (g : Nat) : Nat :=
  match im.regions[g]? with
  | some r => r.size
  | none => 0

/-! ## Interrupt levels (R459) -/

/-- ERR_INT_SUMMARY: bit k is the OR of block k's INT_STATUS and INT_ENABLE; bit 20 follows ARITH_SUMMARY (R459). -/
def summary (s : State) : List Nat :=
  ((List.range 20).filter fun k =>
    match intBlocks[k]? with
    | some (st, en) => decide (Nat.land (reg s st) (reg s en) ≠ 0)
    | none => false) ++ (if arithSummary s = 0 then [] else [20])

/-- The levels of the queue pairs and mailbox channels whose INT_STATUS stands in the register file: 32 + q and 512 + c (R459). -/
def ringLevels (s : State) : List Nat :=
  s.regs.filterMap fun p =>
    if 0x48000 ≤ p.1 ∧ p.1 < 0x50000 ∧ (p.1 - 0x48000) % 0x80 = 0x54 then
      let q := (p.1 - 0x48000) / 0x80
      if Nat.land p.2.toNat (reg s (Reg.Q_INT_ENABLE q)) = 0 then none else some (32 + q)
    else if 0x50000 ≤ p.1 ∧ p.1 < 0x58000 ∧ (p.1 - 0x50000) % 0x400 = 0x18 then
      let c := (p.1 - 0x50000) / 0x400
      if Nat.land p.2.toNat (reg s (Reg.MB_INT_ENABLE c)) = 0 then none else some (512 + c)
    else none

/-- The interrupt levels that are up (R459). -/
def levelsUp (s : State) : List Nat := summary s ++ ringLevels s

/-- The function that a channel's messages go to: the lowest that MB_FN grants it to (log 31). -/
def channelFn (s : State) (c : Nat) : Nat := ((List.range 64).find? fun f => bit (reg64 s (Reg.MB_FN c)) f).getD 0

/-- What the rise of level `k` sends (R459): of a summary bit, an MSI-X message of function 0 and, where routed, an I3C in-band
interrupt; of a queue pair or channel, a message on its vector. A silent module sends no message (R386). -/
def riseMsgs (s : State) (k : Nat) : List Emission :=
  let msg (f v : Nat) : List Emission := if s.twin.silent then [] else [.msix f v]
  if k < 32 then
    let r := reg s (Reg.ERR_INT_ROUTE k)
    msg 0 (bits r 4 0) ++ (if bit r 7 then [.i3c k] else [])
  else if k < 512 then msg (bits (reg s (Reg.Q_BIND (k - 32))) 21 16) (bits (reg s (Reg.Q_VECTOR (k - 32))) 4 0)
  else msg (channelFn s (k - 512)) (bits (reg s (Reg.MB_VECTOR (k - 512))) 4 0)

/-- R459: every level that rose sends its messages, and the levels are remembered. -/
def settle (s : State) : State :=
  { s with
    emitted := s.emitted ++ ((levelsUp s).filter fun k => !(s.err.levels.contains k)).flatMap (riseMsgs s)
    err := { s.err with levels := levelsUp s } }

/-- The outcome of a command. -/
abbrev Out := Host.Outcome State Fault Refusal

/-- A command that takes effect: the state with its interrupt levels settled (R459). -/
def done (s : State) : Out := .next (settle s)

/-- The same for a command that may have stopped. -/
def finish : Out → Out
  | .next s => done s
  | .fault f => .fault f
  | .refused r => .refused r

/-! ## Reach of BAR0 (R433) -/

/-- Whether the block at a BAR0 offset runs: from DISCOVERY onward; in HALTED only IDENT, PWR, TOPO and ERR. -/
def blockRuns (s : State) (off : Nat) : Bool :=
  match s.topo.stage with
  | .power => false
  | .fuse => false
  | .firmware => false
  | .halted => [0x00, 0x30, 0x38, 0x48].contains (off / 65536) || decide (off / 65536 = 0x31)
  | _ => true

/-- Whether an access of the host to the block at a BAR0 offset arrives and finds it running: no access crosses a link that is down, as it is
from a hot reset, which holds while PERST_N is asserted, to the next HOST_LINK_UP (R337, R467). -/
def hostReaches (s : State) (off : Nat) : Bool := s.host.linkUp && blockRuns s off

/-- An access of the host: it comes to nothing while the link is down (R337, R467). -/
def linked (s : State) (o : Out) : Out := if s.host.linkUp then o else done s

/-- A host write to the register at `off` takes effect where it arrives. -/
def host (s : State) (off : Nat) (f : State → State) : Out := if hostReaches s off then done (f s) else done s

end Sys2Proof.Machine
end

