-- ==== Sys2Proof/Machine/Operands.lean ====
section
/-!
DEFINITION. Machine/Operands.lean: the operand forms of sequencer words: fetching the word at a core's place in its table with the
strides of its loops (R92 to R94), the scoreboard (R146, R147), the slices (R148), and element operands.
-/
namespace Sys2Proof.Machine

/-! ## The sequencer -/

/-- The sequencer table of core `c` (R92). -/
def seqTable (s : State) (c : Nat) : Option SeqTable :=
  match s.bond.image, coreSection s c with
  | some im, some i => im.seq.find? fun t => t.sect = i
  | _, _ => none

/-- The word at the core's place in its table, unless the core idles (R93). DESIGN CHOICE (log 61): a core whose table ends without a
STEP_END issues nothing more. -/
def curWord (s : State) (c : Nat) : Option Nat :=
  if (core s c).idle then none
  else
    match seqTable s c with
    | none => none
    | some t =>
      match t.words[(core s c).pc]? with
      | none => none
      | some w => some w.toNat

/-- The opcode of a word (R93). -/
def opcode (w : Nat) : Nat := bits w 127 120

/-- The word at the core's place, where its opcode is `op`. -/
def wordOf (s : State) (c op : Nat) : Option Nat :=
  match curWord s c with
  | none => none
  | some w => if opcode w = op then some w else none

/-- The strides in force (R94): those of nested loops accumulate. -/
def strideSum (f : Loop → Int) : List Loop → Int
  | [] => 0
  | l :: ls => f l * (l.iter : Int) + strideSum f ls

/-- After the word before `pc`: an iteration ends, or a loop exits and its strides are removed (R94). DESIGN CHOICE (log 61): a LOOP
whose body runs past the end of an enclosing one passes over that end. -/
def popLoops : List Loop → Nat → List Loop × Nat
  | [], pc => ([], pc)
  | l :: ls, pc =>
    if pc = l.first + l.body then
      if l.iter + 1 < l.count then ({ l with iter := l.iter + 1 } :: ls, l.first) else popLoops ls pc
    else (l :: ls, pc)

/-- The core after its word issued: the word counts among those of the step, and the next word of the table follows. -/
def Core.advance (k : Core) : Core :=
  let p := popLoops k.loops (k.pc + 1)
  { k with
    loops := p.1
    pc := p.2
    issued := insertAsc k.pc k.issued }

/-- Advance core `c`. -/
def advance (s : State) (c : Nat) : State := modCore s c Core.advance

/-- R94: with KLOOP, START takes effect only in the first iteration. -/
def startOn (k : Core) : Bool := k.loops.all fun l => !l.kloop || decide (l.iter = 0)

/-- R94: with KLOOP, END takes effect only in the last iteration. -/
def endOn (k : Core) : Bool := k.loops.all fun l => !l.kloop || decide (l.iter + 1 = l.count)

/-- A field of a word in 4-byte or 16-byte units, with its stride, as a byte address. -/
def strided (base : Nat) (stride : Int) (unit : Nat) : Nat := ((base : Int) + stride).toNat * unit

/-- A_ADDR of a matrix word, bytes. -/
def aAddr (k : Core) (w : Nat) : Nat := strided (bits w 63 49) (strideSum Loop.a k.loops) 16
/-- W_ADDR of a WLOAD word, bytes. -/
def wAddr (k : Core) (w : Nat) : Nat := strided (bits w 63 49) (strideSum Loop.w k.loops) 16
/-- AS_ADDR, WS_ADDR or A_BASE, bits [81:65], bytes. -/
def sAddr (k : Core) (w : Nat) : Nat := strided (bits w 81 65) (strideSum Loop.s k.loops) 4
/-- W_BASE of a PREPASS word, bytes. -/
def wBase (k : Core) (w : Nat) : Nat := strided (bits w 64 48) (strideSum Loop.s k.loops) 4
/-- ACC of a matrix word. -/
def accOf (k : Core) (w : Nat) : Nat := (((bits w 107 104 : Nat) : Int) + strideSum Loop.acc k.loops).toNat % 16

/-- AFMT of Table 05.6 as an element format. -/
def afmt (w : Nat) : Fmt :=
  match bits w 119 116 with
  | 0 => .int8 | 1 => .e4m3 | 2 => .e5m2 | _ => .bf16

/-- A WFMT code of Table 05.6 as an element format. -/
def wfmtOf (n : Nat) : Fmt :=
  match n with
  | 0 => .int8 | 1 => .e4m3 | 2 => .e5m2 | 3 => .bf16 | 4 => .e2m3 | 5 => .e3m2 | _ => .e2m1

/-- WFMT of a word. -/
def wfmt (w : Nat) : Fmt := wfmtOf (bits w 115 112)

/-- Ki (R90): 8 with KFORM 1, else 4. -/
def kiOf (w : Nat) : Nat := if bit w 111 then 8 else 4

/-! ## Access ranges -/

/-- A byte range a word reads or writes. -/
structure Access where
  lo : Nat
  len : Nat
  write : Bool
  deriving DecidableEq, Repr

/-- Whether an access and a held range conflict (R147): they share a 16-byte unit and one of them writes. -/
def Access.conflicts (a : Access) (r : SbRange) : Bool :=
  decide (0 < a.len) && decide (a.lo / 16 ≤ r.hi) && decide (r.lo ≤ (a.lo + a.len - 1) / 16) && (a.write || r.write)

/-- Whether any access of a word conflicts with a range held by an earlier word (R147). -/
def sbConflict (k : Core) (as : List Access) : Bool := as.any fun a => k.board.any a.conflicts

/-- The hull of the accesses of one mode (R146). -/
def hull (write : Bool) (as : List Access) : List SbRange :=
  let l := as.filter fun a => decide (a.write = write) && decide (0 < a.len)
  match l with
  | [] => []
  | a :: r =>
    [{ lo := r.foldl (fun m x => min m (x.lo / 16)) (a.lo / 16),
       hi := r.foldl (fun m x => max m ((x.lo + x.len - 1) / 16)) ((a.lo + a.len - 1) / 16),
       write := write, holder := 0 }]

/-- The READ hull and the WRITE hull a word enters (R146). -/
def hulls (as : List Access) : List SbRange := hull false as ++ hull true as

/-- Whether a slice an access touches is still clearing (R148). -/
def sliceClearing (k : Core) (as : List Access) : Bool :=
  as.any fun a => decide (0 < a.len) && (List.range 6).any fun i =>
    decide (a.lo / 65536 ≤ i) && decide (i ≤ (a.lo + a.len - 1) / 65536)
      && decide (tget (fun _ => SliceSt.off) k.slices i = .clearing)

/-- Enter the hulls of a word under a new holder. -/
def enterHulls (k : Core) (as : List Access) : Core :=
  { k with board := k.board ++ (hulls as).map (fun r => { r with holder := k.nextHolder }), nextHolder := k.nextHolder + 1 }

/-- Release every range of a holder (R147). -/
def releaseHolder (k : Core) (h : Nat) : Core := { k with board := k.board.filter fun r => decide (r.holder ≠ h) }

/-- A word or prefetch entry issues whose last access completes later: it enters its ranges and is outstanding, a DMA word under its tag (R146, R147,
R154). -/
def startDma (k : Core) (as : List Access) (tag entry : Option Nat) : Core :=
  let k1 := enterHulls k as
  { k1 with
    dma := k1.dma ++ [{ holder := k.nextHolder, tag := tag, entry := entry }] }

/-- What holds a word back, in the order of Table 05.9 and Table 08.3. -/
inductive Hold where
  | accBusy | anchorWait | weightWait | sbWait | sbFull | sliceClear | pfWait | other
  deriving DecidableEq, Repr

/-- The SCRATCH source against which a held word or prefetch entry counts its ck (R145). -/
def Hold.scratch : Hold → Option Nat
  | .sbFull => some 3
  | .sliceClear => some 4
  | .pfWait => some 5
  | _ => none

/-- The stall source of R104 that a held word counts while MMA words are left to run: of its own where Table 05.9 names one, else
ISSUE_BLOCK for a word of another class than MMA. -/
def Hold.stall (mma : Bool) : Hold → Option Nat
  | .accBusy => some 0
  | .anchorWait => some 1
  | .weightWait => some 2
  | .sbWait => some 3
  | _ => if mma then none else some 5

/-- A loop in its last round: the rounds of a body name the same words. -/
def Loop.lastRound (l : Loop) : Loop := { l with count := min l.count (l.iter + 2) }

/-- Whether an MMA is among the words that a core runs from place `pc` on, up to a STEP_END: its loops go round, and a YIELD passes to the next
of `segs` further segments at RESUME (R286). At most `n` words are looked at. -/
def mmaAhead (ws : List (BitVec 128)) : Nat → Nat → List Loop → Nat → Bool
  | 0, _, _, _ => false
  | n + 1, segs, ls, pc =>
    match ws[pc]? with
    | none => false
    | some v =>
      let w := v.toNat
      let on (ls : List Loop) (pc : Nat) : Bool := let p := popLoops ls pc; mmaAhead ws n segs p.1 p.2
      if opcode w = 0x10 then true
      else if opcode w = 0x02 then false
      else if opcode w = 0x01 then
        mmaAhead ws n segs ({ first := pc + 1, body := bits w 119 108, count := 1, iter := 0, kloop := false, acc := 0, s := 0, w := 0, a := 0 } :: ls) (pc + 1)
      else if opcode w = 0x03 ∧ 0 < segs then mmaAhead ws n (segs - 1) [] (bits w 113 102)
      else on ls (pc + 1)

/-- Whether the step of core `c` still has MMA words to run (R104). -/
def mmaLeft (s : State) (c : Nat) : Bool :=
  match seqTable s c with
  | none => false
  | some t =>
    let k := core s c
    mmaAhead t.words ((k.segments.length + 1) * (k.loops.length + 1) * (t.words.length + 1)) k.segments.length (k.loops.map Loop.lastRound) k.pc

/-- An event of a class by core `c`. -/
def coreEvent (s : State) (c cls e : Nat) : State := event s cls e (coreSection s c) (some (dieOf c)) 1

/-- A ck in which an access of core `c` was held back counts against its SCRATCH source (R145). -/
def heldScratch (s : State) (c : Nat) (h : Hold) : State :=
  match h.scratch with
  | some e => coreEvent s c 3 e
  | none => s

/-- The state after a ck in which core `c`'s word of opcode `op` was held back (R102, R104, R145). -/
def held (s : State) (c op : Nat) (h : Hold) : State :=
  let s1 := heldScratch s c h
  if mmaLeft s c then
    match h.stall (decide (op = 0x10)) with
    | some e => coreEvent s1 c 2 e
    | none => s1
  else s1

/-- What holds back a word that enters ranges over `as` (R147, R148). -/
def rangeHold (k : Core) (as : List Access) : Option Hold :=
  if sbConflict k as then some .sbWait
  else if sliceClearing k as then some .sliceClear
  else if 16 < k.board.length + (hulls as).length then some .sbFull
  else none

/-- What holds back a matrix word, which enters no range but checks its reads (R146). -/
def readHold (k : Core) (as : List Access) : Option Hold :=
  if sbConflict k as then some .sbWait else if sliceClearing k as then some .sliceClear else none

/-- Whether every byte of the accesses lies in the core's scratchpad (R142). -/
def inScratchpad (as : List Access) : Bool := as.all fun a => decide (a.len = 0) || decide (a.lo + a.len ≤ spSize)

/-- A sequencer word at core `c`: nothing issues when the core's place holds another word; a word held back counts its ck;
a word that addresses bytes no scratchpad has stops the model; else the word takes effect. -/
def issue (s : State) (c op : Nat) (reach : Core → Nat → List Access) (hold : Core → Nat → Option Hold)
    (eff : State → Core → Nat → State) : Out :=
  match wordOf s c op with
  | none => .next s
  | some w =>
    match hold (core s c) w with
    | some h => .next (held s c op h)
    | none => if inScratchpad (reach (core s c) w) then .next (eff s (core s c) w) else .fault .scratchpadRange

/-! ## Elements -/

/-- The elements of a packed run of `n` elements of format `f` from byte address `x`. -/
def spElems (s : State) (c x : Nat) (f : Fmt) (n : Nat) : List Nat :=
  let v := spNat s c x ((f.width * n + 7) / 8)
  (List.range n).map fun i => v / 2 ^ (f.width * i) % 2 ^ f.width

/-- Element `i` of a run of elements of format `f` from byte address `x`. -/
def spElem (s : State) (c x : Nat) (f : Fmt) (i : Nat) : Nat :=
  let b := f.width * i
  spNat s c (x + b / 8) ((b % 8 + f.width + 7) / 8) / 2 ^ (b % 8) % 2 ^ f.width

/-- Write element `i` of a run of elements of format `f` from byte address `x`, leaving the other bits of its bytes. -/
def spPutElem (s : State) (c x : Nat) (f : Fmt) (i code : Nat) : State :=
  let b := f.width * i
  let n := (b % 8 + f.width + 7) / 8
  let old := spNat s c (x + b / 8) n
  let m := (2 ^ f.width - 1) * 2 ^ (b % 8)
  spWrite s c (x + b / 8) (natLE n (old - Nat.land old m + code * 2 ^ (b % 8)))

/-- The value of element (r, j) of a stored row-major tensor of `cols` elements a row, blocks along the row (R67). -/
def tensorElem (s : State) (c x : Nat) (f : Fmt) (scale cols r j : Nat) : Val :=
  let code := spElem s c x f (r * cols + j)
  if f.isMx then f.decodeScaled code (spNat s c (scale + r * ((cols + 31) / 32) + j / 32) 1) else f.decode code

/-- The unit number of a core in the error log: 128 * die + group (Table 22.3). -/
def unitOf (c : Nat) : Nat := c / 64

/-- Log a UNIT event of core `c` at scratchpad address `x` (R458). -/
def logUnit (s : State) (c code x : Nat) : State :=
  logErr s { code := code, cls := 3, die := dieOf c, unit := unitOf c, sect := (coreSection s c).getD 0xFFFF, addr := x }

/-- The kind of section `i`. -/
def sectionKind (s : State) (i : Nat) : Nat :=
  match sectionOf s i with
  | some x => x.kind
  | none => 0

/-- Mark one item of a segment of a section: of DECODE the entry, for its token's record (R295); of a front-end section the request. No record
carries an item of PREFILL, whose work the prefix tree may have done before (R299). -/
def markItem (s : State) (kind item : Nat) : State :=
  if kind = 7 then s
  else if kind = 8 then { s with
    serve := { s.serve with
      ast := tmod (fun _ => SeqEntry.reset) s.serve.ast item fun q => { q with
        inexact := true } } }
  else { s with
    front := { s.front with
      reqs := tmod (fun _ => none) s.front.reqs item fun r => r.map fun x => { x with
        inexact := true } } }

/-! ## Rows and the requests that own them (log 30) -/

/-- The place of the core's word: what the image's placement of a logical tensor may depend on. -/
def placeOf (s : State) (c : Nat) : List Nat :=
  let k := core s c
  [(coreSection s c).getD 0xFFFF, c, k.pc] ++ k.loops.map (·.iter)
    ++ [match k.current with
      | some g => g.items.length
      | none => 0]

/-- A row of a logical tensor that a word of core works on: TENSOR_ID, place and row within the word. -/
structure RowId where
  tensor : Nat
  place : List Nat
  row : Nat
  deriving DecidableEq, Repr

/-- The position among the core's work items of the one that owns a row, where it belongs to a request. -/
def rowPos (s : State) (c : Nat) (r : RowId) : Option Nat :=
  match (core s c).current with
  | none => none
  | some g => let i := Config.rowItem r.tensor r.place r.row; if i < g.items.length then some i else none

/-- The work item that owns a row. -/
def rowOwner (s : State) (c : Nat) (r : RowId) : Option Nat :=
  match rowPos s c r, (core s c).current with
  | some i, some g => g.items[i]?
  | _, _ => none

/-- The key of the version set that a section's step takes for rows of no request. -/
def stepVset (sect : Nat) : Nat := 0x10000 + sect

/-- The version set of a work item of a section: of the sequence for PREFILL and DECODE, of the request for the front end. -/
def itemVset (s : State) (sect item : Nat) : Nat :=
  if sectionKind s sect = 7 ∨ sectionKind s sect = 8 then (tget (fun _ => SeqEntry.reset) s.serve.ast item).vset
  else
    match tget (fun _ => none) s.front.reqs item with
    | some (r : Req) => r.vset
    | none => stepVset sect

/-- The version set that a row's work reads (R18, R130, R213): of the request that owns it, else of the step boundary. -/
def rowVset (s : State) (c : Nat) (r : RowId) : Nat :=
  let i := (coreSection s c).getD 0xFFFF
  match rowOwner s c r with
  | some x => itemVset s i x
  | none => stepVset i

/-- The token position of the first row a work item has in this step: 0 in the front end (R78). -/
def itemPos (s : State) (sect item : Nat) : Nat :=
  if sectionKind s sect = 7 ∨ sectionKind s sect = 8 then (tget (fun _ => SeqEntry.reset) s.serve.ast item).ctxLen else 0

/-- R88 for one row: the request that owns it is marked. -/
def markRow (s : State) (c : Nat) (r : RowId) : State :=
  match coreSection s c, rowOwner s c r with
  | some i, some x => markItem s (sectionKind s i) x
  | _, _ => s

/-- Whether an arithmetic record holds a truncation or a saturation (R88). -/
def ArithEv.inexact (e : ArithEv) : Bool := decide (e.truncProd ≠ 0 ∨ e.truncStat ≠ 0 ∨ e.sat ≠ 0)

/-- Count an arithmetic record against the section of core `c` (R86). -/
def arithCore (s : State) (c : Nat) (e : ArithEv) : State :=
  match coreSection s c with
  | some i => arith s i (dieOf c) e
  | none => s

/-- The same for an event of one row: truncations and saturations mark the request that owns it (R88). -/
def arithRow (s : State) (c : Nat) (r : RowId) (e : ArithEv) : State :=
  if e.inexact then markRow (arithCore s c e) c r else arithCore s c e

end Sys2Proof.Machine
end

