-- ==== Sys2Proof/Machine/Matrix.lean ====
section
/-!
DEFINITION. Machine/Matrix.lean: what the matrix words do (spec/05_matrix_cores.md, R89 to R104; spec/04_number_formats.md, R70 to R73):
PREPASS, WLOAD and MMA over the accumulator sets of a core.
-/
namespace Sys2Proof.Machine

/-- The accumulator of output (i, col) of set `a`. -/
def waccKey (a i col : Nat) : Nat := a * 64 + i * 16 + col

/-- The WACC at a key. -/
def getWacc (k : Core) (key : Nat) : Wacc := tget (fun _ => Wacc.clear) k.wacc key

/-- Replace the WACC at a key. -/
def setWacc (k : Core) (key : Nat) (v : Wacc) : Core := { k with wacc := tset (fun _ => Wacc.clear) k.wacc key v }

/-- Accumulator set `a`. -/
def getSet (k : Core) (a : Nat) : AccSet := tget (fun _ => AccSet.reset) k.sets a

/-- Replace accumulator set `a`. -/
def setSet (k : Core) (a : Nat) (v : AccSet) : Core := { k with sets := tset (fun _ => AccSet.reset) k.sets a v }

/-- The weight buffer that WSEL names. -/
def getBuf (k : Core) (sel : Bool) : WBuf := if sel then k.wbuf1 else k.wbuf0

/-! ## PREPASS (R70, R95) -/

/-- The larger of two bounds, where one or both may be absent. -/
def maxOpt (a b : Option Int) : Option Int :=
  match a, b with
  | none, x => x
  | x, none => x
  | some x, some y => some (max x y)

/-- The combined bound of an MX group from its two scale codes (R70); a scale of 0xFF is excluded. -/
def mxBound (fa fw : Fmt) (xa xw : Nat) : Option Int :=
  match scaleExp xa, scaleExp xw with
  | some a, some w => some (a + w + fa.bound + fw.bound)
  | _, _ => none

/-- The unbiased exponent of a nonzero finite BF16 element, subnormals as -126 (R70). -/
def bf16Exp (code : Nat) : Option Int :=
  let e := code / 128 % 256
  if code % 32768 = 0 ∨ e = 255 then none else if e = 0 then some (-126) else some ((e : Int) - 127)

/-- The largest exponent of a list of BF16 elements. -/
def bf16Max (l : List Nat) : Option Int := l.foldl (fun m x => maxOpt m (bf16Exp x)) none

/-- R70: the anchor of output (i, col) of block m over G groups. -/
def anchorOf (s : State) (c : Nat) (fa fw : Fmt) (aBase wBase u g m i col : Nat) : Int :=
  let b : Option Int := (List.range g).foldl (fun acc n =>
    maxOpt acc
      (if fa = .bf16 then
        match bf16Max ((List.range 8).flatMap fun t => spElems s c (aBase + 32 * ((8 * n + t) * u + m) + 8 * i) .bf16 4),
          bf16Max ((List.range 8).flatMap fun t => spElems s c (wBase + 128 * (8 * n + t) + 8 * col) .bf16 4) with
        | some a, some w => some (a + w + 2)
        | _, _ => none
      else mxBound fa fw (spNat s c (aBase + 4 * (n * u + m) + i) 1) (spNat s c (wBase + 16 * n + col) 1))) none
  b.getD 0

/-- R82: the largest activation bound of row i of block m over G groups, X_a + b_a; for BF16 the exponent bound E_a + 1 (log 63). -/
def rowBoundOf (s : State) (c : Nat) (fa : Fmt) (aBase u g m i : Nat) : Option Int :=
  (List.range g).foldl (fun acc n =>
    maxOpt acc
      (if fa = .bf16 then
        (bf16Max ((List.range 8).flatMap fun t => spElems s c (aBase + 32 * ((8 * n + t) * u + m) + 8 * i) .bf16 4)).map (· + 1)
      else (scaleExp (spNat s c (aBase + 4 * (n * u + m) + i) 1)).map (· + fa.bound))) none

/-- The byte ranges a PREPASS reads (R95). -/
def prepassReads (k : Core) (w : Nat) : List Access :=
  let u := bits w 102 100 + 1
  let g := bits w 99 84 + 1
  if afmt w = .bf16 then [⟨sAddr k w, 32 * 8 * g * u, false⟩, ⟨wBase k w, 128 * 8 * g, false⟩]
  else [⟨sAddr k w, 4 * g * u, false⟩, ⟨wBase k w, 16 * g, false⟩]

/-- The sets a PREPASS covers. -/
def prepassSets (k : Core) (w : Nat) : List Nat := (List.range (bits w 102 100 + 1)).map fun m => (accOf k w + m) % 16

/-- R103: a PREPASS waits until every pending anchor it would overwrite has been moved by a START. -/
def prepassHold (k : Core) (w : Nat) : Option Hold :=
  if (prepassSets k w).any (fun a => (getSet k a).pendingReady) then some .other else readHold k (prepassReads k w)

/-- R95: the pending anchors of every output of the run, and with them the activation bounds of its rows (R82). -/
def prepassEffect (s : State) (c : Nat) (k : Core) (w : Nat) : State :=
  let u := bits w 102 100 + 1
  let g := bits w 99 84 + 1
  let k1 := (List.range u).foldl (fun k' m =>
    let a := (accOf k w + m) % 16
    let k2 := (List.range 64).foldl (fun k3 o =>
      let key := a * 64 + o
      setWacc k3 key { getWacc k3 key with
        pending := anchorOf s c (afmt w) (wfmt w) (sAddr k w) (wBase k w) u g m (o / 16) (o % 16) }) k'
    setSet k2 a { getSet k2 a with
      pendingReady := true
      pendBound := (List.range 4).map fun i => rowBoundOf s c (afmt w) (sAddr k w) u g m i }) k
  event (setCore s c k1.advance) 2 8 (coreSection s c) (some (dieOf c)) 1

/-! ## WLOAD (R96) -/

/-- Bytes of one weight block (R96). -/
def wblockBytes (f : Fmt) : Nat :=
  match f with
  | .bf16 => 128
  | .e2m3 => 96
  | .e3m2 => 96
  | _ => 64

/-- The byte ranges a WLOAD reads. -/
def wloadReads (k : Core) (w : Nat) : List Access :=
  ⟨wAddr k w, wblockBytes (wfmt w), false⟩ :: (if bit w 64 then [⟨sAddr k w, 16, false⟩] else [])

/-- R96: the block, and with GSTART the 16 scales, enter the buffer that WSEL names. -/
def wloadEffect (s : State) (c : Nat) (k : Core) (w : Nat) : State :=
  let sc := if bit w 64 then (spRead s c (sAddr k w) 16).map (·.toNat) else k.lastScales
  let b : WBuf := { fmt := bits w 115 112, block := spRead s c (wAddr k w) (wblockBytes (wfmt w)), scales := sc, loaded := true }
  let k1 := if bit w 108 then { k with wbuf1 := b, lastScales := sc } else { k with wbuf0 := b, lastScales := sc }
  event (setCore s c k1.advance) 2 7 (coreSection s c) (some (dieOf c)) 1

/-! ## MMA (R90, R97, R98) -/

/-- Bytes of an activation block. -/
def ablockBytes (w : Nat) : Nat := if afmt w = .bf16 then 32 else 4 * kiOf w

/-- The byte ranges an MMA reads. -/
def mmaReads (k : Core) (w : Nat) : List Access :=
  ⟨aAddr k w, ablockBytes w, false⟩ :: (if bit w 64 then [⟨sAddr k w, 4, false⟩] else [])

/-- R103, in the order of Table 05.9. -/
def mmaHold (k : Core) (w : Nat) : Option Hold :=
  let a := getSet k (accOf k w)
  let start := bit w 110 && startOn k
  if start && decide (a.mode = .draining) then some .accBusy
  else if start && !a.pendingReady then some .anchorWait
  else if !(getBuf k (bit w 108)).loaded then some .weightWait
  else readHold k (mmaReads k w)

/-- Element k of column `col` of a weight block (R96). -/
def wElem (b : WBuf) (ki col n : Nat) : Nat :=
  let f := wfmtOf b.fmt
  let cb := f.width * ki / 8
  unpack f (slice b.block (cb * col) cb) n

/-- The exact product a(i, n) x w(n, col) with both scales (R72, R73). DESIGN CHOICE (log 61): the weights are read in the format of the
WLOAD that filled the buffer, whatever WFMT the MMA names. -/
def product (fa : Fmt) (a xa : Nat) (b : WBuf) (wcode xw : Nat) : Val :=
  if fa = .bf16 then (fa.decode a).mul (Fmt.bf16.decode wcode)
  else (fa.decodeScaled a xa).mul ((wfmtOf b.fmt).decodeScaled wcode xw)

/-- The Ki products of output (i, col), one after another, with their counts and anchor violations. -/
def sumProducts (w : Wacc) : List Val → Wacc × ArithEv × Nat
  | [] => (w, {}, 0)
  | v :: vs =>
    let p := w.addProduct v
    let q := sumProducts p.1 vs
    (q.1, p.2.1.add q.2.1, (if p.2.2 then 1 else 0) + q.2.2)

/-- The outputs a word reaches: set in both masks (R100). -/
def maskedOuts (rows cols : Nat) : List (Nat × Nat) :=
  ((List.range 64).map fun o => (o / 16, o % 16)).filter fun p => bit rows p.1 && bit cols p.2

/-- One strip of products (R90, R97): the core after it, its counts, and how many products violated their anchor. -/
def strip (s : State) (c : Nat) (k : Core) (w : Nat) : Core × ArithEv × Nat :=
  let a := accOf k w
  let ki := kiOf w
  let fa := afmt w
  let buf := getBuf k (bit w 108)
  let rowElems := (List.range 4).map fun i => spElems s c (aAddr k w + ablockBytes w / 4 * i) fa ki
  (maskedOuts (bits w 103 100) (bits w 99 84)).foldl (fun acc p =>
    let key := waccKey a p.1 p.2
    let xa := tget (fun _ => 0) k.ascale (a * 4 + p.1)
    let vs := (List.range ki).map fun n =>
      product fa ((rowElems.getD p.1 []).getD n 0) xa buf (wElem buf ki p.2 n) (buf.scales.getD p.2 0)
    let r := sumProducts (getWacc acc.1 key) vs
    (setWacc acc.1 key r.1, acc.2.1.add r.2.1, acc.2.2 + r.2.2)) (k, {}, 0)

/-- The EPI_BIND word that governs the sets ended from now on (R112). -/
def curEpi (k : Core) : Option EpiSt := k.epis.getLast?

/-- END hands set `a` to the drain path (R98), as the next of the sets that the EPI_BIND in force governs (R112). -/
def endSet (k : Core) (a : Nat) : Core :=
  let k1 := setSet k a { getSet k a with mode := .draining }
  match curEpi k with
  | none => { k1 with drainQ := k.drainQ ++ [(a, none)] }
  | some e => { k1 with
      drainQ := k.drainQ ++ [(a, some (e.holder, e.ended))]
      epis := k.epis.dropLast ++ [{ e with ended := e.ended + 1 }] }

/-- A START takes set `a` (R98): its accumulators begin anew, and its bounds are those of the last PREPASS. -/
def startSet (k : Core) (a w : Nat) : Core :=
  let st := getSet k a
  setSet ((List.range 64).foldl (fun k' o => setWacc k' (a * 64 + o) (getWacc k' (a * 64 + o)).start) k) a
    { st with mode := .accumulating, rows := bits w 103 100, cols := bits w 99 84, pendingReady := false, bound := st.pendBound }

/-- Log `n` anchor violations (R98). -/
def logViolations (s : State) (c x : Nat) : Nat → State
  | 0 => s
  | n + 1 => logViolations (logUnit s c 0x0020 x) c x n

/-- R97, R98: the scales of GSTART, the START, the strip, and the END. -/
def mmaEffect (s : State) (c : Nat) (k : Core) (w : Nat) : State :=
  let a := accOf k w
  let start := bit w 110 && startOn k
  let fin := bit w 109 && endOn k
  let k1 := if bit w 64 then
      { k with ascale := (List.range 4).foldl (fun t i => tset (fun _ => 0) t (a * 4 + i) (spNat s c (sAddr k w + i) 1)) k.ascale }
    else k
  let k2 := if start then startSet k1 a w else k1
  let r := strip s c k2 w
  let k4 := if fin then endSet r.1 a else r.1
  let s1 := arithCore (setCore s c k4.advance) c r.2.1
  let s2 := logViolations s1 c (aAddr k w) r.2.2
  event s2 2 6 (coreSection s c) (some (dieOf c)) 1

end Sys2Proof.Machine
end

