-- ==== Sys2Proof/Machine/Special.lean ====
section
/-!
DEFINITION. Machine/Special.lean: SFUNC micro-programs (spec/07_special_functions.md, R125 to R131), the hardware reciprocal square root and
exponentials (R132, R135), the soft maximum (R133 to R140) and SMXMERGE (R141).
-/
namespace Sys2Proof.Machine

/-! ## Micro-programs -/

/-- Integer square root by bits: the largest r below 2^n with r * r at most x. -/
def sqrtBits (x : Nat) : Nat → Nat → Nat
  | 0, r => r
  | n + 1, r => let t := r + 2 ^ n; if t * t ≤ x then sqrtBits x n t else sqrtBits x n r

/-- R128: round to 40 significand bits, nearest, ties to even, with no bound on the exponent. -/
def round40 : Val → Val
  | .fin neg n d =>
    if n = 0 then .fin neg 0 1
    else
      let q := log2Q n d - 39
      let p := scalePow n d (-q)
      let k := roundMag .nearest neg p.1 p.2
      (Val.fin neg k 1).scale2 q
  | v => v

/-- The square root of n / d rounded to 40 significand bits (RECON HALF with odd n). A tie cannot arise: the root is irrational
or has fewer bits. -/
def sqrt40 (n d : Nat) : Val :=
  if n = 0 then .zero
  else
    let e := (log2Q n d) / 2 - 39
    let p := scalePow n d (-(2 * e))
    -- twice the scaled root, one more bit than kept
    let r2 := sqrtBits (4 * p.1 / p.2) 64 0
    let exact := decide (r2 * r2 * p.2 = 4 * p.1)
    let k := if r2 % 2 = 1 then (if exact && decide (r2 / 2 % 2 = 0) then r2 / 2 else r2 / 2 + 1) else r2 / 2
    (Val.fin false k 1).scale2 e

/-- y times 2^(-n/2) (RECON HALF). -/
def halfScale (y : Val) (n : Int) : Val :=
  if n % 2 = 0 then y.scale2 (-(n / 2))
  else
    match y with
    | .fin neg a b =>
      let p := scalePow (a * a) (b * b) (-n)
      match sqrt40 p.1 p.2 with
      | .fin _ x z => .fin neg x z
      | v => v
    | v => v

/-- A pool entry as an exact value: Q8.56 two's complement (R126). -/
def poolVal (f : SFunc) (i : Nat) : Val := .ofInt (signed 64 (f.pool.getD i 0)) (2 ^ 56)

/-- IEEE 754 binary64 decoded (R126, c0). -/
def f64 (c : Nat) : Val :=
  let neg := bit c 63
  let e := bits c 62 52
  let m := c % 2 ^ 52
  if e = 2047 then (if m = 0 then .inf neg else .nan)
  else
    let k := if e = 0 then m else m + 2 ^ 52
    let p := scalePow k 1 ((if e = 0 then -1022 else (e : Int) - 1023) - 52)
    let t := trimPow p.1 p.2
    .fin neg t.1 t.2

/-- The five values of a micro-program (R127), its loaded segment, and whether a SELECT has taken hold of y. -/
structure SfSt where
  t : Val
  n : Int
  y : Val
  c0 : Val
  c1 : Val
  c2 : Val
  taken : Bool
  deriving DecidableEq, Repr

/-- RRED (Table 07.2). -/
def rred (f : SFunc) (idx : Nat) (x : Val) (xcode mode a : Nat) (st : SfSt) : SfSt :=
  let v := if bit mode 3 then st.y else x
  let open_ := Config.openReduce f.no idx xcode
  let free : SfSt := { st with t := .ofInt open_.1 (open_.2.1 + 1), n := open_.2.2 }
  match mode % 8 with
  | 0 => { st with t := v, n := 0 }
  | 1 =>
    match v.mul (poolVal f a) with
    | .fin neg n d => let k := floorQ neg n d; { st with n := k, t := .ofInt (signedNum neg n - k * d) d }
    | _ => free
  | 2 =>
    match v.mul (poolVal f a) with
    | .fin neg n d => let k := nearestQ neg n d; { st with n := k, t := .ofInt (signedNum neg n - k * d) d }
    | _ => free
  | 3 =>
    match v with
    | .fin false n d =>
      if n = 0 then free else let e := log2Q n d; { st with n := e, t := (Val.fin false n d).scale2 (-e) }
    | _ => free
  | 4 =>
    match v with
    | .fin false n d =>
      if n = 0 then free
      else let e := log2Q n d; let e2 := e - e % 2; { st with n := e2, t := (Val.fin false n d).scale2 (-e2) }
    | _ => free
  | _ => { st with t := v.abs.mul (poolVal f a), n := if v.lt .zero then 1 else 0 }

/-- LOOKUP (Table 07.2): the segment index, clamped, the reduced argument, and the segment's coefficients. -/
def lookup (f : SFunc) (segs : List (Nat × Nat × Nat)) (mode sh b : Nat) (st : SfSt) : SfSt :=
  match st.t.sub (poolVal f (mode % 8)) with
  | .fin neg n d =>
    let raw := 4 * (b : Int) + floorQ neg (n * 2 ^ sh) d
    let s := (max (4 * (b : Int)) (min raw ((segs.length : Int) - 1))).toNat
    let g := segs.getD s (0, 0, 0)
    { st with
      t := (Val.ofInt (signedNum neg n) d).sub (.ofInt ((s : Int) - 4 * b) (2 ^ sh)),
      c0 := f64 g.1, c1 := f32 g.2.1, c2 := f32 g.2.2 }
  | v => { st with t := v }

/-- RECON (Table 07.2). -/
def recon (f : SFunc) (x : Val) (mode a : Nat) (st : SfSt) : Val :=
  match mode with
  | 0 => st.y.scale2 st.n
  | 1 => st.y.add ((Val.ofInt st.n 1).mul (poolVal f a))
  | 2 => halfScale st.y st.n
  | 3 => if st.n = 1 then st.y.neg else st.y
  | 4 => if st.n = 1 then (poolVal f a).sub st.y else st.y
  | 5 => x.mul st.y
  | 6 => st.y.recip
  | 7 => st.y.add (poolVal f a)
  | 8 => st.y.mul (poolVal f a)
  | _ => st.y

/-- The sign of a value. -/
def Val.isNeg : Val → Bool
  | .nan => false
  | .inf s => s
  | .fin s _ _ => s

/-- SELECT (Table 07.2): whether the condition on x holds. -/
def selectCond (f : SFunc) (x : Val) (mode a : Nat) : Bool :=
  match mode with
  | 0 => (poolVal f a).le x
  | 1 => x.lt (poolVal f a)
  | _ => (poolVal f a).le x.abs

/-- SELECT (Table 07.2): the value y takes. -/
def selectVal (f : SFunc) (x : Val) (b : Nat) : Val :=
  match b / 16 % 16 with
  | 0 => poolVal f (b % 8)
  | 1 => let p := poolVal f (b % 8); if x.isNeg then p.abs.neg else p.abs
  | 2 => x
  | 3 => .zero
  | _ => .nan

/-- One step word (R127). -/
def sfStep (f : SFunc) (segs : List (Nat × Nat × Nat)) (x : Val) (xcode idx w : Nat) (st : SfSt) : SfSt :=
  let mode := bits w 27 24
  let a := bits w 23 16
  let b := bits w 15 8
  match bits w 31 28 with
  | 0 => rred f idx x xcode mode a st
  | 1 => lookup f segs mode a b st
  | 2 => if st.taken then st else { st with y := round40 (st.c0.add (st.t.mul (st.c1.add (st.t.mul st.c2)))) }
  | 3 => if st.taken then st else { st with y := round40 (recon f x mode a st) }
  | 4 => if !st.taken && selectCond f x mode a then { st with y := selectVal f x b, taken := true } else st
  | _ =>
    let lo := poolVal f (a % 8)
    let hi := poolVal f (b % 8)
    match st.y with
    | .nan => st
    | y => let m := if y.le lo then lo else y; { st with y := if hi.le m then hi else m }

/-- Run the step words. -/
def sfRun (f : SFunc) (segs : List (Nat × Nat × Nat)) (x : Val) (xcode : Nat) : Nat → List Nat → SfSt → SfSt
  | _, [], st => st
  | i, w :: ws, st => sfRun f segs x xcode (i + 1) ws (sfStep f segs x xcode i w st)

/-- A special-value code of R125; code 0 runs the program. -/
def specVal (f : SFunc) (x : Val) (code : Nat) : Option Val :=
  match code with
  | 0 => none
  | 1 => some .zero
  | 2 => some (.fin true 0 1)
  | 3 => some .one
  | 4 => some (.fin true 1 1)
  | 5 => some (.inf false)
  | 6 => some (.inf true)
  | 7 => some .nan
  | 8 => some x
  | _ => some (poolVal f 7)

/-- R128: y = f(x) before the stage's rounding. -/
def sfEval (f : SFunc) (segs : List (Nat × Nat × Nat)) (x : Val) : Val :=
  let run := (sfRun f segs x (Fmt.fp32.encode false .nearest x).1 0 f.prog
    { t := x, n := 0, y := x, c0 := .zero, c1 := .zero, c2 := .zero, taken := false }).y
  match x with
  | .nan => .nan
  | .inf neg => (specVal f x (if neg then f.ninf else f.pinf)).getD run
  | .fin neg n _ => if n = 0 then (specVal f x (if neg then f.nzero else f.pzero)).getD run else run

/-! ## Hardware functions -/

/-- The values an FP32 result may take (Table 07.5), in halves of the unit that its exact value's binade has: `k` is the exact value's floor in
units, `cr` the correctly rounded one, and `within h u` whether `h` halves lie within the bound of the exact value when the ulp of the correctly
rounded result is `u` halves. Below a power of two the unit is half as long. -/
def fp32Near (k cr : Nat) (normal : Bool) (within : Nat → Nat → Bool) : List Nat :=
  ((if k = 2 ^ 23 ∧ normal then [2 * k - 1] else []) ++ [2 * k, 2 * k + 2]).filter fun h => within h (if cr = 2 ^ 24 then 4 else 2)

/-- The square root of n / d within 0.51 ulp of the correctly rounded FP32 result: the hardware's choice of what the bound allows (log 14). -/
def sqrtWithin (n d choice : Nat) : Val :=
  let q := (log2Q n d) / 2 - 23
  -- the square of the root in halves of 2^q
  let p := scalePow n d (-(2 * (q - 1)))
  let k := sqrtBits (p.1 / p.2) 26 0 / 2
  let tie := (2 * k + 1) * (2 * k + 1) * p.2
  let cr := if tie < p.1 ∨ (tie = p.1 ∧ k % 2 = 1) then k + 1 else k
  let l := fp32Near k cr true fun h u =>
    decide ((100 * h - 51 * u) * (100 * h - 51 * u) * p.2 ≤ 10000 * p.1) && decide (10000 * p.1 ≤ (100 * h + 51 * u) * (100 * h + 51 * u) * p.2)
  (Val.fin false (l.getD (choice % l.length) (2 * cr)) 1).scale2 (q - 1)

/-- The hardware reciprocal square root (R118, R132): within 0.51 ulp, with the special values of Table 07.5; the bits within the bound are
the hardware's (log 14). -/
def rsqrtHw (v : Val) : Val :=
  match v with
  | .nan => .nan
  | .inf true => .nan
  | .inf false => .zero
  | .fin neg n d =>
    if n = 0 then .inf neg else if neg then .nan
    else sqrtWithin d n (Config.rsqrt (Fmt.fp32.encode false .nearest v).1)

/-- ln 2 in units of 2^-120, truncated. -/
def ln2Fix : Nat := 0xb17217f7d1cf79abc9e3b39803f2f6

/-- The terms of the exponential series from number `i` on, in units of 2^-120, each truncated: `t` is the term before it. -/
def expTerms (x : Nat) : Nat → Nat → Nat → Nat
  | 0, _, _ => 0
  | n + 1, i, t => let u := t * x / 2 ^ 120 / i; u + expTerms x n (i + 1) u

/-- 2^(r / d) for 0 ≤ r < d in units of 2^-120: truncated throughout, so the exact value lies less than 2^10 units above it. -/
def exp2Low (r d : Nat) : Nat := 2 ^ 120 + expTerms (r * 2 ^ 120 / d * ln2Fix / 2 ^ 120) 40 1 (2 ^ 120)

/-- The value of 2^e × s / 2^120, for -150 ≤ e, within `cent` hundredths of an ulp of the correctly rounded FP32 result: the hardware's choice
of what the bound allows. `s` is less than 2^10 below the exact one. -/
def expWithin (cent s : Nat) (e : Int) (choice : Nat) : Val :=
  let q := max (e - 23) (-149)
  let up := 2 ^ (e - q + 1).toNat
  let num := s * up
  let den := 2 ^ 121
  let k := num / den
  let r := 2 * (num % den)
  let cr := if den < r ∨ (den = r ∧ k % 2 = 1) then k + 1 else k
  let l := fp32Near k cr (decide (-149 < q)) fun h u =>
    decide (100 * h * den ≤ 200 * (num + 2 ^ 10 * up) + cent * u * den) && decide (200 * num ≤ 100 * h * den + cent * u * den)
  (Val.fin false (l.getD (choice % l.length) (2 * cr)) 1).scale2 (q - 1)

/-- exp_acc and exp_short of R135 for an argument num / den and an integer k: plus zero below -150, else within 0.51 or 0.75 ulp; the bits
within the bound are the hardware's (log 14). -/
def expHw (short : Bool) (num : Int) (den : Nat) (k : Int) : Val :=
  if num < (k - 150) * den then .zero
  else
    expWithin (if short then 75 else 51) (exp2Low (num % den).toNat den) (num / den - k)
      (if short then Config.expShort num den k else Config.expAcc num den k)

/-- fix(v) of R136: floor (v x 2^107) for v of no negative sign. -/
def fix107 : Val → Nat
  | .fin false n d => n * 2 ^ 107 / d
  | _ => 0

/-! ## The soft maximum -/

/-- The base-two arguments of the finite elements of a tile, with how many were clamped (R135). -/
def tileArgs : List Val → List (Int × Nat) × Nat
  | [] => ([], 0)
  | .fin neg n d :: vs =>
    let a := smxArg neg n d
    let r := tileArgs vs
    ((a.1, a.2.1) :: r.1, (if a.2.2 then 1 else 0) + r.2)
  | _ :: vs => tileArgs vs

/-- The largest ceiling of the arguments. -/
def maxCeil : List (Int × Nat) → Option Int
  | [] => none
  | a :: r => maxCeilOpt (ceilQ a.1 a.2) (maxCeil r)
where
  /-- The larger of a bound and an optional bound. -/
  maxCeilOpt (x : Int) : Option Int → Option Int
    | none => some x
    | some y => some (max x y)

/-- Pass 1 of R136 over one tile: the record after it, and the clamps counted. -/
def smxTile (r : SmxRec) (vs : List Val) : SmxRec × Nat :=
  let a := tileArgs vs
  let r1 : SmxRec :=
    { r with
      n := r.n + a.1.length, npinf := r.npinf + (vs.filter (fun v => decide (v = .inf false))).length,
      nan := r.nan || vs.any (fun v => decide (v = .nan)), clamp := r.clamp || decide (0 < a.2) }
  match maxCeil a.1 with
  | none => (r1, a.2)
  | some kt => (r1.fold kt ((a.1.map fun x => fix107 (expHw true x.1 x.2 kt)).foldl (· + ·) 0), a.2)

/-- Pass 1 over the tiles of a row, `t` elements a tile. -/
def smxPass1 (t : Nat) : Nat → SmxRec → List (Option Val) → SmxRec × Nat
  | 0, r, _ => (r, 0)
  | n + 1, r, vs =>
    if vs = [] then (r, 0)
    else
      let p := smxTile r ((vs.take t).filterMap id)
      let q := smxPass1 t n p.1 (vs.drop t)
      (q.1, p.2 + q.2)

/-- R137: the sum of pass 2 of the three-pass form. -/
def smxSum3 (k : Int) (a : List (Int × Nat)) : Nat := (a.map fun x => fix107 (expHw false x.1 x.2 k)).foldl (· + ·) 0

/-- One element's exact result before the output rounding (R136 to R138). -/
def smxElem (three : Bool) (r : SmxRec) (sum3 : Nat) (v : Val) : Val :=
  if r.nan then .nan
  else if 0 < r.npinf then (if v = .inf false then .fin false 1 r.npinf else .zero)
  else if r.n = 0 then .nan
  else
    match v with
    | .fin neg n d =>
      let a := smxArg neg n d
      let e := expHw false a.1 a.2.1 r.k
      if three then e.mul (Val.recip (.fin false sum3 (2 ^ 107)))
      else e.mul (rne32 (Val.recip (.fin false r.sum (2 ^ 107))))
    | _ => .zero

/-- The soft maximum of a whole row: exact results, the row record with the sum its mode divides by (log 14), and the clamps counted
(ARITH_SAT). -/
def softmaxRow (three : Bool) (t : Nat) (vs : List (Option Val)) : List (Option Val) × SmxRec × Nat :=
  let p := smxPass1 t vs.length SmxRec.fresh vs
  let s3 := if three then smxSum3 p.1.k (tileArgs (vs.filterMap id)).1 else 0
  (vs.map (fun v => v.map (smxElem three p.1 s3)), if three then { p.1 with sum := s3 } else p.1, p.2)

/-! ## SMXMERGE (R141) -/

/-- Fold the parts of one row in ascending order; a part with no element is skipped. -/
def smxMergeParts (r : SmxRec) : List SmxRec → SmxRec
  | [] => r
  | p :: ps =>
    smxMergeParts
      (if p.n = 0 ∧ p.npinf = 0 then { r with nan := r.nan || p.nan, clamp := r.clamp || p.clamp }
       else
        let f := r.fold p.k p.sum
        { f with n := r.n + p.n, npinf := r.npinf + p.npinf, nan := r.nan || p.nan, clamp := r.clamp || p.clamp }) ps

/-- ROWS, PARTS, SRC and DST of a RECMERGE or SMXMERGE word (R117, R141), addresses in bytes. -/
def mergeFields (w : Nat) : Nat × Nat × Nat × Nat := (bits w 119 104 + 1, bits w 103 98 + 1, bits w 97 81 * 4, bits w 80 64 * 4)

/-- The byte ranges a merge word of `n`-byte records touches. -/
def mergeAccess (n w : Nat) : List Access :=
  let f := mergeFields w
  [⟨f.2.2.1, n * f.1 * f.2.1, false⟩, ⟨f.2.2.2, n * f.1, true⟩]

/-- SMXMERGE takes effect: one folded record a row. -/
def smxMergeEffect (s : State) (c : Nat) (_ : Core) (w : Nat) : State :=
  let f := mergeFields w
  let s1 := (List.range f.1).foldl (fun s' r =>
    let parts := (List.range f.2.1).map fun p => SmxRec.ofBytes (spRead s c (f.2.2.1 + 32 * (r * f.2.1 + p)) 32)
    spWrite s' c (f.2.2.2 + 32 * r) (smxMergeParts SmxRec.fresh parts).toBytes) s
  modCore s1 c fun k => (startDma k (mergeAccess 32 w) none none).advance

end Sys2Proof.Machine
end

