-- ==== Sys2Proof/Machine/Chain.lean ====
section
/-!
DEFINITION. Machine/Chain.lean: fused stage chains (spec/06_fused_chains.md, R106 to R119): one stage over a row, a row through a chain,
the drain path with its epilogue (R98, R112, R113), PROLOGUE, VPASS, EPI_BIND and RECMERGE.
-/
namespace Sys2Proof.Machine

/-! ## Chains and functions in force -/

/-- The chain that index `i` of a core's section names (R106, R112). -/
def chainOf (s : State) (c i : Nat) : Option Chain :=
  match s.bond.image, coreSection s c with
  | some im, some n =>
    match im.sections.find? (fun x => x.id = n) with
    | some sec => im.chains[sec.chainBase + i]?
    | none => none
  | _, _ => none

/-- The version of asset `a` in version set `v` (R18, R270); outside any set, the current version. -/
def versionIn (s : State) (v a : Nat) : Nat :=
  match (tget (fun _ => []) s.serve.vsets v).find? (fun p => p.1 = a) with
  | some p => p.2
  | none => (tget (fun _ => Asset.reset) s.assets.table a).current

/-- The slot that a resident version of an asset holds. -/
def slotOf (s : State) (a ver : Nat) : Option Nat :=
  ((tget (fun _ => Asset.reset) s.assets.table a).versions.find? fun x => x.ver = ver).map (·.slot)

/-- The digest of a resident version. -/
def digestOf (s : State) (a ver : Nat) : List Byte :=
  match (tget (fun _ => Asset.reset) s.assets.table a).versions.find? fun v => v.ver = ver with
  | some v => v.digest
  | none => []

/-- The size of a resident version. -/
def versionSize (s : State) (a ver : Nat) : Nat :=
  (((tget (fun _ => Asset.reset) s.assets.table a).versions.find? fun v => v.ver = ver).map (·.size)).getD 0

/-- Read the segments of an SFUNC asset version: 16 bytes each (R126). -/
def readSegs (s : State) (g o n : Nat) : List (Nat × Nat × Nat) :=
  (List.range n).map fun i => (ldNat s g (o + 16 * i) 8, ldNat s g (o + 16 * i + 8) 4, ldNat s g (o + 16 * i + 12) 4)

/-- Key of an asset's table slots on a core. -/
def funcKey (a c : Nat) : Nat := a * 65536 + c

/-- The table slots of a function asset that a core has filled. -/
def funcSlotsOf (s : State) (a c : Nat) : List FuncSlot := tget (fun _ => []) s.assets.funcSlots (funcKey a c)

/-- R130: the coefficients an element uses: those in the core's slot of the version in its row's set; the chunk's own table is the
initial version. -/
def funcSegs (s : State) (c vset : Nat) (f : SFunc) : List (Nat × Nat × Nat) :=
  if !f.assetBound then f.segs
  else
    match (funcSlotsOf s f.asset c).find? fun x => decide (x.ver = versionIn s vset f.asset) with
    | some x => x.segs
    | none => f.segs

/-- Function number `n` of the image. -/
def funcOf (s : State) (n : Nat) : Option SFunc :=
  match s.bond.image with
  | some im => im.funcs.find? fun f => f.no = n
  | none => none

/-- The seed that keys a row's rounding (R78): of the request that owns it, else the section seed. -/
def seedOf (s : State) (c : Nat) (r : RowId) : Nat :=
  let sect := match seqTable s c with
    | some t => t.seed
    | none => 0
  match rowPos s c r, (core s c).current with
  | some i, some g => g.seeds.getD i sect
  | _, _ => sect

/-- The linear index of an element in its logical tensor (R78), row-major: its row lies at the token position of its request's work, its
column in the tile of the word. -/
def elemIndex (s : State) (c : Nat) (r : RowId) (col : Nat) : Nat :=
  let base := match coreSection s c, rowOwner s c r with
    | some i, some x => itemPos s i x
    | _, _ => 0
  (base + Config.itemRow r.tensor r.place r.row) * Config.tensorCols r.tensor + Config.tileCol r.tensor r.place + col

/-- The rounding mode of an element (R77, R78). -/
def modeOf (s : State) (c : Nat) (cv : Cvt) (r : RowId) (col : Nat) : RMode :=
  if cv.keyed then .keyed (keyedDraw (seedOf s c r) (elemIndex s c r col) r.tensor) else .nearest

/-! ## One row through one conversion -/

/-- A row after a conversion: the codes, the scale of each block, and what the row then holds. -/
structure RowOut where
  codes : List (Option Nat)
  scales : List Nat
  vals : List (Option Val)
  ev : ArithEv
  deriving DecidableEq, Repr

/-- One block of a conversion: a short last block is completed with plus zero (R67), and absent elements are neither computed nor
counted (R100). Of a NaN block each of the 32 elements that is not absent counts, the padding with them (R81; log 16). -/
def convBlock (s : State) (c : Nat) (cv : Cvt) (f : Fmt) (r : RowId) (j0 : Nat) (vs : List (Option Val)) : RowOut :=
  let els := (List.range vs.length).map fun i => ((vs.getD i none).getD .zero, modeOf s c cv r (j0 + i))
  let x := encodeBlock f cv.fp8Inf ((vs.filterMap id).length + (32 - vs.length)) els
  let codes := (List.range vs.length).map fun i => (vs.getD i none).map fun _ => x.2.1.getD i 0
  { codes := codes, scales := [x.1], vals := codes.map fun y => y.map fun code => f.decodeScaled code x.1, ev := x.2.2 }

/-- Blocks of 32 along the row. -/
def convBlocks (s : State) (c : Nat) (cv : Cvt) (f : Fmt) (r : RowId) : Nat → Nat → List (Option Val) → RowOut
  | 0, _, _ => { codes := [], scales := [], vals := [], ev := {} }
  | n + 1, j0, vs =>
    if vs = [] then { codes := [], scales := [], vals := [], ev := {} }
    else
      let a := convBlock s c cv f r j0 (vs.take 32)
      let b := convBlocks s c cv f r n (j0 + 32) (vs.drop 32)
      { codes := a.codes ++ b.codes, scales := a.scales ++ b.scales, vals := a.vals ++ b.vals, ev := a.ev.add b.ev }

/-- Elements one by one, for FP32 and BF16. -/
def convElems (s : State) (c : Nat) (cv : Cvt) (f : Fmt) (r : RowId) : Nat → List (Option Val) → RowOut
  | _, [] => { codes := [], scales := [], vals := [], ev := {} }
  | j, v :: vs =>
    let o := convElems s c cv f r (j + 1) vs
    match v with
    | none => { o with codes := none :: o.codes, vals := none :: o.vals }
    | some x =>
      let e := f.encode cv.fp8Inf (modeOf s c cv r j) x
      { o with codes := some e.1 :: o.codes, vals := some (f.decode e.1) :: o.vals, ev := e.2.add o.ev }

/-- A row segment from column `j0` converted under a descriptor (R76 to R81). -/
def convRow (s : State) (c cvt : Nat) (r : RowId) (j0 : Nat) (vs : List (Option Val)) : RowOut :=
  let cv := Cvt.ofNat cvt
  let f := cv.fmt.getD .fp32
  if f.isMx then convBlocks s c cv f r vs.length j0 vs else convElems s c cv f r j0 vs

/-! ## One stage over a row -/

/-- The FP32 value at a 4-byte unit address plus an index. -/
def f32At (s : State) (c a i : Nat) : Val := f32 (spNat s c (4 * (a + i)) 4)

/-- The operand of ADD or MUL at (row, col): FP32 or BF16 at B_ADDR, with the output's pitch (R108, R112). -/
def operandAt (s : State) (c : Nat) (st : Stage) (pitch row col : Nat) : Val :=
  if st.sub / 16 % 16 = 1 then Fmt.bf16.decode (spElem s c (4 * st.bAddr) .bf16 (row * pitch + col))
  else Fmt.fp32.decode (spElem s c (4 * st.bAddr) .fp32 (row * pitch + col))

/-- CLAMP (R108): NaN where lo or hi is NaN or lo exceeds hi. -/
def clampVal (lo hi x : Val) : Val :=
  if !(lo.le hi) then .nan
  else
    match x with
    | .nan => .nan
    | _ => let m := if x.le lo then lo else x; if hi.le m then hi else m

/-- The exact result of an element-wise stage (R108); `vset` is the version set of the row. -/
def elemOp (s : State) (c vset : Nat) (st : Stage) (pitch row col : Nat) (x : Val) : Val :=
  match st.kind with
  | 2 =>
    let m := if bit st.sub 0 then x else x.mul (f32At s c st.aAddr col)
    m.add (if bit st.sub 1 then .zero else f32At s c st.bAddr col)
  | 3 => let r := operandAt s c st pitch row col; if bit st.sub 0 then x.sub r else x.add r
  | 4 => x.mul (operandAt s c st pitch row col)
  | 5 => clampVal (f32At s c st.aAddr 0) (f32At s c st.aAddr 1) x
  | 6 =>
    match funcOf s st.sub with
    | some f => sfEval f (funcSegs s c vset f) x
    | none => x
  | _ => x

/-- NORM of a row (R118): the mean to subtract, the factor, whether the record was short (R119), and the clamp count. -/
def normOf (s : State) (c : Nat) (st : Stage) (row : Nat) : Val × Val × Bool × ArithEv :=
  let r := StatRec.ofBytes (spRead s c (4 * st.aAddr + 64 * row) 64)
  let eps := f32At s c st.bAddr 0
  if r.n ≠ st.rowlen ∧ !r.overflow ∧ !r.special then (.nan, .nan, true, {})
  else if bit st.sub 0 then (.zero, rsqrtHw (rne32 (r.meanSquare.add eps)), false, {})
  else
    let v := r.variance
    (r.mean, rsqrtHw (rne32 (v.1.add eps)), false, { statClamp := if v.2 then 1 else 0 })

/-- STAT of a row segment (R82, R117): the stored values enter the row's record; a row's first tile finds the record zeroed with
B, the bound `b` of the row and the stage's headroom, in it (R83). -/
def statRow (s : State) (c : Nat) (st : Stage) (r : RowId) (b : Int) (j0 : Nat) (vs : List (Option Val)) : State :=
  let x := 4 * st.aAddr + 64 * r.row
  let r0 := if j0 = 0 then StatRec.fresh (b + st.headroom) else StatRec.ofBytes (spRead s c x 64)
  let p := vs.foldl (fun (acc : StatRec × ArithEv) v =>
    match v with
    | none => acc
    | some y => let q := acc.1.addValue y; (q.1, acc.2.add q.2)) (r0, {})
  arithRow (spWrite s c x p.1.toBytes) c r p.2

/-- The soft maximum's row buffer: the FP32 codes of the present elements at B_ADDR with the output's pitch (R133). -/
def rowBuffer (s : State) (c b pitch row : Nat) : Nat → List (Option Val) → State
  | _, [] => s
  | j, v :: vs =>
    rowBuffer
      (match v with
        | none => s
        | some x => spWrite s c (4 * (b + row * pitch + j)) (natLE 4 (Fmt.fp32.encode false .nearest x).1))
      c b pitch row (j + 1) vs

/-- SOFTMAX of a whole row (R133 to R138): the row buffer and record are written, clamps count in ARITH_SAT. -/
def smxStage (s : State) (c : Nat) (st : Stage) (r : RowId) (tile pitch : Nat) (vs : List (Option Val)) :
    State × List (Option Val) :=
  let x := softmaxRow (bit st.sub 0) tile vs
  let s1 := rowBuffer s c st.bAddr pitch r.row 0 vs
  let s2 := spWrite s1 c (4 * st.aAddr + 32 * r.row) x.2.1.toBytes
  (arithRow s2 c r { sat := x.2.2 }, x.1)

/-- One stage over a row segment from column `j0`: the state, and the row after the stage's rounding (R110). -/
def stageRow (s : State) (c : Nat) (st : Stage) (r : RowId) (tile pitch j0 : Nat) (vs : List (Option Val)) : State × RowOut :=
  match st.kind with
  | 9 =>
    let p := smxStage s c st r tile pitch vs
    let o := convRow p.1 c st.cvt r j0 p.2
    (arithRow p.1 c r o.ev, o)
  | 7 =>
    let n := normOf s c st r.row
    let ys := vs.map fun v => v.map fun x => (if bit st.sub 0 then x else x.sub n.1).mul n.2.1
    let o := convRow s c st.cvt r j0 ys
    let s1 := arithRow s c r (n.2.2.2.add o.ev)
    (if n.2.2.1 then logUnit s1 c 0x0022 (4 * st.aAddr + 64 * r.row) else s1, o)
  | _ =>
    let ys := (List.range vs.length).map fun i => (vs.getD i none).map (elemOp s c (rowVset s c r) st pitch r.row (j0 + i))
    let o := convRow s c st.cvt r j0 ys
    (arithRow s c r o.ev, o)

/-- The stages of a chain over a row segment (R110), each with its own TENSOR_ID: the state and the last output. `b` is the row's bound for
a STAT. -/
def stagesRow (s : State) (c : Nat) (r : RowId) (b : Int) (tile pitch j0 : Nat) : List Stage → RowOut → State × RowOut
  | [], o => (s, o)
  | st :: sts, o =>
    let rt : RowId := { r with tensor := st.tensor }
    if st.kind = 8 then stagesRow (statRow s c st rt b j0 o.vals) c r b tile pitch j0 sts o
    else
      let p := stageRow s c st rt tile pitch j0 o.vals
      stagesRow p.1 c r b tile pitch j0 sts p.2

/-- The format the last stage other than STAT stores (R110). -/
def lastFmt (init : Nat) (sts : List Stage) : Fmt :=
  let cvts := (sts.filter fun st => st.kind ≠ 8).map (·.cvt)
  ((Cvt.ofNat (cvts.getLastD init)).fmt).getD .fp32

/-- Bytes of `n` packed elements. -/
def elemBytes (f : Fmt) (n : Nat) : Nat := (f.width * n + 7) / 8

/-- The byte address at which row `row` of a stored tensor begins. -/
def rowStart (f : Fmt) (base pitch row : Nat) : Nat := base + f.width * (row * pitch) / 8

/-- The columns of a stored row: an MX row is completed to whole blocks (R67). -/
def paddedCols (f : Fmt) (cols : Nat) : Nat := if f.isMx then (cols + 31) / 32 * 32 else cols

/-- Where a stored tensor lies and how. -/
structure Store where
  fmt : Fmt
  dst : Nat
  scale : Nat
  pitch : Nat
  rows : Nat
  cols : Nat
  deriving DecidableEq, Repr

/-- The ranges a tensor is stored in. -/
def Store.access (d : Store) : List Access :=
  ⟨d.dst, elemBytes d.fmt ((d.rows - 1) * d.pitch + paddedCols d.fmt d.cols), true⟩
    :: (if d.fmt.isMx then [⟨d.scale, d.rows * ((d.cols + 31) / 32), true⟩] else [])

/-- Store the present elements of a row segment row-major, and the scale bytes of its blocks (R112 to R114). The plus zeros that complete a
short last block (R67) are stored where no other row's elements stand. -/
def storeRow (s : State) (c : Nat) (d : Store) (row j0 : Nat) (o : RowOut) : State :=
  let n := o.codes.length
  let s1 := (List.range n).foldl (fun s' i =>
    match o.codes.getD i none with
    | none => s'
    | some code => spPutElem s' c d.dst d.fmt (row * d.pitch + j0 + i) code) s
  if d.fmt.isMx then
    let pad := ((List.range (paddedCols d.fmt n)).drop n).filter fun i => decide (j0 + i < d.pitch ∨ row + 1 = d.rows)
    let s2 := pad.foldl (fun s' i => spPutElem s' c d.dst d.fmt (row * d.pitch + j0 + i) 0) s1
    spWrite s2 c (d.scale + row * ((d.cols + 31) / 32) + j0 / 32) (o.scales.map fun x => BitVec.ofNat 8 x)
  else s1

/-! ## Bounds of stored rows (R82; log 63) -/

/-- The WB that the versions of a version set's MODELs keep for the stationary tensor of the product that stores `tensor` (R82). -/
def keptBounds (s : State) (tensor vset : Nat) : List Int :=
  match s.bond.image with
  | none => []
  | some im => (im.assets.filter fun a => decide (a.kind = 2)).flatMap fun a =>
      match (tget (fun _ => Asset.reset) s.assets.table a.id).versions.find? fun v => v.ver = versionIn s vset a.id with
      | some v => (v.wb.filter fun p => decide (p.1 = tensor)).map (·.2)
      | none => []

/-- WB of R82; free for a stationary tensor that no version holds (log 63). -/
def weightBound (s : State) (tensor vset : Nat) : Int :=
  ((keptBounds s tensor vset).foldl (fun m x => maxOpt m (some x)) none).getD (Config.weightBound tensor)

/-- Keep the bound of a row of `n` bytes that is stored from byte address `x`. -/
def keepBound (s : State) (c x n : Nat) (b : Int) : State :=
  modCore s c fun k => { k with rowBounds := tset (fun _ => none) (k.forgetBounds x n).rowBounds x (some (n, b)) }

/-- The bound of the row stored from byte address `x`; free where the row that stands there is none that a product of the core stored. -/
def boundAt (s : State) (c x : Nat) (r : RowId) : Int :=
  match tget (fun _ => none) (core s c).rowBounds x with
  | some b => b.2
  | none => Config.rowBound r.tensor r.place r.row

/-! ## Byte ranges of stages -/

/-- The ranges the operands of a stage cover over `rows` rows of `cols` elements with pitch `pitch`. -/
def stageAccess (rows cols pitch : Nat) (st : Stage) : List Access :=
  match st.kind with
  | 2 => (if bit st.sub 0 then [] else [⟨4 * st.aAddr, 4 * cols, false⟩]) ++ (if bit st.sub 1 then [] else [⟨4 * st.bAddr, 4 * cols, false⟩])
  | 3 => [⟨4 * st.bAddr, (if st.sub / 16 % 16 = 1 then 2 else 4) * ((rows - 1) * pitch + cols), false⟩]
  | 4 => [⟨4 * st.bAddr, (if st.sub / 16 % 16 = 1 then 2 else 4) * ((rows - 1) * pitch + cols), false⟩]
  | 5 => [⟨4 * st.aAddr, 8, false⟩]
  | 7 => [⟨4 * st.aAddr, 64 * rows, false⟩, ⟨4 * st.bAddr, 4, false⟩]
  | 8 => [⟨4 * st.aAddr, 64 * rows, true⟩]
  | 9 => [⟨4 * st.aAddr, 32 * rows, true⟩, ⟨4 * st.bAddr, 4 * ((rows - 1) * pitch + cols), true⟩]
  | _ => []

/-! ## EPI_BIND and the drain (R98, R112, R113) -/

/-- The fields of an EPI_BIND word (Table 06.4), addresses in bytes. -/
def epiFields (w : Nat) : EpiSt :=
  { chain := bits w 119 110, run := bits w 109 107 + 1, mblocks := bits w 106 91 + 1, strips := bits w 90 79 + 1,
    outAddr := 4 * bits w 78 62, outScale := 4 * bits w 61 45, pitch := bits w 44 29, place := [], ended := 0, drained := 0, holder := 0 }

/-- Where an EPI_BIND stores its output. -/
def EpiSt.store (e : EpiSt) (ch : Chain) : Store :=
  { fmt := lastFmt ch.prodCvt ch.epi, dst := e.outAddr, scale := e.outScale, pitch := e.pitch, rows := 4 * e.mblocks, cols := 16 * e.strips }

/-- The ranges an EPI_BIND holds: its output, its scales and its stage operands (R115). -/
def epiAccessOf (chain : Option Chain) (w : Nat) : List Access :=
  let e := epiFields w
  match chain with
  | none => []
  | some ch => (e.store ch).access ++ ch.epi.flatMap (stageAccess (4 * e.mblocks) (16 * e.strips) e.pitch)

/-- The same for a core's chain. -/
def epiAccess (s : State) (c w : Nat) : List Access := epiAccessOf (chainOf s c (epiFields w).chain) w

/-- The core once no further set ends under the EPI_BIND in force: with every set that it governs drained, its ranges are released (R115). -/
def closeEpi (k : Core) : Core :=
  match curEpi k with
  | none => k
  | some e => if e.drained = e.ended then { releaseHolder k e.holder with epis := k.epis.dropLast } else k

/-- What holds back an EPI_BIND word: ranges other than those that its issue releases. -/
def epiHold (s : State) (c : Nat) (k : Core) (w : Nat) : Option Hold := rangeHold (closeEpi k) (epiAccess s c w)

/-- EPI_BIND takes effect (R112, R115): it governs the sets ended from now on, and its ranges are held. -/
def epiBindEffect (s : State) (c : Nat) (k : Core) (w : Nat) : State :=
  let k1 := closeEpi k
  let e := { epiFields w with place := placeOf s c, holder := k1.nextHolder }
  setCore s c { enterHulls k1 (epiAccess s c w) with epis := k1.epis ++ [e] }.advance

/-- Whether a chain needs both halves of an MX block, or the whole row, before its stages run (R113, R133). -/
def needsPair (ch : Chain) : Bool :=
  (ch.prodCvt :: (ch.epi.filter fun st => st.kind ≠ 8).map (·.cvt)).any fun x => (((Cvt.ofNat x).fmt).getD .fp32).isMx

/-- Whether a chain holds a SOFTMAX. -/
def needsRow (ch : Chain) : Bool := ch.epi.any fun st => st.kind = 9

/-- Run a row segment of `n` held columns from `j0` through the product conversion and the epilogue, and store it (R110, R112); `a` is the
row's activation bound, 0 where no group of it gave one (log 63). -/
def epilogueRow (s : State) (c : Nat) (ch : Chain) (e : EpiSt) (a : Int) (row j0 n : Nat) (vs : List (Option Val)) : State :=
  if vs.all (fun v => v.isNone) then s
  else
    let r : RowId := { tensor := ch.prodTensor, place := e.place, row := row }
    let b := a + weightBound s ch.prodTensor (rowVset s c r)
    let o := convRow s c ch.prodCvt r j0 (vs.take n)
    let s1 := arithRow s c r o.ev
    let p := stagesRow s1 c r b 16 e.pitch j0 ch.epi o
    let d := e.store ch
    keepBound (storeRow p.1 c d row j0 p.2) c (rowStart d.fmt d.dst d.pitch row) (elemBytes d.fmt (j0 + n)) b

/-- Key of a held value. -/
def heldKey (holder row col : Nat) : Nat := (holder * 2 ^ 20 + row) * 65536 + col

/-- The columns that a strip completes: from, count; none while the strip must be held. -/
def stripReady (ch : Chain) (e : EpiSt) (strip : Nat) : Option (Nat × Nat) :=
  if needsRow ch then (if strip + 1 = e.strips then some (0, 16 * e.strips) else none)
  else if needsPair ch then
    (if strip % 2 = 1 then some (16 * (strip - 1), 32) else if strip + 1 = e.strips then some (16 * strip, 16) else none)
  else some (16 * strip, 16)

/-- R112: the strip and block of the t-th drained set. Where the blocks are no multiple of u, the last run has the blocks that are left, and
its sets are numbered by their count in place of u (DESIGN CHOICE, log 61). -/
def tilePlace (e : EpiSt) (t : Nat) : Nat × Nat :=
  let r := t / (e.run * e.strips)
  let u := max 1 (min e.run (e.mblocks - r * e.run))
  let t' := t % (e.run * e.strips)
  (t' / u % e.strips, r * e.run + t' % u)

/-- The outputs of a drained set, by row and column: value and truncation flag. -/
def setOutputs (k : Core) (a : Nat) : List (Nat × Nat × Wacc) :=
  (maskedOuts (getSet k a).rows (getSet k a).cols).map fun p => (p.1, p.2, getWacc k (waccKey a p.1 p.2))

/-- R88: the requests that own the rows in which a product of the set was truncated are marked. -/
def markTruncated (s : State) (c tensor : Nat) (place : List Nat) (row0 : Nat) (outs : List (Nat × Nat × Wacc)) : State :=
  (List.range 4).foldl (fun s' i =>
    if outs.any fun o => decide (o.1 = i) && o.2.2.trunc then markRow s' c { tensor := tensor, place := place, row := row0 + i } else s') s

/-- Take the outputs of the t-th drained set `a` into the held values, then run what the strip completes. -/
def drainInto (s : State) (c a t : Nat) (ch : Chain) (e : EpiSt) : State :=
  let k := core s c
  let pl := tilePlace e t
  let outs := setOutputs k a
  let h := outs.foldl (fun m o => tset (fun _ => none) m (heldKey e.holder (4 * pl.2 + o.1) (16 * pl.1 + o.2.1)) (some o.2.2.value)) k.held
  let s1 := markTruncated (setCore s c { k with held := h }) c ch.prodTensor e.place (4 * pl.2) outs
  match stripReady ch e pl.1 with
  | none => s1
  | some (j0, n) =>
    let s2 := (List.range 4).foldl (fun s' i =>
      let row := 4 * pl.2 + i
      epilogueRow s' c ch e (((getSet k a).bound.getD i none).getD 0) row j0 n
        ((List.range n).map fun j => tget (fun _ => none) h (heldKey e.holder row (j0 + j)))) s1
    let rows := (List.range 4).map fun i => heldKey e.holder (4 * pl.2 + i) 0 / 65536
    modCore s2 c fun k' => { k' with held := k'.held.filter fun x => !(rows.contains (x.1 / 65536)) }

/-- A set governed by the EPI_BIND of `h` has drained. The last set that the word governs releases its ranges (R115): with every set of its
tensor stored, or, where a later EPI_BIND is in force, with every set that ended under it. -/
def epiDrained (k : Core) (h : Nat) : Core :=
  let k1 := { k with epis := k.epis.map fun (e : EpiSt) => if e.holder = h then { e with drained := e.drained + 1 } else e }
  match k1.epis.find? fun e => decide (e.holder = h) with
  | none => k1
  | some e =>
    if (curEpi k1).map (·.holder) = some h then (if e.drained = e.mblocks * e.strips then releaseHolder k1 h else k1)
    else if e.drained = e.ended then { releaseHolder k1 h with epis := k1.epis.filter fun (x : EpiSt) => decide (x.holder ≠ h) }
    else k1

/-- R98, R112, R115: the drain path takes the first ended set through the epilogue of the word that governs it, and releases the set. -/
def drainEffect (s : State) (c : Nat) : State :=
  let k := core s c
  match k.drainQ with
  | [] => s
  | (a, g) :: q =>
    let s1 := match g with
      | none => arithCore (markTruncated s c 0 (placeOf s c) 0 (setOutputs k a)) c
          { nan := ((setOutputs k a).filter fun o => o.2.2.viol).length }
      | some (h, t) =>
        let s2 := match k.epis.find? fun e => decide (e.holder = h) with
          | none => s
          | some e =>
            match chainOf s c e.chain with
            | none => s
            | some ch => drainInto s c a t ch e
        modCore s2 c (epiDrained · h)
    modCore s1 c fun k' => { setSet k' a { getSet k' a with mode := .free } with drainQ := q }

/-! ## PROLOGUE and VPASS (R114) -/

/-- The fields of a PROLOGUE or VPASS word (Table 06.5), addresses in bytes. -/
structure PassFields where
  chain : Nat
  rows : Nat
  cols : Nat
  srcFmt : Fmt
  src : Nat
  dst : Nat
  srcScale : Nat
  dstScale : Nat
  ki : Nat
  run : Nat
  deriving DecidableEq, Repr

/-- Table 06.5. -/
def passFields (w : Nat) : PassFields :=
  { chain := bits w 119 110, rows := bits w 109 94 + 1, cols := bits w 93 78 + 1, srcFmt := (Fmt.ofCode (bits w 77 74)).getD .fp32,
    src := 4 * bits w 73 57, dst := 4 * bits w 56 40, srcScale := 4 * bits w 39 23, dstScale := 4 * bits w 22 6,
    ki := if bit w 5 then 8 else 4, run := bits w 4 2 + 1 }

/-- The output format of a pass. -/
def passFmt (ch : Chain) (p : PassFields) : Fmt :=
  match (ch.pro.filter fun st => st.kind ≠ 8).getLast? with
  | some st => ((Cvt.ofNat st.cvt).fmt).getD .fp32
  | none => p.srcFmt

/-- Bytes of an activation block of a PROLOGUE (R114). -/
def proBlock (f : Fmt) (ki : Nat) : Nat := if f.width = 8 ∧ ki = 4 then 16 else 32

/-- Where a VPASS stores its output. -/
def PassFields.store (p : PassFields) (ch : Chain) : Store :=
  { fmt := passFmt ch p, dst := p.dst, scale := p.dstScale, pitch := p.cols, rows := p.rows, cols := p.cols }

/-- The ranges a pass touches. -/
def passAccessOf (pro : Bool) (chain : Option Chain) (w : Nat) : List Access :=
  let p := passFields w
  match chain with
  | none => []
  | some ch =>
    let f := passFmt ch p
    let src : List Access := ⟨p.src, elemBytes p.srcFmt (p.rows * p.cols), false⟩
      :: (if p.srcFmt.isMx then [⟨p.srcScale, p.rows * ((p.cols + 31) / 32), false⟩] else [])
    let groups := (p.cols + 31) / 32
    let dst : List Access := if pro then
        ⟨p.dst, proBlock f p.ki * (groups * 32 / p.ki) * p.run, true⟩
          :: (if f.isMx then [⟨p.dstScale, 4 * groups * p.run, true⟩] else [])
      else (p.store ch).access
    src ++ dst ++ ch.pro.flatMap (stageAccess p.rows p.cols p.cols)

/-- The same for a core's chain. -/
def passAccess (pro : Bool) (s : State) (c w : Nat) : List Access := passAccessOf pro (chainOf s c (passFields w).chain) w

/-- The bound of a pass's source row. -/
def passBound (s : State) (c : Nat) (p : PassFields) (r : RowId) : Int := boundAt s c (rowStart p.srcFmt p.src p.cols r.row) r

/-- One source row of a pass through its stages. A STAT hands it on as it stands, codes and scales (y = x, Table 06.6). -/
def passRow (s : State) (c : Nat) (ch : Chain) (p : PassFields) (r : RowId) : State × RowOut :=
  let js := List.range p.cols
  let blocks := (p.cols + 31) / 32
  stagesRow s c r (passBound s c p r) 32 p.cols 0 ch.pro
    { codes := js.map fun j => some (spElem s c p.src p.srcFmt (r.row * p.cols + j))
      scales := if p.srcFmt.isMx then (List.range blocks).map fun b => spNat s c (p.srcScale + r.row * blocks + b) 1 else []
      vals := js.map fun j => some (tensorElem s c p.src p.srcFmt p.srcScale p.cols r.row j)
      ev := {} }

/-- The rows of a pass: its first stage's output names them. -/
def passRows (s : State) (c : Nat) (ch : Chain) (p : PassFields) : List RowId :=
  (List.range p.rows).map fun i => { tensor := (ch.pro.head?.map (·.tensor)).getD 0, place := placeOf s c, row := i }

/-- Store a row in activation block order (R114): element (row, j) of k-step t = j / Ki and block m = row / 4. The last group is completed
with +0 elements (R67; log 15). -/
def storeBlockRow (s : State) (c : Nat) (f : Fmt) (p : PassFields) (row : Nat) (o : RowOut) : State :=
  let bb := proBlock f p.ki
  let m := row / 4
  let i := row % 4
  let s1 := (List.range ((o.codes.length + 31) / 32 * 32)).foldl (fun s' j =>
    spWrite s' c (p.dst + bb * (j / p.ki * p.run + m) + bb / 4 * i + f.width / 8 * (j % p.ki))
      (natLE (f.width / 8) ((o.codes.getD j none).getD 0))) s
  if f.isMx then
    (List.range o.scales.length).foldl (fun s' g =>
      spWrite s' c (p.dstScale + 4 * (g * p.run + m) + i) (natLE 1 (o.scales.getD g 0))) s1
  else s1

/-- A chain word that ran: its ranges stay held until its last access completes (R115, R147). -/
def chainDone (s : State) (c : Nat) (as : List Access) : State := modCore s c fun k => (startDma k as none none).advance

/-- PROLOGUE takes effect (R114). -/
def prologueEffect (s : State) (c : Nat) (_ : Core) (w : Nat) : State :=
  let p := passFields w
  match chainOf s c p.chain with
  | none => advance s c
  | some ch =>
    chainDone ((passRows s c ch p).foldl (fun s' r =>
      let x := passRow s' c ch p r
      storeBlockRow x.1 c (passFmt ch p) p r.row x.2) s) c (passAccess true s c w)

/-- VPASS takes effect (R114): the bound of R82 goes with each row to where the pass stores it. -/
def vpassEffect (s : State) (c : Nat) (_ : Core) (w : Nat) : State :=
  let p := passFields w
  match chainOf s c p.chain with
  | none => advance s c
  | some ch =>
    chainDone ((passRows s c ch p).foldl (fun s' r =>
      let b := passBound s' c p r
      let x := passRow s' c ch p r
      let d := p.store ch
      keepBound (storeRow x.1 c d r.row 0 x.2) c (rowStart d.fmt d.dst d.pitch r.row) (elemBytes d.fmt d.cols) b) s) c (passAccess false s c w)

/-! ## RECMERGE (R117) -/

/-- The partial records of one row merged into the first; whether they disagree in B. -/
def mergeParts : List StatRec → Option (StatRec × Bool)
  | [] => none
  | r :: rs => some (rs.foldl StatRec.merge r, rs.any fun p => decide (p.b ≠ r.b))

/-- RECMERGE takes effect (R117): one merged record a row; disagreement in B is logged as STAT_B_MISMATCH. -/
def recMergeEffect (s : State) (c : Nat) (_ : Core) (w : Nat) : State :=
  let f := mergeFields w
  let s1 := (List.range f.1).foldl (fun s' r =>
    let parts := (List.range f.2.1).map fun p => StatRec.ofBytes (spRead s c (f.2.2.1 + 64 * (r * f.2.1 + p)) 64)
    match mergeParts parts with
    | none => s'
    | some (m, bad) =>
      let s2 := spWrite s' c (f.2.2.2 + 64 * r) m.toBytes
      if bad then logUnit s2 c 0x0021 (f.2.2.2 + 64 * r) else s2) s
  chainDone s1 c (mergeAccess 64 w)

end Sys2Proof.Machine
end

