-- ==== Sys2Proof/Machine/Pool.lean ====
section
/-!
DEFINITION. Machine/Pool.lean: the key/value pool (R274): its layout in KV_REGION, and the bytes that the bucket array, the node records
(R277) and the sequence areas (R271) read as. The tables themselves stand once, in the state's serving records.
-/
namespace Sys2Proof.Machine

/-- The pool header of the image. -/
def kvOf (s : State) : KvPool :=
  match s.bond.image with
  | some im => im.kv
  | none => { region := 0, blockBytes := 0, nblk := 0, hbits := 0, ctxMax := 0, prefillChunk := 0, homeStride := 0 }

/-- A size rounded up to 2 KiB. -/
def upPage (n : Nat) : Nat := (n + 2047) / 2048 * 2048

/-- Offset of the node records in the pool's region (R274). -/
def nodeOff (p : KvPool) : Nat := upPage (4 * 2 ^ p.hbits)

/-- Offset of the sequence area of entry `e` (R271, R274). -/
def areaOff (p : KvPool) (e : Nat) : Nat := nodeOff p + upPage (192 * p.nblk) + 8192 * e

/-- Offset of key/value block `b` (R274). -/
def blockOff (p : KvPool) (b : Nat) : Nat := areaOff p 65536 + p.blockBytes * b

/-- Sequence table entry `e`. -/
def seqOf (s : State) (e : Nat) : SeqEntry := tget (fun _ => SeqEntry.reset) s.serve.ast e

/-- Node `n` of the tree. -/
def nodeOf (s : State) (n : Nat) : Option Node := tget (fun _ => none) s.serve.nodes n

/-- An index field whose all ones mean none. -/
def linkWord (l : Option Nat) : Nat := l.getD 0xFFFFFFFF

/-- The 192 bytes of a node record (Table 14.3). -/
def Node.toBytes (x : Node) : List Byte :=
  natLE 8 x.key ++ natLE 4 (linkWord x.parent) ++ natLE 4 (linkWord x.firstChild) ++ natLE 4 (linkWord x.nextSibling)
    ++ natLE 4 (linkWord x.hashNext) ++ natLE 4 x.block ++ natLE 4 x.refs ++ natLE 8 x.lastUse ++ natLE 2 x.pins ++ natLE 2 x.depth
    ++ natLE 1 (if x.valid then 1 else 0) ++ List.replicate 19 0 ++ x.tokens.flatMap (natLE 4)

/-- Byte `i` of a number. -/
def byteOf (v i : Nat) : Byte := BitVec.ofNat 8 (v / 256 ^ i)

/-- Byte `x` of the 8 KiB sequence area of an entry (R271): block list, grammar stack, generation text block, and the text unit's bytes,
whose layout the spec does not give (log 65). -/
def SeqEntry.areaByte (q : SeqEntry) (x : Nat) : Byte :=
  if x < 3072 then byteOf (q.blocks.getD (x / 4) 0) (x % 4)
  else if x < 3584 then byteOf (q.gstack.getD ((x - 3072) / 2) 0) (x % 2)
  else if 4096 ≤ x ∧ x < 4656 then q.genText.getD (x - 4096) 0
  else if 4672 ≤ x ∧ x < 5120 then Config.tailByte q.pendingBytes q.heldChars (x - 4672)
  else 0

/-- Byte `o` of the pool's tables, which stand before its blocks. -/
def tableByte (s : State) (p : KvPool) (o : Nat) : Byte :=
  if o < nodeOff p then byteOf (linkWord (tget (fun _ => none) s.serve.buckets (o / 4))) (o % 4)
  else if o < areaOff p 0 then
    match nodeOf s ((o - nodeOff p) / 192) with
    | some x => x.toBytes.getD ((o - nodeOff p) % 192) 0
    | none => 0
  else (seqOf s ((o - areaOff p 0) / 8192)).areaByte ((o - areaOff p 0) % 8192)

/-- What a transfer reads in region `g` at offset `o`: memory, and in the key/value pool's region the tables that the Keystone keeps there
(R271, R277). -/
def regionRead (s : State) (g o n : Nat) : List Byte :=
  if g = (kvOf s).region ∧ o < areaOff (kvOf s) 65536 ∧ s.bond.image ≠ none then
    (List.range n).map fun i =>
      if o + i < areaOff (kvOf s) 65536 then tableByte s (kvOf s) (o + i) else memByte s.lpddr (ldKey g (o + i))
  else ldRead s g o n

end Sys2Proof.Machine
end

