-- ==== Sys2Proof/Machine/Dma.lean ====
section
/-!
DEFINITION. Machine/Dma.lean: how data moves between scratchpad and LPDDR (spec/08_scratchpad_tiers.md): channel credit (R157), GET, PUT and
XFER (R153), the waits (R154), deliveries, the prefetch schedule (R155, R156), slices (R148), write-back, zeroing and
restore at a handover (R159 to R161).
A DMA word moves its bytes when it issues; its ranges stay held until DMA_COMPLETION, and what it delivers into another core is
carried until DELIVERY_ARRIVAL (log 21).
-/
namespace Sys2Proof.Machine

/-! ## Channel credit (R150, R157) -/

/-- The enabled memory devices, ascending (R436). -/
def memDevices (s : State) : List Nat := (List.range 32).filter fun k => bit s.topo.fuseMem k

/-- The memory device whose controller serves byte `o` of region `g` (R150): 2 KiB segments over 8 channels a device. -/
def deviceOf (s : State) (g o : Nat) : Nat :=
  let ds := memDevices s
  if ds = [] then 0 else ds.getD ((g + o / 2048) % (8 * ds.length) / 8) 0

/-- Key of the credit of a section at a controller. -/
def creditKey (dev sect : Nat) : Nat := dev * 64 + sect

/-- The credit, in 1/256 byte. -/
def credit (s : State) (dev sect : Nat) : Int := tget (fun _ => 0) s.credits (creditKey dev sect)

/-- Whether section `i` may borrow idle channel time (R158). -/
def borrows (s : State) (i : Nat) : Bool :=
  match s.bond.image with
  | some im => im.budgets.any fun b => decide (b.sect = i) && b.borrow
  | none => false

/-- R157, R158: one 64-byte access of section `i` on die `die` to byte `o` of region `g`. With credit it is charged; without,
it borrows idle time uncharged, or waits and is charged when it is served (log 22). -/
def chargeOne (s : State) (i die g o : Nat) : State :=
  let d := deviceOf s g o
  let take := { s with credits := tset (fun _ => 0) s.credits (creditKey d i) (credit s d i - 64 * 256) }
  if 0 < credit s d i then take
  else if borrows s i then event s 4 3 (some i) (some die) 1
  else event take 4 2 (some i) (some die) 1

/-- Charge the accesses that cover `n` bytes from `o`. -/
def chargeAll (s : State) (i die g : Nat) : Nat → Nat → State
  | 0, _ => s
  | n + 1, o => chargeAll (chargeOne s i die g o) i die g n (o + 64)

/-! ## Accesses that are not served (R447, R455) -/

/-- R444, R447: whether the controller of byte `o` of region `g` answers group `r` UNIT_UNAVAILABLE: it is being reset, or the group sends an
epoch that is no longer its own. -/
def deviceDown (s : State) (r g o : Nat) : Bool :=
  let d := deviceOf s g o
  decide ((unitSt s 2 d).mode = .resetting) || decide (learned s r 2 d ≠ (unitSt s 2 d).epoch)

/-- The 64-byte accesses of a transfer of group `r` that are answered UNIT_UNAVAILABLE; all of one transfer carry the epoch known before it
(log 70). -/
def refusedAccesses (s : State) (r g o n : Nat) : Nat :=
  ((List.range ((o + n - 1) / 64 - o / 64 + 1)).filter fun i => deviceDown s r g (64 * (o / 64 + i))).length

/-- Group `r` learns the epochs of the controllers that refused a transfer (R444). -/
def learnFrom (s : State) (r g o n : Nat) : State :=
  (List.range ((o + n - 1) / 64 - o / 64 + 1)).foldl (fun s' i => learn s' r 2 (deviceOf s g (64 * (o / 64 + i)))) s

/-- R455: whether a segment that a transfer reads holds a poisoned word. -/
def readsPoison (s : State) (g o n : Nat) : Bool :=
  s.poison.any fun w => decide (w / 2 ^ 48 = g) && decide (o / 2048 ≤ w % 2 ^ 48 / 2048) && decide (w % 2 ^ 48 / 2048 ≤ (o + n - 1) / 2048)

/-- Items of a section's running step fall short. -/
def loseItems (s : State) (i : Nat) (items : List Nat) : State := { s with
    steps := tmod (fun _ => StepSt.reset) s.steps i fun (x : StepSt) => { x with
      lost := items.foldl (fun l k => insertAsc k l) x.lost } }

/-- The items a core works on now: its current segment's, or those of every segment where none is current. -/
def workOf (k : Core) : List Nat :=
  match k.current with
  | some g => g.items
  | none => k.segments.flatMap (·.items)

/-- R447, R455: a transfer of a core that is not served whole: its refusals are counted, and the work that made it falls short. -/
def shortfall (s : State) (c i g o n : Nat) (wr : Bool) : State :=
  let m := refusedAccesses s (c / 64) g o n
  if m = 0 ∧ (wr ∨ !readsPoison s g o n) then s
  else
    let s1 := loseItems (bumpBy s Reg.TOPO_CNT_UNAVAIL m) i (workOf (core s c))
    if m = 0 then s1 else learnFrom s1 (c / 64) g o n

/-- The bytes of a transfer of group `r` with those that no controller serves left as they were. -/
def storedBytes (s : State) (r g o : Nat) (new old : List Byte) : List Byte :=
  if refusedAccesses s r g o new.length = 0 then new
  else (List.range new.length).map fun i => if deviceDown s r g (o + i) then old.getD i 0 else new.getD i 0

/-- Whether byte `o` of region `g` lies in a poisoned word (R455). -/
def isPoisoned (s : State) (g o : Nat) : Bool := s.poison.contains (ldKey g (o / 8 * 8))

/-- The bytes of a read, likewise, and those of poisoned words, which are never delivered (R455). -/
def servedBytes (s : State) (r g o : Nat) (new old : List Byte) : List Byte :=
  let bs := storedBytes s r g o new old
  if s.poison = [] then bs
  else (List.range bs.length).map fun i => if isPoisoned s g (o + i) then old.getD i 0 else bs.getD i 0

/-- R157: the 64-byte accesses of section `i` on die `die` that cover `n` bytes from `o`, charged and counted as reads (4) or writes (5). -/
def accessed (s : State) (i die g o n : Nat) (wr : Bool) : State :=
  if n = 0 then s
  else
    let m := (o + n - 1) / 64 - o / 64 + 1
    event (chargeAll s i die g m (o / 64 * 64)) 4 (if wr then 5 else 4) (some i) (some die) m

/-- R157: an LPDDR transfer of a core. -/
def transfer (s : State) (c g o n : Nat) (wr : Bool) : State :=
  if n = 0 then s
  else
    match coreSection s c with
    | none => s
    | some i => shortfall (accessed s i (dieOf c) g o n wr) c i g o n wr

/-- Whether `n` bytes from `o` lie in region `g` of the image; an ASSET region holds four version slots (R58, R150). -/
def inRegion (s : State) (g o n : Nat) : Bool :=
  match s.bond.image with
  | none => false
  | some im =>
    match im.regions[g]? with
    | none => false
    | some r => decide (o + n ≤ (if r.kind = 1 then 4 * r.size else r.size))

/-! ## GET, PUT, XFER (R153) -/

/-- The fields of a DMA word (Table 08.7), bytes. -/
structure DmaFields where
  tag : Nat
  dset : Nat
  item : Bool
  region : Nat
  len : Nat
  sp : Nat
  offset : Nat
  deriving DecidableEq, Repr

/-- Table 08.7. -/
def dmaFields (w : Nat) : DmaFields :=
  { tag := bits w 119 116, dset := bits w 115 114, item := bit w 113, region := bits w 111 96, len := 16 * (bits w 95 81 + 1),
    sp := 16 * bits w 80 66, offset := bits w 63 0 }

/-- The home offset of the work the core runs (R274); none outside a segment. -/
def homeOf (k : Core) : Nat :=
  match k.current with
  | some g => g.home
  | none => 0

/-- The byte offset in its region that a GET or PUT uses. -/
def DmaFields.at_ (f : DmaFields) (k : Core) : Nat := f.offset + (if f.item then homeOf k else 0)

/-- The other cores a DSET delivers to (Table 08.7): of the group, or of the section on this die. -/
def otherCores (s : State) (c dset : Nat) : List Nat :=
  (match dset with
    | 1 => (List.range 64).map (64 * (c / 64) + ·)
    | 2 =>
      match coreSection s c with
      | some i => (sectionCores s i).filter fun x => decide (dieOf x = dieOf c)
      | none => []
    | _ => []).filter fun x => decide (x ≠ c)

/-- Put deliveries that core `c` asked for on their way. -/
def deliver (s : State) (c : Nat) (dsts : List Nat) (tag : Option Nat) (x : Nat) (bs : List Byte) : State :=
  { s with
    deliveries := s.deliveries ++ dsts.map fun t =>
      { core := t, tag := tag, addr := x, data := bs, asker := c / 64, askerEpoch := (unitSt s 0 (c / 64)).epoch,
        groupEpoch := (unitSt s 0 (t / 64)).epoch } }

/-- The range a GET writes. -/
def getReach (_ : Core) (w : Nat) : List Access := [⟨(dmaFields w).sp, (dmaFields w).len, true⟩]

/-- The range a PUT or XFER reads. -/
def putReach (_ : Core) (w : Nat) : List Access := [⟨(dmaFields w).sp, (dmaFields w).len, false⟩]

/-- GET takes effect (R153, R154): the bytes land in this core, and copies leave for the others. -/
def getEffect (s : State) (c : Nat) (k : Core) (w : Nat) : State :=
  let f := dmaFields w
  let bs := servedBytes s (c / 64) f.region (f.at_ k) (regionRead s f.region (f.at_ k) f.len) (spRead s c f.sp f.len)
  let s1 := transfer s c f.region (f.at_ k) f.len false
  let s2 := spWrite s1 c f.sp bs
  let s3 := deliver s2 c (otherCores s c f.dset) (some f.tag) f.sp bs
  modCore s3 c fun k' => (startDma k' (getReach k w) (some f.tag) none).advance

/-- PUT takes effect (R153). -/
def putEffect (s : State) (c : Nat) (k : Core) (w : Nat) : State :=
  let f := dmaFields w
  let s1 := transfer s c f.region (f.at_ k) f.len true
  let s2 := ldWrite s1 f.region (f.at_ k) (storedBytes s (c / 64) f.region (f.at_ k) (spRead s c f.sp f.len) (ldRead s f.region (f.at_ k) f.len))
  modCore s2 c fun k' => (startDma k' (putReach k w) (some f.tag) none).advance

/-- XFER takes effect (R153): the bytes leave for the core of that index within the section. -/
def xferEffect (s : State) (c : Nat) (k : Core) (w : Nat) : State :=
  let f := dmaFields w
  let dst := match coreSection s c with
    | some i => (sectionCores s i)[f.region]?
    | none => none
  let s1 := match dst with
    | some t => deliver s c [t] (some f.tag) f.sp (spRead s c f.sp f.len)
    | none => s
  modCore s1 c fun k' => (startDma k' (putReach k w) (some f.tag) none).advance

/-- A GET or PUT issues only within its region. -/
def issueDma (s : State) (c op : Nat) (reach : Core → Nat → List Access) (eff : State → Core → Nat → State) : Out :=
  match wordOf s c op with
  | none => .next s
  | some w =>
    match rangeHold (core s c) (reach (core s c) w) with
    | some h => .next (held s c op h)
    | none =>
      if !inScratchpad (reach (core s c) w) then .fault .scratchpadRange
      else if inRegion s (dmaFields w).region ((dmaFields w).at_ (core s c)) (dmaFields w).len then .next (eff s (core s c) w)
      else .fault .regionRange

/-! ## Waits (R154) -/

/-- PF_WAIT holds until its entry of this step has completed. -/
def pfWaitHold (k : Core) (w : Nat) : Option Hold := if k.pfDone.contains (bits w 119 108) then none else some .pfWait

/-- DMA_WAIT holds while a word of a tag of its mask is outstanding. -/
def dmaWaitHold (k : Core) (w : Nat) : Option Hold :=
  if k.dma.any fun d =>
      match d.tag with
      | some t => bit (bits w 119 104) t
      | none => false
    then some .other else none

/-- ARRIVE_WAIT holds until the counter of TAG reaches COUNT. -/
def arriveWaitHold (k : Core) (w : Nat) : Option Hold :=
  if bits w 115 100 ≤ tget (fun _ => 0) k.arrive (bits w 119 116) then none else some .other

/-- A wait that ends only lets the core go on. -/
def waitEffect (s : State) (c : Nat) (_ : Core) (_ : Nat) : State := advance s c

/-- ARRIVE_WAIT ends and subtracts COUNT. -/
def arriveWaitEffect (s : State) (c : Nat) (k : Core) (w : Nat) : State :=
  let t := bits w 119 116
  setCore s c { k with
    arrive := tset (fun _ => 0) k.arrive t (tget (fun _ => 0) k.arrive t - bits w 115 100) }.advance

/-! ## Completions and deliveries -/

/-- DMA_COMPLETION (R147, R154, R156): the n-th outstanding word or prefetch entry of the core completes. -/
def dmaComplete (s : State) (c n : Nat) : State :=
  match (core s c).dma[n]? with
  | none => s
  | some d => modCore s c fun k =>
    let k1 := releaseHolder k d.holder
    { k1 with
      dma := k1.dma.eraseIdx n
      pfDone := match d.entry with
        | some e => insertAsc e k1.pfDone
        | none => k1.pfDone }

/-- R154: the arrival counter of a core for a tag grows by one; a saturation is logged as ARRIVE_OVF. -/
def arrival (s : State) (c t : Nat) : State :=
  let v := tget (fun _ => 0) (core s c).arrive t
  if v < 65535 then modCore s c fun k => { k with
      arrive := tset (fun _ => 0) k.arrive t (v + 1) }
  else logUnit s c 0x0023 t

/-- R444: whether a delivery was asked for by, or sent to, an earlier incarnation of a core group. -/
def Delivery.stale (s : State) (d : Delivery) : Bool :=
  decide (d.askerEpoch ≠ (unitSt s 0 d.asker).epoch) || decide (d.groupEpoch ≠ (unitSt s 0 (d.core / 64)).epoch)

/-- DELIVERY_ARRIVAL (R154, R159): the first delivery under way into the core is written, and counted under its tag; it waits for a slice
that is clearing (R148). A stale one is discarded and counted (R444). -/
def deliveryArrive (s : State) (c : Nat) : State :=
  match s.deliveries.find? fun d => d.core = c with
  | none => s
  | some d =>
    if d.stale s then bump { s with
      deliveries := s.deliveries.erase d } Reg.TOPO_CNT_STALE
    else if sliceClearing (core s c) [⟨d.addr, d.data.length, true⟩] then heldScratch s c .sliceClear else
    let s1 := spWrite { s with deliveries := s.deliveries.erase d } c d.addr d.data
    match d.tag with
    | some t => arrival s1 c t
    | none => s1

/-! ## Prefetch (R155, R156) -/

/-- The prefetch entries of a core's section. -/
def pfEntries (s : State) (c : Nat) : List PfEntry :=
  match s.bond.image, coreSection s c with
  | some im, some i =>
    match im.prefetch.find? fun p => p.sect = i with
    | some p => p.entries
    | none => []
  | _, _ => []

/-- The destination address of an entry. -/
def pfDest (s : State) (e : PfEntry) : Nat :=
  match s.bond.image with
  | some im =>
    match im.allocs[e.alloc]? with
    | some a => a.base + e.dstOff
    | none => e.dstOff
  | none => e.dstOff

/-- The source offset of an entry: the version slot pinned by the work the core runs (VERSIONED), the item's home (ITEM). -/
def pfSource (s : State) (c : Nat) (e : PfEntry) : Nat :=
  let base := match s.bond.image with
    | some im =>
      match im.regions[e.region]? with
      | some r => if e.versioned then (slotOf s r.asset (versionIn s (core s c).vset r.asset)).getD 0 * r.size else 0
      | none => 0
    | none => 0
  base + e.srcOff + (if e.item then homeOf (core s c) else 0)

/-- Whether the trigger of an entry has issued in this step (R156). -/
def triggered (k : Core) (e : PfEntry) : Bool := decide (e.trigger = 0xFFFF) || k.issued.contains e.trigger

/-- PREFETCH_ENTRY (R156): the next entry of the step starts when its trigger has issued and fewer than 8 are in flight; it
enters a WRITE range over its destination and fills it. -/
def prefetchStart (s : State) (c : Nat) : Out :=
  let k := core s c
  match (pfEntries s c)[k.pfStarted]? with
  | none => .next s
  | some e =>
    let as : List Access := [⟨pfDest s e, e.len, true⟩]
    if !triggered k e || decide (8 ≤ (k.dma.filter fun d => d.entry.isSome).length) then .next s
    else
      match rangeHold k as with
      | some h => .next (heldScratch s c h)
      | none =>
        if !inScratchpad as then .fault .scratchpadRange
        else if !inRegion s e.region (pfSource s c e) e.len then .fault .regionRange
        else
          let bs := servedBytes s (c / 64) e.region (pfSource s c e) (regionRead s e.region (pfSource s c e) e.len) (spRead s c (pfDest s e) e.len)
          let s1 := spPut (transfer s c e.region (pfSource s c e) e.len false) c (pfDest s e) bs
          let s2 := deliver s1 c (otherCores s c e.dset) none (pfDest s e) bs
          .next (modCore s2 c fun k' => { startDma (k'.forgetBounds (pfDest s e) e.len) as none (some k.pfStarted) with
            pfStarted := k.pfStarted + 1 })

/-! ## Slices (R148) -/

/-- Whether an allocation of core `c`'s section overlaps slice `i`. -/
def sliceUsed (s : State) (c i : Nat) : Bool :=
  (coreAllocs s c).any fun a => decide (a.base < 65536 * (i + 1)) && decide (65536 * i < a.base + a.len)

/-- The slices of a core power up and begin to clear themselves; unused slices stay powered down. -/
def powerSlices (s : State) (c : Nat) : State :=
  modCore s c fun k => { k with
    slices := (List.range 6).foldl (fun t i => tset (fun _ => SliceSt.off) t i (if sliceUsed s c i then .clearing else .off)) [] }

/-- A core's scratchpad keeps nothing. -/
def spForget (s : State) (c : Nat) : State := { s with
    scratch := memZero s.scratch (spKey c 0) spSize }

/-- A write of the Opfort into a core's scratchpad, which waits where a slice it touches is still clearing (R148). -/
def spFill (s : State) (c x : Nat) (bs : List Byte) : State :=
  if sliceClearing (core s c) [⟨x, bs.length, true⟩] then
    modCore (heldScratch s c .sliceClear) c fun k => { k with
      fills := k.fills ++ [(x, bs)] }
  else modCore (spPut s c x bs) c (·.forgetBounds x bs.length)

/-- The writes that waited for slices which have all finished clearing. -/
def runFills (s : State) (c : Nat) : State :=
  let k := core s c
  let ready (p : Nat × List Byte) := !sliceClearing k [⟨p.1, p.2.length, true⟩]
  (k.fills.filter ready).foldl (fun s' p => modCore (spPut s' c p.1 p.2) c (·.forgetBounds p.1 p.2.length)) (setCore s c { k with
    fills := k.fills.filter fun p => !ready p })

/-- SLICE_CLEAR_DONE (R148): a slice that was clearing reads as zero from now on, and what waited for it is written. -/
def sliceClearDone (s : State) (c i : Nat) : State :=
  if tget (fun _ => SliceSt.off) (core s c).slices i = .clearing then
    let s1 := { s with
      scratch := memZero s.scratch (spKey c (65536 * i)) 65536 }
    runFills (modCore s1 c fun k => { k with
      slices := tset (fun _ => SliceSt.off) k.slices i .on }) c
  else s

/-! ## Write-back, zeroing, restore (R159 to R161) -/

/-- The live ranges of yield point `yp` of a section: (allocation, first page of the allocation, pages) (R287). -/
def liveRanges (s : State) (c yp : Nat) : List (Alloc × Nat × Nat) :=
  match s.bond.image, coreSection s c with
  | some im, some i =>
    match im.yields.find? fun y => y.sect = i with
    | none => []
    | some y =>
      match y.points[yp]? with
      | none => []
      | some p => ((y.ranges.drop p.2.1).take p.2.2).filterMap fun r => (im.allocs[r.1]?).map fun a => (a, r.2.1, r.2.2)
  | _, _ => []

/-- The pages of a live range, as (page number in the scratchpad, region, offset in its home). -/
def rangePages (r : Alloc × Nat × Nat) : List (Nat × Nat × Nat) :=
  (List.range r.2.2).map fun i => (r.1.base / 4096 + r.2.1 + i, r.1.region, 4096 * (r.2.1 + i))

/-- R159: every dirty page of a live range of the yield point goes to its home and every dirty bit is cleared. -/
def writeBack (s : State) (c yp : Nat) : State :=
  let k := core s c
  let ps := ((liveRanges s c yp).flatMap rangePages).filter fun p => k.dirty.contains p.1
  let s1 := ps.foldl (fun s' p =>
    let o := p.2.2 + homeOf k
    ldWrite (transfer s' c p.2.1 o 4096 true) p.2.1 o
      (storedBytes s' (c / 64) p.2.1 o (spRead s' c (4096 * p.1) 4096) (ldRead s' p.2.1 o 4096))) s
  let s2 := event s1 4 0 (coreSection s c) (some (dieOf c)) ps.length
  modCore s2 c fun k' => { k' with
    dirty := [] }

/-- R160: the live BACKED ranges of the yield point are filled from the home of the work the core now runs. -/
def restore (s : State) (c yp : Nat) : State :=
  ((liveRanges s c yp).filter fun r => r.1.backed).flatMap rangePages |>.foldl (fun s' p =>
    let o := p.2.2 + homeOf (core s' c)
    spFill (transfer s' c p.2.1 o 4096 false) c (4096 * p.1)
      (servedBytes s' (c / 64) p.2.1 o (ldRead s' p.2.1 o 4096) (spRead s' c (4096 * p.1) 4096))) s

/-- R161, step 2: every ZERO_ON_HANDOVER allocation, every WACC and the vector engine's registers become zero. -/
def zeroHandover (s : State) (c : Nat) : State :=
  let as := (coreAllocs s c).filter Alloc.zeroOnHandover
  let s1 := as.foldl (fun s' a => { s' with
    scratch := memZero s'.scratch (spKey c a.base) a.len }) s
  let s2 := modCore s1 c fun k => { as.foldl (fun (k : Core) a => k.forgetBounds a.base a.len) k with
    wacc := []
    held := [] }
  event s2 4 1 (coreSection s c) (some (dieOf c)) (as.foldl (fun n a => n + a.len) 0 / 1024)

/-- The owner set of a segment: accounts, and none for rows of no request (R161). -/
def ownerSet (g : Option Segment) : List (Option Nat) :=
  match g with
  | some x => x.owners
  | none => []

/-- Whether two owner sets are equal as sets. -/
def sameOwners (a b : List (Option Nat)) : Bool := (a.all fun x => b.contains x) && (b.all fun x => a.contains x)

/-- The number that a prefetch entry still in flight takes when its step or version group is over: no PF_WAIT names it (R154). -/
def staleEntry : Nat := 4096

/-- R156: the prefetch schedule of a core begins again: no entry of it has started, completed or been triggered. -/
def Core.rewindPrefetch (k : Core) : Core := { k with
    issued := []
    pfStarted := 0
    pfDone := []
    dma := k.dma.map fun (d : Dma) => { d with
      entry := d.entry.map fun _ => staleEntry } }

/-- R161: the core passes from its segment to `g` at yield point `yp`; without one there is nothing to restore (R160). -/
def handover (s : State) (c yp : Nat) (g : Option Segment) : State :=
  let s1 := writeBack s c yp
  let s2 := if sameOwners (ownerSet (core s c).current) (ownerSet g) then s1 else zeroHandover s1 c
  match g with
  | none => modCore s2 c fun k => { k with
      current := none }
  | some x => restore (modCore s2 c fun k => { k with
      current := some x
      vset := x.vset }) c yp

/-! ## The commands -/

/-- GET (R153). -/
def execGet (c : Nat) (s : State) : Out := finish (issueDma s c 0x50 getReach fun s' k w => getEffect s' c k w)

/-- PUT (R153). -/
def execPut (c : Nat) (s : State) : Out := finish (issueDma s c 0x51 putReach fun s' k w => putEffect s' c k w)

/-- XFER (R153). -/
def execXfer (c : Nat) (s : State) : Out :=
  finish (issue s c 0x52 putReach (fun k w => rangeHold k (putReach k w)) fun s' k w => xferEffect s' c k w)

/-- PF_WAIT (R154). -/
def execPfWait (c : Nat) (s : State) : Out :=
  finish (issue s c 0x53 (fun _ _ => []) pfWaitHold fun s' k w => waitEffect s' c k w)

/-- DMA_WAIT (R154). -/
def execDmaWait (c : Nat) (s : State) : Out :=
  finish (issue s c 0x54 (fun _ _ => []) dmaWaitHold fun s' k w => waitEffect s' c k w)

/-- ARRIVE_WAIT (R154). -/
def execArriveWait (c : Nat) (s : State) : Out :=
  finish (issue s c 0x55 (fun _ _ => []) arriveWaitHold fun s' k w => arriveWaitEffect s' c k w)

/-- DELIVERY_ARRIVAL (R154). -/
def execDeliveryArrival (c : Nat) (s : State) : Out := done (deliveryArrive s c)

/-- PREFETCH_ENTRY (R156). -/
def execPrefetchEntry (c : Nat) (s : State) : Out := finish (prefetchStart s c)

/-- SLICE_CLEAR_DONE (R148). -/
def execSliceClearDone (c i : Nat) (s : State) : Out := done (sliceClearDone s c i)

/-- DMA_COMPLETION (R147). -/
def execDmaCompletion (c n : Nat) (s : State) : Out := done (dmaComplete s c n)

end Sys2Proof.Machine
end

