-- ==== Sys2Proof/Machine/Search.lean ====
section
/-!
DEFINITION. Machine/Search.lean: cluster search (spec/09_vector_search.md): the index in its store, list terms and the probe set (R167 to
R170), lookup tables and scores (R173 to R175), filters (R177 to R179), one segment unit (R172, R182, R183) and the candidate
list (R184).
-/
namespace Sys2Proof.Machine

/-! ## Assets in LPDDR -/

/-- Where a resident version of an asset stands: its region and byte offset (R58, R150). -/
def assetAt (s : State) (a ver : Nat) : Option (Nat × Nat) :=
  match s.bond.image with
  | none => none
  | some im =>
    match assetRegion im a, slotOf s a ver with
    | some g, some sl => some (g, sl * slotSize im g)
    | _, _ => none

/-- `n` bytes of a version from offset `o`; a version that is not resident reads as nothing. -/
def assetRead (s : State) (a ver o n : Nat) : List Byte :=
  match assetAt s a ver with
  | some (g, b) => ldRead s g (b + o) n
  | none => []

/-- A little-endian field of a version. -/
def assetNat (s : State) (a ver o n : Nat) : Nat := leNat (assetRead s a ver o n)

/-- The assets of a kind (R56) in the image's asset table. -/
def Image.ofKind (im : Image) (kind : Nat) : List Nat := (im.assets.filter fun a => decide (a.kind = kind)).map (·.id)

/-- The asset of a kind that an image binds to the users of section kind `sk`: the only one, or one of several that the image decides in
no chunk the manual lays out (log 24). -/
def Image.bound (im : Image) (sk kind : Nat) : Option Nat :=
  match im.ofKind kind with
  | [a] => some a
  | l => l[Config.binding sk kind % max l.length 1]?

/-- The asset of a kind bound to the users of section kind `sk`. -/
def boundAsset (s : State) (sk kind : Nat) : Option Nat := s.bond.image.bind fun im => im.bound sk kind

/-- The kind of an asset. -/
def kindOf (s : State) (a : Nat) : Option Nat :=
  match s.bond.image with
  | some im => (im.assets.find? fun x => x.id = a).map (·.kind)
  | none => none

/-- The current version of an asset. -/
def currentVer (s : State) (a : Nat) : Nat := (tget (fun _ => Asset.reset) s.assets.table a).current

/-! ## The index -/

/-- Index descriptor (Table 09.1) and where its version is. -/
structure Index where
  asset : Nat
  ver : Nat
  dim : Nat
  m : Nat
  code4 : Bool
  ip : Bool
  centroids : Nat
  passages : Nat
  shard : Nat
  store : Nat
  e : Nat
  idOff : Nat
  codeOff : Nat
  degree : Nat
  entryNodes : Nat
  beam : Nat
  hopLimit : Nat
  scoreExp : Int
  nprobeMax : Nat
  termOff : Int
  termScale : Int
  candMax : Nat
  residentMax : Nat
  teamGroups : Nat
  scoreKey : Nat
  codebook : Nat
  listDir : Nat
  centDir : Nat
  nodeDir : Nat
  entryList : Nat
  tombDir : Nat
  deriving DecidableEq, Repr

/-- Table 09.1. -/
def indexOfBytes (asset ver : Nat) (d : List Byte) : Index :=
  { asset := asset, ver := ver, dim := le d 4 2, m := le d 6 1, code4 := bit (le d 7 1) 0, ip := bit (le d 7 1) 1,
    centroids := le d 8 4, passages := le d 12 4, shard := le d 16 2, store := le d 18 2, e := le d 20 2, idOff := le d 22 2,
    codeOff := le d 24 2, degree := le d 26 1, entryNodes := le d 27 1, beam := le d 28 2, hopLimit := le d 30 2,
    scoreExp := signed 16 (le d 32 2), nprobeMax := le d 34 2, termOff := signed 32 (le d 36 4), termScale := signed 32 (le d 40 4),
    candMax := le d 44 2, residentMax := bits (le d 46 1) 4 0, teamGroups := le d 47 1, scoreKey := le d 48 8,
    codebook := le d 56 4, listDir := le d 60 4, centDir := le d 64 4, nodeDir := le d 68 4, entryList := le d 72 4,
    tombDir := le d 76 4 }

/-- The index descriptor of a version. -/
def indexAt (s : State) (a ver : Nat) : Index := indexOfBytes a ver (assetRead s a ver 0 128)

/-- The index pinned to a version set. -/
def pinnedIndex (s : State) (v : Nat) : Option Index :=
  (boundAsset s 3 1).map fun a => indexAt s a (versionIn s v a)

/-- The index of current versions. -/
def currentIndex (s : State) : Option Index := (boundAsset s 3 1).map fun a => indexAt s a (currentVer s a)

/-- A field of the index version. -/
def ixNat (s : State) (x : Index) (o n : Nat) : Nat := assetNat s x.asset x.ver o n

/-- Bytes of a store page. -/
def pageNat (s : State) (x : Index) (page o n : Nat) : Nat := ldNat s x.store (2048 * page + o) n

/-- Codewords of a subspace. -/
def Index.words (x : Index) : Nat := if x.code4 then 16 else 256

/-- Code bytes of an entry (R171). -/
def Index.codeBytes (x : Index) : Nat := if x.code4 then x.m / 2 else x.m

/-- List directory entry: first page, pages, entries (R163). -/
def listEntry (s : State) (x : Index) (n : Nat) : Nat × Nat × Nat :=
  (ixNat s x (x.listDir + 16 * n) 4, ixNat s x (x.listDir + 16 * n + 4) 4, ixNat s x (x.listDir + 16 * n + 8) 4)

/-- The store page of a node's record and its offset (R168). -/
def nodeNat (s : State) (x : Index) (n o len : Nat) : Nat :=
  pageNat s x (ixNat s x (x.nodeDir + 4 * (n / 16)) 4) (128 * (n % 16) + o) len

/-- STATE of a node; other codes read as COMPACTED (Table 09.2). -/
def nodeState (s : State) (x : Index) (n : Nat) : Nat := min (nodeNat s x n 0 1) 2

/-- The centroid vector (R167). -/
def centroidVec (s : State) (x : Index) (n : Nat) : List Val :=
  let page := ixNat s x (x.centDir + 4 * n) 4
  (List.range x.dim).map fun i => Fmt.bf16.decode (pageNat s x page (2 * i) 2)

/-! ## Counts of σ -/

/-- The exact dot product. -/
def dot : List Val → List Val → Val
  | a :: as, b :: bs => (a.mul b).add (dot as bs)
  | _, _ => .zero

/-- A value as a count of σ, rounded to nearest even and saturated to ±(2^31 - 1) (R167, R173): the count, and whether it
saturated. -/
def sigmaCount (key : Nat) (e : Int) (v : Val) : Int × Bool :=
  match v with
  | .nan => (Config.nanCount key, false)
  | .inf true => (-(2 ^ 31 - 1), true)
  | .inf false => (2 ^ 31 - 1, true)
  | .fin neg n d =>
    let p := scalePow n d (-e)
    let c := nearestQ neg p.1 p.2
    if c < -(2 ^ 31 - 1) then (-(2 ^ 31 - 1), true) else if 2 ^ 31 - 1 < c then (2 ^ 31 - 1, true) else (c, false)

/-- LT_fix of centroid `n` (R167). -/
def listTerm (s : State) (x : Index) (q : List Val) (n : Nat) : Int × Bool :=
  let d := dot q (centroidVec s x n)
  let v := if x.ip then d
    else ((dot q q).add ((Val.ofInt (-2) 1).mul d)).add (f32 (nodeNat s x n 4 4))
  sigmaCount n x.scoreExp v

/-- The ordered list score. -/
def listScore (x : Index) (lt : Int) : Int := if x.ip then lt else -lt

/-- A centroid under consideration: number, ls, LT_fix. -/
abbrev Cent := Nat × Int × Int

/-- R167: rank of centroids: larger ls, then smaller number. -/
def Cent.before (a b : Cent) : Bool := decide (b.2.1 < a.2.1) || (decide (a.2.1 = b.2.1) && decide (a.1 < b.1))

/-- Insert in rank order. -/
def centInsert (c : Cent) : List Cent → List Cent
  | [] => [c]
  | a :: r => if Cent.before c a then c :: a :: r else a :: centInsert c r

/-- `best` of R169. -/
def centBest (k : Nat) (l : List Cent) : List Cent := (l.foldl (fun acc c => centInsert c acc) []).take k

/-- The walk of R169. -/
structure Nav where
  visited : List Nat
  expanded : List Nat
  frontier : List Cent
  live : List Cent
  dead : Nat
  sat : Nat
  deriving DecidableEq, Repr

/-- A centroid with its score, and whether its list term saturated. -/
def centOf (s : State) (x : Index) (q : List Val) (n : Nat) : Cent × Nat :=
  let t := listTerm s x q n
  ((n, listScore x t.1, t.1), if t.2 then 1 else 0)

/-- One edge slot of an expanded node. -/
def navEdge (s : State) (x : Index) (q : List Val) (np2 : Nat) (v : Nav) (e : Nat) : Nav :=
  if e = 0xFFFFFFFF ∨ v.visited.contains e then v
  else
    let v1 := { v with
      visited := e :: v.visited }
    if nodeState s x e = 2 then { v1 with
      dead := min (v1.dead + 1) 0xFFFFFFFF }
    else
      let c := centOf s x q e
      { v1 with
        frontier := (centInsert c.1 v1.frontier).take x.beam
        live := if nodeState s x e = 0 then (centInsert c.1 v1.live).take np2 else v1.live
        sat := v1.sat + c.2 }

/-- The hops of R169. -/
def navHops (s : State) (x : Index) (q : List Val) (np2 : Nat) : Nat → Nav → Nav
  | 0, v => v
  | k + 1, v =>
    match v.frontier.find? fun c => !(v.expanded.contains c.1) with
    | none => v
    | some c =>
      let es := (List.range (min (nodeNat s x c.1 1 1) x.degree)).map fun i => nodeNat s x c.1 (8 + 4 * i) 4
      navHops s x q np2 k (es.foldl (navEdge s x q np2) { v with
        expanded := c.1 :: v.expanded })

/-- The entry nodes of the version, as a set (R169). -/
def entryNodesOf (s : State) (x : Index) : List Nat :=
  ((List.range x.entryNodes).map fun i => ixNat s x (x.entryList + 4 * i) 4).eraseDups

/-- R169: the walk of a query. -/
def probeNav (s : State) (x : Index) (q : List Val) (np2 : Nat) : Nav :=
    if x.degree = 0 then
      let cs := ((List.range x.centroids).filter fun n => decide (nodeState s x n = 0)).map (centOf s x q)
      { visited := List.range x.centroids, expanded := [], frontier := [], live := centBest np2 (cs.map (·.1)), dead := 0,
        sat := cs.foldl (fun n c => n + c.2) 0 : Nav }
    else
      let en := entryNodesOf s x
      let cs := (en.filter fun n => decide (nodeState s x n ≠ 2)).map (centOf s x q)
      let fr := centBest x.beam (cs.map (·.1))
      navHops s x q np2 x.hopLimit
        { visited := en, expanded := [], frontier := fr, live := (fr.filter fun c => decide (nodeState s x c.1 = 0)).take np2,
          dead := (en.filter fun n => decide (nodeState s x n = 2)).length, sat := cs.foldl (fun n c => n + c.2) 0 }

/-- R169: the probe set of a query in rank order, dead edges, saturated list terms. -/
def probeSet (s : State) (x : Index) (q : List Val) (np2 : Nat) : List (Nat × Int) × Nat × Nat :=
  let v := probeNav s x q np2
  (v.live.map fun c => (c.1, c.2.2), v.dead, v.sat)

/-! ## Lookup tables and scores -/

/-- τ(j, k) of R173. -/
def tau (s : State) (x : Index) (q : List Val) (j k : Nat) : Int :=
  let w := x.dim / x.m
  let ws := (List.range w).map fun i => Fmt.bf16.decode (ixNat s x (x.codebook + 2 * ((j * x.words + k) * w + i)) 2)
  let d := dot ((q.drop (j * w)).take w) ws
  (sigmaCount k x.scoreExp (if x.ip then d else (Val.ofInt (-2) 1).mul d)).1

/-- The least of a list of integers. -/
def minOf : List Int → Int
  | [] => 0
  | a :: r => r.foldl min a

/-- The largest of a list of integers. -/
def maxOf : List Int → Int
  | [] => 0
  | a :: r => r.foldl max a

/-- R174 over the τ lists of one group. -/
def lutGroup (taus : List (List Int)) : LutGroup :=
  let mins := taus.map minOf
  let dg := maxOf ((taus.zip mins).map fun p => maxOf p.1 - p.2)
  let delta := ((dg * 65536 + 254) / 255).toNat
  { off := mins.foldl (· + ·) 0, delta := delta,
    q := (taus.zip mins).map fun p => p.1.map fun t =>
      if delta = 0 then 0 else (nearestQ false ((t - p.2).toNat * 65536) delta).toNat }

/-- Subspaces of a group (R174). -/
def Index.groupSize (x : Index) : Nat := x.m / ((x.m + 63) / 64)

/-- The table of a query (R174). -/
def lutOf (s : State) (x : Index) (q : List Val) : List LutGroup :=
  (List.range ((x.m + 63) / 64)).map fun g =>
    lutGroup ((List.range x.groupSize).map fun i => (List.range x.words).map fun k => tau s x q (g * x.groupSize + i) k)

/-- Code of subspace `j` in the code bytes of an entry (R171). -/
def codeOfSub (x : Index) (code : List Byte) (j : Nat) : Nat :=
  if x.code4 then
    let b := (code.getD (j / 2) 0).toNat
    if j % 2 = 0 then b % 16 else b / 16
  else (code.getD j 0).toNat

/-- S_g of R175. -/
def groupSum (x : Index) (code : List Byte) (g : Nat) (l : LutGroup) : Nat :=
  (List.range x.groupSize).foldl (fun n i => n + (l.q.getD i []).getD (codeOfSub x code (g * x.groupSize + i)) 0) 0

/-- R175: the ordered score of an entry, and whether V saturated. -/
def entryScore (x : Index) (lut : List LutGroup) (lt : Int) (p : Nat) (code : List Byte) : Int × Bool :=
  let gs := (List.range lut.length).map fun g =>
    let l := lut.getD g { off := 0, delta := 0, q := [] }
    l.off + ((groupSum x code g l * l.delta / 65536 : Nat) : Int)
  let v := lt + (x.termOff + (p : Int) * x.termScale) + gs.foldl (· + ·) 0
  let c := max (-(2 ^ 31 - 1)) (min (2 ^ 31 - 1) v)
  (if x.ip then c else -c, decide (c ≠ v))

/-! ## Filters (R177, R179) -/

/-- A bit of a bitmap given by its page directory: beyond its length or directory it reads 0. -/
def bitmapBit (s : State) (store len : Nat) (dir : Nat → Option Nat) (n : Nat) : Bool :=
  if len ≤ n then false
  else
    match dir (n / 16384) with
    | none => false
    | some page => bit (ldNat s store (2048 * page + n / 8 % 2048) 1) (n % 8)

/-- The tombstone directory of an index version, likewise. -/
def tombPages (s : State) (x : Index) (i : Nat) : Option Nat :=
  if x.tombDir + 4 * i + 4 ≤ versionSize s x.asset x.ver then some (ixNat s x (x.tombDir + 4 * i) 4) else none

/-- The tombstone bit of a passage. -/
def tombBit (s : State) (x : Index) (n : Nat) : Bool := bitmapBit s x.store x.passages (tombPages s x) n

/-- LENGTH of a FILTER version, and the pages that its directory, which its size ends, names (R177). -/
def filterDir (s : State) (f ver : Nat) : Nat × (Nat → Option Nat) :=
  (assetNat s f ver 6 4, fun i => if 68 + 4 * i ≤ versionSize s f ver then some (assetNat s f ver (64 + 4 * i) 4) else none)

/-- The filter bit of a passage in the FILTER version pinned to a version set; an unused input reads 0. -/
def filterBit (s : State) (x : Index) (v f n : Nat) : Bool :=
  if f = 0xFFFF then false else let d := filterDir s f (versionIn s v f); bitmapBit s x.store d.1 d.2 n

/-- R179. -/
def passes (s : State) (x : Index) (v : Nat) (b : SearchBlk) (n : Nat) : Bool :=
  let ix := (List.range 4).foldl (fun acc i => acc + (if filterBit s x v (b.filters.getD i 0xFFFF) n then 2 ^ i else 0)) 0
  bit b.tt ix && !(tombBit s x n)

/-! ## The candidate list (R184, R190) -/

/-- R190: the total order. -/
def SelEntry.before (a b : SelEntry) : Bool := decide (b.score < a.score) || (decide (a.score = b.score) && decide (a.pos < b.pos))

/-- Insert in the order of R190. -/
def selInsert (e : SelEntry) : List SelEntry → List SelEntry
  | [] => [e]
  | a :: r => if e.before a then e :: a :: r else a :: selInsert e r

/-- Global ID of an entry (R189). -/
def SelEntry.gid (e : SelEntry) : Nat := e.pos % 65536 * 2 ^ 32 + e.id

/-- R184: an entry enters a candidate list of at most `cap`; the list, and the duplicates removed. -/
def candInsert (cap : Nat) (l : List SelEntry) (e : SelEntry) : List SelEntry × Nat :=
  match l.find? fun a => a.id = e.id with
  | some a => if e.before a then (selInsert e (l.erase a), 1) else (l, 1)
  | none => ((selInsert e l).take cap, 0)

/-- R194: after `e` was offered to the list `old` and `new` came of it, the occurrences left out whose score is that of the last entry:
those known before, while the last score stays, and one that `e` put out of the list, or `e` itself. An occurrence of a passage that the list
holds is a duplicate. -/
def tiedAfter (old new : List SelEntry) (e : SelEntry) (tied : List SelEntry) : List SelEntry :=
  match new.getLast? with
  | none => []
  | some z =>
    let kept := if old.getLast?.map (·.score) = some z.score then tied else []
    ((e :: old).filter fun a => decide (a.score = z.score)) ++ kept |>.filter fun a => !(new.any fun b => b.id = a.id)

/-! ## One segment unit (R172, R182, R183) -/

/-- The units of a round: (probe rank, page of the list) in order (R182). -/
def roundUnits (s : State) (x : Index) (lists : List (Nat × (Nat × Int))) : List (Nat × Nat) :=
  lists.flatMap fun p => (List.range (listEntry s x p.2.1).2.1).map fun i => (p.1, i)

/-- The probe lists of a round with their ranks (R185). -/
def roundLists (r : Req) : List (Nat × (Nat × Int)) :=
  let all := (List.range r.probe.length).map fun i => (i, r.probe.getD i (0, 0))
  if r.round = 1 then all.take r.search.np1 else if r.round = 2 then all.drop r.search.np1 else []

/-- What one unit gives: entries that passed, scored; saturations; whether the segment was bad. -/
structure UnitOut where
  passed : List SelEntry
  sat : Nat
  bad : Bool
  deriving DecidableEq, Repr

/-- R172: whether the header of a segment agrees with the directory that led to it. -/
def segGood (s : State) (x : Index) (page list segNo : Nat) : Bool :=
  decide (pageNat s x page 0 2 = 0x5E67) && decide (pageNat s x page 4 4 = list) && decide (pageNat s x page 8 4 = segNo)
    && decide (1 ≤ pageNat s x page 2 2) && decide (pageNat s x page 2 2 ≤ x.e)

/-- The entries of a good segment that pass, scored (R175, R179, R184). -/
def segEntries (s : State) (x : Index) (lut : List LutGroup) (r : Req) (page rank segNo : Nat) (lt : Int) : List SelEntry × Nat :=
  (List.range (pageNat s x page 2 2)).foldl (fun acc i =>
    let id := pageNat s x page (x.idOff + 4 * i) 4
    if passes s x r.vset r.search id then
      let code := memRead s.lpddr (ldKey x.store (2048 * page + x.codeOff + i * x.codeBytes)) x.codeBytes
      let sc := entryScore x lut lt (pageNat s x page (32 + i) 1) code
      (acc.1 ++ [{ score := sc.1, id := id, pos := rank * 2 ^ 48 + (segNo * x.e + i) * 65536 + x.shard }],
       acc.2 + (if sc.2 then 1 else 0))
    else acc) ([], 0)

/-- One unit of a round. -/
def unitOut (s : State) (x : Index) (r : Req) (u : Nat × Nat) : UnitOut :=
  let pl := r.probe.getD u.1 (0, 0)
  let page := (listEntry s x pl.1).1 + u.2
  if segGood s x page pl.1 u.2 then
    let o := segEntries s x r.table r page u.1 u.2 pl.2
    { passed := o.1, sat := o.2, bad := false }
  else { passed := [], sat := 0, bad := true }

/-- Request `k` of the front end. -/
def reqOf (s : State) (k : Nat) : Option Req := tget (fun _ => none) s.front.reqs k

/-- Replace request `k`. -/
def setReq (s : State) (k : Nat) (r : Option Req) : State := { s with
    front := { s.front with
      reqs := tset (fun _ => none) s.front.reqs k r } }

/-- A candidate list after a unit's entries, with the duplicates removed. -/
def takeUnit (cap : Nat) (l : List SelEntry) (es : List SelEntry) : List SelEntry × Nat :=
  es.foldl (fun acc e => let p := candInsert cap acc.1 e; (p.1, acc.2 + p.2)) (l, 0)

/-- The occurrences a list leaves out at its last score, after a unit's entries (R194). -/
def tiedUnit (cap : Nat) : List SelEntry → List SelEntry → List SelEntry → List SelEntry
  | _, [], tied => tied
  | l, e :: es, tied => let p := candInsert cap l e; tiedUnit cap p.1 es (tiedAfter l p.1 e tied)

/-- The 64-byte line of a bitmap that a passage's bit lies in, by its store offset; none beyond the bitmap. -/
def bitmapLine (len : Nat) (dir : Nat → Option Nat) (n : Nat) : Option Nat :=
  if len ≤ n then none else (dir (n / 16384)).map fun page => 2048 * page + n / 8 % 2048 / 64 * 64

/-- The lines a context reads of one bitmap for a sequence of passages: it keeps one, and reads only a line that it does not hold (R183). -/
def linesRead : Option Nat → List (Option Nat) → List Nat
  | _, [] => []
  | held, none :: r => linesRead held r
  | held, some l :: r => if held = some l then linesRead held r else l :: linesRead (some l) r

/-- The bitmap inputs of a query (R183): the filters it names and the tombstone bitmap. -/
def bitmapsOf (s : State) (x : Index) (r : Req) : List (Nat × (Nat → Option Nat)) :=
  ((r.search.filters.filter fun f => decide (f ≠ 0xFFFF)).map fun f => filterDir s f (versionIn s r.vset f)) ++ [(x.passages, tombPages s x)]

/-- The line a context keeps of one bitmap after a sequence of passages. -/
def lineKept (held : Option Nat) (l : List (Option Nat)) : Option Nat := ((l.filterMap id).getLast?).orElse fun _ => held

/-- The passages of a segment. -/
def segIds (s : State) (x : Index) (page : Nat) : List Nat :=
  (List.range (pageNat s x page 2 2)).map fun i => pageNat s x page (x.idOff + 4 * i) 4

/-- The lines of each bitmap input that a segment's passages lie in. -/
def segLines (s : State) (x : Index) (r : Req) (page : Nat) : List (List (Option Nat)) :=
  (bitmapsOf s x r).map fun b => (segIds s x page).map (bitmapLine b.1 b.2)

/-- The accesses of a good segment after its header (R183), by a context that keeps the lines `held`: the bitmap lines of its entries that it
does not hold, then each access that holds a byte of a passing entry's code. -/
def unitAccesses (s : State) (x : Index) (r : Req) (held : List (Option Nat)) (page : Nat) : List Nat :=
  let ids := segIds s x page
  let ls := segLines s x r page
  let lines := (List.range ls.length).flatMap fun i => linesRead (held.getD i none) (ls.getD i [])
  let codes := (List.range ids.length).flatMap fun i =>
    if passes s x r.vset r.search (ids.getD i 0) then
      let lo := 2048 * page + x.codeOff + i * x.codeBytes
      (List.range ((lo + x.codeBytes - 1) / 64 - lo / 64 + 1)).map fun n => 64 * (lo / 64 + n)
    else []
  lines ++ codes.foldl (fun l a => if l.contains a then l else l ++ [a]) []

/-- The lines that context `n` of a core keeps. -/
def ctxLines (s : State) (c n : Nat) : List (Option Nat) := tget (fun _ => []) (core s c).lines n

/-- R157, R183: the accesses of a unit that context `n` takes are charged to the SCAN section: header, terms and IDs, then those of a good
segment, whose last bitmap lines the context keeps. -/
def chargeUnit (s : State) (x : Index) (r : Req) (c n page : Nat) (bad : Bool) : State :=
  let s1 := transfer s c x.store (2048 * page) (x.idOff + 4 * x.e) false
  if bad then s1
  else
    let held := ctxLines s c n
    let ls := segLines s x r page
    modCore ((unitAccesses s x r held page).foldl (fun s' o => transfer s' c x.store o 64 false) s1) c fun (k : Core) => { k with
      lines := tset (fun _ => []) k.lines n ((List.range ls.length).map fun i => lineKept (held.getD i none) (ls.getD i [])) }

/-- R444, R447, R455: whether a read of a segment by core `c` is not served whole. -/
def notServed (s : State) (c g o n : Nat) : Bool := decide (refusedAccesses s (c / 64) g o n ≠ 0) || readsPoison s g o n

/-- SCAN_UNIT (R183): unit `j` of the present round of request `k`, on its core of the team (R182), taken by the core's 128 contexts in turn
(log 20). Nothing happens for a
request that is not scanning, or a unit that is out of range or done. -/
def scanUnit (s : State) (k j : Nat) : State :=
  match reqOf s k with
  | none => s
  | some r =>
    match pinnedIndex s r.vset with
    | none => s
    | some x =>
      match (roundUnits s x (roundLists r))[j]? with
      | none => s
      | some u =>
        if r.team = [] ∨ r.unitsDone.contains j ∨ !r.resident then s
        else
          let c := r.team.getD (j % r.team.length) 0
          let page := (listEntry s x (r.probe.getD u.1 (0, 0)).1).1 + u.2
          let unserved := notServed s c x.store (2048 * page) 2048
          let o := if unserved then { passed := [], sat := 0, bad := false } else unitOut s x r u
          let t := takeUnit x.candMax (tget (fun _ => []) r.cands c) o.passed
          let r1 := { r with
            unitsDone := insertAsc j r.unitsDone
            cands := tset (fun _ => []) r.cands c t.1
            candTied := tset (fun _ => []) r.candTied c (tiedUnit x.candMax (tget (fun _ => []) r.cands c) o.passed (tget (fun _ => []) r.candTied c))
            matched := min (r.matched + o.passed.length) 0xFFFFFFFF
            dupCore := min (r.dupCore + t.2) 0xFFFFFFFF
            segBad := r.segBad || o.bad
            short := r.short || unserved }
          let s1 := chargeUnit (setReq s k (some r1)) x r c (j / r.team.length % 128) page (o.bad || unserved)
          let s2 := bumpBy (bumpBy s1 Reg.SEARCH_CNT_DUP t.2) Reg.SEARCH_CNT_SCORE_SAT o.sat
          let s3 := if o.sat = 0 then s2 else setBits s2 Reg.SEARCH_INT_STATUS 2
          if o.bad then setBits (bump s3 Reg.SEARCH_CNT_SEG_BAD) Reg.SEARCH_INT_STATUS 4 else s3

/-- SCAN_UNIT. -/
def execScanUnit (k j : Nat) (s : State) : Out := done (scanUnit s k j)

/-! ## What a CENTROID step leaves (R169, R170) -/

/-- The first core of a section's first group: the core that does the work of a section whose words name no core for it. -/
def leadCore (s : State) (sect : Nat) : Nat := 64 * (sectionGroups s sect).headD 0

/-- R157: the reads of a CENTROID step are charged to its section: the record of each node the walk visits, and the vector of each it scores. -/
def chargeProbe (s : State) (sect : Nat) (r : Req) : State :=
  match pinnedIndex s r.vset with
  | none => s
  | some x =>
    let d := dieOf (leadCore s sect)
    (probeNav s x (r.qvec.map f32) r.search.np2).visited.foldl (fun s' n =>
      let s1 := accessed s' sect d x.store (2048 * ixNat s x (x.nodeDir + 4 * (n / 16)) 4 + 128 * (n % 16)) 128 false
      if nodeState s x n = 2 then s1 else accessed s1 sect d x.store (2048 * ixNat s x (x.centDir + 4 * n) 4) (2 * x.dim) false) s

/-- The probe set of request `r`, its dead edges and whether it is short; the counters. -/
def centroidStep (s : State) (k : Nat) (r : Req) : State :=
  match pinnedIndex s r.vset with
  | none => setReq s k (some { r with
      short := true })
  | some x =>
    let p := probeSet s x (r.qvec.map f32) r.search.np2
    let shortSet := decide (p.1.length < r.search.np2)
    let s1 := setReq s k (some { r with
      probe := p.1
      deadEdges := p.2.1
      probeShort := shortSet })
    let s2 := bumpBy (bumpBy s1 Reg.SEARCH_CNT_DEAD_EDGE p.2.1) Reg.SEARCH_CNT_SCORE_SAT p.2.2
    let s3 := if p.2.2 = 0 then s2 else setBits s2 Reg.SEARCH_INT_STATUS 2
    if shortSet then bump s3 Reg.SEARCH_CNT_PROBE_SHORT else s3

/-! ## Scan teams (R181) -/

/-- The cores of team `t` of a SCAN section: TEAM_GROUPS groups in the order of R43. -/
def teamCores (s : State) (sect tg t : Nat) : List Nat :=
  (((sectionGroups s sect).drop (t * tg)).take tg).flatMap fun g => (List.range 64).map (64 * g + ·)

/-- Requests resident on a team, up to a count. -/
def residents (s : State) (team : List Nat) : Nat :=
  (s.front.reqs.filter fun p =>
    match p.2 with
    | some r => r.resident && decide (r.team = team)
    | none => false).length

/-- R157, R181: building a query's table reads the codebook once, on one core of the team. -/
def chargeTable (s : State) (sect c : Nat) (x : Index) : State :=
  match s.bond.image with
  | none => s
  | some im =>
    match assetRegion im x.asset, slotOf s x.asset x.ver with
    | some g, some sl => accessed s sect (dieOf c) g (sl * slotSize im g + x.codebook) (2 * x.dim * x.words) false
    | _, _ => s

/-- R181: the next query is dealt to a team; without a free slot it is scanned by no core and falls short. -/
def assignTeam (s : State) (sect k : Nat) (r : Req) : State :=
  match pinnedIndex s r.vset with
  | none => setReq s k (some { r with
      short := true })
  | some x =>
    let n := (sectionGroups s sect).length / max x.teamGroups 1
    if n = 0 then setReq s k (some { r with
        short := true })
    else
      let team := teamCores s sect x.teamGroups (s.front.deal % n)
      let ok := decide (residents s team < x.residentMax)
      let s1 := setReq s k (some { r with
        team := team
        resident := ok
        table := if ok then lutOf s x (r.qvec.map f32) else []
        short := r.short || !ok })
      let s2 := if ok then chargeTable s1 sect (team.headD 0) x else s1
      { s2 with
        front := { s2.front with
          deal := s2.front.deal + 1 } }

/-- R185: at the end of the last round-1 step, whether round 2 runs. -/
def wantsRound2 (r : Req) : Bool := decide (r.matched < r.search.k) && decide (r.search.np1 < r.search.np2)

/-- R17, R185: whether a scan step ends with units of its round undone. -/
def scanShort (s : State) (r : Req) : Bool :=
  match pinnedIndex s r.vset with
  | none => true
  | some x => decide (r.unitsDone.length < (roundUnits s x (roundLists r)).length)

end Sys2Proof.Machine
end

