-- ==== Sys2Proof/Machine/Content.lean ====
section
/-!
DEFINITION. Machine/Content.lean: what the versions of the assets hold, read through a byte reader (a staged body or a resident version), and the
content checks at staging (R57): INDEX (R166, R171), EMB_TABLE (R208), VOCAB (R235), MERGE_TABLE (R231), NORM_TABLE (R228),
GRAMMAR (R243, R247), TEMPLATE (R262), MODEL (R260), FILTER (R177), GATE_LIST (R363), and the VOCAB rule of R224.
-/
namespace Sys2Proof.Machine

/-- A reader of a version: offset, length. -/
abbrev Rd := Nat → Nat → List Byte

/-- The reader of a staged body. -/
def bodyRd (b : List Byte) : Rd := fun o n => slice b o n

/-- The reader of a resident version. -/
def assetRd (s : State) (a ver : Nat) : Rd := fun o n => assetRead s a ver o n

/-- A little-endian field. -/
def rdN (r : Rd) (o n : Nat) : Nat := leNat (r o n)

/-! ## VOCAB (R235) -/

/-- VOCAB_SIZE. -/
def vocSize (r : Rd) : Nat := rdN r 4 4
/-- BOS; 0xFFFFFFFF when absent. -/
def vocBos (r : Rd) : Nat := rdN r 8 4
/-- EOS. -/
def vocEos (r : Rd) : Nat := rdN r 12 4
/-- PAD. -/
def vocPad (r : Rd) : Nat := rdN r 16 4
/-- Directory entry of token `t`. -/
def vocEntry (r : Rd) (t : Nat) : Nat := rdN r (rdN r 24 4 + 8 * t) 8
/-- LEN of a token. -/
def vocLen (r : Rd) (t : Nat) : Nat := bits (vocEntry r t) 40 32
/-- CONTROL of a token. -/
def vocControl (r : Rd) (t : Nat) : Bool := bit (vocEntry r t) 48
/-- The bytes a token contributes: none for a CONTROL token. -/
def vocBytes (r : Rd) (t : Nat) : List Byte :=
  if vocControl r t then [] else r (rdN r 28 4 + bits (vocEntry r t) 31 0) (vocLen r t)

/-- BOS, EOS or PAD is absent, or a CONTROL token. -/
def vocSpecial (r : Rd) (t : Nat) : Bool := decide (t = 0xFFFFFFFF) || (decide (t < vocSize r) && vocControl r t)

/-- R235. -/
def vocabGood (r : Rd) : Bool :=
  decide (rdN r 0 4 = 0x70CA0001) && decide (256 ≤ vocSize r) && decide (vocSize r ≤ 262144) && vocSpecial r (vocBos r)
    && vocSpecial r (vocEos r) && vocSpecial r (vocPad r)
    && (List.range (vocSize r)).all fun t =>
      decide (vocLen r t ≤ 256) && decide (bits (vocEntry r t) 31 0 + vocLen r t ≤ rdN r 20 4)
        && (vocControl r t || decide (vocLen r t ≠ 0))

/-! ## MERGE_TABLE (R230 to R232) -/

/-- Slot `i` of the merge table: LEFT, RIGHT, RANK, RESULT. -/
def mergeSlot (r : Rd) (i : Nat) : Nat × Nat × Nat × Nat :=
  let o := rdN r 40 4 + 16 * i
  (rdN r o 4, rdN r (o + 4) 4, rdN r (o + 8) 4, rdN r (o + 12) 4)

/-- Slots of the merge table. -/
def mergeSlots (r : Rd) : Nat := 2 ^ rdN r 8 1

/-- First slot of a pair (R231). -/
def mergeHome (r : Rd) (l x : Nat) : Nat := mix64 (l * 2 ^ 32 + x) (rdN r 16 8) / 2 ^ (64 - rdN r 8 1)

/-- R231: lookup of a pair: its RANK and RESULT. -/
def mergeFind (r : Rd) (l x : Nat) : Option (Nat × Nat) :=
  ((List.range (rdN r 9 1)).map fun k => mergeSlot r ((mergeHome r l x + k) % mergeSlots r)).findSome? fun e =>
    if e.1 = l ∧ e.2.1 = x ∧ e.1 ≠ 0xFFFFFFFF then some (e.2.2.1, e.2.2.2) else none

/-- R231, Table 12.2. -/
def mergeGood (r : Rd) : Bool :=
  decide (rdN r 0 4 = 0x3E460001) && decide (rdN r 4 4 + 256 ≤ rdN r 12 4) && decide (rdN r 8 1 ≤ 20) && decide (1 ≤ rdN r 9 1)
    && decide (rdN r 9 1 ≤ 8) && decide (1 ≤ rdN r 10 1) && decide (rdN r 10 1 ≤ 16)
    && (List.range (mergeSlots r)).all fun i =>
      let e := mergeSlot r i
      decide (e.1 = 0xFFFFFFFF) || decide ((i + mergeSlots r - mergeHome r e.1 e.2.1) % mergeSlots r ≤ rdN r 9 1)

/-! ## NORM_TABLE (R228) -/

/-- Table 12.1. -/
def normGood (r : Rd) : Bool :=
  decide (rdN r 0 4 = 0x4E0F0001) && decide (rdN r 4 1 ≤ 1) && decide (rdN r 12 4 ≤ 65536) && decide (rdN r 16 1 ≤ 16)
    && decide (1 ≤ rdN r 17 1) && decide (rdN r 17 1 ≤ 8)

/-! ## GRAMMAR (R243 to R247) -/

/-- STATES. -/
def gramStates (r : Rd) : Nat := rdN r 4 4
/-- Offset of the record of state `q`. -/
def gramRec (r : Rd) (q : Nat) : Nat := rdN r 52 4 + 32 * q
/-- ACCEPT. -/
def gramAccept (r : Rd) (q : Nat) : Bool := bit (rdN r (gramRec r q) 1) 0
/-- Transition entry of a state and a byte. -/
def gramTrans (r : Rd) (q b : Nat) : Nat := rdN r (rdN r 56 4 + 2048 * q + 8 * b) 8
/-- Entries of a list of the pools, `n` of them from byte offset `o` of the pools: token and count. -/
def gramList (r : Rd) (o n : Nat) : List (Nat × Nat) :=
  (List.range n).map fun i =>
    let e := rdN r (rdN r 60 4 + o + 4 * i) 4
    (bits e 17 0, bits e 26 18)
/-- The DEEP list of a state. -/
def gramDeep (r : Rd) (q : Nat) : List (Nat × Nat) := gramList r (rdN r (gramRec r q + 8) 4) (rdN r (gramRec r q + 12) 4)
/-- The CD list of a state. -/
def gramCd (r : Rd) (q : Nat) : List (Nat × Nat) := gramList r (rdN r (gramRec r q + 16) 4) (rdN r (gramRec r q + 20) 4)

/-- T_mask of R247 for state `q` with vocabulary `v`. -/
def maskTime (r v : Rd) (q : Nat) : Nat :=
  let cd := gramCd r q
  32 + (vocSize v + 511) / 512 + 2 * rdN r (gramRec r q + 12) 4
    + (cd.map fun e => 8 + 2 * vocLen v e.1 + e.2).foldl (· + ·) 0 + 1500 * (2 + (cd.length + 15) / 16)

/-- Table 12.5, Table 12.6. -/
def grammarGood (r : Rd) : Bool :=
  decide (rdN r 0 4 = 0x6A4D0001) && decide (1 ≤ gramStates r) && decide (gramStates r ≤ 65536) && decide (1 ≤ rdN r 8 1)
    && decide (rdN r 8 1 ≤ 16) && (List.range (rdN r 8 1)).all fun i => decide (rdN r (20 + 2 * i) 2 < gramStates r)

/-- R224, R247: a GRAMMAR version against a VOCAB version. -/
def grammarFits (r v : Rd) : Bool :=
  decide (rdN r 12 4 = vocSize v) && (List.range (gramStates r)).all fun q => decide (maskTime r v q ≤ rdN r 16 4)

/-! ## TEMPLATE (R262) -/

/-- A template segment (Table 13.4). -/
structure Seg where
  kind : Nat
  preLen : Nat
  postLen : Nat
  count : Nat
  pmin : Nat
  off : Nat
  postOff : Nat
  deriving DecidableEq, Repr

/-- The segments of a template. -/
def tplSegs (r : Rd) : List Seg :=
  (List.range (rdN r 12 1)).map fun i =>
    let e := rdN r (32 + 16 * i) 16
    { kind := bits e 7 0, preLen := bits e 15 8, postLen := bits e 23 16, count := bits e 47 32, pmin := bits e 63 48, off := bits e 95 64,
      postOff := bits e 127 96 }

/-- Pool token `i`. -/
def tplPool (r : Rd) (i : Nat) : Nat := rdN r (rdN r 16 4 + 4 * i) 4

/-- Sum of the literal COUNTs. -/
def tplLiteral (r : Rd) : Nat := (((tplSegs r).filter fun g => g.kind = 1).map (·.count)).foldl (· + ·) 0
/-- QMAX of the QUERY segment. -/
def tplQmax (r : Rd) : Nat := (((tplSegs r).filter fun g => g.kind = 2).map (·.count)).foldl (· + ·) 0

/-- R262. -/
def templateGood (r : Rd) : Bool :=
  decide (rdN r 0 4 = 0x7E3A0001) && decide (rdN r 10 2 ≤ 16384) && decide (1 ≤ rdN r 12 1) && decide (rdN r 12 1 ≤ 16)
    && decide (((tplSegs r).filter fun g => g.kind = 2).length ≤ 1) && decide (((tplSegs r).filter fun g => g.kind = 3).length ≤ 1)
    && (tplSegs r).all (fun g => decide (1 ≤ g.kind ∧ g.kind ≤ 3)) && decide (tplLiteral r + tplQmax r ≤ rdN r 8 2)
    && (List.range (rdN r 20 4)).all fun i => decide (tplPool r i < rdN r 4 4)

/-- R224: VOCAB_SIZE of a version of kind MERGE_TABLE, GRAMMAR or TEMPLATE against a VOCAB version; a grammar also meets R247. -/
def vocabFits (kind : Nat) (r v : Rd) : Bool :=
  match kind with
  | 8 => decide (rdN r 12 4 = vocSize v)
  | 5 => grammarFits r v
  | 9 => decide (rdN r 4 4 = vocSize v)
  | _ => true

/-! ## INDEX (R166, R171) -/

/-- ID_OFF for `e` entries. -/
def segIdOff (e : Nat) : Nat := 64 * ((32 + e + 63) / 64)
/-- CODE_OFF for `e` entries. -/
def segCodeOff (e : Nat) : Nat := 64 * ((segIdOff e + 4 * e + 63) / 64)
/-- E of R171 for code length `c`: the largest count that fits. -/
def segEntriesMax (c : Nat) : Nat := ((List.range 512).filter fun e => decide (segCodeOff e + e * c ≤ 2048)).getLast?.getD 0

/-- SCORE_KEY as R180 defines it over a version. -/
def scoreKeyOf (x : Index) (r : Rd) : Nat :=
  leNat (shake256 (r 4 4 ++ r 32 2 ++ r 36 8 ++ r x.codebook (2 * x.words * x.dim)) 8)

/-- R166, Table 09.1, R171, R180. -/
def indexGood (r : Rd) : Bool :=
  let x := indexOfBytes 0 0 (r 0 128)
  decide (rdN r 0 4 = 0x1DE50001) && [16, 32, 64, 96, 128].contains x.m && decide (16 ≤ x.dim) && decide (x.dim ≤ 1024)
    && decide (x.dim % x.m = 0) && decide (1 ≤ x.centroids) && decide (x.centroids ≤ 4194304) && decide (x.passages ≤ 4000000000)
    && decide (x.degree ≤ 30) && (decide (262144 < x.centroids) || decide (x.degree = 0)) && decide (1 ≤ x.entryNodes)
    && decide (x.entryNodes ≤ 64) && decide (1 ≤ x.nprobeMax) && decide (x.nprobeMax ≤ 512) && decide (x.nprobeMax ≤ x.beam)
    && decide (x.beam ≤ 512) && decide (1 ≤ x.hopLimit) && decide (x.hopLimit ≤ 4096) && (!x.ip || decide (x.termScale = 0))
    && decide (1 ≤ x.candMax) && decide (x.candMax ≤ 4096) && decide (1 ≤ x.residentMax) && decide (x.residentMax ≤ 16)
    && decide (1 ≤ x.teamGroups) && decide (x.teamGroups ≤ 64) && decide (x.e = segEntriesMax x.codeBytes)
    && decide (x.idOff = segIdOff x.e) && decide (x.codeOff = segCodeOff x.e) && decide (x.scoreKey = scoreKeyOf x r)

/-! ## EMB_TABLE (R207, R208) -/

/-- A table descriptor (Table 11.1). -/
structure Emb where
  asset : Nat
  ver : Nat
  dim : Nat
  fmt : Nat
  mode : Nat
  update : Nat
  mul : Bool
  rows : Nat
  seed : Nat
  qAsset : Nat
  rAsset : Nat
  store : Nat
  rb : Nat
  deriving DecidableEq, Repr

/-- Table 11.1. -/
def embOf (asset ver : Nat) (r : Rd) : Emb :=
  { asset := asset, ver := ver, dim := rdN r 4 2, fmt := bits (rdN r 6 1) 3 0, mode := bits (rdN r 6 1) 7 4, update := bits (rdN r 7 1) 1 0,
    mul := bit (rdN r 7 1) 2, rows := rdN r 8 8, seed := rdN r 16 8, qAsset := rdN r 24 2, rAsset := rdN r 26 2, store := rdN r 28 2,
    rb := rdN r 30 2 }

/-- The element format of a table. -/
def Emb.elem (t : Emb) : Fmt := (Fmt.ofCode t.fmt).getD .fp32
/-- Bytes of a row's elements and scales, and of G, before padding (R208). -/
def Emb.rowBytes (t : Emb) : Nat :=
  t.elem.width * t.dim / 8 + (if t.elem.isMx then t.dim / 32 else 0) + (if t.update = 2 then 4 else 0)
/-- Where G stands in a row record. -/
def Emb.gOff (t : Emb) : Nat := t.elem.width * t.dim / 8 + (if t.elem.isMx then t.dim / 32 else 0)
/-- RPP. -/
def Emb.rpp (t : Emb) : Nat := 2048 / max t.rb 1

/-- R208, Table 11.1; the component tables of a QR table are read at their current versions. -/
def embGood (s : State) (t : Emb) (magic : Nat) : Bool :=
  let mx := decide (t.fmt = 2 ∨ t.fmt = 7)
  decide (magic = 0x7AB10001) && [0, 1, 2, 7].contains t.fmt && decide (t.mode ≤ 2) && decide (t.update ≤ 2) && decide (16 ≤ t.dim)
    && decide (t.dim ≤ 512) && decide (t.dim % (if mx then 32 else 16) = 0)
    && (if t.mode = 2 then
        let q := embOf t.qAsset (currentVer s t.qAsset) (assetRd s t.qAsset (currentVer s t.qAsset))
        let rr := embOf t.rAsset (currentVer s t.rAsset) (assetRd s t.rAsset (currentVer s t.rAsset))
        decide (t.update = 0) && decide (q.mode = 0) && decide (rr.mode = 0) && decide (t.rows ≤ q.rows * rr.rows)
      else
        decide (t.rb = (t.rowBytes + 15) / 16 * 16) && decide (t.rb ≤ 2048) && (decide (t.update = 0) || !mx))

/-! ## GATE_LIST (R363), MODEL (R260), FILTER (R177) -/

/-- R363. -/
def gateGood (r : Rd) : Bool :=
  let n := rdN r 4 2
  let ds := (List.range n).map fun i => rdN r (17 + 4 * i) 3
  decide (rdN r 0 4 = 0x9A7E0001) && decide (1 ≤ n) && decide (n ≤ 256) && ds.all (fun d => decide (1 ≤ d))
    && decide (ds.foldl (· + ·) 0 ≤ 2 ^ 32 - 1) && decide (rdN r 8 4 < ds.foldl (· + ·) 0)

/-- Whether an FP32 code is finite. -/
def finite32 (c : Nat) : Bool := decide (c / 2 ^ 23 % 256 ≠ 255)

/-- R260: CAL_A finite and positive, CAL_B finite. -/
def calGood (a b : Nat) : Bool := finite32 a && decide (0 < a ∧ a < 2 ^ 31) && finite32 b

/-- Whether the image has a section of a kind. -/
def hasKind (s : State) (kind : Nat) : Bool :=
  match s.bond.image with
  | some im => im.sections.any fun x => decide (x.kind = kind)
  | none => false

/-- Whether an asset is the MODEL that a RERANK section binds (R260). -/
def isReranker (s : State) (a : Nat) : Bool := hasKind s 5 && decide (boundAsset s 5 2 = some a)

/-- R57: the content of a staged version of asset `a`, kind `kind`. -/
def contentGood (s : State) (a kind : Nat) (r : Rd) : Bool :=
  match kind with
  | 1 => indexGood r
  | 2 => !isReranker s a || calGood (rdN r (Config.calOffset a) 4) (rdN r (Config.calOffset a + 4) 4)
  | 3 => embGood s (embOf a 0 r) (rdN r 0 4)
  | 4 => vocabGood r
  | 5 => grammarGood r
  | 7 => normGood r
  | 8 => mergeGood r
  | 9 => templateGood r
  | 10 => decide (kindOf s (rdN r 0 2) = some 1)
  | 11 => gateGood r
  | _ => true

/-- The resident verified versions of an asset. -/
def verifiedVers (s : State) (a : Nat) : List Nat :=
  ((tget (fun _ => Asset.reset) s.assets.table a).versions.filter (·.verified)).map (·.ver)

/-- The assets of a kind. -/
def assetsOfKind (s : State) (kind : Nat) : List Nat :=
  match s.bond.image with
  | some im => im.ofKind kind
  | none => []

/-- The section kind whose model uses assets of a kind: GRAMMAR DECODE, TEMPLATE PACK, the text tables EMBED. -/
def userOf (kind : Nat) : Nat :=
  match kind with
  | 5 => 8
  | 9 => 6
  | _ => 1

/-- R224: a staged version against what is resident: against every version of its bound VOCAB, or a VOCAB against every version
bound to it. -/
def vocabRule (s : State) (a kind : Nat) (r : Rd) : Bool :=
  if kind = 4 then
    [5, 8, 9].all fun k =>
      decide (boundAsset s (userOf k) 4 ≠ some a)
        || (assetsOfKind s k).all fun x => (verifiedVers s x).all fun v => vocabFits k (assetRd s x v) r
  else
    match boundAsset s (userOf kind) 4 with
    | none => true
    | some voc => (verifiedVers s voc).all fun v => vocabFits kind r (assetRd s voc v)

/-! ## SHAPE (R56) -/

/-- The functions of the image that an SFUNC asset gives its coefficients (R130). -/
def boundFuncs (s : State) (a : Nat) : List SFunc :=
  match s.bond.image with
  | some im => im.funcs.filter fun f => f.assetBound && decide (f.asset = a)
  | none => []

/-- NSEG, NSTEP, the program and the pool of a function. -/
def SFunc.shape (f : SFunc) : List Byte :=
  natLE 2 f.segs.length ++ natLE 1 f.prog.length ++ f.prog.flatMap (natLE 4) ++ f.pool.flatMap (natLE 8)

/-- What SHAPE covers of a version, by KIND: the fields that R166, R177, R207, R224, R243 and R262 name; of an SFUNC asset NSEG, NSTEP, the
program and the pool of its functions, so that the coefficients alone may change (R130); all of a MODEL version but a calibration record (R260); all of any other. -/
def shapeCover (s : State) (a kind size : Nat) (r : Rd) : List Byte :=
  match kind with
  | 1 => r 0 12 ++ r 18 110
  | 2 => if isReranker s a then r 0 (Config.calOffset a) ++ r (Config.calOffset a + 16) (size - Config.calOffset a - 16) else r 0 size
  | 3 => r 0 32 ++ r 40 24
  | 4 => r 4 16
  | 5 => r 4 5 ++ r 12 40
  | 6 => (boundFuncs s a).flatMap SFunc.shape
  | 9 => r 0 20 ++ (List.range (rdN r 12 1)).flatMap fun i => r (32 + 16 * i) 8
  | 10 => r 0 2
  | _ => r 0 size

/-- R56, R57: a version's SHAPE is the asset table's, and the fields R166, R177, R207, R224, R247 and R262 name are those of every resident
version. An SFUNC version holds NSEG entries of 16 bytes (R127, R130). -/
def shapeGood (s : State) (a kind size : Nat) (shape : List Byte) (r : Rd) : Bool :=
  decide (Config.shapeOf a (shapeCover s a kind size r) = shape)
    && (decide (kind ≠ 6) || (boundFuncs s a).all fun f => decide (size = 16 * f.segs.length))
    && (!([1, 3, 4, 5, 9, 10].contains kind)
      || (verifiedVers s a).all fun v => decide (shapeCover s a kind 0 (assetRd s a v) = shapeCover s a kind 0 r))

/-! ## The store pages a version references (R163, R164, R177, R207) -/

/-- Code of page `p` of region `g`. -/
def pageCode (g p : Nat) : Nat := g * 2 ^ 32 + p

/-- The entries, of `n` of a page directory at byte `o`, that a version of `size` bytes holds: a bit beyond its directory reads as 0 (R177). -/
def dirEntries (o size n : Nat) : List Nat := (List.range n).filter fun i => decide (o + 4 * i + 4 ≤ size)

/-- Pages of an index version: of lists and centroids that are not COMPACTED, nodes and tombstones. -/
def indexPages (s : State) (x : Index) (size : Nat) (r : Rd) : List Nat :=
  let nodes := (List.range ((x.centroids + 15) / 16)).map fun i => rdN r (x.nodeDir + 4 * i) 4
  let live := (List.range x.centroids).filter fun n =>
    decide (min (ldNat s x.store (2048 * (nodes.getD (n / 16) 0) + 128 * (n % 16)) 1) 2 ≠ 2)
  let lists := live.flatMap fun n => (List.range (rdN r (x.listDir + 16 * n + 4) 4)).map (rdN r (x.listDir + 16 * n) 4 + ·)
  let cents := live.map fun n => rdN r (x.centDir + 4 * n) 4
  let tombs := (dirEntries x.tombDir size ((x.passages + 16383) / 16384)).map fun i => rdN r (x.tombDir + 4 * i) 4
  (lists ++ cents ++ nodes ++ tombs).map (pageCode x.store)

/-- The store region of a version. -/
def storeOf (s : State) (kind : Nat) (r : Rd) : Nat :=
  match kind with
  | 1 => rdN r 18 2
  | 3 => rdN r 28 2
  | 10 =>
    let ix := rdN r 0 2
    assetNat s ix (currentVer s ix) 18 2
  | _ => 0

/-- The pages a version of `size` bytes references, as codes. -/
def pagesOf (s : State) (a kind size : Nat) (r : Rd) : List Nat :=
  match kind with
  | 1 => indexPages s (indexOfBytes a 0 (r 0 128)) size r
  | 3 =>
    let t := embOf a 0 r
    if t.mode = 2 then []
    else (List.range ((t.rows + t.rpp - 1) / max t.rpp 1)).map fun i => pageCode t.store (rdN r (64 + 4 * i) 4)
  | 10 => (dirEntries 64 size ((rdN r 6 4 + 16383) / 16384)).map fun i => pageCode (storeOf s kind r) (rdN r (64 + 4 * i) 4)
  | _ => []

/-- Whether page records follow a version's body (R60). -/
def hasPages (kind : Nat) : Bool := decide (kind = 1 ∨ kind = 3 ∨ kind = 10)

end Sys2Proof.Machine
end

