-- ==== Sys2Proof/Machine/Ecc.lean ====
section
/-!
DEFINITION. Machine/Ecc.lean: the 72/64 code (spec/22_monitoring.md, R450 to R452).
-/
namespace Sys2Proof.Machine

/-- Table 22.1: the column of each stored bit, 0 to 71. -/
def eccColumns : List Nat :=
  [0x15, 0x25, 0x45, 0x85, 0x19, 0x29, 0x49, 0x89, 0x16, 0x26, 0x46, 0x86, 0x1A, 0x2A, 0x4A, 0x8A, 0x51, 0x52, 0x54, 0x58, 0x91, 0x92,
   0x94, 0x98, 0x61, 0x62, 0x64, 0x68, 0xA1, 0xA2, 0xA4, 0xA8, 0xFE, 0xFD, 0x1C, 0x2C, 0xFB, 0xF7, 0x70, 0xB0, 0xEF, 0xDF, 0xC1, 0xC2,
   0xBF, 0x7F, 0x07, 0x0B, 0x13, 0x23, 0x4C, 0x8C, 0x31, 0x32, 0xC4, 0xC8, 0x34, 0xE0, 0x01, 0x02, 0xD0, 0x83, 0x04, 0x08, 0x43, 0x0E,
   0x10, 0x20, 0x0D, 0x38, 0x40, 0x80]

/-- R450: the stored bit that holds data bit `i`. -/
def eccPlace (i : Nat) : Nat := if i < 56 then i else 56 + 4 * ((i - 56) / 2) + (i - 56) % 2

/-- R450: the stored bit that holds check bit `i`. -/
def eccCheckPlace (i : Nat) : Nat := 58 + 4 * (i / 2) + i % 2

/-- The XOR of the columns of the stored bits that are set. -/
def eccSyndrome (stored : Nat) : Nat :=
  (List.range 72).foldl (fun x i => if bit stored i then Nat.xor x (eccColumns.getD i 0) else x) 0

/-- The data bits of a 64-bit word at their stored places. -/
def eccSpread (data : Nat) : Nat := (List.range 64).foldl (fun x i => if bit data i then x + 2 ^ eccPlace i else x) 0

/-- R451: the 72 stored bits of a 64-bit word. -/
def eccStore (data : Nat) : Nat :=
  let x := eccSpread data
  let c := eccSyndrome x
  (List.range 8).foldl (fun y i => if bit c i then y + 2 ^ eccCheckPlace i else y) x

/-- The 64 data bits of a stored word. -/
def eccData (stored : Nat) : Nat := (List.range 64).foldl (fun x i => if bit stored (eccPlace i) then x + 2 ^ i else x) 0

/-- What a reader finds (R452). -/
inductive EccRead where
  /-- no error -/
  | good (data : Nat)
  /-- a corrected error: the corrected data, and the syndrome -/
  | corrected (data syndrome : Nat)
  /-- an uncorrectable error -/
  | bad (syndrome : Nat)
  deriving DecidableEq, Repr

/-- R452. -/
def eccRead (stored : Nat) : EccRead :=
  let y := eccSyndrome stored
  if y = 0 then .good (eccData stored)
  else
    match eccColumns.findIdx? fun c => c = y with
    | some i => .corrected (eccData (Nat.xor stored (2 ^ i))) y
    | none => .bad y

end Sys2Proof.Machine
end

