-- ==== Sys2Proof/Machine/Link.lean ====
section
/-!
DEFINITION. Machine/Link.lean: the sending side of the Firic link (spec/18_twin.md, R381, R382) and of the journal (R383): frames with their
headers, credit, acknowledgement, and journal entries.
-/
namespace Sys2Proof.Machine

/-- Virtual channel `v`. -/
def vcOf (s : State) (v : Nat) : Vc := tget (fun _ => Vc.reset) s.twin.vcs v

/-- Replace virtual channel `v`. -/
def setVc (s : State) (v : Nat) (x : Vc) : State := { s with
    twin := { s.twin with
      vcs := tset (fun _ => Vc.reset) s.twin.vcs v x } }

/-- Flits of a frame of LEN payload bytes (R381). -/
def flits (len : Nat) : Nat := (36 + len + 255) / 256

/-- Receive buffer of a virtual channel, flits (R382). -/
def vcBuffer (v : Nat) : Nat := match v with | 0 => 64 | 1 => 8192 | _ => 4096

/-- Whether a frame's payload goes under the link key, once the pair secret exists: every Firic payload (R14); R416 names those of JOURNAL,
BULK and MBOX frames (log 62). -/
def underKey (s : State) (f : Frame) : Bool := s.sec.pairSecret.isSome && decide (f.type ≠ 0x3F)

/-- The link key of a sender: A to B, or B to A (R415). -/
def linkKey (s : State) (sender : Bool) : List Byte :=
  match s.sec.pairSecret with
  | some k => slice k (if sender then 32 else 0) 32
  | none => []

/-- Wraps of a channel's SEQ since link-up at frame `q`. -/
def wrapsAt (c : Vc) (q : Nat) : Nat := if c.nextSeq ≤ q then c.wraps - 1 else c.wraps

/-- The nonce of R416. -/
def linkNonce (q wraps v : Nat) (sender : Bool) (epoch : Nat) : List Byte :=
  natLE 4 q ++ natLE 4 wraps ++ natLE 1 v ++ natLE 1 (if sender then 1 else 0) ++ natLE 2 epoch

/-- Bytes of payload on the link: the tag counts (R416). -/
def wireLen (s : State) (f : Frame) : Nat := f.payload.length + (if underKey s f then 16 else 0)

/-- The header of a frame (Table 18.2). -/
def frameHead (s : State) (v : Nat) (f : Frame) : List Byte :=
  let ack (i : Nat) := natLE 4 (vcOf s i).accepted
  let cred (i : Nat) := natLE 2 ((vcOf s i).freed % 65536)
  natLE 1 f.type ++ natLE 1 v ++ natLE 2 (wireLen s f) ++ natLE 4 f.seq ++ ack 0 ++ ack 1 ++ ack 2 ++ cred 0 ++ cred 1 ++ cred 2
    ++ natLE 2 (s.twin.linkEpoch % 65536) ++ natLE 4 0

/-- A frame as it goes out (R381, R416): header, payload, CRC-32C, zeros to whole flits. -/
def frameBytes (s : State) (v : Nat) (f : Frame) : List Byte :=
  let h := frameHead s v f
  let p := if underKey s f then
      gcmSeal (linkKey s s.twin.role) (linkNonce f.seq (wrapsAt (vcOf s v) f.seq) v s.twin.role (s.twin.linkEpoch % 65536)) h f.payload
    else f.payload
  let whole := h ++ p ++ natLE 4 (crc32c (h ++ p))
  whole ++ List.replicate (256 * flits (wireLen s f) - whole.length) 0

/-- Bytes as words of 64 bits, each with the 8 check bits of the 72/64 code (R380). -/
def codeWords : Nat → List Byte → List Nat
  | 0, _ => []
  | n + 1, bs => if bs = [] then [] else eccStore (le bs 0 8) :: codeWords n (bs.drop 8)

/-- A frame leaves the module, word by word under the 72/64 code (R380). -/
def sendOut (s : State) (v : Nat) (f : Frame) : State :=
  let b := frameBytes s v f
  emit s (.firicFrame v f.type f.seq (codeWords (b.length / 8 + 1) b))

/-- R382: start the queued frames of a channel that its credit allows, oldest first; the first `again` of them were sent before, and each
counts as it goes out again. -/
def pump (s : State) (v : Nat) : Nat → State
  | 0 => s
  | n + 1 =>
    let c := vcOf s v
    match c.queue with
    | [] => s
    | f :: q =>
      let k := flits (wireLen s f)
      if s.twin.linkUp ∧ (c.sent + 65536 - c.cred % 65536) % 65536 + k ≤ vcBuffer v then
        let s0 := if 0 < c.again then bump s Reg.TWIN_CNT_RETX else s
        let s1 := setVc s0 v { c with
          queue := q
          again := c.again - 1
          out := c.out ++ [f]
          sent := (c.sent + k) % 65536
          since := if c.out = [] ∧ c.again = 0 then now s else c.since }
        pump (sendOut s1 v f) v n
      else s

/-- Queue a frame on a channel with its next SEQ, and start what may start. -/
def sendFrame (s : State) (v type : Nat) (payload : List Byte) : State :=
  let c := vcOf s v
  let s1 := setVc s v { c with
    nextSeq := (c.nextSeq + 1) % 2 ^ 32
    wraps := if c.nextSeq = 0xFFFFFFFF then c.wraps + 1 else c.wraps
    queue := c.queue ++ [{ type := type, seq := c.nextSeq, payload := payload }] }
  pump s1 v (c.queue.length + 1)

/-- An IDLE frame: no SEQ, no credit (Table 18.3). -/
def sendIdle (s : State) : State :=
  if s.twin.linkUp then sendOut s 0 { type := 0x3F, seq := 0, payload := [] } else s

/-- The bytes of a journal entry (R383), padded to a 16-byte boundary. -/
def entryBytes (kind : Nat) (role : Bool) (reqSeq : Nat) (body : List Byte) : List Byte :=
  let e := natLE 1 kind ++ natLE 1 (if role then 1 else 0) ++ natLE 2 0 ++ natLE 4 body.length ++ natLE 4 reqSeq ++ natLE 4 0 ++ body
  e ++ List.replicate ((16 - e.length % 16) % 16) 0

/-- Send a twin-channel message in an MBOX frame (R375); its layout is in no table: 0 certificate chain and report, 1 ciphertext,
2 a SEAL is pending or took effect, 3 REJOIN. -/
def sendMbox (s : State) (kind : Nat) (bs : List Byte) : State :=
  if s.twin.linkUp then sendFrame s 0 0x12 (Config.mboxBytes kind bs) else s

/-- Send bytes of the journal stream in frames whose LEN stays within 65,500 with its tag. -/
def sendStream (s : State) : Nat → List Byte → State
  | 0, _ => s
  | n + 1, bs => if bs = [] then s else sendStream (sendFrame s 1 0x01 (bs.take 65472)) n (bs.drop 65472)

/-- Whether entries are journalled (Table 18.1): the link is up and the pair PAIRED, or this module is the source of a rejoin that has
sent its state message (R395). -/
def journals (s : State) : Bool :=
  s.twin.linkUp && (decide (s.twin.mode = .paired) ||
    (match s.twin.resync with
      | some r => r.source && (r.sent || r.agreed)
      | none => false))

/-- R383: journal an entry of a role; the JOURNAL SEQ whose acknowledgement covers it. On a module that is not paired nothing is
sent. -/
def journalFor (s : State) (role : Bool) (kind reqSeq : Nat) (body : List Byte) : State × Option Nat :=
  if journals s then
    let e := entryBytes kind role reqSeq body
    let s1 := sendStream s (e.length / 65472 + 1) e
    (s1, some (((vcOf s1 1).nextSeq + 2 ^ 32 - 1) % 2 ^ 32))
  else (s, none)

/-- Journal an entry of this module. -/
def journal (s : State) (kind reqSeq : Nat) (body : List Byte) : State × Option Nat := journalFor s s.twin.role kind reqSeq body

/-- Whether the acknowledged SEQ `a` covers SEQ `n` (R8). -/
def covers (a n : Nat) : Bool := decide (a = n) || serialLt 32 n a

/-- Whether the twin has acknowledged what a command journalled. -/
def acknowledged (s : State) : Option Nat → Bool
  | none => true
  | some n => covers (vcOf s 1).acked n

end Sys2Proof.Machine
end

