-- ==== Sys2Proof/Machine/Host.lean ====
section
/-!
DEFINITION. Machine/Host.lean: queue pairs (spec/16_host_interface.md): completion entries and their DSNs, the ring, the replay window and
the coalesced messages (R329 to R336).
-/
namespace Sys2Proof.Machine

/-! ## Job keys that expire (R413, Table 19.5) -/

/-- How far a 32-bit number has advanced. -/
def advanced (now_ start : Nat) : Nat := (now_ + 2 ^ 32 - start % 2 ^ 32) % 2 ^ 32

/-- R413: whether the HSN, or MSG_ID, `x` of a place is 2^31 or more past the key's opening. -/
def JobKey.expiredAt (k : JobKey) (place x : Nat) : Bool :=
  decide (2 ^ 31 ≤ advanced x (((k.marks.find? fun p => p.1 = place).map (·.2)).getD 0))

/-- Erase the job keys that `gone` names. -/
def eraseKeys (s : State) (gone : JobKey → Bool) : State := { s with
    sec := { s.sec with
      jobKeys := s.sec.jobKeys.filter fun p => !p.2.any gone } }

/-- The job keys of a source that expire at its HSN, or MSG_ID, `x` are erased. -/
def expireSource (s : State) (source place x : Nat) : State :=
  eraseKeys s fun k => decide (k.source = source) && k.expiredAt place x

/-- The job keys that expire at the module's REQ_SEQ counter are erased. -/
def expireSeq (s : State) : State := eraseKeys s fun k => decide (2 ^ 31 ≤ advanced s.serve.nextSeq k.seqAt)

/-! ## Queue pairs -/

/-- Queue pair `q`. -/
def pairOf (s : State) (q : Nat) : Pair := tget (fun _ => Pair.reset) s.host.pairs q

/-- Replace queue pair `q`. -/
def setPair (s : State) (q : Nat) (p : Pair) : State := { s with
    host := { s.host with
      pairs := tset (fun _ => Pair.reset) s.host.pairs q p } }

/-- ENABLE of a pair (Q_CTRL). -/
def qEnabled (s : State) (q : Nat) : Bool := regBit s (Reg.Q_CTRL q) 0
/-- BOUND of a pair (Q_BIND). -/
def qBound (s : State) (q : Nat) : Bool := regBit s (Reg.Q_BIND q) 31
/-- The function a pair is bound to. -/
def qFn (s : State) (q : Nat) : Nat := bits (reg s (Reg.Q_BIND q)) 21 16
/-- The account a pair is bound to. -/
def qAccount (s : State) (q : Nat) : Nat := bits (reg s (Reg.Q_BIND q)) 7 0
/-- Entries of the submission ring. -/
def sqSize (s : State) (q : Nat) : Nat := 2 ^ bits (reg s (Reg.Q_SIZE q)) 4 0
/-- Entries of the completion ring. -/
def cqSize (s : State) (q : Nat) : Nat := 2 ^ bits (reg s (Reg.Q_SIZE q)) 12 8

/-- The completion message of a pair (R330). A silent module sends none (R386). -/
def coalMsg (s : State) (q : Nat) : State :=
  if s.twin.silent then s
  else setPair (emit s (.msix (qFn s q) (bits (reg s (Reg.Q_VECTOR q)) 4 0))) q { pairOf s q with
    since := 0
    timer := none }

/-- R330: an entry has been written: count it, note when the first of the entries was, and send the message when the entry field is reached. -/
def coalesce (s : State) (q : Nat) : State :=
  let p := pairOf s q
  let f := reg s (Reg.Q_COAL q)
  let e := bits f 15 0
  let t := bits f 31 16
  let p1 := { p with
    since := p.since + 1
    timer := match p.timer with
      | some b => some b
      | none => some (now s) }
  let s1 := setPair s q p1
  if (e = 0 ∧ t = 0) ∨ (e ≠ 0 ∧ e ≤ p1.since) then coalMsg s1 q else s1

/-- R324, R333: whether an entry may be written: enabled, a free slot, emissions allowed (R386), the link up. -/
def canWrite (s : State) (q : Nat) : Bool :=
  qEnabled s q && s.host.linkUp && !s.twin.silent && decide ((pairOf s q).filled + 1 < cqSize s q)

/-- Write one entry at the completion tail (R330). -/
def putEntry (s : State) (q : Nat) (bytes : List Byte) (replayed : Bool) : State :=
  let p := pairOf s q
  let flags := (if p.phase then 1 else 0) + (if replayed then 2 else 0)
  let data := bytes.take 5 ++ natLE 1 flags ++ bytes.drop 6
  let s1 := emit s (.hostWrite (qFn s q) (reg64 s (Reg.Q_CQ_BASE q) + 64 * p.cqTail) data)
  let wrap := decide (p.cqTail + 1 = cqSize s q)
  coalesce (setPair s1 q { p with
    cqTail := if wrap then 0 else p.cqTail + 1
    phase := if wrap then !p.phase else p.phase
    filled := p.filled + 1 }) q

/-- The first entry of a window that has not been written. -/
def firstHeld : List Cpl → Option Cpl
  | [] => none
  | c :: cs => if c.written then firstHeld cs else some c

/-- Mark the entry of a DSN written. -/
def markWritten (d : Nat) (l : List Cpl) : List Cpl := l.map fun c => if c.dsn = d then { c with
    written := true } else c

/-- R335: the entry of the window to replay next; none once the replay has come to its end. -/
def nextReplay (p : Pair) : Option Cpl :=
  match p.replay with
  | none => none
  | some d => if d = p.replayEnd then none else p.window.find? fun c => c.dsn = d

/-- R330: the result buffer of an entry is complete before the entry. -/
def putBuffer (s : State) (q : Nat) (c : Cpl) : State :=
  match c.buffer with
  | some (a, d) => emit s (.hostWrite (qFn s q) a d)
  | none => s

/-- R333, R335: write what may be written: a running replay first, in DSN order, then, once it is complete, held entries. -/
def flushPair (s : State) (q : Nat) : Nat → State
  | 0 => s
  | n + 1 =>
    if !canWrite s q then s
    else
      let p := pairOf s q
      match nextReplay p with
      | some c =>
        let s1 := putEntry (if c.written then s else putBuffer s q c) q c.bytes true
        let p1 := pairOf s1 q
        flushPair (setPair s1 q { p1 with
          window := markWritten c.dsn p1.window
          replay := some ((c.dsn + 1) % 2 ^ 32) }) q n
      | none =>
        if p.replay.isSome then s
        else
          match firstHeld p.window with
          | none => s
          | some c =>
            let s1 := putEntry (putBuffer s q c) q c.bytes false
            let p1 := pairOf s1 q
            flushPair (setPair s1 q { p1 with
              window := markWritten c.dsn p1.window }) q n

/-- R334: an entry that leaves the window unwritten is lost; a replay that had come to it goes on after it. -/
def trimWindow (s : State) (q : Nat) : State :=
  let p := pairOf s q
  if p.window.length ≤ 4096 then s
  else
    match p.window with
    | [] => s
    | c :: r =>
      let s1 := setPair s q { p with
        window := r
        replay := if p.replay = some c.dsn then some ((c.dsn + 1) % 2 ^ 32) else p.replay }
      if c.written then s1 else setBits (bump s1 (Reg.Q_CNT_LOST q)) (Reg.Q_INT_STATUS q) 8

/-- One entry takes the next DSN (R330) and is written or held (R333). -/
def postEntry (s : State) (q kind part parts reqSeq hsn : Nat) (buffer : Option (Nat × List Byte)) (payload : List Byte) : State :=
  let p := pairOf s q
  let bytes := natLE 4 p.dsnNext ++ natLE 1 kind ++ natLE 1 0 ++ natLE 1 part ++ natLE 1 parts ++ natLE 4 reqSeq ++ natLE 4 hsn
    ++ (payload ++ List.replicate (48 - payload.length) 0)
  let s1 := trimWindow (setPair s q { p with
    dsnNext := (p.dsnNext + 1) % 2 ^ 32
    window := p.window ++ [{ dsn := p.dsnNext, bytes := bytes, written := false, buffer := buffer }] }) q
  let s2 := flushPair s1 q 1
  match firstHeld (pairOf s2 q).window with
  | none => s2
  | some _ => setBits (bump s2 (Reg.Q_CNT_CQ_WAIT q)) (Reg.Q_INT_STATUS q) 2

/-- The parts of a record, with consecutive DSNs (R330). -/
def postParts (s : State) (q kind parts reqSeq hsn : Nat) : Nat → List (List Byte) → State
  | _, [] => s
  | i, b :: bs => postParts (postEntry s q kind i parts reqSeq hsn none b) q kind parts reqSeq hsn (i + 1) bs

/-- Post a record of one or more parts. -/
def post (s : State) (q kind reqSeq hsn : Nat) (payloads : List (List Byte)) : State :=
  postParts s q kind payloads.length reqSeq hsn 0 payloads

/-- Post an entry that reports a result buffer (R330, R331). -/
def postResult (s : State) (q reqSeq hsn addr : Nat) (payload buf : List Byte) : State :=
  postEntry s q 0x02 0 1 reqSeq hsn (some (addr, buf)) payload

/-- Held entries of every pair follow when space returns. -/
def flushAll (s : State) (q : Nat) : State := flushPair s q 8192

/-! ## Doorbells and control (R323, R324, R335, R336) -/

/-- SQ_TAIL doorbell by requester `n` (R324): refused on a disabled pair or past the ring. -/
def sqDoorbell (s : State) (q v n : Nat) : State :=
  if !qEnabled s q ∨ sqSize s q ≤ v then protocol s 0x0006 (4096 * q) n
  else setPair s q { pairOf s q with
    sqTail := v }

/-- CQ_HEAD doorbell by requester `n` (R324): the slots from the old head to the new one are consumed, and held entries follow. -/
def cqDoorbell (s : State) (q v n : Nat) : State :=
  if !qEnabled s q ∨ cqSize s q ≤ v then protocol s 0x0006 (4096 * q + 4) n
  else
    let p := pairOf s q
    let n := (v + cqSize s q - p.cqHead) % cqSize s q
    flushAll (setPair s q { p with
      cqHead := v
      filled := p.filled - n }) q

/-- COAL_TIMER (R330): a nonzero time field has expired since the first unannounced entry. -/
def coalTimer (s : State) (q : Nat) : State :=
  let t := bits (reg s (Reg.Q_COAL q)) 31 16
  match (pairOf s q).timer with
  | none => s
  | some b => if t ≠ 0 ∧ isDue s (addBeats b t) then coalMsg s q else s

/-- RESYNC (R336), before held entries follow. -/
def resyncPair (s : State) (q : Nat) : State :=
  if !qEnabled s q then s
  else setPair s q { pairOf s q with
    sqHead := 0
    cqTail := 0
    sqTail := 0
    cqHead := 0
    filled := 0
    phase := true }

/-- RESYNC (R336). -/
def qResync (s : State) (q : Nat) : State := if !qEnabled s q then s else flushAll (resyncPair s q) q

/-- RESUME (R326, R336): the pair runs again; its head entry is examined afresh. -/
def qResume (s : State) (q : Nat) : State :=
  if (pairOf s q).gap then setPair s q { pairOf s q with
    gap := false } else s

/-- Pairs bound to function `f`. -/
def boundPairs (s : State) (f : Nat) : List Nat := (List.range 256).filter fun q => qBound s q && decide (qFn s q = f)

/-- Q_BIND (R323): a disabled pair is bound or unbound, and its sequence state cleared. -/
def qBind (s : State) (q v : Nat) : State :=
  let f := bits v 21 16
  if qEnabled s q then protocol s 0x0007 (Reg.Q_BIND q) 1
  else if bit v 31 ∧ ((boundPairs s f).filter fun x => decide (x ≠ q)).length ≥ 16 then protocol s 0x0007 (Reg.Q_BIND q) 1
  else
    let s1 := setReg s (Reg.Q_BIND q) (Nat.land v 0x803F00FF)
    setPair s1 q { pairOf s1 q with
      hsnNext := 0
      dsnNext := 0
      window := []
      replay := none
      replayResult := 0 }

/-- The first DSN of the record that holds the entry of DSN `d`. -/
def recordStart (p : Pair) (d : Nat) : Nat :=
  match p.window.find? fun c => c.dsn = d with
  | some c => (d + 2 ^ 32 - le c.bytes 6 1) % 2 ^ 32
  | none => d

/-- Q_REPLAY_FROM (R335). -/
def qReplay (s : State) (q d : Nat) : State :=
  let p := pairOf s q
  if p.replay.isSome then protocol s 0x0005 (Reg.Q_REPLAY_FROM q) (qFn s q + 1)
  else if d ≠ p.dsnNext ∧ !(p.window.any fun c => c.dsn = d) then setPair s q { p with
    replayResult := 2 }
  else
    let d0 := recordStart p d
    let d1 := if p.window.any fun c => c.dsn = d0 then d0 else d
    flushAll (setPair s q { p with
      replay := some d1
      replayEnd := p.dsnNext }) q

/-- REPLAY_COMPLETE (R335): the replay has reached the last DSN assigned at its start; new entries follow it. -/
def replayComplete (s : State) (q : Nat) : State :=
  let p := pairOf s q
  if p.replay = some p.replayEnd then flushAll (setPair s q { p with
    replay := none
    replayResult := 1 }) q
  else s

/-- COAL_TIMER. -/
def execCoalTimer (q : Nat) (s : State) : Out := done (coalTimer s q)
/-- Q_RESUME. -/
def execQResume (q : Nat) (s : State) : Out := host s (Reg.Q_CTRL q) fun s => qResume s q
/-- Q_BIND. -/
def execQBind (q v : Nat) (s : State) : Out := host s (Reg.Q_BIND q) fun s => qBind s q v

end Sys2Proof.Machine
end

