-- ==== Sys2Proof/Machine/Select.lean ====
section
/-!
DEFINITION. Machine/Select.lean: selection units (spec/10_selection.md): SEL_TOPK (R195), SEL_MERGE (R196, R197), runs and their
delivery (R194, R200), the result record (R205) and the cross-module merge of a search result (R203, R204).
-/
namespace Sys2Proof.Machine

/-! ## Entries and runs as bytes -/

/-- Table 10.1. -/
def SelEntry.toBytes (e : SelEntry) : List Byte := natLE 4 (unsigned 32 e.score) ++ natLE 4 e.id ++ natLE 8 e.pos

/-- Table 10.1. -/
def selEntryOf (bs : List Byte) : SelEntry := { score := signed 32 (le bs 0 4), id := le bs 4 4, pos := le bs 8 8 }

/-- R191. -/
def sentinel : SelEntry := { score := -2147483648, id := 0xFFFFFFFF, pos := 2 ^ 64 - 1 }

/-- Whether an entry is valid: no valid one has the sentinel's score (R191). -/
def SelEntry.isValid (e : SelEntry) : Bool := decide (e.score ≠ -2147483648)

/-- A run of no entry. -/
def Run.empty : Run := { tailTies := 0, dup := 0, flags := 0, entries := [] }

/-- R194: the header and the entries of a run. -/
def Run.toBytes (r : Run) : List Byte :=
  natLE 2 r.entries.length ++ natLE 2 r.tailTies ++ natLE 4 r.dup ++ natLE 2 r.flags ++ natLE 6 0
    ++ r.entries.flatMap SelEntry.toBytes

/-- R194. -/
def runOf (bs : List Byte) : Run :=
  { tailTies := le bs 2 2, dup := le bs 4 4, flags := le bs 8 2,
    entries := (List.range (le bs 0 2)).map fun i => selEntryOf (slice bs (16 + 16 * i) 16) }

/-- A run stored in the scratchpad. -/
def runAt (s : State) (c x : Nat) : Run := runOf (spRead s c x (16 + 16 * spNat s c x 2))

/-! ## Keys of values (R192) -/

/-- The ordered score of an FP32 code. -/
def valueKey (code : Nat) : Int := if code < 2 ^ 31 then (code : Int) else -((code % 2 ^ 31 : Nat) : Int)

/-- Whether an FP32 code is a NaN. -/
def isNan32 (code : Nat) : Bool := decide (code / 2 ^ 23 % 256 = 255) && decide (code % 2 ^ 23 ≠ 0)

/-- The entry of value `code` of token `t` (R190). -/
def valueEntry (t code : Nat) : SelEntry := { score := valueKey code, id := t, pos := t % 2 ^ 32 * 65536 }

/-! ## SEL_TOPK (R195, R196) -/

/-- A pass under UNIQUE: the best 64 items after `last`; an item whose global ID is held or emitted is dropped. -/
def uniquePass (cap : Nat) (last : Option SelEntry) (emitted : List Nat) (items : List SelEntry) : List SelEntry × Nat :=
  items.foldl (fun acc e =>
    let follows := match last with
      | some l => l.before e
      | none => true
    if !follows then acc
    else if emitted.contains e.gid ∨ acc.1.any (fun a => a.gid = e.gid) then (acc.1, acc.2 + 1)
    else ((selInsert e acc.1).take cap, acc.2)) ([], 0)

/-- The passes of R195, each of the 64 best items: what they hold, and the items dropped. -/
def uniquePasses (items : List SelEntry) : Nat → List SelEntry → List SelEntry × Nat
  | 0, out => (out, 0)
  | n + 1, out =>
    let p := uniquePass 64 out.getLast? (out.map SelEntry.gid) items
    let r := uniquePasses items n (out ++ p.1)
    (r.1, r.2 + p.2)

/-- SEL_TOPK under UNIQUE (R195): one pass of the K best for K ≤ 64, else the passes. -/
def uniqueTopk (k : Nat) (items : List SelEntry) : List SelEntry × Nat :=
  if k ≤ 64 then uniquePass k none [] items
  else let r := uniquePasses items ((k + 63) / 64) []; (r.1.take k, r.2)

/-- Without UNIQUE: the better of two occurrences of a global ID is kept, the other is a duplicate (R196). -/
def dedupPass (k : Nat) (items : List SelEntry) : List SelEntry × Nat :=
  items.foldl (fun acc e =>
    match acc.1.find? fun a => a.gid = e.gid with
    | some a => if e.before a then (selInsert e (acc.1.erase a), acc.2 + 1) else (acc.1, acc.2 + 1)
    | none => ((selInsert e acc.1).take k, acc.2)) ([], 0)

/-- R197 over the input of a SEL_TOPK: occurrences left out whose score is that of the last output, duplicates of an output apart. -/
def tiesOf (k : Nat) (out items : List SelEntry) : Nat :=
  match out.getLast? with
  | none => 0
  | some l =>
    if out.length < k then 0
    else
      (items.filter fun e => decide (e.score = l.score) && !(out.any fun o => o.gid = e.gid)).length

/-- Flag bits of Table 10.4. -/
def flagTie : Nat := 2
/-- SECTION_SHORT. -/
def flagShort : Nat := 32
/-- NAN_SEEN. -/
def flagNan : Nat := 512

/-- What SEL_TOPK makes of its items, a sentinel among them left out (R191): the run, and the items dropped under UNIQUE. -/
def topk (unique : Bool) (k : Nat) (all : List SelEntry) (nans : Nat) : Run × Nat :=
  let items := all.filter SelEntry.isValid
  let r := if unique then uniqueTopk k items else dedupPass k items
  let ties := min (tiesOf k r.1 items) 0xFFFF
  ({ tailTies := ties, dup := if unique then 0 else min r.2 0xFFFFFFFF,
     flags := (if ties = 0 then 0 else flagTie) + (if nans = 0 then 0 else flagNan), entries := r.1 },
   if unique then r.2 else 0)

/-! ## SEL_MERGE (R196, R197) -/

/-- Walk the entries in order: until `k` are emitted, then while the head still scores the last output's score. The emitted
entries, duplicates met, ties excluded. -/
def mergeWalk (k : Nat) : List SelEntry → List SelEntry → Nat → Nat → List SelEntry × Nat × Nat
  | [], out, d, t => (out, d, t)
  | e :: es, out, d, t =>
    let isDup := out.any fun o => o.gid = e.gid
    if out.length < k then
      if isDup then mergeWalk k es out (d + 1) t else mergeWalk k es (out ++ [e]) d t
    else
      match out.getLast? with
      | none => (out, d, t)
      | some l =>
        if e.score ≠ l.score then (out, d, t)
        else if isDup then mergeWalk k es out (d + 1) t else mergeWalk k es out d (t + 1)

/-- R196, R197: the merge of runs, sentinels among their entries left out (R191): its run, with the duplicates this merge itself met. -/
def mergeRuns (k : Nat) (given : List Run) : Run × Nat :=
  let runs := given.map fun r => { r with entries := r.entries.filter SelEntry.isValid }
  let all := (runs.flatMap (·.entries)).foldl (fun acc e => selInsert e acc) []
  let w := mergeWalk k all [] 0 0
  let tails := match w.1.getLast? with
    | none => 0
    | some l =>
      if w.1.length < k then 0
      else (runs.map fun r =>
        match r.entries.getLast? with
        | some e => if e.score = l.score then r.tailTies else 0
        | none => 0).foldl (· + ·) 0
  let ties := min (w.2.2 + tails) 0xFFFF
  ({ tailTies := ties, dup := min (w.2.1 + (runs.map (·.dup)).foldl (· + ·) 0) 0xFFFFFFFF,
     flags := Nat.lor ((runs.map (·.flags)).foldl Nat.lor 0) (if ties = 0 then 0 else flagTie), entries := w.1 }, w.2.1)

/-! ## The result record (R205, Table 10.4) -/

/-- The fields of a result record header. -/
structure RecordHead where
  kind : Nat
  k : Nat
  valid : Nat
  matched : Nat := 0
  flags : Nat
  ties : Nat
  dupCore : Nat := 0
  dupMerge : Nat
  dupPod : Nat := 0
  deadEdges : Nat := 0
  scoreKey : Nat := 0
  shardCount : Nat := 1
  shards : Nat := 1
  deriving DecidableEq, Repr

/-- Table 10.4. -/
def RecordHead.toBytes (h : RecordHead) : List Byte :=
  natLE 2 0x5E1C ++ natLE 2 h.kind ++ natLE 2 h.k ++ natLE 2 h.valid ++ natLE 4 h.matched ++ natLE 2 h.flags ++ natLE 2 h.ties
    ++ natLE 4 h.dupCore ++ natLE 4 h.dupMerge ++ natLE 4 h.dupPod ++ natLE 4 h.deadEdges ++ natLE 8 h.scoreKey
    ++ natLE 2 h.shardCount ++ natLE 2 h.shards ++ natLE 20 0

/-- R205: a record: the header, the valid entries, and sentinels up to K. -/
def recordBytes (h : RecordHead) (es : List SelEntry) : List Byte :=
  h.toBytes ++ (es ++ List.replicate (h.k - es.length) sentinel).flatMap SelEntry.toBytes

/-- Flags of a search request for its record (Table 10.4). -/
def searchFlags (r : Req) : Nat :=
  (if r.round2 then 4 else 0) + (if r.probeShort then 8 else 0) + (if r.segBad then 16 else 0) + (if r.shardLate then 64 else 0)
    + (if r.keyMismatch then 128 else 0) + (if r.shardDup then 256 else 0)

/-- The flags of a record (R194, R197, R205): those raised below, FILTER_SHORT and TIE_AT_K as this selection finds them, and
SECTION_SHORT where a part was missing. -/
def selFlags (k valid ties below : Nat) (short : Bool) : Nat :=
  Nat.lor (below / 4 * 4) ((if valid < k then 1 else 0) + (if valid = k ∧ 0 < ties then 2 else 0) + (if short then 32 else 0))

/-- SCORE_KEY of the INDEX version pinned to a request. -/
def pinnedKey (s : State) (r : Req) : Nat :=
  match pinnedIndex s r.vset with
  | some x => x.scoreKey
  | none => 0

/-- The first-stage record of a request (R186, R205). -/
def searchRecord (s : State) (r : Req) (f : SelResult) : List Byte :=
  recordBytes
    { kind := 1, k := f.k, valid := f.entries.length, matched := r.matched,
      flags := Nat.lor (searchFlags r) (selFlags f.k f.entries.length f.ties f.flags r.short), ties := f.ties,
      dupCore := r.dupCore, dupMerge := f.dup, dupPod := f.dupPod, deadEdges := r.deadEdges,
      scoreKey := pinnedKey s r, shardCount := r.shardCount, shards := f.shards } f.entries

/-- The re-rank record (R261). -/
def rerankRecord (s : State) (r : Req) (f : SelResult) : List Byte :=
  recordBytes
    { kind := 2, k := f.k, valid := f.entries.length,
      flags := selFlags f.k f.entries.length f.ties f.flags r.short, ties := f.ties, dupMerge := f.dup,
      scoreKey := pinnedKey s r } f.entries

/-! ## Runs on their way (R194, R200) -/

/-- Key of run slot `i` of unit `u`. -/
def slotKey (u i : Nat) : Nat := u * 64 + i

/-- The run in a slot. -/
def slotRun (s : State) (u i : Nat) : Option Run := tget (fun _ => none) s.sel.slots (slotKey u i)

/-- Write a run slot. -/
def setSlot (s : State) (u i : Nat) (r : Option Run) : State := { s with
    sel := { s.sel with
      slots := tset (fun _ => none) s.sel.slots (slotKey u i) r } }

/-- Log a selection event of unit `u`. -/
def logSel (s : State) (code u x : Nat) : State :=
  logErr s { code := code, cls := 3, die := u / 128, unit := u, sect := (groupSection s u).getD 0xFFFF, addr := x }

/-- Whether a run was issued in an earlier step than that of unit `u`'s section, whose boundary cleared the slots (R200). -/
def staleRun (s : State) (u : Nat) (f : RunFlight) : Bool :=
  match groupSection s u with
  | none => false
  | some i => decide (f.beat + 1 < (tget (fun _ => StepSt.reset) s.steps i).at_)

/-- RUN_DELIVERY (R194): the next run on its way from unit `u`'s own cores (DEST 1), or to it as a parent (DEST 2), enters its
slot; an occupied slot drops the run. A run of before the unit's last step boundary is discarded (R200), and a unit that is not AVAILABLE, or
whose epoch the run does not carry, answers UNIT_UNAVAILABLE (R444). -/
def runDelivery (s : State) (u : Nat) (parent : Bool) : State :=
  match s.sel.flight.find? fun f => decide (f.parent = parent) && (parent || decide (f.core / 64 = u)) with
  | none => s
  | some f =>
    let s1 := { s with
      sel := { s.sel with
        flight := s.sel.flight.erase f } }
    let g := f.core / 64
    let sent := if parent then learned s g 1 u else f.target
    if (unitSt s 1 u).mode ≠ .available ∨ sent ≠ (unitSt s 1 u).epoch then bump (learn s1 g 1 u) Reg.TOPO_CNT_UNAVAIL
    else if staleRun s u f then s1
    else match slotRun s1 u f.slot with
    | some _ => setBits (logSel s1 0x0024 u f.slot) Reg.SEL_INT_STATUS 8
    | none => setSlot s1 u f.slot (some f.run)

/-- Where the outputs of a selection word go (Table 10.2, DEST). -/
def putRun (s : State) (c dest slot x : Nat) (bytes : List Byte) (r : Run) : State :=
  match dest with
  | 0 => spWrite s c x bytes
  | 1 => { s with
      sel := { s.sel with
        flight := s.sel.flight ++ [{ core := c, slot := slot, parent := false, run := r, beat := s.time.beat, target := learned s (c / 64) 1 (c / 64) }] } }
  | _ => { s with
      sel := { s.sel with
        flight := s.sel.flight ++ [{ core := c, slot := slot, parent := true, run := r, beat := s.time.beat, target := 0 }] } }

/-! ## The words -/

/-- Bytes of an item of SEL_TOPK. -/
def itemBytes (kind : Nat) : Nat := match kind with | 0 => 16 | 1 => 4 | _ => 2

/-- The ranges of a SEL_TOPK (Table 10.2). -/
def topkReach (_ : Core) (w : Nat) : List Access :=
  ⟨4 * bits w 103 87, itemBytes (bits w 119 118) * (bits w 86 67 + 1), false⟩
    :: (if bits w 48 47 = 0 then [⟨4 * bits w 40 24, 16 + 16 * (bits w 116 104 + 1), true⟩] else [])

/-- The items of a SEL_TOPK, and the NaN values left out (R192). -/
def topkItems (s : State) (c w : Nat) : List SelEntry × Nat :=
  let x := 4 * bits w 103 87
  let n := bits w 86 67 + 1
  match bits w 119 118 with
  | 0 => ((List.range n).map fun i => selEntryOf (spRead s c (x + 16 * i) 16), 0)
  | k =>
    let codes := (List.range n).map fun i =>
      if k = 1 then spNat s c (x + 4 * i) 4 else spNat s c (x + 2 * i) 2 * 65536
    let live := ((List.range n).zip codes).filter fun p => !isNan32 p.2
    (live.map fun p => valueEntry (bits w 66 49 + p.1) p.2, n - live.length)

/-- Log `n` items dropped under UNIQUE (R195). -/
def logUnique (s : State) (u : Nat) : Nat → State
  | 0 => s
  | n + 1 => logUnique (logSel s 0x0025 u 0) u n

/-- SEL_TOPK takes effect. -/
def topkEffect (s : State) (c : Nat) (k : Core) (w : Nat) : State :=
  let it := topkItems s c w
  let r := topk (bit w 117) (bits w 116 104 + 1) it.1 it.2
  let s1 := bumpBy s Reg.SEL_CNT_NAN it.2
  let s2 := if r.2 = 0 then s1
    else setBits (bumpBy (logUnique s1 (c / 64) r.2) Reg.SEL_CNT_DUP_UNIQUE r.2) Reg.SEL_INT_STATUS 4
  let s3 := putRun s2 c (bits w 48 47) (bits w 46 41) (4 * bits w 40 24) r.1.toBytes r.1
  modCore s3 c fun k' => (startDma k' (topkReach k w) (some (bits w 23 20)) none).advance

/-- The ranges of a SEL_MERGE (Table 10.3). -/
def mergeReach (_ : Core) (w : Nat) : List Access :=
  if bits w 96 95 = 0 then [⟨4 * bits w 88 72, (if bit w 67 then 64 else 16) + 16 * (bits w 109 97 + 1), true⟩] else []

/-- R200: a SEL_MERGE waits for a run in each of its slots. -/
def selMergeReady (s : State) (c w : Nat) : Bool :=
  (List.range (bits w 119 114 + 1)).all fun i => (slotRun s (c / 64) i).isSome

/-- The request whose result a merge word forms: an item of the segment the core runs. -/
def mergeReq (s : State) (k : Core) : Option Req :=
  match k.current with
  | none => none
  | some g =>
    match g.items with
    | i :: _ => reqOf s i
    | [] => none

/-- What level 4 found for a request whose merge is done (R199, R204): duplicates, and shards merged; else none and the module alone. -/
def podCounts (r : Req) : Nat × Nat :=
  match r.first with
  | some f => (f.dupPod, f.shards)
  | none => (0, 1)

/-- The record a SEL_MERGE writes (R205): DUP of its runs counts levels 1 to 3, DUP_CORE is that of the candidate lists (R199). -/
def mergeRecord (s : State) (k : Core) (w : Nat) (m : Run × Nat) (short : Bool) : List Byte :=
  let kk := bits w 109 97 + 1
  let fl (sh : Bool) := selFlags kk m.1.entries.length m.1.tailTies m.1.flags sh
  match bits w 113 110, mergeReq s k with
  | 1, some r =>
    recordBytes
      { kind := 1, k := kk, valid := m.1.entries.length, matched := r.matched, flags := Nat.lor (searchFlags r) (fl (short || r.short)),
        ties := m.1.tailTies, dupCore := r.dupCore, dupMerge := m.1.dup, dupPod := (podCounts r).1, deadEdges := r.deadEdges,
        scoreKey := pinnedKey s r, shardCount := r.shardCount, shards := (podCounts r).2 } m.1.entries
  | 2, some r =>
    recordBytes
      { kind := 2, k := kk, valid := m.1.entries.length, flags := Nat.lor (fl (short || r.short)) (if r.rrNan then flagNan else 0),
        ties := m.1.tailTies, dupMerge := m.1.dup, scoreKey := pinnedKey s r } m.1.entries
  | kd, _ => recordBytes { kind := kd, k := kk, valid := m.1.entries.length, flags := fl short, ties := m.1.tailTies, dupMerge := m.1.dup } m.1.entries

/-- SEL_MERGE over the runs its slots hold; `short` when some are missing (R200). Its slots are emptied. -/
def selMergeRun (s : State) (c : Nat) (k : Core) (w : Nat) (short : Bool) : State :=
  let u := c / 64
  let n := bits w 119 114 + 1
  let runs := (List.range n).filterMap fun i => slotRun s u i
  let m := mergeRuns (bits w 109 97 + 1) runs
  let m1 : Run := if short then { m.1 with
      flags := Nat.lor m.1.flags flagShort } else m.1
  let s1 := (List.range n).foldl (fun s' i => setSlot s' u i none) s
  let s2 := if short then bump s1 Reg.SEL_CNT_SHORT else s1
  let rec_ := bit w 67 && decide (bits w 96 95 = 0)
  let s3 := if rec_ ∧ m1.entries.length = bits w 109 97 + 1 ∧ 0 < m1.tailTies then bump s2 Reg.SEL_CNT_TIE_AT_K else s2
  let bytes := if rec_ then mergeRecord s k w (m1, m.2) short else m1.toBytes
  putRun s3 c (bits w 96 95) (bits w 94 89) (4 * bits w 88 72) bytes m1

/-- SEL_MERGE takes effect. -/
def selMergeEffect (s : State) (c : Nat) (k : Core) (w : Nat) : State :=
  modCore (selMergeRun s c k w false) c fun k' => (startDma k' (mergeReach k w) (some (bits w 71 68)) none).advance

/-- What holds a SEL_MERGE back. -/
def selMergeHold (s : State) (c : Nat) (k : Core) (w : Nat) : Option Hold :=
  if selMergeReady s c w then rangeHold k (mergeReach k w) else some .other

/-- R200: a step ends; a SEL_MERGE that still waits uses the runs that are present. -/
def endMerge (s : State) (c : Nat) : State :=
  match wordOf s c 0x61 with
  | none => s
  | some w => selMergeRun s c (core s c) w true

/-- R200: the slots of a section's units, and the runs on their way from its cores, are cleared at its step boundary. -/
def clearUnits (s : State) (gs : List Nat) : State :=
  { s with
    sel := { s.sel with
      slots := s.sel.slots.filter fun p => !(gs.contains (p.1 / 64))
      flight := s.sel.flight.filter fun f => !(gs.contains (f.core / 64)) } }

/-- SEL_TOPK (R195). -/
def execSelTopk (c : Nat) (s : State) : Out :=
  finish (issue s c 0x60 topkReach (fun k w => rangeHold k (topkReach k w)) fun s' k w => topkEffect s' c k w)

/-- SEL_MERGE (R193). -/
def execSelMerge (c : Nat) (s : State) : Out :=
  finish (issue s c 0x61 mergeReach (selMergeHold s c) fun s' k w => selMergeEffect s' c k w)

/-- RUN_DELIVERY (R194). -/
def execRunDelivery (u : Nat) (parent : Bool) (s : State) : Out := done (runDelivery s u parent)

/-! ## The first-stage result of a request (R198, R203, R204) -/

/-- The run a core delivers of its candidate list (R194, R198): its first K entries, and as TAIL_TIES the occurrences left out, in the
list or by it, whose score is that of the last. -/
def candRun (k : Nat) (l : List SelEntry) (tied : List SelEntry) : Run :=
  let es := l.take k
  let ties := match es.getLast?, l.getLast? with
    | some a, some z =>
      ((l.drop k).filter fun e => decide (e.score = a.score)).length + (if z.score = a.score then tied.length else 0)
    | _, _ => 0
  { tailTies := min ties 0xFFFF, dup := 0, flags := 0, entries := es }

/-- The level-3 run of a query: the merge of its cores' runs. R198 has every shape of the tree give one result, so one merge stands
for levels 1 to 3 (log 28). -/
def levelThree (r : Req) : Run :=
  (mergeRuns r.search.k (r.cands.map fun p => candRun r.search.k p.2 (tget (fun _ => []) r.candTied p.1))).1

/-- The run that leaves the module (R194, R199): the duplicates and the flags of every level below come with it. -/
def sentRun (r : Req) : Run :=
  let m := levelThree r
  { m with
    dup := min (m.dup + r.dupCore) 0xFFFFFFFF
    flags := Nat.lor m.flags (Nat.lor (searchFlags r) (if r.short then flagShort else 0)) }

/-- Whether this module performs level 4 for the request: alone, or its SHARD_ID is ROOT_SHARD (R203). -/
def isRoot (s : State) (r : Req) : Bool :=
  decide (r.shardCount ≤ 1) ||
    (match pinnedIndex s r.vset with
      | some x => decide (x.shard = r.rootShard)
      | none => true)

/-- R186, R204: the merged result becomes the request's first-stage result, and its counts are taken. The duplicates that the other shards'
runs bring count in DUP_MERGE (log 28). -/
def finishSearch (s : State) (k : Nat) (r : Req) : State :=
  let own := levelThree r
  let m := mergeRuns r.search.k (own :: r.remote.map (·.run))
  let res : SelResult :=
    { kind := 1, k := r.search.k, entries := m.1.entries, ties := m.1.tailTies,
      dup := min (own.dup + (r.remote.map (·.run.dup)).foldl (· + ·) 0) 0xFFFFFFFF, dupPod := if r.remote = [] then 0 else m.2, flags := m.1.flags,
      shards := 1 + r.remote.length }
  let s1 := setReq s k (some { r with
    first := some res
    resident := false })
  let s2 := if res.entries.length < r.search.k then bump s1 Reg.SEARCH_CNT_FILTER_SHORT else s1
  if res.entries.length = r.search.k ∧ 0 < res.ties then bump s2 Reg.SEL_CNT_TIE_AT_K else s2

/-- R204: the merge may start: every shard's run has come, or the edge is past D. -/
def mergeDue (s : State) (r : Req) : Bool :=
  match r.mergeBy with
  | none => false
  | some d => r.first.isNone && (decide (r.remote.length + 1 = r.shardCount) || isDue s d)

/-- POD_MERGE_START (R204): level 4 of request `k` starts when it is due; shards that are missing were late. -/
def podMergeStart (s : State) (k : Nat) : State :=
  match reqOf s k with
  | none => s
  | some r => if mergeDue s r then finishSearch s k r else s

/-- POD_MERGE_START. -/
def execPodMergeStart (k : Nat) (s : State) : Out := done (podMergeStart s k)

end Sys2Proof.Machine
end

