-- ==== Sys2Proof/Machine/Pod.lean ====
section
/-!
DEFINITION. Machine/Pod.lean: the pod transport (spec/17_pod_ports.md): peers and their streams (R348 to R355), the receive pipeline (R359
to R361), gates (R363, R364), shapers (R365, R366) and the deficit round robin (R367).
-/
namespace Sys2Proof.Machine

/-- Port `n`. -/
def portOf (s : State) (n : Nat) : Port := tget (fun _ => Port.reset) s.pod.ports n
/-- Replace port `n`. -/
def setPort (s : State) (n : Nat) (x : Port) : State := { s with
    pod := { s.pod with
      ports := tset (fun _ => Port.reset) s.pod.ports n x } }
/-- Peer `i` of port `n`. -/
def peerOf (s : State) (n i : Nat) : Peer := tget (fun _ => Peer.reset) s.pod.peers (n * 256 + i)
/-- Replace peer `i` of port `n`. -/
def setPeer (s : State) (n i : Nat) (x : Peer) : State := { s with
    pod := { s.pod with
      peers := tset (fun _ => Peer.reset) s.pod.peers (n * 256 + i) x } }
/-- Meter `i` of port `n`. -/
def meterOf (s : State) (n i : Nat) : Meter := tget (fun _ => Meter.reset) s.pod.meters (n * 1024 + i)
/-- Replace meter `i` of port `n`. -/
def setMeter (s : State) (n i : Nat) (x : Meter) : State := { s with
    pod := { s.pod with
      meters := tset (fun _ => Meter.reset) s.pod.meters (n * 1024 + i) x } }
/-- Class `c` of port `n`. -/
def classOf (s : State) (n c : Nat) : Class := tget (fun _ => Class.reset) s.pod.classes (n * 8 + c)
/-- Replace class `c` of port `n`. -/
def setClass (s : State) (n c : Nat) (x : Class) : State := { s with
    pod := { s.pod with
      classes := tset (fun _ => Class.reset) s.pod.classes (n * 8 + c) x } }

/-- ENABLE of a peer (Table 17.7). -/
def Peer.enabled (p : Peer) : Bool := bit p.ctrl 0
/-- KIND CLIENT. -/
def Peer.client (p : Peer) : Bool := bit p.ctrl 1
/-- Traffic class. -/
def Peer.cls (p : Peer) : Nat := bits p.ctrl 4 2
/-- Account of a CLIENT peer. -/
def Peer.account (p : Peer) : Nat := bits p.ctrl 15 8

/-- Whether a port carries frames: enabled, its link up, and not resetting. -/
def portRuns (s : State) (n : Nat) : Bool :=
  regBit s (Reg.POD_CTRL n) 0 && (portOf s n).linkUp && decide ((unitSt s 3 n).mode ≠ .resetting)

/-! ## Frames out (R346, R349) -/

/-- The frame on the wire without its FCS: Ethernet header in network order, pod header, payload, padding to 60 bytes. -/
def wireFrame (s : State) (n : Nat) (p : Peer) (f : PodFrame) (colour : Nat) : List Byte :=
  let h := natLE 1 f.type ++ natLE 1 (1 + 16 * colour) ++ natLE 2 p.conn ++ natLE 2 p.epoch ++ natLE 2 0 ++ natLE 4 f.seq
    ++ natLE 4 ((p.rxNext + 2 ^ 32 - 1) % 2 ^ 32) ++ natLE 4 f.msgId ++ natLE 2 f.part ++ natLE 2 f.parts ++ natLE 2 f.payload.length
    ++ natLE 2 0
  let b := natBE 6 p.mac ++ natBE 6 (reg64 s (Reg.POD_MAC n) % 2 ^ 48) ++ natBE 2 (bits (reg s (Reg.POD_ETHERTYPE n)) 15 0) ++ h
    ++ natLE 4 (crc32c (h ++ f.payload)) ++ f.payload
  b ++ List.replicate (60 - b.length) 0

/-- A built frame joins a class queue (R362). -/
def joinQueue (s : State) (n c : Nat) (bs : List Byte) : State :=
  let k := classOf s n c
  setClass s n c { k with
    queue := k.queue ++ [bs]
    joined := k.joined + 1 }

/-- A frame to a peer joins its class's queue; what it acknowledges needs no ACK frame (R353). -/
def putFrame (s : State) (n i : Nat) (f : PodFrame) : State :=
  let p := peerOf s n i
  setPeer (joinQueue s n p.cls (wireFrame s n p f 0)) n i { p with
    unacked := 0 }

/-- An ACK frame joins the POD_ACK_TC queue (R353). -/
def sendAck (s : State) (n i : Nat) : State :=
  let p := peerOf s n i
  let f : PodFrame := { type := 0x3F, seq := 0, msgId := 0, part := 0, parts := 1, payload := [], since := 0, token := false }
  setPeer (joinQueue s n (bits (reg s (Reg.POD_ACK_TC n)) 2 0) (wireFrame s n p f 0)) n i { p with
    unacked := 0 }

/-- R354: waiting frames take their SEQ and go out while the peer is UP and its window of 512 has room. -/
def pumpPeer (s : State) (n i : Nat) : Nat → State
  | 0 => s
  | k + 1 =>
    let p := peerOf s n i
    match p.waiting with
    | [] => s
    | f :: w =>
      if !p.enabled ∨ p.down ∨ 512 ≤ p.out.length then s
      else
        let g := { f with
          seq := p.txNext }
        let s1 := setPeer s n i { p with
          waiting := w
          out := p.out ++ [g]
          txNext := (p.txNext + 1) % 2 ^ 32
          rtoSince := if p.out = [] then now s else p.rtoSince }
        pumpPeer (putFrame s1 n i g) n i k

/-- The payloads of a message's parts, at most 8,192 bytes each. -/
def partsOf : Nat → List Byte → List (List Byte)
  | 0, _ => []
  | n + 1, bs => if bs.length ≤ 8192 then [bs] else bs.take 8192 :: partsOf n (bs.drop 8192)

/-- Send a message to a peer (R350, R351). -/
def podSend (s : State) (n i type : Nat) (body : List Byte) (token : Bool) : State :=
  let p := peerOf s n i
  if !p.enabled ∨ s.twin.silent then s
  else
    let ps := partsOf (body.length / 8192 + 1) body
    let fs := (List.range ps.length).map fun k =>
      ({ type := type, seq := 0, msgId := p.msgNext, part := k, parts := ps.length, payload := ps.getD k [], since := now s,
         token := token } : PodFrame)
    let s1 := setPeer s n i { p with
      waiting := p.waiting ++ fs
      msgNext := (p.msgNext + 1) % 2 ^ 32 }
    pumpPeer s1 n i (p.waiting.length + fs.length)

/-! ## Restarting a stream (R355) -/

/-- Messages of a list of frames; a HELLO belongs to none. -/
def messageCount (fs : List PodFrame) : Nat := ((fs.filter fun f => decide (f.type ≠ 0x3E)).map (·.msgId)).eraseDups.length

/-- R355: SEQ 0, a new epoch, the receive side UNSYNCED, and a HELLO. A message received in part is given up (log 53). -/
def restartPeer (s : State) (n i : Nat) : State :=
  let p := peerOf s n i
  let lost := messageCount (p.out ++ p.waiting)
  let s1 := bumpBy s (Reg.POD_CNT_LOST n) lost
  let s2 := if lost = 0 then s1 else setBits s1 (Reg.POD_INT_STATUS n) 4
  let hello : PodFrame :=
    { type := 0x3E, seq := 0, msgId := 0, part := 0, parts := 1, payload := [], since := now s, token := false }
  let s3 := setPeer s2 n i { p with
    down := false
    epoch := (p.epoch + 1) % 65536
    unsynced := true
    txNext := 0
    txAcked := 0xFFFFFFFF
    out := []
    waiting := [hello]
    partial_ := none
    timeouts := 0
    rtoSince := now s }
  pumpPeer s3 n i 1

/-- RESTART (R355). -/
def restart (s : State) (n i : Nat) : State := if (peerOf s n i).enabled then restartPeer s n i else s

/-- A write of PEER_CTRL (R355, R372): other fields change only while ENABLE is 0; enabling restarts the stream. -/
def peerCtrl (s : State) (n i v : Nat) : State :=
  let p := peerOf s n i
  if p.enabled then
    if bit v 0 then s else setPeer s n i { p with
      ctrl := p.ctrl - 1 }
  else
    let s1 := setPeer s n i { p with
      ctrl := Nat.land v 0x7FFFF1F }
    if bit v 0 then restartPeer s1 n i else s1

/-! ## Frames in (R359) -/

/-- Where the EtherType stands: one 802.1Q tag is ignored (R346). -/
def etherAt (bs : List Byte) : Nat := if leNat (slice bs 12 2).reverse = 0x8100 then 16 else 12

/-- The frame types of Table 17.3. -/
def podTypes : List Nat := [0x01, 0x02, 0x08, 0x10, 0x11, 0x12, 0x20, 0x21, 0x22, 0x30, 0x3E, 0x3F]

/-- R349, R350: version, reserved bits, length, CRC and type of a pod header and its payload; bytes behind LEN fill the frame up to the
Ethernet minimum of 46 behind the EtherType, with zeros. -/
def headerGood (h : List Byte) : Bool :=
  let len := le h 24 2
  decide (bits (le h 1 1) 3 0 = 1) && decide (bits (le h 1 1) 7 6 = 0) && decide (le h 6 2 = 0) && decide (le h 26 2 = 0)
    && decide (len ≤ 8192) && decide (32 + len ≤ h.length) && decide (h.length ≤ max 46 (32 + len))
    && (h.drop (32 + len)).all (fun b => decide (b = 0)) && decide (le h 28 4 = crc32c (h.take 28 ++ slice h 32 len))
    && podTypes.contains (le h 0 1)

/-- R360: the colour a meter gives a frame of `b` bytes that carries `colour`: 0 green, 1 yellow, 2 red; and the meter after. -/
def meterFrame (m : Meter) (b colour : Nat) : Nat × Meter :=
  let aware := bit m.ctrl 2
  let red : Nat × Meter := (2, { m with
    red := min (m.red + 1) 0xFFFFFFFF })
  let yellow : Nat × Meter := (1, { m with
    yellow := min (m.yellow + 1) 0xFFFFFFFF
    tp := m.tp - 256 * b })
  let green : Nat × Meter := (0, { m with
    green := min (m.green + 1) 0xFFFFFFFF
    tp := m.tp - 256 * b
    tc := m.tc - 256 * b })
  if aware ∧ colour = 2 then red
  else if m.tp < 256 * b then red
  else if aware ∧ colour = 1 then yellow
  else if m.tc < 256 * b then yellow
  else green

/-- What a received frame comes to. -/
inductive Rx where
  /-- the port takes no frames -/
  | ignored
  /-- dropped or discarded at a stage of R359, with its counts -/
  | dropped (s : State)
  /-- a part that is not the last -/
  | part (s : State)
  /-- a HELLO of a new epoch -/
  | hello (s : State) (peer : Nat)
  /-- an ACK frame -/
  | ack (s : State) (peer : Nat)
  /-- the last part of a message whose part 0 was not received (R351) -/
  | lost (s : State) (peer type msgId : Nat)
  /-- a whole message -/
  | message (s : State) (peer type msgId : Nat) (body : List Byte)

/-- R360: the policer stage: the state, and the frame's colour; none when it is dropped. A green frame passes as it is; a yellow or red
one passes with COLOUR set. -/
def policeStage (s : State) (n i b colour : Nat) : State × Option Nat :=
  let p := peerOf s n i
  if !bit p.ctrl 26 then (s, some colour)
  else
    let k := bits p.ctrl 25 16
    let m := meterOf s n k
    if !bit m.ctrl 0 then (s, some colour)
    else
      let r := meterFrame m b colour
      let off := match r.1 with
        | 0 => Reg.POL_CNT_GREEN n
        | 1 => Reg.POL_CNT_YELLOW n
        | _ => Reg.POL_CNT_RED n
      let s1 := countEvent (setMeter s n k r.2) off 1
      if r.1 = 2 ∧ !bit m.ctrl 1 then (s1, none) else (s1, some (if r.1 = 0 then colour else r.1))

/-- R361: whether the ingress buffer drops a frame. -/
def bufferDrops (s : State) (n b fill colour : Nat) : Bool :=
  ((decide (colour = 1) || decide (colour = 2)) && decide (bits (reg s (Reg.POD_YELLOW_THRESH n)) 12 0 * 1024 ≤ fill)) || decide (4194304 < fill + b)

/-- R353: the ACK field of a received frame. One that follows the last SEQ sent, or cannot be compared with it or with the last ACK
(R8), is ignored and counted as out of window. -/
def takeAck (s : State) (n i a : Nat) : State :=
  let p := peerOf s n i
  let last := (p.txNext + 2 ^ 32 - 1) % 2 ^ 32
  if serialLt 32 last a ∨ !serialComparable last a then bump s (Reg.POD_CNT_OOW n)
  else if a = p.txAcked ∨ serialLt 32 a p.txAcked then s
  else if !serialComparable p.txAcked a then bump s (Reg.POD_CNT_OOW n)
  else if p.out.any fun f => covers a f.seq then
    let s1 := setPeer s n i { p with
      out := p.out.filter fun f => !covers a f.seq
      txAcked := a
      down := false
      timeouts := 0
      rtoSince := now s }
    pumpPeer s1 n i 512
  else s

/-- A frame is accepted in order: the counts and the parts of its message (R351, R353). -/
def acceptFrame (s : State) (n i b : Nat) (h : List Byte) : Rx :=
  let p := peerOf s n i
  let s0 := bump64 s (Reg.POD_CNT_RX_BYTES n) b (2 ^ 64 - 1)
  let part := le h 20 2
  let parts := le h 22 2
  let data := slice h 32 (le h 24 2)
  let body := if part = 0 then some data
    else match p.partial_ with
      | some (m, k, bs) => if m = le h 16 4 ∧ k = part then some (bs ++ data) else none
      | none => none
  let p1 := { p with
    rxNext := (le h 8 4 + 1) % 2 ^ 32
    unsynced := false
    unacked := p.unacked + 1
    ackSince := if p.unacked = 0 then now s else p.ackSince }
  if part + 1 < parts then
    .part (setPeer s0 n i { p1 with
      partial_ := body.map fun bs => (le h 16 4, part + 1, bs) })
  else
    let s1 := setPeer s0 n i { p1 with
      partial_ := none
      rxMsg := if body.isSome then le h 16 4 else p1.rxMsg }
    match body with
    | some bs => .message (expireSource s1 (65536 + 256 * n + i) 0 (le h 16 4)) i (le h 0 1) (le h 16 4) bs
    | none => .lost (bump s1 (Reg.POD_CNT_PARTIAL n)) i (le h 0 1) (le h 16 4)

/-- R352, R355: the sequence stage. -/
def sequenceStage (s : State) (n i b : Nat) (h : List Byte) : Rx :=
  let s1 := takeAck s n i (le h 12 4)
  let p := peerOf s1 n i
  let ep := le h 4 2
  let x := le h 8 4
  if le h 0 1 = 0x3E ∧ p.rxEpoch ≠ some ep then
    let s2 := setPeer s1 n i { p with
      rxEpoch := some ep
      rxNext := 1
      unsynced := false
      partial_ := none
      unacked := p.unacked + 1
      ackSince := if p.unacked = 0 then now s else p.ackSince }
    .hello (bump64 s2 (Reg.POD_CNT_RX_BYTES n) b (2 ^ 64 - 1)) i
  else if p.rxEpoch ≠ some ep then .dropped (bump s1 (Reg.POD_CNT_EPOCH n))
  else if le h 0 1 = 0x3F then .ack s1 i
  else if p.unsynced ∨ x = p.rxNext then acceptFrame s1 n i b h
  else if serialLt 32 x p.rxNext then .dropped (sendAck (bump s1 (Reg.POD_CNT_DUP n)) n i)
  else if serialLt 32 p.rxNext x then .dropped (sendAck (bump s1 (Reg.POD_CNT_OOO n)) n i)
  else .dropped (bump s1 (Reg.POD_CNT_OOW n))

/-- The peer a frame matches (R348). -/
def matchPeer (s : State) (n mac conn : Nat) : Option Nat :=
  (List.range 256).find? fun i =>
    let p := peerOf s n i
    p.enabled && decide (p.mac = mac) && decide (p.conn = conn)

/-- R359: the stages a received frame passes. -/
def receive (s : State) (n : Nat) (f : RxFrame) : Rx :=
  if !portRuns s n then .ignored
  else if !f.fcs then .dropped s
  else
    let o := etherAt f.bytes
    let h := f.bytes.drop (o + 2)
    let b := f.bytes.length + 4
    if leNat (slice f.bytes o 2).reverse ≠ bits (reg s (Reg.POD_ETHERTYPE n)) 15 0 then .dropped (bump s (Reg.POD_CNT_ETYPE n))
    else
      match matchPeer s n (leNat (slice f.bytes 6 6).reverse) (le h 2 2) with
      | none => .dropped (bump s (Reg.POD_CNT_UNKNOWN_PEER n))
      | some i =>
        if !headerGood h then .dropped (bump s (Reg.POD_CNT_CRC n))
        else
          let q := policeStage s n i b (bits (le h 1 1) 5 4)
          match q.2 with
          | none => .dropped q.1
          | some colour =>
            if bufferDrops q.1 n b f.fill colour then .dropped (bump q.1 (Reg.POD_CNT_BUF_DROP n))
            else sequenceStage q.1 n i b h

/-- MESSAGE_PART: a part that is not the last is accepted. So is a whole message of a type that Table 17.3 has the Opfort send only
(COMPLETION, PROMPT, KV_BLOCK, KV_DONE): its SEQ and ACK count, and nothing says what else it does. -/
def messagePart (s : State) (n : Nat) (f : RxFrame) : State :=
  match receive s n f with
  | .part s1 => s1
  | .message s1 _ ty _ _ => if [0x08, 0x20, 0x21, 0x22].contains ty then s1 else s
  | _ => s

/-- HELLO (R355): the new epoch is recorded and SEQ 0 acknowledged; a HELLO of the recorded epoch that is accepted in order does no
more. -/
def helloFrame (s : State) (n : Nat) (f : RxFrame) : State :=
  match receive s n f with
  | .hello s1 i => sendAck s1 n i
  | .message s1 _ 0x3E _ _ => s1
  | _ => s

/-- POD_ACK (R353). -/
def ackFrame (s : State) (n : Nat) (f : RxFrame) : State :=
  match receive s n f with
  | .ack s1 _ => s1
  | _ => s

/-- COLL (R350): the message is written to its region and the target core's arrival counter grows; only between modules of equal
BOND_DIGEST, which the heartbeat's peers hold by configuration (log 27). -/
def coll (s : State) (n : Nat) (f : RxFrame) (sameImage : Bool) : State :=
  match receive s n f with
  | .message s1 i 0x30 _ body =>
    if !sameImage ∨ (peerOf s1 n i).client then bump s1 (Reg.POD_CNT_CRC n)
    else
      let g := le body 0 2
      let o := le body 8 8
      let bs := body.drop 16
      let s2 := if inRegion s1 g o bs.length then ldWrite s1 g o bs else s1
      match (sectionCores s2 (Config.collSection g))[le body 2 2]? with
      | some c => arrival s2 c (bits (le body 4 1) 3 0)
      | none => s2
  | _ => s

/-! ## Timers (R353, R354) -/

/-- BeatTime `t` plus `k` beats is due. -/
def afterBeats (s : State) (t k : Nat) : Bool := isDue s (addBeats t k)

/-- ACK_DELAY_EXPIRY (R353). -/
def ackDelay (s : State) (n i : Nat) : State :=
  let p := peerOf s n i
  if p.enabled ∧ 0 < p.unacked ∧ (16 ≤ p.unacked ∨ afterBeats s p.ackSince (bits (reg s (Reg.POD_ACK_DELAY n)) 7 0)) then sendAck s n i
  else s

/-- Resend every outstanding frame from the oldest (R354). -/
def resend (s : State) (n i : Nat) : State :=
  let p := peerOf s n i
  p.out.foldl (fun s' f => bump (putFrame s' n i f) (Reg.POD_CNT_RETX n)) (setPeer s n i { p with
    rtoSince := now s })

/-- POD_RTO_EXPIRY (R354): the timeout counts; at POD_RETRY_MAX the peer goes DOWN, else its frames are resent. -/
def rtoExpiry (s : State) (n i : Nat) : State :=
  let p := peerOf s n i
  if p.out = [] ∨ p.down ∨ !afterBeats s p.rtoSince (bits (reg s (Reg.POD_RTO n)) 15 0) then s
  else if bits (reg s (Reg.POD_RETRY_MAX n)) 7 0 ≤ p.timeouts + 1 then
    setBits (setPeer s n i { p with
      down := true
      timeouts := p.timeouts + 1
      rtoSince := now s }) (Reg.POD_INT_STATUS n) 2
  else resend (setPeer s n i { p with
    timeouts := p.timeouts + 1 }) n i

/-- PEER_RETRY (R354). -/
def peerRetry (s : State) (n i : Nat) : State :=
  let p := peerOf s n i
  if p.down ∧ afterBeats s p.rtoSince (16 * bits (reg s (Reg.POD_RTO n)) 15 0) then resend s n i else s

/-- PENDING_EXPIRY (R354): token records of a CLIENT peer that waited 64 measures are discarded and counted. -/
def pendingExpiry (s : State) (n i : Nat) : State :=
  let p := peerOf s n i
  let old (f : PodFrame) : Bool := f.token && afterBeats s f.since (64 * measureN s)
  let gone := messageCount (p.waiting.filter old)
  if !p.client ∨ gone = 0 then s
  else setBits (bumpBy (setPeer s n i { p with
    waiting := p.waiting.filter fun f => !old f }) (Reg.POD_CNT_LOST n) gone) (Reg.POD_INT_STATUS n) 4

/-! ## Ports -/

/-- A unit enters RESETTING (R442, R443, R446): its epoch increments, and the reset is counted. -/
def beginReset (s : State) (cls i : Nat) : State :=
  let s1 := bumpEpoch s cls i
  bump (setUnit s1 cls i { unitSt s1 cls i with
    mode := .resetting }) Reg.TOPO_CNT_UNIT_RESET

/-- A unit returns to service (R446): UNIT_RESET_DONE, and DONE for the host command that asked for it. -/
def endReset (s : State) (cls i : Nat) (m : UnitMode) : State :=
  let s1 := setBits (setUnit s cls i { unitSt s cls i with
      mode := m }) Reg.TOPO_INT_STATUS 8
  if s1.topo.cmd = some (cls, i) then
    setReg { s1 with
      topo := { s1.topo with
        cmd := none } } Reg.TOPO_UNIT_RESULT 0
  else s1

/-- POD_RESET (R356): the port unit resets; its frames on the wire are lost, peer state is kept. -/
def podReset (s : State) (n : Nat) : State :=
  if (unitSt s 3 n).mode ≠ .available then s
  else
    let s1 := beginReset s 3 n
    setPort s1 n { portOf s1 n with
      linkUp := false
      media := 0
      busy := none }

/-- POD_ENABLE (R369). -/
def podEnable (s : State) (n : Nat) (on : Bool) : State := putBit s (Reg.POD_CTRL n) 0 on

/-- R441: the external links train once DISCOVERY has passed; a halted module trains none (R433). -/
def linksTrain (s : State) : Bool := [BringUp.training, .memInit, .timeWait, .ready].contains s.topo.stage

/-- The record that full training produces now (R439); the firmware that trains is the one that runs (log 71). -/
def recordNow (s : State) (partner : List Byte) (t16 : Nat) : TrainRec :=
  { device := deviceId, fuseCrc := le s.topo.fuse 124 4, firmware := reg s Reg.TOPO_FW_IMAGE / 65536, partner := partner, t16 := t16 }

/-- The saved record of a unit. -/
def savedRecord (s : State) (u : TrainUnit) : Option TrainRec := (s.topo.records.find? fun p => decide (p.1 = u)).map (·.2)

/-- R439: whether a record may be used: its CRC, its key, its partner, and a hot-spot within 30 °C of its own. -/
def recordUsable (s : State) (r : TrainRec) (crcBad : Bool) (partner : List Byte) (t16 : Nat) : Bool :=
  !crcBad && decide ({ r with
    t16 := t16 } = recordNow s partner t16) && decide (r.t16 ≤ t16 + 480) && decide (t16 ≤ r.t16 + 480)

/-- R440: RETRAIN_FULL makes a bring-up ignore the saved record of every unit. -/
def ignoresRecord (s : State) (u : TrainUnit) : Bool := s.topo.retrain && !s.topo.trained.contains u

/-- R440: a unit was trained in full; its record is to be written to flash. -/
def trainedFull (s : State) (u : TrainUnit) (r : TrainRec) : State :=
  let s1 := bump s Reg.TOPO_CNT_TRAIN_FULL
  { s1 with
    topo := { s1.topo with
      unsaved := s1.topo.unsaved.filter (fun x => decide (x.1 ≠ u)) ++ [(u, r)] } }

/-- R439, R440: a unit trains, from its saved record where that may be used and passes its verification pattern, else in full. -/
def trainUnit (s : State) (u : TrainUnit) (x : LinkTraining) : State :=
  let usable := !ignoresRecord s u && (match savedRecord s u with
    | some r => recordUsable s r x.crcBad x.partner x.t16
    | none => false)
  let s1 := if usable && x.weak then setBits (bump s Reg.TOPO_CNT_SAVED_REJECT) Reg.TOPO_INT_STATUS 1 else s
  let s2 := if usable && !x.weak then s1 else trainedFull s1 u (recordNow s x.partner x.t16)
  { s2 with
    topo := { s2.topo with
      trained := if s2.topo.trained.contains u then s2.topo.trained else s2.topo.trained ++ [u] } }

/-- POD_LINK_UP (R345, R441): MEDIA is the module type read from the cage; a resetting port returns to service. -/
def podLinkUp (s : State) (n media : Nat) (x : LinkTraining) : State :=
  if !linksTrain s ∨ !bit s.topo.fusePods n ∨ (portOf s n).linkUp then s
  else
    let s0 := trainUnit s (.podPort n) x
    let s1 := setPort s0 n { portOf s0 n with
      linkUp := true
      media := media }
    if (unitSt s1 3 n).mode = .resetting then endReset s1 3 n .available else s1

/-- POD_LINK_DOWN (R369). -/
def podLinkDown (s : State) (n : Nat) : State :=
  if (portOf s n).linkUp then
    setBits (setPort s n { portOf s n with
      linkUp := false
      busy := none }) (Reg.POD_INT_STATUS n) 1
  else s

/-- A write to POL_CTRL sets the mode and fills both buckets (R360). -/
def polCtrl (s : State) (n i v : Nat) : State :=
  let m := meterOf s n i
  setMeter s n i { m with
    ctrl := v % 8
    tc := 256 * m.cbs
    tp := 256 * m.pbs }

/-- A bucket size of a lower value acts as 9,216 (Table 17.6). -/
def bucketSize (x : Nat) : Nat := max (x % 2 ^ 24) 9216

/-- R360: a beat edge refills a meter, with the settings written before it. -/
def refill (m : Meter) : Meter :=
  { m with
    cir := m.cirNew
    pir := m.pirNew
    cbs := bucketSize m.cbsNew
    pbs := bucketSize m.pbsNew
    tc := min (256 * bucketSize m.cbsNew) (m.tc + m.cirNew)
    tp := min (256 * bucketSize m.pbsNew) (m.tp + m.pirNew) }

/-- Every meter that differs from its reset state is refilled. -/
def refillAll (s : State) : State :=
  { s with
    pod := { s.pod with
      meters := s.pod.meters.foldl (fun t e => tset (fun _ => Meter.reset) t e.1 (refill e.2)) s.pod.meters } }

/-! ## Gates (R363, R364) -/

/-- The GATE_LIST in force on a port: PHASE and (GATES, DURATION) entries; none keeps every gate open. -/
def gateList (s : State) (n : Nat) : Option (Nat × List (Nat × Nat)) :=
  let a := bits (reg s (Reg.POD_GATE_ASSET n)) 15 0
  if a = 0xFFFF ∨ !isSealed s then none
  else
    let v := currentVer s a
    let cnt := assetNat s a v 4 2
    if cnt = 0 then none
    else some (assetNat s a v 8 4, (List.range cnt).map fun i => (assetNat s a v (16 + 4 * i) 1, assetNat s a v (17 + 4 * i) 3))

/-- The entry whose span holds position `p` of the cycle. -/
def gateSpan : List (Nat × Nat) → Nat → Nat → Nat × Nat
  | [], _, i => (i, 0xFF)
  | (g, d) :: r, p, i => if p < d then (i, g) else gateSpan r (p - d) (i + 1)

/-- The gate-list entry in force at beat `b`, and its gates. -/
def gatesAt (s : State) (n b : Nat) : Nat × Nat :=
  match gateList s n with
  | none => (0, 0xFF)
  | some (ph, es) =>
    let ct : Nat := (es.map (·.2)).foldl (· + ·) 0
    if ct = 0 then (0, 0xFF) else gateSpan es (((b : Int) - (ph : Int)) % (ct : Int)).toNat 0

/-- GATE_ENTRY_CHANGE (R363, R364): the entry in force at this beat; a frame whose gate it closes completes and is counted. -/
def gateChange (s : State) (n : Nat) : State :=
  let g := gatesAt s n s.time.beat
  let p := portOf s n
  let s1 := setPort s n { p with
    gateEntry := g.1
    gates := g.2 }
  match p.busy with
  | some (c, _) => if bit p.gates c ∧ !bit g.2 c then setBits (bump s1 (Reg.POD_CNT_GATE_OVERRUN n)) (Reg.POD_INT_STATUS n) 8 else s1
  | none => s1

/-- The ck a frame of `len` bytes (without FCS) occupies the port (R362). -/
def frameCk (len : Nat) : Nat := ((len + 4 + 20) * 3 + 199) / 200

/-- R364: the class's gate stays open for the T ck of its head frame. -/
def gateOpen (s : State) (n c t : Nat) : Bool :=
  (List.range ((s.time.ck + t - 1) / 1500 + 1)).all fun k => bit (gatesAt s n (s.time.beat + k)).2 c

/-! ## Shapers (R365, R366) -/

/-- TC_SHAPE_WRITE (R366): the class's settings are written; they take effect, and the credit is set, at the next ck. A slope above
100,000 is stored, and reads back, as 100,000 (DESIGN CHOICE, log 38). -/
def shapeWrite (s : State) (n c off v : Nat) : State :=
  let s1 := if off = 0 then setReg s (Reg.TC_SHAPE_CTRL n c) (v % 4)
    else if off = 4 then setReg s (Reg.TC_IDLE_SLOPE n c) (min (v % 2 ^ 17) 100000)
    else if off = 8 then setReg s (Reg.TC_HI_CREDIT n c) (v % 2 ^ 24)
    else setReg s (Reg.TC_LO_CREDIT n c) (v % 2 ^ 24)
  setClass s1 n c { classOf s1 n c with
    fresh := true }

/-- R365: the credit of a class after one ck, its cases in their order (log 29); while the count is held, `refill` is false and the
idle slope adds nothing (R25, step 3). -/
def creditStep (k : Class) (sending gate refill : Bool) : Int :=
  let c : Int := k.credit
  let slope : Int := if refill then (k.slope : Int) else 0
  let lo : Int := -(1500 * (k.lo : Int))
  let hi : Int := 1500 * (k.hi : Int)
  let c1 : Int :=
    if sending then c + slope - 100000
    else if !gate then c
    else if k.queue = [] then (if 0 < c then 0 else min 0 (c + slope))
    else c + slope
  max lo (min hi c1)

/-- One ck of class `c` of port `n`: the frames that joined are of an earlier edge from now on (R368); a configuration write of the last ck takes effect, else the credit moves; a head frame that
waits for its gate or its credit counts its ck (Table 17.5). -/
def classCk (s0 : State) (n c : Nat) : State :=
  let k : Class := { classOf s0 n c with
    joined := 0 }
  let s := setClass s0 n c k
  let sending := match (portOf s n).busy with
    | some (b, _) => decide (b = c)
    | none => false
  let gate := bit (portOf s n).gates c
  let s1 := match k.queue with
    | [] => s
    | f :: _ =>
      if sending then s
      else if !gateOpen s n c (frameCk f.length) then bump s (Reg.TC_CNT_GATE_WAIT n c)
      else if bit k.ctrl 0 ∧ k.credit < 0 then bump s (Reg.TC_CNT_CREDIT_WAIT n c)
      else s
  if k.fresh then
    let ctrl := reg s1 (Reg.TC_SHAPE_CTRL n c)
    let hi := reg s1 (Reg.TC_HI_CREDIT n c)
    setClass s1 n c { k with
      ctrl := ctrl
      slope := reg s1 (Reg.TC_IDLE_SLOPE n c)
      hi := hi
      lo := reg s1 (Reg.TC_LO_CREDIT n c)
      credit := if bit ctrl 1 then 1500 * (hi : Int) else 0
      fresh := false }
  else if bit k.ctrl 0 then setClass s1 n c { k with
    credit := creditStep k sending gate (!s.time.hold) }
  else s1

/-- One ck of port `n`. -/
def portCk (s : State) (n : Nat) : State :=
  let s1 := (List.range 8).foldl (fun s' c => classCk s' n c) s
  let p := portOf s1 n
  match p.busy with
  | none => s1
  | some (c, t) => setPort s1 n { p with
      busy := if t ≤ 1 then none else some (c, t - 1) }

/-! ## Deficit round robin (R367) -/

/-- Whether class `c` may start its head frame; one that joined at the present edge waits for the next choice (R368). -/
def classEligible (s : State) (n c : Nat) : Bool :=
  let k := classOf s n c
  match k.queue with
  | [] => false
  | f :: _ =>
    decide (k.joined < k.queue.length) && gateOpen s n c (frameCk f.length) && (!bit k.ctrl 0 || decide (0 ≤ k.credit))

/-- QUANTUM of a class; a lower write acts as 9,216 (Table 17.5). -/
def quantum (s : State) (n c : Nat) : Nat := max (reg s (Reg.TC_QUANTUM n c)) 9216

/-- The first eligible class after `c`, in ascending order with wrap-around, `c` itself last. -/
def nextEligible (s : State) (n c : Nat) : Option Nat := ((List.range 8).map fun i => (c + 1 + i) % 8).find? (classEligible s n)

/-- Send the head frame of class `c`; a class whose queue empties has its deficit set to 0. -/
def sendHead (s : State) (n c deficit : Nat) : State :=
  let k := classOf s n c
  match k.queue with
  | [] => s
  | f :: q =>
    let s1 := setClass s n c { k with
      queue := q
      deficit := if q = [] then 0 else deficit - (f.length + 4) }
    let s2 := setPort s1 n { portOf s1 n with
      busy := some (c, frameCk f.length)
      turn := c }
    let s3 := bump64 (bump s2 (Reg.TC_CNT_FRAMES n c)) (Reg.POD_CNT_TX_BYTES n) (f.length + 4) (2 ^ 64 - 1)
    emit s3 (.podFrame n c f)

/-- FRAME_TRANSMIT (R367). -/
def frameTransmit (s : State) (n : Nat) : State :=
  if !portRuns s n ∨ (portOf s n).busy.isSome ∨ s.twin.silent then s
  else
    let c := (portOf s n).turn
    let k := classOf s n c
    let need := match k.queue with
      | f :: _ => f.length + 4
      | [] => 0
    if classEligible s n c ∧ need ≤ k.deficit then sendHead s n c k.deficit
    else
      match nextEligible s n c with
      | none => s
      | some d => sendHead s n d (min ((classOf s n d).deficit + quantum s n d) (quantum s n d + 9216))

/-! ## The commands -/

/-- MESSAGE_PART (R351). -/
def execMessagePart (n : Nat) (f : RxFrame) (s : State) : Out := done (messagePart s n f)
/-- HELLO (R355). -/
def execHello (n : Nat) (f : RxFrame) (s : State) : Out := done (helloFrame s n f)
/-- POD_ACK (R353). -/
def execPodAck (n : Nat) (f : RxFrame) (s : State) : Out := done (ackFrame s n f)
/-- COLL (R350). -/
def execColl (n : Nat) (f : RxFrame) (sameImage : Bool) (s : State) : Out := done (coll s n f sameImage)
/-- ACK_DELAY_EXPIRY (R353). -/
def execAckDelayExpiry (n i : Nat) (s : State) : Out := done (ackDelay s n i)
/-- POD_RTO_EXPIRY (R354). -/
def execPodRtoExpiry (n i : Nat) (s : State) : Out := done (rtoExpiry s n i)
/-- PEER_RETRY (R354). -/
def execPeerRetry (n i : Nat) (s : State) : Out := done (peerRetry s n i)
/-- PENDING_EXPIRY (R354). -/
def execPendingExpiry (n i : Nat) (s : State) : Out := done (pendingExpiry s n i)
/-- RESTART (R355). -/
def execRestart (n i : Nat) (s : State) : Out := host s (Reg.PEER_CMD n) fun s => restart s n i
/-- PEER_ENABLE (R355, R372). -/
def execPeerEnable (n i v : Nat) (s : State) : Out := host s (Reg.PEER_CTRL n) fun s => peerCtrl s n i v
/-- POD_RESET (R356). -/
def execPodReset (n : Nat) (s : State) : Out := host s (Reg.POD_CTRL n) fun s => podReset s n
/-- POD_ENABLE (R369). -/
def execPodEnable (n : Nat) (on : Bool) (s : State) : Out := host s (Reg.POD_CTRL n) fun s => podEnable s n on
/-- POD_LINK_UP (R441). -/
def execPodLinkUp (n media : Nat) (x : LinkTraining) (s : State) : Out := done (podLinkUp s n media x)
/-- POD_LINK_DOWN (R369). -/
def execPodLinkDown (n : Nat) (s : State) : Out := done (podLinkDown s n)
/-- POL_CTRL (R360). -/
def execPolCtrl (n i v : Nat) (s : State) : Out := host s (Reg.POL_CTRL n) fun s => polCtrl s n i v
/-- TC_SHAPE_WRITE (R366). -/
def execTcShapeWrite (n c off v : Nat) (s : State) : Out := host s (Reg.TC_SHAPE_CTRL n c) fun s => shapeWrite s n c off v
/-- GATE_ENTRY_CHANGE (R363). -/
def execGateEntryChange (n : Nat) (s : State) : Out := done (gateChange s n)
/-- FRAME_TRANSMIT (R367). -/
def execFrameTransmit (n : Nat) (s : State) : Out := done (frameTransmit s n)

end Sys2Proof.Machine
end

