-- ==== Sys2Proof/Machine/Assets.lean ====
section
/-!
DEFINITION. Machine/Assets.lean: resident versions and their freeing (R58), staging (R57, R59, R60, R409, R410), scheduled switches (R61 to
R63) and the filling of SFUNC table slots (R130).
-/
namespace Sys2Proof.Machine

/-! ## Versions (R58) -/

/-- Asset `a`. -/
def assetSt (s : State) (a : Nat) : Asset := tget (fun _ => Asset.reset) s.assets.table a

/-- Replace asset `a`. -/
def setAsset (s : State) (a : Nat) (x : Asset) : State := { s with
    assets := { s.assets with
      table := tset (fun _ => Asset.reset) s.assets.table a x } }

/-- The asset table entry of an asset. -/
def assetEntry (s : State) (a : Nat) : Option AssetE :=
  match s.bond.image with
  | some im => im.assets.find? fun x => x.id = a
  | none => none

/-- The version slots of an asset that are taken: by resident versions, a staging, open builds. -/
def slotsTaken (s : State) (a : Nat) : List Nat :=
  (assetSt s a).versions.map (·.slot)
    ++ (match s.assets.staging with
        | some g => if g.asset = a then [g.slot] else []
        | none => [])
    ++ (s.assets.builds.filter fun b => decide (b.asset = a)).map (·.slot)

/-- A free version slot of an asset. -/
def freeSlotOf (s : State) (a : Nat) : Option Nat := (List.range 4).find? fun i => !(slotsTaken s a).contains i

/-- The version sets of requests in flight (R18): of the front end's requests and of sequences. -/
def setsInFlight (s : State) : List Nat :=
  (s.front.reqs.filterMap fun p => p.2.map (·.vset)) ++ (s.serve.ast.filter fun p => decide (p.2.mode ≠ .free)).map fun p => p.2.vset

/-- A pending switch by slot. -/
def switchOf (s : State) (i : Nat) : Option Switch := tget (fun _ => none) s.assets.switches i

/-- The pending switches with their slots. -/
def switchList (s : State) : List (Nat × Switch) := s.assets.switches.filterMap fun p => p.2.map fun x => (p.1, x)

/-- R58: whether a resident version of asset `a` is freed. -/
def freeable (s : State) (a : Nat) (v : Version) : Bool :=
  decide ((assetSt s a).current ≠ v.ver) && !((switchList s).any fun p => decide (p.2.asset = a ∧ p.2.version = v.ver))
    && !((setsInFlight s).any fun w => decide (versionIn s w a = v.ver))
    && !(s.assets.builds.any fun b => decide (b.asset = a ∧ b.base = v.ver)) && (v.everCurrent || v.superseded)

/-- Free what R58 frees of asset `a`. -/
def reap (s : State) (a : Nat) : State :=
  let x := assetSt s a
  let gone := x.versions.filter (freeable s a)
  if gone = [] then s
  else setAsset s a { x with
    versions := x.versions.filter fun v => !freeable s a v
    freed := min (x.freed + gone.length) 0xFFFFFFFF }

/-- Free what R58 frees of every asset of the image. -/
def reapAll (s : State) : State :=
  match s.bond.image with
  | some im => im.assets.foldl (fun s' e => reap s' e.id) s
  | none => s

/-- Pages of stores in use, as codes (R164, R214), with those a running batch has reserved (R218). -/
def pagesUsed (s : State) : List Nat :=
  (s.assets.table.flatMap fun p => p.2.versions.flatMap (·.pages)) ++ s.assets.builds.flatMap (·.copied) ++ s.assets.batches.flatMap (·.pages)

/-- Pages of a store region. -/
def storePages (s : State) (g : Nat) : Nat :=
  match s.bond.image with
  | some im => slotSize im g / 2048
  | none => 0

/-- Free pages of a store, ascending. -/
def freePages (s : State) (g : Nat) : List Nat :=
  let used := pagesUsed s
  (List.range (storePages s g)).filter fun p => !used.contains (pageCode g p)

/-! ## Commands that read BUSY -/

/-- R395: the source of a rejoin that has begun its last pass holds the commands that change assets. -/
def holdsCommands (s : State) : Bool :=
  match s.twin.resync with
  | some r => r.source && r.final
  | none => false

/-- Hold a command. -/
def holdCmd (s : State) (field op : Nat) (args : List Nat) : State := { s with
    assets := { s.assets with
      held := s.assets.held ++ [{ field := field, op := op, args := args }] } }

/-- Whether a command of a field is held. -/
def isHeld (s : State) (field : Nat) : Bool := s.assets.held.any fun h => decide (h.field = field)

/-- A write to a command field that reads BUSY is ignored and counted in the ERR block. -/
def busyWrite (s : State) (off : Nat) : State := protocol s 0x0005 off 1

/-! ## Staging (R57, R59, R60) -/

/-- The image roots (R41, R403). -/
def imageRoots (s : State) : List (List Byte) := Config.imageRoot :: s.sec.owners

/-- Bytes of the BAR4 window (Table 16.1). -/
def bar4Size : Nat := 2 ^ 32

/-- Bytes of the staging window. -/
def stagingRead (s : State) (o n : Nat) : List Byte := memRead s.staging o n

/-- The LPDDR key of byte `o` of a version slot. -/
def slotKeyOf (s : State) (a slot o : Nat) : Option Nat :=
  match s.bond.image with
  | none => none
  | some im => (assetRegion im a).map fun g => ldKey g (slot * slotSize im g + o)

/-- Write bytes into a version slot. -/
def slotWrite (s : State) (a slot o : Nat) (bs : List Byte) : State :=
  match slotKeyOf s a slot o with
  | some k => { s with
      lpddr := memWrite s.lpddr k bs
      poison := clearPoison s.poison k bs.length
      twin := markSegments s.twin (k / 2 ^ 48) (k % 2 ^ 48) bs.length }
  | none => s

/-- Zero the first `n` bytes of a version slot. -/
def slotZero (s : State) (a slot n : Nat) : State :=
  match slotKeyOf s a slot 0 with
  | some k => { s with
      lpddr := memZero s.lpddr k n
      poison := clearPoison s.poison k n
      twin := markSegments s.twin (k / 2 ^ 48) (k % 2 ^ 48) n }
  | none => s

/-- Replace the staging. -/
def setStaging (s : State) (g : Option Staging) : State := { s with
    assets := { s.assets with
      staging := g } }

/-- The staging in progress is discarded: what it wrote is zeroed and the slot freed. STG_DONE keeps its last count until the next BEGIN; R59 and
Table 03.9 give it no value without a staging (DESIGN CHOICE, log 69). -/
def stgDiscard (s : State) (g : Staging) : State := setStaging (slotZero s g.asset g.slot (min g.data.length g.size)) none

/-- R59: whether the state refuses a staging command: BAD_STATE of Table 03.14. -/
def stgBarred (s : State) (op sel : Nat) : Bool :=
  (decide (s.bond.mode ≠ .loaded) && decide (s.bond.mode ≠ .sealed)) || (decide (op = 1) && bit sel 16 && decide (s.bond.mode ≠ .loaded))

/-- The checks of BEGIN in the order of Table 03.14 behind BAD_STATE, and the staging it opens. `h` is the header, which an initial version may
lack; an initial version is held to the asset table, and its header tells how much of a version with page records is its body
(log 60). -/
def stgOpen (s : State) (a : Nat) (initial inWindow : Bool) (h : List Byte) : Nat × Option Staging :=
  match assetEntry s a with
  | none => (0x03, none)
  | some e =>
    let bare := initial && decide (h = []) && inWindow
    let ver := if initial then e.initial else Config.headerNat h 2
    let own := initial && (bare || !hasPages e.kind)
    if 4 ≤ (assetSt s a).versions.length then (0x04, none)
    else if s.assets.staging.isSome then (0x06, none)
    else if !bare ∧ (h = [] ∨ !inWindow ∨ !Config.headerSigned h (imageRoots s) ∨ Config.headerNat h 0 ≠ a ∨ Config.headerNat h 1 ≠ e.kind) then
      (0x07, none)
    else if !own ∧ e.size < Config.headerNat h 3 then (0x08, none)
    else if (assetSt s a).versions.any fun v => decide (v.ver = ver) then (0x0B, none)
    else
      match freeSlotOf s a with
      | none => (0x04, none)
      | some slot =>
        (0x00, some
          { asset := a, pos := 0, ver := ver, slot := slot, initial := initial, size := if own then e.size else Config.headerNat h 3,
            shape := if initial then e.shape else Config.headerBytes h 0, digest := if initial then e.digest else Config.headerBytes h 1,
            header := h, key := if bare ∨ Config.headerNat h 4 = 0 then none else some (Config.headerNat h 5), chunks := 0, data := [],
            lastPiece := false })

/-- BEGIN (R59): its state and its code. -/
def stgBegin (s : State) (x : StgCmd) : State × Nat :=
  let r := stgOpen s (bits x.sel 15 0) (bit x.sel 16) x.inWindow x.bytes
  match r.2 with
  | some g => (setReg64 (setStaging s (some g)) Reg.STG_DONE 0, r.1)
  | none => (s, r.1)

/-- R410: the released key of a version, when its policy holds. -/
def stagingKey (s : State) (k : Nat) : Option (List Byte) :=
  match s.sec.assetKeys.find? fun x => x.id = k with
  | none => none
  | some x =>
    match s.bond.image with
    | none => none
    | some im => if x.policy.all (fun b => b = 0) ∨ x.policy = im.digest then some x.key else none

/-- The nonce of chunk `j` (R409). -/
def chunkNonce (g : Staging) (j : Nat) : List Byte := natLE 4 j ++ natLE 4 g.ver ++ natLE 2 g.asset ++ natLE 2 0xA55E

/-- R409: decrypt the chunks of a piece, `n` at most. -/
def decryptChunks (g : Staging) (key : List Byte) : Nat → Nat → List Byte → Option (List Byte)
  | 0, _, _ => some []
  | n + 1, j, bs =>
    if bs = [] then some []
    else
      match gcmOpen key (chunkNonce g j) g.header (bs.take 65552), decryptChunks g key n (j + 1) (bs.drop 65552) with
      | some p, some q => some (p ++ q)
      | _, _ => none

/-- Chunks of a piece of `n` bytes. -/
def chunkCount (n : Nat) : Nat := (n + 65551) / 65552

/-- Bytes a version of a kind may hold as it is staged: its body, and page records behind it for the kinds of R60. -/
def stagedRoom (s : State) (g : Staging) (n : Nat) : Bool :=
  (match kindOf s g.asset with
    | some k => hasPages k
    | none => false) || decide (g.data.length + n ≤ g.size)

/-- A piece of plaintext follows the last (R59). -/
def stgAppend (s : State) (g : Staging) (p : List Byte) (chunks : Nat) (last : Bool) : State :=
  let s1 := slotWrite s g.asset g.slot g.data.length (p.take (g.size - g.data.length))
  let d := g.data ++ p
  setReg64 (setStaging s1 (some { g with
    data := d
    chunks := g.chunks + chunks
    lastPiece := last })) Reg.STG_DONE d.length

/-- A version is refused under R410. -/
def assetFail (s : State) : State := setBits (bump s Reg.SEC_CNT_ASSET_FAIL) Reg.SEC_INT_STATUS 2

/-- DATA (R59, R60, R409): its state, and its code. The chunks of an encrypted version carry its body and the page records behind it
(log 60). -/
def stgPiece (s : State) (x : StgCmd) : State × Nat :=
  let n := x.bytes.length
  match s.assets.staging with
  | none => (s, 0x05)
  | some g =>
    if !x.inWindow ∨ g.lastPiece then (s, 0x08)
    else
      match g.key with
      | none =>
        if n % 16 ≠ 0 ∨ !stagedRoom s g n then (s, 0x08) else (stgAppend s g x.bytes 0 false, 0x00)
      | some k =>
        if !stagedRoom s g (n - 16 * chunkCount n) then (s, 0x08)
        else
          match (stagingKey s k).bind fun key => decryptChunks g key (chunkCount n) g.chunks x.bytes with
          | none => (stgDiscard (assetFail s) g, 0x09)
          | some p => (stgAppend s g p (chunkCount n) (decide (n % 65552 ≠ 0)), 0x00)

/-- The page records behind a body (R60): page number and 2 KiB. -/
def pageRecords : Nat → List Byte → List (Nat × List Byte)
  | 0, _ => []
  | n + 1, bs => if bs = [] then [] else (le bs 0 4, slice bs 16 2048) :: pageRecords n (bs.drop 2064)

/-- Whether the staged bytes have the version's length (R57, R60). -/
def lengthGood (g : Staging) (kind : Nat) : Bool :=
  if hasPages kind then decide (g.size ≤ g.data.length) && decide ((g.data.length - g.size) % 2064 = 0)
  else if g.initial then decide (g.data.length ≤ g.size)
  else decide (g.data.length = g.size)

/-- R57, R224: what END verifies of a staged version. -/
def stagedGood (s : State) (g : Staging) (e : AssetE) : Bool :=
  let body := g.data.take g.size
  lengthGood g e.kind && decide (g.shape = e.shape) && shapeGood s g.asset e.kind body.length e.shape (bodyRd body)
    && decide (shake256 g.data 32 = g.digest) && contentGood s g.asset e.kind (bodyRd body) && vocabRule s g.asset e.kind (bodyRd body)

/-- R60, R164: whether every page record names a free page, none of them twice. -/
def pagesFree (s : State) (g : Nat) (ps : List Nat) : Bool :=
  let free := freePages s g
  ps.all (fun p => free.contains p) && decide (ps.eraseDups.length = ps.length)

/-- WB of the stationary tensors of a MODEL version, computed when it is staged (R82). -/
def boundsOfBody (a kind : Nat) (body : List Byte) : List (Nat × Int) :=
  if kind ≠ 2 then []
  else (Config.stationary a).filterMap fun t =>
    let f := wfmtOf t.2.1
    let b := if f = .bf16 then (bf16Max (t.2.2.map fun o => le body o 2)).map (· + 1)
      else (t.2.2.foldl (fun m o => maxOpt m (scaleExp (le body o 1))) none).map (· + f.bound)
    b.map fun x => (t.1, x)

/-- A verified version becomes resident (R58, R59). -/
def makeResident (s : State) (g : Staging) (kind : Nat) : State :=
  let body := g.data.take g.size
  let store := storeOf s kind (bodyRd body)
  let recs := if hasPages kind then pageRecords (g.data.length / 2064 + 1) (g.data.drop g.size) else []
  let s1 := recs.foldl (fun s' p => ldWrite s' store (2048 * p.1) p.2) (setStaging s none)
  let x := assetSt s1 g.asset
  let v : Version :=
    { ver := g.ver, slot := g.slot, size := g.size, digest := shake256 g.data 32, verified := true, everCurrent := false,
      superseded := false, pages := pagesOf s1 g.asset kind g.size (bodyRd body), wb := boundsOfBody g.asset kind body }
  setAsset s1 g.asset { x with
    versions := x.versions ++ [v] }

/-- END (R59, R60): its state and its code. -/
def stgFinish (s : State) : State × Nat :=
  match s.assets.staging with
  | none => (s, 0x05)
  | some g =>
    match assetEntry s g.asset with
    | none => (stgDiscard s g, 0x03)
    | some e =>
      let recs := if hasPages e.kind then pageRecords (g.data.length / 2064 + 1) (g.data.drop g.size) else []
      if !stagedGood s g e then (stgDiscard s g, 0x09)
      else if !pagesFree s (storeOf s e.kind (bodyRd (g.data.take g.size))) (recs.map (·.1)) then
        let s1 := stgDiscard s g
        (if e.kind = 3 then s1 else setBits (bump s1 Reg.SEARCH_CNT_STORE_FULL) Reg.SEARCH_INT_STATUS 1, 0x0A)
      else (makeResident s g e.kind, 0x00)

/-- ABORT (R59): its state and its code. -/
def stgAbort (s : State) : State × Nat :=
  match s.assets.staging with
  | none => (s, 0x05)
  | some g => (stgDiscard s g, 0x00)

/-- A staging command as its write finds it: the bytes its range names in the window are taken at the write (log 60). -/
def stgCommand (s : State) (op sel o n : Nat) : StgCmd :=
  { op := op, sel := sel, badState := stgBarred s op sel, inWindow := decide (o + n ≤ bar4Size),
    bytes := if (op = 1 ∨ op = 2) ∧ o + n ≤ bar4Size then stagingRead s o n else [] }

/-- A staging command starts: STG_RESULT reads BUSY until STG_COMPLETE. -/
def stgStart (s : State) (op sel o n : Nat) : State :=
  setReg { s with
    assets := { s.assets with
      stgBusy := some (stgCommand s op sel o n) } } Reg.STG_RESULT 1

/-- A write of STG_CMD (R59). -/
def stgCmd (s : State) (op : Nat) : State :=
  if s.assets.stgBusy.isSome ∨ isHeld s 0 then busyWrite s Reg.STG_CMD
  else if holdsCommands s then
    setReg (holdCmd s 0 op [reg s Reg.STG_ASSET, reg64 s Reg.STG_OFFSET, reg64 s Reg.STG_LEN]) Reg.STG_RESULT 1
  else stgStart s op (reg s Reg.STG_ASSET) (reg64 s Reg.STG_OFFSET) (reg64 s Reg.STG_LEN)

/-- What a staging command does by the time it completes (R59): its state and its code. -/
def stgEffect (s : State) (x : StgCmd) : State × Nat :=
  if x.badState ∨ stgBarred s 0 0 then (s, 0x02)
  else
    match x.op with
    | 1 => stgBegin s x
    | 2 => stgPiece s x
    | 3 => stgFinish s
    | _ => stgAbort s

/-- STG_RESULT leaves BUSY with a code; a failure raises STAGE_FAILED, a successful END raises STAGE_DONE. -/
def stgReport (s : State) (op code : Nat) : State :=
  let s1 := setReg { s with
    assets := { s.assets with
      stgBusy := none } } Reg.STG_RESULT code
  if code ≠ 0 then setBits s1 Reg.BOND_INT_STATUS 0x400
  else if op = 3 then setBits s1 Reg.BOND_INT_STATUS 0x200 else s1

/-- STG_COMPLETE (R59): the command's effect stands and STG_RESULT reports it. -/
def stgComplete (s : State) : State :=
  match s.assets.stgBusy with
  | none => s
  | some x =>
    let r := stgEffect s x
    stgReport r.1 x.op r.2

/-! ## SFUNC slots (R130) -/

/-- The cores that hold a function asset's tables: those of every section with a chain whose SFUNC stage names a function bound to it. -/
def funcCores (s : State) (a : Nat) : List Nat :=
  match s.bond.image with
  | none => []
  | some im =>
    let fs := (im.funcs.filter fun f => decide (f.asset = a) && f.assetBound).map (·.no)
    let sects := ((im.chains.filter fun c => (c.pro ++ c.epi).any fun st => decide (st.kind = 6) && fs.contains st.sub).map (·.sect)).eraseDups
    sects.flatMap (sectionCores s)

/-- Segments of the table of a function asset: of the first function bound to it. -/
def funcSegCount (s : State) (a : Nat) : Nat :=
  match s.bond.image with
  | some im => ((im.funcs.find? fun f => f.assetBound && decide (f.asset = a)).map (·.segs.length)).getD 0
  | none => 0

/-- The coefficients of a version of a function asset: the chunk's own table for the initial version (R130), else those of its slot in
LPDDR. -/
def funcTable (s : State) (a ver : Nat) : List (Nat × Nat × Nat) :=
  match s.bond.image with
  | none => []
  | some im =>
    match im.assets.find? (fun e => e.id = a), assetRegion im a, slotOf s a ver with
    | some e, some g, some sl =>
      if ver = e.initial then ((im.funcs.find? fun f => f.assetBound && decide (f.asset = a)).map (·.segs)).getD []
      else readSegs s g (sl * slotSize im g) (funcSegCount s a)
    | _, _, _ => []

/-- The bytes of LPDDR that hold a version's coefficients: region, offset, length. -/
def funcPlace (s : State) (a ver : Nat) : Option (Nat × Nat × Nat) :=
  match s.bond.image with
  | none => none
  | some im =>
    match assetRegion im a, slotOf s a ver with
    | some g, some sl => some (g, sl * slotSize im g, 16 * funcSegCount s a)
    | _, _ => none

/-- The LPDDR reads of a slot fill, charged to the core's section (R157). -/
def chargeFill (s : State) (c a ver : Nat) : State :=
  match funcPlace s a ver with
  | some p => transfer s c p.1 p.2.1 p.2.2 false
  | none => s

/-- Whether the reads of a slot fill are served (R447, R455). -/
def fillServed (s : State) (c a ver : Nat) : Bool :=
  match funcPlace s a ver with
  | some p => !notServed s c p.1 p.2.1 p.2.2
  | none => true

/-- SFUNC_SLOT_FILL (R130): between steps, a slot of the core that is empty, or whose version R58 has freed, takes the version's coefficients.
A fill whose reads are not served leaves the slots as they were. -/
def sfuncFill (s : State) (c a ver : Nat) : State :=
  let l := funcSlotsOf s a c
  let keep := l.filter fun p => (assetSt s a).versions.any fun v => decide (v.ver = p.ver)
  if !(core s c).idle ∨ kindOf s a ≠ some 6 ∨ !(funcCores s a).contains c ∨ !(verifiedVers s a).contains ver
      ∨ (l.any fun p => decide (p.ver = ver)) then s
  else
    match (List.range 4).find? fun i => !(keep.any fun p => decide (p.slot = i)) with
    | none => s
    | some i =>
      let s1 := chargeFill s c a ver
      if !fillServed s c a ver then s1
      else { s1 with
        assets := { s1.assets with
          funcSlots := tset (fun _ => []) s.assets.funcSlots (funcKey a c) (keep ++ [{ ver := ver, slot := i, segs := funcTable s a ver }]) } }

/-- Whether a version counts as resident for a switch (R61, R130): verified, and for a function held by every core that uses it. -/
def switchReady (s : State) (a ver : Nat) : Bool :=
  (verifiedVers s a).contains ver
    && (decide (kindOf s a ≠ some 6) || (funcCores s a).all fun c => (funcSlotsOf s a c).any fun p => decide (p.ver = ver))

/-! ## Switches (R61 to R63) -/

/-- BOND_SWITCH_LEAD as it acts, in beats: not below N. -/
def switchLead (s : State) : Nat := max (bits (reg s Reg.BOND_SWITCH_LEAD) 19 0) (measureN s)

/-- The slot of a pending switch of asset `a` at S. -/
def switchAt (s : State) (a at_ : Nat) : Option Nat :=
  ((switchList s).find? fun p => decide (p.2.asset = a ∧ p.2.at_ = at_)).map (·.1)

/-- Write a switch slot. -/
def setSwitch (s : State) (i : Nat) (x : Option Switch) : State := { s with
    assets := { s.assets with
      switches := tset (fun _ => none) s.assets.switches i x } }

/-- A free switch slot. -/
def freeSwitch (s : State) : Option Nat := (List.range 64).find? fun i => (switchOf s i).isNone

/-- R61: the checks of a commit in the order of Table 03.8. -/
def commitCheck (s : State) (a ver at_ : Nat) : Nat :=
  if !isSealed s then 0x02
  else if (assetEntry s a).isNone then 0x03
  else if at_ < now s then 0x04
  else if at_ < addBeats (now s) (switchLead s) then 0x05
  else if !switchReady s a ver then 0x06
  else if (switchAt s a at_).isSome then 0x07
  else if (freeSwitch s).isNone then 0x08
  else 0x00

/-- The checks of a cancel. -/
def cancelCheck (s : State) (a at_ : Nat) : Nat :=
  if !isSealed s then 0x02
  else if (assetEntry s a).isNone then 0x03
  else if (switchAt s a at_).isNone then 0x0A
  else if at_ < addBeats (now s) (switchLead s) then 0x0B
  else 0x00

/-- SW_RESULT takes a code and slot; another code than ACCEPTED or BUSY raises SWITCH_REJECTED. -/
def swResult (s : State) (code slot : Nat) : State :=
  let s1 := setReg s Reg.SW_RESULT (slot * 256 + code)
  if 1 < code then setBits s1 Reg.BOND_INT_STATUS 0x40 else s1

/-- Body of a SWITCH entry (Table 18.4): SW_ASSET, SW_VERSION, SW_AT, OP. -/
def switchBody (a ver at_ op : Nat) : List Byte := natLE 4 a ++ natLE 4 ver ++ natLE 8 at_ ++ natLE 4 op

/-- An accepted commit or cancel is journalled; SW_RESULT reads BUSY until the twin acknowledges (R63). -/
def swJournal (s : State) (a ver at_ op slot : Nat) : State :=
  let r := journal s 0x03 0xFFFFFFFF (switchBody a ver at_ op)
  match r.2 with
  | none => swResult r.1 0 slot
  | some j => swResult { r.1 with
      assets := { r.1.assets with
        swBusy := some { code := 0, slot := slot, jseq := some j, op := op, args := [a, ver, at_] } } } 1 slot

/-- A commit takes effect (R61). -/
def swCommitRun (s : State) (a ver at_ : Nat) : State :=
  match commitCheck s a ver at_, freeSwitch s with
  | 0, some i =>
    swJournal (setSwitch s i (some { asset := a, version := ver, at_ := at_, awaiting := journals s })) a ver at_ 1 i
  | c, _ => swResult s (if c = 0 then 0x08 else c) 0

/-- A cancel takes effect (R62). -/
def swCancelRun (s : State) (a ver at_ : Nat) : State :=
  match cancelCheck s a at_, switchAt s a at_ with
  | 0, some i => reapAll (swJournal (setSwitch s i none) a ver at_ 2 i)
  | c, _ => swResult s (if c = 0 then 0x0A else c) 0

/-- A write of SW_CMD (R61). -/
def swCmd (s : State) (op : Nat) : State :=
  let a := bits (reg s Reg.SW_ASSET) 15 0
  let ver := reg s Reg.SW_VERSION
  let at_ := reg64 s Reg.SW_AT
  if s.assets.swBusy.isSome ∨ isHeld s 1 then busyWrite s Reg.SW_CMD
  else if holdsCommands s then swResult (holdCmd s 1 op [a, ver, at_]) 1 0
  else if op = 1 then swCommitRun s a ver at_ else swCancelRun s a ver at_

/-- The twin has acknowledged a commit or cancel, or refused it with a code (R60, R63): SW_RESULT leaves BUSY, and a version that the
switch alone kept is freed (R58). A command that an UNLOAD overtook reports NOT_SEALED. -/
def swAcked (s : State) (refused : Option Nat) : State :=
  match s.assets.swBusy with
  | none => s
  | some b =>
    let s1 := { s with
      assets := { s.assets with
        swBusy := none } }
    let i := b.slot
    if !isSealed s then swResult s1 0x02 i
    else
      match refused with
      | some c => swResult (reapAll (if b.op = 1 then setSwitch s1 i none else s1)) c i
      | none =>
        let s2 := match b.op, switchOf s1 i with
          | 1, some w => setSwitch s1 i (some { w with
              awaiting := false })
          | _, _ => s1
        swResult s2 b.code i

/-- Ports whose gate list is asset `a`. -/
def gatePorts (s : State) (a : Nat) : List Nat :=
  (List.range 4).filter fun n => decide (bits (reg s (Reg.POD_GATE_ASSET n)) 15 0 = a)

/-- The version of a switch becomes current (R62): other versions are superseded; a GATE_LIST governs its ports from this edge. -/
def makeCurrent (s : State) (a ver : Nat) : State :=
  let x := assetSt s a
  let s1 := setAsset s a { x with
    current := ver
    versions := x.versions.map fun v => if v.ver = ver then { v with
        everCurrent := true } else { v with
        superseded := true } }
  let s2 := { s1 with
    serve := { s1.serve with
      newest := none } }
  reapAll ((gatePorts s2 a).foldl gateChange s2)

/-- Whether a pending switch is the next of its asset and its time has come (R23, R62). -/
def switchDue (s : State) (w : Switch) : Bool :=
  isDue s w.at_ && hasCount s
    && !((switchList s).any fun p => decide (p.2.asset = w.asset ∧ p.2.at_ < w.at_))

/-- SWITCH_DUE (R62). -/
def switchApply (s : State) (i : Nat) : State :=
  match switchOf s i with
  | none => s
  | some w => if switchDue s w then setBits (makeCurrent (setSwitch s i none) w.asset w.version) Reg.BOND_INT_STATUS 0x20 else s

/-- The pending switches with their slots, in ascending S. -/
def switchesByTime (s : State) : List (Nat × Switch) :=
  (switchList s).foldl (fun l p => insertOrd (fun a b => decide (a.2.at_ ≤ b.2.at_)) p l) []

/-- R62: every switch whose time has come takes effect, in ascending S. -/
def dueSwitches (s : State) : State := (switchesByTime s).foldl (fun s' p => switchApply s' p.1) s

/-! ## The commands -/

/-- STG_BEGIN (R59). -/
def execStgBegin (s : State) : Out := host s Reg.STG_CMD fun s => stgCmd s 1
/-- STG_DATA (R59). -/
def execStgData (s : State) : Out := host s Reg.STG_CMD fun s => stgCmd s 2
/-- STG_END (R59). -/
def execStgEnd (s : State) : Out := host s Reg.STG_CMD fun s => stgCmd s 3
/-- STG_ABORT (R59). -/
def execStgAbort (s : State) : Out := host s Reg.STG_CMD fun s => stgCmd s 4
/-- STG_COMPLETE (R59). -/
def execStgComplete (s : State) : Out := done (stgComplete s)
/-- SW_COMMIT (R61). -/
def execSwCommit (s : State) : Out := host s Reg.SW_CMD fun s => swCmd s 1
/-- SW_CANCEL (R62). -/
def execSwCancel (s : State) : Out := host s Reg.SW_CMD fun s => swCmd s 2
/-- SWITCH_DUE (R62). -/
def execSwitchDue (i : Nat) (s : State) : Out := done (switchApply s i)
/-- SFUNC_SLOT_FILL (R130). -/
def execSfuncSlotFill (c a ver : Nat) (s : State) : Out := done (sfuncFill s c a ver)

end Sys2Proof.Machine
end

