-- ==== Sys2Proof/Machine/Image.lean ====
section
/-!
DEFINITION. Machine/Image.lean: reading a bond image container (R39, R40) and the chunks of Table 03.2 into the record State holds. It reads
whatever bytes it is given; Machine/Load.lean checks them.
-/
namespace Sys2Proof.Machine

/-! ## Container -/

/-- A directory entry (R40): TYPE, FLAGS, LENGTH, OFFSET. -/
structure ChunkE where
  type : Nat
  flags : Nat
  len : Nat
  off : Nat
  deriving DecidableEq, Repr

/-- CHUNK_COUNT. -/
def chunkCountOf (b : List Byte) : Nat := le b 52 4

/-- The chunk directory. -/
def chunkDir (b : List Byte) : List ChunkE :=
  (List.range (chunkCountOf b)).map fun i =>
    let o := le b 56 8 + 16 * i
    { type := le b o 2, flags := le b (o + 2) 2, len := le b (o + 4) 4, off := le b (o + 8) 8 }

/-- The bytes of the chunk of a type; nothing where there is none. -/
def chunkOf (b : List Byte) (t : Nat) : List Byte :=
  match (chunkDir b).find? fun e => decide (e.type = t) with
  | some e => slice b e.off e.len
  | none => []

/-- Split a chunk into records whose length `size` reads from their first bytes: the records, and whether they fill the chunk. -/
def splitRecs (size : List Byte → Nat) : Nat → List Byte → List (List Byte) × Bool
  | 0, bs => ([], decide (bs = []))
  | n + 1, bs =>
    if bs = [] then ([], true)
    else
      let k := size bs
      if k = 0 ∨ bs.length < k then ([], false)
      else
        let r := splitRecs size n (bs.drop k)
        (bs.take k :: r.1, r.2)

/-- The records of a chunk. -/
def recsOf (size : List Byte → Nat) (bs : List Byte) : List (List Byte) × Bool := splitRecs size (bs.length + 1) bs

/-- `n` records of `k` bytes from offset `o`. -/
def fixedRecs (bs : List Byte) (o k n : Nat) : List (List Byte) := (List.range n).map fun i => slice bs (o + k * i) k

/-! ## Chunks -/

/-- Table 03.4. -/
def sectionIn (r : List Byte) : Section :=
  { id := le r 0 1, kind := le r 1 1, flags := le r 2 2, period := bits (le r 4 4) 19 0, phase := bits (le r 8 4) 19 0,
    groups := (List.range 4).map fun d => le r (12 + d) 1, wcet := le r 16 4, chanBudget := le r 20 4, energyBase := le r 24 2,
    chainBase := le r 26 2 }

/-- Bytes of a sequencer record (R92). -/
def seqSize (r : List Byte) : Nat := 32 + 16 * le r 2 2

/-- Table 05.3 and the words behind it. -/
def seqIn (r : List Byte) : SeqTable :=
  { sect := le r 0 1, gateCols := le r 4 2, gateRows := bits (le r 6 1) 3 0, seed := le r 8 8,
    words := (List.range (le r 2 2)).map fun i => BitVec.ofNat 128 (le r (32 + 16 * i) 16) }

/-- Table 06.2. -/
def stageIn (x : Nat) : Stage :=
  { kind := bits x 7 0, cvt := bits x 23 8, sub := bits x 31 24, tensor := bits x 63 32, aAddr := bits x 80 64, bAddr := bits x 97 81,
    headroom := bits x 103 98, rowlen := bits x 127 108 }

/-- Prologue and epilogue stages of a chain record (Table 06.1). -/
def chainCounts (r : List Byte) : Nat × Nat := (bits (le r 3 1) 3 0, bits (le r 3 1) 7 4)

/-- Bytes of a chain record (R106). -/
def chainSize (r : List Byte) : Nat := 16 + 16 * ((chainCounts r).1 + (chainCounts r).2)

/-- Table 06.1. -/
def chainIn (r : List Byte) : Chain :=
  let n := chainCounts r
  let st (i : Nat) := stageIn (le r (16 + 16 * i) 16)
  { sect := le r 2 1, pro := (List.range n.1).map st, epi := (List.range n.2).map fun i => st (n.1 + i), prodCvt := le r 4 2,
    product := bit (le r 6 1) 0, prodTensor := le r 8 4 }

/-- The SFUNC directory (R125): entries go on while the next one ends at or before every offset of those before it. -/
def funcDir (c : List Byte) : Nat → Nat → Nat → List (List Byte)
  | 0, _, _ => []
  | n + 1, i, lim =>
    if lim < 32 * (i + 1) then []
    else
      let r := slice c (32 * i) 32
      r :: funcDir c n (i + 1) (min lim (min (le r 12 4) (min (le r 16 4) (le r 20 4))))

/-- The entries of an SFUNC chunk. -/
def funcEntries (c : List Byte) : List (List Byte) := funcDir c 256 0 c.length

/-- Table 07.1 with the table, pool and program it names (R126, R127). -/
def funcIn (c r : List Byte) : SFunc :=
  let sp := le r 4 2
  let t := le r 12 4
  { no := le r 0 1, ninf := bits sp 15 12, pinf := bits sp 11 8, nzero := bits sp 7 4, pzero := bits sp 3 0,
    assetBound := bit (le r 6 1) 0, asset := le r 8 2, bound := le r 10 2,
    segs := (List.range (le r 2 2)).map fun i => (le c (t + 16 * i) 8, le c (t + 16 * i + 8) 4, le c (t + 16 * i + 12) 4),
    prog := (List.range (le r 1 1)).map fun i => le c (le r 16 4 + 4 * i) 4,
    pool := (List.range 8).map fun i => le c (le r 20 4 + 8 * i) 8 }

/-- ALLOC_COUNT and REGION_COUNT (R149). -/
def allocCounts (c : List Byte) : Nat × Nat := (le c 0 4, le c 4 4)

/-- The allocation and region entries. -/
def allocRecs (c : List Byte) : List (List Byte) := fixedRecs c 8 16 (allocCounts c).1
/-- The region entries. -/
def regionRecs (c : List Byte) : List (List Byte) := fixedRecs c (8 + 16 * (allocCounts c).1) 24 (allocCounts c).2

/-- Table 08.4. -/
def allocIn (r : List Byte) : Alloc :=
  { sect := le r 2 1, flags := bits (le r 3 1) 4 0, base := 16 * le r 4 2, len := 16 * (le r 6 2 + 1), region := le r 8 2 }

/-- Table 08.6. -/
def regionIn (r : List Byte) : Region := { kind := le r 2 1, asset := le r 4 2, size := le r 8 8 }

/-- Bytes of a prefetch schedule (R155). -/
def pfSize (r : List Byte) : Nat := 8 + 24 * le r 4 2

/-- Table 08.8. -/
def pfEntryIn (r : List Byte) : PfEntry :=
  { trigger := le r 0 2, dset := bits (le r 2 1) 1 0, versioned := bit (le r 2 1) 2, item := bit (le r 2 1) 3, region := le r 4 2,
    alloc := le r 6 2, dstOff := 16 * le r 8 2, len := 16 * (le r 10 2 + 1), srcOff := le r 16 8 }

/-- A prefetch schedule. -/
def pfIn (r : List Byte) : PfSched := { sect := le r 0 1, entries := (fixedRecs r 8 24 (le r 4 2)).map pfEntryIn }

/-- The pool header of the YIELD chunk (R274). -/
def kvIn (c : List Byte) : KvPool :=
  { region := le c 0 2, blockBytes := le c 4 4, nblk := le c 8 4, hbits := le c 12 1, ctxMax := le c 14 2, prefillChunk := le c 16 2,
    homeStride := le c 18 4 }

/-- Bytes of a yield record (R287). -/
def yieldSize (r : List Byte) : Nat := 8 + 8 * le r 1 1 + 8 * le r 2 2

/-- A yield record. -/
def yieldIn (r : List Byte) : YieldRec :=
  { sect := le r 0 1,
    points := (fixedRecs r 8 8 (le r 1 1)).map fun e => (bits (le e 0 2) 12 0, le e 2 2, le e 4 2),
    ranges := (fixedRecs r (8 + 8 * le r 1 1) 8 (le r 2 2)).map fun e => (le e 0 2, le e 2 2, le e 4 2) }

/-- CLASS_COUNT and SPLIT_COUNT (R314). -/
def energyCounts (c : List Byte) : Nat × Nat := (le c 0 2, le c 2 1)

/-- The class entries of an ENERGY chunk. -/
def classRecs (c : List Byte) : List (List Byte) := fixedRecs c 16 16 (energyCounts c).1
/-- The split entries. -/
def splitRecsOf (c : List Byte) : List (List Byte) := fixedRecs c (16 + 16 * (energyCounts c).1) 4 (energyCounts c).2

/-- Table 15.2. -/
def classIn (r : List Byte) : EClass := { sect := le r 2 1, keyMin := le r 12 4, engCk := le r 8 4, e0 := le r 4 4 }

/-- A claim (R51). -/
def claimIn (r : List Byte) : Claim :=
  { cls := le r 0 1, index := le r 1 2, mode := le r 3 1, sect := le r 4 1, feature := le r 5 3 }

/-- Table 03.6. -/
def assetIn (r : List Byte) : AssetE :=
  { id := le r 0 2, kind := le r 2 1, instant := bit (le r 3 1) 0, initial := le r 4 4, size := le r 8 8, shape := slice r 16 32,
    digest := slice r 48 32 }

/-- A budget entry (R158). -/
def budgetIn (r : List Byte) : Budget := { sect := le r 0 1, borrow := bit (le r 1 1) 0, burst := le r 4 4 }

/-- Table 03.13 and the step entries of R49. -/
def planIn (c : List Byte) : Plan :=
  { slots := le c 0 2, inImageLen := le c 4 4, inKeys := le c 8 1, period := le c 12 4,
    steps := (fixedRecs c 32 4 (le c 2 2)).map fun e => (le e 0 1, bits (le e 1 1) 3 0) }

/-- A proof record (R50). -/
def proofIn (r : List Byte) : ProofRec := { sect := le r 0 1, itemLimit := le r 2 2, wcet := le r 4 4, proofId := slice r 16 16 }

/-- The image a container holds. -/
def imageIn (b : List Byte) : Image :=
  let al := chunkOf b 5
  let en := chunkOf b 8
  { imageId := le b 24 8, imageVer := le b 32 4, measureN := le b 36 2, frontL := le b 40 4, reqMemdev := le b 44 1,
    reqPodports := le b 45 1, reqTwin := bit (le b 46 1) 0, reqGroups := (List.range 4).map fun d => le b (48 + d) 1,
    sections := (fixedRecs (chunkOf b 1) 0 32 (le b 22 2)).map sectionIn,
    seq := (recsOf seqSize (chunkOf b 2)).1.map seqIn,
    chains := (recsOf chainSize (chunkOf b 3)).1.map chainIn,
    funcs := (funcEntries (chunkOf b 4)).map (funcIn (chunkOf b 4)),
    allocs := (allocRecs al).map allocIn, regions := (regionRecs al).map regionIn,
    prefetch := (recsOf pfSize (chunkOf b 6)).1.map pfIn,
    kv := kvIn (chunkOf b 7), yields := (recsOf yieldSize ((chunkOf b 7).drop 32)).1.map yieldIn,
    f0 := le en 4 8, classes := (classRecs en).map classIn,
    splits := (splitRecsOf en).map fun r => (le r 0 1, le r 2 2),
    claims := (recsOf (fun _ => 8) (chunkOf b 9)).1.map claimIn,
    assets := (recsOf (fun _ => 80) (chunkOf b 10)).1.map assetIn,
    budgets := (recsOf (fun _ => 16) (chunkOf b 11)).1.map budgetIn,
    plan := planIn (chunkOf b 12),
    proofs := (recsOf (fun _ => 32) (chunkOf b 13)).1.map proofIn,
    digest := [] }

end Sys2Proof.Machine
end

