-- ==== Sys2Proof/Machine/Seq.lean ====
section
/-!
DEFINITION. Machine/Seq.lean: the sequencer's own words (R93, R94, R286), the matrix words (spec/05_matrix_cores.md), the chain words
(spec/06_fused_chains.md) and SMXMERGE (R141) as commands: each acts when core `c`'s place in its sequencer table holds that word.
-/
namespace Sys2Proof.Machine

/-- A word that touches no scratchpad. -/
def noReach : Core → Nat → List Access := fun _ _ => []

/-- A word that nothing holds back. -/
def noHold : Core → Nat → Option Hold := fun _ _ => none

/-- NOP (R93). -/
def execOpNop (c : Nat) (s : State) : Out := finish (issue s c 0x00 noReach noHold fun s' _ _ => advance s' c)

/-- The loop a LOOP word at place `pc` opens (Table 05.5). -/
def loopOf (pc w : Nat) : Loop :=
  { first := pc + 1, body := bits w 119 108, count := bits w 107 88, iter := 0, kloop := bit w 87, acc := signed 4 (bits w 83 80),
    s := signed 16 (bits w 79 64), w := signed 16 (bits w 63 48), a := signed 16 (bits w 47 32) }

/-- LOOP takes effect: the words of its body follow. -/
def loopEffect (s : State) (c : Nat) (k : Core) (w : Nat) : State :=
  setCore s c { k with
    loops := loopOf k.pc w :: k.loops
    pc := k.pc + 1
    issued := insertAsc k.pc k.issued }

/-- LOOP (R94). -/
def execLoop (c : Nat) (s : State) : Out := finish (issue s c 0x01 noReach noHold fun s' k w => loopEffect s' c k w)

/-- STEP_END (R93): the core idles to its next step boundary. -/
def stepEndEffect (s : State) (c : Nat) (k : Core) : State :=
  setCore s c { k with
    idle := true
    issued := insertAsc k.pc k.issued }

/-- STEP_END. -/
def execStepEnd (c : Nat) (s : State) : Out := finish (issue s c 0x02 noReach noHold fun s' k _ => stepEndEffect s' c k)

/-- Whether STEP_END is what the core would issue next, no loop going round again, so that the segment's work is done (R286; log 23). -/
def workDone (s : State) (c : Nat) : Bool :=
  match seqTable s c with
  | some t =>
    match t.words[(popLoops (core s c).loops ((core s c).pc + 1)).2]? with
    | some w => decide (opcode w.toNat = 0x02)
    | none => true
  | none => true

/-- R286: the items of the segment a YIELD ends before its work is done; the Caller offers those of PREFILL and DECODE again. -/
def preempted (s : State) (c : Nat) (k : Core) : List Nat :=
  match k.current with
  | some x => if workDone s c then [] else x.items
  | none => []

/-- Pre-empted items of PREFILL and DECODE complete nothing in this step, unless a later segment of the core runs them on. -/
def offerAgain (s : State) (c : Nat) (k : Core) (items : List Nat) : State :=
  match coreSection s c with
  | some i =>
    if sectionKind s i = 7 ∨ sectionKind s i = 8 then
      loseItems s i (items.filter fun x => !(k.segments.any fun (g : Segment) => g.items.contains x))
    else s
  | none => s

/-- YIELD takes effect (R286): with a further segment the core passes to it at RESUME (R161), and to its prefetch schedule's beginning where
the segment is of another version group (R156); items whose work is not done
count in SERVE_CNT_PREEMPT. Else it acts as a NOP. -/
def yieldEffect (s : State) (c : Nat) (k : Core) (w : Nat) : State :=
  match k.segments with
  | [] => advance s c
  | g :: gs =>
    let items := preempted s c k
    let s0 := offerAgain (bumpBy s Reg.SERVE_CNT_PREEMPT items.length) c k items
    let s1 := handover s0 c (bits w 119 114) (some g)
    modCore s1 c fun k' => { (if g.vset = k.vset then { k' with
        issued := insertAsc k.pc k'.issued } else k'.rewindPrefetch) with
      segments := gs
      served := k'.served ++ (match k.current with
        | some x => x.items
        | none => [])
      loops := []
      pc := bits w 113 102 }

/-- YIELD (R286). -/
def execYield (c : Nat) (s : State) : Out := finish (issue s c 0x03 noReach noHold fun s' k w => yieldEffect s' c k w)

/-- MMA (R97). -/
def execMma (c : Nat) (s : State) : Out := finish (issue s c 0x10 mmaReads mmaHold fun s' k w => mmaEffect s' c k w)

/-- WLOAD (R96). -/
def execWload (c : Nat) (s : State) : Out :=
  finish (issue s c 0x11 wloadReads (fun k w => readHold k (wloadReads k w)) fun s' k w => wloadEffect s' c k w)

/-- PREPASS (R95). -/
def execPrepass (c : Nat) (s : State) : Out :=
  finish (issue s c 0x12 prepassReads prepassHold fun s' k w => prepassEffect s' c k w)

/-- ACCUM_DRAIN (R98, R112). -/
def execAccumDrain (c : Nat) (s : State) : Out := done (drainEffect s c)

/-- EPI_BIND (R112). -/
def execEpiBind (c : Nat) (s : State) : Out :=
  finish (issue s c 0x20 (fun _ w => epiAccess s c w) (epiHold s c) fun s' k w => epiBindEffect s' c k w)

/-- PROLOGUE (R114). -/
def execPrologue (c : Nat) (s : State) : Out :=
  finish (issue s c 0x21 (fun _ w => passAccess true s c w) (fun k w => rangeHold k (passAccess true s c w))
    fun s' k w => prologueEffect s' c k w)

/-- VPASS (R114). -/
def execVpass (c : Nat) (s : State) : Out :=
  finish (issue s c 0x22 (fun _ w => passAccess false s c w) (fun k w => rangeHold k (passAccess false s c w))
    fun s' k w => vpassEffect s' c k w)

/-- RECMERGE (R117). -/
def execRecmerge (c : Nat) (s : State) : Out :=
  finish (issue s c 0x23 (fun _ w => mergeAccess 64 w) (fun k w => rangeHold k (mergeAccess 64 w)) fun s' k w => recMergeEffect s' c k w)

/-- SMXMERGE (R141). -/
def execSmxmerge (c : Nat) (s : State) : Out :=
  finish (issue s c 0x30 (fun _ w => mergeAccess 32 w) (fun k w => rangeHold k (mergeAccess 32 w)) fun s' k w => smxMergeEffect s' c k w)

end Sys2Proof.Machine
end

