-- ==== Sys2Proof/Machine/Load.lean ====
section
/-!
DEFINITION. Machine/Load.lean: the load checks of Table 03.5 (R45), step by step, over the bytes of a container and the image read from
them. A check answers the code, step and index of its first failure.
-/
namespace Sys2Proof.Machine

/-- A failed check: code, step, index (R45). -/
abbrev Bad := Nat × Nat × Nat

/-- The first failure of a list of checks. -/
def firstBad : List (Option Bad) → Option Bad
  | [] => none
  | none :: r => firstBad r
  | some b :: _ => some b

/-- A check with a fixed index. -/
def chk (ok : Bool) (code step index : Nat) : Option Bad := if ok then none else some (code, step, index)

/-- A check of every element of a list: the index of the failure is the position of the first element that fails. -/
def chkAll {α : Type} (l : List α) (ok : α → Bool) (code step : Nat) : Option Bad :=
  match l.findIdx? fun x => !ok x with
  | some i => some (code, step, i)
  | none => none

/-- A check of every element of a list, whose index an element names. -/
def chkEach {α : Type} (l : List α) (ok : α → Bool) (index : α → Nat) (code step : Nat) : Option Bad :=
  match l.find? fun x => !ok x with
  | some x => some (code, step, index x)
  | none => none

/-- Whether all bytes of a range are zero. -/
def zeroIn (b : List Byte) (o n : Nat) : Bool := (slice b o n).all fun x => decide (x = 0)

/-- Whether the values of a list rise strictly. -/
def rising : List Nat → Bool
  | [] => true
  | [_] => true
  | a :: b :: r => decide (a < b) && rising (b :: r)

/-- Whether the values of a list do not fall. -/
def nonFalling : List Nat → Bool
  | [] => true
  | [_] => true
  | a :: b :: r => decide (a ≤ b) && nonFalling (b :: r)

/-- The sections of kind other than DARK. -/
def liveSections (im : Image) : List Section := im.sections.filter fun x => decide (x.kind ≠ 0)

/-- Whether a section is a front-end plan member. -/
def Section.front (x : Section) : Bool := bit x.flags 0

/-! ## Step 1: FORMAT (R39, R40, R49, R51, R129, R315) -/

/-- Table 03.1 and the order of the parts (R39). -/
def headerOk (b : List Byte) : Bool :=
  let dirEnd := le b 56 8 + 16 * chunkCountOf b
  decide (256 ≤ b.length) && decide (le b 0 4 = 0x0B0DC0A5) && decide (le b 4 2 = 1) && decide (le b 6 2 = 256)
    && decide (le b 8 8 = b.length) && decide (1 ≤ le b 22 2) && decide (le b 22 2 ≤ 64) && decide (1 ≤ chunkCountOf b)
    && decide (chunkCountOf b ≤ 64) && decide (256 ≤ le b 56 8) && decide (dirEnd ≤ le b 64 8)
    && decide (le b 64 8 + le b 72 8 ≤ le b 80 8) && decide (le b 80 8 + 29792 = b.length) && zeroIn b 38 2
    && decide (le b 46 1 ≤ 1) && zeroIn b 47 1 && zeroIn b 88 168

/-- One directory entry (R40): within the chunks' part, known or optional, no type twice, no reserved flag. -/
def dirEntryOk (b : List Byte) (i : Nat) (e : ChunkE) : Bool :=
  let known := decide (1 ≤ e.type) && decide (e.type ≤ 13)
  decide (le b 56 8 + 16 * chunkCountOf b ≤ e.off) && decide (e.off + e.len ≤ le b 64 8) && decide (e.flags ≤ 1)
    && (known || bit e.flags 0) && (!known || !(((chunkDir b).take i).any fun x => decide (x.type = e.type)))

/-- The position of a chunk's entry. -/
def chunkPos (b : List Byte) (t : Nat) : Nat := ((chunkDir b).findIdx? fun e => decide (e.type = t)).getD 0xFFFF

/-- Every type of Table 03.2 is present; PROOF may be absent when every section is DARK (R40). -/
def chunksPresent (b : List Byte) : Bool :=
  (List.range 13).all fun i =>
    ((chunkDir b).any fun e => decide (e.type = i + 1)) || (decide (i = 12) && decide (liveSections (imageIn b) = []))

/-- Lengths of the chunks, by type. -/
def chunkLenOk (b : List Byte) (t : Nat) : Bool :=
  let c := chunkOf b t
  match t with
  | 1 => decide (c.length = 32 * le b 22 2)
  | 2 => (recsOf seqSize c).2
  | 3 => (recsOf chainSize c).2
  | 5 => decide (8 ≤ c.length) && decide (c.length = 8 + 16 * (allocCounts c).1 + 24 * (allocCounts c).2)
  | 6 => (recsOf pfSize c).2
  | 7 => decide (32 ≤ c.length) && (recsOf yieldSize (c.drop 32)).2
  | 8 => decide (16 ≤ c.length) && decide (c.length = 16 + 16 * (energyCounts c).1 + 4 * (energyCounts c).2)
  | 9 => (recsOf (fun _ => 8) c).2
  | 10 => (recsOf (fun _ => 80) c).2
  | 11 => (recsOf (fun _ => 16) c).2
  | 12 => decide (32 ≤ c.length) && decide (c.length = 32 + 4 * le c 2 2)
  | 13 => (recsOf (fun _ => 32) c).2
  | _ => true

/-- Reserved bits of the chunks of this chapter and of the sequencer headers; those of a chunk with a check of its own fail there. -/
def chunkZeroOk (b : List Byte) (t : Nat) : Bool :=
  let c := chunkOf b t
  match t with
  | 1 => (fixedRecs c 0 32 (le b 22 2)).all fun r =>
      decide (le r 2 2 ≤ 1) && decide (le r 4 4 < 2 ^ 20) && decide (le r 8 4 < 2 ^ 20) && zeroIn r 28 4
  | 2 => (recsOf seqSize c).1.all fun r => zeroIn r 1 1 && decide (le r 6 1 < 16) && zeroIn r 7 1 && zeroIn r 16 16
  | 10 => (recsOf (fun _ => 80) c).1.all fun r => decide (le r 3 1 ≤ 1)
  | 7 => (recsOf yieldSize (c.drop 32)).1.all fun r =>
      zeroIn r 4 4 && ((fixedRecs r 8 8 (le r 1 1)).all fun e => decide (le e 0 2 < 8192) && zeroIn e 6 2)
        && (fixedRecs r (8 + 8 * le r 1 1) 8 (le r 2 2)).all fun e => zeroIn e 6 2
  | 8 => zeroIn c 3 1 && zeroIn c 12 4 && ((classRecs c).all fun r => zeroIn r 3 1) && (splitRecsOf c).all fun r => zeroIn r 1 1
  | 12 => zeroIn c 9 3 && zeroIn c 16 16 && (fixedRecs c 32 4 (le c 2 2)).all fun e => decide (le e 1 1 < 16) && zeroIn e 2 2
  | 13 => (recsOf (fun _ => 32) c).1.all fun r => zeroIn r 1 1 && zeroIn r 8 8
  | _ => true

/-- A step word of a micro-program (R127, R129): its operation, pool indices, SH and reserved bits. A MODE or a SELECT value that Table 07.2
does not define counts as a reserved operation (log 61); fields that an operation does not use may hold anything. -/
def stepWordOk (w : Nat) : Bool :=
  let mode := bits w 27 24
  let a := bits w 23 16
  let b := bits w 15 8
  decide (bits w 7 0 = 0) && (match bits w 31 28 with
    | 0 => decide (bits mode 2 0 ≤ 5) && decide (a < 8)
    | 1 => decide (a ≤ 10)
    | 2 => true
    | 3 => decide (mode ≤ 8) && decide (a < 8)
    | 4 => decide (mode ≤ 2) && decide (a < 8) && decide (bits b 7 4 ≤ 4)
    | 5 => decide (a < 8) && decide (b < 8)
    | _ => false)

/-- An SFUNC directory entry (R129). -/
def funcOk (c r : List Byte) : Bool :=
  let f := funcIn c r
  decide (1 ≤ le r 1 1) && decide (le r 1 1 ≤ 16) && decide (1 ≤ le r 2 2) && decide (le r 2 2 ≤ 1024)
    && decide (le r 12 4 + 16 * le r 2 2 ≤ c.length) && decide (le r 16 4 + 4 * le r 1 1 ≤ c.length)
    && decide (le r 20 4 + 64 ≤ c.length) && [f.ninf, f.pinf, f.nzero, f.pzero].all (fun x => decide (x ≤ 9))
    && decide (le r 6 1 ≤ 1) && zeroIn r 7 1 && zeroIn r 24 8 && f.prog.all stepWordOk

/-- R129, with the function number as index. -/
def funcsBad (b : List Byte) : Option Bad :=
  let c := chunkOf b 4
  let es := funcEntries c
  let nos := es.map fun r => le r 0 1
  match (List.range es.length).find? fun i => !funcOk c (es.getD i []) || (nos.take i).contains (nos.getD i 0) with
  | some i => some (0x01, 1, nos.getD i 0)
  | none => none

/-- The energy classes of a section (R315). -/
def classesOk (im : Image) (x : Section) : Bool :=
  let ids := (List.range im.classes.length).filter fun i => decide ((im.classes.getD i ⟨0, 0, 0, 0⟩).sect = x.id)
  let keys := ids.map fun i => (im.classes.getD i ⟨0, 0, 0, 0⟩).keyMin
  if x.kind = 0 ∧ !x.front ∧ ids = [] then true
  else
    decide (ids ≠ []) && decide (ids = (List.range ids.length).map (x.energyBase + ·)) && decide (keys.headD 1 = 0) && rising keys
      && (!x.front || decide (ids.length = 1))

/-- R314, R315. -/
def energyBad (b : List Byte) (im : Image) : Option Bad :=
  let c := chunkOf b 8
  firstBad
    [chk (decide (1 ≤ (energyCounts c).1) && decide ((energyCounts c).1 ≤ 4096)) 0x01 1 (chunkPos b 8),
     chkAll ((List.range (classRecs c).length).map fun i => (i, (classRecs c).getD i []))
       (fun p => decide (le p.2 0 2 = p.1) && decide (0 < le p.2 4 4) && im.sections.any fun x => decide (x.id = le p.2 2 1)) 0x01 1,
     chkEach im.sections (classesOk im) (·.id) 0x01 1,
     chkEach im.splits (fun p => im.sections.any fun x => decide (x.id = p.1) && decide (x.kind ≠ 0) && !x.front) (·.1) 0x01 1,
     chk (decide ((im.splits.map (·.2)).foldl (· + ·) 0 ≤ 65536)) 0x01 1 (chunkPos b 8)]

/-- R49, Table 03.13. -/
def planBad (b : List Byte) (im : Image) : Option Bad :=
  let c := chunkOf b 12
  let pos := chunkPos b 12
  let fronts := im.sections.filter Section.front
  firstBad
    [chk (decide (1 ≤ im.plan.slots) && decide (1 ≤ le c 2 2) && decide (le c 2 2 ≤ 256) && decide (im.plan.inImageLen ≤ 2097151)
        && decide (im.plan.inKeys ≤ 64)) 0x01 1 pos,
     chk (im.plan.steps.all fun p =>
        match fronts.find? fun x => decide (x.id = p.1) with
        | none => false
        | some x => decide (p.2 ≤ 3) && (decide (p.2 ≠ 1 ∧ p.2 ≠ 2) || decide (x.kind = 3)) && (decide (p.2 ≠ 3) || decide (x.kind = 5)))
       0x01 1 pos,
     chk (fronts.all fun x => im.plan.steps.any (fun p => decide (p.1 = x.id)) && decide (x.period = im.plan.period)) 0x01 1 pos]

/-- Feature codes of Table 03.7 by resource class. -/
def features (cls : Nat) : List Nat :=
  match cls with
  | 1 => [0x01, 0x02]
  | 2 => [0x10, 0x11]
  | 3 => [0x20, 0x21, 0x22, 0x23]
  | 4 => [0x30, 0x31]
  | _ => []

/-- R51: a claim names a resource of Table 03.7, a mode and a feature code; `units` is E. -/
def claimOk (units : Nat) (x : Claim) : Bool :=
  (match x.cls with
    | 1 => decide (x.index = 0)
    | 2 => decide (x.index = 0)
    | 3 => decide (x.index ≤ 15)
    | 4 => decide (x.index < units)
    | _ => false) && decide (x.mode ≤ 1) && (features 1 ++ features 2 ++ features 3 ++ features 4).contains x.feature

/-- Check 1 of Table 03.5. -/
def formatBad (b : List Byte) (im : Image) (units : Nat) : Option Bad :=
  if !headerOk b then some (0x01, 1, 0xFFFF)
  else
    firstBad
      [chkAll ((List.range (chunkDir b).length).map fun i => (i, (chunkDir b).getD i ⟨0, 0, 0, 0⟩)) (fun p => dirEntryOk b p.1 p.2) 0x01 1,
       chk (chunksPresent b) 0x01 1 0xFFFF,
       chkEach ((List.range 13).map (· + 1)) (fun t => chunkLenOk b t && chunkZeroOk b t) (chunkPos b) 0x01 1,
       funcsBad b, energyBad b im, planBad b im, chkAll im.claims (claimOk units) 0x01 1]

/-! ## Sequencer words (R93, R99) -/

/-- The opcodes that name a word. -/
def opcodes : List Nat :=
  [0x00, 0x01, 0x02, 0x03, 0x10, 0x11, 0x12, 0x20, 0x21, 0x22, 0x23, 0x30, 0x4E, 0x4F, 0x50, 0x51, 0x52, 0x53, 0x54, 0x55, 0x60, 0x61]

/-- Whether the reserved bits of a word are zero. -/
def wordZeroOk (w : Nat) : Bool :=
  let z (l : List (Nat × Nat)) := l.all fun p => decide (bits w p.1 p.2 = 0)
  match opcode w with
  | 0x00 => z [(119, 0)]
  | 0x01 => z [(86, 84), (31, 0)]
  | 0x02 => z [(119, 0)]
  | 0x03 => z [(101, 0)]
  | 0x10 => z [(83, 82), (48, 0)]
  | 0x11 => z [(119, 116), (110, 109), (107, 82), (48, 0)]
  | 0x12 => z [(111, 108), (103, 103), (83, 82), (47, 0)]
  | 0x20 => z [(28, 0)]
  | 0x21 => z [(1, 0)]
  | 0x22 => z [(1, 0)]
  | 0x23 => z [(63, 0)]
  | 0x30 => z [(63, 0)]
  | 0x4E => z [(112, 112), (44, 40)]
  | 0x4F => z [(24, 0)]
  | 0x50 => z [(112, 112), (65, 64)]
  | 0x51 => z [(115, 114), (112, 112), (65, 64)]
  | 0x52 => z [(115, 114), (112, 112), (65, 64), (63, 0)]
  | 0x53 => z [(107, 0)]
  | 0x54 => z [(103, 0)]
  | 0x55 => z [(99, 0)]
  | 0x60 => z [(19, 0)]
  | 0x61 => z [(66, 0)]
  | _ => true

/-- Whether a conversion descriptor is defined (Table 04.2). -/
def cvtOk (x : Nat) : Bool := decide (bits x 15 6 = 0) && decide (bits x 3 0 < 8)

/-- R65 over the format codes of a word: BF16 pairs with BF16 only. -/
def formatsOk (w : Nat) : Bool :=
  decide (bits w 119 116 ≤ 3) && decide (bits w 115 112 ≤ 6) && decide ((bits w 119 116 = 3) = (bits w 115 112 = 3))

/-- KFORM is 1 exactly for MXFP6 and MXFP4 weights (R90). -/
def kformOk (w : Nat) : Bool := decide (bit w 111 = decide (4 ≤ bits w 115 112))

/-- The fields of a word that R99, R153, R193, R195 and R211 restrict. DESIGN CHOICE (log 69): a field value that no table defines (a source
format above 6, DSET 3, a SELECT source kind or destination of 3, a SEL_MERGE KIND outside 1 to 3, an OFFSET off its 16-byte unit, a LOOP of
no words or no iterations) fails with 0x0B as reserved bits do. -/
def wordFormOk (w : Nat) : Bool :=
  match opcode w with
  | 0x10 => formatsOk w && kformOk w && !(decide (bits w 115 112 = 3) && bit w 64)
  | 0x11 => decide (bits w 115 112 ≤ 6) && kformOk w && !(decide (bits w 115 112 = 3) && bit w 64)
  | 0x12 => formatsOk w
  | 0x21 => decide (bits w 77 74 < 8)
  | 0x22 => decide (bits w 77 74 < 8)
  | 0x4E => decide (bits w 39 0 % 16 = 0)
  | 0x4F => cvtOk (bits w 40 25) && decide (bits w 28 25 ≤ 1) && !bit w 29
  | 0x50 => decide (bits w 115 114 ≤ 2) && decide (bits w 63 0 % 16 = 0)
  | 0x51 => decide (bits w 63 0 % 16 = 0)
  | 0x60 => decide (bits w 119 118 ≤ 2) && decide (bits w 48 47 ≤ 2) && decide (bits w 116 104 ≤ 4095) && (decide (bits w 116 104 < 64) || bit w 117)
  | 0x61 => decide (1 ≤ bits w 113 110 ∧ bits w 113 110 ≤ 3) && decide (bits w 96 95 ≤ 2) && decide (bits w 109 97 ≤ 4095)
  | _ => true

/-- A core whose loops are `ls`. -/
def kOf (ls : List Loop) : Core := { Core.reset with
  loops := ls }

/-- Every word of a table with its place and the loops around it, outermost last. DESIGN CHOICE (log 61): a LOOP whose body runs past the
end of the enclosing body or of the table passes these checks, with its body cut there. -/
def nests : Nat → List Loop → Nat → List Nat → List (Nat × Nat × List Loop)
  | 0, _, _, _ => []
  | _ + 1, _, _, [] => []
  | n + 1, ls, pos, w :: ws =>
    (pos, w, ls) ::
      (if opcode w = 0x01 then
        let l := loopOf pos w
        nests n (l :: ls) (pos + 1) (ws.take l.body) ++ nests n ls (pos + 1 + l.body) (ws.drop l.body)
      else nests n ls (pos + 1) ws)

/-- Every combination of iterations of a loop nest. -/
def combos : List Loop → List (List Loop)
  | [] => [[]]
  | l :: ls => (List.range l.count).flatMap fun i => (combos ls).map fun r => { l with
      iter := i } :: r

/-- The words of a sequencer table as numbers. -/
def wordsOf (t : SeqTable) : List Nat := t.words.map (·.toNat)

/-- The nest of a table's words. -/
def tableNest (t : SeqTable) : List (Nat × Nat × List Loop) := nests (t.words.length + 1) [] 0 (wordsOf t)

/-- The scratchpad ranges a word reads and writes, its operands under the strides of `k`. What depends on data is left out: of a TGATHER's
keys the first stands, of its rows the 16 elements that every table has (R207). -/
def wordAccess (im : Image) (x : Section) (k : Core) (w : Nat) : List Access :=
  let chain (i : Nat) := im.chains[x.chainBase + i]?
  match opcode w with
  | 0x10 => mmaReads k w
  | 0x11 => wloadReads k w
  | 0x12 => prepassReads k w
  | 0x20 => epiAccessOf (chain (epiFields w).chain) w
  | 0x21 => passAccessOf true (chain (passFields w).chain) w
  | 0x22 => passAccessOf false (chain (passFields w).chain) w
  | 0x23 => mergeAccess 64 w
  | 0x30 => mergeAccess 32 w
  | 0x4E => [⟨4 * bits w 111 95, 32, false⟩, ⟨4 * bits w 94 78, 16, false⟩, ⟨4 * bits w 61 45, 4, false⟩]
  | 0x4F =>
    let bags := bits w 86 75 + 1
    [⟨4 * bits w 103 87, 8 * bags, false⟩, ⟨4 * bits w 74 58, 8, false⟩,
      ⟨4 * bits w 57 41, bags * 16 * ((((Cvt.ofNat (bits w 40 25)).fmt).getD .fp32).width / 8), true⟩]
  | 0x50 => getReach k w
  | 0x51 => putReach k w
  | 0x52 => putReach k w ++ (putReach k w).map fun a => { a with write := true }
  | 0x60 => topkReach k w
  | 0x61 => mergeReach k w
  | _ => []

/-- The addresses a word names (R99): its ranges, and a matrix word's scale address with GSTART clear too. -/
def namedAccess (im : Image) (x : Section) (k : Core) (w : Nat) : List Access :=
  wordAccess im x k w
    ++ (match opcode w with
      | 0x10 => [⟨sAddr k w, 4, false⟩]
      | 0x11 => [⟨sAddr k w, 16, false⟩]
      | _ => [])

/-- Whether the operand fields of a matrix word stay above zero, and its sets within 0 to 15, under the strides of `k` (R99). -/
def stridesOk (k : Core) (w : Nat) : Bool :=
  let low (base : Nat) (f : Loop → Int) := decide (0 ≤ (base : Int) + strideSum f k.loops)
  let top (n : Nat) := decide (((bits w 107 104 : Nat) : Int) + strideSum Loop.acc k.loops + n ≤ 15)
  match opcode w with
  | 0x10 => low (bits w 107 104) Loop.acc && top 0 && low (bits w 63 49) Loop.a && low (bits w 81 65) Loop.s
  | 0x11 => low (bits w 63 49) Loop.w && low (bits w 81 65) Loop.s
  | 0x12 => low (bits w 107 104) Loop.acc && top (bits w 102 100) && low (bits w 81 65) Loop.s && low (bits w 64 48) Loop.s
  | _ => true

/-- Whether a word's addresses stay in the scratchpad under every stride (R99); chain words fall under R124. -/
def addressesOk (im : Image) (x : Section) (w : Nat) (ls : List Loop) : Bool :=
  (combos ls).all fun c => stridesOk (kOf c) w
    && (decide (0x20 ≤ opcode w ∧ opcode w ≤ 0x22) || inScratchpad (namedAccess im x (kOf c) w))

/-- R101: a mask enables no gated lane. -/
def gatesOk (t : SeqTable) (w : Nat) : Bool :=
  decide (opcode w ≠ 0x10)
    || (decide (Nat.land (bits w 103 100) (Nat.xor 15 t.gateRows) = 0) && decide (Nat.land (bits w 99 84) (Nat.xor 0xFFFF t.gateCols) = 0))

/-! ### Walking a table in execution order -/

/-- Bytes that a PROLOGUE wrote and nothing has rewritten: from, to (exclusive), the FORMAT code of its last stage (R109) and its chain. -/
structure Feed where
  lo : Nat
  hi : Nat
  fmt : Nat
  chain : Nat
  deriving DecidableEq, Repr

/-- What is left of a feed after bytes are rewritten. -/
def Feed.minus (f : Feed) (a : Access) : List Feed :=
  ([{ f with hi := min f.hi a.lo }, { f with lo := max f.lo (a.lo + a.len) }]).filter fun x => decide (x.lo < x.hi)

/-- Where a walk begins: the word, the masks of each open set, the sets a PREPASS covers, and the prologue outputs in the scratchpad. -/
structure Entry where
  pc : Nat
  masks : Tab (Option (Nat × Nat))
  pre : List Nat
  feeds : List Feed
  deriving DecidableEq, Repr

/-- A PROLOGUE whose product has not drained (R115): its chain, the bytes it wrote, and whether an MMA word has read them. -/
structure Pro where
  chain : Nat
  lo : Nat
  hi : Nat
  opened : Bool
  deriving DecidableEq, Repr

/-- A set that drained under an EPI_BIND: the word, how many EPI_BIND words came before it, the set's place t (R112) and its COLMASK. -/
structure Drained where
  word : Nat
  nth : Nat
  t : Nat
  cols : Nat
  deriving DecidableEq, Repr

/-- What the walk keeps: the masks of each open set, the sets a PREPASS covers, the prologue outputs in the scratchpad; the last EPI_BIND
word and its number, the sets that it still governs, its chain and the ranges it holds, the sets and weight buffers that words touching those
ranges feed; the PROLOGUE words whose product has not drained, the sets that drained; whether the step ended, whether R99 and R152 are broken,
the chains on which R109 and R115 are broken, and where the YIELD words may go on. -/
structure Walk where
  masks : Tab (Option (Nat × Nat))
  pre : List Nat
  feeds : List Feed
  word : Nat
  nth : Nat
  left : Nat
  chain : Nat
  held : List SbRange
  touch : List Nat
  touchW : List Nat
  pros : List Pro
  drained : List Drained
  ended : Bool
  bad : Bool
  heldBad : Bool
  feedBad : Option Nat
  yieldBad : Option Nat
  resumes : List Entry
  deriving DecidableEq, Repr

/-- The walk before its first word. -/
def Entry.start (e : Entry) : Walk :=
  { masks := e.masks, pre := e.pre, feeds := e.feeds, word := 0, nth := 0, left := 0, chain := 0, held := [], touch := [], touchW := [],
    pros := [], drained := [], ended := false, bad := false, heldBad := false, feedBad := none, yieldBad := none, resumes := [] }

/-- FORMAT code of an AFMT code (R109). -/
def afmtFormat (a : Nat) : Nat := match a with | 0 => 7 | 1 => 2 | 2 => 3 | _ => 1

/-- Whether an access meets a range that the EPI_BIND in force holds (R146, R152). -/
def Walk.meets (v : Walk) (as : List Access) : Bool := v.held.any fun h => as.any fun a => a.conflicts h

/-- An MMA word in the walk, whose accesses are `as`. A PROLOGUE is spent when the last set of the product that reads its output has ended. The
last END that an EPI_BIND governs releases what it holds. -/
def walkMma (k : Core) (w : Nat) (as : List Access) (v : Walk) : Walk :=
  let a := accOf k w
  let start := bit w 110 && startOn k
  let fin := bit w 109 && endOn k
  let m := (bits w 103 100, bits w 99 84)
  let bad : Bool := if start then !v.pre.contains a else
    match tget (fun _ => none) v.masks a with
    | some x => decide (x ≠ m)
    | none => false
  let reads (f : Feed) := decide (f.lo < aAddr k w + ablockBytes w) && decide (aAddr k w < f.hi)
  let pros := v.pros.map fun p => { p with opened := p.opened || (decide (p.lo < aAddr k w + ablockBytes w) && decide (aAddr k w < p.hi)) }
  let last : Bool := fin && decide (v.left ≤ 1)
  let touch := if v.meets as || v.touchW.contains (bits w 108 108) then insertAsc a v.touch else v.touch
  { v with
    masks := tset (fun _ => none) v.masks a (if fin then none else some m)
    pre := if start then v.pre.filter fun x => decide (x ≠ a) else v.pre
    bad := v.bad || bad
    feedBad := v.feedBad.orElse fun _ =>
      (v.feeds.find? fun f => reads f && decide (f.fmt ≠ afmtFormat (bits w 119 116))).map (·.chain)
    left := if fin then v.left - 1 else v.left
    held := if last then [] else v.held
    touch := if fin then touch.filter fun x => decide (x ≠ a) else touch
    heldBad := v.heldBad || (fin && decide (0 < v.left) && touch.contains a)
    pros := if last then pros.filter fun p => !p.opened else pros
    drained := if fin ∧ 0 < v.left then
        { word := v.word, nth := v.nth, t := (epiFields v.word).mblocks * (epiFields v.word).strips - v.left, cols := bits w 99 84 } :: v.drained
      else v.drained }

/-- One word in the walk; LOOP words are walked by `walk`. -/
def walkWord (im : Image) (x : Section) (k : Core) (w : Nat) (v : Walk) : Walk :=
  let as := wordAccess im x k w
  let writes := as.filter (·.write)
  let feeds := writes.foldl (fun l a => l.flatMap (·.minus a)) v.feeds
  let v1 := { v with feeds := feeds }
  match opcode w with
  | 0x02 => { v1 with ended := true }
  | 0x03 =>
    { v1 with
      yieldBad := if 0 < v.left then some (v.yieldBad.getD v.chain) else
        v.yieldBad.orElse fun _ => v.pros.getLast?.map (·.chain)
      resumes := { pc := bits w 113 102, masks := v.masks, pre := v.pre, feeds := v.feeds } :: v.resumes }
  | 0x10 => walkMma k w as v1
  | 0x11 => { v1 with
      touchW := if v.meets as then insertAsc (bits w 108 108) v.touchW else v.touchW.filter fun b => decide (b ≠ bits w 108 108) }
  | 0x12 =>
    let sets := (List.range (bits w 102 100 + 1)).map fun i => accOf k w + i
    { v1 with
      pre := sets.foldl (fun l i => insertAsc i l) v.pre
      touch := if v.meets as then sets.foldl (fun l i => insertAsc i l) v.touch else v.touch }
  | 0x20 => { v1 with
      word := w
      nth := v.nth + 1
      left := (epiFields w).mblocks * (epiFields w).strips
      chain := (epiFields w).chain
      held := hulls as
      touch := []
      touchW := [] }
  | 0x21 =>
    let p := passFields w
    let fmt := ((im.chains[x.chainBase + p.chain]?).bind fun ch => ch.pro.getLast?.map fun st => bits st.cvt 3 0)
    { v1 with
      pros := (match writes with
        | d :: _ => { chain := p.chain, lo := d.lo, hi := d.lo + d.len, opened := false }
        | [] => { chain := p.chain, lo := 0, hi := 0, opened := false }) :: v.pros
      feeds := feeds ++ match fmt, writes with
        | some f, d :: _ => [{ lo := d.lo, hi := d.lo + d.len, fmt := f, chain := p.chain }]
        | _, _ => [] }
  | _ => v1

/-- The words of a table in execution order, every iteration of every loop, up to a STEP_END. -/
def walk (im : Image) (x : Section) : Nat → List Loop → List Nat → Walk → Walk
  | 0, _, _, v => v
  | _ + 1, _, [], v => v
  | n + 1, ls, w :: ws, v =>
    if v.ended then v
    else if opcode w = 0x01 then
      let l := loopOf 0 w
      let v1 := (List.range l.count).foldl (fun y i => walk im x n ({ l with iter := i } :: ls) (ws.take l.body) y) v
      walk im x n ls (ws.drop l.body) v1
    else walk im x n ls ws (walkWord im x (kOf ls) w v)

/-- The walk of a table from an entry. -/
def walkFrom (im : Image) (x : Section) (t : SeqTable) (e : Entry) : Walk :=
  walk im x (t.words.length + 1) [] ((wordsOf t).drop e.pc) e.start

/-- The walks from a list of entries and from every RESUME that they reach (R286); `seen` are done. -/
def walksFrom (im : Image) (x : Section) (t : SeqTable) : Nat → List Entry → List Entry → List Walk
  | 0, _, _ => []
  | _ + 1, [], _ => []
  | n + 1, e :: es, seen =>
    if seen.contains e then walksFrom im x t n es seen
    else
      let v := walkFrom im x t e
      v :: walksFrom im x t n (v.resumes ++ es) (e :: seen)

/-- The walks of a section's table: from its first word, and from each RESUME they reach. The bound only makes the search a recursion: no
table reaches it. -/
def walksOf (im : Image) (x : Section) (t : SeqTable) : List Walk :=
  walksFrom im x t (2 ^ 200) [{ pc := 0, masks := [], pre := [], feeds := [] }] []

/-- R99 over one table. -/
def tableOk (im : Image) (x : Section) (t : SeqTable) : Bool :=
  decide (1 ≤ t.words.length) && decide (t.words.length ≤ 4096)
    && (tableNest t).all (fun p =>
      opcodes.contains (opcode p.2.1) && wordZeroOk p.2.1 && wordFormOk p.2.1 && decide (p.2.2.length ≤ 4) && gatesOk t p.2.1
        && (decide (opcode p.2.1 ≠ 0x01) || (decide (1 ≤ (loopOf 0 p.2.1).body) && decide (1 ≤ (loopOf 0 p.2.1).count)
          && decide (p.2.2.length < 4)))
        && addressesOk im x p.2.1 p.2.2)
    && !((walksOf im x t).any (·.bad))

/-! ## Steps 2 to 7 -/

/-- The signature check (R41). -/
def signatureOk (roots : List (List Byte)) (b : List Byte) : Bool :=
  match Config.chainKey (slice b (le b 64 8) (le b 72 8)) roots with
  | none => false
  | some key => slhVerify key (b.take (le b 80 8)) (slice b (le b 80 8) 29792)

/-- What the checks read of the module (R45). -/
structure Site where
  roots : List (List Byte)
  floor : Nat
  arch : Nat
  member : Nat
  unset : Bool
  measureObs : Nat
  groups : List Nat
  memdev : Nat
  podports : Nat
  twin : Bool
  gbPer : Nat
  deriving DecidableEq, Repr

/-- A section table entry (R31, R42). -/
def sectionOk (i : Nat) (x : Section) : Bool :=
  decide (x.id = i) && decide (x.kind ≤ 9) && decide (1 ≤ x.period) && decide (x.phase < x.period)

/-- R288 and the YIELD words of a section. -/
def yieldOk (im : Image) (x : Section) (t : SeqTable) : Bool :=
  match im.yields.find? fun y => decide (y.sect = x.id) with
  | none => false
  | some y =>
    decide (1 ≤ y.points.length) && decide (y.points.length ≤ 64)
      && ((List.range y.points.length).all fun j => decide (((y.points.getD j (0, 0, 0)).1 = 0x1FFF) = (j = 0)))
      && (y.points.all fun p => decide (p.2.1 + p.2.2 ≤ y.ranges.length))
      && ((List.range t.words.length).all fun i =>
        let w := (wordsOf t).getD i 0
        decide (opcode w ≠ 0x03)
          || (decide (bits w 113 102 < t.words.length) && (match y.points[bits w 119 114]? with
            | some p => decide (p.1 = i)
            | none => false)))
      && y.ranges.all fun r =>
        match im.allocs[r.1]? with
        | some a => decide (a.sect = x.id) && a.backed && decide (4096 * (r.2.1 + r.2.2) ≤ a.len)
        | none => false

/-- The sequencer table and yield record of a section. -/
def sectionTableOk (im : Image) (x : Section) : Bool :=
  match im.seq.find? fun t => decide (t.sect = x.id) with
  | none => false
  | some t => tableOk im x t && yieldOk im x t

/-- Check 7 (R42, R43, R92, R99, R288). -/
def sectionsBad (im : Image) : Option Bad :=
  firstBad
    [chkAll ((List.range im.sections.length).map fun i => (i, im.sections.getD i ⟨0, 0, 0, 0, 0, [], 0, 0, 0, 0⟩))
       (fun p => sectionOk p.1 p.2) 0x0B 7,
     chk ((List.range 4).all fun d => decide (im.reqGroups.getD d 0 = (im.sections.map fun x => x.groups.getD d 0).foldl (· + ·) 0)) 0x0B 7 0xFFFF,
     chkEach (liveSections im) (sectionTableOk im) (·.id) 0x0B 7,
     chk (decide (im.seq.map (·.sect) = (liveSections im).map (·.id)) && decide (im.yields.map (·.sect) = (liveSections im).map (·.id)))
       0x0B 7 0xFFFF]

/-- Checks 2 to 6. -/
def siteBad (b : List Byte) (im : Image) (m : Site) : Option Bad :=
  firstBad
    [chk (signatureOk m.roots b) 0x02 2 0xFFFF, chk (decide (m.floor ≤ im.imageVer)) 0x03 3 0xFFFF,
     chk (decide (le b 16 4 ≤ m.arch) && decide (le b 20 2 = m.member)) 0x04 4 0xFFFF, chk (!m.unset) 0x05 5 0xFFFF,
     chk (decide (im.measureN = m.measureObs)) 0x06 5 0xFFFF,
     chk ((List.range 4).all fun d => decide (im.reqGroups.getD d 0 ≤ m.groups.getD d 0)) 0x07 6 0xFFFF,
     chk (decide (im.reqMemdev ≤ m.memdev)) 0x08 6 0xFFFF, chk (decide (im.reqPodports ≤ m.podports)) 0x09 6 0xFFFF,
     chk (!im.reqTwin || m.twin) 0x0A 6 0xFFFF]

/-! ## Step 8: claims (R51) -/

/-- Whether two claims name one resource: scratchpad banks of different sections are different resources. -/
def sameResource (a b : Claim) : Bool :=
  decide (a.cls = b.cls) && decide (a.index = b.index) && (decide (a.cls ≠ 3) || decide (a.sect = b.sect))

/-- A resource claimed EXCLUSIVE is claimed once. -/
def claimsBad (im : Image) : Option Bad :=
  firstBad
    [chkAll ((List.range im.claims.length).map fun i => (i, im.claims.getD i ⟨0, 0, 0, 0, 0⟩))
       (fun p => !((im.claims.take p.1).any fun q => sameResource q p.2 && (decide (q.mode = 0) || decide (p.2.mode = 0)))) 0x0C 8,
     chkAll im.claims (fun c => decide (c.mode = 0) || (features c.cls).contains c.feature) 0x0D 8]

/-! ## Step 9: chains (R109, R115, R119, R124, R298) -/

/-- Whether two byte ranges meet. -/
def rangesMeet (a b : Access) : Bool :=
  decide (0 < a.len) && decide (0 < b.len) && decide (a.lo < b.lo + b.len) && decide (b.lo < a.lo + a.len)

/-- A stage by itself (Tables 06.2, 06.3): kind, unused fields, conversion, function. -/
def stageOk (im : Image) (st : Stage) : Bool :=
  (match st.kind with
    | 1 => decide (st.sub = 0 ∧ st.aAddr = 0 ∧ st.bAddr = 0)
    | 2 => decide (st.sub < 4) && (!bit st.sub 0 || decide (st.aAddr = 0)) && (!bit st.sub 1 || decide (st.bAddr = 0))
    | 3 => decide (bits st.sub 3 1 = 0) && decide (bits st.sub 7 4 ≤ 1) && decide (st.aAddr = 0)
    | 4 => decide (bits st.sub 3 0 = 0) && decide (bits st.sub 7 4 ≤ 1) && decide (st.aAddr = 0)
    | 5 => decide (st.sub = 0 ∧ st.bAddr = 0)
    | 6 => (im.funcs.any fun f => decide (f.no = st.sub)) && decide (st.aAddr = 0 ∧ st.bAddr = 0)
    | 7 => decide (st.sub < 2) && decide (1 ≤ st.rowlen)
    | 8 => decide (st.sub < 64) && decide (st.cvt = 0 ∧ st.bAddr = 0)
    | 9 => decide (st.sub < 2)
    | _ => false)
    && (decide (st.kind = 7) || decide (st.rowlen = 0)) && (decide (st.kind = 8) || decide (st.headroom = 0)) && cvtOk st.cvt

/-- Stages of a kind in a list. -/
def countKind (k : Nat) (l : List Stage) : Nat := (l.filter fun x => decide (x.kind = k)).length

/-- R109: one NORM at most, which stands first. -/
def normFirst (l : List Stage) : Bool := decide (countKind 7 l = 0) || (decide (countKind 7 l = 1) && decide ((l.headD ⟨0, 0, 0, 0, 0, 0, 0, 0⟩).kind = 7))
/-- R109: one STAT at most, which stands last. -/
def statLast (l : List Stage) : Bool :=
  decide (countKind 8 l = 0) || (decide (countKind 8 l = 1) && decide ((l.getLast?.getD ⟨0, 0, 0, 0, 0, 0, 0, 0⟩).kind = 8))

/-- A chain by itself (R106, R109, R124, R298); `i` is its position. -/
def chainOk (im : Image) (i : Nat) (ch : Chain) (r : List Byte) : Bool :=
  let all := ch.pro ++ ch.epi
  let kind := ((im.sections.find? fun x => decide (x.id = ch.sect)).map (·.kind)).getD 0
  decide (le r 0 2 = i) && decide (i < 1024) && decide (all.length ≤ 8) && decide (le r 6 1 ≤ 1) && zeroIn r 7 1 && zeroIn r 12 4
    && (List.range all.length).all (fun j => decide (bits (le r (16 + 16 * j) 16) 107 104 = 0)) && all.all (stageOk im)
    && decide (countKind 9 all ≤ 1)
    && (if ch.product then
        ch.pro.all (fun x => decide (x.kind ≤ 7)) && ch.epi.all (fun x => decide (x.kind ≠ 7)) && normFirst ch.pro && statLast ch.epi
          && cvtOk ch.prodCvt && (decide (ch.pro = []) || [1, 2, 3, 7].contains (bits ((ch.pro.getLast?.map (·.cvt)).getD 0) 3 0))
      else decide (ch.epi = []) && decide (ch.prodCvt = 0 ∧ ch.prodTensor = 0) && normFirst ch.pro && statLast ch.pro)
    && (decide (kind ≠ 7 ∧ kind ≠ 8) || ((if ch.product then [ch.prodCvt] else []) ++ all.map (·.cvt)).all fun x => !bit x 4)

/-- The chain index of a chain word. -/
def wordChain (w : Nat) : Option Nat := if 0x20 ≤ opcode w ∧ opcode w ≤ 0x22 then some (bits w 119 110) else none

/-- A chain word of a section against R124: its chain belongs to the section, its ranges, ROWS, KFORM and RUN. -/
def chainWordOk (im : Image) (x : Section) (w : Nat) : Bool :=
  match wordChain w with
  | none => true
  | some i =>
    match im.chains[x.chainBase + i]? with
    | none => false
    | some ch =>
      decide (ch.sect = x.id) && inScratchpad (wordAccess im x Core.reset w)
        && (decide (opcode w ≠ 0x21) || decide ((passFields w).rows ≤ 4 * (passFields w).run))
        && (decide (opcode w ≠ 0x22) || decide (bits w 5 2 = 0))

/-- R119: the columns per row that an EPI_BIND word stores, by the COLMASK of each set that drained under it in execution order; 0, which no
ROWLEN equals, where its blocks differ. -/
def epiCols (drained : List Drained) (w : Nat) : Nat :=
  let f := epiFields w
  let mine := drained.filter fun d => decide (d.word = w)
  let pop (m : Nat) := ((List.range 16).filter fun j => bit m j).length
  let place (d : Drained) := (d.nth, (tilePlace f d.t).2)
  let blocks := (mine.map place).eraseDups
  let count (b : Nat × Nat) := ((mine.filter fun d => decide (place d = b)).map fun d => pop d.cols).foldl (· + ·) 0
  match blocks.map count with
  | [] => 0
  | n :: r => if r.all fun m => decide (m = n) then n else 0

/-- Statistic records that a word completes or reads: from a byte address, so many of 64 bytes, of PARTS parts, over so many columns a row. -/
structure Recs where
  addr : Nat
  rows : Nat
  parts : Nat
  cols : Nat
  deriving DecidableEq, Repr

/-- Whether record `a` is one of these. -/
def Recs.holds (r : Recs) (a : Nat) : Bool := decide (r.addr ≤ a) && decide (a < r.addr + 64 * r.rows) && decide ((a - r.addr) % 64 = 0)

/-- The records that the STAT of a list of stages writes over `rows` rows. -/
def statRecs (l : List Stage) (rows cols : Nat) : Option Recs :=
  (l.find? fun st => decide (st.kind = 8)).map fun st => { addr := 4 * st.aAddr, rows := rows, parts := st.sub + 1, cols := cols }

/-- The records that the STAT of the chain a word runs writes. -/
def statOf (im : Image) (x : Section) (dr : List Drained) (p : Nat × Nat × List Loop) : Option Recs :=
  match wordChain p.2.1 with
  | none => none
  | some i =>
    (im.chains[x.chainBase + i]?).bind fun ch =>
      if opcode p.2.1 = 0x20 then statRecs ch.epi (4 * (epiFields p.2.1).mblocks) (epiCols dr p.2.1)
      else if opcode p.2.1 = 0x22 then statRecs ch.pro (passFields p.2.1).rows (passFields p.2.1).cols
      else none

/-- The STAT whose partial records a RECMERGE merges: the last before it that writes where the word reads, else the last of more than one
part, whose records an XFER brings (R154; log 61). -/
def mergedStat (im : Image) (x : Section) (nest : List (Nat × Nat × List Loop)) (dr : List Drained) (p : Nat × Nat × List Loop) : Option Recs :=
  let f := mergeFields p.2.1
  let l := ((nest.filter fun q => decide (q.1 < p.1)).filterMap (statOf im x dr)).reverse
  match l.find? fun r => rangesMeet ⟨r.addr, 64 * r.rows, true⟩ ⟨f.2.2.1, 64 * f.1 * f.2.1, true⟩ with
  | some r => some r
  | none => l.find? fun r => decide (1 < r.parts)

/-- What a word leaves in the record at byte address `a`, where it writes it: the columns of a complete one, none of an incomplete one. -/
def recordCols (im : Image) (x : Section) (nest : List (Nat × Nat × List Loop)) (dr : List Drained) (a : Nat) (p : Nat × Nat × List Loop) : Option (Option Nat) :=
  if opcode p.2.1 = 0x23 then
    let f := mergeFields p.2.1
    if ({ addr := f.2.2.2, rows := f.1, parts := 1, cols := 0 } : Recs).holds a then
      some ((mergedStat im x nest dr p).bind fun r => if r.parts = f.2.1 then some (r.parts * r.cols) else none)
    else none
  else
    match statOf im x dr p with
    | some r => if r.holds a then some (if r.parts = 1 then some r.cols else none) else none
    | none => none

/-- R119: a word that runs a NORM reads complete records only: the last word before it that writes a record completes it, over ROWLEN columns,
and no STAT of the same chain writes it. -/
def normOk (im : Image) (x : Section) (nest : List (Nat × Nat × List Loop)) (dr : List Drained) (p : Nat × Nat × List Loop) : Bool :=
  if opcode p.2.1 = 0x21 ∨ opcode p.2.1 = 0x22 then
    let f := passFields p.2.1
    match (im.chains[x.chainBase + f.chain]?) with
    | none => true
    | some ch =>
      match ch.pro.find? fun st => decide (st.kind = 7) with
      | none => true
      | some st =>
        let before := nest.filter fun q => decide (q.1 < p.1)
        -- the rows of the same chain's EPI_BIND words, for a STAT in its epilogue
        let own := (statRecs ch.pro f.rows f.cols).toList
          ++ (nest.filterMap fun q => if opcode q.2.1 = 0x20 ∧ (epiFields q.2.1).chain = f.chain then statOf im x dr q else none)
        (List.range f.rows).all fun r =>
          let a := 4 * st.aAddr + 64 * r
          !(own.any fun o => rangesMeet ⟨o.addr, 64 * o.rows, true⟩ ⟨a, 64, true⟩)
            && (match (before.filterMap (recordCols im x nest dr a)).getLast? with
              | some (some n) => decide (n = st.rowlen)
              | _ => false)
  else true

/-- Check 9. -/
def chainsBad (b : List Byte) (im : Image) : Option Bad :=
  let rs := (recsOf chainSize (chunkOf b 3)).1
  let words := (liveSections im).flatMap fun x =>
    match im.seq.find? fun t => decide (t.sect = x.id) with
    | some t =>
      let dr := (walksOf im x t).flatMap (·.drained)
      (tableNest t).map fun p => (x, dr, tableNest t, p)
    | none => []
  let id (q : Section × List Drained × List (Nat × Nat × List Loop) × (Nat × Nat × List Loop)) : Nat :=
    q.1.chainBase + (wordChain q.2.2.2.2.1).getD 0
  firstBad
    [chkAll ((List.range im.chains.length).map fun i => (i, im.chains.getD i ⟨0, [], [], 0, false, 0⟩)) (fun p => chainOk im p.1 p.2 (rs.getD p.1 [])) 0x0E 9,
     chkEach words (fun q => chainWordOk im q.1 q.2.2.2.2.1) id 0x0E 9,
     firstBad ((liveSections im).map fun x =>
       match im.seq.find? fun t => decide (t.sect = x.id) with
       | some t =>
         let vs := walksOf im x t
         ((vs.findSome? (·.feedBad)).orElse fun _ => vs.findSome? (·.yieldBad)).map fun c => (0x0E, 9, x.chainBase + c)
       | none => none),
     chkEach words (fun q => normOk im q.1 q.2.2.1 q.2.1 q.2.2.2) id 0x0F 9]

/-! ## Step 10: ALLOC, PREFETCH, KV_POOL (R149 to R152, R155, R274) -/

/-- An allocation by itself (R151, R152). -/
def allocOk (im : Image) (i : Nat) (a : Alloc) (r : List Byte) : Bool :=
  let one (l : List Bool) := decide ((l.filter id).length = 1)
  decide (le r 0 2 = i) && decide (le r 3 1 < 32) && zeroIn r 10 6 && (im.sections.any fun x => decide (x.id = a.sect))
    && one [a.pinScratch, a.backed, a.stream] && one [a.sharedRo, a.zeroOnHandover] && decide (a.base + a.len ≤ spSize)
    && (!a.backed || (!a.sharedRo && decide (a.base % 4096 = 0) && decide (a.len % 4096 = 0) && (match im.regions[a.region]? with
        | some g => decide (g.kind = 3)
        | none => false)))
    && (a.backed || decide (a.region = 0xFFFF) || (im.regions[a.region]?).isSome)
    && !((im.allocs.take i).any fun y => decide (y.sect = a.sect) && decide (y.base < a.base + a.len) && decide (a.base < y.base + y.len))

/-- A region entry. -/
def regionOk (i : Nat) (g : Region) (r : List Byte) : Bool :=
  decide (le r 0 2 = i) && decide (1 ≤ g.kind) && decide (g.kind ≤ 4) && zeroIn r 3 1 && zeroIn r 6 2 && zeroIn r 16 8

/-- Whether the bytes from `lo` to `hi` lie in allocations of a list. -/
def covered (as : List Alloc) : Nat → Nat → Nat → Bool
  | 0, lo, hi => decide (hi ≤ lo)
  | n + 1, lo, hi =>
    decide (hi ≤ lo) || (match as.find? fun a => decide (a.base ≤ lo) && decide (lo < a.base + a.len) with
      | some a => covered as n (a.base + a.len) hi
      | none => false)

/-- R152 for the words of a section: their ranges lie in its allocations, and none writes a SHARED_RO one. -/
def wordAllocOk (im : Image) (x : Section) (p : Nat × Nat × List Loop) : Bool :=
  let as := im.allocs.filter fun a => decide (a.sect = x.id)
  (combos p.2.2).all fun c => (wordAccess im x (kOf c) p.2.1).all fun r =>
    decide (r.len = 0)
      || (covered as (as.length + 1) r.lo (r.lo + r.len)
        && (!r.write || !(as.any fun a => a.sharedRo && rangesMeet r ⟨a.base, a.len, true⟩)))

/-- R152: a word that moves data names a region of the image. -/
def wordRegionOk (im : Image) (w : Nat) : Bool :=
  match opcode w with
  | 0x4E => (im.regions[bits w 77 62]?).isSome
  | 0x50 => (im.regions[bits w 111 96]?).isSome
  | 0x51 => (im.regions[bits w 111 96]?).isSome
  | 0x52 => (im.regions[bits w 111 96]?).isSome
  | _ => true

/-- R152: no word that feeds a set governed by an EPI_BIND reads or writes a range the EPI_BIND holds: its READ and WRITE hulls (R146), in the
order in which the words run. -/
def feedOk (im : Image) : Bool :=
  (liveSections im).all fun x =>
    match im.seq.find? fun t => decide (t.sect = x.id) with
    | some t => !((walksOf im x t).any (·.heldBad))
    | none => true

/-- R155 for one schedule; `earlier` are the sections of the headers before it. -/
def schedOk (im : Image) (earlier : List Nat) (r : List Byte) : Bool :=
  let p := pfIn r
  let es := p.entries
  let nwords := ((im.seq.find? fun t => decide (t.sect = p.sect)).map (·.words.length)).getD 0
  ((liveSections im).any fun x => decide (x.id = p.sect)) && !earlier.contains p.sect && decide (es.length ≤ 4096)
    && nonFalling (es.map (·.trigger)) && zeroIn r 1 3 && zeroIn r 6 2
    && (fixedRecs r 8 24 es.length).all (fun e => decide (le e 2 1 < 16) && zeroIn e 3 1 && zeroIn e 12 4 && decide (le e 16 8 % 16 = 0))
    && es.all fun e =>
      (decide (e.trigger = 0xFFFF) || decide (e.trigger < nwords)) && decide (e.dset ≤ 2)
        && (match im.allocs[e.alloc]? with
          | some a => decide (a.sect = p.sect) && (a.stream || a.sharedRo) && decide (e.dstOff + e.len ≤ a.len)
          | none => false)
        && (match im.regions[e.region]? with
          | some g => !e.versioned || decide (g.kind = 1)
          | none => false)

/-- The parts of the KV pool (R274), each on a 2 KiB boundary: buckets, nodes, sequence areas, blocks. -/
def kvSize (k : KvPool) : Nat :=
  let r (n : Nat) := (n + 2047) / 2048 * 2048
  r (4 * 2 ^ k.hbits) + r (192 * k.nblk) + r (65536 * 8192) + r (k.nblk * k.blockBytes)

/-- R274. -/
def kvOk (c : List Byte) (im : Image) : Bool :=
  let k := im.kv
  zeroIn c 2 2 && zeroIn c 13 1 && zeroIn c 22 10 && decide (0 < k.blockBytes) && decide (k.blockBytes % 2048 = 0) && decide (0 < k.nblk)
    && decide (16 ≤ k.hbits) && decide (k.hbits ≤ 24) && decide (0 < k.ctxMax) && decide (k.ctxMax % 32 = 0) && decide (k.ctxMax ≤ 24576)
    && decide (32 ≤ k.prefillChunk) && decide (k.prefillChunk ≤ 4096)
    && decide ((im.regions.filter fun g => decide (g.kind = 4)).length = 1)
    && (match im.regions[k.region]? with
      | some g => decide (g.kind = 4) && decide (g.size = kvSize k)
      | none => false)

/-- Check 10. -/
def allocBad (b : List Byte) (im : Image) : Option Bad :=
  let al := chunkOf b 5
  let ps := (recsOf pfSize (chunkOf b 6)).1
  let words := (liveSections im).flatMap fun x =>
    match im.seq.find? fun t => decide (t.sect = x.id) with
    | some t => (tableNest t).map fun p => (x, p)
    | none => []
  firstBad
    [chk (decide ((allocCounts al).1 ≤ 1024) && decide ((allocCounts al).2 ≤ 4096)) 0x10 10 0xFFFF,
     chkAll ((List.range im.allocs.length).map fun i => (i, im.allocs.getD i ⟨0, 0, 0, 0, 0⟩)) (fun p => allocOk im p.1 p.2 ((allocRecs al).getD p.1 [])) 0x10 10,
     chk ((List.range im.regions.length).all fun i => regionOk i (im.regions.getD i ⟨0, 0, 0⟩) ((regionRecs al).getD i [])) 0x10 10 0xFFFF,
     chk ((words.all fun q => wordRegionOk im q.2.2.1 && wordAllocOk im q.1 q.2) && feedOk im) 0x10 10 0xFFFF,
     chkEach ((List.range ps.length).map fun i => (i, ps.getD i []))
       (fun p => schedOk im ((ps.take p.1).map fun r => le r 0 1) p.2) (fun p => le p.2 0 1) 0x10 10,
     chk (kvOk (chunkOf b 7) im) 0x10 10 0xFFFF]

/-! ## Steps 11 to 15 -/

/-- Check 11 (R20, R157, R158). -/
def budgetBad (b : List Byte) (im : Image) (m : Site) : Option Bad :=
  let rs := (recsOf (fun _ => 16) (chunkOf b 11)).1
  let want := im.sections.map (·.id)
  let got := im.budgets.map (·.sect)
  firstBad
    [match (List.range (max want.length got.length)).find? fun i => decide (want[i]? ≠ got[i]?) with
     | some i => some (0x11, 11, (got[i]?).getD ((want[i]?).getD 0xFFFF))
     | none => none,
     chkEach rs (fun r => decide (64 * m.memdev ≤ le r 4 4) && decide (le r 1 1 ≤ 1) && zeroIn r 2 2 && zeroIn r 8 8) (fun r => le r 0 1) 0x11 11,
     chk (decide ((im.sections.map (·.chanBudget)).foldl (· + ·) 0 ≤ 182044 * m.memdev)) 0x11 11 0xFFFF]

/-- Bytes of the image's regions: an ASSET region counts its four version slots (R150). -/
def regionBytes (im : Image) : Nat := (im.regions.map fun g => if g.kind = 1 then 4 * g.size else g.size).foldl (· + ·) 0

/-- Four times the SIZE of every NORM_TABLE and MERGE_TABLE asset (R233). -/
def pinBytes (im : Image) : Nat := ((im.assets.filter fun a => decide (a.kind = 7 ∨ a.kind = 8)).map fun a => 4 * a.size).foldl (· + ·) 0

/-- Check 12 (R150, R233, R274, R354). -/
def memoryBad (im : Image) (m : Site) : Option Bad :=
  chk (decide (regionBytes im + Config.moduleReserve ≤ m.memdev * m.gbPer * 10 ^ 9) && decide (pinBytes im ≤ 64 * 2 ^ 20)) 0x12 12 0xFFFF

/-- Check 13 (R47, R50). -/
def proofBad (im : Image) : Option Bad :=
  let live := liveSections im
  firstBad
    [chk (decide (im.proofs.map (·.sect) = live.map (·.id))) 0x13 13 0xFFFF,
     chkEach (live.zip im.proofs) (fun p => decide (p.1.wcet = p.2.wcet) && decide (1 ≤ p.2.itemLimit)) (fun p => p.1.id) 0x13 13,
     chkEach im.sections (fun x => decide (x.wcet + 96 ≤ x.period * 1500)) (·.id) 0x13 13]

/-- Check 14 (R48). -/
def latencyBad (im : Image) : Option Bad :=
  firstBad
    [chk (decide (1000 + im.plan.period * (1 + im.plan.steps.length) ≤ im.frontL)) 0x14 14 0xFFFF,
     chkEach (im.sections.filter Section.front) (fun x => decide (x.phase = 0)) (·.id) 0x14 14]

/-- The asset IDs an image refers to: of ASSET regions, of functions, of TGATHER words. -/
def referenced (im : Image) : List Nat :=
  (im.regions.filter fun g => decide (g.kind = 1)).map (·.asset) ++ (im.funcs.filter (·.assetBound)).map (·.asset)
    ++ im.seq.flatMap fun t => ((wordsOf t).filter fun w => decide (opcode w = 0x4F)).map fun w => bits w 119 104

/-- Check 15 (R56, R177, R178, R224, R254): the models of PACK and PREFILL are bound to the cross-encoder's VOCAB. -/
def assetsBad (im : Image) : Option Bad :=
  let has (k : Nat) := im.assets.any fun a => decide (a.kind = k)
  let sect (k : Nat) := im.sections.any fun x => decide (x.kind = k)
  firstBad
    [chk (decide (im.assets.length ≤ 256)) 0x15 15 0xFFFF,
     chkAll ((List.range im.assets.length).map fun i => (i, im.assets.getD i ⟨0, 0, false, 0, 0, [], []⟩))
       (fun p => decide (1 ≤ p.2.kind) && decide (p.2.kind ≤ 11) && decide (p.2.instant = decide (p.2.kind = 11))
         && !((im.assets.take p.1).any fun a => decide (a.id = p.2.id))) 0x15 15,
     chkEach (referenced im) (fun a => im.assets.any fun e => decide (e.id = a)) id 0x15 15,
     chk (decide ((im.assets.filter fun a => decide (a.kind = 10)).length ≤ 64)) 0x15 15 0xFFFF,
     chk (decide (im.plan.steps = []) || (has 1 && has 4)) 0x15 15 0xFFFF,
     chk (!([5, 6, 7, 8].any sect) || has 4) 0x15 15 0xFFFF,
     chk (!sect 5 || [6, 7].all fun k => !sect k || decide (im.bound k 4 = im.bound 5 4)) 0x15 15 0xFFFF]

/-- R45: the checks in the order of Table 03.5; none when the image passes. -/
def loadBad (b : List Byte) (m : Site) : Option Bad :=
  let im := imageIn b
  match formatBad b im (m.groups.foldl (· + ·) 0) with
  | some x => some x
  | none =>
    firstBad [siteBad b im m, sectionsBad im, claimsBad im, chainsBad b im, allocBad b im, budgetBad b im m, memoryBad im m, proofBad im,
      latencyBad im, assetsBad im]

end Sys2Proof.Machine
end

