-- ==== Sys2Proof/Machine/Tables.lean ====
section
/-!
DEFINITION. Machine/Tables.lean: hashed embedding tables (spec/11_embedding_tables.md): from key to row (R209), TGATHER (R211 to R213), and the
builds of new versions from update batches (R216 to R221).
-/
namespace Sys2Proof.Machine

/-! ## Rows -/

/-- The descriptor of a version of a table. -/
def embAt (s : State) (a ver : Nat) : Emb := embOf a ver (assetRd s a ver)

/-- R209: the rows a key selects, given ROWS of the remainder table. -/
def rowsOf (t : Emb) (rRows key : Nat) : Nat × Option Nat :=
  match t.mode with
  | 0 => (key, none)
  | 1 => (mix64 key t.seed * t.rows / 2 ^ 64, none)
  | _ =>
    let x := mix64 key t.seed * t.rows / 2 ^ 64
    (x / max rRows 1, some (x % max rRows 1))

/-- Directory entry `i` of a version. -/
def embPage (s : State) (t : Emb) (i : Nat) : Nat := assetNat s t.asset t.ver (64 + 4 * i) 4

/-- The record of row `n` in page `page` (R208). -/
def rowRecord (s : State) (t : Emb) (page n : Nat) : List Byte := ldRead s t.store (2048 * page + t.rb * (n % max t.rpp 1)) t.rb

/-- Element `i` of a row record. -/
def Emb.val (t : Emb) (rec_ : List Byte) (i : Nat) : Val :=
  let c := unpack t.elem (rec_.take (t.elem.width * t.dim / 8)) i
  if t.elem.isMx then t.elem.decodeScaled c (le rec_ (t.elem.width * t.dim / 8 + i / 32) 1) else t.elem.decode c

/-- The exponent of a value, subnormals counted as −126 (R70); none for zeros, infinities and NaNs. -/
def valExp : Val → Option Int
  | .fin _ n d => if n = 0 then none else some (max (-126) (log2Q n d))
  | _ => none

/-- The largest of two bounds. -/
def maxBound : Option Int → Option Int → Option Int
  | none, b => b
  | a, none => a
  | some a, some b => some (max a b)

/-- R212: the element exponent bound of a row: from the scales for MX formats, else from the exponents. -/
def Emb.bound (t : Emb) (rec_ : List Byte) : Option Int :=
  if t.elem.isMx then
    (List.range (t.dim / 32)).foldl (fun m i =>
      maxBound m ((scaleExp (le rec_ (t.elem.width * t.dim / 8 + i) 1)).map (· + t.elem.bound))) none
  else (List.range t.dim).foldl (fun m i => maxBound m ((valExp (t.val rec_ i)).map (· + 1))) none

/-! ## TGATHER (R211 to R213) -/

/-- The fields of a TGATHER word (Table 11.2), bytes. -/
structure GatherFields where
  asset : Nat
  bag : Nat
  bags : Nat
  key : Nat
  dst : Nat
  cvt : Nat
  deriving DecidableEq, Repr

/-- Table 11.2. -/
def gatherFields (w : Nat) : GatherFields :=
  { asset := bits w 119 104, bag := 4 * bits w 103 87, bags := bits w 86 75 + 1, key := 4 * bits w 74 58, dst := 4 * bits w 57 41,
    cvt := bits w 40 25 }

/-- A bag record: NKEYS, POOL, FIRST_KEY. -/
structure Bag where
  nkeys : Nat
  pool : Nat
  first : Nat
  deriving DecidableEq, Repr

/-- Bag record `b` of a word. -/
def bagOf (s : State) (c : Nat) (f : GatherFields) (b : Nat) : Bag :=
  let x := spNat s c (f.bag + 8 * b) 8
  { nkeys := bits x 6 0, pool := bits x 9 8, first := bits x 63 32 }

/-- Whether a bag keeps the ranges R211 gives its fields. -/
def Bag.good (b : Bag) : Bool :=
  decide (1 ≤ b.nkeys) && decide (b.nkeys ≤ 64) && decide (b.pool ≤ 2) && (decide (b.pool ≠ 0) || decide (b.nkeys = 1))

/-- The output format of a word. -/
def GatherFields.out (f : GatherFields) : Fmt := (Cvt.ofNat f.cvt).fmt.getD .fp32

/-- Bytes of one bag's output. -/
def gatherPitch (s : State) (c : Nat) (f : GatherFields) : Nat :=
  f.out.width / 8 * (embAt s f.asset (versionIn s (core s c).vset f.asset)).dim

/-- The ranges a TGATHER reads and writes (R211). -/
def gatherReach (s : State) (c w : Nat) : List Access :=
  let f := gatherFields w
  let keys := (List.range f.bags).map fun b =>
    let g := bagOf s c f b
    (⟨f.key + 8 * g.first, 8 * g.nkeys, false⟩ : Access)
  (⟨f.bag, 8 * f.bags, false⟩ :: keys) ++ [⟨f.dst, f.bags * gatherPitch s c f, true⟩]

/-- The output row of bag `b` (R213): TGATHER names no TENSOR_ID, so its asset stands for it (log 30). -/
def bagRow (s : State) (c : Nat) (f : GatherFields) (b : Nat) : RowId := { tensor := f.asset, place := placeOf s c, row := b }

/-- R213: the version set a bag reads: of the request that owns its output row, else of the step boundary. -/
def bagVset (s : State) (c : Nat) (f : GatherFields) (b : Nat) : Nat := rowVset s c (bagRow s c f b)

/-- What one key contributes: the products of each element, the bound of its rows, and the reads it makes (region, offset, length). -/
structure KeyPart where
  elems : List (List Val)
  bound : Option Int
  reads : List (Nat × Nat × Nat)
  oor : Bool
  deriving DecidableEq, Repr

/-- The directory and record reads of a row. -/
def rowReads (s : State) (t : Emb) (n : Nat) : List (Nat × Nat × Nat) :=
  let page := embPage s t (n / max t.rpp 1)
  (match assetAt s t.asset t.ver with
    | some (g, o) => [(g, o + 64 + 4 * (n / max t.rpp 1), 4)]
    | none => []) ++ [(t.store, 2048 * page + t.rb * (n % max t.rpp 1), t.rb)]

/-- R209, R210, R212: the contribution of a key under a version set. -/
def keyPart (s : State) (vset : Nat) (t : Emb) (key : Nat) : KeyPart :=
  if t.mode = 2 then
    let q := embAt s t.qAsset (versionIn s vset t.qAsset)
    let r := embAt s t.rAsset (versionIn s vset t.rAsset)
    let rows := rowsOf t r.rows key
    let qr := rowRecord s q (embPage s q (rows.1 / max q.rpp 1)) rows.1
    let rn := rows.2.getD 0
    let rr := rowRecord s r (embPage s r (rn / max r.rpp 1)) rn
    { elems := (List.range t.dim).map fun i =>
        if t.mul then [(q.val qr i).mul (r.val rr i)] else [q.val qr i, r.val rr i],
      bound := if t.mul then
          match q.bound qr, r.bound rr with
          | some a, some b => some (a + b)
          | _, _ => none
        else maxBound (q.bound qr) (r.bound rr),
      reads := rowReads s q rows.1 ++ rowReads s r rn, oor := false }
  else
    let n := (rowsOf t 0 key).1
    if t.mode = 0 ∧ t.rows ≤ n then { elems := List.replicate t.dim [], bound := none, reads := [], oor := true }
    else
      let b := rowRecord s t (embPage s t (n / max t.rpp 1)) n
      { elems := (List.range t.dim).map fun i => [t.val b i], bound := t.bound b, reads := rowReads s t n, oor := false }

/-- One output element of a bag (R212): its code and what it counts. -/
def gatherElem (f : GatherFields) (b : Bag) (parts : List KeyPart) (i : Nat) : Nat × ArithEv :=
  let anchor := (parts.foldl (fun m p => maxBound m p.bound) none).getD 0
  let w := sumProducts { Wacc.clear with
      anchor := anchor } (parts.flatMap fun p => p.elems.getD i [])
  let v := if b.pool = 2 then w.1.value.mul (.fin false 1 b.nkeys) else w.1.value
  let e := f.out.encode (Cvt.ofNat f.cvt).fp8Inf .nearest v
  (e.1, w.2.1.add e.2)

/-- The elements of a bag out of its ranges: free values. -/
def freeElems (s : State) (w : Nat) : Nat → List Nat → State × List Nat
  | 0, l => (s, l)
  | n + 1, l => freeElems (tick s) w n (l ++ [Config.free s.fresh % 2 ^ w])

/-- One bag is gathered (R212, R213). -/
def gatherBag (c : Nat) (f : GatherFields) (s : State) (b : Nat) : State :=
  let g := bagOf s c f b
  let vset := bagVset s c f b
  let t := embAt s f.asset (versionIn s vset f.asset)
  if !g.good then
    let p := freeElems s f.out.width t.dim []
    spWrite p.1 c (f.dst + b * gatherPitch s c f) (packBytes f.out p.2)
  else
    let parts := (List.range g.nkeys).map fun i => keyPart s vset t (spNat s c (f.key + 8 * (g.first + i)) 8)
    let es := (List.range t.dim).map (gatherElem f g parts)
    let s1 := (parts.flatMap (·.reads)).foldl (fun s' r => transfer s' c r.1 r.2.1 r.2.2 false) s
    let s2 := spWrite s1 c (f.dst + b * gatherPitch s c f) (packBytes f.out (es.map (·.1)))
    bumpBy (arithRow s2 c (bagRow s c f b) (es.foldl (fun e x => e.add x.2) {})) Reg.TAB_CNT_OOR (parts.filter (·.oor)).length

/-- TGATHER takes effect: every bag is gathered, and its ranges stay held until the word completes. -/
def gatherEffect (s : State) (c : Nat) (_ : Core) (w : Nat) : State :=
  let as := gatherReach s c w
  let s1 := (List.range (gatherFields w).bags).foldl (gatherBag c (gatherFields w)) s
  modCore s1 c fun k => (startDma k as none none).advance

/-- TGATHER (R211). -/
def execTgather (c : Nat) (s : State) : Out :=
  finish (issue s c 0x4F (fun _ w => gatherReach s c w) (fun k w => rangeHold k (gatherReach s c w)) fun s' k w => gatherEffect s' c k w)

/-! ## Builds (R214, R216) -/

/-- The open build of an asset. -/
def buildOf (s : State) (a : Nat) : Option Build := s.assets.builds.find? fun b => decide (b.asset = a)

/-- Replace or remove the build of an asset. -/
def setBuild (s : State) (a : Nat) (b : Option Build) : State :=
  let rest := s.assets.builds.filter fun x => decide (x.asset ≠ a)
  { s with
    assets := { s.assets with
      builds := match b with
        | some y => rest ++ [y]
        | none => rest } }

/-- The table an asset's build or, without one, its current version describes. -/
def buildEmb (s : State) (a : Nat) : Emb :=
  match buildOf s a with
  | some b => embAt s a b.base
  | none => embAt s a (currentVer s a)

/-- OPEN starts a build (R216): the directory begins as the base's. -/
def openBuild (s : State) (a base ver slot : Nat) : State :=
  let t := embAt s a base
  setBuild s a (some
    { asset := a, base := base, ver := ver, slot := slot,
      dir := (List.range ((t.rows + t.rpp - 1) / max t.rpp 1)).map (embPage s t), copied := [], touched := [], applied := 0 })

/-- The checks of OPEN, in the order of Table 11.4. A base that is not resident has no code in the manual: a free one. -/
def openCheck (s : State) (a base ver : Nat) : Nat :=
  if 4 ≤ (assetSt s a).versions.length then 0x04
  else if ((assetSt s a).versions.any fun v => decide (v.ver = ver)) ∨ ver ≤ base then 0x05
  else if !((assetSt s a).versions.any fun v => decide (v.ver = base)) then max 2 (Config.free s.fresh % 256)
  else if (embAt s a base).update = 0 then 0x07
  else if (buildOf s a).isSome ∨ 8 ≤ s.assets.builds.length then 0x0B
  else 0

/-! ## APPLY (R217 to R219) -/

/-- The header of an update batch (Table 11.3). -/
structure Batch where
  magic : Nat
  asset : Nat
  nent : Nat
  eta : Val
  eps : Val
  keyed : Bool
  seed : Nat
  deriving DecidableEq, Repr

/-- Table 11.3. -/
def batchOf (b : List Byte) : Batch :=
  { magic := le b 0 4, asset := le b 4 2, nent := le b 8 4, eta := f32 (le b 12 4), eps := f32 (le b 16 4), keyed := bit (le b 20 1) 0,
    seed := le b 24 8 }

/-- R217. -/
def batchGood (a dim : Nat) (b : List Byte) : Bool :=
  let h := batchOf b
  decide (32 ≤ b.length) && decide (h.magic = 0x7AB10A01) && decide (h.asset = a) && decide (1 ≤ h.nent) && decide (h.nent ≤ 65536)
    && decide (b.length = 32 + h.nent * (8 + 4 * dim))

/-- The entries of a batch: key and gradient vector. -/
def batchEntries (dim n : Nat) (b : List Byte) : List (Nat × List Val) :=
  (List.range n).map fun i =>
    let o := 32 + i * (8 + 4 * dim)
    (le b o 8, (List.range dim).map fun j => f32 (le b (o + 8 + 4 * j) 4))

/-- The gradient vectors of a batch by row: those of one row together, in batch order. -/
def addGrad (row : Nat) (g : List Val) : List (Nat × List (List Val)) → List (Nat × List (List Val))
  | [] => [(row, [g])]
  | p :: ps => if p.1 = row then (row, p.2 ++ [g]) :: ps else p :: addGrad row g ps

/-- The anchor of a row's sums: the largest element exponent bound over its vectors, as R212 takes it over a bag's rows (log 61). -/
def gradAnchor (gs : List (List Val)) : Int :=
  (gs.foldl (fun m g => g.foldl (fun m' v => maxBound m' ((valExp v).map (· + 1))) m) none).getD 0

/-- ĝ of one row (R218): each element summed in WACC form (R71, R72) and rounded once to FP32, and what the truncations count. -/
def sumRow (dim : Nat) (gs : List (List Val)) : List Val × ArithEv :=
  let a := gradAnchor gs
  let es := (List.range dim).map fun i => sumProducts { Wacc.clear with
    anchor := a } (gs.map fun g => g.getD i .zero)
  (es.map fun w => rne32 w.1.value, es.foldl (fun e w => e.add w.2.1) {})

/-- The touched rows in ascending order with ĝ, and what the sums count. -/
def sumGrads (dim : Nat) (es : List (Nat × List Val)) : List (Nat × List Val) × ArithEv :=
  let m := es.foldl (fun acc e => addGrad e.1 e.2 acc) []
  let rows := m.foldl (fun l p => insertAsc p.1 l) []
  let sums := rows.map fun r => (r, sumRow dim (((m.find? fun p => decide (p.1 = r)).map (·.2)).getD []))
  (sums.map fun x => (x.1, x.2.1), sums.foldl (fun e x => e.add x.2.2) {})

/-- The directory entries a set of rows touches. -/
def touchedPages (t : Emb) (rows : List Nat) : List Nat := rows.foldl (fun l r => insertAsc (r / max t.rpp 1) l) []

/-- Pages the build must still copy for a set of rows (R214). -/
def pagesNeeded (t : Emb) (b : Build) (rows : List Nat) : Nat :=
  ((touchedPages t rows).filter fun i => !(b.copied.contains (pageCode t.store (b.dir.getD i 0)))).length

/-- R219: the new record of a row and what its rounding counts. -/
def updateRecord (t : Emb) (h : Batch) (row : Nat) (rec_ : List Byte) (g : List Val) : List Byte × ArithEv :=
  let sq := (g.map fun x => x.mul x).foldl Val.add Val.zero
  let g1 := rne32 ((f32 (le rec_ t.gOff 4)).add (sq.mul (.fin false 1 t.dim)))
  let rate := if t.update = 2 then rne32 (h.eta.mul (rsqrtHw (rne32 (g1.add h.eps)))) else h.eta
  let es := (List.range t.dim).map fun i =>
    let mode := if h.keyed then RMode.keyed (keyedDraw h.seed (row * t.dim + i) (0x7AB00000 + h.asset)) else RMode.nearest
    t.elem.encode false mode ((t.val rec_ i).sub (rate.mul (g.getD i .zero)))
  let body := packBytes t.elem (es.map (·.1)) ++ (if t.update = 2 then natLE 4 (Fmt.fp32.encode false .nearest g1).1 else [])
  (body ++ List.replicate (t.rb - body.length) 0, es.foldl (fun e x => e.add x.2) {})

/-- The TABLE section of the image. -/
def tableSection (s : State) : Option Nat :=
  match s.bond.image with
  | some im => (im.sections.find? fun x => decide (x.kind = 9)).map (·.id)
  | none => none

/-- R157: an access of the TABLE section's cores; none is charged in an image without that section (log 51). -/
def tableAccess (s : State) (g o n : Nat) (wr : Bool) : State :=
  match tableSection s with
  | some i => accessed s i (((sectionGroups s i).headD 0) / 128) g o n wr
  | none => s

/-- R214: the page a row is written to: the first write of a page in a build copies it into a free page. -/
def copyPage (s : State) (t : Emb) (b : Build) (i : Nat) : State × Build :=
  let old := b.dir.getD i 0
  if b.copied.contains (pageCode t.store old) then (s, b)
  else
    match freePages s t.store with
    | [] => (s, b)
    | p :: _ =>
      let s0 := tableAccess (tableAccess s t.store (2048 * old) 2048 false) t.store (2048 * p) 2048 true
      let s1 := bump (ldWrite s0 t.store (2048 * p) (ldRead s t.store (2048 * old) 2048)) Reg.TAB_CNT_PAGES
      let b1 := { b with
        dir := b.dir.set i p
        copied := b.copied ++ [pageCode t.store p] }
      (setBuild s1 b.asset (some b1), b1)

/-- Count an arithmetic record against the TABLE section. -/
def arithTable (s : State) (e : ArithEv) : State :=
  match tableSection s with
  | some i => arith s i (((sectionGroups s i).headD 0) / 128) e
  | none => s

/-- One touched row is updated. -/
def applyRow (a : Nat) (h : Batch) (s : State) (p : Nat × List Val) : State :=
  match buildOf s a with
  | none => s
  | some b =>
    let t := embAt s a b.base
    let c := copyPage s t b (p.1 / max t.rpp 1)
    let page := c.2.dir.getD (p.1 / max t.rpp 1) 0
    let u := updateRecord t h p.1 (rowRecord c.1 t page p.1) p.2
    let o := 2048 * page + t.rb * (p.1 % max t.rpp 1)
    let s1 := ldWrite (tableAccess (tableAccess c.1 t.store o t.rb false) t.store o t.rb true) t.store o u.1
    bump (arithTable (setBuild s1 a (some { c.2 with
      touched := insertAsc p.1 c.2.touched })) u.2) Reg.TAB_CNT_ROWS

/-- The rows of a batch in the table of asset `a`: pairs of a table asset and its summed gradients; out-of-range entries; what the sums
count. A QR table's gradients go to both component tables (R216). -/
def batchRows (s : State) (a : Nat) (t : Emb) (es : List (Nat × List Val)) : List (Nat × List (Nat × List Val)) × Nat × ArithEv :=
  if t.mode = 2 then
    let r := buildEmb s t.rAsset
    let x := sumGrads t.dim (es.map fun e => ((rowsOf t r.rows e.1).1, e.2))
    let y := sumGrads t.dim (es.map fun e => ((rowsOf t r.rows e.1).2.getD 0, e.2))
    ([(t.qAsset, x.1), (t.rAsset, y.1)], 0, x.2.add y.2)
  else
    let ok := es.filter fun e => decide (t.mode ≠ 0) || decide (e.1 < t.rows)
    let x := sumGrads t.dim (ok.map fun e => ((rowsOf t 0 e.1).1, e.2))
    ([(a, x.1)], es.length - ok.length, x.2)

/-- The pages a batch needs, by store (R218). -/
def pageNeeds (s : State) (l : List (Nat × List (Nat × List Val))) : List (Nat × Nat) :=
  l.map fun p =>
    match buildOf s p.1 with
    | some b => let t := embAt s p.1 b.base; (t.store, pagesNeeded t b (p.2.map (·.1)))
    | none => (0, 0)

/-- What a batch needs of one store. -/
def needOf (need : List (Nat × Nat)) (g : Nat) : Nat := ((need.filter fun y => decide (y.1 = g)).map (·.2)).foldl (· + ·) 0

/-- R218: whether the stores have the free pages a batch needs. -/
def pagesSuffice (s : State) (l : List (Nat × List (Nat × List Val))) : Bool :=
  let need := pageNeeds s l
  need.all fun x => decide (needOf need x.1 ≤ (freePages s x.1).length)

/-- The pages a batch reserves before it writes any row (R218), as codes. -/
def reservedPages (s : State) (l : List (Nat × List (Nat × List Val))) : List Nat :=
  let need := pageNeeds s l
  ((need.map (·.1)).eraseDups).flatMap fun g => ((freePages s g).take (needOf need g)).map (pageCode g)

/-- The checks of APPLY that the descriptor and the builds decide. -/
def applyCheck (s : State) (a : Nat) (t : Emb) : Nat :=
  if t.mode = 2 then
    let bad (x : Nat) := (buildOf s x).isNone || decide ((buildEmb s x).update = 0)
    if bad t.qAsset || bad t.rAsset then 0x07 else 0
  else if (buildOf s a).isNone then 0x06
  else if t.update = 0 then 0x07
  else 0

/-- Count the entries a build has applied. -/
def countApplied (s : State) (a n : Nat) : State :=
  match buildOf s a with
  | some b => setBuild s a (some { b with
      applied := b.applied + n })
  | none => s

/-- Replace the batches that run. -/
def setBatches (s : State) (l : List BatchRun) : State := { s with
    assets := { s.assets with
      batches := l } }

/-- A batch's entries have all run (R218, R219): every touched row is updated once, on the pages reserved for it. -/
def finishBatch (s : State) (x : BatchRun) : State :=
  let t := buildEmb s x.asset
  let h := batchOf x.bytes
  let r := batchRows s x.asset t (batchEntries t.dim h.nent x.bytes)
  let s1 := r.1.foldl (fun s' p => countApplied (p.2.foldl (applyRow p.1 h) s') p.1 h.nent) s
  arithTable (bumpBy s1 Reg.TAB_CNT_OOR r.2.1) r.2.2

/-- APPLY (R216 to R218): its state and its code. A batch that passes the checks runs in the TABLE section's steps (R311); an image
without one applies it at once (log 51). -/
def startBatch (s : State) (a : Nat) (batch : List Byte) (own : Bool) : State × Nat :=
  let t := buildEmb s a
  let c := applyCheck s a t
  if c ≠ 0 then (s, c)
  else if !batchGood a t.dim batch then (s, 0x08)
  else
    let n := (batchOf batch).nent
    let r := batchRows s a t (batchEntries t.dim n batch)
    if !pagesSuffice s r.1 then (s, 0x09)
    else
      let x : BatchRun := { asset := a, bytes := batch, left := n, listed := 0, pages := reservedPages s r.1, own := own }
      (if (tableSection s).isNone then finishBatch (if own then setReg s Reg.TAB_PROGRESS n else s) x else setBatches s (s.assets.batches ++ [x]), 0)

/-- The update entries a TABLE step lists (R311, R316): of the batches in order, as many as the allowance pays for at `cost` each. -/
def listEntries (cost : Int) : List BatchRun → Int → List BatchRun
  | [], _ => []
  | x :: xs, allow =>
    let n := if cost ≤ 0 then x.left else min x.left (max 0 (allow / cost)).toNat
    { x with
      left := x.left - n
      listed := n } :: listEntries cost xs (if n < x.left then -1 else allow - (n : Int) * cost)

/-- The entries that a TABLE step listed. -/
def listedEntries (s : State) : Nat := (s.assets.batches.map (·.listed)).foldl (· + ·) 0

/-- A TABLE step ends: TAB_PROGRESS counts the entries it ran, and a batch whose last entry ran takes effect. -/
def tableEnded (s : State) : State :=
  let own := ((s.assets.batches.filter (·.own)).map (·.listed)).foldl (· + ·) 0
  let finished := s.assets.batches.filter fun x => decide (x.left = 0)
  let rest := (s.assets.batches.filter fun x => decide (x.left ≠ 0)).map fun (x : BatchRun) => { x with
    listed := 0 }
  finished.foldl finishBatch (setBatches (if own = 0 then s else setReg s Reg.TAB_PROGRESS (reg s Reg.TAB_PROGRESS + own)) rest)

/-! ## CLOSE and ABORT -/

/-- BUILD_DIGEST (R220). -/
def buildDigest (s : State) (b : Build) : Nat :=
  let t := embAt s b.asset b.base
  let recs := b.touched.flatMap fun n => rowRecord s t (b.dir.getD (n / max t.rpp 1) 0) n
  leNat (shake256 (natLE 2 b.asset ++ natLE 4 b.ver ++ recs) 8)

/-- R216: the build becomes a resident, verified version: its descriptor and directory stand in its slot. -/
def closeBuild (s : State) (b : Build) : State :=
  let d := assetRead s b.asset b.base 0 64
  let body := d.take 32 ++ natLE 4 b.ver ++ natLE 4 b.base ++ d.drop 40 ++ b.dir.flatMap (natLE 4)
  let s1 := slotWrite (setBuild s b.asset none) b.asset b.slot 0 body
  let x := assetSt s1 b.asset
  let t := embAt s b.asset b.base
  let v : Version :=
    { ver := b.ver, slot := b.slot, size := body.length, digest := shake256 body 32, verified := true, everCurrent := false,
      superseded := false, pages := b.dir.map (pageCode t.store), wb := [] }
  setAsset s1 b.asset { x with
    versions := x.versions ++ [v] }

/-- R214: a build is discarded and its pages are free again; its base is no longer pinned. -/
def dropBuild (s : State) (a : Nat) : State := reap (setBuild s a none) a

/-! ## Commands (R216, R220) -/

/-- A table command takes effect: its state, its code, and the BUILD_DIGEST of a CLOSE. The residency of a CLOSE waits for its
completion. -/
def tabRun (s : State) (op a base ver : Nat) (batch : List Byte) (own : Bool) : State × Nat × Nat :=
  if !isSealed s then (s, 0x02, 0)
  else if kindOf s a ≠ some 3 then (s, 0x03, 0)
  else
    match op with
    | 1 =>
      let c := openCheck s a base ver
      match c, freeSlotOf s a with
      | 0, some sl => (openBuild s a base ver sl, 0, 0)
      | c, _ => (tick s, if c = 0 then 0x04 else c, 0)
    | 2 => let r := startBatch (if own then setReg s Reg.TAB_PROGRESS 0 else s) a batch own; (r.1, r.2, 0)
    | 3 =>
      match buildOf s a with
      | none => (s, 0x06, 0)
      | some b => let d := buildDigest s b; (setReg64 s Reg.TAB_DIGEST d, 0, d)
    | _ => if (buildOf s a).isNone then (s, 0x06, 0) else (dropBuild s a, 0, 0)

/-- Body of a TABLE entry (Table 18.4): the command, the digest of a CLOSE, and the batch of an APPLY. -/
def tableBody (op a base ver digest : Nat) (batch : List Byte) : List Byte :=
  natLE 4 op ++ natLE 4 a ++ natLE 4 base ++ natLE 4 ver ++ natLE 8 digest ++ natLE 8 batch.length ++ batch

/-- TAB_RESULT takes a code; the number of open builds beside it is read where it is read. -/
def tabResult (s : State) (code : Nat) : State := setReg s Reg.TAB_RESULT code

/-- A command takes effect and is journalled; TAB_RESULT reads BUSY until it completes. -/
def tabStart (s : State) (op a base ver : Nat) (batch : List Byte) : State :=
  let r := tabRun s op a base ver batch true
  let j := journal r.1 0x04 0xFFFFFFFF (tableBody op a base ver r.2.2 (if op = 2 then batch else []))
  tabResult { j.1 with
    assets := { j.1.assets with
      tabBusy := some { code := r.2.1, slot := 0, jseq := j.2, op := op, args := [a, base, ver] } } } 1

/-- A write of TAB_CMD (R216). -/
def tabCmd (s : State) (op : Nat) : State :=
  let a := bits (reg s Reg.TAB_ASSET) 15 0
  let base := reg s Reg.TAB_BASE_VER
  let ver := reg s Reg.TAB_NEW_VER
  let o := reg64 s Reg.TAB_UPD_OFFSET
  let n := reg64 s Reg.TAB_UPD_LEN
  if s.assets.tabBusy.isSome ∨ isHeld s 2 then busyWrite s Reg.TAB_CMD
  else if holdsCommands s then tabResult (holdCmd s 2 op [a, base, ver, o, n]) 1
  else tabStart s op a base ver (if op = 2 ∧ o + n ≤ bar4Size then stagingRead s o n else [])

/-- A table command ends with a code (Tables 11.4, 11.5). -/
def tabEnd (s : State) (code : Nat) : State :=
  let s1 := tabResult { s with
    assets := { s.assets with
      tabBusy := none } } code
  if code = 0 then setBits s1 Reg.TAB_INT_STATUS 1
  else setBits (bump s1 Reg.TAB_CNT_REFUSED) Reg.TAB_INT_STATUS (if code = 0x0A then 6 else 2)

/-- Whether a batch of this module's own runs. -/
def applyRuns (s : State) : Bool := s.assets.batches.any (·.own)

/-- TAB_COMMAND_DONE (R216, R220): the command has run and, on a paired module, the twin has acknowledged it. A closed build's base is no
longer pinned (R58). A command that an UNLOAD overtook reports NOT_SEALED. -/
def tabDone (s : State) : State :=
  match s.assets.tabBusy with
  | none => s
  | some b =>
    if !acknowledged s b.jseq ∨ applyRuns s then s
    else if !isSealed s then tabEnd s 0x02
    else
      match b.op, b.code, buildOf s (b.args.headD 0) with
      | 3, 0, some x => tabEnd (reap (closeBuild s x) x.asset) 0
      | _, _, _ => tabEnd s b.code

/-- The twin refuses a command: the digests of a CLOSE differ (R220), so the build is discarded. -/
def tabRefused (s : State) (code : Nat) : State :=
  match s.assets.tabBusy with
  | none => s
  | some b => tabEnd (dropBuild s (b.args.headD 0)) code

/-- The builds that a running batch updates are discarded. -/
def dropBatch (s : State) (x : BatchRun) : State :=
  let t := buildEmb s x.asset
  let s1 := dropBuild s x.asset
  if t.mode = 2 then dropBuild (dropBuild s1 t.qAsset) t.rAsset else s1

/-- R221: a core group of the TABLE section is reset while an APPLY runs: its builds are discarded, and its pages are free. -/
def tabUnitReset (s : State) : State :=
  if s.assets.batches = [] then s
  else
    let s1 := setBatches (s.assets.batches.foldl dropBatch s) []
    if applyRuns s then tabEnd s1 0x0C else s1

/-- TAB_OPEN (R216). -/
def execTabOpen (s : State) : Out := host s Reg.TAB_CMD fun s => tabCmd s 1
/-- TAB_APPLY (R217 to R219). -/
def execTabApply (s : State) : Out := host s Reg.TAB_CMD fun s => tabCmd s 2
/-- TAB_CLOSE (R216, R220). -/
def execTabClose (s : State) : Out := host s Reg.TAB_CMD fun s => tabCmd s 3
/-- TAB_ABORT (R216). -/
def execTabAbort (s : State) : Out := host s Reg.TAB_CMD fun s => tabCmd s 4
/-- R447: whether an APPLY runs while a memory controller is being reset. -/
def applyCut (s : State) : Bool := applyRuns s && (memDevices s).any fun k => decide ((unitSt s 2 k).mode = .resetting)

/-- TAB_COMMAND_DONE (R216, R220, R447). -/
def execTabCommandDone (s : State) : Out := done (if applyCut s then tabUnitReset s else tabDone s)

end Sys2Proof.Machine
end

