-- ==== Sys2Proof/Machine/Bond.lean ====
section
/-!
DEFINITION. Machine/Bond.lean: loading, sealing and unloading the bond image (spec/03_bond_image.md, R44 to R46, R54, R55; R376, R377), and what
units and cores do at those edges (R43, R148, R442, R443).
-/
namespace Sys2Proof.Machine

/-! ## Units (R442, R443) -/

/-- The units of a class that the fuses enable: core groups, selection units, memory controllers, pod ports, text unit, grammar unit. -/
def unitsOf (s : State) (cls : Nat) : List Nat :=
  match cls with
  | 0 => (List.range 4).flatMap fun d => (enabledGroups s d).map (128 * d + ·)
  | 1 => (List.range 4).flatMap fun d => (enabledGroups s d).map (128 * d + ·)
  | 2 => memDevices s
  | 3 => (List.range 4).filter fun n => bit s.topo.fusePods n
  | _ => [0]

/-- A unit changes its state. -/
def setUnitMode (s : State) (cls i : Nat) (m : UnitMode) : State := setUnit s cls i { unitSt s cls i with
    mode := m }

/-- The epochs of every unit of some classes increment, and every core group that then runs has been given them (R443, R444; log 70). -/
def bumpEpochs (s : State) (classes : List Nat) : State :=
  let s1 := classes.foldl (fun s' c => (unitsOf s' c).foldl (fun x i => raiseEpoch x c i) s') s
  { s1 with
    topo := { s1.topo with
      known := [] } }

/-- R442: whether a group belongs to a section whose kind is not DARK. -/
def groupLive (s : State) (g : Nat) : Bool :=
  match (groupSection s g).bind (sectionOf s) with
  | some x => decide (x.kind ≠ 0)
  | none => false

/-- The cores of a group. -/
def groupCores (g : Nat) : List Nat := (List.range 64).map (64 * g + ·)

/-- R148: a group powers up: its cores stand at their reset, their used slices clear themselves. -/
def powerGroup (s : State) (g : Nat) : State :=
  (groupCores g).foldl (fun s' c => powerSlices (spForget (setCore s' c Core.reset) c) c) s

/-- A group powers down and keeps nothing. -/
def darkGroup (s : State) (g : Nat) : State :=
  (groupCores g).foldl (fun s' c => spForget (setCore s' c Core.reset) c) s

/-- R442: a group's unit is AVAILABLE or OFF, but for one whose reset still runs. -/
def settleUnit (s : State) (cls g : Nat) (live : Bool) : State :=
  if (unitSt s cls g).mode = .resetting then s else setUnitMode s cls g (if live then .available else .off)

/-- R43, R148, R442: every enabled group takes the state the image gives it. -/
def placeGroups (s : State) : State :=
  (unitsOf s 0).foldl (fun s' g =>
    let live := groupLive s' g
    let s1 := if live then powerGroup s' g else darkGroup s' g
    settleUnit (settleUnit s1 0 g live) 1 g live) s

/-- R442: every enabled group is powered down. -/
def darkAll (s : State) : State :=
  (unitsOf s 0).foldl (fun s' g => settleUnit (settleUnit (darkGroup s' g) 0 g false) 1 g false) s

/-! ## Loading -/

/-- What the checks read of the module (R45). -/
def siteOf (s : State) (imageId : Nat) : Site :=
  { roots := imageRoots s, floor := tget (fun _ => 0) s.sec.floors imageId, arch := reg s Reg.IDENT_ARCH,
    member := bits (reg s Reg.IDENT_PART) 15 0, unset := !hasCount s, measureObs := reg s Reg.BEAT_MEASURE_OBS,
    groups := (List.range 4).map fun d => (enabledGroups s d).length, memdev := (memDevices s).length,
    podports := (unitsOf s 3).length, twin := s.topo.fuseTwin && s.twin.linkUp, gbPer := bits (reg s Reg.IDENT_MEMDEV) 15 0 }

/-- Whether the twin holds a sealed image, as its last heartbeat's pair state says (Tables 18.1, 18.6). -/
def twinSealed (s : State) : Bool := decide (3 ≤ s.twin.peerState) && decide (s.twin.peerState ≤ 6)

/-- LOAD_REFUSED. -/
def loadRefused (s : State) : State := setBits s Reg.BOND_INT_STATUS 4

/-- Replace the bond block's state. -/
def setBond (s : State) (b : BondSt) : State := { s with
    bond := b }

/-- A write of LOAD (R44). The container's bytes are taken from the window at the write. Before READY, and in HALTED, it is refused (R431, R433;
log 70). -/
def bondLoad (s : State) : State :=
  let src := regBit s Reg.BOND_SRC 0
  let o := reg64 s Reg.BOND_SRC_OFFSET
  let n := reg64 s Reg.BOND_SRC_LEN
  if s.topo.stage ≠ .ready ∨ (s.bond.mode ≠ .empty ∧ s.bond.mode ≠ .rejected) then loadRefused s
  else if src ∧ !(decide (s.twin.mode = .attested) && twinSealed s) then loadRefused s
  else setBond s { mode := .checking, fromTwin := src, bytes := if src ∨ bar4Size < o + n then [] else stagingRead s o n, image := none }

/-- A load ends REJECTED (R45). -/
def loadReject (s : State) (b : Bad) : State :=
  setBits (setReg (setBond s { BondSt.reset with
    mode := .rejected }) Reg.BOND_REASON (b.2.2 * 65536 + b.2.1 * 256 + b.1)) Reg.BOND_INT_STATUS 2

/-- Write a byte string into a run of registers. -/
def setRegBytes (s : State) (a : Nat) (bs : List Byte) : State :=
  (List.range ((bs.length + 3) / 4)).foldl (fun s' i => setReg s' (a + 4 * i) (le bs (4 * i) 4)) s

/-- The BOND registers that show the image in force (Table 03.9). BOND_SEAL_TIME returns to 0 with each load and unload (log 60). -/
def publishImage (s : State) (im : Option Image) : State :=
  let id := match im with | some x => x.imageId | none => 0
  let ver := match im with | some x => x.imageVer | none => 0
  let l := match im with | some x => x.frontL | none => 0
  let d := match im with | some x => x.digest | none => List.replicate 64 0
  setReg64 (setRegBytes (setReg (setReg (setReg64 s Reg.BOND_IMAGE_ID id) Reg.BOND_IMAGE_VER ver) Reg.BOND_L l) Reg.BOND_DIGEST d)
    Reg.BOND_SEAL_TIME 0

/-- The assets begin anew with a table; a command that reads BUSY or is held goes on to its completion, which then finds the state of the
bond block (log 60). -/
def clearAssets (s : State) (t : Tab Asset) : AssetSt := { AssetSt.reset with
    table := t
    stgBusy := s.assets.stgBusy
    swBusy := s.assets.swBusy
    tabBusy := s.assets.tabBusy
    tsBusy := s.assets.tsBusy
    held := s.assets.held }

/-- Everything that stands on an image and begins anew with one: assets, steps, front end, sequences, boundaries. -/
def clearImageState (s : State) : State := { s with
    assets := clearAssets s []
    credits := []
    deliveries := []
    steps := []
    sel := SelSt.reset
    front := FrontSt.reset
    serve := { ServeSt.reset with
      nextSeq := s.serve.nextSeq }
    adm := { s.adm with
      decided := none
      bounds := [] }
    energy := { s.energy with
      cost := []
      fBar := 0
      ran := []
      predicted := 0
      last := none }
    text := TextSt.reset }

/-- The asset table as it stands after a load: each asset's initial version is the one to be current, from the seal on (R58). -/
def initialAssets (im : Image) : Tab Asset :=
  im.assets.foldl (fun t a => tset (fun _ => Asset.reset) t a.id { Asset.reset with
    current := a.initial }) []

/-- A load succeeds (R45): the image is in force, its sequencer tables are written, and its groups power up (R148, R442, R443). -/
def loadAccept (s : State) (b : List Byte) : State :=
  let im : Image := { imageIn b with
    digest := digest64 b }
  let s1 := setBond (clearImageState s) { mode := .loaded, fromTwin := s.bond.fromTwin, bytes := [], image := some im }
  let s2 := { s1 with
    assets := { s1.assets with
      table := initialAssets im } }
  setBits (bumpEpochs (placeGroups (publishImage s2 (some im))) [0, 1, 2, 3, 4, 5]) Reg.BOND_INT_STATUS 1

/-- BOND_LOAD_COMPLETE (R45): `twinBytes` is the container as the twin sent it, for a load from the twin. -/
def loadComplete (s : State) (twinBytes : List Byte) : State :=
  if s.bond.mode ≠ .checking ∨ s.topo.stage ≠ .ready then s
  else
    let b := if s.bond.fromTwin then twinBytes else s.bond.bytes
    match loadBad b (siteOf s (le b 24 8)) with
    | some x => loadReject s x
    | none => loadAccept s b

/-- A write of ABORT (R46). -/
def bondAbort (s : State) : State :=
  if s.bond.mode = .checking then setReg (setBond s BondSt.reset) Reg.BOND_REASON 0x16 else s

/-! ## Sealing (R54, R376, R377) -/

/-- R54: the code and asset position of the first asset whose initial version is missing (0x20) or fails its digest (0x21). -/
def sealAssets (s : State) (im : Image) : Option (Nat × Nat) :=
  let bad (a : AssetE) : Option Nat :=
    match (assetSt s a.id).versions.find? fun v => decide (v.ver = a.initial) with
    | none => some 0x20
    | some v => if !v.verified then some 0x20 else if v.digest = a.digest then none else some 0x21
  match im.assets.findIdx? fun a => (bad a).isSome with
  | some i => ((im.assets[i]?).bind bad).map fun c => (c, i)
  | none => none

/-- BOND_DIGEST word 0. -/
def digestWord (s : State) : Nat :=
  match s.bond.image with
  | some im => le im.digest 0 8
  | none => 0

/-- How a SEAL that the assets allow goes on. -/
inductive SealPath where
  | now | solo | wait | join | refuse
  deriving DecidableEq, Repr

/-- R54, R376, R377, R395: the pair's part in a seal. In ATTESTED with equal digests the seal waits for the twin's, also where the twin is sealed
already, which no rule describes (DESIGN CHOICE, log 69). -/
def sealPath (s : State) (im : Image) : SealPath :=
  let equal := decide (s.twin.peerDigest = digestWord s)
  match s.twin.mode with
  | .absent => if regBit s Reg.TWIN_CTRL 2 then .solo else if im.reqTwin then .refuse else .now
  | .attested =>
    if s.twin.peerMode ≠ bits (reg s Reg.TWIN_MODE) 1 0 then .refuse
    else if equal then .wait
    else if im.reqTwin then .refuse else .now
  | .resync =>
    match s.twin.resync with
    | some r => if !r.source && r.agreed && equal then .join else .refuse
    | none => .refuse
  | _ => if im.reqTwin then .refuse else .now

/-- R58: the initial versions are current from the seal. -/
def currentInitials (s : State) (im : Image) : State :=
  im.assets.foldl (fun s' a =>
    let x := assetSt s' a.id
    setAsset s' a.id { x with
      versions := x.versions.map fun v => if v.ver = a.initial then { v with
          everCurrent := true } else v }) s

/-- R151: PIN_SCRATCH allocations that name a region are filled from it on every core of their section. -/
def fillPinned (s : State) (cores : List Nat) : State :=
  cores.foldl (fun s' c => ((coreAllocs s' c).filter fun a => a.pinScratch && decide (a.region ≠ 0xFFFF)).foldl
    (fun x a => spFill (transfer x c a.region 0 a.len false) c a.base
      (servedBytes x (c / 64) a.region 0 (ldRead x a.region 0 a.len) (spRead x c a.base a.len))) s') s

/-- The image is sealed at this edge (R54, R312): LK fields read-only, initial versions current and their gate lists in force, energy costs
at their initial values. -/
def sealNow (s : State) : State :=
  match s.bond.image with
  | none => s
  | some im =>
    let s1 := setBond s { s.bond with
      mode := .sealed }
    let s2 := currentInitials (setReg64 s1 Reg.BOND_SEAL_TIME (now s)) im
    let s3 := fillPinned s2 (im.sections.flatMap fun x => sectionCores s2 x.id)
    let s4 := { s3 with
      adm := { s3.adm with
        engine := []
        sectEngine := [] }
      energy := { s3.energy with
        cost := (List.range im.classes.length).foldl (fun t i => tset (fun _ => 0) t i (((im.classes.getD i ⟨0, 0, 0, 0⟩).e0 : Nat) : Int)) []
        fBar := signed 64 im.f0 }
      twin := { s3.twin with
        sealPending := false } }
    setBits ((List.range 4).foldl gateChange s4) Reg.BOND_INT_STATUS 8

/-- A refused seal: SEAL_REFUSED, and step 0 in BOND_REASON. -/
def sealRefuse (s : State) (code index : Nat) : State :=
  setBits (setReg s Reg.BOND_REASON (index * 65536 + code)) Reg.BOND_INT_STATUS 16

/-- Replace the pair state. -/
def setPairMode (s : State) (m : PairMode) : State := { s with
    twin := { s.twin with
      mode := m } }

/-- A write of SEAL (R54). In state ATTESTED it stays pending until the pair's boundary (R376). -/
def bondSeal (s : State) : State :=
  if s.bond.mode ≠ .loaded then setBits s Reg.BOND_INT_STATUS 16
  else
    match s.bond.image with
    | none => s
    | some im =>
      match sealAssets s im with
      | some p => sealRefuse s p.1 p.2
      | none =>
        match sealPath s im with
        | .refuse => sealRefuse s 0x22 0xFFFF
        | .now => sealNow s
        | .solo => sealNow (setPairMode s .solo)
        | .wait => sendMbox { s with
            twin := { s.twin with
              sealPending := true } } 2 []
        | .join =>
          let s1 := sendMbox (sealNow s) 2 []
          { s1 with
            twin := { s1.twin with
              joinReady := true } }

/-! ## Unloading (R55) -/

/-- R30: whether a request is in flight: an entry of the active sequence table, or a front-end request. -/
def inFlight (s : State) : Bool :=
  (s.serve.ast.any fun p => decide (p.2.mode ≠ .free)) || s.front.reqs.any fun p => p.2.isSome

/-- ADMIT_CTRL.OPEN. -/
def admitOpen (s : State) : Bool := regBit s Reg.ADMIT_CTRL 0

/-- R55: an UNLOAD ends SOLO and DRAINING: the pair state follows the link. -/
def unloadPair (s : State) : State :=
  if s.twin.mode = .solo ∨ s.twin.mode = .draining then
    setPairMode s (if !s.twin.linkUp then .absent else if s.sec.pairSecret.isSome then .attested else .linking)
  else s

/-- A write of UNLOAD (R55). -/
def bondUnload (s : State) : State :=
  if s.bond.mode ≠ .sealed ∨ admitOpen s ∨ inFlight s then loadRefused s
  else
    let s1 := bumpEpochs (darkAll s) [0, 1, 2, 3, 4, 5]
    unloadPair (publishImage (setBond (clearImageState s1) BondSt.reset) none)

/-! ## The commands -/

/-- BOND_LOAD (R44). -/
def execBondLoad (s : State) : Out := host s Reg.BOND_CTRL bondLoad
/-- BOND_LOAD_COMPLETE (R45). -/
def execBondLoadComplete (twinBytes : List Byte) (s : State) : Out := done (loadComplete s twinBytes)
/-- BOND_ABORT (R46). -/
def execBondAbort (s : State) : Out := host s Reg.BOND_CTRL bondAbort
/-- BOND_SEAL (R54). -/
def execBondSeal (s : State) : Out := host s Reg.BOND_CTRL bondSeal
/-- BOND_UNLOAD (R55). -/
def execBondUnload (s : State) : Out := host s Reg.BOND_CTRL bondUnload

end Sys2Proof.Machine
end

