-- ==== Sys2Proof/Machine/Text.lean ====
section
/-!
DEFINITION. Machine/Text.lean: the text unit and the grammar unit (spec/12_text_grammar.md): UTF-8 (R226, R227), normalisation (R228, R229), pieces and
merges (R230 to R232), the vocabulary cache (R236), detokenisation (R237), stop strings (R240, R241), the pushdown automaton
(R244, R245), masks (R246, R247), TOKENISE and MASK_BUILD.
-/
namespace Sys2Proof.Machine

/-! ## UTF-8 (R226) -/

/-- What the front of a byte string is: a character, an ill-formed maximal subpart, or the proper prefix of a character. -/
inductive Front where
  | char (len : Nat)
  | bad (len : Nat)
  | cut (len : Nat)
  deriving DecidableEq, Repr

/-- Bytes that follow a lead byte, and the bounds of the first of them (RFC 3629); none for a byte that leads nothing. -/
def utf8Lead (b : Nat) : Option (Nat × Nat × Nat) :=
  if b < 0x80 then some (0, 0x80, 0xBF)
  else if b < 0xC2 then none
  else if b < 0xE0 then some (1, 0x80, 0xBF)
  else if b = 0xE0 then some (2, 0xA0, 0xBF)
  else if b = 0xED then some (2, 0x80, 0x9F)
  else if b < 0xF0 then some (2, 0x80, 0xBF)
  else if b = 0xF0 then some (3, 0x90, 0xBF)
  else if b < 0xF4 then some (3, 0x80, 0xBF)
  else if b = 0xF4 then some (3, 0x80, 0x8F)
  else none

/-- How many of `need` continuation bytes follow, the first within bounds. -/
def utf8Tail : Nat → Nat → Nat → List Byte → Nat
  | 0, _, _, _ => 0
  | _ + 1, _, _, [] => 0
  | n + 1, lo, hi, b :: bs => if lo ≤ b.toNat ∧ b.toNat ≤ hi then 1 + utf8Tail n 0x80 0xBF bs else 0

/-- The front of a byte string that is not empty. -/
def utf8Front : List Byte → Front
  | [] => .bad 1
  | b :: bs =>
    match utf8Lead b.toNat with
    | none => .bad 1
    | some (need, lo, hi) =>
      let got := utf8Tail need lo hi bs
      if got = need then .char (1 + need) else if got = bs.length then .cut (1 + got) else .bad (1 + got)

/-- A decoded character: its bytes, whether it stands for an ill-formed subpart, and the bytes it was decoded from. -/
structure Ch where
  bytes : List Byte
  bad : Bool
  src : Nat
  deriving DecidableEq, Repr

/-- U+FFFD for `k` bytes. -/
def fffd (k : Nat) : Ch := { bytes := [0xEF, 0xBF, 0xBD], bad := true, src := k }

/-- Decode a byte string: its characters and the incomplete tail. -/
def utf8Scan : Nat → List Byte → List Ch × List Byte
  | 0, _ => ([], [])
  | _ + 1, [] => ([], [])
  | n + 1, b :: bs =>
    match utf8Front (b :: bs) with
    | .cut _ => ([], b :: bs)
    | .char k => let r := utf8Scan n ((b :: bs).drop k); ({ bytes := (b :: bs).take k, bad := false, src := k } :: r.1, r.2)
    | .bad k => let r := utf8Scan n ((b :: bs).drop k); (fffd k :: r.1, r.2)

/-- R237: the characters of a byte string and its pending tail. -/
def utf8Split (bs : List Byte) : List Ch × List Byte := utf8Scan bs.length bs

/-- R227: the characters of a whole text: a truncated tail is one maximal subpart. -/
def utf8All (bs : List Byte) : List Ch :=
  let r := utf8Split bs
  r.1 ++ (if r.2 = [] then [] else [fffd r.2.length])

/-- The offset of the first ill-formed byte of a text. -/
def illFormedAt : Nat → List Byte → Nat → Option Nat
  | 0, _, _ => none
  | _ + 1, [], _ => none
  | n + 1, b :: bs, o =>
    match utf8Front (b :: bs) with
    | .char k => illFormedAt n ((b :: bs).drop k) (o + k)
    | .bad _ => some o
    | .cut _ => some o

/-- Whether a byte string is well-formed UTF-8. -/
def utf8Good (bs : List Byte) : Bool := (illFormedAt bs.length bs 0).isNone

/-- The code point of a character's bytes. -/
def codePoint : List Byte → Nat
  | [a] => a.toNat
  | [a, b] => a.toNat % 32 * 64 + b.toNat % 64
  | [a, b, c] => (a.toNat % 16 * 64 + b.toNat % 64) * 64 + c.toNat % 64
  | [a, b, c, d] => ((a.toNat % 8 * 64 + b.toNat % 64) * 64 + c.toNat % 64) * 64 + d.toNat % 64
  | _ => 0xFFFD

/-- The bytes of a code point. -/
def utf8Bytes (c : Nat) : List Byte :=
  let t (k : Nat) : Byte := BitVec.ofNat 8 (0x80 + c / 64 ^ k % 64)
  if c < 0x80 then [BitVec.ofNat 8 c]
  else if c < 0x800 then [BitVec.ofNat 8 (0xC0 + c / 64), t 0]
  else if c < 0x10000 then [BitVec.ofNat 8 (0xE0 + c / 4096), t 1, t 0]
  else [BitVec.ofNat 8 (0xF0 + c / 262144), t 2, t 1, t 0]

/-! ## Normalisation (R228, R229) -/

/-- The property word of a code point. -/
def normProp (r : Rd) (c : Nat) : Nat :=
  rdN r (rdN r 28 4 + 1024 * rdN r (rdN r 24 4 + 2 * (c / 256)) 2 + 4 * (c % 256)) 4

/-- Canonical combining class. -/
def ccc (r : Rd) (c : Nat) : Nat := bits (normProp r c) 7 0

/-- Step 1 for one code point. -/
def decomposeOne (r : Rd) (c : Nat) : List Nat :=
  if 0xAC00 ≤ c ∧ c ≤ 0xD7A3 then
    let i := c - 0xAC00
    let t := i % 28
    [0x1100 + i / 588, 0x1161 + i % 588 / 28] ++ (if t = 0 then [] else [0x11A7 + t])
  else
    let w := normProp r c
    let n := bits w 15 11
    if n = 0 then [c] else (List.range n).map fun j => rdN r (rdN r 32 4 + 4 * (bits w 31 16 + j)) 4

/-- Step 2: U+034F goes in after the 30th code point of a run of nonzero CCC that goes on, and so on (the Stream-Safe Text
Format); the result and the insertions. `k` counts the run. -/
def streamSafe (r : Rd) : Nat → List Nat → List Nat × Nat
  | _, [] => ([], 0)
  | k, c :: cs =>
    if ccc r c = 0 then let p := streamSafe r 0 cs; (c :: p.1, p.2)
    else if k = 30 then let p := streamSafe r 1 cs; (0x34F :: c :: p.1, p.2 + 1)
    else let p := streamSafe r (k + 1) cs; (c :: p.1, p.2)

/-- Insert a code point of nonzero CCC into a sorted run from its left end: before the first code point of CCC at or above it. -/
def cccInsert (r : Rd) (c : Nat) : List Nat → List Nat
  | [] => [c]
  | d :: ds => if ccc r d ≠ 0 ∧ ccc r d < ccc r c then d :: cccInsert r c ds else c :: d :: ds

/-- Step 3: every maximal run of nonzero CCC, sorted stably. -/
def cccSort (r : Rd) : List Nat → List Nat
  | [] => []
  | c :: cs => if ccc r c = 0 then c :: cccSort r cs else cccInsert r c (cccSort r cs)

/-- The composite of a pair: Hangul algorithmically, else from the composition table. -/
def compose (r : Rd) (a b : Nat) : Option Nat :=
  if 0x1100 ≤ a ∧ a ≤ 0x1112 ∧ 0x1161 ≤ b ∧ b ≤ 0x1175 then some (0xAC00 + ((a - 0x1100) * 21 + (b - 0x1161)) * 28)
  else if 0xAC00 ≤ a ∧ a ≤ 0xD7A3 ∧ (a - 0xAC00) % 28 = 0 ∧ 0x11A8 ≤ b ∧ b ≤ 0x11C2 then some (a + (b - 0x11A7))
  else
    let h := rdN r 16 1
    ((List.range (rdN r 17 1)).map fun k =>
        rdN r (rdN r 36 4 + 16 * ((mix64 (a * 2 ^ 32 + b) 0 / 2 ^ (64 - h) + k) % 2 ^ h)) 16).findSome? fun e =>
      if bits e 31 0 = a ∧ bits e 63 32 = b ∧ bits e 31 0 ≠ 0xFFFFFFFF then some (bits e 95 64) else none

/-- Step 4: the starter `st` with what follows it (reversed, and the CCC of the last of it, 0 for none) meets the rest. -/
def composeWalk (r : Rd) : Option Nat → List Nat → Nat → List Nat → List Nat
  | none, acc, _, [] => acc.reverse
  | some t, acc, _, [] => t :: acc.reverse
  | none, _, _, c :: cs => if ccc r c = 0 then composeWalk r (some c) [] 0 cs else c :: composeWalk r none [] 0 cs
  | some t, acc, last, c :: cs =>
    let k := ccc r c
    let blocked := decide (acc ≠ []) && (decide (last = 0) || decide (k ≤ last))
    match (if blocked then none else compose r t c) with
    | some x => composeWalk r (some x) acc last cs
    | none =>
      if k = 0 then t :: (acc.reverse ++ composeWalk r (some c) [] 0 cs) else composeWalk r (some t) (c :: acc) k cs

/-- R229: the normalised code points and the insertions of step 2. -/
def normalise (r : Rd) (cs : List Nat) : List Nat × Nat :=
  let p := streamSafe r 0 (cs.flatMap (decomposeOne r))
  (composeWalk r none [] 0 (cccSort r p.1), p.2)

/-! ## Pieces and merges (R230 to R232) -/

/-- The class of a code point. -/
def textClass (r : Rd) (c : Nat) : Nat :=
  rdN r (rdN r 32 4 + 256 * rdN r (rdN r 28 4 + 2 * (c / 256)) 2 + c % 256) 1 % 16

/-- Whether a piece boundary falls between `a` and `b`. -/
def breaks (r : Rd) (a b : Nat) : Bool := bit (rdN r (rdN r 36 4 + 2 * textClass r a) 2) (textClass r b)

/-- R230: the pieces of a text; a piece that would pass 256 bytes is cut before the code point that passes it. `piece` is the
piece so far, reversed by code point, and `last` its last code point. -/
def piecesFrom (r : Rd) : List (List Byte) → Nat → Option Nat → List Nat → List (List Byte)
  | piece, _, _, [] => if piece = [] then [] else [piece.reverse.flatten]
  | piece, len, last, c :: cs =>
    let b := utf8Bytes c
    let cut := match last with
      | none => false
      | some a => breaks r a c || decide (256 < len + b.length)
    if cut then piece.reverse.flatten :: piecesFrom r [b] b.length (some c) cs
    else piecesFrom r (b :: piece) (len + b.length) (some c) cs

/-- The pair of lowest RANK in a token list, the leftmost of its occurrences: RANK, position, RESULT. -/
def bestPair (r : Rd) : Nat → List Nat → Option (Nat × Nat × Nat)
  | _, [] => none
  | _, [_] => none
  | i, a :: b :: ts =>
    let rest := bestPair r (i + 1) (b :: ts)
    match mergeFind r a b, rest with
    | none, x => x
    | some (k, res), none => some (k, i, res)
    | some (k, res), some x => if k ≤ x.1 then some (k, i, res) else some x

/-- R232: merges until no pair is present. -/
def mergePiece (r : Rd) : Nat → List Nat → List Nat
  | 0, ts => ts
  | n + 1, ts =>
    match bestPair r 0 ts with
    | none => ts
    | some (_, i, res) => mergePiece r n (ts.take i ++ res :: ts.drop (i + 2))

/-- The tokens of a piece. -/
def pieceTokens (r : Rd) (p : List Byte) : List Nat :=
  mergePiece r p.length (p.map fun b => rdN r (rdN r 24 4 + 4 * b.toNat) 4)

/-- R230 to R232: the tokens of a normalised text. -/
def textTokens (r : Rd) (cs : List Nat) : List Nat := (piecesFrom r [] 0 none cs).flatMap (pieceTokens r)

/-! ## TOKENISE -/

/-- The reader of the version, in version set `v`, of the asset of a kind bound to section kind `sk`. -/
def pinnedRd (s : State) (v sk kind : Nat) : Rd :=
  match boundAsset s sk kind with
  | some a => assetRd s a (versionIn s v a)
  | none => fun _ _ => []

/-- What the text unit makes of a text: tokens or none, replacements, insertions, offset of the first ill-formed byte. -/
structure TextOut where
  tokens : List Nat
  replaced : Nat := 0
  safe : Nat := 0
  malformed : Option Nat := none
  tooLong : Bool := false
  deriving DecidableEq, Repr

/-- R227 to R232. -/
def tokeniseText (norm merge : Rd) (strict : Bool) (bs : List Byte) : TextOut :=
  match strict, illFormedAt bs.length bs 0 with
  | true, some o => { tokens := [], malformed := some o }
  | _, _ =>
    let chs := utf8All bs
    let rep := (chs.filter (·.bad)).length
    let n := normalise norm (chs.map fun c => codePoint c.bytes)
    if 8192 < (n.1.flatMap utf8Bytes).length then { tokens := [], replaced := rep, safe := n.2, tooLong := true }
    else
      let ts := textTokens merge n.1
      if 4096 < ts.length then { tokens := [], replaced := rep, safe := n.2, tooLong := true }
      else { tokens := ts, replaced := rep, safe := n.2 }

/-- The WORKING regions of an image. -/
def workingRegions (im : Image) : List Nat := (List.range im.regions.length).filter fun i => decide ((im.regions.getD i ⟨0, 0, 0⟩).kind = 2)

/-- R234, R327: a part of a request's input is written to the EMBED section's working region, at a free place of it (log 65). -/
def placeInput (s : State) (k part : Nat) (bs : List Byte) : State :=
  match s.bond.image with
  | none => s
  | some im =>
    let ws := workingRegions im
    if ws = [] ∨ bs = [] then s
    else
      let p := Config.inputPlace k part
      let g := ws.getD (p.1 % ws.length) 0
      let room := (im.regions.getD g ⟨0, 0, 0⟩).size
      ldWrite s g (p.2 % (room - bs.length + 1)) (bs.take room)

/-- The image, the keys and, of a request with TOKENS input, the tokens pass unchanged to EMBED (R327). -/
def placeInputs (s : State) (k : Nat) (r : Req) : State :=
  placeInput (placeInput (placeInput s k 0 r.image) k 1 (r.keys.flatMap (natLE 8))) k 2 (r.tokens.flatMap (natLE 4))

/-- R227, R229, R232, R234: what a finished lane leaves in a request and in the counters. -/
def tokenise (s : State) (k : Nat) (r : Req) : State :=
  let o := tokeniseText (pinnedRd s r.vset 1 7) (pinnedRd s r.vset 1 8) r.strict r.input
  let s1 := setReq s k (some { r with
    lane := false
    tokenised := true
    tokens := o.tokens
    textReplaced := decide (o.replaced ≠ 0)
    textMalformed := o.malformed.isSome
    malOffset := o.malformed.getD 0
    textTooLong := o.tooLong })
  let s2 := bumpBy (bumpBy (bumpBy s1 Reg.TEXT_CNT_REPLACED o.replaced) Reg.TEXT_CNT_STREAMSAFE o.safe) Reg.TEXT_CNT_TOKENS o.tokens.length
  let s3 := if o.tooLong then bump s2 Reg.TEXT_CNT_TOO_LONG else s2
  let s4 := placeInput s3 k 2 (o.tokens.flatMap (natLE 4))
  if o.malformed.isSome then setBits (bump s4 Reg.TEXT_CNT_MALFORMED) Reg.TEXT_INT_STATUS 1 else s4

/-- TOKENISE (R234): request `k` holds a lane and the text unit runs. -/
def execTokenise (k : Nat) (s : State) : Out :=
  match reqOf s k with
  | none => done s
  | some r => if r.lane && !r.tokenised && decide ((unitSt s 4 0).mode = .available) then done (tokenise s k r) else done s

/-- R250: the text unit is reset: every request it has not finished is late. -/
def textUnitReset (s : State) : State :=
  s.front.reqs.foldl (fun s p =>
    match p.2 with
    | some r =>
      if r.lane then
        setBits (bump (setReq s p.1 (some { r with
          lane := false
          tokenised := true
          textLate := true })) Reg.TEXT_CNT_LATE) Reg.TEXT_INT_STATUS 2
      else s
    | none => s) s

/-- R227, R250: whether a request's text left its slot empty. -/
def Req.emptyText (r : Req) : Bool := r.textMalformed || r.textTooLong || r.textLate

/-! ## The vocabulary cache (R236) -/

/-- The DECODE section whose running step lists entry `e`; of an entry that none lists, the first. -/
def decodeOf (s : State) (e : Nat) : Option Nat :=
  match s.bond.image with
  | some im =>
    let ds := (im.sections.filter fun x => x.kind = 8).map (·.id)
    match ds.find? fun i => (tget (fun _ => StepSt.reset) s.steps i).work.any fun w => w.1 = e with
    | some i => some i
    | none => ds.head?
  | none => none

/-- Sets of the vocabulary cache: 16 MiB in 64-byte lines, 16 ways (R223, R236). -/
def cacheSets : Nat := 16384

/-- One line access for entry `e`: a hit or a miss, with least-recent-use replacement over 16 ways; a miss is charged to the DECODE section
whose work caused it (R157, R236). A line of a poisoned segment is not delivered, and the item of `e` falls short (R455). -/
def cacheLine (s : State) (e line : Nat) : State :=
  let set := Config.cacheSet line % cacheSets
  let ways := tget (fun _ => []) s.text.cache set
  let s1 := { s with
    text := { s.text with
      cache := tset (fun _ => []) s.text.cache set ((line :: ways.erase line).take 16) } }
  if ways.contains line then bump s1 Reg.VC_CNT_HIT
  else
    let bad := readsPoison s (line * 64 / 2 ^ 48) (line * 64 % 2 ^ 48) 64
    let s2 := bump (if bad then s else s1) Reg.VC_CNT_MISS
    match decodeOf s e with
    | some i =>
      let s3 := event (chargeOne s2 i 0 (line * 64 / 2 ^ 48) (line * 64 % 2 ^ 48)) 4 4 (some i) (some 0) 1
      if bad then loseItems s3 i [e] else s3
    | none => s2

/-- Whether an item of the running DECODE step produces nothing (R289, R447, R455). -/
def decodeLost (s : State) (e : Nat) : Bool :=
  match decodeOf s e with
  | some i => (tget (fun _ => StepSt.reset) s.steps i).lost.contains e
  | none => false

/-- Accesses for entry `e` to bytes of an asset's version: the lines of (offset, length) pairs. -/
def cacheSpans (s : State) (e a ver : Nat) (spans : List (Nat × Nat)) : State :=
  match assetAt s a ver with
  | none => s
  | some (g, b) =>
    spans.foldl (fun s p =>
      if p.2 = 0 then s
      else
        let lo := ldKey g (b + p.1) / 64
        (List.range (ldKey g (b + p.1 + p.2 - 1) / 64 + 1 - lo)).foldl (fun s i => cacheLine s e (lo + i)) s) s

/-- The lines of a VOCAB version that token `t` touches: its directory entry and its bytes. -/
def vocSpans (r : Rd) (t : Nat) : List (Nat × Nat) :=
  [(rdN r 24 4 + 8 * t, 8), (rdN r 28 4 + bits (vocEntry r t) 31 0, if vocControl r t then 0 else vocLen r t)]

/-! ## The pushdown automaton (R244, R245) -/

/-- Feed byte `b` in state `q` with the stack, top first; a POP feeds it again. The result and the transition entries read. -/
def gramByte (r : Rd) (b : Nat) : Nat → Nat → List Nat → Option (Nat × List Nat) × List Nat
  | 0, _, _ => (none, [])
  | n + 1, q, st =>
    let e := gramTrans r q b
    let at_ := rdN r 56 4 + 2048 * q + 8 * b
    match bits e 33 32 with
    | 1 => (some (bits e 15 0, st), [at_])
    | 2 => (if 256 ≤ st.length then none else some (bits e 15 0, bits e 31 16 :: st), [at_])
    | 3 =>
      match st with
      | [] => (none, [at_])
      | p :: ps => let x := gramByte r b n p ps; (x.1, at_ :: x.2)
    | _ => (none, [at_])

/-- Feed bytes in order until one is rejected. -/
def gramFeed (r : Rd) : List Byte → Nat → List Nat → Option (Nat × List Nat) × List Nat
  | [], q, st => (some (q, st), [])
  | b :: bs, q, st =>
    match gramByte r b.toNat (st.length + 1) q st with
    | (none, l) => (none, l)
    | (some (q', st'), l) => let x := gramFeed r bs q' st'; (x.1, l ++ x.2)

/-- The largest depth that the stack has while bytes are fed. -/
def gramPeak (r : Rd) : List Byte → Nat → List Nat → Nat
  | [], _, st => st.length
  | b :: bs, q, st =>
    match (gramByte r b.toNat (st.length + 1) q st).1 with
    | none => st.length
    | some (q', st') => max st.length (gramPeak r bs q' st')

/-- R245: the EOS rule. -/
def eosAllowed (r : Rd) (q : Nat) (st : List Nat) : Bool := gramAccept r q && decide (st = [])

/-- R245: whether token `t` is allowed in a grammar state; stack top first. -/
def gramAllows (r v : Rd) (q : Nat) (st : List Nat) (t : Nat) : Bool :=
  (!vocControl v t && (gramFeed r (vocBytes v t) q st).1.isSome) || (decide (t = vocEos v) && eosAllowed r q st)

/-! ## Masks (R246) -/

/-- Bit `t` of bitmap MASK_IDX of a state. -/
def maskBit (r : Rd) (q t : Nat) : Bool :=
  bit (rdN r (rdN r 60 4 + 64 * ((rdN r 12 4 + 511) / 512) * rdN r (gramRec r q + 4) 4 + t / 8) 1) (t % 8)

/-- R246: the allowed tokens, ascending, of state `q` with the stack, top first. -/
def buildMask (r v : Rd) (q : Nat) (st : List Nat) : List Nat :=
  let d := st.length
  let deep := if 256 < d + rdN r (gramRec r q + 24) 2 then ((gramDeep r q).filter fun e => decide (256 < d + e.2)).map (·.1) else []
  let cd := ((gramCd r q).filter fun e => !vocControl v e.1 && (gramFeed r (vocBytes v e.1) q st).1.isSome).map (·.1)
  (List.range (rdN r 12 4)).filter fun t =>
    (maskBit r q t && !deep.contains t) || cd.contains t || (decide (t = vocEos v) && eosAllowed r q st)

/-- The grammar lines a mask reads: record, bitmap, DEEP list where it matters, CD list, and the transitions of the simulations. -/
def maskSpans (r v : Rd) (q : Nat) (st : List Nat) : List (Nat × Nat) :=
  let m := (rdN r 12 4 + 511) / 512 * 64
  let pools := rdN r 60 4
  let n := gramRec r q
  [(n, 32), (pools + m * rdN r (n + 4) 4, m)]
    ++ (if 256 < st.length + rdN r (n + 24) 2 then [(pools + rdN r (n + 8) 4, 4 * rdN r (n + 12) 4)] else [])
    ++ [(pools + rdN r (n + 16) 4, 4 * rdN r (n + 20) 4)]
    ++ ((gramCd r q).flatMap fun e => (gramFeed r (vocBytes v e.1) q st).2.map fun o => (o, 8))

/-- Accesses to the grammar stack of entry `e`: `n` return states, bottom first. -/
def cacheStack (s : State) (e n : Nat) : State :=
  match s.bond.image with
  | none => s
  | some im =>
    if n = 0 then s
    else
      let lo := ldKey im.kv.region (areaOff im.kv e + 3072) / 64
      (List.range ((2 * n + 63) / 64)).foldl (fun s i => cacheLine s e (lo + i)) s

/-- Replace sequence table entry `e`. -/
def setSeq (s : State) (e : Nat) (q : SeqEntry) : State := { s with
    serve := { s.serve with
      ast := tset (fun _ => SeqEntry.reset) s.serve.ast e q } }

/-- GRAMMAR of a generation text block (Table 12.3). -/
def gtGrammar (g : List Byte) : Nat := le g 0 2
/-- ENTRY. -/
def gtEntry (g : List Byte) : Nat := bits (le g 2 1) 3 0
/-- NSTOP. -/
def gtNstop (g : List Byte) : Nat := bits (le g 3 1) 3 0
/-- STOP_INCLUDE. -/
def gtInclude (g : List Byte) : Bool := bit (le g 3 1) 4
/-- NSTOPTOK. -/
def gtNstopTok (g : List Byte) : Nat := bits (le g 4 1) 3 0
/-- STOP_TOK[i], i below NSTOPTOK. -/
def gtStopToks (g : List Byte) : List Nat := (List.range (gtNstopTok g)).map fun i => le g (8 + 4 * i) 4
/-- STOP_STR[i], i below NSTOP. -/
def gtStops (g : List Byte) : List (List Byte) :=
  (List.range (gtNstop g)).map fun i => slice g (48 + 64 * i) (le g (40 + i) 1)

/-- The reader of the GRAMMAR version of entry `q`. -/
def gramRd (s : State) (q : SeqEntry) : Rd := assetRd s (gtGrammar q.genText) (versionIn s q.vset (gtGrammar q.genText))

/-- The reader of the generator's VOCAB version in a version set. -/
def vocRd (s : State) (v : Nat) : Rd := pinnedRd s v 8 4

/-- Accesses for entry `e` to the bound VOCAB version by token. -/
def cacheVoc (s : State) (e v : Nat) (ts : List Nat) : State :=
  match boundAsset s 8 4 with
  | some a => cacheSpans s e a (versionIn s v a) (ts.flatMap (vocSpans (vocRd s v)))
  | none => s

/-- MASK_BUILD (R246, R247): the mask of entry `e`; none where a line it reads is poisoned (R455). -/
def maskBuild (s : State) (e : Nat) : State :=
  let q := seqOf s e
  let g := gramRd s q
  let v := vocRd s q.vset
  let st := q.gstack.reverse
  let s2 := cacheSpans s e (gtGrammar q.genText) (versionIn s q.vset (gtGrammar q.genText)) (maskSpans g v q.gstate st)
  let s3 := cacheVoc s2 e q.vset ((gramCd g q.gstate).map (·.1))
  let s4 := if gramCd g q.gstate = [] then s3 else cacheStack s3 e st.length
  if decodeLost s4 e then s4
  else bump (setSeq s4 e { q with
    mask := some (buildMask g v q.gstate st) }) Reg.GRAM_CNT_MASKS

/-- MASK_BUILD: of a READY entry under a grammar whose mask is not built, while the grammar unit runs. -/
def execMaskBuild (e : Nat) (s : State) : Out :=
  let q := seqOf s e
  if decide (q.mode = .ready) && q.grammar && q.mask.isNone && !q.maskLate && decide ((unitSt s 5 0).mode = .available) then done (maskBuild s e)
  else done s

/-- R250: the grammar unit is reset: a mask not yet built for the running step is late (R248). -/
def gramUnitReset (s : State) : State :=
  s.serve.ast.foldl (fun s p =>
    if p.2.mode = .ready ∧ p.2.grammar ∧ p.2.listed ∧ p.2.mask = none then setSeq s p.1 { p.2 with
      maskLate := true }
    else s) s

/-- R249: GRAM_STATE of an entry. -/
def gramStateWord (q : SeqEntry) : Nat :=
  q.gstate + 2 ^ 16 * q.gstack.length + 2 ^ 32 * (match q.gstack.getLast? with
    | some t => t
    | none => 0xFFFF)

/-- R242, R244: the grammar advances over a sampled token's bytes; a CONTROL token feeds none. -/
def gramAdvance (r v : Rd) (q : SeqEntry) (t : Nat) : SeqEntry :=
  match (gramFeed r (vocBytes v t) q.gstate q.gstack.reverse).1 with
  | some (g, st) => { q with
      gstate := g
      gstack := st.reverse }
  | none => q

/-! ## Detokenisation and stop strings (R237, R240, R241) -/

/-- What a token does to a sequence's text. -/
structure Detok where
  pending : List Byte
  held : List Byte
  released : List Byte
  /-- STOP_INDEX and CUT when a stop string was completed -/
  stop : Option (Nat × Nat)
  replaced : Nat
  deriving DecidableEq, Repr

/-- Whether `p` is a suffix of `x`. -/
def endsWith (x p : List Byte) : Bool := decide (p.length ≤ x.length) && decide (x.drop (x.length - p.length) = p)

/-- The lowest stop string that ends at the end of `x`. -/
def stopAt (stops : List (List Byte)) (x : List Byte) : Option (Nat × Nat) :=
  (List.range stops.length).findSome? fun i =>
    let p := stops.getD i []
    if p ≠ [] ∧ endsWith x p then some (i, p.length) else none

/-- R240: the earliest character of the token that completes an occurrence: STOP_INDEX, CUT and the occurrence's length. `x` is the
text before it, `n` the characters before it. -/
def findStop (stops : List (List Byte)) : List Byte → Nat → List Ch → Option (Nat × Nat × Nat)
  | _, _, [] => none
  | x, n, c :: cs =>
    match stopAt stops (x ++ c.bytes) with
    | some (i, len) => some (i, n + 1, len)
    | none => findStop stops (x ++ c.bytes) (n + 1) cs

/-- R241: the longest suffix, on a character boundary, that is a proper prefix of some stop string. -/
def heldSuffix (stops : List (List Byte)) : List Ch → List Byte
  | [] => []
  | c :: cs =>
    let x := (c :: cs).flatMap (·.bytes)
    if stops.any fun p => decide (x.length < p.length) && decide (p.take x.length = x) then x else heldSuffix stops cs

/-- R237: the characters that an earlier token completed: the pending bytes stood for an ill-formed subpart that ended with them. -/
def earlierChars (pending : List Byte) (cs : List Ch) : List Ch :=
  if pending = [] then [] else (cs.take 1).filter fun c => decide (c.src ≤ pending.length)

/-- R237, R240, R241: a token's bytes meet the pending bytes and the held characters. -/
def detok (stops : List (List Byte)) (incl : Bool) (pending held bytes : List Byte) : Detok :=
  let r := utf8Split (pending ++ bytes)
  let rep := (r.1.filter (·.bad)).length
  let early := earlierChars pending r.1
  let before := held ++ early.flatMap (·.bytes)
  match findStop stops before 0 (r.1.drop early.length) with
  | some (i, cut, len) =>
    let own := (r.1.take (early.length + cut)).flatMap (·.bytes)
    { pending := [], held := [], released := if incl then own else (held ++ own).take (held.length + own.length - len),
      stop := some (i, cut), replaced := rep }
  | none =>
    let own := r.1.flatMap (·.bytes)
    let h := heldSuffix stops (utf8All held ++ r.1)
    { pending := r.2, held := h, released := if incl then own else (held ++ own).take (held.length + own.length - h.length),
      stop := none, replaced := rep }

/-- R237, R241: what an end that keeps the tail releases: the held characters, then one U+FFFD for each maximal subpart pending; and the
replacements. -/
def detokEnd (incl : Bool) (pending held : List Byte) : List Byte × Nat :=
  let t := utf8All pending
  ((if incl then [] else held) ++ t.flatMap (·.bytes), t.length)

end Sys2Proof.Machine
end

