-- ==== Sys2Proof/Machine/Deliver.lean ====
section
/-!
DEFINITION. Machine/Deliver.lean: what reaches a requester: completion entries on its pair or messages to its peer (R329, R357, R391), token
records (R295, R332), result buffers (R331), and the encryption of protected payloads (R414).
-/
namespace Sys2Proof.Machine

/-- The key of a request within the pair: REQ_SEQ and role (R269). -/
def reqKey (seq : Nat) (role : Bool) : Nat := seq + (if role then 2 ^ 32 else 0)

/-- The key of a request. -/
def Req.key (r : Req) : Nat := reqKey r.seq r.role

/-- HSN of the submission, or MSG_ID of the REQUEST (Table 16.6, R350). -/
def Origin.hsn : Origin → Nat
  | .host _ _ h _ _ _ => h
  | .pod _ _ m _ => m

/-- HOST_TAG. -/
def Origin.tag : Origin → Nat
  | .host _ _ _ t _ _ => t
  | .pod _ _ _ t => t

/-! ## Protected payloads (R414) -/

/-- A job-key nonce (Table 19.6). -/
def jobNonce (a b kind flags : Nat) : List Byte := natLE 4 a ++ natLE 4 b ++ natLE 1 kind ++ natLE 1 flags ++ natLE 2 0

/-- Seal bytes under a request's job key; an unprotected request's bytes stay as they are. -/
def sealFor (r : Req) (nonce aad bs : List Byte) : List Byte :=
  match r.jobKey with
  | some k => gcmSeal k.2 nonce aad bs
  | none => bs

/-- ROLE as bit 0. -/
def roleBit (b : Bool) : Nat := if b then 1 else 0

/-! ## Completion entries -/

/-- R350: a completion entry as a COMPLETION message carries it. -/
def podEntry (kind reqSeq msg : Nat) (payload : List Byte) : List Byte :=
  natLE 4 0 ++ natLE 1 kind ++ natLE 3 0 ++ natLE 4 reqSeq ++ natLE 4 msg ++ payload

/-- A payload filled to 48 bytes. -/
def pad48 (bs : List Byte) : List Byte := bs ++ List.replicate (48 - bs.length) 0

/-- One completion entry to a requester. -/
def answer (s : State) (o : Origin) (kind reqSeq : Nat) (payload : List Byte) : State :=
  match o with
  | .host _ q h _ _ _ => post s q kind reqSeq h [payload]
  | .pod n i m _ => podSend s n i 0x08 (podEntry kind reqSeq m (pad48 payload)) false

/-- R391: whether the pair or peer of a taken-over request is enabled and bound as the request's account is. -/
def deliverable (s : State) (r : Req) : Bool :=
  match r.origin with
  | .host _ q _ _ _ _ => qEnabled s q && qBound s q && decide (qAccount s q = r.account)
  | .pod n i _ _ => (peerOf s n i).enabled && (peerOf s n i).client && decide ((peerOf s n i).account = r.account)

/-- Deliver to the requester of an accepted request: a shadow emits nothing; a taken-over request that has no requester here is
counted (R391). -/
def deliverTo (s : State) (r : Req) (f : State → State) : State :=
  if r.shadow then s else if r.adopted ∧ !deliverable s r then bump s Reg.TWIN_CNT_UNDELIVERED else f s

/-! ## The admission report (R309) -/

/-- Table 15.1. -/
def admitReport (outcome account wait planned decided : Nat) : List Byte :=
  natLE 1 outcome ++ natLE 1 account ++ natLE 2 0 ++ natLE 4 (min wait 0xFFFFFFFF) ++ natLE 8 planned ++ natLE 8 decided

/-- An ADMIT entry (Table 16.7). -/
def admitEntry (s : State) (o : Origin) (reqSeq : Nat) (role : Bool) (report : List Byte) : State :=
  answer s o 0x01 reqSeq (report ++ natLE 8 o.tag ++ natLE 1 (roleBit role))

/-- The ADMIT entry of an accepted request. -/
def admitted (s : State) (r : Req) : State :=
  deliverTo s r fun s' =>
    admitEntry s' r.origin r.seq r.role
      (admitReport (if r.deferred then 1 else 0) r.account ((r.accept - r.arrival) / 65536) r.instant r.accept)

/-! ## Token records (R295, R332) -/

/-- What a token record says. -/
structure TokRec where
  reqSeq : Nat
  role : Bool
  tsn : Nat
  token : Nat
  reason : Nat
  stopIndex : Nat
  cut : Nat
  gram : Nat
  inexact : Bool
  text : List Byte
  deriving DecidableEq, Repr

/-- Bytes filled with zeros to a multiple of 16. -/
def pad16 (bs : List Byte) : List Byte := bs ++ List.replicate ((16 - bs.length % 16) % 16) 0

/-- Table 14.5: the header, and the padded text. -/
def TokRec.toBytes (t : TokRec) : List Byte :=
  natLE 2 0x7E0C ++ natLE 2 t.text.length ++ natLE 4 t.reqSeq ++ natLE 4 t.tsn ++ natLE 4 t.token ++ natLE 1 t.reason
    ++ natLE 1 t.stopIndex ++ natLE 1 ((if t.reason = 0 then 0 else 1) + 2 * roleBit t.role + (if t.inexact then 4 else 0))
    ++ natLE 1 0 ++ natLE 2 t.cut ++ natLE 2 0 ++ natLE 8 t.gram ++ pad16 t.text

/-- R414: TIMED, a final record that depends on time or on one module's memory. -/
def timedReason (r : Nat) : Bool := decide (r = 0x08 ∨ r = 0x09 ∨ r = 0x0A)

/-- A token record as it leaves, protected where the request is. -/
def tokenBytes (s : State) (r : Req) (t : TokRec) : List Byte :=
  let b := t.toBytes
  let timed := timedReason t.reason
  let flags := roleBit t.role + (if timed then 4 + 2 * roleBit s.twin.role else 0)
  b.take 12 ++ sealFor r (jobNonce t.reqSeq t.tsn 0x03 flags) (b.take 12) (b.drop 12)

/-- Cut bytes into pieces of 48. -/
def pieces48 : Nat → List Byte → List (List Byte)
  | 0, _ => []
  | n + 1, bs => if bs.length ≤ 48 then [bs] else bs.take 48 :: pieces48 n (bs.drop 48)

/-- R332: send a token record. -/
def sendToken (s : State) (r : Req) (t : TokRec) : State :=
  deliverTo s r fun s' =>
    let b := tokenBytes s' r t
    match r.origin with
    | .host _ q h _ _ _ => post s' q 0x03 r.seq h (pieces48 (b.length / 48 + 1) b)
    | .pod n i m _ => podSend s' n i 0x08 (podEntry 0x03 r.seq m b) true

/-! ## Result buffers (R331) -/

/-- A 16-bit directory field; an offset or length that does not fit has no stated value. -/
def dirField (free x : Nat) : List Byte := natLE 2 (if x < 65536 then x else Config.free free)

/-- The directory: offset and length of each part, in order, from byte `o` of the buffer. -/
def dirFields (free : Nat) : Nat → List (List Byte) → List Byte
  | _, [] => []
  | o, p :: ps => dirField free (if p = [] then 0 else o) ++ dirField (free + 1) p.length ++ dirFields (free + 2) (o + (p.length + 15) / 16 * 16) ps

/-- The 32-byte directory over the four parts; tags count in its lengths (R414). -/
def bufferDir (free : Nat) (tagged : Bool) (parts : List (List Byte)) : List Byte :=
  let ps := parts.map fun p => if tagged ∧ p ≠ [] then p ++ List.replicate 16 0 else p
  let d := natLE 2 0x5E5A ++ natLE 2 0 ++ dirFields free 32 ps
  d ++ List.replicate (32 - d.length) 0

/-- The result buffer of a request from its parts: search record, re-rank record, provenance table, prompt; an absent part is
empty. -/
def resultBuffer (free : Nat) (r : Req) (parts : List (List Byte)) : List Byte :=
  let d := bufferDir free r.jobKey.isSome parts
  d ++ parts.zipIdx.flatMap fun p =>
    if p.1 = [] then [] else pad16 (sealFor r (jobNonce r.seq p.2 0x02 (roleBit r.role)) d p.1)

/-- FLAGS of a RESULT entry (Table 16.7). -/
def resultFlags (r : Req) : Nat :=
  (if r.inexact then 1 else 0) + (if r.textReplaced then 2 else 0) + (if r.textMalformed then 4 else 0)
    + (if r.textTooLong then 8 else 0) + (if r.textLate then 16 else 0)

/-- The RESULT of a request with its result buffer (R331, R357). -/
def sendResult (s : State) (r : Req) (parts : List (List Byte)) : State :=
  deliverTo s r fun s' =>
    let buf := resultBuffer s'.fresh r parts
    let s1 := { s' with fresh := s'.fresh + 8 }
    let payload := natLE 8 r.origin.tag ++ natLE 4 buf.length ++ natLE 2 (resultFlags r) ++ natLE 2 0 ++ natLE 4 r.malOffset
    match r.origin with
    | .host _ q h _ a _ => postResult s1 q r.seq h a payload buf
    | .pod n i m _ => podSend s1 n i 0x08 (podEntry 0x02 r.seq m (pad48 payload) ++ buf) false

/-! ## Hand-off frames (R266, R350) -/

/-- A hand-off frame's first 16 bytes: REQ_SEQ, ROLE, block number or flags, and eight more. -/
def handHead (r : Req) (hi : Nat) (tail : Nat) : List Byte :=
  natLE 4 r.seq ++ natLE 1 (roleBit r.role) ++ natLE 1 0 ++ natLE 2 hi ++ natLE 8 tail

/-- Send a hand-off frame to the pack block's PEER; it leaves no shadow. -/
def handSend (s : State) (r : Req) (type b : Nat) (head body : List Byte) : State :=
  match r.pack with
  | none => s
  | some p =>
    if r.shadow then s
    else
      podSend s (bits p.peer 9 8) (bits p.peer 7 0) type
        (head ++ (if r.jobKey.isSome then sealFor r (jobNonce r.seq b 0x04 (roleBit r.role)) head body else body)) false

/-- PROMPT (Table 17.3). -/
def sendPrompt (s : State) (r : Req) : State :=
  handSend s r 0x20 0xFFFFFFFF (handHead r 0 r.origin.tag) (r.prov ++ r.prompt.flatMap (natLE 4))

end Sys2Proof.Machine
end

