-- ==== Sys2Proof/Machine/Serve.lean ====
section
/-!
DEFINITION. Machine/Serve.lean: generation serving (spec/14_serving.md): version sets (R270), key/value blocks and the prefix tree (R274 to
R282), sequences (R272, R280, R294), sampling (R290 to R292), token records (R293), cancels (R296), pins (R281) and SERVE_WIN.
-/
namespace Sys2Proof.Machine

/-! ## Version sets (R270) -/

/-- The versions current at this edge, for every asset of the asset table. -/
def currentSet (s : State) : List (Nat × Nat) :=
  match s.bond.image with
  | some im => im.assets.map fun a => (a.id, currentVer s a.id)
  | none => []

/-- Version sets that a request record refers to. -/
def vsetsUsed (s : State) : List Nat := ((setsInFlight s).filter fun v => decide (v < 1024)).eraseDups

/-- A free set number: none in use, nor the newest. -/
def freeSet (s : State) : Option Nat := (List.range 1024).find? fun v => !(vsetsUsed s).contains v && decide (s.serve.newest ≠ some v)

/-- Write a version set. -/
def setVset (s : State) (v : Nat) (l : List (Nat × Nat)) : State := { s with
    serve := { s.serve with
      vsets := tset (fun _ => []) s.serve.vsets v l } }

/-- The set an acceptance takes: the newest, or a new one; and whether no request record referred to it before. -/
def acquireSet (s : State) : Option (State × Nat × Bool) :=
  match s.serve.newest with
  | some v => some (s, v, !(vsetsUsed s).contains v)
  | none =>
    match freeSet s with
    | none => none
    | some v =>
      let s1 := setVset s v (currentSet s)
      some ({ s1 with
        serve := { s1.serve with
          newest := some v } }, v, true)

/-- A set of given contents (R384): one in use, or a new one. -/
def setWith (s : State) (l : List (Nat × Nat)) : Option (State × Nat) :=
  match (vsetsUsed s).find? fun v => decide (tget (fun _ => []) s.serve.vsets v = l) with
  | some v => some (s, v)
  | none => (freeSet s).map fun v => (setVset s v l, v)

/-! ## Requests and their records (R269) -/

/-- Replace the list of pending cancels. -/
def setCancels (s : State) (l : List PendCancel) : State := { s with
    serve := { s.serve with
      cancels := l } }

/-- The request of a sequence table entry. -/
def seqReq (s : State) (q : SeqEntry) : Option Req := reqOf s (reqKey q.reqSeq q.role)

/-- Whether an entry of a request waits in its pair's window, unwritten. -/
def recordHeld (s : State) (r : Req) : Bool :=
  match r.origin with
  | .host _ q _ _ _ _ => (pairOf s q).window.any fun c => !c.written && decide (le c.bytes 8 4 = r.seq)
  | .pod _ _ _ _ => false

/-- R255: space of replaced token store blocks is free once every request accepted before the replacement has completed. -/
def releaseOld (s : State) : State := { s with
    assets := { s.assets with
      tsOld := s.assets.tsOld.filter fun o => s.front.reqs.any fun p =>
        match p.2 with
        | some r => decide (r.accept < o.2.2)
        | none => false } }

/-- A request record ends: its sequence table entry is FREE, and what only it pinned is freed (R58, R269, R272). -/
def dropReq (s : State) (k : Nat) (r : Req) : State :=
  let s1 := setReq s k none
  let s2 := match r.ast with
    | some e => setSeq s1 e SeqEntry.reset
    | none => s1
  releaseOld (reapAll s2)

/-- Requests whose final records have been written end (R269). -/
def freeEnded (s : State) : State :=
  s.front.reqs.foldl (fun s' p =>
    match p.2 with
    | some r => if r.ended && !recordHeld s' r then dropReq s' p.1 r else s'
    | none => s') s

/-- A request's last record is posted. -/
def endReq (s : State) (k : Nat) : State :=
  match reqOf s k with
  | none => s
  | some r => freeEnded (setReq s k (some { r with
      ended := true }))

/-- The outcome of a command that may let held entries be written. -/
def doneHost (s : State) : Out := done (freeEnded s)

/-! ## Key/value blocks (R274, R275) -/

/-- The smallest number at or above `n` that an ascending list does not hold. -/
def firstGap : Nat → List Nat → Nat
  | n, [] => n
  | n, x :: xs => if x < n then firstGap n xs else if x = n then firstGap (n + 1) xs else n

/-- Blocks reserved and not yet used. -/
def reservedBlocks (s : State) : Nat := (s.serve.ast.map fun p => p.2.resBlocks).foldl (· + ·) 0

/-- Free blocks. -/
def freeBlocks (s : State) : Nat := (kvOf s).nblk - s.serve.blocks.length - reservedBlocks s

/-- Replace the list of blocks in use. -/
def setBlocks (s : State) (l : List Nat) : State := { s with
    serve := { s.serve with
      blocks := l } }

/-- Replace node `n`. -/
def setNode (s : State) (n : Nat) (x : Option Node) : State := { s with
    serve := { s.serve with
      nodes := tset (fun _ => none) s.serve.nodes n x } }

/-- The nodes of the tree with their indices. -/
def nodeList (s : State) : List (Nat × Node) := s.serve.nodes.filterMap fun p => p.2.map fun x => (p.1, x)

/-- A node and its ancestors, at most `n` of them. -/
def ancestry (s : State) : Nat → Nat → List Nat
  | 0, _ => []
  | n + 1, i =>
    match nodeOf s i with
    | none => []
    | some x =>
      match x.parent with
      | some p => i :: ancestry s n p
      | none => [i]

/-- Nodes that eviction can free in the end: no sequence holds them and no pin keeps them, nor any of their descendants (R280). -/
def evictable (s : State) : Nat :=
  let kept := ((nodeList s).filter fun p => decide (p.2.refs ≠ 0) || decide (p.2.pins ≠ 0)).flatMap fun p => ancestry s 768 p.1
  ((nodeList s).filter fun p => !kept.contains p.1).length

/-- R280: whether a node may be evicted now. -/
def evictNow (x : Node) : Bool := decide (x.firstChild = none ∧ x.refs = 0 ∧ x.pins = 0)

/-- Bucket of a key (R277). -/
def bucketOf (s : State) (key : Nat) : Nat := key / 2 ^ (64 - (kvOf s).hbits)

/-- The first node of a bucket's chain. -/
def bucketHead (s : State) (b : Nat) : Option Nat := tget (fun _ => none) s.serve.buckets b

/-- Write the first node of a bucket's chain. -/
def setBucket (s : State) (b : Nat) (l : Option Nat) : State := { s with
    serve := { s.serve with
      buckets := tset (fun _ => none) s.serve.buckets b l } }

/-- The nodes of a hash chain from a link, at most so many (R277). -/
def hashChain (s : State) : Nat → Option Nat → List (Nat × Node)
  | 0, _ => []
  | _, none => []
  | k + 1, some n =>
    match nodeOf s n with
    | some x => (n, x) :: hashChain s k x.hashNext
    | none => []

/-- The chain that a key's search walks. -/
def keyChain (s : State) (key : Nat) : List (Nat × Node) := hashChain s (nodeList s).length (bucketHead s (bucketOf s key))

/-- A node enters the tree: first in its bucket's chain, and first child of its parent. -/
def linkNode (s : State) (n : Nat) (x : Node) : State :=
  let up := x.parent.bind (nodeOf s)
  let s1 := setNode s n (some { x with
    hashNext := bucketHead s (bucketOf s x.key)
    nextSibling := up.bind (·.firstChild) })
  let s2 := match x.parent, up with
    | some p, some y => setNode s1 p (some { y with
        firstChild := some n })
    | _, _ => s1
  setBucket s2 (bucketOf s x.key) (some n)

/-- A link past a node that leaves. -/
def relink (n : Nat) (next l : Option Nat) : Option Nat := if l = some n then next else l

/-- A node leaves the tree: the links to it pass to the node after it. -/
def unlinkNode (s : State) (n : Nat) (x : Node) : State :=
  let s1 := { s with
    serve := { s.serve with
      nodes := s.serve.nodes.map fun p => (p.1, p.2.map fun (y : Node) => { y with
        firstChild := relink n x.nextSibling y.firstChild
        nextSibling := relink n x.nextSibling y.nextSibling
        hashNext := relink n x.hashNext y.hashNext }) } }
  let b := bucketOf s x.key
  setNode (setBucket s1 b (relink n x.hashNext (bucketHead s b))) n none

/-- R280: the node to evict: the least LAST_USE, then the lowest index. -/
def victim (s : State) : Option (Nat × Node) :=
  ((nodeList s).filter fun p => evictNow p.2).foldl (fun acc p =>
    match acc with
    | none => some p
    | some a => if p.2.lastUse < a.2.lastUse ∨ (p.2.lastUse = a.2.lastUse ∧ p.1 < a.1) then some p else acc) none

/-- R280: evict until `need` blocks are free, or nothing more can go. -/
def evictFor (s : State) (need : Nat) : Nat → State
  | 0 => s
  | n + 1 =>
    if need ≤ freeBlocks s then s
    else
      match victim s with
      | none => s
      | some v => evictFor (bump (setBlocks (unlinkNode s v.1 v.2) (s.serve.blocks.filter fun b => decide (b ≠ v.2.block))) Reg.PT_CNT_EVICT) need n

/-- R275: whether `n` blocks can be reserved. -/
def canReserve (s : State) (n : Nat) : Bool := decide (n ≤ freeBlocks s + evictable s)

/-- An entry takes a block of its reservation for its next positions. -/
def takeBlock (s : State) (e : Nat) : State :=
  let q := seqOf s e
  let b := firstGap 0 s.serve.blocks
  setSeq (setBlocks s (insertAsc b s.serve.blocks)) e { q with
    blocks := q.blocks ++ [b]
    resBlocks := q.resBlocks - 1 }

/-- The entry holds blocks for `n` positions. -/
def growBlocks (s : State) (e n : Nat) : Nat → State
  | 0 => s
  | k + 1 => if 32 * (seqOf s e).blocks.length < n then growBlocks (takeBlock s e) e n k else s

/-! ## The prefix block tree (R276 to R281) -/

/-- K_root of a version set (R276). -/
def rootKey (s : State) (v : Nat) : Nat :=
  let g := (boundAsset s 8 2).getD 0xFFFF
  leNat (shake256 (digestOf s g (versionIn s v g) ++ (assetsOfKind s 6).flatMap fun a => digestOf s a (versionIn s v a)) 8)

/-- K_i from K_(i-1) and the block's tokens. -/
def nextKey (k : Nat) (ts : List Nat) : Nat := leNat (shake256 (natLE 8 k ++ ts.flatMap (natLE 4)) 8)

/-- Key of block `i` of a token list under a root key. -/
def blockKey (root : Nat) (ts : List Nat) (i : Nat) : Nat :=
  (List.range (i + 1)).foldl (fun k j => nextKey k ((ts.drop (32 * j)).take 32)) root

/-- The search of the chain for a block (R278): the matching node, and the nodes of an equal key that were refused before it. -/
def findNode (key : Nat) (parent : Option Nat) (ts : List Nat) : List (Nat × Node) → Option (Nat × Node) × Nat
  | [] => (none, 0)
  | p :: ps =>
    if !p.2.valid ∨ p.2.key ≠ key then findNode key parent ts ps
    else if p.2.parent = parent ∧ p.2.tokens = ts then (some p, 0)
    else let r := findNode key parent ts ps; (r.1, r.2 + 1)

/-- Count refused nodes (R278). -/
def collisions (s : State) (n : Nat) : State :=
  if n = 0 then s else setBits (bumpBy s Reg.PT_CNT_COLLISION n) Reg.SERVE_INT_STATUS 4

/-- R278: the walk over a prompt's blocks from `i`, of which `n` are left: each hit takes a reference and its block. -/
def walkTree (s : State) (e key : Nat) (ts : List Nat) : Nat → Nat → State
  | _, 0 => s
  | i, n + 1 =>
    let b := (ts.drop (32 * i)).take 32
    let k := nextKey key b
    let q := seqOf s e
    match findNode k q.tailNode b (keyChain s k) with
    | (some p, c) =>
      let s1 := collisions (setNode s p.1 (some { p.2 with
        refs := p.2.refs + 1
        lastUse := now s })) c
      let s2 := setSeq s1 e { q with
        nodes := q.nodes ++ [p.1]
        tailNode := some p.1
        blocks := q.blocks ++ [p.2.block]
        shared := q.shared + 1
        resBlocks := q.resBlocks - 1 }
      walkTree (bump s2 Reg.PT_CNT_HIT) e k ts (i + 1) n
    | (none, c) => bump (collisions s c) Reg.PT_CNT_MISS

/-- TREE_INSERT (R279): block `i` of entry `e`, full and written, enters the tree or resolves to a node there. -/
def insertBlock (s : State) (e i : Nat) : State :=
  let q := seqOf s e
  let b := (q.tokens.drop (32 * i)).take 32
  let k := blockKey (rootKey s q.vset) q.tokens i
  let own := q.blocks.getD i 0
  match findNode k q.tailNode b (keyChain s k) with
  | (some p, c) =>
    let s1 := collisions (setNode s p.1 (some { p.2 with
      refs := p.2.refs + 1
      lastUse := now s })) c
    let s2 := setBlocks s1 (s1.serve.blocks.filter fun x => decide (x ≠ own))
    bump (setSeq s2 e { q with
      nodes := q.nodes ++ [p.1]
      tailNode := some p.1
      blocks := q.blocks.set i p.2.block
      shared := q.shared + 1 }) Reg.PT_CNT_DUP_INSERT
  | (none, c) =>
    let n := firstGap 0 ((nodeList s).map (·.1))
    let nd : Node := { key := k, parent := q.tailNode, firstChild := none, nextSibling := none, hashNext := none, block := own, refs := 1, lastUse := now s, pins := 0, depth := i, tokens := b, valid := true }
    let s1 := collisions (linkNode s n nd) c
    setSeq s1 e { q with
      nodes := q.nodes ++ [n]
      tailNode := some n
      shared := q.shared + 1 }

/-- Every full written private block of an entry enters the tree, in order. -/
def insertFull (s : State) (e : Nat) : Nat → State
  | 0 => s
  | n + 1 =>
    let q := seqOf s e
    if 32 * (q.nodes.length + 1) ≤ q.ctxLen then insertFull (insertBlock s e q.nodes.length) e n else s

/-- Add to PINS of the nodes of a path. -/
def pinPath (s : State) (up : Bool) (l : List Nat) : State :=
  l.foldl (fun s' i =>
    match nodeOf s' i with
    | some x => setNode s' i (some { x with
        pins := if up then x.pins + 1 else x.pins - 1 })
    | none => s') s

/-- Nodes with PINS above 0. -/
def pinnedNodes (s : State) : Nat := ((nodeList s).filter fun p => decide (0 < p.2.pins)).length

/-- R281: pin a node and its ancestors; false when PT_PIN_MAX forbids it. -/
def pinNode (s : State) (n : Nat) : State × Bool :=
  let l := ancestry s 768 n
  let new := (l.filter fun i =>
    match nodeOf s i with
    | some x => decide (x.pins = 0)
    | none => false).length
  if reg s Reg.PT_PIN_MAX < pinnedNodes s + new then (setBits s Reg.SERVE_INT_STATUS 8, false) else (pinPath s true l, true)

/-- The node of a key: the lowest index. -/
def nodeByKey (s : State) (k : Nat) : Option (Nat × Node) := (nodeList s).find? fun p => p.2.valid && decide (p.2.key = k)

/-- PT_PIN_RESULT. -/
def pinResult (s : State) (c : Nat) : State := setReg s Reg.PT_PIN_RESULT c

/-- PT_PIN (R281). -/
def ptPin (s : State) : State :=
  match nodeByKey s (reg64 s Reg.PT_PIN_KEY) with
  | none => pinResult s 2
  | some p => let r := pinNode s p.1; pinResult r.1 (if r.2 then 0 else 3)

/-- PT_UNPIN (R281). -/
def ptUnpin (s : State) : State :=
  match nodeByKey s (reg64 s Reg.PT_PIN_KEY) with
  | none => pinResult s 2
  | some p => if p.2.pins = 0 then pinResult s 4 else pinResult (pinPath s false (ancestry s 768 p.1)) 0

/-- PT_PIN. -/
def execPtPin (s : State) : Out := host s Reg.PT_PIN_CMD ptPin
/-- PT_UNPIN. -/
def execPtUnpin (s : State) : Out := host s Reg.PT_PIN_CMD ptUnpin

/-! ## The end of a sequence (R272, R280) -/

/-- R280: every node loses a reference, private blocks and the reservation are freed. -/
def releaseSeq (s : State) (e : Nat) : State :=
  let q := seqOf s e
  let s1 := q.nodes.foldl (fun s' n =>
    match nodeOf s' n with
    | some x => setNode s' n (some { x with
        refs := x.refs - 1
        lastUse := now s' })
    | none => s') s
  let own := q.blocks.drop q.nodes.length
  setSeq (setBlocks s1 (s1.serve.blocks.filter fun b => !own.contains b)) e { q with
    mode := .ended
    nodes := []
    blocks := []
    tailNode := none
    shared := 0
    resBlocks := 0 }

/-- What an end reason counts (Tables 12.7, 14.6). -/
def countReason (s : State) (reason : Nat) : State :=
  match reason with
  | 0x01 => bump s Reg.STOP_CNT_TOKEN
  | 0x02 => bump s Reg.STOP_CNT_TOKEN
  | 0x03 => bump s Reg.STOP_CNT_STRING
  | 0x04 => setBits (bump s Reg.GRAM_CNT_DEAD) Reg.TEXT_INT_STATUS 4
  | 0x07 => setBits (bump s Reg.SERVE_CNT_NAN) Reg.SERVE_INT_STATUS 2
  | 0x08 => setBits (bump s Reg.SERVE_CNT_DEADLINE) Reg.SERVE_INT_STATUS 1
  | 0x09 => bump s Reg.SERVE_CNT_CANCEL
  | _ => s

/-- The tokens that an entry has sampled since its last TOKENS entry: the first TSN and the tokens. -/
def SeqEntry.sampled (q : SeqEntry) : Nat × List Nat := (q.genCount - q.journalled, q.tokens.drop (q.tokens.length - q.journalled))

/-- A sequence that ends with a token it samples keeps it for the TOKENS entry of the step's end (Table 18.4). -/
def keepSampled (s : State) (q : SeqEntry) : State :=
  if q.journalled = 0 then s
  else { s with
    serve := { s.serve with
      sampled := s.serve.sampled ++ [(q.role, q.reqSeq, q.sampled.1, q.sampled.2)] } }

/-- SEQUENCE_END: the entry's final record is posted (END entry, Table 18.4) and the entry is ENDED; FREE once it is written. -/
def endSeq (s : State) (e tsn reason : Nat) : State :=
  let q := seqOf s e
  let s0 := keepSampled (countReason s reason) q
  let s1 := (journalFor s0 q.role 0x09 q.reqSeq (natLE 4 tsn ++ natLE 1 reason ++ natLE 3 0)).1
  endReq (releaseSeq s1 e) (reqKey q.reqSeq q.role)

/-- The record of an entry (R293): the next TSN. -/
def recordOf (q : SeqEntry) (token reason stopIndex cut gram : Nat) (text : List Byte) : TokRec :=
  { reqSeq := q.reqSeq, role := q.role, tsn := q.nextTsn, token := token, reason := reason, stopIndex := stopIndex, cut := cut,
    gram := gram, inexact := q.inexact, text := text }

/-- Send a record of an entry. -/
def sendRecord (s : State) (q : SeqEntry) (t : TokRec) : State :=
  match seqReq s q with
  | some r => sendToken s r t
  | none => s

/-- Whether an end that releases no token comes from a step of its own, whose bit its record carries: GRAMMAR_DEAD and NAN_LOGITS
(Table 14.5). -/
def endsInStep (reason : Nat) : Bool := decide (reason = 0x04) || decide (reason = 0x07)

/-- A final record without a token (R241, R293, R294). -/
def endNoToken (s : State) (e reason gram : Nat) : State :=
  let q := seqOf s e
  let d := detokEnd (gtInclude q.genText) q.pendingBytes q.heldChars
  let s1 := bumpBy s Reg.DETOK_CNT_REPLACED d.2
  let s2 := sendRecord s1 q (recordOf { q with
    inexact := q.inexact && endsInStep reason } 0xFFFFFFFF reason 0 0 gram d.1)
  endSeq (setSeq s2 e { q with
    nextTsn := (q.nextTsn + 1) % 2 ^ 32 }) e q.nextTsn reason

/-! ## Sampling (R290 to R292) -/

/-- The allowed tokens of a logit row with their logits: all, or those of the mask. -/
def allowedLogits (mask : Option (List Nat)) (logits : List Nat) : List (Nat × Nat) :=
  match mask with
  | none => logits.zipIdx.map fun p => (p.2, p.1)
  | some m => m.filterMap fun t => logits[t]?.map fun c => (t, c)

/-- z of R290: a logit over the temperature, rounded once to FP32. -/
def zCode (temp c : Nat) : Nat := (Fmt.fp32.encode false .nearest ((f32 c).mul (f32 temp).recip)).1

/-- The largest z: none when there is none. -/
def zMax (zs : List (Nat × Nat)) : Option Nat :=
  zs.foldl (fun acc p =>
    match acc with
    | none => some p.2
    | some m => if valueKey m < valueKey p.2 then some p.2 else acc) none

/-- The weights' reference of R291: whether some z is plus infinity, and k. -/
def weightRef (zs : List (Nat × Nat)) : Bool × Int :=
  match zMax zs with
  | none => (false, 0)
  | some m =>
    match f32 m with
    | .inf false => (true, 0)
    | .fin neg n d => let a := smxArg neg n d; (false, ceilQ a.1 a.2.1)
    | _ => (false, 0)

/-- The weight of a candidate (R291). -/
def weightOf (ref : Bool × Int) (z : Nat) : Nat :=
  match f32 z with
  | .inf false => 1
  | .fin neg n d => if ref.1 then 0 else let a := smxArg neg n d; fix107 (expHw false a.1 a.2.1 ref.2)
  | _ => 0

/-- Sum of a list. -/
def sumNat (l : List Nat) : Nat := l.foldl (· + ·) 0

/-- TOP_P: the least prefix whose weights reach num / den of `all`; the whole list where none does. -/
def cutTopP (num den all : Nat) : Nat → List (Nat × Nat) → List (Nat × Nat)
  | _, [] => []
  | acc, p :: ps => if num * all ≤ (acc + p.2) * den then [p] else p :: cutTopP num den all (acc + p.2) ps

/-- The first candidate whose running sum exceeds `r` (R292). -/
def pickAt (r : Nat) : Nat → List (Nat × Nat) → Option Nat
  | _, [] => none
  | acc, p :: ps => if r < acc + p.2 then some p.1 else pickAt r (acc + p.2) ps

/-- R292: u of token index g. -/
def drawOf (seed g : Nat) : Nat :=
  let w := philox g 0 0 1 (seed % 2 ^ 32) (seed / 2 ^ 32 % 2 ^ 32)
  w.2.1 * 2 ^ 32 + w.1

/-- R291: the candidates of an entry with their weights, in order. -/
def candidates (q : SeqEntry) (zs : List (Nat × Nat)) : List (Nat × Nat) :=
  let ref := weightRef zs
  let top := ((topk true 64 (zs.map fun p => valueEntry p.1 p.2) 0).1.entries.take q.topK).map (·.id)
  let tops := top.filterMap fun t => (zs.find? fun p => p.1 = t).map fun p => (t, weightOf ref p.2)
  match q.sampleMode with
  | 1 => zs.map fun p => (p.1, weightOf ref p.2)
  | 2 => tops
  | _ =>
    match f32 q.topP with
    | .fin _ n d => cutTopP n d (sumNat (zs.map fun p => weightOf ref p.2)) 0 tops
    | _ => tops

/-- The token of a row (R290 to R292): the greedy token, or the draw; `free` decides where every weight is 0, which the spec says
does not happen. -/
def sampleRow (q : SeqEntry) (free : Nat) (al : List (Nat × Nat)) : Option Nat :=
  if q.sampleMode = 0 then ((topk true 1 (al.map fun p => valueEntry p.1 p.2) 0).1.entries.head?).map (·.id)
  else
    let cs := candidates q (al.map fun p => (p.1, zCode q.temperature p.2))
    let w := sumNat (cs.map (·.2))
    match pickAt (drawOf q.seed q.genCount * w / 2 ^ 64) 0 cs with
    | some t => some t
    | none => (cs[Config.free free % max cs.length 1]?).map (·.1)

/-- R135: the arguments of a row that were clamped. -/
def clampedArgs (q : SeqEntry) (al : List (Nat × Nat)) : Nat :=
  if q.sampleMode = 0 then 0
  else (al.filter fun p =>
    match f32 (zCode q.temperature p.2) with
    | .fin neg n d => (smxArg neg n d).2.2
    | _ => false).length

/-- Table 12.4 and the last reasons of Table 14.4: REASON and STOP_INDEX of a token; 0 when the sequence goes on. -/
def endReason (q : SeqEntry) (eos ctxMax t : Nat) (stop : Option (Nat × Nat)) : Nat × Nat :=
  if t = eos then (0x01, 0)
  else
    match (gtStopToks q.genText).findIdx? (fun x => x = t), stop with
    | some i, _ => (0x02, i)
    | none, some p => (0x03, p.1)
    | none, none => if q.maxNew ≤ q.genCount then (0x05, 0) else if ctxMax ≤ q.ctxLen + 1 then (0x06, 0) else (0, 0)

/-- The token is taken: counts, the key/value position of the step's input, and the tree (R242, R272, R279). -/
def takeToken (s : State) (e t : Nat) : State :=
  let q := seqOf s e
  let s1 := setSeq s e { q with
    ctxLen := q.ctxLen + 1
    genCount := q.genCount + 1
    lastToken := t
    tokens := q.tokens ++ [t]
    journalled := q.journalled + 1
    mask := none
    listed := false }
  bump (insertFull s1 e 1) Reg.SERVE_CNT_TOKENS

/-- The text of a token (R237 to R241): its record, and whether it is the last; the key/value entry of a token that completes a stop string is
written (R242). -/
def tokenText (s : State) (e t : Nat) : State :=
  let q := seqOf s e
  let v := vocRd s q.vset
  let g := gtStops q.genText
  let incl := gtInclude q.genText
  let plain := decide (t = vocEos v) || (gtStopToks q.genText).contains t
  let d := detok (if plain then [] else g) incl q.pendingBytes q.heldChars (vocBytes v t)
  let er := endReason q (vocEos v) (kvOf s).ctxMax t d.stop
  let tail := if er.1 = 0 ∨ er.1 = 0x03 then ([], 0) else detokEnd incl d.pending d.held
  let cut := match er.1, d.stop with
    | 0x03, some p => p.2
    | _, _ => 0
  let q1 := if q.grammar then gramAdvance (gramRd s q) v q t else q
  let q2 := { q1 with
    pendingBytes := d.pending
    heldChars := d.held
    nextTsn := (q.nextTsn + 1) % 2 ^ 32 }
  let s1 := setSeq (bumpBy s Reg.DETOK_CNT_REPLACED (d.replaced + tail.2)) e q2
  let s2 := sendRecord s1 q (recordOf q t er.1 er.2 cut 0 (d.released ++ tail.1))
  let s3 := setSeq s2 e { q2 with
    inexact := false }
  if er.1 = 0 then s3
  else endSeq (if er.1 = 0x03 then insertFull (setSeq s3 e { q2 with
    inexact := false
    ctxLen := q.ctxLen + 1 }) e 1 else s3) e q.nextTsn er.1

/-- The lines the text and grammar units reach for a sampled token (R236): of the stack those of every entry that a byte pushes or pops. -/
def tokenLines (s : State) (e t : Nat) : State :=
  let q := seqOf s e
  let s1 := cacheVoc s e q.vset [t]
  if q.grammar then
    let g := gramRd s q
    let f := gramFeed g (vocBytes (vocRd s q.vset) t) q.gstate q.gstack.reverse
    cacheStack (cacheSpans s1 e (gtGrammar q.genText) (versionIn s q.vset (gtGrammar q.genText)) (f.2.map fun o => (o, 8))) e
      (gramPeak g (vocBytes (vocRd s q.vset) t) q.gstate q.gstack.reverse)
  else s1

/-- R248: the sequence sits out the step. -/
def sitOut (s : State) (e : Nat) : State :=
  let q := seqOf s e
  setBits (bump (setSeq s e { q with
    skips := min (q.skips + 1) 0xFFFF
    listed := false
    maskLate := false }) Reg.GRAM_CNT_MASK_LATE) Reg.TEXT_INT_STATUS 8

/-- SAMPLE_TOKEN (R290): entry `e` at its sampling slot with its logit row. An item that reads a poisoned line for its token samples nothing in this
step (R289, R455). -/
def sampleToken (s : State) (e : Nat) (logits : List Nat) : State :=
  let q := seqOf s e
  if q.grammar ∧ (q.mask = none ∨ q.maskLate) then sitOut s e
  else if q.grammar ∧ q.mask = some [] then endNoToken s e 0x04 (gramStateWord q)
  else
    let al := allowedLogits (if q.grammar then q.mask else none) logits
    if al.any fun p => isNan32 p.2 then endNoToken s e 0x07 0
    else
      match sampleRow q s.fresh al with
      | none => s
      | some t =>
        let cl := clampedArgs q al
        let s0 := tokenLines s e t
        if decodeLost s0 e then s0
        else
          let s1 := match decodeOf s0 e with
            | some i => if cl = 0 then tick s0 else markItem (arith (tick s0) i 0 { sat := cl }) 8 e
            | none => tick s0
          tokenText (takeToken s1 e t) e t

/-- R296: an entry whose end a boundary settled while a step ran it ends after that step's token. -/
def endPending (s : State) (e : Nat) : State :=
  match (seqOf s e).ending with
  | some c => if (seqOf s e).mode = .ready then endNoToken s e c 0 else s
  | none => s

/-- SAMPLE_TOKEN: of a READY entry that the running DECODE step lists. -/
def execSampleToken (e : Nat) (logits : List Nat) (s : State) : Out :=
  let q := seqOf s e
  if decide (q.mode = .ready) && q.listed && !decodeLost s e && !s.twin.genStop then done (endPending (sampleToken s e logits) e) else done s

/-! ## Hand-off to PREFILL (R272, R278) -/

/-- R266: the key/value blocks of a POD_KV prompt, in block order, and the completion frame. A block that the prompt does not fill
has no stated key. -/
def sendBlocks (s : State) (r : Req) (q : SeqEntry) : State :=
  let p := kvOf s
  let n := (q.ctxLen + 31) / 32
  let root := rootKey s q.vset
  let s1 := (List.range n).foldl (fun s' i =>
    let full := decide (32 * (i + 1) ≤ q.tokens.length)
    let k := if full then blockKey root q.tokens i else Config.free s'.fresh % 2 ^ 64
    let b := q.blocks.getD i 0
    let head := handHead r i k
    handSend (tick s') r 0x21 i head (ldRead s' p.region (blockOff p b) p.blockBytes)) s
  handSend s1 r 0x22 0xFFFFFFFE (handHead r n (le r.prov 6 2)) []

/-- Whether a request's prompt and blocks go to a PEER (Table 13.5). -/
def Req.podKv (r : Req) : Bool :=
  match r.pack with
  | some p => decide (p.dest = 3)
  | none => false

/-- PREFILL has written the prompt: the sequence is READY, its prefix pinned (R281); a POD_KV request sends its blocks and ends. -/
def prefillDone (s : State) (e : Nat) : State :=
  let q := seqOf s e
  match seqReq s q with
  | none => s
  | some r =>
    if r.podKv then
      let s1 := sendBlocks s r q
      endSeq (tick s1) e (Config.free s1.fresh % 2 ^ 32) 0
    else
      let s1 := setSeq s e { q with
        mode := .ready
        ctxLen := q.promptLen - 1
        replay := false }
      match q.pinDepth with
      | 0 => s1
      | d + 1 =>
        match q.nodes[d]? with
        | some n => (pinNode s1 n).1
        | none => s1

/-- A sequence whose prompt holds no token ends, REASON being free; of a POD_KV request the completion frame of no blocks leaves (R266). No record
leaves where the sequences have stopped (R387, R480). -/
def endEmpty (s : State) (e : Nat) : State :=
  if ((seqReq s (seqOf s e)).map Req.podKv).getD false then prefillDone s e
  else if s.twin.genStop then s
  else endNoToken (tick s) e (Config.free s.fresh % 256) 0

/-- LOOKUP (R278): the walk of the tree over an entry's prompt. -/
def lookupEntry (s : State) (e : Nat) : State :=
  let q := seqOf s e
  let s1 := walkTree (setSeq s e { q with
    lookup := false }) e (rootKey s q.vset) q.tokens 0 ((q.promptLen - 1) / 32)
  setSeq s1 e { seqOf s1 e with
    ctxLen := 32 * (seqOf s1 e).nodes.length }

/-- The entries of the table that satisfy `p`. -/
def entriesWhere (s : State) (p : SeqEntry → Bool) : List Nat := (s.serve.ast.filter fun x => p x.2).map (·.1)

/-- Entries in PREFILL with nothing left to compute (R272). -/
def prefilled (s : State) : List Nat :=
  entriesWhere s fun q => decide (q.mode = .prefill) && !q.lookup && decide (q.promptLen ≤ q.ctxLen + 1)

/-- R282: after the releases and inserts of an edge, its lookups, and then the pins of the prompts that are complete. -/
def settleTree (s : State) : State :=
  let s1 := (entriesWhere s fun q => q.lookup && decide (q.mode = .prefill)).foldl lookupEntry s
  (prefilled s1).foldl prefillDone s1

/-- R272: a packed prompt enters PREFILL; its lookup runs after the inserts of this edge (R282). A prompt of no token has no input for DECODE:
the spec names no reason for its end, so REASON is free. -/
def enterPrefill (s : State) (e : Nat) (prompt : List Nat) : State :=
  let q := seqOf s e
  let g := gramRd s q
  let q1 := { q with
    mode := .prefill
    promptLen := prompt.length
    tokens := prompt
    lastToken := prompt.getLast?.getD 0
    gstate := if q.grammar then rdN g (20 + 2 * gtEntry q.genText) 2 else 0
    gstack := []
    ctxLen := 0
    lookup := true }
  let s1 := setSeq s e q1
  if prompt = [] then endEmpty s1 e else s1

/-! ## Replay (R390) -/

/-- A journalled token goes through the text unit and the grammar unit: the state they leave, and the replaced characters; nothing is
released (R390). -/
def replayToken (s : State) (q : SeqEntry) (t : Nat) : SeqEntry × Nat :=
  let v := vocRd s q.vset
  let plain := decide (t = vocEos v) || (gtStopToks q.genText).contains t
  let d := detok (if plain then [] else gtStops q.genText) (gtInclude q.genText) q.pendingBytes q.heldChars (vocBytes v t)
  let q1 := if q.grammar then gramAdvance (gramRd s q) v q t else q
  ({ q1 with
    pendingBytes := d.pending
    heldChars := d.held }, d.replaced)

/-- The text and grammar state of an entry after its journalled tokens. -/
def replayText (s : State) (e : Nat) (ts : List Nat) : State :=
  ts.foldl (fun s' t =>
    let r := replayToken s' (seqOf s' e) t
    setSeq (bumpBy s' Reg.DETOK_CNT_REPLACED r.2) e r.1) s

/-- R390: the sequence of a taken-over request is replayed: its packed prompt and its journalled tokens. -/
def replaySeq (s : State) (e : Nat) (prompt : List Nat) : State :=
  let ts := (seqOf s e).tokens
  let s1 := enterPrefill s e (prompt ++ ts)
  if prompt ++ ts = [] then s1
  else
    let s2 := replayText s1 e ts
    let q := seqOf s2 e
    setSeq s2 e { q with
      genCount := ts.length
      nextTsn := ts.length % 2 ^ 32
      replay := true }

/-! ## Cancels (R296, R338) -/

/-- SERVE_CANCEL_RESULT codes of a target: of the functions' or peers' own requests only, where `own` says so. -/
def cancelCheck' (s : State) (k : Nat) (own : Req → Bool) : Nat :=
  match reqOf s k with
  | none => 2
  | some r => if !own r ∨ r.shadow then 2 else if r.ended then 3 else 0

/-- An accepted cancel is stamped, and journalled (Table 18.4). -/
def cancelRun (s : State) (seq : Nat) (role : Bool) : State × Option Nat :=
  let k := reqKey seq role
  let s1 := match reqOf s k with
    | some r => setReq s k (some { r with
        cancelled := match r.cancelled with
          | some t => some t
          | none => some (now s) })
    | none => s
  journalFor s1 role 0x06 seq (natLE 4 seq ++ natLE 1 (roleBit role) ++ natLE 3 0 ++ natLE 8 (now s))

/-- SERVE_CANCEL (R296): SERVE_CANCEL_CMD GO for SERVE_CANCEL_SEQ. -/
def serveCancel (s : State) (role : Bool) : State :=
  if s.serve.cancels.any fun c => c.origin.isNone then protocol s 0x0005 Reg.SERVE_CANCEL_CMD 1
  else
    let seq := reg s Reg.SERVE_CANCEL_SEQ
    let c := cancelCheck' s (reqKey seq role) fun _ => true
    if c ≠ 0 then setReg s Reg.SERVE_CANCEL_RESULT c
    else
      let r := cancelRun s seq role
      match r.2 with
      | none => setReg r.1 Reg.SERVE_CANCEL_RESULT 0
      | some j => setReg (setCancels r.1 (r.1.serve.cancels ++ [{ jseq := j, origin := none, code := 0, target := seq }])) Reg.SERVE_CANCEL_RESULT 1

/-- SERVE_CANCEL. -/
def execServeCancel (role : Bool) (s : State) : Out := host s Reg.SERVE_CANCEL_CMD fun s' => serveCancel s' role

/-- The CANCEL entry of a cancel submission (Table 16.7). -/
def cancelEntry (s : State) (o : Origin) (code target : Nat) : State :=
  answer s o 0x05 0xFFFFFFFF (natLE 8 o.tag ++ natLE 1 code ++ natLE 3 0 ++ natLE 4 target)

/-- Cancels that the twin has acknowledged report their results; `all` reports every one (R296, R338). -/
def settleCancels (s : State) (all : Bool) : State :=
  let due := s.serve.cancels.filter fun c => all || covers (vcOf s 1).acked c.jseq
  due.foldl (fun s' c =>
    match c.origin with
    | none => setReg s' Reg.SERVE_CANCEL_RESULT c.code
    | some o => cancelEntry s' o c.code c.target)
    (setCancels s (s.serve.cancels.filter fun c => !(all || covers (vcOf s 1).acked c.jseq)))

/-! ## SERVE_WIN (R300) -/

/-- STATE of an entry (Table 14.1). -/
def AstMode.code : AstMode → Nat
  | .free => 0 | .reserved => 1 | .prefill => 2 | .ready => 3 | .ended => 4

/-- The 128 bytes of an entry (Table 14.1). -/
def SeqEntry.toBytes (q : SeqEntry) : List Byte :=
  let b := natLE 1 (q.mode.code + (if q.grammar then 8 else 0) + (if q.role then 16 else 0)) ++ natLE 1 q.account ++ natLE 2 q.vset
    ++ natLE 4 q.reqSeq ++ natLE 8 q.accept ++ natLE 8 q.deadline ++ natLE 8 q.seed ++ natLE 4 q.nextTsn ++ natLE 4 q.promptLen
    ++ natLE 4 q.ctxLen ++ natLE 4 q.genCount ++ natLE 4 q.maxNew ++ natLE 4 q.lastToken ++ natLE 4 (q.tailNode.getD 0xFFFFFFFF)
    ++ natLE 2 q.shared ++ natLE 2 q.resBlocks ++ natLE 1 q.sampleMode ++ natLE 1 q.topK ++ natLE 2 q.skips ++ natLE 4 q.temperature
    ++ natLE 4 q.topP ++ natLE 2 q.gstate ++ natLE 2 q.gstack.length
  b ++ List.replicate (128 - b.length) 0

/-- SERVE_WIN_SNAPSHOT (R300): the entry's bytes as they stand. -/
def winSnapshot (s : State) (e : Nat) : State :=
  let b := (seqOf s e).toBytes
  (List.range 32).foldl (fun s' i => setReg s' (Reg.SERVE_WIN i) (le b (4 * i) 4)) (setReg s Reg.SERVE_WIN_INDEX e)

/-- SERVE_WIN_SNAPSHOT. -/
def execServeWinSnapshot (e : Nat) (s : State) : Out := host s Reg.SERVE_WIN_INDEX fun s' => winSnapshot s' e

end Sys2Proof.Machine
end

