-- ==== Sys2Proof/Machine/Rerank.lean ====
section
/-!
DEFINITION. Machine/Rerank.lean: the passage token store (R252 to R255), the token fetch (R256 to R258), calibrated scores (R260, R261),
packing and the provenance table (R262 to R267), and the pod messages of a sharded query (R204, R258, R358).
-/
namespace Sys2Proof.Machine

/-! ## The front-end plan of a request (R48, R49) -/

/-- The front-end plan. -/
def planOf (s : State) : Plan :=
  match s.bond.image with
  | some im => im.plan
  | none => { slots := 0, inImageLen := 0, inKeys := 0, period := 0, steps := [] }

/-- The plan step at place `i`: its section's kind and its USE. -/
def planStep (s : State) (i : Nat) : Option (Nat × Nat) :=
  ((planOf s).steps[i]?).bind fun p => (sectionOf s p.1).map fun x => (x.kind, p.2)

/-- Place of the merging SELECT step: the first step of a SELECT section (R204). -/
def mergePlace (s : State) : Option Nat :=
  (planOf s).steps.findIdx? fun p =>
    match sectionOf s p.1 with
    | some x => decide (x.kind = 4)
    | none => false

/-- BeatTime of the merging step's boundary of a request (R358). -/
def mergeBoundary (s : State) (r : Req) : Nat :=
  match mergePlace s with
  | some i => addBeats 0 (r.entry + i * (planOf s).period)
  | none => 0

/-! ## The store (R252, R253) -/

/-- The fetch descriptor that the RERANK section's first TFETCH word names, in the scratchpad of its first core; zeros without one. -/
def fetchDesc (s : State) : List Byte :=
  match s.bond.image with
  | none => List.replicate 32 0
  | some im =>
    match im.sections.find? fun x => x.kind = 5 with
    | none => List.replicate 32 0
    | some x =>
      match (im.seq.filter fun t => decide (t.sect = x.id)).flatMap (fun t => t.words.map BitVec.toNat) |>.find? fun w => opcode w = 0x4E,
        (sectionCores s x.id).head? with
      | some w, some c => spRead s c (4 * bits w 111 95) 32
      | _, _ => List.replicate 32 0

/-- TS_REGION of a descriptor. -/
def descRegion (d : List Byte) : Nat := le d 6 2
/-- KEEP of a descriptor. -/
def descKeep (d : List Byte) : Nat := le d 4 2
/-- ROW_LEN of a descriptor. -/
def descRow (d : List Byte) : Nat := le d 0 2

/-- Bytes of a region. -/
def regionSize (s : State) (g : Nat) : Nat :=
  match s.bond.image with
  | some im => slotSize im g
  | none => 0

/-- Entries of a store's block directory. -/
def tsDir (s : State) (g : Nat) : Nat := Config.tsBlocks (regionSize s g)

/-- First byte of a store's block data. -/
def tsData (s : State) (g : Nat) : Nat := 65536 + 8 * tsDir s g

/-- The block at a directory entry: start and length in bytes; an entry of all ones, or of LEN 0, is empty. -/
def tsBlock (s : State) (g b : Nat) : Option (Nat × Nat) :=
  let v := ldNat s g (65536 + 8 * b) 8
  if tsDir s g ≤ b ∨ v = 2 ^ 64 - 1 ∨ bits v 63 40 = 0 then none else some (16 * bits v 39 0, 16 * bits v 63 40)

/-- Length of record `j` of a block at `a`. -/
def recLen (s : State) (g a j : Nat) : Nat := ldNat s g (a + 2 * j) 2

/-- Byte offset in the region and length of the record of a local ID; none when the passage is absent. -/
def tsRecord (s : State) (g id : Nat) : Option (Nat × Nat) :=
  match tsBlock s g (id / 64) with
  | none => none
  | some p =>
    let n := recLen s g p.1 (id % 64)
    if n = 0 then none else some (p.1 + 128 + sumNat ((List.range (id % 64)).map (recLen s g p.1)), n)

/-- The bytes of the record of a local ID: none of an absent passage. -/
def tsBytes (s : State) (g id : Nat) : List Byte :=
  match tsRecord s g id with
  | some p => ldRead s g p.1 p.2
  | none => []

/-- R256: the bytes of a record that a fetch reads at most. -/
def readCap (keep : Nat) : Nat := 2 + 4 * keep

/-- The token of a rank; none for an unused rank. -/
def rankToken (s : State) (g r : Nat) : Option Nat :=
  let t := ldNat s g (4 * r) 4
  if 16320 ≤ r ∨ t = 0xFFFFFFFF then none else some t

/-- Table 13.1: `n` token codes in the bytes that were read, `more` of the record's bytes being unread; none when the record is bad. Codes that
the bytes read do not hold whole are not decoded. -/
def decodeCodes (s : State) (g vocab : Nat) (more : Bool) : Nat → List Byte → Option (List Nat)
  | 0, bs => if bs = [] ∧ !more then some [] else none
  | n + 1, bs =>
    match bs with
    | [] => if more then some [] else none
    | b0 :: _ =>
      let k := if b0.toNat < 0xC0 then 1 else if b0.toNat < 0xFF then 2 else 4
      let tok := if k = 1 then rankToken s g b0.toNat
        else if k = 2 then rankToken s g (192 + (b0.toNat - 0xC0) * 256 + le bs 1 1)
        else some (le bs 1 3)
      if bs.length < k then (if more then some [] else none)
      else
        match tok with
        | none => none
        | some t => if vocab ≤ t then none else (decodeCodes s g vocab more n (bs.drop k)).map (t :: ·)

/-- R253: NTOK and the tokens of a record, of which `bs` were read. An NTOK outside 1 to 4,096 is bad as well. -/
def decodeRecord (s : State) (g vocab : Nat) (more : Bool) (bs : List Byte) : Option (Nat × List Nat) :=
  let n := le bs 0 2
  if bs.length < 2 ∨ n = 0 ∨ 4096 < n then none else (decodeCodes s g vocab more n (bs.drop 2)).map fun l => (n, l)

/-- What a passage is in the store. -/
inductive Passage where
  | absent | bad
  /-- NTOK, and the tokens that the bytes read hold -/
  | tokens (n : Nat) (l : List Nat)
  deriving DecidableEq, Repr

/-- A passage of the store, of whose record a fetch that keeps `keep` tokens reads the first bytes (R256). -/
def passageOf (s : State) (g vocab keep id : Nat) : Passage :=
  match tsRecord s g id with
  | none => .absent
  | some p =>
    match decodeRecord s g vocab (decide (readCap keep < p.2)) (ldRead s g p.1 (min p.2 (readCap keep))) with
    | some t => .tokens t.1 t.2
    | none => .bad

/-- NTOK and tokens of a good passage. -/
def Passage.good : Passage → Option (Nat × List Nat)
  | .tokens n l => some (n, l)
  | _ => none

/-- Count an absent or a bad passage (R257). -/
def countPassage (s : State) : Passage → State
  | .absent => bump s Reg.RR_CNT_ABSENT
  | .bad => setBits (bump s Reg.RR_CNT_BAD) Reg.RR_INT_STATUS 2
  | .tokens _ _ => s

/-! ## TS_CMD (R255) -/

/-- The ranges of the store's data that are taken: of the directory's blocks and of replaced ones. -/
def tsTaken (s : State) (g : Nat) : List (Nat × Nat) :=
  (List.range (tsDir s g)).filterMap (tsBlock s g) ++ s.assets.tsOld.map fun o => (o.1, o.2.1)

/-- Free bytes of the store (TS_FREE). -/
def tsFree (s : State) (g : Nat) : Nat := regionSize s g - tsData s g - sumNat ((tsTaken s g).map (·.2))

/-- Whether `n` bytes at `a` meet no taken range. -/
def tsFits (taken : List (Nat × Nat)) (a n : Nat) : Bool := taken.all fun p => decide (a + n ≤ p.1) || decide (p.1 + p.2 ≤ a)

/-- The lowest place for a block of `n` bytes. -/
def tsPlace (s : State) (g n : Nat) : Option Nat :=
  let taken := tsTaken s g
  let starts := (tsData s g :: taken.map fun p => p.1 + p.2).filter fun a =>
    decide (tsData s g ≤ a) && decide (a % 16 = 0) && decide (a + n ≤ regionSize s g) && tsFits taken a n
  match starts with
  | [] => none
  | a :: r => some (r.foldl min a)

/-- The blocks of a WRITE's batch: 64 record lengths, then the records; none when the bytes do not hold exactly `n` blocks. -/
def batchBlocks : Nat → List Byte → Option (List (List Byte))
  | 0, bs => if bs = [] then some [] else none
  | n + 1, bs =>
    let len := 128 + sumNat ((List.range 64).map fun j => le bs (2 * j) 2)
    if bs.length < len then none else (batchBlocks n (bs.drop len)).map (bs.take len :: ·)

/-- Record `j` of a block given as bytes. -/
def blockRecord (b : List Byte) (j : Nat) : List Byte :=
  slice b (128 + sumNat ((List.range j).map fun i => le b (2 * i) 2)) (le b (2 * j) 2)

/-- Whether a passage is live in some resident INDEX version. -/
def passageLive (s : State) (id : Nat) : Bool :=
  (assetsOfKind s 1).any fun a => (verifiedVers s a).any fun v =>
    let x := indexAt s a v
    decide (id < x.passages) && !tombBit s x id

/-- Whether a new block changes the record of a live passage. -/
def changesLive (s : State) (g b : Nat) (bytes : List Byte) : Bool :=
  (List.range 64).any fun j =>
    decide (blockRecord bytes j ≠ tsBytes s g (64 * b + j)) && passageLive s (64 * b + j)

/-- A block goes to free space and takes its directory entry; its old space waits for the requests accepted before (R255). None when
no space is free. -/
def tsPut (s : State) (g b : Nat) (bytes : List Byte) : Option State :=
  let len := (bytes.length + 15) / 16
  (tsPlace s g (16 * len)).map fun a =>
    let s1 := match tsBlock s g b with
      | some p => { s with
          assets := { s.assets with
            tsOld := s.assets.tsOld ++ [(p.1, p.2, now s)] } }
      | none => s
    ldWrite (ldWrite s1 g a bytes) g (65536 + 8 * b) (natLE 8 (a / 16 + len * 2 ^ 40))

/-- Write blocks in order. -/
def tsPutAll (g : Nat) : Nat → List (List Byte) → State → Option State
  | _, [], s => some s
  | b, x :: xs, s => (tsPut s g b x).bind (tsPutAll g (b + 1) xs)

/-- A store command takes effect: its state and its code; a refused command leaves the store as it was. -/
def tsRun (s : State) (op : Nat) (batch : List Byte) : State × Nat :=
  let g := descRegion (fetchDesc s)
  if !isSealed s then (s, 0x02)
  else if op = 1 then
    if batch.length ≠ 65280 then (s, 0x04)
    else if (List.range (tsDir s g)).any fun b => (tsBlock s g b).isSome then (s, 0x06)
    else (ldWrite s g 0 batch, 0x00)
  else
    let first := le batch 4 4
    let n := le batch 8 4
    if batch.length < 16 ∨ le batch 0 4 ≠ 0x7E570001 ∨ n = 0 ∨ 4096 < n ∨ tsDir s g < first + n then (s, 0x04)
    else
      match batchBlocks n (batch.drop 16) with
      | none => (s, 0x04)
      | some bs =>
        if bs.zipIdx.any fun p => changesLive s g (first + p.2) p.1 then (s, 0x03)
        else
          match tsPutAll g first bs s with
          | none => (s, 0x05)
          | some s1 => (releaseOld s1, 0x00)

/-- A store command ends with a code. -/
def tsEnd (s : State) (code : Nat) : State :=
  let s1 := setReg { s with
    assets := { s.assets with
      tsBusy := none } } Reg.TS_RESULT code
  if 1 < code then setBits (bump s1 Reg.TS_CNT_REFUSED) Reg.RR_INT_STATUS 4 else s1

/-- A command takes effect and is journalled; on a paired module TS_RESULT reads BUSY until the twin acknowledges. -/
def tsStart (s : State) (op : Nat) (batch : List Byte) : State :=
  let r := tsRun s op batch
  let j := journal r.1 0x05 0xFFFFFFFF (natLE 4 op ++ natLE 4 0 ++ natLE 8 batch.length ++ batch)
  match j.2 with
  | none => tsEnd j.1 r.2
  | some n => setReg { j.1 with
      assets := { j.1.assets with
        tsBusy := some { code := r.2, slot := 0, jseq := some n, op := op, args := [] } } } Reg.TS_RESULT 1

/-- The twin has acknowledged a store command. -/
def tsAcked (s : State) : State :=
  match s.assets.tsBusy with
  | none => s
  | some b => if acknowledged s b.jseq then tsEnd s b.code else s

/-- A write of TS_CMD (R255). -/
def tsCmd (s : State) (op : Nat) : State :=
  let o := reg64 s Reg.TS_SRC_OFFSET
  let n := reg64 s Reg.TS_SRC_LEN
  if s.assets.tsBusy.isSome ∨ isHeld s 3 then busyWrite s Reg.TS_CMD
  else if holdsCommands s then setReg (holdCmd s 3 op [o, n]) Reg.TS_RESULT 1
  else tsStart s op (if bar4Size < o + n then [] else stagingRead s o n)

/-- TS_INIT. -/
def execTsInit (s : State) : Out := host s Reg.TS_CMD fun s => tsCmd s 1
/-- TS_WRITE. -/
def execTsWrite (s : State) : Out := host s Reg.TS_CMD fun s => tsCmd s 2

/-! ## Rows (R257) -/

/-- The row of a candidate: header word and ROW_LEN tokens. `q` are the query tokens, `d` the descriptor, `p` the passage's NTOK and tokens. -/
def fetchRow (d : List Byte) (q : List Nat) (p : Option (Nat × List Nat)) : Nat × List Nat :=
  let n := descRow d
  let pad := le d 16 4
  match p with
  | none => (2 ^ 16, List.replicate n pad)
  | some (ntok, ts) =>
    let cls := le d 8 4
    let head := (if cls = 0xFFFFFFFF then [] else [cls]) ++ q.take (le d 2 2) ++ [le d 12 4]
    let l := min ts.length (n - (head.length + 1))
    let row := (head ++ ts.take l ++ [le d 12 4]).take n
    (row.length + (if l < ntok then 2 ^ 17 else 0), row ++ List.replicate (n - row.length) pad)

/-- Write the output of row `i` of `n` (R257): header, row and keep area; a keep area is KEEP IDs and then its count, and the IDs it
does not hold are left as they were. -/
def putRow (s : State) (g o n i : Nat) (d : List Byte) (q : List Nat) (p : Option (Nat × List Nat)) : State :=
  let r := fetchRow d q p
  let keep := ((p.map (·.2)).getD []).take (descKeep d)
  let area := o + 256 + 4 * descRow d * n + (4 * descKeep d + 4) * i
  let s1 := ldWrite (ldWrite s g (o + 4 * i) (natLE 4 r.1)) g (o + 256 + 4 * descRow d * i) (r.2.flatMap (natLE 4))
  ldWrite (ldWrite s1 g area (keep.flatMap (natLE 4))) g (area + 4 * descKeep d) (natLE 4 keep.length)

/-- Bytes of the output of `n` rows. -/
def outBytes (d : List Byte) (n : Nat) : Nat := 256 + 4 * descRow d * n + (4 * descKeep d + 4) * n

/-- The shard of a selection entry (R189). -/
def SelEntry.shard (e : SelEntry) : Nat := e.pos % 65536

/-- The SHARD_ID of this module for a request: of its pinned INDEX version. -/
def ownShard (s : State) (r : Req) : Nat :=
  match pinnedIndex s r.vset with
  | some x => x.shard
  | none => r.rootShard

/-- VOCAB_SIZE of the VOCAB bound to the cross-encoder, whose IDs the token store holds (R254), in a version set. -/
def vocabSize (s : State) (v : Nat) : Nat := rdN (pinnedRd s v 5 4) 4 4

/-! ## TFETCH (R256) -/

/-- The ranges of a TFETCH word. -/
def fetchReach (s : State) (c w : Nat) : List Access :=
  let cand := 4 * bits w 94 78
  let qry := 4 * bits w 61 45
  [⟨4 * bits w 111 95, 32, false⟩, ⟨cand, 16 + 16 * spNat s c cand 2, false⟩, ⟨qry, 4 + 4 * spNat s c qry 2, false⟩]

/-- Output offset of a TFETCH word. -/
def fetchAt (k : Core) (w : Nat) : Nat := bits w 39 0 + (if bit w 113 then homeOf k else 0)

/-- The fetched candidate of rank `i`, after this module's own fetch of it. -/
def fillLocal (f : Fetched) (e : SelEntry) (keep : Nat) (p : Passage) : Fetched :=
  match p with
  | .tokens n l => { f with
      entry := e
      keep := l.take keep
      ntok := n
      dropped := false
      waiting := false }
  | _ => { f with
      entry := e
      keep := []
      ntok := 0
      dropped := true
      waiting := false }

/-- Replace the fetched candidate of rank `i` of a request. -/
def setFetched (r : Req) (i : Nat) (f : Fetched → Fetched) : Req := { r with
    fetched := r.fetched.map fun x => if x.rank = i then f x else x }

/-- The charges of one candidate (R256): directory entry, length table, and the record's first bytes. -/
def chargeCandidate (s : State) (c g id keep : Nat) : State :=
  let s1 := transfer s c g (65536 + 8 * (id / 64)) 8 false
  match tsBlock s g (id / 64), tsRecord s g id with
  | some b, some p => transfer (transfer s1 c g b.1 128 false) c g p.1 (min p.2 (readCap keep)) false
  | some b, none => transfer s1 c g b.1 128 false
  | none, _ => s1

/-- One candidate of a TFETCH: a passage of this shard is read from the store; a passage of another shard takes what its reply brought,
or a dropped row until the reply comes; a place past the run's entries has no passage. -/
def fetchOne (c n out region : Nat) (d : List Byte) (q : List Nat) (es : List SelEntry) (k : Option Nat) (s : State) (i : Nat) : State :=
  let g := descRegion d
  match es[i]? with
  | none => putRow s region out n i d q none
  | some e =>
    match k.bind (reqOf s) with
    | none =>
      let p := passageOf s g (vocabSize s (core s c).vset) (descKeep d) e.id
      putRow (countPassage (bump (chargeCandidate s c g e.id (descKeep d)) Reg.RR_CNT_FETCH) p) region out n i d q p.good
    | some r =>
      if decide (1 < r.shardCount) && decide (e.shard ≠ ownShard s r) then
        match r.fetched.find? fun f => f.rank = i with
        | some f => putRow s region out n i d q (if f.waiting ∨ f.dropped then none else some (f.ntok, f.keep))
        | none => putRow s region out n i d q none
      else
        let p := passageOf s g (vocabSize s r.vset) (descKeep d) e.id
        let s1 := countPassage (bump (chargeCandidate s c g e.id (descKeep d)) Reg.RR_CNT_FETCH) p
        let s2 := putRow s1 region out n i d q p.good
        setReq s2 r.key (some (setFetched r i fun f => fillLocal f e (descKeep d) p))

/-- The request of the segment that a core runs. -/
def segReq (s : State) (c : Nat) : Option Nat :=
  match (core s c).current with
  | some g => g.items.head?
  | none => none

/-- TFETCH takes effect; as a scan word it holds its ranges until it completes (R146). -/
def fetchEffect (s : State) (c w : Nat) : State :=
  let d := spRead s c (4 * bits w 111 95) 32
  let n := bits w 119 114 + 1
  let qa := 4 * bits w 61 45
  let q := (List.range (spNat s c qa 2)).map fun i => spNat s c (qa + 4 + 4 * i) 4
  let es := (runAt s c (4 * bits w 94 78)).entries.take n
  let out := fetchAt (core s c) w
  let region := bits w 77 62
  let s1 := match (segReq s c).bind (reqOf s) with
    | some r => setReq s r.key (some { r with
        fetchAt := some (region, out, d ++ natLE 4 n ++ q.flatMap (natLE 4)) })
    | none => s
  let s2 := (List.range n).foldl (fetchOne c n out region d q es (segReq s c)) s1
  modCore (transfer s2 c region out (outBytes d n) true) c fun k => (startDma k (fetchReach s c w) none none).advance

/-- TFETCH (R256). -/
def execTfetch (c : Nat) (s : State) : Out :=
  match wordOf s c 0x4E with
  | none => done s
  | some w =>
    match rangeHold (core s c) (fetchReach s c w) with
    | some h => done (held s c 0x4E h)
    | none =>
      if !inScratchpad (fetchReach s c w) then .fault .scratchpadRange
      else if !inRegion s (bits w 77 62) (fetchAt (core s c) w) (outBytes (spRead s c (4 * bits w 111 95) 32) (bits w 119 114 + 1)) then
        .fault .regionRange
      else done (fetchEffect s c w)

/-! ## The key fields of a sharded query's messages (R350) -/

/-- The key fields: HOST_TAG, SCORE_KEY, SHARD_ID, ROOT_SHARD, merging step boundary. -/
def shardHead (s : State) (r : Req) : List Byte :=
  natLE 8 r.origin.tag ++ natLE 8 (match pinnedIndex s r.vset with
    | some x => x.scoreKey
    | none => 0) ++ natLE 2 (ownShard s r) ++ natLE 2 r.rootShard ++ natLE 8 (mergeBoundary s r)

/-- Send a message to the module of a shard. -/
def shardSend (s : State) (r : Req) (shard type : Nat) (body : List Byte) : State :=
  if r.shadow then s
  else
    let p := Config.shardPeer shard
    podSend s (bits p 9 8) (bits p 7 0) type body false

/-- R358: the request a message belongs to. -/
def shardReq (s : State) (body : List Byte) : Option Req :=
  (s.front.reqs.filterMap fun p => p.2).find? fun r =>
    decide (r.origin.tag = le body 0 8) && decide (r.rootShard = le body 18 2) && decide (mergeBoundary s r = le body 20 8)

/-- R358: a message that matches no request is dropped and counted. -/
def unmatched (s : State) (n : Nat) : State := bump s (Reg.POD_CNT_UNMATCHED n)

/-! ## SEL_RUN (R203, R204) -/

/-- SEL_RUN: a non-root module sends its level-3 run to the root. -/
def sendRun (s : State) (r : Req) : State := shardSend s r r.rootShard 0x10 (shardHead s r ++ natLE 4 0 ++ (sentRun r).toBytes)

/-- A shard's run at the root (R204): late, of another key, or a second one is dropped. -/
def takeRun (s : State) (r : Req) (body : List Byte) : State :=
  let sid := le body 16 2
  let again := decide (sid = ownShard s r) || (r.remote.any fun x => x.shard = sid)
  let late := (r.first.isSome && !again) || (match r.mergeBy with
    | some d => decide (d < now s)
    | none => false)
  if late then
    setBits (bump (setReq s r.key (some { r with
      shardLate := true })) Reg.SEL_CNT_SHARD_LATE) Reg.SEL_INT_STATUS 1
  else if (pinnedIndex s r.vset).map (·.scoreKey) ≠ some (le body 8 8) then
    setBits (bump (setReq s r.key (some { r with
      keyMismatch := true })) Reg.SEL_CNT_KEY_MISMATCH) Reg.SEL_INT_STATUS 2
  else if again then
    bump (setReq s r.key (some { r with
      shardDup := true })) Reg.SEL_CNT_SHARD_DUP
  else setReq s r.key (some { r with
      remote := r.remote ++ [{ shard := sid, run := runOf (body.drop 32) }] })

/-- SEL_RUN (R358): a whole message of that type. -/
def selRun (s : State) (n : Nat) (f : RxFrame) : State :=
  match receive s n f with
  | .message s1 _ 0x10 _ body =>
    match shardReq s1 body with
    | some r => if isRoot s1 r then takeRun s1 r body else unmatched s1 n
    | none => unmatched s1 n
  | _ => s

/-! ## TOK_REQ and TOK_REPLY (R258) -/

/-- The root asks each other shard for the passages of its candidates. -/
def askShards (s : State) (r : Req) : State :=
  let own := ownShard s r
  let fs := r.fetched.filter fun f => f.waiting && decide (f.entry.shard ≠ own)
  let shards := (fs.map fun f => f.entry.shard).eraseDups
  shards.foldl (fun s' x =>
    let ids := (fs.filter fun f => decide (f.entry.shard = x)).map fun f => f.entry.id
    shardSend s' r x 0x11 (shardHead s r ++ natLE 2 (descKeep (fetchDesc s)) ++ natLE 1 ids.length ++ natLE 1 0 ++ ids.flatMap (natLE 4))) s

/-- A shard's answer: from its own store, with its current VOCAB version; its accesses are charged to its RERANK section. -/
def answerTokens (s : State) (n i : Nat) (r : Req) (body : List Byte) : State :=
  let keep := le body 28 2
  let g := descRegion (fetchDesc s)
  let voc := match boundAsset s 5 4 with
    | some a => currentVer s a
    | none => 0
  let size := match boundAsset s 5 4 with
    | some a => assetNat s a voc 4 4
    | none => 0
  let c := (match s.bond.image with
    | some im => (im.sections.find? fun (x : Section) => x.kind = 5).bind fun x => (sectionCores s x.id).head?
    | none => none).getD 0
  let ids := (List.range (le body 30 1)).map fun j => le body (32 + 4 * j) 4
  let s1 := ids.foldl (fun s' id => countPassage (bump (chargeCandidate s' c g id keep) Reg.RR_CNT_FETCH) (passageOf s g size keep id)) s
  let part (id : Nat) : List Byte :=
    let ts := (((passageOf s g size keep id).good.map (·.2)).getD []).take keep
    natLE 2 ts.length ++ ts.flatMap (natLE 4)
  if r.shadow then s1 else podSend s1 n i 0x12 (shardHead s r ++ natLE 4 voc ++ ids.flatMap part) false

/-- TOK_REQ. -/
def tokReq (s : State) (n : Nat) (f : RxFrame) : State :=
  match receive s n f with
  | .message s1 i 0x11 _ body =>
    match shardReq s1 body with
    | some r => answerTokens s1 n i r body
    | none => unmatched s1 n
  | _ => s

/-- The token lists of a reply. -/
def replyLists : Nat → List Byte → List (List Nat)
  | 0, _ => []
  | n + 1, bs =>
    let k := le bs 0 2
    ((List.range k).map fun i => le bs (2 + 4 * i) 4) :: replyLists n (bs.drop (2 + 4 * k))

/-- Rewrite the rows of a request's output from what is fetched, once TFETCH has written them. -/
def putReplyRow (s : State) (r : Req) (f : Fetched) : State :=
  match r.fetchAt with
  | none => s
  | some (g, o, x) =>
    let q := (List.range ((x.length - 36) / 4)).map fun i => le x (36 + 4 * i) 4
    putRow s g o (le x 32 4) f.rank (x.take 32) q (if f.dropped then none else some (f.ntok, f.keep))

/-- The fetched candidates of a shard take the lists of its reply in order. -/
def takeLists (shard : Nat) : List Fetched → List (List Nat) → List Fetched
  | [], _ => []
  | f :: fs, ls =>
    if f.entry.shard = shard then
      let l := ls.headD []
      { f with
        keep := l
        ntok := l.length
        dropped := decide (l = [])
        waiting := false } :: takeLists shard fs ls.tail
    else f :: takeLists shard fs ls

/-- A reply at the root: in time and of the pinned VOCAB version, or its candidates are dropped. -/
def takeReply (s : State) (r : Req) (body : List Byte) : State :=
  let sid := le body 16 2
  let mine (f : Fetched) : Bool := f.waiting && decide (f.entry.shard = sid)
  let inTime := match r.fetchBy with
    | some t => decide (now s ≤ t)
    | none => false
  if !(r.fetched.any mine) ∨ !inTime then s
  else if (boundAsset s 5 4).map (versionIn s r.vset) ≠ some (le body 28 4) then
    setBits (bump (setReq s r.key (some { r with
      tokensBad := true
      fetched := r.fetched.map fun f => if mine f then { f with
          dropped := true
          waiting := false } else f })) Reg.RR_CNT_BAD) Reg.RR_INT_STATUS 2
  else
    let fs := takeLists sid r.fetched (replyLists (r.fetched.filter mine).length (body.drop 32))
    let r1 := { r with
      fetched := fs }
    (fs.filter fun f => decide (f.entry.shard = sid)).foldl (fun s' f => putReplyRow s' r1 f) (setReq s r.key (some r1))

/-- TOK_REPLY. -/
def tokReply (s : State) (n : Nat) (f : RxFrame) : State :=
  match receive s n f with
  | .message s1 _ 0x12 _ body =>
    match shardReq s1 body with
    | some r => takeReply s1 r body
    | none => unmatched s1 n
  | _ => s

/-- SEL_RUN. -/
def execSelRun (n : Nat) (f : RxFrame) (s : State) : Out := done (selRun s n f)
/-- TOK_REQ. -/
def execTokReq (n : Nat) (f : RxFrame) (s : State) : Out := done (tokReq s n f)
/-- TOK_REPLY. -/
def execTokReply (n : Nat) (f : RxFrame) (s : State) : Out := done (tokReply s n f)

/-! ## The fetch step (R258, R267) -/

/-- The fetch step of a request begins at `b`: its first RR_N candidates, and the requests to other shards. -/
def fetchBegin (s : State) (r : Req) (b : Nat) : State :=
  match r.pack, r.first with
  | some p, some f =>
    let fs := (f.entries.take p.rrN).zipIdx.map fun e =>
      ({ rank := e.2, entry := e.1, keep := [], ntok := 0, used := 0, dropped := false, trunc := false, waiting := true, score := none } : Fetched)
    let r1 := { r with
      fetched := fs
      fetchBy := some (addBeats 0 (b + bits (reg s Reg.RR_POD_WAIT) 19 0)) }
    if 1 < r.shardCount then askShards (setReq s r.key (some r1)) r1 else setReq s r.key (some r1)
  | _, _ => s

/-- Whether a candidate can still come: another shard's, while a reply would be in time (R258). -/
def mayCome (s : State) (r : Req) (f : Fetched) : Bool :=
  decide (1 < r.shardCount) && decide (f.entry.shard ≠ ownShard s r) && (match r.fetchBy with
    | some t => decide (now s ≤ t)
    | none => false)

/-- What has not come is DROPPED, at the end of the fetch step what can come no more and at the `last` row's scoring all of it; a shard without
a reply counts once and sets TOKENS_LATE. -/
def fetchEnd (s : State) (r : Req) (last : Bool) : State :=
  let own := ownShard s r
  let gone (f : Fetched) : Bool := f.waiting && (last || !mayCome s r f)
  let out := r.fetched.filter gone
  let remote := ((out.filter fun f => decide (1 < r.shardCount) && decide (f.entry.shard ≠ own)).map fun f => f.entry.shard).eraseDups
  if out = [] then s
  else
    let s1 := setReq s r.key (some { r with
      fetched := r.fetched.map fun f => if gone f then { f with
          dropped := true
          waiting := false } else f
      tokensLate := r.tokensLate || decide (remote ≠ [])
      short := r.short || decide (remote.length < (out.map fun f => f.entry.shard).eraseDups.length) })
    if remote = [] then s1 else setBits (bumpBy s1 Reg.RR_CNT_LATE remote.length) Reg.RR_INT_STATUS 1

/-! ## Scores (R260, R261) -/

/-- R260: the calibrated score of a logit, and whether it saturated; none for a NaN. -/
def calibrate (a b l : Nat) : Option (Int × Bool) :=
  let lim : Int := 2 ^ 31 - 1
  match ((f32 a).mul (f32 l)).add (f32 b) with
  | .nan => none
  | .inf neg => some (if neg then -lim else lim, true)
  | .fin neg n d =>
    let x := nearestQ neg n d
    let y := max (-lim) (min lim x)
    some (y, decide (x ≠ y))

/-- The pinned cross-encoder version of a request. -/
def modelVer (s : State) (r : Req) : Nat := versionIn s r.vset ((boundAsset s 5 2).getD 0xFFFF)

/-- R259, R260: the logits of a request's rows, by rank; a row without a logit at the end of its steps is DROPPED (R267). -/
def scoreRows (s : State) (k sect : Nat) (logits : List (Option Nat)) : State :=
  match reqOf s k with
  | none => s
  | some r =>
    let a := (boundAsset s 5 2).getD 0xFFFF
    let o := Config.calOffset a
    let ca := assetNat s a (modelVer s r) o 4
    let cb := assetNat s a (modelVer s r) (o + 4) 4
    let row (f : Fetched) : Fetched × Nat × Nat × Nat :=
      if f.dropped then (f, 0, 0, 0)
      else
        match logits.getD f.rank none with
        | none => ({ f with
            dropped := true }, 0, 0, 1)
        | some l =>
          match (if isNan32 l then none else calibrate ca cb l) with
          | none => (f, 1, 0, 0)
          | some p => ({ f with
              score := some p.1 }, 0, if p.2 then 1 else 0, 0)
    let out := r.fetched.map row
    let nans := sumNat (out.map fun x => x.2.1)
    let sats := sumNat (out.map fun x => x.2.2.1)
    let lost := sumNat (out.map fun x => x.2.2.2)
    let s1 := setReq s k (some { r with
      fetched := out.map (·.1)
      rrNan := r.rrNan || decide (nans ≠ 0)
      short := r.short || decide (lost ≠ 0)
      inexact := r.inexact || decide (sats ≠ 0) })
    bumpBy (arith s1 sect (((sectionCores s sect).head?.map dieOf).getD 0) { sat := sats }) Reg.RR_CNT_NAN nans

/-- R261: the re-ranked selection. -/
def rerankSelect (s : State) (r : Req) : State :=
  match r.pack with
  | none => s
  | some p =>
    let es := r.fetched.filterMap fun f => f.score.map fun x =>
      ({ score := x, id := f.entry.id, pos := f.rank * 65536 + f.entry.shard } : SelEntry)
    let t := topk true p.rrN es 0
    let f : SelResult :=
      { kind := 2, k := p.rrN, entries := t.1.entries, ties := t.1.tailTies, dup := 0, dupPod := 0, flags := if r.rrNan then flagNan else 0,
        shards := 1 }
    let s1 := setReq s r.key (some { r with
      rerank := some f })
    if t.1.entries.length = p.rrN ∧ 0 < t.1.tailTies then bump s1 Reg.SEL_CNT_TIE_AT_K else s1

/-! ## PACK (R264, R265) -/

/-- A passage that is packed. -/
structure Packed where
  entry : SelEntry
  from_ : Fetched
  taken : Nat
  deriving DecidableEq, Repr

/-- R264: the passages in re-ranked order with what is taken of each. -/
def packTake (pre post pmin pmax : Nat) : Int → List (SelEntry × Fetched) → List Packed
  | _, [] => []
  | room, p :: ps =>
    let avail : Int := room - (pre : Int) - (post : Int)
    let len := p.2.keep.length
    if avail < ((min pmin len : Nat) : Int) then []
    else
      let t := min (min len pmax) avail.toNat
      { entry := p.1, from_ := p.2, taken := t } :: packTake pre post pmin pmax (avail - (t : Int)) ps

/-- Literal tokens of a template from a pool index. -/
def poolTokens (rd : Rd) (o n : Nat) : List Nat := (List.range n).map fun i => tplPool rd (o + i)

/-- The tokens of the passages at prompt offset `o`, with the offset of each. -/
def packPassages (rd : Rd) (g : Seg) : Nat → List Packed → List Nat × List Nat
  | _, [] => ([], [])
  | o, p :: ps =>
    let ts := poolTokens rd g.off g.preLen ++ p.from_.keep.take p.taken ++ poolTokens rd g.postOff g.postLen
    let r := packPassages rd g (o + ts.length) ps
    (ts ++ r.1, (o + g.preLen) :: r.2)

/-- The prompt in template order, and the offset of each passage. -/
def packSegs (rd : Rd) (q : List Nat) (ps : List Packed) : Nat → List Seg → List Nat × List Nat
  | _, [] => ([], [])
  | o, g :: gs =>
    let p : List Nat × List Nat :=
      if g.kind = 1 then (poolTokens rd g.off g.count, [])
      else if g.kind = 2 then (q.take g.count, [])
      else packPassages rd g o ps
    let r := packSegs rd q ps (o + p.1.length) gs
    (p.1 ++ r.1, p.2 ++ r.2)

/-- A provenance entry (R265). TRUNC: fewer tokens are taken than the passage has. -/
def provEntry (p : Packed) (off : Nat) : List Byte :=
  natLE 6 p.entry.gid ++ natLE 2 p.from_.rank ++ natLE 4 (unsigned 32 p.entry.score) ++ natLE 4 (unsigned 32 p.from_.entry.score) ++ natLE 2 off
    ++ natLE 2 p.taken ++ natLE 2 p.from_.ntok ++ natLE 2 (if p.taken < p.from_.ntok then 1 else 0) ++ natLE 8 0

/-- The provenance table (Table 13.6). -/
def provTable (s : State) (r : Req) (short : Bool) (prompt : List Nat) (ps : List Packed) (offs : List Nat) : List Byte :=
  let cut := ps.any fun p => decide (p.taken < p.from_.ntok)
  let flags := (if r.tokensLate then 1 else 0) + (if r.tokensBad then 2 else 0) + (if r.rrNan then 4 else 0) + (if cut then 8 else 0)
    + (if ps = [] then 16 else 0) + (if short then 32 else 0)
  let tpl := match r.pack with
    | some p => versionIn s r.vset p.template
    | none => 0
  let ix := match boundAsset s 3 1 with
    | some a => versionIn s r.vset a
    | none => 0
  natLE 2 0x9A0F ++ natLE 2 ps.length ++ natLE 2 prompt.length ++ natLE 2 flags ++ natLE 2 (r.fetched.filter fun f => f.score.isSome).length
    ++ natLE 2 (r.fetched.filter fun f => f.dropped).length ++ natLE 4 (modelVer s r) ++ natLE 4 ix ++ natLE 4 tpl ++ natLE 8 0
    ++ (ps.zip offs).flatMap fun p => provEntry p.1 p.2

/-- The re-ranked candidates with what was fetched of them. -/
def packOrder (r : Req) : List (SelEntry × Fetched) :=
  match r.rerank with
  | none => []
  | some f => f.entries.filterMap fun e => (r.fetched.find? fun x => x.rank = e.pos / 65536).map fun x => (e, x)

/-- PACK of a request; without passages where its section fell short (R267). A text the tokeniser refused leaves an empty prompt. -/
def packReq (s : State) (k : Nat) (full : Bool) : State :=
  match reqOf s k with
  | none => s
  | some r =>
    match r.pack with
    | none => s
    | some p =>
      if r.packed then s
      else
        let rd := assetRd s p.template (versionIn s r.vset p.template)
        let segs := tplSegs rd
        let none_ := r.textMalformed || r.textTooLong || r.textLate
        let room : Int := (min p.budget (rdN rd 10 2) : Nat) - (tplLiteral rd : Int) - ((min r.tokens.length (tplQmax rd) : Nat) : Int)
        let ps : List Packed :=
          if !full ∨ none_ then []
          else
            match segs.find? fun g => g.kind = 3 with
            | some g => packTake g.preLen g.postLen g.pmin g.count room ((packOrder r).take p.npack)
            | none => []
        let out := if none_ then ([], []) else packSegs rd r.tokens ps 0 segs
        let cut := (ps.filter fun x => decide (x.taken < x.from_.ntok)).length
        bumpBy (setReq s k (some { r with
          packed := true
          prompt := out.1
          prov := provTable s r (!full || r.short) out.1 ps out.2 })) Reg.PACK_CNT_TRUNC cut

end Sys2Proof.Machine
end

