-- ==== Sys2Proof/Machine/Admit.lean ====
section
/-!
DEFINITION. Machine/Admit.lean: accounts, admission and engine time (spec/15_admission_energy.md, R301 to R309), the energy classes and
allowances (R311, R313), the drain of R317 and acceptance (R269 to R275, R384).
-/
namespace Sys2Proof.Machine

/-! ## Energy classes (R302, R313) -/

/-- The energy classes with their numbers. -/
def classList (s : State) : List (Nat × EClass) :=
  match s.bond.image with
  | some im => im.classes.zipIdx.map fun p => (p.2, p.1)
  | none => []

/-- The class of a section for a key: the largest KEY_MIN not above it. -/
def classFor (s : State) (sect key : Nat) : Option (Nat × EClass) :=
  ((classList s).filter fun p => decide (p.2.sect = sect ∧ p.2.keyMin ≤ key)).getLast?

/-- c_k. -/
def costOf (s : State) (k : Nat) : Int := tget (fun _ => 0) s.energy.cost k

/-- class_cost of R283. -/
def classCost (s : State) (sect key : Nat) : Int :=
  match classFor s sect key with
  | some p => costOf s p.1
  | none => 0

/-- PLAN_COST (R306). -/
def planCost (s : State) : Int := ((planOf s).steps.map fun p => classCost s p.1 0).foldl (· + ·) 0

/-- R302: `n` items of an account run in a step of a section; items of no account are charged to the section alone. -/
def chargeItems (s : State) (account : Option Nat) (sect key n : Nat) : State :=
  match classFor s sect key with
  | none => s
  | some p =>
    let ck := n * p.2.engCk
    let adm := { s.adm with
      sectEngine := tmod (fun _ => 0) s.adm.sectEngine sect fun x => x + ck }
    { s with
      energy := { s.energy with
        predicted := s.energy.predicted + (n : Int) * costOf s p.1
        ran := insertAsc p.1 s.energy.ran }
      adm := match account with
        | none => adm
        | some a => { adm with
            charged := tmod (fun _ => 0) adm.charged a fun x => x + ck
            engine := tmod (fun _ => 0) adm.engine (a * 64 + sect) fun x => x + ck } }

/-- R302: one item runs. -/
def chargeItem (s : State) (account : Option Nat) (sect key : Nat) : State := chargeItems s account sect key 1

/-! ## Accounts -/

/-- The queue of an account. -/
def queueOf (s : State) (a : Nat) : List Req := tget (fun _ => []) s.adm.queues a

/-- Replace the queue of an account. -/
def setQueue (s : State) (a : Nat) (l : List Req) : State := { s with
    adm := { s.adm with
      queues := tset (fun _ => []) s.adm.queues a l } }

/-- The depth of an account's queue: ADMIT_ACCT_QDEPTH, within 1 to 4,096 (R304). -/
def depthOf (s : State) (a : Nat) : Nat := max 1 (min 4096 (tget (fun _ => 1024) s.adm.depth a))

/-- The weight of an account that is in force. -/
def weightOfAccount (s : State) (a : Nat) : Nat := tget (fun _ => 0) s.adm.weight a

/-- D_a. -/
def deficitOf (s : State) (a : Nat) : Int := tget (fun _ => 0) s.adm.deficit a

/-- The accounts that are active at this edge (R303). A record kept for a completion that waits is in the plan no longer. -/
def activeNow (s : State) : List Nat :=
  let l := (s.adm.queues.filter fun p => decide (p.2 ≠ [])).map (·.1)
    ++ (s.front.reqs.filterMap fun p => (p.2.filter fun (r : Req) => !r.ended).map (·.account)) ++ (s.serve.ast.filter fun p => decide (p.2.mode ≠ .free)).map fun p => p.2.account
  l.foldl (fun acc a => insertAsc a acc) []

/-- An account is active in the running measure. -/
def markActive (s : State) (a : Nat) : State := { s with
    adm := { s.adm with
      active := insertAsc a s.adm.active } }

/-- The largest of two tags under R8. -/
def maxTag (a b : Nat) : Nat := if serialLt 64 a b then b else a

/-! ## Outcomes -/

/-- Whether admission is stopped by heat: state STOP, or a declared THERMAL_STOP (R317, R387). -/
def heatStop (s : State) : Bool := decide (s.energy.thermal = .stop) || s.twin.declared.contains 1

/-- A refusal: its report and its counts (R307, R309). -/
def refuse (s : State) (r : Req) (code planned : Nat) : State :=
  let s1 := admitEntry s r.origin 0xFFFFFFFF s.twin.role (admitReport code r.account ((now s - r.arrival) / 65536) planned (now s))
  match code with
  | 0x10 => setBits (bump s1 Reg.ADMIT_CNT_SHARE) Reg.ADMIT_INT_STATUS 2
  | 0x11 => setBits (bump s1 Reg.ADMIT_CNT_ENERGY) Reg.ADMIT_INT_STATUS 4
  | 0x12 => setBits (bump s1 Reg.ADMIT_CNT_QUEUE) Reg.ADMIT_INT_STATUS 1
  | _ => bump s1 Reg.ADMIT_CNT_DEADLINE

/-- Table 18.1: whether the pair state lets the module accept requests. -/
def pairAdmits (s : State) : Bool :=
  match s.twin.mode with
  | .paired => true
  | .solo => true
  | .resync =>
    match s.twin.resync with
    | some r => r.source
    | none => false
  | _ => false

/-- Whether this module is the standby of TWIN_MODE, in PAIRED or RESYNC (R378). -/
def standby (s : State) : Bool :=
  let m := bits (reg s Reg.TWIN_MODE) 1 0
  (decide (s.twin.mode = .paired) || decide (s.twin.mode = .resync)) && (if s.twin.role then decide (m = 1) else decide (m = 2))

/-- R304, R305: a request arrives: refused at a full queue, a closed account or closed admission, else queued with its tag. -/
def arrive (s : State) (r : Req) : State :=
  let a := r.account
  if heatStop s then refuse s r 0x11 0
  else if !admitOpen s ∨ !pairAdmits s ∨ weightOfAccount s a = 0 ∨ depthOf s a ≤ (queueOf s a).length then refuse s r 0x12 0
  else
    let f := (maxTag s.adm.v (tget (fun _ => 0) s.adm.fLast a) + 2 ^ 24 / weightOfAccount s a) % 2 ^ 64
    let s1 := setQueue (markActive s a) a (queueOf s a ++ [{ r with
      ftag := f }])
    { s1 with
      adm := { s1.adm with
        fLast := tset (fun _ => 0) s1.adm.fLast a f } }

/-- Every queued request is refused, by account and in queue order; V follows their tags, as they are decided (R305, log 33). -/
def refuseAll (s : State) (code : Nat) : State :=
  let all := s.adm.queues.flatMap (·.2)
  all.foldl (fun s' r => refuse s' r code 0) { s with
    adm := { s.adm with
      queues := []
      v := all.foldl (fun t (r : Req) => maxTag t r.ftag) s.adm.v } }

/-- ADMIT_OPEN (R304): OPEN is set only while SEALED, and not on a standby module (R378) or after a FAULT (R387); clearing it refuses what
is queued. -/
def admitCtrl (s : State) (on : Bool) : State :=
  if on then
    if !isSealed s ∨ standby s ∨ s.twin.declared ≠ [] then s else putBit s Reg.ADMIT_CTRL 0 true
  else refuseAll (putBit s Reg.ADMIT_CTRL 0 false) 0x12

/-- ADMIT_OPEN. -/
def execAdmitOpen (on : Bool) (s : State) : Out := host s Reg.ADMIT_CTRL fun s => admitCtrl s on

/-! ## Resources (R234, R270, R271, R275, R379) -/

/-- Whether the request takes a sequence table entry: DEST PREFILL or POD_KV (R271). -/
def Req.needsEntry (r : Req) : Bool :=
  match r.pack with
  | some p => decide (p.dest = 1) || decide (p.dest = 3)
  | none => false

/-- Key/value blocks a request reserves (R275). -/
def Req.kvNeed (r : Req) : Nat :=
  if r.needsEntry then
    ((match r.pack with
      | some p => p.budget
      | none => 0) + (match r.serve with
      | some v => v.maxNew
      | none => 0) + 31) / 32
  else 0

/-- Requests with a record that are this module's own: neither shadows nor taken over. -/
def ownReqs (s : State) : List Req := (s.front.reqs.filterMap fun p => p.2).filter fun r => !r.shadow && !r.adopted

/-- Whether the pair shares the plan: PAIRED, ACTIVE_ACTIVE (R379). -/
def sharesPlan (s : State) : Bool := decide (s.twin.mode = .paired) && decide (bits (reg s Reg.TWIN_MODE) 1 0 = 0)

/-- Own slots per boundary. -/
def ownSlots (s : State) : Nat := if sharesPlan s then (planOf s).slots / 2 else (planOf s).slots

/-- A free entry of the active sequence table: the lowest. -/
def freeEntry (s : State) : Option Nat := (List.range 65536).find? fun e => decide ((seqOf s e).mode = .free)

/-- Tokeniser lanes in use. -/
def lanesBusy (s : State) : Nat :=
  (s.front.reqs.filter fun p =>
    match p.2 with
    | some r => r.lane
    | none => false).length

/-- The RESOURCE test of R306. -/
def resourcesFree (s : State) (r : Req) : Bool :=
  let own := (ownReqs s).filter fun x => x.ast.isSome && !x.ended
  let limE := if sharesPlan s then 32768 else 65536
  let limB := if sharesPlan s then (kvOf s).nblk / 2 else (kvOf s).nblk
  (!r.text || decide (lanesBusy s < 64)) && (s.serve.newest.isSome || (freeSet s).isSome)
    && (!r.needsEntry || ((freeEntry s).isSome && decide (own.length < limE) && canReserve s r.kvNeed
      && decide (sumNat (own.map Req.kvNeed) + r.kvNeed ≤ limB)))

/-! ## Boundaries (R306, R308) -/

/-- Boundary `b`. -/
def boundOf (s : State) (b : Nat) : Bound := tget (fun _ => Bound.reset) s.adm.bounds b

/-- Replace boundary `b`. -/
def setBound (s : State) (b : Nat) (x : Bound) : State := { s with
    adm := { s.adm with
      bounds := tset (fun _ => Bound.reset) s.adm.bounds b x } }

/-- R308: budget(B), set when admission first examines B. -/
def budgetAt (s : State) (b : Nat) : Int :=
  match (boundOf s b).budget with
  | some x => x
  | none => s.energy.aVar * ((bits (reg s Reg.ENERGY_FE_MAX) 16 0 : Nat) : Int) / 65536

/-- Admission examines B. -/
def examined (s : State) (b : Nat) : State := setBound s b { boundOf s b with
    budget := some (budgetAt s b) }

/-- The first front-end boundary at or after beat `x`; front-end sections have phase 0 (R48). -/
def frontBoundary (s : State) (x : Nat) : Nat :=
  let p := max (planOf s).period 1
  (x + p - 1) / p * p

/-- E of R306: the first front-end boundary at or after `t` + 1,000 beats. -/
def entryBoundary (s : State) (t : Nat) : Nat := frontBoundary s ((addBeats t 1000 + 65535) / 65536)

/-- FRONT_L. -/
def frontL (s : State) : Nat :=
  match s.bond.image with
  | some im => im.frontL
  | none => 0

/-- The four tests of a boundary: SLOT, ENERGY, DEADLINE (as the instant it gives), RESOURCE is the same for all. -/
structure Tests where
  at_ : Nat
  slot : Bool
  energy : Bool
  deadline : Bool
  instant : Nat
  deriving DecidableEq, Repr

/-- R306 at one boundary; in state ZERO a request fails ENERGY (R316). -/
def testsAt (s : State) (r : Req) (d e b : Nat) : Tests :=
  let u := boundOf s b
  let cap := if deficitOf s r.account < 0 then (planOf s).slots - bits (reg s Reg.ADMIT_RESERVE) 15 0 else (planOf s).slots
  let inst := addBeats (now s) (frontL s + (b - e))
  { at_ := b, slot := decide (u.used < cap) && decide (u.own < ownSlots s), energy := decide (u.ledger + planCost s ≤ budgetAt s b) && decide (s.energy.thermal ≠ .zero),
    deadline := decide (inst ≤ d), instant := inst }

/-- The boundaries from E on, examined in order up to the first that passes all tests: the results of those examined. -/
def tryBounds (ok : Bool) (tests : Nat → Tests) : List Nat → List Tests
  | [] => []
  | b :: bs =>
    let t := tests b
    if ok && t.slot && t.energy && t.deadline then [t] else t :: tryBounds ok tests bs

/-! ## Acceptance -/

/-- Low 32 bits of the next REQ_SEQ after `n`. -/
def nextSeqNo (n : Nat) : Nat := (n + 1) % 2 ^ 32

/-- R273: the seed of a request; drawn by the Opfort where its serve block asks for one. -/
def seedFor (s : State) (r : Req) (seq : Nat) (role : Bool) (t : Nat) : Nat :=
  let own := match r.serve with
    | some v => v.seed
    | none => 0
  if own ≠ 0 then own
  else
    let d := match s.bond.image with
      | some im => im.digest
      | none => []
    leNat (shake256 (d ++ natLE 1 (roleBit role) ++ natLE 4 seq ++ natLE 8 t) 8)

/-- The entry a request reserves (R271, R273, R275). -/
def reservedEntry (r : Req) : SeqEntry :=
  let v : ServeBlk := r.serve.getD { mode := 0, topK := 0, pinDepth := 0, temperature := 0, topP := 0, maxNew := 0, seed := 0 }
  { SeqEntry.reset with
    mode := .reserved
    grammar := decide (r.genText ≠ []) && decide (gtGrammar r.genText ≠ 0xFFFF)
    role := r.role
    account := r.account
    vset := r.vset
    reqSeq := r.seq
    accept := r.accept
    deadline := r.deadline.getD (2 ^ 64 - 1)
    seed := r.seed
    maxNew := v.maxNew
    resBlocks := r.kvNeed
    sampleMode := v.mode
    topK := v.topK
    temperature := v.temperature
    topP := v.topP
    genText := r.genText
    pinDepth := v.pinDepth }

/-- A request takes an entry and its reservation, evicting what it needs (R275, R280); lookups of the same edge come first (R282). -/
def takeEntry (s : State) (r : Req) : State × Req :=
  if !r.needsEntry then (s, r)
  else
    match freeEntry s with
    | none => (s, r)
    | some e =>
      let s0 := settleTree s
      let s1 := evictFor s0 r.kvNeed (nodeList s0).length
      let r1 := { r with
        ast := some e }
      (setSeq s1 e (reservedEntry r1), r1)

/-- Table 18.5, and the descriptor as fetched. -/
def acceptBody (r : Req) : List Byte :=
  let src := match r.origin with
    | .host _ q h t _ _ => (0, q, h, t)
    | .pod n i m t => (1, n * 256 + i, m, t)
  natLE 4 r.seq ++ natLE 1 (if r.deferred then 1 else 0) ++ natLE 1 r.account ++ natLE 2 r.vset ++ natLE 8 r.accept
    ++ natLE 8 (addBeats 0 r.entry) ++ natLE 8 r.seed ++ natLE 8 (r.deadline.getD (2 ^ 64 - 1))
    ++ natLE 1 (src.1 + (if r.strict then 2 else 0) + (if r.jobKey.isSome then 4 else 0)) ++ natLE 1 0 ++ natLE 2 src.2.1
    ++ natLE 4 src.2.2.1 ++ natLE 8 src.2.2.2 ++ natLE 4 r.desc.length ++ natLE 4 (match r.jobKey with
      | some k => k.1
      | none => 0) ++ r.desc

/-- The body of a VSET entry: pairs of ASSET_ID and version. The entry's REQ_SEQ word holds the set's number, for which the body has no
field. -/
def vsetBody (l : List (Nat × Nat)) : List Byte := l.flatMap fun p => natLE 4 p.1 ++ natLE 4 p.2

/-- R384: an accepted request is journalled, a new version set before it; its ADMIT entry waits for the acknowledgement on a paired
module with its link up. -/
def journalAccept (s : State) (k : Nat) (newSet : Bool) : State :=
  match reqOf s k with
  | none => s
  | some r =>
    let s1 := if newSet then (journal s 0x02 r.vset (vsetBody (tget (fun _ => []) s.serve.vsets r.vset))).1
      else s
    let j := journal s1 0x01 r.seq (acceptBody r)
    if j.2.isSome ∧ s.twin.mode = .paired then setReq j.1 k (some { r with
      awaiting := true
      ajseq := j.2 })
    else admitted j.1 r

/-- The request is accepted into boundary `t`. -/
def accept (s : State) (r : Req) (t : Tests) (deferred : Bool) : State :=
  match acquireSet s with
  | none => s
  | some (s1, v, new) =>
    let seq := s1.serve.nextSeq
    let role := s1.twin.role
    let u := boundOf s1 t.at_
    let r1 := { r with
      seq := seq
      role := role
      accept := now s1
      entry := t.at_
      instant := t.instant
      deferred := deferred
      slot := u.used
      vset := v
      seed := seedFor s1 r seq role (now s1)
      lane := r.text }
    let p := takeEntry s1 r1
    let s2 := setBound p.1 t.at_ { u with
      used := u.used + 1
      own := u.own + 1
      ledger := u.ledger + planCost s1 }
    let s3 := expireSeq { s2 with
      serve := { s2.serve with
        nextSeq := nextSeqNo seq } }
    let s4 := bump (placeInputs (setReq s3 p.2.key (some p.2)) p.2.key p.2) (if deferred then Reg.ADMIT_CNT_DEFERRED else Reg.ADMIT_CNT_ON_TIME)
    journalAccept s4 p.2.key new

/-- ADMIT entries whose ACCEPT entries are journalled are written, in the order of acceptance; `all` releases every one (R384). -/
def releaseAdmits (s : State) (all : Bool) : State :=
  let due := (s.front.reqs.filterMap fun p => p.2).filter fun r => r.awaiting && (all || acknowledged s r.ajseq)
  let sorted := due.foldl (fun acc (r : Req) => (acc.takeWhile fun x => decide (x.accept ≤ r.accept)) ++ r :: (acc.dropWhile fun x => decide (x.accept ≤ r.accept))) []
  sorted.foldl (fun s' r =>
    let s1 := admitted (setReq s' r.key (some { r with
      awaiting := false })) r
    if all then bump s1 Reg.TWIN_CNT_UNPROTECTED else s1) s

/-! ## Decisions (R305 to R307) -/

/-- What the examination of a head comes to. -/
inductive Verdict where
  | take (t : Tests) (deferred : Bool)
  | refuse (code planned : Nat)
  | hold
  deriving DecidableEq, Repr

/-- R306, R307: the verdict on a head, and the boundaries examined. -/
def verdict (s : State) (r : Req) : Verdict × List Nat :=
  let t := now s
  let e := entryBoundary s t
  let d := match r.deadline with
    | some x => x
    | none => addBeats r.arrival (reg s Reg.ADMIT_DEADLINE_DEFAULT)
  let ok := resourcesFree s r
  let bs := (List.range (bits (reg s Reg.ADMIT_DEFER_MAX) 7 0 + 1)).map fun j => e + j * (planOf s).period
  let ts := tryBounds ok (testsAt s r d e) bs
  let v : Verdict :=
    match ts.find? fun x => ok && x.slot && x.energy && x.deadline with
    | some x => .take x (decide (x.at_ ≠ e))
    | none =>
      match ts.find? fun x => ok && x.slot && x.energy with
      | some x => .refuse 0x13 x.instant
      | none =>
        if d < addBeats t (frontL s) then .refuse 0x13 0
        else if ts.any fun x => ok && x.slot && !x.energy then .refuse 0x11 0
        else if deficitOf s r.account < 0 then .refuse 0x10 0
        else .hold
  (v, ts.map (·.at_))

/-- A decided request leaves its queue, and V follows its tag. -/
def leaveQueue (s : State) (r : Req) : State :=
  let s1 := setQueue s r.account (queueOf s r.account).tail
  { s1 with
    adm := { s1.adm with
      v := maxTag s1.adm.v r.ftag } }

/-- The decision of this edge is made (R305). -/
def edgeUsed (s : State) : State := { s with
    adm := { s.adm with
      decided := some (now s) } }

/-- Examine heads in order until one is decided. -/
def decideHeads : List Req → State → State
  | [], s => s
  | r :: rs, s =>
    let v := verdict s r
    let s1 := v.2.foldl examined s
    match v.1 with
    | .take t deferred => accept (edgeUsed (leaveQueue s1 r)) r t deferred
    | .refuse c p => refuse (edgeUsed (leaveQueue s1 r)) r c p
    | .hold =>
      let r1 := { r with
        heldTo := frontBoundary s (s.time.beat + 1) }
      decideHeads rs (bump (setQueue s1 r.account (r1 :: (queueOf s r.account).tail)) Reg.ADMIT_CNT_HELD)

/-- The heads to examine: ascending tag, then ascending account; an account held until a later boundary is passed over. -/
def headsInOrder (s : State) : List Req :=
  let hs := s.adm.queues.filterMap fun p => p.2.head?
  (hs.filter fun r => decide (r.heldTo ≤ s.time.beat)).foldl (fun acc (r : Req) =>
    let before (x : Req) : Bool := serialLt 64 x.ftag r.ftag || (decide (x.ftag = r.ftag) && decide (x.account ≤ r.account))
    acc.takeWhile before ++ r :: acc.dropWhile before) []

/-- ADMIT_DECISION (R305): at ck 0, 16, …, 1,488 of a beat, at most one decision an edge; the switches due at the edge come first (R52); none while a reload is pending (R30), no count exists, or the pair state admits
no own request (Table 18.1). -/
def admitDecision (s : State) : State :=
  if s.time.ck % 16 ≠ 0 ∨ 1488 < s.time.ck ∨ s.time.reloadPending ∨ !hasCount s ∨ !isSealed s ∨ s.topo.stage ≠ .ready ∨ !pairAdmits s
      ∨ s.adm.decided = some (now s) then s
  else
    let s1 := dueSwitches s
    decideHeads (headsInOrder s1) s1

/-- ADMIT_DECISION. -/
def execAdmitDecision (s : State) : Out := done (admitDecision s)

/-! ## Drain (R317, R387) -/

/-- Whether anything that a draining module still runs is in flight: front-end requests before their RESULT, and sequences that are
listed on (R317, R480). -/
def draining (s : State) : Bool :=
  s.front.reqs.any fun p =>
    match p.2 with
    | none => false
    | some r => !r.shadow && !r.ended && (!r.resulted || (decide (r.ast ≠ none) && !s.twin.genStop))

/-- R443: the groups that are to be powered down, with their selection units, take new epochs. -/
def bumpPowered (s : State) : State :=
  [0, 1].foldl (fun s' c => ((unitsOf s' c).filter fun i => decide ((unitSt s' c i).mode ≠ .off)).foldl (fun x i => raiseEpoch x c i) s') s

/-- The module enters DRAINED: every core group is powered down. -/
def enterDrained (s : State) : State :=
  let s1 := darkAll { bumpPowered s with
    energy := { s.energy with
      thermal := .drained } }
  setBits s1 Reg.ENERGY_INT_STATUS 8

/-- DRAIN_COMPLETE (R317, R387): a module in STOP, or one that declared FAULT, has ended its last work. -/
def drainComplete (s : State) : State :=
  if (s.energy.thermal = .stop ∨ s.twin.declared ≠ []) ∧ s.energy.thermal ≠ .drained ∧ !draining s then enterDrained s else s

/-- DRAIN_COMPLETE. -/
def execDrainComplete (s : State) : Out := done (drainComplete s)

/-- TELEM_SAMPLE (R310): the hottest die hot-spot temperature, in 1/16 °C. -/
def execTelemSample (t16 : Nat) (s : State) : Out := done (setReg s Reg.ENERGY_TMAX (t16 % 65536))

/-! ## Allowances (R310, R311, R317) -/

/-- f of R310 in Hz. -/
def governorHz (s : State) : Nat := if localIsBeat s.time ∧ reg s Reg.BEAT_FREQ ≠ 0 then reg s Reg.BEAT_FREQ else 1000000

/-- SPLIT of a section. -/
def splitOf (s : State) (i : Nat) : Nat :=
  match s.bond.image with
  | some im => ((im.splits.find? fun p => p.1 = i).map (·.2)).getD 0
  | none => 0

/-- step_allowance (R311); under a drain without a twin, DECODE and PREFILL have the drain allowance (R317, R480). -/
def stepAllowance (s : State) (sect period b : Nat) : Int :=
  if (sectionKind s sect = 7 ∨ sectionKind s sect = 8) ∧ (s.energy.thermal = .stop ∨ s.twin.declared ≠ []) then
    ((bits (reg s Reg.ENERGY_DRAIN_W) 11 0 * period * 2 ^ 20 / governorHz s : Nat) : Int)
  else
    let p := max (planOf s).period 1
    let l := (boundOf s (b / p * p)).ledger
    max 0 (s.energy.aVar - l) * (period : Int) * (splitOf s sect : Int) / ((measureN s : Int) * 65536)

end Sys2Proof.Machine
end

