-- ==== Sys2Proof/Machine/Mailbox.lean ====
section
/-!
DEFINITION. Machine/Mailbox.lean: the 32 mailbox channels (spec/16_host_interface.md, R339 to R342): locks, doorbells and acknowledgements, and the
secure session's framing (R405).
-/
namespace Sys2Proof.Machine

/-- Mailbox channel `c`. -/
def chanOf (s : State) (c : Nat) : Chan := tget (fun _ => Chan.reset) s.host.chans c

/-- Replace mailbox channel `c`. -/
def setChan (s : State) (c : Nat) (x : Chan) : State := { s with
    host := { s.host with
      chans := tset (fun _ => Chan.reset) s.host.chans c x } }

/-- Whether MB_FN of channel `c` grants function `f` (R344: channels 16 to 23 read 1). -/
def chanGrants (s : State) (c f : Nat) : Bool :=
  if c < 16 then bit (reg64 s (Reg.MB_FN c)) f else decide (c < 24 ∧ f = 0)

/-- R339: whether requester `n` (a function's number plus 1) reaches channel `c`. -/
def chanReach (s : State) (c n : Nat) : Bool := decide (1 ≤ n ∧ n ≤ 64) && chanGrants s c (n - 1)

/-- R339: whether MB_FN grants more than one function. -/
def chanShared (s : State) (c : Nat) : Bool := decide (1 < ((List.range 64).filter (chanGrants s c)).length)

/-- R340: whether requester `n` may read and write the areas and ring the doorbell. -/
def chanMay (s : State) (c n : Nat) : Bool := chanReach s c n && (!chanShared s c || decide ((chanOf s c).owner = some n))

/-! ## Locks (R340) -/

/-- What a read of MB_LOCK by requester `n` returns. -/
def lockValue (s : State) (c n : Nat) : Nat :=
  match (chanOf s c).owner with
  | none => 0
  | some m => if m = n then 0 else m

/-- The effect of a read of MB_LOCK by requester `n`. -/
def lockRead (s : State) (c n : Nat) : State :=
  match (chanOf s c).owner with
  | none => setChan s c { chanOf s c with
      owner := some n
      since := now s }
  | some m => if m = n then s else bump s Reg.MB_CNT_LOCK_DENIED

/-- Every release zeroes MB_DATA and MB_RESP. -/
def Chan.released (k : Chan) : Chan := { k with
    owner := none
    data := List.replicate 256 0
    resp := List.replicate 256 0 }

/-- A write of `v` to MB_LOCK by requester `n`. -/
def lockWrite (s : State) (c n v : Nat) : State :=
  if (chanOf s c).owner = some n ∧ v = n then setChan s c (chanOf s c).released else bump s Reg.MB_CNT_BAD_RELEASE

/-- Set MB_ACK of a channel. -/
def setAck (s : State) (c id code : Nat) : State := setReg s (Reg.MB_ACK c) (id % 65536 * 65536 + code)

/-- R340: a pending message at a forced release: abandoned when the Keystone has not started it, else its response will be
discarded. A silent module acknowledges nothing (R386). -/
def dropPending (s : State) (c : Nat) : State :=
  match (chanOf s c).pending with
  | none => s
  | some (_, id, _) =>
    if (chanOf s c).started then setChan s c { chanOf s c with
        lost := true }
    else if s.twin.silent then s
    else setAck (setChan s c { chanOf s c with
        pending := none }) c id 0x0006

/-- R340: a forced release. -/
def forceRelease (s : State) (c : Nat) : State :=
  if (chanOf s c).owner = none then s
  else dropPending (setBits (bump (setChan s c (chanOf s c).released) Reg.MB_CNT_EXPIRED) (Reg.MB_INT_STATUS c) 2) c

/-- R340: whether the lock of a channel has been held for MB_LOCK_TIMEOUT beats. -/
def lockExpired (s : State) (c : Nat) : Bool :=
  decide ((chanOf s c).owner ≠ none) && isDue s (addBeats (chanOf s c).since (bits (reg s Reg.MB_LOCK_TIMEOUT) 23 0))

/-! ## Messages (R341, R342) -/

/-- The Keystone acknowledges a channel's message: MB_RESP, MB_ACK, DONE, PENDING, ACK. A message whose owner lost the lock reads
LOCK_LOST, its response discarded. A silent module acknowledges nothing (R386). -/
def ackRaw (s : State) (c code : Nat) (resp : List Byte) : State :=
  match (chanOf s c).pending with
  | none => s
  | some (_, id, _) =>
    if s.twin.silent then s
    else
      let k := chanOf s c
      let r := if k.lost then [] else resp.take 256
      let s1 := setChan s c { k with
        pending := none
        started := false
        lost := false
        done := true
        since := now s
        respLen := r.length
        resp := r ++ k.resp.drop r.length }
      setBits (setAck s1 c id (if k.lost then 0x0006 else code)) (Reg.MB_INT_STATUS c) 1

/-- The nonce of R405: counter, channel, direction. -/
def sessNonce (ctr c dir : Nat) : List Byte := natLE 4 ctr ++ natLE 1 c ++ natLE 1 dir ++ List.replicate 6 0

/-- Whether a channel's messages go under the session: a secure channel of an OPEN session. -/
def underSession (s : State) (c : Nat) : Bool := decide (16 ≤ c) && decide (s.sec.session.mode = .opened)

/-- Replace the session. -/
def setSession (s : State) (x : Session) : State := { s with
    sec := { s.sec with
      session := x } }

/-- The session closes (R342, R405). -/
def closeSession (s : State) : State := setSession s Session.reset

/-- Acknowledge a message with its response, sealed under an OPEN session on a secure channel (R405). -/
def ackChan (s : State) (c code : Nat) (resp : List Byte) : State :=
  if underSession s c then
    let x := s.sec.session
    let body := natLE 4 x.ctrOut ++ gcmSeal x.keyOut (sessNonce x.ctrOut c 1) [] resp
    ackRaw (setSession s { x with
      ctrOut := x.ctrOut + 1 }) c code body
  else ackRaw s c code resp

/-- R405: the message of a channel in clear, or none when its CTR is not the next one or its tag fails. -/
def messageOf (s : State) (c len : Nat) : Option (List Byte) :=
  let m := (chanOf s c).data.take len
  if underSession s c then
    let x := s.sec.session
    if le m 0 4 = x.ctrIn % 2 ^ 32 ∧ 20 ≤ len then gcmOpen x.keyIn (sessNonce x.ctrIn c 0) [] (m.drop 4) else none
  else some m

/-- R405: a session message is refused: the session closes. -/
def refuseSession (s : State) (c : Nat) : State :=
  ackRaw (setBits (bump (closeSession s) Reg.SEC_CNT_AUTH_FAIL) Reg.SEC_INT_STATUS 1) c 0x0005 []

/-- The commands of Table 19.2 that a channel accepts. -/
def definedOn (s : State) (c code : Nat) : Bool :=
  if c < 16 then [0x0111, 0x0201, 0x0202].contains code
  else if underSession s c then [0x0103, 0x0111, 0x0120, 0x0121, 0x0130, 0x0131, 0x0140].contains code
  else decide (c = 16) && [0x0101, 0x0102].contains code

/-- A message that was read: on a secure channel its CTR is used up (R405). -/
def readMessage (s : State) (c : Nat) : State :=
  if underSession s c then setSession s { s.sec.session with
      ctrIn := s.sec.session.ctrIn + 1 }
  else s

/-- The channel whose message the Keystone takes next: the lowest with a message pending and not started (R341). -/
def nextChannel (s : State) : Option Nat := (List.range 24).find? fun c => decide ((chanOf s c).pending ≠ none) && !(chanOf s c).started

/-- The Keystone takes the pending message of the next channel, where its command code is `code`, and does `act` with it; a message that fails
the session's checks closes the session, and one of LEN 0, 1 or above 256 is acknowledged BAD_LENGTH. -/
def takeMessage (s : State) (c code : Nat) (act : State → Nat → State) : State :=
  match (chanOf s c).pending with
  | none => s
  | some (len, _, n) =>
    if nextChannel s ≠ some c ∨ s.twin.silent then s
    else if len < 2 ∨ 256 < len then ackRaw s c 0x0003 []
    else
      match messageOf s c len with
      | none => refuseSession s c
      | some m => if le m 0 2 = code ∧ definedOn s c code then act (readMessage s c) n else s

/-- A doorbell write of requester `n` (R340, R341, R342). -/
def doorbell (s : State) (c n len id : Nat) : State :=
  if !chanMay s c n ∨ s.twin.silent then s
  else if (chanOf s c).pending ≠ none then bump s Reg.MB_CNT_BUSY
  else
    let s1 := setAck (setChan s c { chanOf s c with
      pending := some (len, id % 65536, n)
      rung := now s
      started := false
      lost := false
      done := false
      respLen := 0
      since := now s }) c 0 0
    let cmd := le (chanOf s c).data 0 2
    if 16 ≤ c ∧ s.sec.session.mode ≠ .opened ∧ !(c = 16 ∧ (cmd = 0x0101 ∨ cmd = 0x0102)) then ackRaw s1 c 0x0005 [] else s1

/-- MB_LOCK_READ. -/
def execMbLockRead (c n : Nat) (s : State) : Out :=
  if 24 ≤ c ∧ hostReaches s (Reg.MB_LOCK c) then
    done (emit (protocol s 0x0002 (Reg.MB_LOCK c) n) (.readData (Reg.MB_LOCK c) 4 0))
  else if chanReach s c n ∧ hostReaches s (Reg.MB_LOCK c) ∧ !s.twin.silent then
    done (emit (lockRead s c n) (.readData (Reg.MB_LOCK c) 4 (lockValue s c n)))
  else done (emit s (.readData (Reg.MB_LOCK c) 4 0))

/-- MB_LOCK_RELEASE. -/
def execMbLockRelease (c n v : Nat) (s : State) : Out :=
  host s (Reg.MB_LOCK c) fun s =>
    if 24 ≤ c then protocol s 0x0002 (Reg.MB_LOCK c) n else if chanReach s c n ∧ !s.twin.silent then lockWrite s c n v else s

/-- LOCK_EXPIRED. -/
def execLockExpired (c : Nat) (s : State) : Out := done (if lockExpired s c then forceRelease s c else s)

/-- MB_DOORBELL. -/
def execMbDoorbell (c n len id : Nat) (s : State) : Out := host s (Reg.MB_DOORBELL c) fun s =>
    if 24 ≤ c then protocol s 0x0002 (Reg.MB_DOORBELL c) n else doorbell s c n len id

end Sys2Proof.Machine
end

