-- ==== Sys2Proof/Machine/Submit.lean ====
section
/-!
DEFINITION. Machine/Submit.lean: submissions of queue pairs and of pod clients (R325 to R328, R338, R357, R413, R414, R417) and the
completion instant (R16, R266, R331).
-/
namespace Sys2Proof.Machine

/-! ## Submission entries (Table 16.3) -/

/-- OPCODE. -/
def subOpcode (e : List Byte) : Nat := le e 4 1
/-- HSN. -/
def subHsn (e : List Byte) : Nat := le e 0 4
/-- HOST_TAG. -/
def subTag (e : List Byte) : Nat := le e 8 8
/-- PROTECTED. -/
def subProtected (e : List Byte) : Bool := bit (le e 5 1) 1
/-- DESC_ADDR. -/
def subAddr (e : List Byte) : Nat := le e 16 8
/-- DESC_LEN. -/
def subLen (e : List Byte) : Nat := le e 24 4
/-- RESULT_LEN. -/
def subResultLen (e : List Byte) : Nat := le e 28 4
/-- RESULT_ADDR. -/
def subResultAddr (e : List Byte) : Nat := le e 32 8

/-- Check 0x01 (Table 16.5): OPCODE defined, reserved bits zero. -/
def subOpcodeGood (e : List Byte) : Bool :=
  decide (subOpcode e ≤ 2) && decide (le e 5 1 / 4 = 0) && decide (le e 6 2 = 0) && decide (le e 52 1 / 2 = 0) && decide (le e 53 11 = 0)

/-- A failed check: its code of Table 16.5 and DESC_OFFSET. -/
abbrev Fail := Nat × Nat

/-- DESC_OFFSET where no field of the descriptor fails. -/
def noField : Nat := 0xFFFFFFFF

/-! ## Host windows (R417) -/

/-- Whether function `f`'s windows are enforced. -/
def enforced (s : State) (f : Nat) : Bool := bit (reg64 s Reg.SEC_WIN_CTRL) f

/-- A window of a function; by default BASE and LIMIT are 0. -/
def windowOf (s : State) (f i : Nat) : Nat × Nat := tget (fun _ => (0, 0)) s.sec.windows (4 * f + i)

/-- Whether `n` bytes from `a` lie wholly in one window of the function. -/
def inWindow (s : State) (f a n : Nat) : Bool :=
  (List.range 4).any fun i =>
    let w := windowOf s f i
    decide (w.1 ≤ w.2 ∧ w.1 ≤ a ∧ a + n ≤ w.2 + 1)

/-- Whether a host range of a function is allowed. -/
def rangeAllowed (s : State) (f a n : Nat) : Bool := !enforced s f || inWindow s f a n

/-! ## Job keys (R412, R413) -/

/-- The source number of a requester: a function, or 2^16 plus a PEER. -/
def Origin.source : Origin → Nat
  | .host f _ _ _ _ _ => f
  | .pod n i _ _ => 65536 + 256 * n + i

/-- Where the nonce and the sequence limits of a requester are counted: its queue pair, or its PEER (Table 19.6). -/
def Origin.place : Origin → Nat
  | .host _ q _ _ _ _ => q
  | .pod n i _ _ => 256 * n + i

/-- Whether the origin is a pod client. -/
def Origin.isPod : Origin → Bool
  | .host _ _ _ _ _ _ => false
  | .pod _ _ _ _ => true

/-- The open job key of a handle. -/
def jobKeyOf (s : State) (h : Nat) : Option JobKey :=
  match tget (fun _ => none) s.sec.jobKeys (bits h 13 0) with
  | some k => if k.handle = h ∧ h ≠ 0 then some k else none
  | none => none

/-- R413: the key a PROTECTED submission may use. -/
def usableKey (s : State) (o : Origin) (h : Nat) : Option JobKey :=
  match jobKeyOf s h with
  | none => none
  | some k =>
    if k.source ≠ o.source ∨ 2 ^ 31 ≤ advanced s.serve.nextSeq k.seqAt ∨ k.expiredAt (if o.isPod then 0 else o.place) o.hsn then none else some k

/-- R414: the plaintext of a protected descriptor. -/
def openDesc (k : JobKey) (o : Origin) (e d : List Byte) : Option (List Byte) :=
  gcmOpen k.key (jobNonce o.hsn o.place 0x01 (if o.isPod then 1 else 0)) (e.take 16 ++ slice e 40 12) d

/-! ## The descriptor (R327) -/

/-- Parts of a descriptor: (offset field, bytes of the part). -/
def descParts (d : List Byte) : List (Nat × Nat) :=
  [(16, le d 12 4 * (if bit (le d 4 1) 0 then 4 else 1)), (24, le d 20 4), (28, 8 * le d 5 1), (32, 32), (36, 16), (40, 560), (44, 32)]

/-- R327: the first offset field that breaks alignment, range or overlap; `seen` are the parts before it. -/
def badPart (d : List Byte) (n : Nat) : List (Nat × Nat) → List (Nat × Nat) → Option Nat
  | _, [] => none
  | seen, p :: ps =>
    let o := le d p.1 4
    if o = 0 then (if p.1 < 32 ∧ 0 < p.2 then some p.1 else badPart d n seen ps)
    else if o % 16 ≠ 0 ∨ o < 64 ∨ n < o + p.2 ∨ (seen.any fun q => decide (o < q.1 + q.2 ∧ q.1 < o + p.2)) then some p.1
    else badPart d n ((o, p.2) :: seen) ps

/-- Whether the plan holds PACK (R49). -/
def planPacks (s : State) : Bool :=
  (planOf s).steps.any fun p =>
    match sectionOf s p.1 with
    | some x => decide (x.kind = 6)
    | none => false

/-- SELECT_SHARD: SHARD_ID of the current INDEX version. -/
def selectShard (s : State) : Nat :=
  match currentIndex s with
  | some x => x.shard
  | none => 0

/-- Table 13.5. -/
def packBlkOf (b : List Byte) : PackBlk :=
  { rrN := le b 0 1, npack := le b 1 1, template := le b 2 2, budget := le b 4 2, dest := bits (le b 6 1) 1 0, peer := le b 8 2 }

/-- Table 09.4. -/
def searchBlkOf (b : List Byte) : SearchBlk :=
  { k := le b 0 2, np1 := le b 2 2, np2 := le b 4 2, tt := le b 6 2, filters := (List.range 4).map fun i => le b (8 + 2 * i) 2 }

/-- Table 14.2. -/
def serveBlkOf (b : List Byte) : ServeBlk :=
  { mode := bits (le b 0 1) 1 0, topK := bits (le b 1 1) 6 0, pinDepth := le b 2 2, temperature := le b 4 4, topP := le b 8 4,
    maxNew := le b 12 4, seed := le b 16 8 }

/-- Check 0x03 on a plaintext descriptor: the offset of the first field that fails. -/
def descFormat (s : State) (d : List Byte) : Option Nat :=
  let dest := if le d 36 4 = 0 then none else some (packBlkOf (slice d (le d 36 4) 16)).dest
  let gens := decide (dest = some 1)
  if le d 0 4 ≠ 0x5EB00001 then some 0
  else if le d 8 2 = 0 then some 8
  else if le d 8 2 = 1 ∧ le d 6 2 ≠ selectShard s then some 6
  else
    match badPart d d.length [] (descParts d) with
    | some o => some o
    | none =>
      if le d 32 4 = 0 then some 32
      else if decide (le d 36 4 ≠ 0) ≠ planPacks s then some 36
      else if decide (le d 40 4 ≠ 0) ≠ gens then some 40
      else if decide (le d 44 4 ≠ 0) ≠ gens then some 44
      else none

/-! ## Blocks (R178, R238, R263, R273) -/

/-- VOCAB_SIZE of the current version of the VOCAB bound to the sections of a KIND: EMBED (1) for the input's tokens, DECODE (8) for the
generator's; none without one. -/
def currentVocab (s : State) (kind : Nat) : Option Nat := (boundAsset s kind 4).map fun a => assetNat s a (currentVer s a) 4 4

/-- R178: the offset in the search block that fails. -/
def searchBad (s : State) (b : List Byte) : Option Nat :=
  let v := searchBlkOf b
  match currentIndex s with
  | none => some 0
  | some x =>
    if v.k = 0 ∨ min x.candMax 4096 < v.k then some 0
    else if v.np1 = 0 ∨ v.np2 < v.np1 then some 2
    else if v.np2 = 0 ∨ x.nprobeMax < v.np2 then some 4
    else
      match v.filters.findIdx? fun f =>
        decide (f ≠ 0xFFFF) && !(decide (kindOf s f = some 10) && decide (assetNat s f (currentVer s f) 0 2 = x.asset)) with
      | some i => some (8 + 2 * i)
      | none => if le b 16 16 = 0 then none else some 16

/-- R263: the offset in the pack block that fails. -/
def packBad (s : State) (k : Nat) (b : List Byte) : Option Nat :=
  let p := packBlkOf b
  if p.rrN = 0 ∨ 64 < p.rrN ∨ k < p.rrN then some 0
  else if 64 < p.npack then some 1
  else if kindOf s p.template ≠ some 9 then some 2
  else if p.budget < assetNat s p.template (currentVer s p.template) 8 2 then some 4
  else if (p.dest = 1 ∨ p.dest = 3) ∧ !hasKind s 7 then some 6
  else if 2 ≤ p.dest ∧ 0x3FF < p.peer then some 8
  else none

/-- R238: the offset in the generation text block that fails. -/
def genBad (s : State) (g : List Byte) : Option Nat :=
  let voc := currentVocab s 8
  if 8 < gtNstop g then some 3
  else if 8 < gtNstopTok g then some 4
  else
    match (List.range (gtNstop g)).find? fun i => decide (le g (40 + i) 1 = 0) || decide (64 < le g (40 + i) 1) with
    | some i => some (40 + i)
    | none =>
      match (gtStops g).findIdx? fun x => !utf8Good x with
      | some i => some (48 + 64 * i)
      | none =>
        match (gtStopToks g).findIdx? fun t =>
          match voc with
          | some n => decide (n ≤ t)
          | none => false with
        | some i => some (8 + 4 * i)
        | none =>
          let a := gtGrammar g
          if a = 0xFFFF then none
          else if kindOf s a ≠ some 5 then some 0
          else if assetNat s a (currentVer s a) 8 1 ≤ gtEntry g then some 2
          else none

/-- Whether an FP32 value lies between two rationals, the lower one excluded where `open_` is set. -/
def between (c ln ld hn hd : Nat) (open_ : Bool) : Bool :=
  match f32 c with
  | .fin false n d => (if open_ then decide (ln * d < n * ld) else decide (ln * d ≤ n * ld)) && decide (n * hd ≤ hn * d)
  | _ => false

/-- R273: the offset in the serve block that fails. -/
def serveBad (s : State) (budget : Nat) (b : List Byte) : Option Nat :=
  let v := serveBlkOf b
  if v.mode ≠ 0 ∧ !between v.temperature 1 16 16 1 false then some 4
  else if 2 ≤ v.mode ∧ (v.topK = 0 ∨ 64 < v.topK) then some 1
  else if v.mode = 3 ∧ !between v.topP 0 1 1 1 true then some 8
  else if v.maxNew = 0 ∨ 8192 < v.maxNew ∨ (kvOf s).ctxMax < budget + v.maxNew then some 12
  else if le b 24 8 ≠ 0 then some 24
  else none

/-- Check 0x07 over the blocks in the order of the header's offsets. -/
def blocksBad (s : State) (d : List Byte) : Option Nat :=
  let at_ (f n : Nat) (chk : List Byte → Option Nat) : Option Nat :=
    let o := le d f 4
    if o = 0 then none else (chk (slice d o n)).map (o + ·)
  let sb := searchBlkOf (slice d (le d 32 4) 32)
  let budget := (packBlkOf (slice d (le d 36 4) 16)).budget
  match at_ 32 32 (searchBad s), at_ 36 16 (packBad s sb.k), at_ 40 560 (genBad s), at_ 44 32 (serveBad s budget) with
  | some o, _, _, _ => some o
  | none, some o, _, _ => some o
  | none, none, some o, _ => some o
  | none, none, none, o => o

/-- RESULT_MIN (R331, R414). -/
def resultMin (k : Nat) (p : Option PackBlk) (tagged : Bool) : Nat :=
  let part (n : Nat) : Nat := (n + (if tagged then 16 else 0) + 15) / 16 * 16
  32 + part (64 + 16 * k) + (match p with
    | none => 0
    | some p => part (64 + 16 * p.rrN) + part (32 + 32 * p.npack) + (if p.dest = 0 then part (4 * p.budget) else 0))

/-! ## From a descriptor to a request -/

/-- The input tokens of a TOKENS request. -/
def descTokens (d : List Byte) : List Nat := (List.range (le d 12 4)).map fun i => le d (le d 16 4 + 4 * i) 4

/-- Checks 0x05 to 0x08 on a plaintext descriptor. -/
def contentFail (s : State) (e d : List Byte) : Option Fail :=
  let n := le d 12 4
  let pk := if le d 36 4 = 0 then none else some (packBlkOf (slice d (le d 36 4) 16))
  if n = 0 ∨ 4096 < n then some (0x05, 12)
  else
    match (if bit (le d 4 1) 0 then (descTokens d).findIdx? fun t =>
        match currentVocab s 1 with
        | some v => decide (v ≤ t)
        | none => false
      else none) with
    | some i => some (0x05, le d 16 4 + 4 * i)
    | none =>
      if le d 20 4 ≠ (planOf s).inImageLen then some (0x06, 20)
      else if le d 5 1 ≠ (planOf s).inKeys then some (0x06, 5)
      else
        match blocksBad s d with
        | some o => some (0x07, o)
        | none =>
          if subResultLen e < resultMin (searchBlkOf (slice d (le d 32 4) 32)).k pk (subProtected e) then some (0x08, noField) else none

/-- The request that a checked descriptor describes. -/
def requestOf (s : State) (o : Origin) (account : Nat) (key : Option (Nat × List Byte)) (e raw d : List Byte) : Req :=
  let block (f n : Nat) : List Byte := if le d f 4 = 0 then [] else slice d (le d f 4) n
  { Req.blank with
    account := account
    origin := o
    jobKey := key
    desc := raw
    arrival := now s
    deadline := if le e 40 8 = 0 then none else some (le e 40 8)
    strict := bit (le e 5 1) 0
    text := !bit (le d 4 1) 0
    input := if bit (le d 4 1) 0 then [] else slice d (le d 16 4) (le d 12 4)
    tokens := if bit (le d 4 1) 0 then descTokens d else []
    image := slice d (le d 24 4) (le d 20 4)
    keys := (List.range (le d 5 1)).map fun i => le d (le d 28 4 + 8 * i) 8
    rootShard := le d 6 2
    shardCount := le d 8 2
    search := searchBlkOf (block 32 32)
    pack := if le d 36 4 = 0 then none else some (packBlkOf (block 36 16))
    genText := block 40 560
    serve := if le d 44 4 = 0 then none else some (serveBlkOf (block 44 32)) }

/-- R328: the checks of a QUERY after its fetch, in their order: the request, or the first failure. -/
def checkQuery (s : State) (o : Origin) (account : Nat) (e raw : List Byte) : Req ⊕ Fail :=
  let n := subLen e
  let room := if subProtected e then 80 else 64
  let aligned := o.isPod || (decide (subAddr e % 16 = 0) && decide (subResultAddr e % 16 = 0))
  if n < room ∨ 2097152 < n ∨ !aligned ∨ raw.length ≠ n then .inr (0x03, noField)
  else
    let opened : Option (Option (Nat × List Byte) × List Byte) :=
      if subProtected e then
        match usableKey s o (le e 48 4) with
        | none => none
        | some k => (openDesc k o e raw).map fun d => (some (k.handle, k.key), d)
      else some (none, raw)
    match opened with
    | none => .inr (0x04, noField)
    | some p =>
      match descFormat s p.2 with
      | some f => .inr (0x03, f)
      | none =>
        match contentFail s e p.2 with
        | some f => .inr f
        | none => .inl (requestOf s o account p.1 e raw p.2)

/-- The MALFORMED completion (Table 16.7). -/
def malformed (s : State) (o : Origin) (f : Fail) : State :=
  answer s o 0x04 0xFFFFFFFF (natLE 8 o.tag ++ natLE 1 f.1 ++ natLE 3 0 ++ natLE 4 f.2)

/-- What a malformed submission counts beside its completion: R413's failures. -/
def countFail (s : State) (f : Fail) : State := if f.1 = 0x04 then bump s Reg.SEC_CNT_JOB_FAIL else s

/-- A CANCEL submission (R296, R338): targets that the source itself submitted. -/
def cancelSub (s : State) (o : Origin) (own : Req → Bool) (e : List Byte) : State :=
  let seq := le e 48 4
  let role := bit (le e 52 1) 0
  let c := cancelCheck' s (reqKey seq role) own
  if c ≠ 0 then cancelEntry s o c seq
  else
    let r := cancelRun s seq role
    match r.2 with
    | none => cancelEntry r.1 o 0 seq
    | some j => setCancels r.1 (r.1.serve.cancels ++ [{ jseq := j, origin := some o, code := 0, target := seq }])

/-! ## Submissions of queue pairs (R326, R328) -/

/-- Whether the pair has an entry to examine: running, its link up, its ring not empty. -/
def pairReady (s : State) (q : Nat) : Bool :=
  let p := pairOf s q
  qEnabled s q && !p.gap && s.host.linkUp && decide (p.sqHead ≠ p.sqTail)

/-- The head of the submission ring advances. -/
def headOn (s : State) (q : Nat) : State := setPair s q { pairOf s q with
    sqHead := ((pairOf s q).sqHead + 1) % sqSize s q }

/-- R326: the entry at the head is taken, discarded, or stops the pair; `f` is what a taken entry does. A job key of the function that expires at its
HSN is erased (R413). -/
def takeSubmission (s : State) (q : Nat) (e : List Byte) (f : State → State) : State :=
  let x := subHsn e
  let n := (pairOf s q).hsnNext
  if x = n then
    let s1 := headOn s q
    expireSource (f (setPair s1 q { pairOf s1 q with
      hsnNext := (n + 1) % 2 ^ 32
      hsnLast := x })) (qFn s q) q x
  else if serialLt 32 x n then bump (headOn s q) (Reg.Q_CNT_DUP q)
  else if serialLt 32 n x then
    setBits (setPair s q { pairOf s q with
      gap := true }) (Reg.Q_INT_STATUS q) 4
  else bump (headOn s q) (Reg.Q_CNT_OOW q)

/-- The requester of a submission. -/
def hostOrigin (s : State) (q : Nat) (e : List Byte) : Origin :=
  .host (qFn s q) q (subHsn e) (subTag e) (subResultAddr e) (subResultLen e)

/-- A malformed submission of a pair: one MALFORMED completion, counted (R328). -/
def hostMalformed (s : State) (q : Nat) (o : Origin) (f : Fail) : State :=
  malformed (setBits (bump (countFail s f) (Reg.Q_CNT_MALFORMED q)) (Reg.Q_INT_STATUS q) 1) o f

/-- SUBMIT_QUERY: a taken QUERY is checked and presented to admission. `ok`: every read of the descriptor completed. -/
def submitQuery (s : State) (q : Nat) (e d : List Byte) (ok : Bool) : State :=
  let o := hostOrigin s q e
  if !subOpcodeGood e then hostMalformed s q o (0x01, noField)
  else if !rangeAllowed s (qFn s q) (subAddr e) (subLen e) ∨ !rangeAllowed s (qFn s q) (subResultAddr e) (subResultLen e) then
    hostMalformed (bump s Reg.SEC_CNT_WIN) q o (0x02, noField)
  else if !ok then hostMalformed (bump s Reg.HQ_CNT_FETCH_ERR) q o (0x02, noField)
  else
    match checkQuery s o (qAccount s q) e d with
    | .inl r => arrive s r
    | .inr f => hostMalformed s q o f

/-- SUBMIT_QUERY (R328): an entry with OPCODE QUERY, or one that Table 16.3 does not define. -/
def execSubmitQuery (q : Nat) (e d : List Byte) (ok : Bool) (s : State) : Out :=
  if !pairReady s q ∨ subOpcode e = 0 ∨ subOpcode e = 2 then done s
  else doneHost (takeSubmission s q e fun s' => submitQuery s' q e d ok)

/-- SUBMIT_NOP: a NOP is answered when it is taken. -/
def execSubmitNop (q : Nat) (e : List Byte) (s : State) : Out :=
  if !pairReady s q ∨ subOpcode e ≠ 0 then done s
  else doneHost (takeSubmission s q e fun s' =>
    let o := hostOrigin s' q e
    if subOpcodeGood e then answer s' o 0x06 0xFFFFFFFF (natLE 8 o.tag) else hostMalformed s' q o (0x01, noField))

/-- Whether a request was taken through a pair of function `f`. -/
def ofFunction (f : Nat) (r : Req) : Bool :=
  match r.origin with
  | .host g _ _ _ _ _ => decide (g = f)
  | .pod _ _ _ _ => false

/-- SUBMIT_CANCEL (R338). -/
def execSubmitCancel (q : Nat) (e : List Byte) (s : State) : Out :=
  if !pairReady s q ∨ subOpcode e ≠ 2 then done s
  else doneHost (takeSubmission s q e fun s' =>
    let o := hostOrigin s' q e
    if subOpcodeGood e then cancelSub s' o (ofFunction (qFn s' q)) e else hostMalformed s' q o (0x01, noField))

/-! ## Submissions of pod clients (R357) -/

/-- R357: FETCH fails for a REQUEST of a client that R351 discards. Its HOST_TAG stood in a part that never came: a free value. -/
def lostMessage (s : State) (n i ty msg : Nat) : State :=
  if ty = 0x01 ∧ (peerOf s n i).client then malformed (tick s) (.pod n i msg (Config.free s.fresh % 2 ^ 64)) (0x02, noField) else s

/-- REQUEST (R357): its entry and descriptor are checked as a host submission is. -/
def podRequest (s : State) (n : Nat) (f : RxFrame) : State :=
  match receive s n f with
  | .message s1 i 0x01 msg body =>
    let p := peerOf s1 n i
    if !p.client then bump s1 (Reg.POD_CNT_UNKNOWN_PEER n)
    else
      let e := body.take 64
      let o := Origin.pod n i msg (subTag e)
      if !subOpcodeGood e ∨ subOpcode e ≠ 1 then malformed s1 o (0x01, noField)
      else
        match checkQuery s1 o p.account e (body.drop 64) with
        | .inl r => arrive s1 r
        | .inr x => malformed (countFail s1 x) o x
  | .lost s1 i 0x01 msg => lostMessage s1 n i 0x01 msg
  | _ => s

/-- Whether a request came from peer `i` of port `n`. -/
def ofPeer (n i : Nat) (r : Req) : Bool :=
  match r.origin with
  | .host _ _ _ _ _ _ => false
  | .pod a b _ _ => decide (a = n ∧ b = i)

/-- CANCEL (R357): as R338, with the peer in place of the function. -/
def podCancel (s : State) (n : Nat) (f : RxFrame) : State :=
  match receive s n f with
  | .message s1 i 0x02 msg body =>
    if !(peerOf s1 n i).client then bump s1 (Reg.POD_CNT_UNKNOWN_PEER n)
    else
      let e := body.take 64
      let o := Origin.pod n i msg (subTag e)
      if subOpcodeGood e ∧ subOpcode e = 2 then cancelSub s1 o (ofPeer n i) e else malformed s1 o (0x01, noField)
  | _ => s

/-- POD_FRAME_DROP (R359): the frame is dropped at a stage, or ends a message that is discarded (R351). -/
def frameDrop (s : State) (n : Nat) (f : RxFrame) : State :=
  match receive s n f with
  | .dropped s1 => s1
  | .lost s1 i ty msg => lostMessage s1 n i ty msg
  | _ => s

/-- POD_FRAME_DROP. -/
def execPodFrameDrop (n : Nat) (f : RxFrame) (s : State) : Out := done (frameDrop s n f)
/-- POD_REQUEST. -/
def execPodRequest (n : Nat) (f : RxFrame) (s : State) : Out := done (podRequest s n f)
/-- POD_CANCEL. -/
def execPodCancel (n : Nat) (f : RxFrame) (s : State) : Out := done (podCancel s n f)

/-! ## The completion instant (R16, R266) -/

/-- The re-ranked selection of a request whose RERANK or SELECT steps did not get to it. -/
def rerankLate (s : State) (r : Req) : State :=
  match reqOf (fetchEnd s r true) r.key with
  | some r1 => rerankSelect (fetchEnd s r true) r1
  | none => s

/-- What a front-end request has by its instant: a selection, a re-ranked selection and a prompt, with what its sections left undone
marked as short (R17, R267). Only the root of a sharded query has selections (R203, R259). -/
def completeFront (s : State) (k : Nat) : State :=
  let s1 := match reqOf s k with
    | some r =>
      if r.first.isSome ∨ !isRoot s r then s
      else
        let empty := r.textMalformed || r.textTooLong || r.textLate
        finishSearch s k { r with
          short := r.short || !empty }
    | none => s
  let s2 := match reqOf s1 k with
    | some r => if r.pack.isSome ∧ r.rerank.isNone ∧ isRoot s r then rerankLate s1 r else s1
    | none => s1
  packReq s2 k false

/-- The parts of a request's result buffer (R331). -/
def resultParts (s : State) (r : Req) : List (List Byte) :=
  let root := isRoot s r
  let search := match r.first with
    | some f => if root then searchRecord s r f else []
    | none => []
  match r.pack with
  | none => [search, [], [], []]
  | some p =>
    [search, (match r.rerank with
      | some f => if root then rerankRecord s r f else []
      | none => []), r.prov, if p.dest = 0 then r.prompt.flatMap (natLE 4) else []]

/-- The result leaves and the request is handed off according to DEST (R266, R331, R384); a sequence taken over is replayed (R389, step 4). -/
def releaseResult (s : State) (k : Nat) (r : Req) : State :=
  let s1 := sendResult s r (resultParts s r)
  let s2 := (journalFor s1 r.role 0x08 r.seq (natLE 8 r.instant)).1
  let s3 := setReq s2 k (some { r with
    resulted := true })
  match r.pack, r.ast with
  | some p, some e =>
    if p.dest = 1 then (if r.adopted then replaySeq s3 e r.prompt else enterPrefill s3 e r.prompt)
    else if p.dest = 3 then enterPrefill (sendPrompt s3 r) e r.prompt
    else endReq s3 k
  | some p, none => endReq (if p.dest = 2 then sendPrompt s3 r else s3) k
  | none, _ => endReq s3 k

/-- COMPLETION_INSTANT (R16): a request whose instant has come. A shadow holds what it has (R384). -/
def completionInstant (s : State) (k : Nat) : State :=
  match reqOf s k with
  | none => s
  | some r =>
    if (r.resulted ∧ !r.shadow) ∨ r.ended ∨ !isDue s r.instant then s
    else
      let s1 := completeFront s k
      match reqOf s1 k with
      | none => s1
      | some r1 => if r1.shadow then s1 else releaseResult s1 k r1

/-- COMPLETION_INSTANT. -/
def execCompletionInstant (k : Nat) (s : State) : Out := done (completionInstant s k)

end Sys2Proof.Machine
end

