-- ==== Sys2Proof/Machine/HostPort.lean ====
section
/-!
DEFINITION. Machine/HostPort.lean: commands of the host port that reach queue pairs and mailboxes together (spec/16_host_interface.md): enabling a pair
within the tenant windows (R417), the commands after which held entries follow, and the resets of the port (R337).
-/
namespace Sys2Proof.Machine

/-- R417: whether both rings of a pair lie within a window of its function. -/
def ringsAllowed (s : State) (q : Nat) : Bool :=
  rangeAllowed s (qFn s q) (reg64 s (Reg.Q_SQ_BASE q)) (64 * sqSize s q) &&
    rangeAllowed s (qFn s q) (reg64 s (Reg.Q_CQ_BASE q)) (64 * cqSize s q)

/-- ENABLE or disable a pair (R323, R336, R417), before held entries follow. Clearing ENABLE ends STOPPED_GAP. -/
def enablePair (s : State) (q : Nat) (on : Bool) : State :=
  if on then
    if !qBound s q then protocol s 0x0007 (Reg.Q_CTRL q) 1
    else if !ringsAllowed s q then protocol (bump s Reg.SEC_CNT_WIN) 0x0008 (Reg.Q_CTRL q) (qFn s q + 1)
    else putBit s (Reg.Q_CTRL q) 0 true
  else setPair (putBit s (Reg.Q_CTRL q) 0 false) q { pairOf s q with
    gap := false }

/-- Q_CTRL.ENABLE. -/
def qEnable (s : State) (q : Nat) (on : Bool) : State := flushAll (enablePair s q on) q

/-- The pair whose doorbell page is page `k` of BAR2 of function `f` (R321): the physical function has every pair's, a virtual function those of
the pairs bound to it. -/
def doorbellPair (s : State) (f k : Nat) : Option Nat := if f = 0 then some k else (boundPairs s f)[k]?

/-- A doorbell write of function `f` to page `k`; outside its pages a virtual function's is ignored and logged (R321). -/
def ring (s : State) (f k off : Nat) (act : Nat → State) : State :=
  match doorbellPair s f k with
  | none => protocol s 0x0004 (4096 * k + off) (f + 1)
  | some q => act q

/-- A host write after which records that were held may have left. -/
def hostFlush (s : State) (off : Nat) (f : State → State) : Out := if hostReaches s off then doneHost (f s) else done s

/-- SQ_DOORBELL. -/
def execSqDoorbell (p : Page) (v : Nat) (s : State) : Out :=
  host s (Reg.Q_CTRL 0) fun s => ring s p.fn p.number 0 fun q => sqDoorbell s q v (p.fn + 1)
/-- CQ_HEAD_DOORBELL. -/
def execCqHeadDoorbell (p : Page) (v : Nat) (s : State) : Out :=
  hostFlush s (Reg.Q_CTRL 0) fun s => ring s p.fn p.number 4 fun q => cqDoorbell s q v (p.fn + 1)
/-- Q_ENABLE. -/
def execQEnable (q : Nat) (on : Bool) (s : State) : Out := hostFlush s (Reg.Q_CTRL q) fun s => qEnable s q on
/-- Q_RESYNC. -/
def execQResync (q : Nat) (s : State) : Out := hostFlush s (Reg.Q_CTRL q) fun s => qResync s q
/-- Q_REPLAY_FROM. -/
def execQReplayFrom (q d : Nat) (s : State) : Out := hostFlush s (Reg.Q_REPLAY_FROM q) fun s => qReplay s q d
/-- REPLAY_COMPLETE. -/
def execReplayComplete (q : Nat) (s : State) : Out := doneHost (replayComplete s q)

/-! ## Resets of the port (R337) -/

/-- A pair of a reset function: ENABLE clears, and submissions not yet taken are dropped. -/
def resetPair (s : State) (q : Nat) : State :=
  let s1 := putBit s (Reg.Q_CTRL q) 0 false
  setPair s1 q { pairOf s1 q with
    gap := false
    sqTail := (pairOf s1 q).sqHead }

/-- The pairs and mailbox locks of a function. -/
def resetFunction (s : State) (f : Nat) : State :=
  let s1 := (boundPairs s f).foldl resetPair s
  ((List.range 32).filter fun c => decide ((chanOf s1 c).owner = some (f + 1))).foldl forceRelease s1

/-- FUNCTION_LEVEL_RESET; of the physical function it closes the secure session (R342). -/
def functionReset (s : State) (f : Nat) : State :=
  let s1 := resetFunction s f
  if f = 0 then closeSession s1 else s1

/-- A hot reset, PERST_N or link loss (R337, R467): the link is down until it has trained again. Both forms do the same. -/
def hotReset (s : State) (_ : Bool) : State :=
  let s1 := closeSession ((List.range 64).foldl resetFunction s)
  let s2 := bumpBy s1 Reg.HQ_CNT_LINK_DOWN 1
  { s2 with
    host := { s2.host with
      linkUp := false } }

/-- HQ_LINK of a link as trained: rate, width and flit mode, and DEGRADED below 8 lanes at 128 GT/s (Table 16.1). -/
def linkTrained (v : Nat) : Nat := bits v 9 0 + (if bits v 3 0 = 7 ∧ bits v 8 4 = 8 then 0 else 2 ^ 10)

/-- The host link trains, from reset release on (R433): its rate, width and modes read in HQ_LINK. -/
def hostLinkUp (s0 : State) (link : Nat) (x : LinkTraining) : State :=
  if s0.topo.stage = .power then s0
  else
    let s1 := setReg (trainUnit s0 .hostPort { x with
      partner := [] }) Reg.HQ_LINK (linkTrained link)
    let s2 := { s1 with
      host := { s1.host with
        linkUp := true } }
    (List.range 256).foldl flushAll s2

/-- FUNCTION_LEVEL_RESET. -/
def execFunctionLevelReset (f : Nat) (s : State) : Out := done (functionReset s f)
/-- HOT_RESET. -/
def execHotReset (linkLost : Bool) (s : State) : Out := done (hotReset s linkLost)
/-- HOST_LINK_UP. -/
def execHostLinkUp (link : Nat) (x : LinkTraining) (s : State) : Out := doneHost (hostLinkUp s link x)

end Sys2Proof.Machine
end

