-- ==== Sys2Proof/Machine/Pairing.lean ====
section
/-!
DEFINITION. Machine/Pairing.lean: what waits for the twin (spec/18_twin.md, R63, R220, R255, R296, R384): releases at an acknowledgement and at the loss of the
twin, FAULT declarations (R387, R480), and the receiving side of the Firic link (R380 to R382).
-/
namespace Sys2Proof.Machine

/-- Replace the twin block. -/
def setTwin (s : State) (t : TwinSt) : State := { s with
    twin := t }

/-! ## What the twin's acknowledgement releases -/

/-- JOURNAL_ACKED (R63, R255, R296, R384): what ACK_J covers is released. -/
def ackReleases (s : State) : State :=
  let s1 := settleCancels (releaseAdmits s false) false
  let s2 := match s1.assets.swBusy with
    | some b => if acknowledged s1 b.jseq then swAcked s1 none else s1
    | none => s1
  freeEnded (tsAcked s2)

/-- The wait for the twin ends without it: ADMIT entries are written (R384), BUSY results report, table commands need no
acknowledgement any more. -/
def lossReleases (s : State) : State :=
  let s1 := swAcked (settleCancels (releaseAdmits s true) true) none
  let s2 := match s1.assets.tsBusy with
    | some b => tsEnd s1 b.code
    | none => s1
  freeEnded { s2 with
    assets := { s2.assets with
      tabBusy := s2.assets.tabBusy.map fun (b : BusyCmd) => { b with
        jseq := none } } }

/-! ## Held commands of a rejoin source (R395) -/

/-- A held command runs as it would have at its write. -/
def runHeld (s : State) (h : HeldCmd) : State :=
  let x (i : Nat) : Nat := h.args.getD i 0
  match h.field with
  | 0 => stgStart s h.op (x 0) (x 1) (x 2)
  | 1 => if h.op = 1 then swCommitRun s (x 0) (x 1) (x 2) else swCancelRun s (x 0) (x 1) (x 2)
  | 2 => tabStart s h.op (x 0) (x 1) (x 2) (if h.op = 2 ∧ x 3 + x 4 ≤ bar4Size then stagingRead s (x 3) (x 4) else [])
  | _ => tsStart s h.op (if bar4Size < x 0 + x 1 then [] else stagingRead s (x 0) (x 1))

/-- The held commands run, in order. -/
def releaseHeld (s : State) : State :=
  s.assets.held.foldl runHeld { s with
    assets := { s.assets with
      held := [] } }

/-! ## Leaving the pair -/

/-- A shadow that a copy brought goes, with its sequence table entry. -/
def dropShadows (s : State) : State :=
  s.front.reqs.foldl (fun s' p =>
    match p.2 with
    | some r => if r.shadow then dropReq s' p.1 r else s'
    | none => s') s

/-- R396: the destination discards what a copy brought: the state of its assets, the shadows with their entries and reservations, the twin's
version sets, the keys, and the journal bytes not yet applied. -/
def discardCopy (s : State) (r : Resync) : State :=
  let s1 := dropShadows s
  let s2 := setTwin { s1 with
    sec := { s1.sec with
      jobKeys := s1.sec.jobKeys.filter fun p => !r.jobs.contains p.1
      assetKeys := s1.sec.assetKeys.filter fun (k : AssetKey) => !r.keys.contains k.id } } { s1.twin with
    stream := []
    vmap := [] }
  match s2.bond.image with
  | none => s2
  | some im => { s2 with
      assets := clearAssets s2 (initialAssets im) }

/-- The end of a copy (R396): the source stays SOLO and its held commands run; the destination discards what it copied. -/
def endCopy (s : State) : State :=
  match s.twin.resync with
  | none => s
  | some r =>
    let s1 := setTwin s { s.twin with
      resync := none
      joinReady := false
      peerSeal := false }
    if r.source then releaseHeld (setPairMode s1 .solo)
    else discardCopy (setPairMode s1 .attested) r

/-- A SEAL that waited for the twin is refused (log 45). -/
def dropPendingSeal (s : State) : State :=
  if s.twin.sealPending then sealRefuse (setTwin s { s.twin with
      sealPending := false }) 0x22 0xFFFF
  else s

/-- The pair secret goes (Table 19.5), with the copy and what waited for the twin. -/
def pairLost (s : State) : State :=
  let s1 := dropPendingSeal (endCopy s)
  let s2 := { s1 with
    sec := { s1.sec with
      pairSecret := none
      share := none } }
  let s3 := setTwin s2 { s2.twin with
    peerSeal := false
    stream := []
    peerState := 0 }
  lossReleases (match s3.twin.mode with
    | .solo => s3
    | .draining => s3
    | _ => setPairMode s3 .absent)

/-- The link is down (R382, R44). -/
def linkDown (s : State) : State :=
  if !s.twin.linkUp then s
  else
    let s1 := setTwin s { s.twin with
      linkUp := false }
    let s2 := setTwin (pairLost s1) { (pairLost s1).twin with
      vcs := [] }
    let s3 := if s2.bond.mode = .checking ∧ s2.bond.fromTwin then loadReject s2 (0x0A, 6, 0xFFFF) else s2
    setBits s3 Reg.TWIN_INT_STATUS 8

/-! ## FAULT (R387, R480) -/

/-- Whether a cause stops the sequences of an unpaired module at the decision edge (R480). -/
def stopsSequences (cause : Nat) : Bool := decide (cause = 2 ∨ cause = 3 ∨ cause = 5)

/-- The module declares FAULT with a cause: once each. A watchdog's silence holds from this edge, its own refusals included (R386). -/
def declareFault (s : State) (cause : Nat) : State :=
  if s.twin.declared.contains cause then s
  else
    let paired := decide (s.twin.mode = .paired)
    let s1 := setTwin s { s.twin with
      declared := s.twin.declared ++ [cause]
      genStop := s.twin.genStop || paired || stopsSequences cause
      silent := s.twin.silent || decide (cause = 2) }
    let s2 := refuseAll (putBit s1 Reg.ADMIT_CTRL 0 false) (if heatStop s1 then 0x11 else 0x12)
    if paired ∧ s2.twin.linkUp then sendFrame s2 0 0x11 (natLE 1 cause ++ List.replicate 7 0 ++ natLE 8 (now s2)) else s2

/-- Whether the watchdog has not been fed for 2 measures (R386); without a count there is no measure. -/
def watchdogDue (s : State) : Bool := hasCount s && decide (s.twin.fedAt + 2 * measureN s ≤ s.time.rawBeats)

/-- WATCHDOG_FIRE (R386). -/
def execWatchdogFire (s : State) : Out := done (if watchdogDue s then declareFault s 2 else s)

/-- HANDOVER (R387). -/
def execHandover (s : State) : Out := host s Reg.TWIN_CTRL fun s => declareFault s 4

/-! ## Receiving frames (R380 to R382) -/

/-- The virtual channel of a frame type (Table 18.3). -/
def typeVc (t : Nat) : Nat := if t = 0x01 then 1 else if t = 0x20 then 2 else 0

/-- The 64 bits of a word as the reader has them. -/
def readWord64 (r : EccRead) : Nat :=
  match r with
  | .good d => d
  | .corrected d _ => d
  | .bad _ => 0

/-- A frame as it is read from the link (R380, R381, Table 18.2): its words corrected, its header, LEN and CRC-32C tested. -/
def FiricWords.frame (x : FiricWords) : FiricRx :=
  let rs := x.words.map eccRead
  let b := rs.flatMap fun r => natLE 8 (readWord64 r)
  let n := le b 2 2
  { head := b.take 32, vc := bits (le b 1 1) 1 0, type := le b 0 1, seq := le b 4 4, ackC := le b 8 4, ackJ := le b 12 4, ackB := le b 16 4,
    credC := le b 20 2, credJ := le b 22 2, credB := le b 24 2, epoch := le b 26 2, payload := slice b 32 n,
    good := decide (x.words.length = 32 * flits n) && decide (n ≤ 65500) && decide (le b (32 + n) 4 = crc32c (b.take (32 + n))),
    corrected := (rs.filter fun r => match r with
      | .corrected _ _ => true
      | _ => false).length,
    ues := rs.filterMap fun r => match r with
      | .bad y => some y
      | _ => none }

/-- Whether a frame holds no uncorrectable word and its CRC is good (R380). -/
def FiricRx.intact (f : FiricRx) : Bool := f.good && decide (f.ues = [])

/-- R382: an acknowledgement and a credit of a channel. One that covers no frame outstanding, be it behind the last acknowledgement or
incomparable (R8), changes nothing and no counter of Table 18.9 takes it (DESIGN CHOICE, log 68). -/
def takeAckCred (s : State) (v ack cred : Nat) : State :=
  let c := vcOf s v
  let wait := (c.queue.take c.again).filter fun f => !covers ack f.seq
  let fresh := (c.out ++ c.queue.take c.again).any fun f => covers ack f.seq
  let c1 := if fresh then { c with
      acked := ack
      out := c.out.filter fun f => !covers ack f.seq
      queue := wait ++ c.queue.drop c.again
      again := wait.length
      timeouts := 0
      since := now s } else c
  pump (setVc s v { c1 with
    cred := cred }) v (c1.queue.length + 1)

/-- The three acknowledgements and credits of a header. -/
def takeHeader (s : State) (f : FiricRx) : State :=
  ackReleases (takeAckCred (takeAckCred (takeAckCred s 0 f.ackC f.credC) 1 f.ackJ f.credJ) 2 f.ackB f.credB)

/-- The wraps of a channel's received SEQ at frame `q`, by the SEQ that is expected (R8, R416). -/
def rxWrapsAt (c : Vc) (q : Nat) : Nat :=
  let n := (c.accepted + 1) % 2 ^ 32
  if serialLt 32 q n then (if n < q then c.rxWraps - 1 else c.rxWraps) else if q < n then c.rxWraps + 1 else c.rxWraps

/-- The payload of a frame: decrypted under the twin's link key once the pair secret exists (R14, R416). -/
def openPayload (s : State) (f : FiricRx) : Option (List Byte) :=
  if s.sec.pairSecret.isSome ∧ f.type ≠ 0x3F then
    gcmOpen (linkKey s (!s.twin.role)) (linkNonce f.seq (rxWrapsAt (vcOf s f.vc) f.seq) f.vc (!s.twin.role) f.epoch) f.head f.payload
  else some f.payload

/-- A bad frame is discarded and counted (R380). -/
def badFrame (s : State) : State := bump s Reg.TWIN_CNT_BAD_FRAME

/-- A word of a Firic frame that the code cannot correct: logged and counted (R455, Table 22.4). -/
def firicUe (s : State) (syndrome : Nat) : State :=
  setBits (setBits (bump (logErr s { code := 0x0046, cls := 1, syndrome := syndrome }) Reg.ERR_CNT_UE) Reg.ERR_STATUS 2) Reg.ERR_INT_STATUS 4

/-- A frame of type `type` arrives; `act` is what its payload does once it is accepted in order. A frame with an uncorrectable word, a bad
CRC or a tag that fails is discarded whole (R380, R416). One whose SEQ is not the next expected is discarded and answered with an IDLE; a SEQ that
cannot be compared (R8) counts in no register, as Table 18.9 has none for it (DESIGN CHOICE, log 68). -/
def receiveFiric (s : State) (f : FiricRx) (type : Nat) (act : State → List Byte → State) : State :=
  if !s.twin.linkUp ∨ (f.intact ∧ f.type ≠ type) then s
  else
    let s0 := f.ues.foldl firicUe (bumpBy s Reg.TWIN_CNT_CORR f.corrected)
    if !f.intact ∨ f.vc ≠ typeVc type then badFrame s0
    else if type = 0x3F then takeHeader s0 f
    else
      match openPayload s0 f with
      | none => badFrame s0
      | some p =>
        let s1 := takeHeader s0 f
        let c := vcOf s1 f.vc
        let s2 := setVc s1 f.vc { c with
          freed := c.freed + flits f.payload.length }
        if f.seq ≠ (c.accepted + 1) % 2 ^ 32 then sendIdle s2
        else
          act (setVc s2 f.vc { vcOf s2 f.vc with
            rxWraps := if f.seq = 0xFFFFFFFF then c.rxWraps + 1 else c.rxWraps
            accepted := f.seq }) p

/-- FIRIC_IDLE. -/
def execFiricIdle (f : FiricWords) (s : State) : Out := done (receiveFiric s f.frame 0x3F fun s _ => s)

/-- R382: no acknowledgement has advanced for TWIN_RTO beats while frames are outstanding, sent and not sent again included. -/
def firicRtoDue (s : State) (v : Nat) : Bool :=
  (decide ((vcOf s v).out ≠ []) || decide (0 < (vcOf s v).again)) && isDue s (addBeats (vcOf s v).since (bits (reg s Reg.TWIN_RTO) 15 0))

/-- FIRIC_RTO: a channel's unacknowledged frames are sent again, oldest first; after 250 timeouts the link is down. -/
def firicRto (s : State) (v : Nat) : State :=
  if !s.twin.linkUp ∨ !firicRtoDue s v then s
  else
    let c := vcOf s v
    if 250 ≤ c.timeouts + 1 then linkDown s
    else
      let s1 := setVc s v { c with
        timeouts := c.timeouts + 1
        since := now s
        queue := c.out ++ c.queue
        again := c.out.length + c.again
        out := [] }
      pump s1 v (c.out.length + c.queue.length + 1)

/-- FIRIC_RTO. -/
def execFiricRto (v : Nat) (s : State) : Out := done (firicRto s v)

/-- FIRIC_LINK_DOWN (R382). -/
def execFiricLinkDown (s : State) : Out := done (linkDown s)

end Sys2Proof.Machine
end

