-- ==== Sys2Proof/Machine/Security.lean ====
section
/-!
DEFINITION. Machine/Security.lean: the security engine's commands (spec/19_security.md): the secure session, attestation reports, asset keys, owner
roots, rollback floors, the debug unlock and job keys.
-/
namespace Sys2Proof.Machine

/-! ## Codes of states that registers, reports and heartbeats carry -/

/-- TIME_STATE (Table 02.4). -/
def TimeMode.code : TimeMode → Nat
  | .unset => 0
  | .locked => 1
  | .holdover => 2
  | .slewing => 3
  | .fault => 4

/-- STATE of BOND_STATUS (Table 03.10). -/
def BondMode.code : BondMode → Nat
  | .empty => 0
  | .checking => 1
  | .loaded => 2
  | .sealed => 3
  | .rejected => 4

/-- Pair state (Table 18.1). -/
def PairMode.code : PairMode → Nat
  | .absent => 0
  | .linking => 1
  | .attested => 2
  | .resync => 3
  | .paired => 4
  | .solo => 5
  | .draining => 6

/-- Thermal state (Table 15.4). -/
def Thermal.code : Thermal → Nat
  | .normal => 0
  | .margin => 1
  | .zero => 2
  | .stop => 3
  | .drained => 4

/-- MB_SEC_STATE (Table 16.12). -/
def SessMode.code : SessMode → Nat
  | .closed => 0
  | .handshake => 1
  | .opened => 2

/-- Requests in flight that pin a version of asset `a` other than the current one (ASSET_INFO, Table 03.9). -/
def oldPins (s : State) (a : Nat) : Nat :=
  min ((s.front.reqs.filterMap (·.2)).filter fun (r : Req) => decide (versionIn s r.vset a ≠ currentVer s a)).length 0xFFFFFFFF

/-- The 16 bytes of ASSET_INFO at position `i` of the asset table (Table 03.9); no version is current before the seal (R58). -/
def assetInfo (s : State) (i : Nat) : List Byte :=
  match s.bond.image with
  | none => List.replicate 16 0
  | some im =>
    match im.assets[i]? with
    | none => List.replicate 16 0
    | some e =>
      let x := assetSt s e.id
      natLE 4 (if isSealed s then x.current else 0) ++ natLE 1 x.versions.length ++ natLE 1 0 ++ natLE 2 e.id ++ natLE 4 (oldPins s e.id) ++ natLE 4 x.freed

/-! ## Identity (R401, R402) -/

/-- The derived keys that the engine holds since stage FUSE (R401, R408). -/
def engineKeys (s : State) : DeviceKeys := s.sec.keys.getD deviceKeys

/-- A signature by the identity key, with the engine's random bytes numbered `n` (R401). -/
def identitySign (s : State) (n : Nat) (m : List Byte) : List Byte := slhSign (engineKeys s).identity (Config.random n 32) m

/-- Replace the engine's state. -/
def setSec (s : State) (x : SecSt) : State := { s with
    sec := x }

/-! ## The secure session (R404) -/

/-- SESSION_OPEN: a host nonce and a host buffer; `ok` says whether the DMA succeeds. -/
def sessionOpen (s : State) (nonce : List Byte) (addr : Nat) (ok : Bool) : State :=
  takeMessage s 16 0x0101 fun s _ =>
    if !ok then ackChan s 16 0x8005 []
    else
      let eph := Config.random s.fresh 64
      let dev := Config.random (s.fresh + 1) 32
      let pub := kemPublic eph
      let s1 := setSession (tick (tick (tick s))) { Session.reset with
        mode := .handshake
        hostNonce := nonce
        devNonce := dev
        ephem := eph }
      ackChan (emit s1 (.hostWrite 0 addr (certChain ++ pub ++ dev ++ identitySign s (s.fresh + 2) (nonce ++ dev ++ pub)))) 16 0 []

/-- SESSION_KEY: the ciphertext read from the host buffer. -/
def sessionKey (s : State) (ct : List Byte) (ok : Bool) : State :=
  takeMessage s 16 0x0102 fun s _ =>
    if s.sec.session.mode ≠ .handshake then ackChan s 16 0x0005 []
    else if !ok then ackChan s 16 0x8005 []
    else
      let x := s.sec.session
      let k := kdf "OPF-SESS" (kemDecap x.ephem ct ++ x.hostNonce ++ x.devNonce) 64
      setSession (ackChan s 16 0 []) { Session.reset with
        mode := .opened
        keyIn := k.take 32
        keyOut := k.drop 32 }

/-- SESSION_CLOSE. -/
def sessionClose (s : State) (c : Nat) : State := takeMessage s c 0x0103 fun s _ => ackChan (closeSession s) c 0 []

/-! ## The attestation report (R407) -/

/-- A measurement entry: item, version, digest. -/
def measured (item ver : Nat) (digest : List Byte) : List Byte :=
  natLE 2 item ++ natLE 2 0 ++ natLE 4 ver ++ List.replicate 8 0 ++ digest

/-- The 256-bit digest of a measured item's bytes. -/
def itemDigest (b : List Byte) : List Byte := shake256 b 32

/-- The measurement entries in ascending ITEM (Table 19.4). -/
def measurements (s : State) : List Byte :=
  let fw := Config.firmware (bits (reg s Reg.TOPO_FW_IMAGE) 0 0)
  let zero32 : List Byte := List.replicate 32 0
  measured 0x01 fw.2.1 fw.2.2 ++
  measured 0x02 Config.plinthFirmware.1 Config.plinthFirmware.2 ++
  measured 0x03 0 (itemDigest s.topo.fuse) ++
  measured 0x04 0 (itemDigest s.topo.discovery) ++
  measured 0x05 0 (itemDigest certChain) ++
  measured 0x06 s.sec.owners.length (itemDigest (Config.imageRoot ++ s.sec.owners.flatten)) ++
  measured 0x07 0 (itemDigest (Config.itemBytes 7 (s.sec.floors.flatMap fun p => [p.1, p.2]))) ++
  measured 0x08 0 (itemDigest ((List.range 256).flatMap (assetInfo s))) ++
  measured 0x09 0 (match s.sec.pairSecret with
    | some k => itemDigest (natLE 8 s.sec.twinId ++ kdf "OPF-PFP" k 32)
    | none => zero32) ++
  measured 0x0A 0 (if s.sec.unlocked.isSome then itemDigest s.sec.token else zero32) ++
  measured 0x0B 0 (itemDigest (Config.itemBytes 11 ((List.range 256).flatMap fun i => [(windowOf s (i / 4) (i % 4)).1, (windowOf s (i / 4) (i % 4)).2])))

/-- Bytes of a report with its signature: 160 + 11 × 48 + 29,792. -/
def reportLen : Nat := 30480

/-- The report over a nonce at the present edge (Table 19.3), signed with the next random bytes. -/
def reportOf (s : State) (nonce : List Byte) : List Byte :=
  let digest := match s.bond.image with
    | some im => im.digest
    | none => List.replicate 64 0
  let body := natLE 4 0xA77E0001 ++ natLE 4 reportLen ++ natLE 8 deviceId ++ nonce ++ natLE 8 (now s) ++ natLE 1 s.time.mode.code
    ++ natLE 1 s.bond.mode.code ++ natLE 1 (s.twin.mode.code + (if s.twin.role then 8 else 0)) ++ natLE 1 (if s.sec.unlocked.isSome then 1 else 0)
    ++ natLE 4 0 ++ digest ++ natLE 8 (reg64 s Reg.BOND_IMAGE_ID) ++ natLE 4 (reg s Reg.BOND_IMAGE_VER) ++ natLE 2 11
    ++ List.replicate 18 0 ++ measurements s
  body ++ identitySign s s.fresh body

/-- GET_REPORT: a nonce and a host buffer. A second one while a report is being signed is BUSY. -/
def getReport (s : State) (c : Nat) (nonce : List Byte) (addr : Nat) : State :=
  takeMessage s c 0x0111 fun s _ =>
    if s.sec.report.isSome then ackChan s c 0x0001 []
    else
      let x := s.sec.session
      let s1 := setSec s { s.sec with
        report := some (c, nonce, addr)
        session := if underSession s c then { x with
            nonces := x.nonces ++ [nonce] }
          else x }
      setChan s1 c { chanOf s1 c with
        started := true }

/-- The report of a channel is written and acknowledged; `ok` says whether the DMA succeeds. -/
def finishReport (s : State) (c : Nat) (nonce : List Byte) (addr : Nat) (ok : Bool) : State :=
  let s1 := setSec s { s.sec with
    report := none }
  let s2 := if ok ∧ !s.twin.silent then tick (emit s1 (.hostWrite 0 addr (reportOf s nonce))) else s1
  ackChan s2 c (if ok then 0 else 0x8005) []

/-- MB_ACK (R341): a report that is ready; BUSY for a message not started within one measure; UNKNOWN_COMMAND for a code that no table defines on the
channel; BAD_LENGTH where the Keystone finds that LEN disagrees with the command, whose bytes no table lays out (log 40). A command of
Table 19.2 is otherwise acknowledged by its own row. -/
def mbAck (s : State) (c code : Nat) : State :=
  match s.sec.report with
  | some (d, nonce, addr) => if d = c then finishReport s c nonce addr (decide (code ≠ 0x8005)) else ackOther s c code
  | none => ackOther s c code
where
  /-- A message other than a report in progress. -/
  ackOther (s : State) (c code : Nat) : State :=
    match (chanOf s c).pending with
    | none => s
    | some (len, _, _) =>
      if (chanOf s c).started ∨ s.twin.silent then s
      else if code = 0x0001 then (if isDue s (addBeats (chanOf s c).rung (measureN s)) then ackRaw s c 0x0001 [] else s)
      else if nextChannel s ≠ some c then s
      else if len < 2 ∨ 256 < len then ackRaw s c 0x0003 []
      else
        match messageOf s c len with
        | none => refuseSession s c
        | some m =>
          if !definedOn s c (le m 0 2) then ackChan (readMessage s c) c 0x0002 []
          else if code = 0x0003 then ackChan (readMessage s c) c 0x0003 []
          else s

/-! ## Asset keys (R411) -/

/-- Replace the released keys. -/
def setAssetKeys (s : State) (l : List AssetKey) : State := setSec s { s.sec with
    assetKeys := l }

/-- Install a released key, in place of an earlier one of the same KEY_ID. -/
def installKey (s : State) (k : AssetKey) : State :=
  setAssetKeys s ((s.sec.assetKeys.filter fun x => decide (x.id ≠ k.id)) ++ [k])

/-- The key of a release object, when its tag holds: ciphertext, KEY_ID, POLICY_DIGEST, wrapped key. -/
def openRelease (s : State) (o : List Byte) : Option AssetKey :=
  let ss := kemDecap (engineKeys s).kem (slice o 0 1568)
  match gcmOpen (kdf "OPF-AKEK" (ss ++ slice o 1568 8) 32) (List.replicate 12 0) [] (slice o 1640 48) with
  | some k => some { id := le o 1568 8, policy := slice o 1576 64, key := k }
  | none => none

/-- KEY_RELEASE: the release object read from the host buffer. -/
def keyRelease (s : State) (c : Nat) (o : List Byte) (ok : Bool) : State :=
  takeMessage s c 0x0120 fun s _ =>
    if !ok then ackChan s c 0x8005 []
    else
      match openRelease s o with
      | none => ackChan s c 0x8001 []
      | some k =>
        if 256 ≤ s.sec.assetKeys.length ∧ !(s.sec.assetKeys.any fun x => decide (x.id = k.id)) then ackChan s c 0x8003 []
        else ackChan (installKey s k) c 0 []

/-- KEY_REVOKE. -/
def keyRevoke (s : State) (c id : Nat) : State :=
  takeMessage s c 0x0121 fun s _ =>
    if s.sec.assetKeys.any fun x => decide (x.id = id) then
      ackChan (setAssetKeys s (s.sec.assetKeys.filter fun x => decide (x.id ≠ id))) c 0 []
    else ackChan s c 0x8004 []

/-! ## Roots and floors (R403, R406) -/

/-- ENROLL_ROOT: the root key and its signature read from the host buffer. -/
def enrollRoot (s : State) (c : Nat) (key sig : List Byte) (ok : Bool) : State :=
  takeMessage s c 0x0130 fun s _ =>
    if !ok then ackChan s c 0x8005 []
    else if s.sec.owners ≠ [] ∧ !(s.sec.owners.any fun r => slhVerify r key sig) then ackChan s c 0x8001 []
    else if 4 ≤ s.sec.owners.length then ackChan s c 0x8003 []
    else ackChan (setSec s { s.sec with
      owners := s.sec.owners ++ [key] }) c 0 []

/-- SET_FLOOR: IMAGE_ID, floor and a signature by an image root read from the host buffer. -/
def setFloor (s : State) (c id floor : Nat) (sig : List Byte) (ok : Bool) : State :=
  takeMessage s c 0x0131 fun s _ =>
    if !ok then ackChan s c 0x8005 []
    else if !((imageRoots s).any fun r => slhVerify r (natLE 8 id ++ natLE 4 floor) sig) then ackChan s c 0x8001 []
    else if floor < tget (fun _ => 0) s.sec.floors id then ackChan s c 0x8002 []
    else ackChan (setSec s { s.sec with
      floors := tset (fun _ => 0) s.sec.floors id floor }) c 0 []

/-! ## Debug unlock (R418) -/

/-- The signed bytes of a token: DEVICE_ID, nonce, expiry. -/
def tokenBody (id : Nat) (nonce : List Byte) (expiry : Nat) : List Byte := natLE 8 id ++ nonce ++ natLE 8 expiry

/-- An accepted unlock erases every job, asset and session key; the pair enters ABSENT, from SOLO and DRAINING too; the windows open; SVC_AUX is taken (R53). -/
def unlock (s : State) (token : List Byte) (expiry : Nat) : State :=
  let s1 := setSec s { s.sec with
    assetKeys := []
    jobKeys := []
    session := Session.reset
    unlocked := some expiry
    token := token }
  setBits (setBits (setPairMode (pairLost s1) .absent) Reg.SEC_INT_STATUS 8) Reg.BOND_INT_STATUS 256

/-- DEBUG_UNLOCK: a token read from the host buffer. -/
def debugUnlock (s : State) (c id : Nat) (nonce : List Byte) (expiry : Nat) (sig : List Byte) (ok : Bool) : State :=
  takeMessage s c 0x0140 fun s _ =>
    let roots := if s.sec.owners = [] then [Config.imageRoot] else s.sec.owners
    if !ok then ackChan s c 0x8005 []
    else if !(roots.any fun r => slhVerify r (tokenBody id nonce expiry) sig) then ackChan s c 0x8001 []
    else if id ≠ deviceId ∨ !s.sec.session.nonces.contains nonce ∨ expiry ≤ now s then ackChan s c 0x8002 []
    else ackChan (unlock s (tokenBody id nonce expiry ++ sig) expiry) c 0 []

/-- DEBUG_EXPIRY: the unlock ends at its expiry. -/
def debugExpiry (s : State) : State :=
  match s.sec.unlocked with
  | none => s
  | some t => if isDue s t then setSec s { s.sec with
      unlocked := none
      token := []
      auxOff := some s.time.rawBeats } else s

/-! ## Job keys (R412) -/

/-- Replace the key of a slot. -/
def setJobKey (s : State) (i : Nat) (k : Option JobKey) : State := setSec s { s.sec with
    jobKeys := tset (fun _ => none) s.sec.jobKeys i k }

/-- The lowest free slot. -/
def freeJobSlot (s : State) : Option Nat := (List.range 16384).find? fun i => decide (tget (fun _ => none) s.sec.jobKeys i = none)

/-- The next generation of a slot, never 0, so that no handle is 0. -/
def nextGen (g : Nat) : Nat := if g + 1 < 65536 then g + 1 else 1

/-- The sequence marks of a source: HSN_NEXT of its pairs, or the last MSG_ID of a peer (R413). -/
def sourceMarks (s : State) (source : Nat) : List (Nat × Nat) :=
  if source < 65536 then (boundPairs s source).map fun q => (q, (pairOf s q).hsnNext)
  else [(0, (peerOf s ((source - 65536) / 256) (source % 256)).rxMsg)]

/-- The body of a KEY entry (Table 18.10): OPEN carries the wrapped key. -/
def keyBody (s : State) (k : JobKey) (open_ : Bool) : List Byte :=
  let wrap := match s.sec.pairSecret with
    | some p => slice p 64 32
    | none => []
  natLE 1 (if open_ then 1 else 2) ++ natLE 3 0 ++ natLE 4 k.handle ++ natLE 8 k.source ++
    (if open_ then gcmSeal wrap (natLE 4 k.handle ++ natLE 4 0x4B4B4B4B ++ natLE 4 0) [] k.key else [])

/-- JOB_KEY_OPEN: the ciphertext read from the host buffer; `peer` names a pod peer in place of the sending function. One of a port that resets
is acknowledged UNIT_UNAVAILABLE (R356). -/
def jobKeyOpen (s : State) (c : Nat) (peer : Option Nat) (ct : List Byte) (ok : Bool) : State :=
  takeMessage s c 0x0201 fun s n =>
    if peer.isSome ∧ n ≠ 1 then ackChan s c 0x0004 []
    else if !ok then ackChan s c 0x8005 []
    else if peer.any fun p => decide ((unitSt s 3 (p / 256)).mode = .resetting) then ackChan s c 0x0007 []
    else
      match freeJobSlot s with
      | none => ackChan s c 0x8003 []
      | some i =>
        let source := match peer with
          | some p => 65536 + p
          | none => n - 1
        let g := nextGen (tget (fun _ => 0) s.sec.jobGen i)
        let key := kdf "OPF-JOB" (kemDecap (engineKeys s).kem ct ++ natLE 8 deviceId ++ natLE 8 source) 32
        let h := i + g % 65536 * 32768 + (if s.twin.role then 2 ^ 31 else 0)
        let k : JobKey := { handle := h, source := source, key := key, seqAt := s.serve.nextSeq, marks := sourceMarks s source }
        let s1 := setJobKey (setSec s { s.sec with
          jobGen := tset (fun _ => 0) s.sec.jobGen i g }) i (some k)
        ackChan (journal s1 0x0A 0xFFFFFFFF (keyBody s1 k true)).1 c 0 (natLE 4 h)

/-- JOB_KEY_CLOSE: by the source's function, or by the physical function for a pod peer. -/
def jobKeyClose (s : State) (c h : Nat) : State :=
  takeMessage s c 0x0202 fun s n =>
    match jobKeyOf s h with
    | none => ackChan s c 0x8004 []
    | some k =>
      if k.source = n - 1 ∨ (65536 ≤ k.source ∧ n = 1) then
        ackChan (journal (setJobKey s (bits h 13 0) none) 0x0A 0xFFFFFFFF (keyBody s k false)).1 c 0 []
      else ackChan s c 0x0004 []

/-! ## The rows -/

/-- MB_ACK. -/
def execMbAck (c code : Nat) (s : State) : Out := done (mbAck s c code)
/-- SESSION_OPEN. -/
def execSessionOpen (nonce : List Byte) (addr : Nat) (ok : Bool) (s : State) : Out := done (sessionOpen s nonce addr ok)
/-- SESSION_KEY. -/
def execSessionKey (ct : List Byte) (ok : Bool) (s : State) : Out := done (sessionKey s ct ok)
/-- SESSION_CLOSE. -/
def execSessionClose (c : Nat) (s : State) : Out := done (sessionClose s c)
/-- GET_REPORT. -/
def execGetReport (c : Nat) (nonce : List Byte) (addr : Nat) (s : State) : Out := done (getReport s c nonce addr)
/-- KEY_RELEASE. -/
def execKeyRelease (c : Nat) (o : List Byte) (ok : Bool) (s : State) : Out := done (keyRelease s c o ok)
/-- KEY_REVOKE. -/
def execKeyRevoke (c id : Nat) (s : State) : Out := done (keyRevoke s c id)
/-- ENROLL_ROOT. -/
def execEnrollRoot (c : Nat) (key sig : List Byte) (ok : Bool) (s : State) : Out := done (enrollRoot s c key sig ok)
/-- SET_FLOOR. -/
def execSetFloor (c id floor : Nat) (sig : List Byte) (ok : Bool) (s : State) : Out := done (setFloor s c id floor sig ok)
/-- DEBUG_UNLOCK. -/
def execDebugUnlock (c id : Nat) (nonce : List Byte) (expiry : Nat) (sig : List Byte) (ok : Bool) (s : State) : Out :=
  done (debugUnlock s c id nonce expiry sig ok)
/-- DEBUG_EXPIRY. -/
def execDebugExpiry (s : State) : Out := done (debugExpiry s)
/-- JOB_KEY_OPEN. -/
def execJobKeyOpen (c : Nat) (peer : Option Nat) (ct : List Byte) (ok : Bool) (s : State) : Out := done (jobKeyOpen s c peer ct ok)
/-- JOB_KEY_CLOSE. -/
def execJobKeyClose (c h : Nat) (s : State) : Out := done (jobKeyClose s c h)

end Sys2Proof.Machine
end

