-- ==== Sys2Proof/Machine/Twin.lean ====
section
/-!
DEFINITION. Machine/Twin.lean: the twin pair (spec/18_twin.md): the journal's entries applied in stream order (R383, R384, R397), heartbeats and
faults (R385, R388), attestation (R415), takeover (R389 to R391), split and rejoin (R392 to R397).
-/
namespace Sys2Proof.Machine

/-! ## Journal frames (R383) -/

/-- A journal entry: its kind, role, REQ_SEQ, body and bytes in the stream. -/
structure JEntry where
  kind : Nat
  role : Bool
  seq : Nat
  body : List Byte
  raw : List Byte
  deriving DecidableEq, Repr

/-- The entry at the head of the stream, when the stream holds all of it, and the rest of the stream. -/
def headEntry (b : List Byte) : Option (JEntry × List Byte) :=
  let n := le b 4 4
  let whole := 16 + n + (16 - n % 16) % 16
  if b.length < 16 ∨ b.length < whole then none
  else some ({ kind := le b 0 1, role := bit (le b 1 1) 0, seq := le b 8 4, body := slice b 16 n, raw := b.take whole }, b.drop whole)

/-- Whether this module is the destination of a copy. -/
def isDest (s : State) : Bool :=
  match s.twin.resync with
  | some r => !r.source
  | none => false

/-- Whether entries of the twin are applied: in PAIRED, and at the destination of a rejoin. -/
def appliesEntries (s : State) : Bool := decide (s.twin.mode = .paired) || (decide (s.twin.mode = .resync) && isDest s)

/-- Whether the entry belongs to the final state message (R397). -/
def inStateMsg (s : State) : Bool :=
  match s.twin.resync with
  | some r => !r.source && r.final
  | none => false

/-! ## The entries -/

/-- VSET (R384): the contents of a set of the twin. -/
def applyVset (s : State) (j : JEntry) : State :=
  setTwin s { s.twin with
    vmap := tset (fun _ => []) s.twin.vmap j.seq ((List.range (j.body.length / 8)).map fun i => (le j.body (8 * i) 4, le j.body (8 * i + 4) 4)) }

/-- The submission entry of an ACCEPT record: what the descriptor's key checks and the request need of it (Table 18.5). -/
def entryOfAccept (b : List Byte) : List Byte :=
  let dl := le b 32 8
  natLE 4 (le b 44 4) ++ natLE 1 1 ++ natLE 1 (bits (le b 40 1) 2 1) ++ natLE 2 0 ++ natLE 8 (le b 48 8) ++ List.replicate 8 0
    ++ natLE 4 (le b 56 4) ++ natLE 4 0 ++ natLE 8 0 ++ natLE 8 (if dl = 2 ^ 64 - 1 then 0 else dl) ++ natLE 4 (le b 60 4)
    ++ List.replicate 12 0

/-- The requester of an ACCEPT record. Its result buffer's address is not journalled (R391), so it is free. -/
def originOfAccept (s : State) (b : List Byte) : Origin :=
  let p := le b 42 2
  if bit (le b 40 1) 0 then .pod (bits p 9 8) (bits p 7 0) (le b 44 4) (le b 48 8)
  else .host (qFn s (p % 256)) (p % 256) (le b 44 4) (le b 48 8) (Config.free s.fresh % 2 ^ 64) 0

/-- The shadow that an ACCEPT entry describes, before it has a slot. A protected descriptor whose key is not here leaves no shadow. -/
def shadowOf (s : State) (j : JEntry) : Option Req :=
  let b := j.body
  let o := originOfAccept s b
  let e := entryOfAccept b
  let raw := b.drop 64
  let opened : Option (Option (Nat × List Byte) × List Byte) :=
    if bit (le b 40 1) 2 then
      match jobKeyOf s (le b 60 4) with
      | none => none
      | some k => (openDesc k o e raw).map fun d => (some (k.handle, k.key), d)
    else some (none, raw)
  opened.map fun p =>
    let r := requestOf s o (le b 5 1) p.1 e raw p.2
    { r with
      seq := le b 0 4
      role := j.role
      accept := le b 8 8
      entry := le b 16 8 / 65536
      deferred := decide (le b 4 1 = 1)
      seed := le b 24 8
      lane := r.text
      shadow := true }

/-- A shadow takes its slot, entry and reservation without a test (R379). -/
def bookShadow (s : State) (r : Req) (fromState : Bool) : State :=
  match setWith s (tget (fun _ => []) s.twin.vmap r.vset) with
  | none => s
  | some (s1, v) =>
    let u := boundOf s1 r.entry
    let p := takeEntry (tick s1) { r with
      vset := v
      slot := u.used }
    let s2 := if fromState then p.1 else setBound p.1 r.entry { u with
      used := u.used + 1
      ledger := u.ledger + planCost s1 }
    let q : Req := if fromState then { p.2 with
        resulted := true
        packed := true
        lane := false
        prompt := Config.rejoinPrompt r.key r.accept }
      else p.2
    let s3 := setReq (markActive s2 q.account) q.key (some q)
    if fromState then s3 else placeInputs s3 q.key q

/-- The instant of a request accepted at `t` into boundary `b`: `t` plus L, plus what it was deferred by (R16, R306). -/
def instantOf (s : State) (t b : Nat) : Nat := addBeats t (frontL s + (b - entryOf s t))
where
  /-- E of R306 for an acceptance at `t`. -/
  entryOf (s : State) (t : Nat) : Nat := entryBoundary s t

/-- ACCEPT (R384): books the shadow; one that comes after its entry boundary is counted and books none. -/
def applyAccept (s : State) (j : JEntry) : State :=
  match shadowOf s j with
  | none => s
  | some r =>
    let r1 := { r with
      vset := le j.body 6 2
      instant := instantOf s r.accept r.entry }
    if !inStateMsg s ∧ addBeats 0 r.entry < now s then bump s Reg.TWIN_CNT_SHADOW_LATE else bookShadow (tick s) r1 (inStateMsg s)

/-- Whether a version stands verified here, so that a switch to it can be acknowledged (R60). -/
def verifiedHere (s : State) (a ver : Nat) : Bool := (assetSt s a).versions.any fun v => decide (v.ver = ver) && v.verified

/-- SWITCH (R63): the twin's commit or cancel at the same S. Of two commits that crossed, role A's is kept; role B's is replaced, and a version
that only it kept is freed after that (R58). Where SW_RESULT reads BUSY for another command, SWITCH_REJECTED alone reports the loss; a commit that
finds all 64 slots taken is not installed (DESIGN CHOICE, log 68). -/
def applySwitch (s : State) (j : JEntry) : State :=
  let a := le j.body 0 4
  let ver := le j.body 4 4
  let at_ := le j.body 8 8
  let op := le j.body 16 4
  let mine := (switchAt s a at_).bind fun i => (switchOf s i).map fun (w : Switch) => (i, w)
  if op = 2 then
    match mine with
    | some p => reapAll (setSwitch s p.1 none)
    | none => s
  else
    let install (s : State) : State :=
      match freeSwitch s with
      | some i => if inStateMsg s ∨ verifiedHere s a ver then setSwitch s i (some { asset := a, version := ver, at_ := at_, awaiting := false }) else s
      | none => s
    match mine with
    | none => install s
    | some p =>
      if !s.twin.role then s
      else
        let s1 := install (setSwitch s p.1 none)
        reapAll (match s1.assets.swBusy with
          | some b =>
            if b.op = 1 ∧ b.slot = p.1 then swResult { s1 with
              assets := { s1.assets with
                swBusy := none } } 0x09 p.1
            else setBits s1 Reg.BOND_INT_STATUS 0x40
          | none => swResult s1 0x09 p.1)

/-- TABLE (R220): the twin's command is performed here; at CLOSE unequal digests discard the build. -/
def applyTable (s : State) (j : JEntry) : State :=
  let b := j.body
  let op := le b 0 4
  let a := le b 4 4
  let r := tabRun s op a (le b 8 4) (le b 12 4) (slice b 32 (le b 24 8)) false
  if op = 3 ∧ r.2.1 = 0 then
    if r.2.2 = le b 16 8 then
      match buildOf r.1 a with
      | some x => reap (closeBuild r.1 x) a
      | none => r.1
    else setBits (bump (tabResult (dropBuild r.1 a) 0x0A) Reg.TAB_CNT_REFUSED) Reg.TAB_INT_STATUS 6
  else r.1

/-- STORE (R255): the twin's token store command is performed here. -/
def applyStore (s : State) (j : JEntry) : State := (tsRun s (le j.body 0 4) (slice j.body 16 (le j.body 8 8))).1

/-- CANCEL (R296, R389): the cancel of a twin's request. -/
def applyCancel (s : State) (j : JEntry) : State :=
  let k := reqKey (le j.body 0 4) (bit (le j.body 4 1) 0)
  match reqOf s k with
  | some r => setReq s k (some { r with
      cancelled := match r.cancelled with
        | some t => some t
        | none => some (le j.body 8 8) })
  | none => s

/-- The tokens of a TOKENS entry: first TSN, and the token numbers from byte 8 on. -/
def tokensOfEntry (b : List Byte) : Nat × List Nat := (le b 0 4, (List.range (le b 4 2)).map fun i => le b (8 + 4 * i) 4)

/-- TOKENS (R383): a shadow's sampled tokens, kept in its sequence table entry from TSN 0 on. -/
def applyTokens (s : State) (j : JEntry) : State :=
  match reqOf s (reqKey j.seq j.role) with
  | none => s
  | some r =>
    match r.shadow, r.ast with
    | true, some e =>
      let q := seqOf s e
      let t := tokensOfEntry j.body
      setSeq s e { q with
        tokens := q.tokens.take t.1 ++ t.2 }
    | _, _ => s

/-- RESULT (R384): a shadow that does not generate is discarded; another one's result is covered. -/
def applyResult (s : State) (j : JEntry) : State :=
  let k := reqKey j.seq j.role
  match reqOf s k with
  | none => s
  | some r =>
    if !r.shadow then s
    else if r.needsEntry then setReq s k (some { r with
      resulted := true })
    else dropReq s k r

/-- END (R384): the shadow is discarded. -/
def applyEnd (s : State) (j : JEntry) : State :=
  let k := reqKey j.seq j.role
  match reqOf s k with
  | some r => if r.shadow then dropReq s k r else s
  | none => s

/-- The wrap key. -/
def wrapKey (s : State) : List Byte :=
  match s.sec.pairSecret with
  | some p => slice p 64 32
  | none => []

/-- The destination notes the slot of a job key that a copy brings (R396). -/
def noteJob (s : State) (slot : Nat) : State :=
  match s.twin.resync with
  | some r => if r.source then s else setTwin s { s.twin with
      resync := some { r with
        jobs := insertAsc slot r.jobs } }
  | none => s

/-- The destination notes an asset key that a copy brings and that it did not hold (R396). -/
def noteKey (s : State) (id : Nat) : State :=
  match s.twin.resync with
  | some r => if r.source ∨ (s.sec.assetKeys.any fun (k : AssetKey) => decide (k.id = id)) then s else setTwin s { s.twin with
      resync := some { r with
        keys := insertAsc id r.keys } }
  | none => s

/-- KEY (R416, Table 18.10): a job key is installed at its handle's slot or erased, or an asset key is released. -/
def applyKey (s : State) (j : JEntry) : State :=
  let b := j.body
  let h := le b 4 4
  let source := le b 8 8
  match le b 0 1 with
  | 1 =>
    match gcmOpen (wrapKey s) (natLE 4 h ++ natLE 4 0x4B4B4B4B ++ natLE 4 0) [] (b.drop 16) with
    | some key =>
      setJobKey (noteJob s (bits h 13 0)) (bits h 13 0) (some { handle := h, source := source, key := key, seqAt := s.serve.nextSeq, marks := sourceMarks s source })
    | none => s
  | 2 => if (jobKeyOf s h).isSome then setJobKey s (bits h 13 0) none else s
  | 3 =>
    match gcmOpen (wrapKey s) (slice b 8 4 ++ natLE 4 0x41534B45 ++ slice b 12 4) [] (b.drop 80) with
    | some key => installKey (noteKey s source) { id := source, policy := slice b 16 64, key := key }
    | none => s
  | _ => s

/-- A version of an ASSET_STATE record: resident, and verified when the digest over its copied bytes, page records included, holds (R57, R60,
R395). -/
def copiedVersion (s : State) (a : Nat) (b : List Byte) : Version :=
  let n := match s.bond.image with
    | some im => (assetRegion im a).map (slotSize im)
    | none => none
  let data := match slotKeyOf s a (le b 4 1) 0, n with
    | some k, some n => memRead s.lpddr k n
    | _, _ => []
  let c := Config.copyLayout a (le b 0 4) (slice b 8 32)
  let body := data.take c.1
  let store := match kindOf s a with
    | some k => storeOf s k (bodyRd body)
    | none => 0
  let recs := c.2.flatMap fun p => natLE 4 p ++ List.replicate 12 0 ++ ldRead s store (2048 * p) 2048
  { ver := le b 0 4, slot := le b 4 1, size := c.1, digest := slice b 8 32,
    verified := decide (shake256 (body ++ recs) 32 = slice b 8 32), everCurrent := true, superseded := true,
    pages := [], wb := boundsOfBody a ((kindOf s a).getD 0) body }

/-- The store pages of the resident versions, read from their copies. -/
def withPages (s : State) (a : Nat) : State :=
  match kindOf s a with
  | none => s
  | some k =>
    let x := assetSt s a
    setAsset s a { x with
      versions := x.versions.map fun (v : Version) => { v with
        pages := pagesOf s a k v.size (assetRd s a v.ver) } }

/-- ASSET_STATE (R397). -/
def applyAssetState (s : State) (j : JEntry) : State :=
  let b := j.body
  let a := le b 0 2
  let vs := (List.range (le b 6 1)).map fun i => copiedVersion s a (slice b (8 + 40 * i) 40)
  withPages (setAsset s a { assetSt s a with
    current := le b 2 4
    versions := vs }) a

/-- BUILD_STATE (R397): the open build with its directory. Its slot is the lowest free one; the touched rows are not carried. -/
def applyBuildState (s : State) (j : JEntry) : State :=
  let b := j.body
  let a := le b 0 2
  let base := le b 4 4
  let ver := le b 8 4
  let n := le b 12 4
  match freeSlotOf s a with
  | none => s
  | some sl =>
    let t := embAt s a base
    let dir := (List.range ((b.length - 16) / 4)).map fun i => le b (16 + 4 * i) 4
    let own := (dir.filter fun p => !((List.range dir.length).map (embPage s t)).contains p).map (pageCode t.store)
    let x : Build := { asset := a, base := base, ver := ver, slot := sl, dir := dir, copied := own, touched := Config.touchedRows a base ver n, applied := n }
    setBuild s a (some x)

/-- An entry takes effect (Table 18.4). FREE_MAP says what the versions' and builds' pages say already (log 46). -/
def applyEntry (s : State) (j : JEntry) : State :=
  match j.kind with
  | 0x01 => applyAccept s j
  | 0x02 => applyVset s j
  | 0x03 => applySwitch s j
  | 0x04 => applyTable s j
  | 0x05 => applyStore s j
  | 0x06 => applyCancel s j
  | 0x07 => applyTokens s j
  | 0x08 => applyResult s j
  | 0x09 => applyEnd s j
  | 0x0A => applyKey s j
  | 0x0B => applyAssetState s j
  | 0x0C => applyBuildState s j
  | _ => s

/-- The stream goes on behind an entry; within the state message the entry counts for its digest. -/
def passEntry (s : State) (j : JEntry) (rest : List Byte) : State :=
  let t := { s.twin with
    stream := rest }
  setTwin s (match t.resync with
    | some r => if !r.source && r.final then
        let r1 : Resync := { r with
          entries := r.entries ++ [j.raw] }
        { t with
          resync := some r1 }
      else t
    | none => t)

/-- Whether the stream waits: at the destination of a copy until STATE_BEGIN has come, since the two travel on different channels (R397);
before a TABLE entry while a batch of the twin's runs, since the commands are performed in the same order (R220). -/
def streamWaits (s : State) : Bool :=
  (match s.twin.resync with
    | some r => !r.source && !r.final && !r.agreed
    | none => false)
    || (match headEntry s.twin.stream with
      | some (j, _) => decide (j.kind = 0x04) && s.assets.batches.any fun x => !x.own
      | none => false)

/-- The head entry is applied, and passed over. -/
def applyHead (s : State) : State :=
  match headEntry s.twin.stream with
  | none => s
  | some (j, rest) =>
    if streamWaits s then s else if appliesEntries s then passEntry (applyEntry s j) j rest else passEntry s j rest

/-- The head entry is applied if it is of kind `kind`. -/
def applyKind (s : State) (kind : Nat) : State :=
  match headEntry s.twin.stream with
  | none => s
  | some (j, _) => if j.kind = kind then applyHead s else s

/-- Apply what the stream holds, at most `n` entries. -/
def applyAll (s : State) : Nat → State
  | 0 => s
  | n + 1 => if (headEntry s.twin.stream).isNone then s else applyAll (applyHead s) n

/-- JOURNAL_ACCEPT. -/
def execJournalAccept (s : State) : Out := done (applyKind s 0x01)
/-- JOURNAL_VSET. -/
def execJournalVset (s : State) : Out := done (applyKind s 0x02)
/-- JOURNAL_SWITCH. -/
def execJournalSwitch (s : State) : Out := done (applyKind s 0x03)
/-- JOURNAL_TABLE. -/
def execJournalTable (s : State) : Out := done (applyKind s 0x04)
/-- JOURNAL_STORE. -/
def execJournalStore (s : State) : Out := done (applyKind s 0x05)
/-- JOURNAL_CANCEL. -/
def execJournalCancel (s : State) : Out := done (applyKind s 0x06)
/-- JOURNAL_TOKENS. -/
def execJournalTokens (s : State) : Out := done (applyKind s 0x07)
/-- JOURNAL_RESULT. -/
def execJournalResult (s : State) : Out := done (applyKind s 0x08)
/-- JOURNAL_END. -/
def execJournalEnd (s : State) : Out := done (applyKind s 0x09)
/-- JOURNAL_KEY. -/
def execJournalKey (s : State) : Out := done (applyKind s 0x0A)
/-- JOURNAL_ASSET_STATE. -/
def execJournalAssetState (s : State) : Out := done (applyKind s 0x0B)
/-- JOURNAL_BUILD_STATE. -/
def execJournalBuildState (s : State) : Out := done (applyKind s 0x0C)
/-- JOURNAL_FREE_MAP. -/
def execJournalFreeMap (s : State) : Out := done (applyKind s 0x0D)

/-! ## The end of the state message (R396, R397) -/

/-- A RESYNC_CTRL payload. -/
def resyncCtrl (op pass jseq count : Nat) (digest : List Byte) : List Byte :=
  natLE 1 op ++ natLE 1 pass ++ natLE 2 0 ++ natLE 4 jseq ++ natLE 8 count ++ (digest ++ List.replicate (16 - digest.length) 0)

/-- Send a RESYNC_CTRL frame. -/
def sendCtrl (s : State) (op pass jseq count : Nat) (digest : List Byte) : State := sendFrame s 0 0x21 (resyncCtrl op pass jseq count digest)

/-- The digest of a state message's entries in stream order. -/
def stateDigest (entries : List (List Byte)) : List Byte := shake256 entries.flatten 16

/-- Replace the copy's record. -/
def setResync (s : State) (r : Resync) : State := setTwin s { s.twin with
    resync := some r }

/-- The destination answers STATE_END once every frame of the state message has come and its COUNT entries are applied (R396, R397). -/
def finishState (s : State) : State :=
  match s.twin.resync with
  | none => s
  | some r =>
    match r.ending with
    | none => s
    | some (jseq, count, digest) =>
      if r.source ∨ !covers (vcOf s 1).accepted jseq then s
      else
        let s1 := applyAll s (count - r.entries.length)
        match s1.twin.resync with
        | none => s1
        | some r1 =>
          let d := stateDigest (r1.entries.take count)
          sendCtrl (setResync s1 { r1 with
            final := false
            ending := none
            agreed := decide (d = digest) }) 6 r1.pass 0 0 d

/-- A verdict of the twin on a command that reads BUSY: of a switch commit (NOT_RESIDENT, R60), else of a table CLOSE (TWIN_DIGEST, R220).
No field of a frame carries it, so the command does (log 27). -/
def takeVerdict (s : State) (verdict : Option Bool) : State :=
  match verdict with
  | none => s
  | some true => swAcked s (some 0x06)
  | some false => tabRefused s 0x0A

/-- FIRIC_JOURNAL: the entry bytes join the stream. -/
def firicJournal (s : State) (f : FiricRx) (verdict : Option Bool) : State :=
  let s0 := if s.twin.linkUp ∧ f.type = 0x01 ∧ f.intact then takeVerdict s verdict else s
  receiveFiric s0 f 0x01 fun s p => finishState (setTwin s { s.twin with
    stream := s.twin.stream ++ p })

/-- FIRIC_JOURNAL. -/
def execFiricJournal (f : FiricWords) (verdict : Option Bool) (s : State) : Out := done (firicJournal s f.frame verdict)

/-! ## Split (R393) -/

/-- Role B of two SOLO modules enters DRAINING. -/
def checkSplit (s : State) : State :=
  if s.twin.mode = .solo ∧ s.twin.peerState = 5 ∧ s.twin.role then admitCtrl (setPairMode s .draining) false else s

/-! ## Heartbeats and faults (R385, R388) -/

/-- Table 18.6 at a boundary. -/
def heartbeatBody (s : State) (boundary : Nat) : List Byte :=
  natLE 8 boundary ++ natLE 1 s.time.mode.code ++ natLE 1 s.energy.thermal.code ++ natLE 1 s.twin.mode.code
    ++ natLE 1 (bits (reg s Reg.TWIN_MODE) 1 0) ++ natLE 4 ((s.serve.nextSeq + 2 ^ 32 - 1) % 2 ^ 32) ++ natLE 8 (digestWord s) ++ natLE 8 0

/-- The module's last measure boundary. -/
def lastBoundary (s : State) : Nat := addBeats 0 (s.time.beat / max (measureN s) 1 * max (measureN s) 1)

/-- A heartbeat is accepted. -/
def takeHeartbeat (s : State) (p : List Byte) : State :=
  let s1 := setTwin s { s.twin with
    hbCounted := true
    peerDegraded := decide (bits (le p 8 1) 2 0 ≠ 1)
    peerState := bits (le p 10 1) 2 0
    peerMode := bits (le p 11 1) 1 0
    peerDigest := le p 16 8 }
  let s2 := if s.time.mode = .locked ∧ bits (le p 8 1) 2 0 = 1 ∧ le p 0 8 ≠ lastBoundary s then
      setBits (bump s1 Reg.TWIN_CNT_SKEW) Reg.TWIN_INT_STATUS 0x20
    else s1
  checkSplit s2

/-- FIRIC_HEARTBEAT. -/
def execFiricHeartbeat (f : FiricWords) (s : State) : Out := done (receiveFiric s f.frame 0x10 takeHeartbeat)

/-- FIRIC_FAULT. -/
def execFiricFault (f : FiricWords) (s : State) : Out :=
  done (receiveFiric s f.frame 0x11 fun s p => setBits (setTwin s { s.twin with
    faultSeen := true
    lastCause := le p 0 1 }) Reg.TWIN_INT_STATUS 4)

/-! ## Attestation (R374, R415) -/

/-- Measurement 0x06 of this module. -/
def rootsDigest (s : State) : List Byte := itemDigest (Config.imageRoot ++ s.sec.owners.flatten)

/-- The pair secret from both encapsulations. -/
def pairSecretOf (s : State) (mine theirs : List Byte) : List Byte :=
  let ids := if s.twin.role then natLE 8 s.sec.twinId ++ natLE 8 deviceId else natLE 8 deviceId ++ natLE 8 s.sec.twinId
  kdf "OPF-PAIR" ((if s.twin.role then theirs ++ mine else mine ++ theirs) ++ ids) 96

/-- The twin's chain and report: the tests of R415; the roles of R374; this module's encapsulation. -/
def takeIdentity (s : State) (good : Bool) (part variant : Nat) (roots : List Byte) (unlocked : Bool) (id : Nat) (kem : List Byte) : State :=
  if !good ∨ part ≠ reg s Reg.IDENT_PART ∨ variant ≠ reg s Reg.IDENT_VARIANT ∨ roots ≠ rootsDigest s ∨ unlocked ∨ s.sec.unlocked.isSome then
    setBits (bump s Reg.SEC_CNT_PAIR_FAIL) Reg.SEC_INT_STATUS 4
  else
    let e := kemEncap kem (Config.random s.fresh 32)
    let s1 := setSec (tick s) { s.sec with
      twinId := id
      share := some e.2 }
    sendMbox (setTwin s1 { s1.twin with
      role := decide (id < deviceId) }) 1 e.1

/-- The twin's ciphertext: the pair secret forms, and the state becomes ATTESTED. -/
def takeCiphertext (s : State) (ct : List Byte) : State :=
  match s.sec.share with
  | none => s
  | some mine =>
    let s1 := setSec s { s.sec with
      pairSecret := some (pairSecretOf s mine (kemDecap (engineKeys s).kem ct))
      share := none }
    checkSplit (if s1.twin.mode = .linking then setPairMode s1 .attested else s1)

/-! ## Rejoin (R394, R395) -/

/-- The regions a copy covers: version slots, the stores that versions name, the token store, the module reserve (R394). -/
def coveredRegions (s : State) : List Nat :=
  match s.bond.image with
  | none => []
  | some im =>
    let slots := (List.range im.regions.length).filter fun i =>
      match im.regions[i]? with
      | some r => decide (r.kind = 1)
      | none => false
    let stores := im.assets.flatMap fun a =>
      if hasPages a.kind then (assetSt s a.id).versions.map fun v => storeOf s a.kind (assetRd s a.id v.ver) else []
    (stores ++ [descRegion (fetchDesc s), reserveRegion]).foldl (fun l g => insertAsc g l) slots

/-- Bytes of a region: four slots of KIND ASSET. -/
def copyBytes (s : State) (g : Nat) : Nat :=
  match s.bond.image with
  | none => 0
  | some im =>
    match im.regions[g]? with
    | some r => if r.kind = 1 then 4 * r.size else r.size
    | none => if g = reserveRegion then Config.moduleReserve else 0

/-- Every covered segment. -/
def allSegments (s : State) : List Nat :=
  (coveredRegions s).flatMap fun g => (List.range ((copyBytes s g + 2047) / 2048)).map fun i => g * 2 ^ 40 + i

/-- The frame of a segment. -/
def sendSegment (s : State) (x : Nat) : State :=
  let g := x / 2 ^ 40
  let o := 2048 * (x % 2 ^ 40)
  sendFrame s 2 0x20 (natLE 2 g ++ natLE 6 0 ++ natLE 8 o ++ ldRead s g o (min 2048 (copyBytes s g - o)))

/-- A pass: PASS_START and its segments. What is written from here on is marked. -/
def startPass (s : State) (r : Resync) (segs : List Nat) : State :=
  let s1 := setResync s { r with
    pass := r.pass + 1
    marked := [] }
  segs.foldl sendSegment (sendCtrl s1 1 ((r.pass + 1) % 256) 0 segs.length [])

/-- A copy that has not begun. -/
def Resync.begin_ (source : Bool) : Resync :=
  { source := source, pass := 0, left := 0, marked := [], final := false, sent := false, ending := none, entries := [], agreed := false, jobs := [], keys := [] }

/-- The source, which must be SOLO, begins the copy. -/
def beginSource (s : State) : State :=
  if s.twin.mode = .solo ∧ s.sec.pairSecret.isSome then startPass (setPairMode s .resync) (Resync.begin_ true) (allSegments s) else s

/-- REJOIN (R394): the destination asks its SOLO twin. -/
def rejoin (s : State) : State :=
  if s.twin.mode = .attested ∧ s.bond.mode = .loaded ∧ s.bond.fromTwin ∧ s.twin.peerState = 5 then
    sendMbox (setResync (setPairMode s .resync) (Resync.begin_ false)) 3 []
  else s

/-- REJOIN. -/
def execRejoin (s : State) : Out := host s Reg.TWIN_CTRL rejoin

/-- A twin-channel message. -/
def takeMbox (m : TwinMsg) (s : State) (_ : List Byte) : State :=
  match m with
  | .identity g p v r d i k => takeIdentity s g p v r d i k
  | .ciphertext ct => takeCiphertext s ct
  | .seal => setTwin s { s.twin with
      peerSeal := true }
  | .rejoin => beginSource s
  | .channel c data =>
    if 24 ≤ c ∧ c < 32 then setChan s c { chanOf s c with
        data := (data ++ List.replicate 256 0).take 256 }
    else s

/-- FIRIC_MBOX. -/
def execFiricMbox (f : FiricWords) (m : TwinMsg) (s : State) : Out := done (receiveFiric s f.frame 0x12 (takeMbox m))

/-! ### The state message (R397) -/

/-- The requests in flight that generate: their results have left, and they hold an entry. -/
def generating (s : State) : List Req :=
  (s.front.reqs.filterMap (·.2)).filter fun (r : Req) => r.resulted && !r.ended && r.ast.isSome

/-- Front-end requests in flight. -/
def frontInFlight (s : State) : Nat := ((s.front.reqs.filterMap (·.2)).filter fun (r : Req) => !r.resulted && !r.ended).length

/-- The TOKENS body of a sequence: its sampled tokens, cut at 65,535. -/
def tokensBodies (first : Nat) : Nat → List Nat → List (List Byte)
  | 0, _ => []
  | n + 1, ts =>
    if ts = [] then []
    else (natLE 4 first ++ natLE 2 (min ts.length 65535) ++ natLE 2 0 ++ (ts.take 65535).flatMap (natLE 4))
      :: tokensBodies (first + 65535) n (ts.drop 65535)

/-- Pack bits into bytes, the first in bit 0. -/
def packBits (bs : List Bool) : List Byte :=
  (List.range ((bs.length + 7) / 8)).map fun i =>
    BitVec.ofNat 8 (((bs.drop (8 * i)).take 8).foldr (fun b acc => 2 * acc + (if b then 1 else 0)) 0)

/-- The FREE_MAP bodies of a store region. -/
def freeMaps (s : State) (g : Nat) : List (List Byte) :=
  let n := storePages s g
  let free := freePages s g
  (List.range ((n + 2 ^ 20 - 1) / 2 ^ 20)).map fun i =>
    natLE 2 g ++ natLE 2 0 ++ natLE 4 (i * 2 ^ 20) ++
      packBits ((List.range (min (2 ^ 20) (n - i * 2 ^ 20))).map fun k => free.contains (i * 2 ^ 20 + k))

/-- Insert a switch by ascending S. -/
def insertSwitch (w : Switch) : List Switch → List Switch
  | [] => [w]
  | x :: xs => if w.at_ < x.at_ then w :: x :: xs else x :: insertSwitch w xs

/-- The entries of the state message, in order. -/
def stateEntries (s : State) : List (List Byte) :=
  match s.bond.image with
  | none => []
  | some im =>
    let e (kind seq : Nat) (role : Bool) (b : List Byte) := entryBytes kind role seq b
    let me := s.twin.role
    let assets := (sortOrd (fun (x y : AssetE) => decide (x.id ≤ y.id)) im.assets).map fun a =>
      let x := assetSt s a.id
      e 0x0B 0xFFFFFFFF me (natLE 2 a.id ++ natLE 4 x.current ++ natLE 1 x.versions.length ++ natLE 1 0 ++
        x.versions.flatMap fun v => natLE 4 v.ver ++ natLE 1 v.slot ++ natLE 3 0 ++ v.digest)
    let vsets := (vsetsUsed s).map fun v => e 0x02 v me (vsetBody (tget (fun _ => []) s.serve.vsets v))
    let sws := ((switchList s).foldl (fun l p => insertSwitch p.2 l) []).map fun w => e 0x03 0xFFFFFFFF me (switchBody w.asset w.version w.at_ 1)
    let builds := s.assets.builds.map fun b =>
      e 0x0C 0xFFFFFFFF me (natLE 2 b.asset ++ natLE 2 0 ++ natLE 4 b.base ++ natLE 4 b.ver ++ natLE 4 b.applied ++ b.dir.flatMap (natLE 4))
    let stores := (im.assets.filterMap fun a =>
      if a.kind = 1 ∨ a.kind = 3 then some (storeOf s a.kind (assetRd s a.id (currentVer s a.id))) else none).foldl (fun l g => insertAsc g l) []
    let maps := stores.flatMap fun g => (freeMaps s g).map (e 0x0D 0xFFFFFFFF me)
    let jobs := (s.sec.jobKeys.filterMap (·.2)).map fun (k : JobKey) => e 0x0A 0xFFFFFFFF me (keyBody s k true)
    let keys := s.sec.assetKeys.map fun k =>
      e 0x0A 0xFFFFFFFF me (natLE 1 3 ++ natLE 7 0 ++ natLE 8 k.id ++ k.policy ++
        gcmSeal (wrapKey s) (natLE 4 k.id ++ natLE 4 0x41534B45 ++ natLE 4 (k.id / 2 ^ 32)) [] k.key)
    let reqs := (generating s).flatMap fun r =>
      let q := seqOf s (r.ast.getD 0)
      let ts := q.tokens.drop (q.tokens.length - q.genCount)
      e 0x01 r.seq r.role (acceptBody r) :: (tokensBodies 0 (ts.length / 65535 + 1) ts).map (e 0x07 r.seq r.role)
    assets ++ vsets ++ sws ++ builds ++ maps ++ jobs ++ keys ++ reqs

/-- The state message leaves between STATE_BEGIN and STATE_END. -/
def sendState (s : State) (r : Resync) : State :=
  let es := stateEntries s
  let first := (vcOf s 1).nextSeq
  let s1 := sendCtrl s 3 (r.pass % 256) first 0 []
  let bytes := es.flatten
  let s2 := sendStream s1 (bytes.length / 65472 + 1) bytes
  let s3 := sendCtrl s2 4 (r.pass % 256) (((vcOf s2 1).nextSeq + 2 ^ 32 - 1) % 2 ^ 32) es.length (stateDigest es)
  bumpBy (setResync s3 { r with
    sent := true
    entries := es }) Reg.TWIN_CNT_UNPROTECTED (frontInFlight s)

/-- Whether every data frame of the pass has been started. -/
def passSent (s : State) : Bool := decide ((vcOf s 2).queue = [])

/-- RESYNC_PASS_DONE (R395): PASS_END; then the next pass, the last pass with asset commands held, or the state message. -/
def passDone (s : State) : State :=
  match s.twin.resync with
  | none => s
  | some r =>
    if !r.source ∨ r.sent ∨ !passSent s then s
    else
      let cov := coveredRegions s
      let segs := r.marked.filter fun x => cov.contains (x / 2 ^ 40)
      let s1 := sendCtrl s 2 (r.pass % 256) 0 segs.length []
      if r.final then sendState s1 r
      else startPass s1 { r with
        final := decide (segs.length ≤ 4096) } segs

/-- RESYNC_PASS_DONE. -/
def execResyncPassDone (s : State) : Out := done (passDone s)

/-- A RESYNC_CTRL frame of operation `op`, which its payload names once it is opened. -/
def receiveCtrl (s : State) (f : FiricRx) (op : Nat) (act : State → Resync → List Byte → State) : State :=
  if f.intact && (openPayload s f).any fun p => decide (le p 0 1 ≠ op) then s
  else receiveFiric s f 0x21 fun s p =>
    match s.twin.resync with
    | some r => act s r p
    | none => s

/-- RESYNC_DATA: the destination writes a segment. On a PAIRED module it is the segment that the Keystone fetched for a poisoned one
(R455). -/
def resyncData (s : State) (p : List Byte) : State :=
  if s.twin.mode = .paired then
    if readsPoison s (le p 0 2) (le p 8 8) (p.drop 16).length then ldWrite s (le p 0 2) (le p 8 8) (p.drop 16) else s
  else match s.twin.resync with
  | some r =>
    if r.source then s
    else ldWrite (setResync s { r with
      left := r.left - 1 }) (le p 0 2) (le p 8 8) (p.drop 16)
  | none => s

/-- RESYNC_DATA. -/
def execResyncData (f : FiricWords) (s : State) : Out := done (receiveFiric s f.frame 0x20 resyncData)

/-- PASS_START. -/
def execPassStart (f : FiricWords) (s : State) : Out :=
  done (receiveCtrl s f.frame 1 fun s r p => if r.source then s else setResync s { r with
    pass := le p 1 1
    left := le p 8 8 })

/-- PASS_END. -/
def execPassEnd (f : FiricWords) (s : State) : Out :=
  done (receiveCtrl s f.frame 2 fun s r _ => if r.source then s else setResync s { r with
    left := 0 })

/-- STATE_BEGIN. -/
def execStateBegin (f : FiricWords) (s : State) : Out :=
  done (receiveCtrl s f.frame 3 fun s r _ => if r.source then s else setResync s { r with
    final := true
    entries := [] })

/-- STATE_END. -/
def execStateEnd (f : FiricWords) (s : State) : Out :=
  done (receiveCtrl s f.frame 4 fun s r p => if r.source then s else finishState (setResync s { r with
    ending := some (le p 4 4, le p 8 8, slice p 16 16) }))

/-- STATE_ACK (R397): with an equal digest the source releases its held commands; on a difference it aborts. -/
def stateAck (s : State) (r : Resync) (p : List Byte) : State :=
  if !r.source ∨ !r.sent ∨ r.agreed then s
  else if slice p 16 16 = stateDigest r.entries then releaseHeld (setResync s { r with
    final := false
    agreed := true })
  else endCopy (sendCtrl s 5 (r.pass % 256) 0 0 [])

/-- STATE_ACK. -/
def execStateAck (f : FiricWords) (s : State) : Out := done (receiveCtrl s f.frame 6 stateAck)

/-- RESYNC_ABORT (R396). -/
def execResyncAbort (f : FiricWords) (s : State) : Out := done (receiveCtrl s f.frame 5 fun s _ _ => endCopy s)

/-! ## The link comes up (R441) -/

/-- FIRIC_LINK_UP: sequence numbers begin anew, the epoch rises, pairing starts; `peerSolo` says that the twin is SOLO (R393). -/
def linkUpFiric (s0 : State) (peerSolo : Bool) (x : LinkTraining) : State :=
  if !s0.topo.fuseTwin ∨ s0.twin.linkUp ∨ !linksTrain s0 then s0
  else
    let s := trainUnit s0 .firic x
    let s1 := setTwin s { s.twin with
      linkUp := true
      linkEpoch := (s.twin.linkEpoch + 1) % 65536
      vcs := []
      stream := []
      vmap := []
      faultSeen := s.twin.faultSeen && s.twin.joined
      peerState := if peerSolo then 5 else 0 }
    let s2 := checkSplit (if s1.twin.mode = .absent then setPairMode s1 .linking else s1)
    sendMbox (tick s2) 0 (certChain ++ reportOf s2 (List.replicate 32 0))

/-- FIRIC_LINK_UP. -/
def execFiricLinkUp (peerSolo : Bool) (x : LinkTraining) (s : State) : Out := done (linkUpFiric s peerSolo x)

/-! ## Takeover (R388 to R391) -/

/-- R389, steps 3 to 5, for one request that was a shadow. -/
def adopt (s : State) (k : Nat) : State :=
  match reqOf s k with
  | none => s
  | some r =>
    if r.ended then s
    else if !r.resulted then completionInstant s k
    else
      let s1 := if r.packed then s else completeFront s k
      match reqOf s1 k with
      | none => s1
      | some r1 =>
        match r1.pack, r1.ast with
        | some p, some e =>
          if p.dest = 3 then enterPrefill (sendPrompt s1 r1) e r1.prompt else replaySeq s1 e r1.prompt
        | _, _ => s1

/-- The shadows become the module's own, with the twin's REQ_SEQ and role. -/
def ownShadows (s : State) : State := { s with
    front := { s.front with
      reqs := s.front.reqs.map fun p => (p.1, p.2.map fun (r : Req) => if r.shadow then { r with
          shadow := false
          adopted := true } else r) } }

/-- R389: the declaration. -/
def takeover (s : State) : State :=
  let m := bits (reg s Reg.TWIN_MODE) 1 0
  let standbyHere := if s.twin.role then decide (m = 1) else decide (m = 2)
  let keys := (s.front.reqs.filter fun p =>
    match p.2 with
    | some r => r.shadow
    | none => false).map (·.1)
  let s1 := lossReleases (setPairMode (setTwin s { s.twin with
    joined := false
    faultSeen := false }) .solo)
  let s2 := setBits (bumpBy (setReg64 s1 Reg.TWIN_TAKEOVER_TIME (now s1)) Reg.TWIN_CNT_TAKEOVER 1) Reg.TWIN_INT_STATUS 1
  let s3 := if standbyHere ∧ isSealed s2 ∧ s2.twin.declared = [] then putBit s2 Reg.ADMIT_CTRL 0 true else s2
  freeEnded (keys.foldl adopt (ownShadows s3))

/-- R388: at a measure boundary, three measures missed, or a FAULT accepted before it. -/
def declareDue (s : State) : Bool :=
  s.twin.joined && decide (s.time.ck = 0) && decide (s.time.beat % max (measureN s) 1 = 0) && (decide (3 ≤ s.twin.missed) || s.twin.faultSeen)

/-- TWIN_FAIL_DECLARE. -/
def execTwinFailDeclare (s : State) : Out := done (if declareDue s then takeover s else s)

end Sys2Proof.Machine
end

