-- ==== Sys2Proof/Machine/Boundary.lean ====
section
/-!
DEFINITION. Machine/Boundary.lean: STEP_BOUNDARY (R31): the step that ends with its overrun test (R47), the front-end steps of requests (R49, R170,
R181, R185, R204, R256 to R267), the Caller's work lists (R283 to R286, R289, R294, R390), and the hand-over of the cores (R161).
-/
namespace Sys2Proof.Machine

/-! ## The boundary -/

/-- The running step of a section. -/
def stepOf (s : State) (i : Nat) : StepSt := tget (fun _ => StepSt.reset) s.steps i

/-- R31: whether the present edge is a boundary of the section that has not been taken yet. -/
def boundaryDue (s : State) (x : Section) : Bool :=
  isSealed s && hasCount s && !s.time.held && decide (x.kind ≠ 0) && decide (s.energy.thermal ≠ .drained) && decide (s.time.ck = 0)
    && decide (x.phase ≤ s.time.beat) && decide ((s.time.beat - x.phase) % max x.period 1 = 0)
    && decide ((stepOf s x.id).at_ ≠ s.time.beat + 1)

/-- Whether core `c` runs: its group is in service. -/
def coreRuns (s : State) (c : Nat) : Bool := decide ((unitSt s 0 (c / 64)).mode = .available)

/-- Whether core `c` waits at a SEL_MERGE (R200). -/
def atMerge (s : State) (c : Nat) : Bool := !(core s c).idle && (wordOf s c 0x61).isSome

/-- R47: the cores of a section that have not finished their step. -/
def lateCores (s : State) (x : Section) : List Nat :=
  if (stepOf s x.id).at_ = 0 then [] else (sectionCores s x.id).filter fun c => coreRuns s c && !(core s c).idle

/-- The items a core has not finished: its current segment's and those still to come. -/
def unfinished (k : Core) : List Nat :=
  (match k.current with
    | some g => g.items
    | none => []) ++ k.segments.flatMap (·.items)

/-- The items of PREFILL or DECODE whose segment the step boundary ends before its work is done (R286). -/
def cutItems (s : State) (x : Section) : List Nat :=
  if x.kind = 7 ∨ x.kind = 8 then
    ((lateCores s x).filter fun c => !atMerge s c).flatMap fun c =>
      match (core s c).current with
      | some g => g.items
      | none => []
  else []

/-- STEP_OVERRUN (R47): a core that waits only for the runs of a merge completes it under R200; any other core is stopped and counted
once for the section. The items neither finished fall short; the boundary is a yield point that pre-empts those in progress (R286). -/
def overrun (s : State) (x : Section) : State :=
  let cs := lateCores s x
  let s0 := bumpBy s Reg.SERVE_CNT_PREEMPT (cutItems s x).length
  let s1 := loseItems s0 x.id (cs.flatMap fun c => unfinished (core s c))
  let s2 := (cs.filter (atMerge s)).foldl endMerge s1
  if cs.all (atMerge s) then s2 else setBits (bump s2 Reg.BOND_CNT_OVERRUN) Reg.BOND_INT_STATUS 128

/-! ## Front-end steps -/

/-- The place in the plan of the step that a request begins at boundary `b`. -/
def planPlace (s : State) (r : Req) (b : Nat) : Option Nat :=
  let p := max (planOf s).period 1
  if r.entry ≤ b ∧ (b - r.entry) % p = 0 then some ((b - r.entry) / p) else none

/-- The USE of plan step `i` where it is a step of section `i'`. -/
def useAt (s : State) (sect i : Nat) : Option Nat :=
  match (planOf s).steps[i]? with
  | some p => if p.1 = sect then some p.2 else none
  | none => none

/-- Whether plan step `i` exists and is a step of the section that `here` allows. -/
def placeFits (s : State) (sect : Nat) (r : Req) (b : Nat) (ended : Bool) : Option Nat :=
  match planPlace s r b with
  | none => none
  | some i =>
    let j := if ended then i - 1 else i
    if (ended ∧ i = 0) ∨ useAt s sect j = none then none else some j

/-- The requests whose plan step of a section ends at boundary `b` (`ended`), or begins there, in plan-slot order: key and place. -/
def frontItems (s : State) (sect b : Nat) (ended : Bool) : List (Nat × Nat) :=
  let rs := (s.front.reqs.filterMap (·.2)).filter fun (r : Req) => !r.ended && (placeFits s sect r b ended).isSome
  (sortOrd (fun (x y : Req) => decide (x.slot ≤ y.slot)) rs).map fun (r : Req) => (r.key, (placeFits s sect r b ended).getD 0)

/-- Whether step `i` is the first of a run of steps of one section and USE. -/
def firstOfRun (s : State) (sect i : Nat) : Bool := decide (i = 0) || decide (useAt s sect (i - 1) ≠ useAt s sect i)
/-- Whether step `i` is the last of such a run. -/
def lastOfRun (s : State) (sect i : Nat) : Bool := decide (useAt s sect (i + 1) ≠ useAt s sect i)

/-- Whether step `i` begins its section's work of one USE (R49): the first step of that section and USE, or of a run of them for SELECT, whose
steps do different work before and after RERANK. -/
def beginsUse (s : State) (x : Section) (i : Nat) : Bool :=
  if x.kind = 4 then firstOfRun s x.id i else (List.range i).all fun j => decide (useAt s x.id j ≠ useAt s x.id i)

/-- Whether step `i` ends its section's work of one USE, likewise. -/
def endsUse (s : State) (x : Section) (i : Nat) : Bool :=
  if x.kind = 4 then lastOfRun s x.id i
  else (List.range (planOf s).steps.length).all fun j => !decide (i < j) || decide (useAt s x.id j ≠ useAt s x.id i)

/-- Whether the plan holds a later step of USE 2 of the section (R49, R185). -/
def round2Planned (s : State) (sect i : Nat) : Bool :=
  (List.range (planOf s).steps.length).any fun j => decide (i < j) && decide (useAt s sect j = some 2)

/-- Whether a RERANK step stands before step `i`. -/
def rerankBefore (s : State) (i : Nat) : Bool :=
  (List.range i).any fun j =>
    match planStep s j with
    | some p => decide (p.1 = 5)
    | none => false

/-- The SCAN steps of a round end (R17, R185): a unit left undone makes the query short; without a round to come it leaves its team. -/
def scanEnded (s : State) (sect i : Nat) (r : Req) : State :=
  let stays := decide (useAt s sect i = some 1) && wantsRound2 r && round2Planned s sect i
  setReq s r.key (some { r with
    short := r.short || (decide (r.round ≠ 0) && scanShort s r)
    round := 0
    resident := r.resident && stays })

/-- A SELECT step run ends: the merging one has its result (R204); the one after RERANK gives the re-ranked order (R261). Both on the
root only. -/
def selectEnded (s : State) (i : Nat) (r : Req) : State :=
  if !isRoot s r then s
  else if r.first.isNone then finishSearch s r.key { r with
    short := r.short || !mergeDue s r }
  else if rerankBefore s i ∧ r.rerank.isNone then rerankSelect s r
  else s

/-- A front-end step of a request ends (R17): what its section leaves in the request. `bad` says that the item fell short. -/
def frontEnded (x : Section) (io : StepIn) (lost : List Nat) (s : State) (it : Nat × Nat) : State :=
  let bad := lost.contains it.1
  match reqOf s it.1 with
  | none => s
  | some r0 =>
    let r := { r0 with
      short := r0.short || bad }
    let s1 := setReq s it.1 (some r)
    if !endsUse s x it.2 then s1
    else if x.kind = 6 then packReq s1 it.1 (!bad)
    else if r.emptyText then s1
    else
      match x.kind with
      | 1 =>
        match io.vectors.find? fun v => v.1 = it.1 with
        | some v => if bad then s1 else setReq s1 it.1 (some { r with
            qvec := v.2 })
        | none => s1
      | 2 => if bad then s1 else centroidStep (chargeProbe s1 x.id r) it.1 r
      | 3 => scanEnded s1 x.id it.2 r
      | 4 => selectEnded s1 it.2 r
      | 5 =>
        if !isRoot s r then s1
        else if useAt s x.id it.2 = some 3 then fetchEnd s1 r false
        else
          let ls := match io.logits.find? fun v => v.1 = it.1 with
            | some v => v.2
            | none => []
          scoreRows (fetchEnd s1 r true) it.1 x.id ls
      | _ => s1

/-- The SCAN steps of a round begin: round 1 deals the query to a team (R181); round 2 runs where the first left too few matches (R185). -/
def scanStarted (s : State) (sect i : Nat) (r : Req) : State :=
  match useAt s sect i with
  | some 1 =>
    let s1 := assignTeam s sect r.key r
    match reqOf s1 r.key with
    | some r1 => setReq s1 r.key (some { r1 with
        round := 1
        unitsDone := [] })
    | none => s1
  | some 2 =>
    if wantsRound2 r ∧ r.resident then
      bump (setReq s r.key (some { r with
        round := 2
        round2 := true
        unitsDone := [] })) Reg.SEARCH_CNT_ROUND2
    else s
  | _ => s

/-- The merging SELECT step begins (R203, R204): an unsharded result is formed; the root of a sharded one waits until D; the others send
their runs. -/
def mergeStarted (s : State) (b : Nat) (r : Req) : State :=
  if r.shardCount ≤ 1 then finishSearch s r.key r
  else if isRoot s r then setReq s r.key (some { r with
    mergeBy := some (addBeats 0 (b + bits (reg s Reg.SELECT_POD_WAIT) 19 0)) })
  else sendRun s r

/-- A front-end step of a request begins at boundary `b`: it is charged (R302), and its section takes it up. -/
def frontStarted (x : Section) (b : Nat) (s : State) (it : Nat × Nat) : State :=
  match reqOf s it.1 with
  | none => s
  | some r =>
    let s1 := chargeItem s (some r.account) x.id 0
    if !beginsUse s x it.2 ∨ r.emptyText then s1
    else
      match x.kind with
      | 3 => scanStarted s1 x.id it.2 r
      | 4 => if mergePlace s = some it.2 then mergeStarted s1 b r else s1
      | 5 => if isRoot s r ∧ useAt s x.id it.2 = some 3 then fetchBegin s1 r b else s1
      | _ => s1

/-! ## The end of PREFILL and DECODE steps -/

/-- Positions of the next chunk of an entry in PREFILL (R283). -/
def chunkLen (s : State) (q : SeqEntry) : Nat := min (kvOf s).prefillChunk (q.promptLen - 1 - q.ctxLen)

/-- A PREFILL item ran: its chunk is written and full blocks enter the tree (R279). -/
def prefillRan (s : State) (e n : Nat) : State :=
  let q := seqOf s e
  insertFull (setSeq s e { q with
    ctxLen := q.ctxLen + n }) e (n / 32 + 1)

/-- TOKENS entries of a request: its sampled tokens from a TSN on. -/
def journalTokens (s : State) (role : Bool) (seq first : Nat) (ts : List Nat) : State :=
  (tokensBodies first (ts.length / 65535 + 1) ts).foldl (fun s' b => (journalFor s' role 0x07 seq b).1) s

/-- The TOKENS entry of a sequence that sampled (Table 18.4). -/
def tokensEntry (s : State) (e : Nat) : State :=
  let q := seqOf s e
  if q.journalled = 0 then s
  else
    let s1 := journalTokens s q.role q.reqSeq q.sampled.1 q.sampled.2
    setSeq s1 e { seqOf s1 e with
      journalled := 0 }

/-- The TOKENS entries at the end of a DECODE step: of the sequences that go on, in entry order, then of those that ended with their token. -/
def stepTokens (s : State) : State :=
  let s1 := (s.serve.ast.map (·.1)).foldl tokensEntry s
  let s2 := s1.serve.sampled.foldl (fun s' x => journalTokens s' x.1 x.2.1 x.2.2.1 x.2.2.2) s1
  { s2 with
    serve := { s2.serve with
      sampled := [] } }

/-- Whether an item of the ending step produced nothing (R289): an item of DECODE that has had its sampling slot is complete. -/
def itemLost (s : State) (x : Section) (e : Nat) : Bool :=
  (stepOf s x.id).lost.contains e && (decide (x.kind ≠ 8) || (seqOf s e).listed)

/-- One item of the ending step is charged unless it produced nothing (R302). -/
def chargeRan (x : Section) (s : State) (w : Nat × Nat × Nat) : State :=
  if itemLost s x w.1 then s else chargeItem s (some w.2.1) x.id w.2.2

/-- One item of the ending PREFILL step. -/
def callerItem (x : Section) (s : State) (w : Nat × Nat × Nat) : State :=
  if !itemLost s x w.1 ∧ x.kind = 7 ∧ (seqOf s w.1).mode = .prefill ∧ (seqOf s w.1).listed then prefillRan s w.1 w.2.2 else s

/-- No item is listed any more, and a mask that was late is late no longer. -/
def unlist (s : State) (kind : Nat) : State := { s with
    serve := { s.serve with
      ast := s.serve.ast.map fun p => (p.1,
        if (kind = 7 ∧ p.2.mode = .prefill) ∨ (kind = 8 ∧ p.2.mode = .ready) then { p.2 with
          listed := false
          maskLate := false } else p.2) } }

/-! ## The work list (R283) -/

/-- R294, tests 1 to 3, and R25, step 2: the reason an entry of the snapshot ends at boundary `b`. -/
def boundaryReason (s : State) (x : Section) (b : Nat) (q : SeqEntry) : Option Nat :=
  let cancelled := match (seqReq s q).bind (·.cancelled) with
    | some t => decide (t ≤ addBeats 0 b)
    | none => false
  let wrapped := decide (s.time.mode = .fault) && decide (s.time.cause = .wrap) && decide (0xFFFFFFFFC000 ≤ b)
  if cancelled then some 0x09
  else if wrapped ∨ q.deadline < addBeats 0 (b + x.period) then some 0x08
  else if q.memError then some 0x0A
  else none

/-- The entries of the snapshot: PREFILL and READY. -/
def snapshot (s : State) : List Nat :=
  (s.serve.ast.filter fun p => decide (p.2.mode = .prefill) || decide (p.2.mode = .ready)).map (·.1)

/-- Whether a DECODE step still runs an entry at a boundary of section `x`: it is listed there and has not had its sampling slot. -/
def runsElsewhere (x : Section) (q : SeqEntry) : Bool := decide (x.kind ≠ 8) && decide (q.mode = .ready) && q.listed

/-- An end reason is settled for an entry: it ends, at once or after the token of a DECODE step that began before (R296). -/
def settleEnd (s : State) (x : Section) (e reason : Nat) : State :=
  if runsElsewhere x (seqOf s e) then
    setSeq s e { seqOf s e with
      ending := some ((seqOf s e).ending.getD reason) }
  else endNoToken s e reason 0

/-- R294: the entries that end at the boundary; none of a module whose generation has stopped (R387, R480). -/
def endAtBoundary (s : State) (x : Section) (b : Nat) : State :=
  if s.twin.genStop then s
  else (snapshot s).foldl (fun s' e =>
    match (if x.kind = 8 then (seqOf s' e).ending else none), boundaryReason s' x b (seqOf s' e) with
    | some c, _ => endNoToken s' e c 0
    | none, some c => settleEnd s' x e c
    | none, none => s') s

/-- The PREFILL or DECODE step that ends at boundary `b`: its charges and TOKENS entries, and the edge's tree operations in the order of R282: releases,
inserts, lookups, pins. -/
def callerEnded (s : State) (x : Section) (b : Nat) : State :=
  let w := (stepOf s x.id).work
  let s1 := w.foldl (chargeRan x) s
  let s2 := if x.kind = 8 then stepTokens s1 else s1
  settleTree (unlist (w.foldl (callerItem x) (endAtBoundary s2 x b)) x.kind)

/-- The order of R283 between two candidates, replayed items first (R390). -/
def listedBefore (s : State) (a b : Nat) : Bool :=
  let p := seqOf s a
  let q := seqOf s b
  if p.replay ≠ q.replay then p.replay
  else if deficitOf s p.account ≠ deficitOf s q.account then decide (deficitOf s q.account < deficitOf s p.account)
  else if p.account ≠ q.account then decide (p.account < q.account)
  else if p.accept ≠ q.accept then decide (p.accept < q.accept)
  else decide (p.reqSeq = q.reqSeq) || serialLt 32 p.reqSeq q.reqSeq

/-- The key of an item's class (R313), which for PREFILL is its chunk. -/
def itemKey (s : State) (x : Section) (q : SeqEntry) : Nat := if x.kind = 8 then q.ctxLen else chunkLen s q

/-- The grammar sequences dropped from the candidates: their masks will be late (R248). -/
def maskWillBeLate (s : State) (late : List Nat) (e : Nat) : Bool :=
  (seqOf s e).grammar && (seqOf s e).mask.isNone && late.contains e

/-- The candidates of a step in order, before masks are asked about. -/
def candidatesOf (s : State) (x : Section) : List Nat :=
  (snapshot s).filter fun e => decide ((seqOf s e).mode = if x.kind = 8 then .ready else .prefill)

/-- R283: take candidates in order while the limit and the allowance last. -/
def takeItems (cost : Nat → Int) : Nat → Int → List Nat → List Nat
  | 0, _, _ => []
  | _, _, [] => []
  | n + 1, allow, e :: es => if allow < cost e then [] else e :: takeItems cost n (allow - cost e) es

/-- ITEM_LIMIT of a section (R50). -/
def itemLimit (s : State) (sect : Nat) : Nat :=
  match s.bond.image with
  | some im => ((im.proofs.find? fun p => p.sect = sect).map (·.itemLimit)).getD 0
  | none => 0

/-- Whether one list of node indices comes before another (R284). -/
def pathBefore : List Nat → List Nat → Bool
  | [], _ => true
  | _ :: _, [] => false
  | a :: as, b :: bs => if a = b then pathBefore as bs else decide (a < b)

/-- The final order of a list (R283, R284). -/
def runBefore (s : State) (a b : Nat) : Bool :=
  let p := seqOf s a
  let q := seqOf s b
  if p.vset ≠ q.vset then decide (p.vset < q.vset)
  else if p.nodes ≠ q.nodes then pathBefore p.nodes q.nodes
  else decide (p.reqSeq = q.reqSeq) || serialLt 32 p.reqSeq q.reqSeq

/-- The list of a step from its candidates (R283); state ZERO and a module whose generation has stopped list nothing (R316, R387). -/
def buildList (s : State) (x : Section) (b : Nat) (cand : List Nat) : List Nat :=
  if s.twin.genStop ∨ s.energy.thermal = .zero then []
  else
    let cost (e : Nat) : Int := classCost s x.id (itemKey s x (seqOf s e))
    sortOrd (runBefore s) (takeItems cost (itemLimit s x.id) (stepAllowance s x.id x.period b) (sortOrd (listedBefore s) cand))

/-- Candidates left out: counted, and their SKIPS grow. -/
def deferItems (s : State) (es : List Nat) : State :=
  bumpBy (es.foldl (fun s' e =>
    let q := seqOf s' e
    setSeq s' e { q with
      skips := min (q.skips + 1) 0xFFFF }) s) Reg.SERVE_CNT_DEFERRED es.length

/-- An entry is listed: it takes the blocks its positions of this step need (R275). -/
def listItem (x : Section) (s : State) (e : Nat) : State :=
  let n := if x.kind = 8 then 1 else chunkLen s (seqOf s e)
  let s1 := growBlocks s e ((seqOf s e).ctxLen + n) (n / 32 + 1)
  setSeq s1 e { seqOf s1 e with
    listed := true
    inexact := false }

/-- R285: the block reads that broadcast saves: every holder of a node beyond the first. -/
def broadcastSaved (s : State) (es : List Nat) : Nat :=
  let ns := es.flatMap fun e => (seqOf s e).nodes
  ns.length - ns.eraseDups.length

/-- Record the step's items. -/
def setWork (s : State) (i : Nat) (w : List (Nat × Nat × Nat)) : State := { s with
    steps := tmod (fun _ => StepSt.reset) s.steps i fun (t : StepSt) => { t with
      work := w } }

/-- The PREFILL or DECODE step that begins (R283), its end reasons settled: masks, the list, what is deferred, and the counters. -/
def callerStarted (s : State) (x : Section) (b : Nat) (late : List Nat) : State :=
  let all := candidatesOf s x
  let lates := if s.twin.genStop ∨ x.kind ≠ 8 then [] else all.filter (maskWillBeLate s late)
  let s1 := lates.foldl sitOut s
  let cand := all.filter fun e => !lates.contains e
  let l := buildList s1 x b cand
  let s2 := deferItems s1 (if s1.twin.genStop then [] else cand.filter fun e => !l.contains e)
  let w := l.map fun e => (e, (seqOf s2 e).account, itemKey s2 x (seqOf s2 e))
  let s3 := setWork (l.foldl (listItem x) s2) x.id w
  let s4 := bumpBy s3 Reg.PT_CNT_BCAST (broadcastSaved s3 l)
  if x.kind = 8 then bump s4 Reg.SERVE_CNT_STEPS else s4

/-! ## The cores (R286) -/

/-- A segment of given items (R286): their accounts, seeds, home offset (R274) and version set. -/
def segmentOf (s : State) (x : Section) (items : List Nat) : Segment :=
  if x.kind = 7 ∨ x.kind = 8 then
    let e := items.headD 0
    { items := items, owners := (items.map fun i => some (seqOf s i).account).eraseDups, seeds := items.map fun i => (seqOf s i).seed,
      home := e * (kvOf s).homeStride, vset := (seqOf s e).vset }
  else
    let rs := items.filterMap (reqOf s)
    { items := items, owners := (rs.map fun (r : Req) => some r.account).eraseDups, seeds := rs.map fun (r : Req) => r.seed, home := 0,
      vset := match rs with
        | r :: _ => r.vset
        | [] => stepVset x.id }

/-- R156, R284: a segment's items by version set, one segment a set, in the order in which the sets first stand. -/
def versionGroups (s : State) (x : Section) (g : List Nat) : List (List Nat) :=
  ((g.map (itemVset s x.id)).eraseDups).map fun v => g.filter fun i => decide (itemVset s x.id i = v)

/-- The segments that the division gives core `c`, of items on the list. -/
def segmentsFor (s : State) (x : Section) (deal : List (Nat × List (List Nat))) (listed : List Nat) (c : Nat) : List Segment :=
  let segs := match deal.find? fun d => d.1 = c with
    | some d => d.2
    | none => []
  (segs.flatMap fun g => versionGroups s x (g.filter fun i => listed.contains i)).map (segmentOf s x)

/-- A core that runs passes to its first segment (R161) and begins its table at word 0. -/
def restartCore (x : Section) (deal : List (Nat × List (List Nat))) (listed : List Nat) (s : State) (c : Nat) : State :=
  if !coreRuns s c then s
  else
    let segs := segmentsFor s x deal listed c
    let none_ := (seqTable s c).isNone
    modCore (handover s c 0 segs.head?) c fun (k : Core) => { k.rewindPrefetch with
      idle := none_
      pc := 0
      loops := []
      served := []
      lines := []
      segments := segs.tail
      vset := if segs = [] then stepVset x.id else k.vset }

/-- A TABLE step begins (R311, R316): it lists update entries within its allowance, none in state ZERO. -/
def tableStarted (s : State) (x : Section) (b : Nat) : State :=
  if s.energy.thermal = .zero then s
  else setBatches s (listEntries (classCost s x.id 0) s.assets.batches (stepAllowance s x.id x.period b))

/-- The TABLE step that ends: its entries are charged to the section (R302) and run. -/
def tableStepEnded (s : State) (x : Section) : State :=
  let n := listedEntries s
  tableEnded (if n = 0 then s else chargeItems s none x.id 0 n)

/-- The step begins: its boundary is taken, and nothing of it has fallen short. -/
def openStep (s : State) (i b : Nat) : State := { s with
    steps := tset (fun _ => StepSt.reset) s.steps i { at_ := b + 1, lost := [], work := [] } }

/-- The new step of a section: the versions that rows of no request read (R156), its work list, and its cores. -/
def beginStep (s : State) (x : Section) (b : Nat) (io : StepIn) : State :=
  let s1 := setVset (openStep s x.id b) (stepVset x.id) (currentSet s)
  let fr := frontItems s1 x.id b false
  let caller := decide (x.kind = 7 ∨ x.kind = 8)
  let s2 := if caller then callerStarted s1 x b io.late else if x.kind = 9 then tableStarted s1 x b else fr.foldl (frontStarted x b) s1
  let listed := if caller then (stepOf s2 x.id).work.map (·.1) else fr.map (·.1)
  (sectionCores s2 x.id).foldl (restartCore x io.deal listed) s2

/-- The step that ends: overrun (R47), merges (R200), and what its items leave. -/
def endStep (s : State) (x : Section) (b : Nat) (io : StepIn) : State :=
  let s1 := overrun s x
  let lost := (stepOf s1 x.id).lost
  let s2 := if x.kind = 7 ∨ x.kind = 8 then callerEnded s1 x b else if x.kind = 9 then tableStepEnded s1 x else (frontItems s1 x.id b true).foldl (frontEnded x io lost) s1
  clearUnits s2 (sectionGroups s2 x.id)

/-- R52, R62: a gate-list change due at the same edge comes first, be it a new entry or a switch. -/
def gatesFirst (s : State) : State := (List.range 4).foldl gateChange (dueSwitches s)

/-- STEP_BOUNDARY of section `i` (R31). -/
def stepBoundary (s : State) (i : Nat) (io : StepIn) : State :=
  match sectionOf s i with
  | none => s
  | some x =>
    if boundaryDue s x then beginStep (endStep (gatesFirst s) x s.time.beat io) x s.time.beat io else s

/-- STEP_BOUNDARY. -/
def execStepBoundary (i : Nat) (io : StepIn) (s : State) : Out := doneHost (stepBoundary s i io)

end Sys2Proof.Machine
end

