-- ==== Sys2Proof/Machine/Power.lean ====
section
/-!
DEFINITION. Machine/Power.lean: the power input and the Plinth (spec/20_power_supply.md): meters and records (R424 to R426), sequencing (R427 to R429), and
what the logic side does with them.
-/
namespace Sys2Proof.Machine

/-- Replace the Plinth. -/
def setPlinth (s : State) (p : PlinthSt) : State := { s with
    plinth := p }

/-- Whether the logic side has left reset. -/
def logicUp (s : State) : Bool := decide (s.topo.stage ≠ .power)

/-! ## Meters (R421, R424, R425) -/

/-- R424: a code calibrated with offset, gain and temperature coefficient; a negative value is taken as 0. -/
def calibrated (o g : Nat) (k : Int) (t : Int) (r : Nat) : Nat :=
  let gain : Int := (g : Int) + (g : Int) * k * t / 2 ^ 24
  ((((r : Int) - (o : Int)) * gain + 2 ^ 13) / 2 ^ 14).toNat

/-- One sample of voltage, current and temperature codes by coefficients of the three channels: the values. -/
def sampleValues (cal : Nat → Nat × Nat × Int) (v i t : Nat) : Nat × Nat × Nat :=
  let t16 := calibrated (cal 2).1 (cal 2).2.1 0 0 t
  let d : Int := (t16 : Int) - 400
  (calibrated (cal 0).1 (cal 0).2.1 (cal 0).2.2 d v, calibrated (cal 1).1 (cal 1).2.1 (cal 1).2.2 d i, t16)

/-- R421: 3,600 W over the voltage, in 2^-12 A. -/
def currentLimit (v : Nat) : Nat := 3600 * 2 ^ 20 / v

/-- R425: a sample enters the accumulator, the extremes and the limit. At 0 V the limit is a free value. -/
def sampleInto (s : State) (cal : Nat → Nat × Nat × Int) (v i t : Nat) : State :=
  if s.plinth.mode = .off then s
  else
    let x := sampleValues cal (v % 65536) (i % 65536) (t % 65536)
    let p := x.1 * x.2.1
    let q := s.plinth
    let s1 := if x.1 = 0 then tick s else s
    setPlinth s1 { q with
      acc := (q.acc + p) % 2 ^ 96
      total := q.total + p
      v := x.1
      i := x.2.1
      t16 := x.2.2
      limit := if x.1 = 0 then Config.free s.fresh else currentLimit x.1
      vMin := min q.vMin x.1
      vMax := max q.vMax x.1
      iMax := max q.iMax x.2.1 }

/-- PLINTH_SAMPLE. -/
def execPlinthSample (v i t : Nat) (s : State) : Out := done (sampleInto s Config.plinthCal v i t)

/-- Table 20.4: the record of the measure that a latch ends. -/
def telemetryRecord (p : PlinthSt) : List Byte :=
  let b := natLE 4 p.txSeq ++ natLE 8 (p.acc / 2 ^ 17) ++ natLE 8 (p.total / 2 ^ 17) ++ natLE 4 p.vMin ++ natLE 4 p.vMax ++ natLE 4 p.iMax
    ++ natLE 2 p.t16 ++ natLE 2 p.peak ++ natLE 1 ((if p.uvWarn then 1 else 0) + 2) ++ List.replicate 23 0
  b ++ natLE 4 (crc32c b)

/-- R425: the accumulator is latched at a measure boundary marker; the bits below 2^-20 J stay in it. -/
def plinthLatch (p : PlinthSt) : PlinthSt :=
  if p.mode = .off then p
  else { p with
    record := telemetryRecord p
    txSeq := (p.txSeq + 1) % 2 ^ 32
    acc := p.acc % 2 ^ 17
    vMin := 0xFFFFFFFF
    vMax := 0
    iMax := 0
    peak := 0
    uvWarn := false }

/-- UV_WARN (R420): the input stayed below 350 V for 50 µs. -/
def uvWarn (s : State) : State :=
  if s.plinth.mode = .off then s
  else
    let s1 := setPlinth s { s.plinth with
      uvWarn := true }
    if logicUp s then setBits s1 Reg.PWR_INT_STATUS 1 else s1

/-- UV_WARN. -/
def execUvWarn (s : State) : Out := done (uvWarn s)

/-- PEAK_LIMIT (R421): the current limit engaged in a 20 µs window. -/
def peakLimit (s : State) : State :=
  if s.plinth.mode ≠ .on ∧ s.plinth.mode ≠ .holdup then s
  else
    let s1 := setPlinth s { s.plinth with
      peak := min (s.plinth.peak + 1) 65535 }
    if logicUp s then setBits (bump s1 Reg.PWR_CNT_PEAK) Reg.PWR_INT_STATUS 2 else s1

/-- PEAK_LIMIT. -/
def execPeakLimit (s : State) : Out := done (peakLimit s)

/-! ## Records (R426) -/

/-- Whether the CRC of a record holds. -/
def recordWhole (b : List Byte) : Bool := decide (b.length = 64) && decide (le b 60 4 = crc32c (b.take 60))

/-- Whether a record follows the last one accepted. -/
def recordNext (s : State) (b : List Byte) : Bool :=
  match s.plinth.seq with
  | none => true
  | some n => decide (le b 0 4 = (n + 1) % 2 ^ 32)

/-- PWR_STATUS after an accepted record. -/
def powerStatus (s : State) (b : List Byte) : Nat :=
  Nat.land (reg s Reg.PWR_STATUS) 0xF0 + 1 + (if bit (le b 36 1) 1 then 2 else 0) + (if bit (le b 36 1) 0 then 4 else 0)

/-- ENERGY_TOTAL advances by the difference of the TOTAL fields of consecutive records; of the first since power-on, by its TOTAL (R319). -/
def energyTotal (s : State) (b : List Byte) : Nat := (reg64 s Reg.ENERGY_TOTAL + (le b 12 8 + 2 ^ 64 - s.plinth.seenTotal % 2 ^ 64)) % 2 ^ 64

/-- A valid record: the mirror of Table 20.5, the reading of the governor (R312) and ENERGY_TOTAL. -/
def acceptRecord (s : State) (b : List Byte) : State :=
  let s1 := setReg64 (setReg s Reg.PWR_STATUS (powerStatus s b)) Reg.ENERGY_TOTAL (energyTotal s b)
  let s2 := setReg64 (setReg64 (setReg s1 Reg.PWR_SEQ (le b 0 4)) Reg.PWR_E_MEAS (le b 4 8)) Reg.PWR_TOTAL (le b 12 8)
  let s3 := setReg (setReg (setReg (setReg s2 Reg.PWR_V_MIN (le b 20 4)) Reg.PWR_V_MAX (le b 24 4)) Reg.PWR_I_MAX (le b 28 4))
    Reg.PWR_T16_HV (le b 32 2)
  let s4 := setReg64 s3 Reg.ENERGY_MEAS (le b 4 8)
  setPlinth { s4 with
    energy := { s4.energy with
      reading := some (measureNo s4 - 1, signed 64 (le b 4 8)) } } { s4.plinth with
    seq := some (le b 0 4)
    seenTotal := le b 12 8
    recorded := true
    missRun := 0 }

/-- PLINTH_RECORD: `crossed` is the record as it crossed the barrier; none when it is the one the Plinth composed, unharmed. -/
def plinthRecord (s : State) (crossed : Option (List Byte)) : State :=
  if !logicUp s then s
  else
    let b := crossed.getD s.plinth.record
    if recordWhole b ∧ recordNext s b then acceptRecord s b else bump s Reg.PWR_CNT_TLM_BAD

/-- PLINTH_RECORD. -/
def execPlinthRecord (crossed : Option (List Byte)) (s : State) : Out := done (plinthRecord s crossed)

/-! ## Sequencing (R427 to R429) -/

/-- Everything powered down: what remains is module flash (R401, R406, R411, R439) and the Plinth. -/
def powerDown (s : State) (m : PowerMode) : State := { State.reset with
    pending := s.pending
    emitted := s.emitted
    fresh := s.fresh
    sec := { SecSt.reset with
      owners := s.sec.owners
      floors := s.sec.floors
      assetKeys := s.sec.assetKeys }
    plinth := { PlinthSt.reset with
      mode := m }
    topo := { TopoSt.reset with
      records := s.topo.records } }

/-- INPUT_VALID: the input rises above the start threshold, and power-up begins. -/
def inputValid (s : State) : State :=
  if s.plinth.mode = .off ∨ s.plinth.mode = .lockout then setPlinth s { PlinthSt.reset with
      mode := .rising }
  else s

/-- INPUT_VALID. -/
def execInputValid (s : State) : Out := done (inputValid s)

/-- RAIL_PGOOD_FAIL: one retry, then off until the input is applied anew. -/
def railFail (s : State) : State :=
  if s.plinth.mode ≠ .rising then s
  else setPlinth s { s.plinth with
    mode := if s.plinth.failed then .lockout else .retry
    failed := true }

/-- RAIL_PGOOD_FAIL. -/
def execRailPgoodFail (s : State) : Out := done (railFail s)

/-- POWER_RETRY. -/
def powerRetry (s : State) : State := if s.plinth.mode = .retry then setPlinth s { s.plinth with
    mode := .rising } else s

/-- POWER_RETRY. -/
def execPowerRetry (s : State) : Out := done (powerRetry s)

/-- UV_TRIP (R428): the input fell below 340 V, or the interlock opened. -/
def uvTrip (s : State) : State :=
  match s.plinth.mode with
  | .on => setPlinth s { s.plinth with
      mode := .holdup }
  | .rising => powerDown s .off
  | .retry => powerDown s .off
  | .lockout => powerDown s .off
  | .off => s
  | .holdup => s

/-- UV_TRIP. -/
def execUvTrip (s : State) : Out := done (uvTrip s)

/-- INPUT_LOSS (R428): the flag of UV_TRIP reaches the logic side. -/
def inputLoss (s : State) : State :=
  if s.plinth.mode = .holdup ∧ logicUp s then declareFault (setBits s Reg.PWR_INT_STATUS 8) 5 else s

/-- INPUT_LOSS. -/
def execInputLoss (s : State) : Out := done (inputLoss s)

/-- RAIL_SHUTDOWN: the hold-up ends (R428), or the bus falls below 10.0 V (R421). -/
def railShutdown (s : State) : State :=
  match s.plinth.mode with
  | .holdup => powerDown s .off
  | .on => powerDown s .lockout
  | _ => s

/-- RAIL_SHUTDOWN. -/
def execRailShutdown (s : State) : Out := done (railShutdown s)

/-- OV_TRIP (R429): the converter stops at once. -/
def ovTrip (s : State) : State := if s.plinth.mode = .off then s else powerDown s .lockout

/-- OV_TRIP. -/
def execOvTrip (s : State) : Out := done (ovTrip s)

end Sys2Proof.Machine
end

