-- ==== Sys2Proof/Machine/Bringup.lean ====
section
/-!
DEFINITION. Machine/Bringup.lean: bring-up, warm reset and partial reset (spec/21_bringup_reset.md).
-/
namespace Sys2Proof.Machine

/-! ## Stages (R431) -/

/-- STAGE of Table 21.1. -/
def BringUp.code : BringUp → Nat
  | .power => 0
  | .fuse => 1
  | .firmware => 2
  | .discovery => 3
  | .training => 4
  | .memInit => 5
  | .timeWait => 6
  | .ready => 7
  | .halted => 15

/-- Bring-up enters a stage. -/
def setStage (s : State) (x : BringUp) : State :=
  setReg { s with
    topo := { s.topo with
      stage := x } } Reg.TOPO_STAGE x.code

/-- Bring-up halts with a code of Table 21.4 and its index. -/
def halt (s : State) (code index : Nat) : State :=
  setBits (setReg (setStage s .halted) Reg.TOPO_CODE (index * 65536 + code)) Reg.TOPO_INT_STATUS 4

/-! ## FUSE (R435, R436) -/

/-- Table 21.3: VARIANT, MEMBER, groups on each die, memory devices, pod ports. -/
def variants : List (Nat × Nat × Nat × Nat × Nat) :=
  [(0x0920, 0x0F09, 120, 0xFFFFFFFF, 0xF), (0x0910, 0x0F09, 120, 0x0F0F0F0F, 0xF), (0x0720, 0x0F07, 90, 0xFFFFFFFF, 0x3)]

/-- GROUP_EN of die `d`. -/
def fuseGroupMask (b : List Byte) (d : Nat) : Nat := le b (16 * d) 16

/-- Bits set in the low `n` bits of a mask. -/
def countBits (n m : Nat) : Nat := ((List.range n).filter fun i => bit m i).length

/-- Whether the counts of a fuse map agree with Table 21.3. -/
def variantHolds (b : List Byte) : Bool :=
  variants.any fun v =>
    decide (le b 70 2 = v.1) && decide (le b 72 2 = v.2.1)
      && ((List.range 4).all fun d => decide (countBits 128 (fuseGroupMask b d) = v.2.2.1))
      && decide (le b 64 4 = v.2.2.2.1) && decide (le b 68 1 % 16 = v.2.2.2.2) && bit (le b 68 1) 4

/-- The IDENT registers that follow from the fuses (R2, Table 00.2). -/
def setIdent (s : State) (b : List Byte) : State :=
  let groups := sumNat ((List.range 4).map fun d => countBits 128 (fuseGroupMask b d))
  let s1 := setReg (setReg (setReg s Reg.IDENT_PART (0x0CA5 * 65536 + le b 72 2)) Reg.IDENT_SILICON (le b 74 2)) Reg.IDENT_ARCH (le b 76 4)
  let s2 := putField (putField s1 Reg.IDENT_GROUPS 31 16 groups) Reg.IDENT_MEMDEV 23 16 (countBits 32 (le b 64 4))
  let s3 := putField (setReg s2 Reg.IDENT_VARIANT (le b 70 2)) Reg.IDENT_PODPORTS 7 0 (countBits 4 (le b 68 1))
  setReg (setReg s3 Reg.IDENT_TWIN (if bit (le b 68 1) 4 then 1 else 0)) Reg.SELECT_UNITS groups

/-- The fuse map is read (Table 21.2). -/
def takeFuses (s : State) (b : List Byte) : State :=
  let s1 := { s with
    topo := { s.topo with
      fuse := b
      fuseGroups := (List.range 4).map (fuseGroupMask b)
      fuseMem := le b 64 4
      fusePods := le b 68 1 % 16
      fuseTwin := bit (le b 68 1) 4 }
    sec := { s.sec with
      keys := some deviceKeys } }
  setRegBytes (setRegBytes (setIdent s1 b) (Reg.TOPO_FUSE_GROUPS 0) (b.take 64)) Reg.TOPO_FUSE_MISC (slice b 64 16)

/-- Whether the CRC of the fuse map holds. -/
def fusesWhole (b : List Byte) : Bool := decide (b.length = 128) && decide (le b 124 4 = crc32c (b.take 124))

/-! ## FIRMWARE (R434) -/

/-- The code that refuses an image, if any: its signature, then its version against the floor. -/
def firmwareBad (fw : Nat → Bool × Nat × List Byte) (floor i : Nat) : Option Nat :=
  if !(fw i).1 then some 0x03 else if (fw i).2.1 < floor then some 0x04 else none

/-- The image that runs, or the code of the active image. -/
def firmwareChoice (fw : Nat → Bool × Nat × List Byte) (active floor : Nat) : Except Nat Nat :=
  match firmwareBad fw floor active with
  | none => .ok active
  | some c => if (firmwareBad fw floor (1 - active)).isNone then .ok (1 - active) else .error c

/-- Stages FUSE and FIRMWARE; bring-up then stands at DISCOVERY. -/
def boot (s : State) (b : List Byte) (fw : Nat → Bool × Nat × List Byte) (active floor : Nat) : State :=
  if !fusesWhole b then halt s 0x01 0xFFFF
  else if !variantHolds b then halt s 0x02 0xFFFF
  else
    let s1 := takeFuses s b
    match firmwareChoice fw active floor with
    | .error c => halt s1 c active
    | .ok i => setStage (setReg s1 Reg.TOPO_FW_IMAGE ((fw i).2.1 % 65536 * 65536 + i)) .discovery

/-- RESET_RELEASE (R427, R431): the rails are up and the logic side leaves reset. -/
def resetRelease (s : State) (b : List Byte) (fw : Nat → Bool × Nat × List Byte) (active floor : Nat) : State :=
  if s.plinth.mode ≠ .rising then s
  else
    let s1 := setPlinth s { s.plinth with
      mode := .on
      failed := false }
    boot (putField s1 Reg.PWR_STATUS 7 4 0xF) b fw active floor

/-- RESET_RELEASE. -/
def execResetRelease (s : State) : Out :=
  done (resetRelease s Config.fuseBytes Config.firmware (Config.activeImage % 2) Config.firmwareFloor)

/-! ## DISCOVERY (R437, R438) -/

/-- The units of a die's groups that the fuses enable and a bitmap misses. -/
def groupFails (s : State) (code : Nat) (maps : List Nat) : List (Nat × Nat) :=
  (List.range 4).flatMap fun d => ((enabledGroups s d).filter fun g => !bit (maps.getD d 0) g).map fun g => (code, 128 * d + g)

/-- The first entry of two lists of group failures in order of group; a failed self test comes before failed slices. -/
def firstGroup (a b : List (Nat × Nat)) : Option (Nat × Nat) :=
  match a.head?, b.head? with
  | some x, some y => if x.2 ≤ y.2 then some x else some y
  | some x, none => some x
  | none, y => y

/-- The first failure of discovery against the fuse map, in the order of R437. -/
def discoveryFail (s : State) (d : Discovery) : Option (Nat × Nat) :=
  let dies := (List.range 4).flatMap fun i => (if bit d.dies i then [] else [(0x10, i)]) ++ (if bit d.srams i then [] else [(0x11, i)])
  let bridges := ((List.range 6).filter fun i => !bit d.bridges i).map fun i => (0x15, i)
  let mems := (memDevices s).flatMap fun k =>
    (if bit d.memPresent k then [] else [(0x16, k)]) ++ (if bit d.memGood k then [] else [(0x17, k)])
  let ports := ((unitsOf s 3).filter fun n => !bit d.ports n).map fun n => (0x18, n)
  let twin := if s.topo.fuseTwin ∧ !d.firic then [(0x19, 0)] else []
  (dies.head?.or (firstGroup (groupFails s 0x12 d.groups) (groupFails s 0x13 d.slices))).or
    ((groupFails s 0x14 d.routes ++ bridges ++ mems ++ ports ++ twin).head?)

/-- The groups of a die that passed. -/
def groupsPassed (s : State) (d : Discovery) (i : Nat) : Nat :=
  Nat.land (s.topo.fuseGroups.getD i 0) (Nat.land (d.groups.getD i 0) (Nat.land (d.slices.getD i 0) (d.routes.getD i 0)))

/-- The result record (R437): the units that passed, a bitmap for each class, of the enabled units (log 71). -/
def discoveryRecord (s : State) (d : Discovery) : List Byte :=
  let en (i : Nat) := s.topo.fuseGroups.getD i 0
  natLE 1 (d.dies % 16) ++ natLE 1 (d.srams % 16)
    ++ (List.range 4).flatMap (fun i => natLE 16 (Nat.land (en i) (Nat.land (d.groups.getD i 0) (d.slices.getD i 0))))
    ++ (List.range 4).flatMap (fun i => natLE 16 (Nat.land (en i) (d.routes.getD i 0))) ++ natLE 1 (d.bridges % 64)
    ++ natLE 4 (Nat.land s.topo.fuseMem (Nat.land d.memPresent d.memGood))
    ++ natLE 1 (Nat.land s.topo.fusePods d.ports + (if s.topo.fuseTwin && d.firic then 16 else 0))

/-- DISCOVERY_DONE. -/
def discoveryDone (s : State) (d : Discovery) : State :=
  if s.topo.stage ≠ .discovery then s
  else
    let gs := (List.range 4).map (groupsPassed s d)
    let s1 := { s with
      topo := { s.topo with
        discGroups := gs
        discovery := discoveryRecord s d } }
    let s2 := setRegBytes s1 (Reg.TOPO_DISC_GROUPS 0) (gs.flatMap (natLE 16))
    match discoveryFail s d with
    | some f => halt s2 f.1 f.2
    | none => setStage ((unitsOf s2 3).foldl (fun x n => setUnitMode x 3 n .available) s2) .training

/-- DISCOVERY_DONE. -/
def execDiscoveryDone (d : Discovery) (s : State) : Out := done (discoveryDone s d)

/-! ## TRAINING (R439, R440) -/

/-- Every LPDDR channel and die bridge. -/
def trainedUnits (s : State) : List TrainUnit :=
  (memDevices s).flatMap (fun k => (List.range 8).map fun c => TrainUnit.channel (8 * k + c)) ++ (List.range 6).map TrainUnit.bridge

/-- What training found of one channel or bridge. -/
def Training.of (t : Training) (u : TrainUnit) : LinkTraining :=
  { crcBad := t.crcBad.contains u, t16 := t.t16, partner := [], weak := t.weak.contains u }

/-- The halt code of a channel or bridge that failed full training; bring-up does not wait for an external link (R440, R441). -/
def trainingHalt : TrainUnit → Option (Nat × Nat)
  | .channel k => some (0x20, k)
  | .bridge b => some (0x21, b)
  | .hostPort => none
  | .podPort _ => none
  | .firic => none

/-- TRAINING_DONE (R439, R440): every channel and bridge trained, from its saved record or in full. -/
def trainingDone (s : State) (t : Training) : State :=
  if s.topo.stage ≠ .training then s
  else
    let s3 := (trainedUnits s).foldl (fun s' u => trainUnit s' u (t.of u)) s
    match t.failed.bind trainingHalt with
    | some h => halt s3 h.1 h.2
    | none =>
      let s4 := { s3 with
        topo := { s3.topo with
          bridges := 0x3F } }
      setStage ((unitsOf s4 2).foldl (fun x k => setUnitMode x 2 k .available) s4) .memInit

/-- TRAINING_DONE. -/
def execTrainingDone (t : Training) (s : State) : Out := done (trainingDone s t)

/-- TRAINING_RECORD_WRITE (R440, R443): a record reaches flash; the epoch of its controller or port increments. -/
def trainingRecordWrite (s : State) (u : TrainUnit) : State :=
  match (if s.topo.stage = .ready then s.topo.unsaved.find? fun p => decide (p.1 = u) else none) with
  | none => s
  | some r =>
    let s1 := { s with
      topo := { s.topo with
        unsaved := s.topo.unsaved.erase r
        records := s.topo.records.filter (fun p => decide (p.1 ≠ u)) ++ [r] } }
    match u with
    | .channel k => bumpEpoch s1 2 (k / 8)
    | .podPort n => bumpEpoch s1 3 n
    | _ => s1

/-- TRAINING_RECORD_WRITE. -/
def execTrainingRecordWrite (u : TrainUnit) (s : State) : Out := done (trainingRecordWrite s u)

/-! ## MEM_INIT, TIME_WAIT, READY (R431, R432) -/

/-- TIME_WAIT ends once the time state is LOCKED: READY, and the text and grammar units serve (R442). The milliseconds that bring-up
took are a free value: they are measured on the reference oscillator. -/
def timeWaitDone (s : State) : State :=
  if s.topo.stage ≠ .timeWait ∨ s.time.mode ≠ .locked then s
  else
    let s1 := setReg (tick s) Reg.TOPO_BRINGUP_MS (Config.free s.fresh)
    setBits (setUnitMode (setUnitMode (setStage s1 .ready) 4 0 .available) 5 0 .available) Reg.TOPO_INT_STATUS 2

/-- MEM_INIT_DONE: every byte of LPDDR is zero; a channel that failed halts bring-up. -/
def memInitDone (s : State) (failed : Option Nat) : State :=
  if s.topo.stage ≠ .memInit then s
  else
    match failed with
    | some k => halt s 0x22 k
    | none =>
      let s1 := { s with
        lpddr := []
        poison := []
        topo := { s.topo with
          discMem := s.topo.fuseMem } }
      timeWaitDone (setStage (setReg s1 Reg.TOPO_DISC_MEM s.topo.fuseMem) .timeWait)

/-- MEM_INIT_DONE. -/
def execMemInitDone (failed : Option Nat) (s : State) : Out := done (memInitDone s failed)

/-! ## Warm reset (R435) -/

/-- Whether the register word at `a` keeps its value across a warm reset (Table 00.5, ST). -/
def sticky (a : Nat) : Bool :=
  match regRow a with
  | some (r, _) => decide (r.acc = .w1c) || decide (r.acc = .roSt)
  | none => false

/-- R443: every unit's epoch increments. -/
def warmUnits (s : State) : Tab UnitSt :=
  ([0, 1, 2, 3, 4, 5].flatMap fun c => (unitsOf s c).map (unitKey c)).foldl (fun t k =>
    tset (fun _ => UnitSt.reset) t k { mode := .off, at_ := none, epoch := ((tget (fun _ => UnitSt.reset) s.topo.units k).epoch + 1) % 65536 }) []

/-- What a warm reset leaves before bring-up runs again: ST fields, module flash, unit epochs, the Plinth, and a debug unlock, which
only its expiry or power-off ends (R418). -/
def warmState (s : State) : State := { State.reset with
    pending := s.pending
    emitted := s.emitted
    fresh := s.fresh
    regs := s.regs.filter fun p => sticky p.1
    sec := { SecSt.reset with
      owners := s.sec.owners
      floors := s.sec.floors
      assetKeys := s.sec.assetKeys
      unlocked := s.sec.unlocked
      token := s.sec.token }
    plinth := { s.plinth with
      seq := none
      missRun := 0 }
    topo := { TopoSt.reset with
      records := s.topo.records
      units := warmUnits s
      retrain := regBit s Reg.TOPO_CTRL 1 } }

/-- The warm reset, counted, with the loss of the host link; a FATAL error is over (R456). -/
def warmReset (s : State) (b : List Byte) (fw : Nat → Bool × Nat × List Byte) (active floor : Nat) : State :=
  if !logicUp s then s
  else
    let s0 := bump (warmState s) Reg.TOPO_WARM_COUNT
    let s1 := clearBits (if s.host.linkUp then bump s0 Reg.HQ_CNT_LINK_DOWN else s0) Reg.ERR_STATUS 1
    boot (putField (setStage s1 .fuse) Reg.PWR_STATUS 7 4 0xF) b fw active floor

/-- WARM_RESET. -/
def execWarmReset (s : State) : Out :=
  done (warmReset s Config.fuseBytes Config.firmware (Config.activeImage % 2) Config.firmwareFloor)

/-! ## Partial reset (R442 to R447) -/

/-- The items of every segment of a core in this step, those that YIELDs have ended among them. -/
def coreItems (k : Core) : List Nat :=
  k.served ++ (match k.current with
    | some x => x.items
    | none => []) ++ k.segments.flatMap (·.items)

/-- R200: the candidate lists that a group's cores hold are gone, and the merges of their queries go without them (SECTION_SHORT). -/
def candidatesLost (s : State) (g : Nat) : State := { s with
    front := { s.front with
      reqs := s.front.reqs.map fun p => (p.1, p.2.map fun (r : Req) =>
        if r.resident && r.team.any (fun c => decide (c / 64 = g)) then { r with
          cands := r.cands.filter fun q => decide (q.1 / 64 ≠ g)
          candTied := r.candTied.filter fun q => decide (q.1 / 64 ≠ g)
          short := true } else r) } }

/-- What a reset of group `g` does to the work of its section: items lost, runs discarded, an APPLY ended (R159, R200, R221, R267,
R289). -/
def groupWorkLost (s : State) (g : Nat) : State :=
  let s1 := match groupSection s g with
    | none => s
    | some i =>
      let items := (groupCores g).flatMap fun c => coreItems (core s c)
      let s0 := loseItems s i items
      match sectionOf s i with
      | some x => if x.kind = 9 then tabUnitReset s0 else s0
      | none => s0
  candidatesLost s1 g

/-- A selection unit loses its slots (R200). -/
def selectionLost (s : State) (g : Nat) : State := { s with
    sel := { s.sel with
      slots := s.sel.slots.filter fun p => decide (p.1 / 64 ≠ g) } }

/-- The runs that a group's cores have not delivered are lost with it (R200). -/
def runsLost (s : State) (g : Nat) : State := { s with
    sel := { s.sel with
      flight := s.sel.flight.filter fun f => decide (f.core / 64 ≠ g) } }

/-- The reset of an AVAILABLE unit begins (Table 21.5). -/
def unitResetBegin (s : State) (cls i : Nat) : State :=
  match cls with
  | 0 =>
    let s1 := powerGroup (runsLost (selectionLost (groupWorkLost s i) i) i) i
    let s2 := beginReset s1 0 i
    if (unitSt s2 1 i).mode = .resetting then s2
    else
      let s3 := bumpEpoch s2 1 i
      setUnit s3 1 i { unitSt s3 1 i with
        mode := .resetting }
  | 1 => beginReset (selectionLost s i) 1 i
  | 2 => beginReset (tabUnitReset s) 2 i
  | 3 => podReset s i
  | 4 => beginReset (textUnitReset s) 4 i
  | _ => beginReset (gramUnitReset s) 5 i

/-- Whether a unit exists on this module (R446). -/
def unitPresent (s : State) (cls i : Nat) : Bool := decide (cls ≤ 5) && (unitsOf s cls).contains i

/-- A reset that error handling starts; a running one goes on (R446). -/
def unitReset (s : State) (cls i : Nat) : State :=
  if unitPresent s cls i ∧ (unitSt s cls i).mode = .available then unitResetBegin s cls i else s

/-- A host command for a unit: BUSY until the unit returns to service. -/
def hostUnitReset (s : State) : State :=
  let sel := reg s Reg.TOPO_UNIT_SEL
  let cls := bits sel 18 16
  let i := bits sel 8 0
  if s.topo.cmd.isSome then protocol s 0x0005 Reg.TOPO_UNIT_CMD 1
  else if !unitPresent s cls i then setReg s Reg.TOPO_UNIT_RESULT 2
  else if (unitSt s cls i).mode = .off then setReg s Reg.TOPO_UNIT_RESULT 3
  else
    let s1 := unitReset (setReg s Reg.TOPO_UNIT_RESULT 1) cls i
    { s1 with
      topo := { s1.topo with
        cmd := some (cls, i) } }

/-- UNIT_RESET: by host software, or by error handling for the unit it names. -/
def execUnitReset (named : Option (Nat × Nat)) (s : State) : Out :=
  match named with
  | none => host s Reg.TOPO_UNIT_CMD hostUnitReset
  | some u => done (unitReset s u.1 u.2)

/-- Whether the present edge is a step boundary of the section of group `g`; true for a group of no section. -/
def atBoundaryOf (s : State) (g : Nat) : Bool :=
  match (groupSection s g).bind (sectionOf s) with
  | none => true
  | some x => decide (s.time.ck = 0) && decide (x.phase ≤ s.time.beat) && decide ((s.time.beat - x.phase) % max x.period 1 = 0)

/-- R151, R455: a group's PIN_SCRATCH allocations are filled again, as at sealing. -/
def refillPinned (s : State) (g : Nat) : State := if isSealed s then fillPinned s (groupCores g) else s

/-- A host command for a selection unit that returned with its group is DONE (R446). -/
def endWithGroup (s : State) (g : Nat) : State :=
  if s.topo.cmd = some (1, g) then setReg { s with
    topo := { s.topo with
      cmd := none } } Reg.TOPO_UNIT_RESULT 0
  else s

/-- UNIT_RETURN (Table 21.5): a core group or selection unit at its section's step boundary, a port at link-up, the others when their
reset ends. A selection unit alone returns to the state of its group (R442). -/
def unitReturn (s : State) (cls i : Nat) : State :=
  if (unitSt s cls i).mode ≠ .resetting then s
  else
    match cls with
    | 0 =>
      if !atBoundaryOf s i then s
      else
        let m := if groupLive s i then UnitMode.available else .off
        endReset (endWithGroup (setUnitMode (refillPinned s i) 1 i m) i) 0 i m
    | 1 => if atBoundaryOf s i ∧ (unitSt s 0 i).mode ≠ .resetting then endReset s 1 i (unitSt s 0 i).mode else s
    | 3 => if (portOf s i).linkUp then endReset s 3 i .available else s
    | c => endReset s c i .available

/-- UNIT_RETURN. -/
def execUnitReturn (cls i : Nat) (s : State) : Out := done (unitReturn s cls i)

end Sys2Proof.Machine
end

