-- ==== Sys2Proof/Machine/Monitor.lean ====
section
/-!
DEFINITION. Machine/Monitor.lean: checked words and what errors do (spec/22_monitoring.md, R452 to R456, R464), and the event counters (R460 to R462).
-/
namespace Sys2Proof.Machine

/-! ## Checked words (R452 to R456) -/

/-- The log fields of a place: DIE, UNIT, SECTION, ADDR (Table 22.3). -/
def placeItem (s : State) (p : EccPlaceOf) (code cls syndrome : Nat) : LogItem :=
  match p with
  | .scratchpad c a =>
    { code := code, cls := cls, die := dieOf c, unit := c / 64, sect := (coreSection s c).getD 0xFFFF, addr := a, syndrome := syndrome }
  | .lpddr g o =>
    let n := 8 * (memDevices s).length
    { code := code, cls := cls, die := deviceOf s g o / 8, unit := 8 * deviceOf s g o + (g + o / 2048) % n % 8, addr := ldKey g o,
      syndrome := syndrome }
  | .mortar d _ => { code := code, cls := cls, die := d, syndrome := syndrome }
  | .keystone => { code := code, cls := cls, syndrome := syndrome }

/-- CE code of a place (Table 22.4), its counter, and the event of class 0x05. -/
def ceOf : EccPlaceOf → Nat × Nat × Nat
  | .scratchpad _ _ => (0x0040, Reg.ERR_CNT_CE_SCRATCH, 0)
  | .lpddr _ _ => (0x0042, Reg.ERR_CNT_CE_LPDDR, 2)
  | .mortar _ _ => (0x0044, Reg.ERR_CNT_CE_MORTAR, 4)
  | .keystone => (0x0047, 0, 0)

/-- The die on which an error counts as an event. -/
def placeDie (s : State) : EccPlaceOf → Option Nat
  | .scratchpad c _ => some (dieOf c)
  | .lpddr g o => some (deviceOf s g o / 8)
  | .mortar d _ => some d
  | .keystone => none

/-- R464: a corrected error enters the count of the measure; CE_STORM at the one that reaches ERR_CE_THRESH, once in a measure. -/
def ceStorm (s : State) : State :=
  let n := s.err.ceMeasure + 1
  let s1 := { s with
    err := { s.err with
      ceMeasure := n } }
  if reg s Reg.ERR_CE_THRESH = n ∧ !s.err.storm then setBits { s1 with
    err := { s1.err with
      storm := true } } Reg.ERR_INT_STATUS 8
  else s1

/-- A corrected error: counted and logged (R452). Keystone memory has no CE code. -/
def countCe (s : State) (p : EccPlaceOf) (syndrome : Nat) : State :=
  match p with
  | .keystone => s
  | _ =>
    let c := ceOf p
    ceStorm (logErr (event (bump s c.2.1) 5 c.2.2 none (placeDie s p) 1) (placeItem s p c.1 0 syndrome))

/-- R454: the corrected word goes back, unless another write came first. -/
def eccWriteBack (s : State) (p : EccPlaceOf) (data : Nat) (dropped : Bool) : State :=
  if dropped then s
  else
    match p with
    | .scratchpad c a => spPut s c a (natLE 8 data)
    | .lpddr g o => { s with
        lpddr := memWrite s.lpddr (ldKey g o) (natLE 8 data) }
    | _ => s

/-- A UE is counted and seen (R455, Table 22.7). -/
def countUe (s : State) (p : EccPlaceOf) : State :=
  let s1 := setBits (setBits (bump s Reg.ERR_CNT_UE) Reg.ERR_STATUS 2) Reg.ERR_INT_STATUS 4
  match p with
  | .keystone => s1
  | _ => event s1 5 ((ceOf p).2.2 + 1) none (placeDie s p) 1

/-- R456: a FATAL error. -/
def fatal (s : State) (p : EccPlaceOf) (syndrome : Nat) : State :=
  let s1 := logErr s (placeItem s p 0x0047 4 syndrome)
  declareFault (setBits (setBits s1 Reg.ERR_STATUS 1) Reg.ERR_INT_STATUS 2) 3

/-- Entries of the active sequence table that an error reaches: `hit` says of which. -/
def markMem (s : State) (hit : Nat → SeqEntry → Bool) : State :=
  s.serve.ast.foldl (fun s' x => if x.2.mode ≠ .free ∧ hit x.1 x.2 then setSeq s' x.1 { x.2 with
      memError := true } else s') s

/-- A tree node loses VALID. -/
def invalidate (s : State) (hit : Nat → Node → Bool) : State := { s with
    serve := { s.serve with
      nodes := s.serve.nodes.map fun x => (x.1, x.2.map fun n => if hit x.1 n then { n with
        valid := false } else n) } }

/-- R455: a UE at byte `o` of the key/value region. -/
def kvError (s : State) (k : KvPool) (o : Nat) : State :=
  if o < nodeOff k then s
  else if o < areaOff k 0 then
    let i := (o - nodeOff k) / 192
    markMem (invalidate s fun n _ => decide (n = i)) fun _ q => q.nodes.contains i
  else if o < blockOff k 0 then markMem s fun e _ => decide (e = (o - areaOff k 0) / 8192)
  else
    let b := (o - blockOff k 0) / max k.blockBytes 1
    markMem (invalidate s fun _ n => decide (n.block = b)) fun _ q => q.blocks.contains b

/-- Table 22.2: what a UE does where it lay. -/
def ueEffect (s : State) (p : EccPlaceOf) (syndrome : Nat) : State :=
  match p with
  | .scratchpad c _ => unitReset s 0 (c / 64)
  | .lpddr g o =>
    let s1 := { s with
      poison := insertAsc (ldKey g o) s.poison }
    match s.bond.image with
    | none => s1
    | some im =>
      match im.regions[g]? with
      | none => s1
      | some r =>
        if r.kind = 4 then kvError s1 im.kv o
        else if r.kind = 3 then markMem s1 fun e _ => decide (e = o / max im.kv.homeStride 1)
        else s1
  | .mortar d fourth => if fourth then fatal s p syndrome else event s 5 6 none (some d) 1
  | .keystone => fatal s p syndrome

/-- A UE: logged where its place has a code, counted, and its effect (R455, R456). -/
def uncorrectable (s : State) (p : EccPlaceOf) (syndrome : Nat) : State :=
  let s1 := match p with
    | .keystone => s
    | _ => logErr s (placeItem s p ((ceOf p).1 + 1) 1 syndrome)
  ueEffect (countUe s1 p) p syndrome

/-- Whether an LPDDR word is usable: of a region of the image, of the module reserve, or of memory that no region takes, which the model names by
a number of its own (R453; log 53). -/
def usableWord (s : State) (g o : Nat) : Bool :=
  inRegion s g o 8 || (decide (g = reserveRegion) && decide (o + 8 ≤ Config.moduleReserve))
    || (decide (g = looseRegion) && decide (memDevices s ≠ []) && decide (o < 2 ^ 48))

/-- Whether a place holds a word that can be checked: a slice that is on, a usable LPDDR word; the word is aligned. -/
def checkable (s : State) : EccPlaceOf → Bool
  | .scratchpad c a => decide (a % 8 = 0) && decide (a < spSize) && decide (tget (fun _ => SliceSt.off) (core s c).slices (a / 65536) = .on)
  | .lpddr g o => decide (o % 8 = 0) && usableWord s g o
  | _ => true

/-- The data of the word at a place; flits and Keystone words stand for themselves. -/
def placeData (s : State) : EccPlaceOf → Nat
  | .scratchpad c a => spNat s c a 8
  | .lpddr g o => ldNat s g o 8
  | _ => 0

/-- The last word of a full pass was checked (Table 22.7). -/
def passEnds (s : State) : EccPlaceOf → State
  | .scratchpad _ _ => setReg64 s Reg.ERR_SCRUB_SP (now s)
  | .lpddr _ _ => setReg64 s Reg.ERR_SCRUB_LPDDR (now s)
  | _ => s

/-- A scrub access of a scratchpad or LPDDR word counts as event 7 of class 0x05 on its die (Table 22.5); a flit or a Keystone word is not
scrubbed. -/
def scrubEvent (s : State) (p : EccPlaceOf) : State :=
  match p with
  | .scratchpad _ _ => event s 5 7 none (placeDie s p) 1
  | .lpddr _ _ => event s 5 7 none (placeDie s p) 1
  | _ => s

/-- SCRUB_ACCESS: `flips` are the stored bits that changed since the word was written,
`dropped` says that another write overtook the write-back, `pass` that a full scrub pass ends here. -/
def checkWord (s : State) (p : EccPlaceOf) (flips : Nat) (dropped pass : Bool) : State :=
  if !checkable s p then s
  else
    let s0 := scrubEvent s p
    let s1 := match eccRead (Nat.xor (eccStore (placeData s p)) (flips % 2 ^ 72)) with
      | .good d => eccWriteBack s0 p d dropped
      | .corrected d y => eccWriteBack (countCe s0 p y) p d dropped
      | .bad y => uncorrectable s0 p y
    if pass then passEnds s1 p else s1

/-- SCRUB_ACCESS. -/
def execScrubAccess (p : EccPlaceOf) (flips : Nat) (dropped pass : Bool) (s : State) : Out := done (checkWord s p flips dropped pass)

/-! ## Event counters (R461, R462) -/

/-- Whether an event class and event are defined (Table 22.5). -/
def eventDefined (cls evt : Nat) : Bool :=
  match cls with
  | 0x01 => decide (evt < 6)
  | 0x02 => decide (evt < 10)
  | 0x03 => decide (evt < 6)
  | 0x04 => decide (evt < 6)
  | 0x05 => decide (evt < 8)
  | _ => decide (0x10 ≤ cls) && decide (evt < (rcBlocks.getD (cls - 0x10) []).length)

/-- Set counter `n`. -/
def setCounter (s : State) (n v : Nat) : State := { s with
    evt := { s.evt with
      cnt := tset (fun _ => 0) s.evt.cnt n v } }

/-- EVT_SEL: counter `n` takes a source and starts at zero; an undefined source is ignored and logged. -/
def evtSelect (s : State) (n v : Nat) : State :=
  if eventDefined (bits v 15 8) (bits v 7 0) then setCounter (setReg s (Reg.EVT_SEL n) (v % 2 ^ 24)) n 0
  else protocol s 0x000A (Reg.EVT_SEL n) 1

/-- EVT_FREEZE. -/
def evtFreeze (s : State) (on : Bool) : State := putBit s Reg.EVT_CTRL 0 on

/-- EVT_CLEAR. -/
def evtClear (s : State) : State :=
  let s1 := (List.range 3).foldl (fun s' i => setReg s' (Reg.EVT_OVF i) 0) s
  { s1 with
    evt := { s1.evt with
      cnt := [] } }

/-- EVT_COUNTER_WRAP: events that no other command brings, such as waits for a bank, carry an enabled counter past its last value. -/
def evtWrap (s : State) (n : Nat) : State :=
  if regBit s Reg.EVT_CTRL 0 ∨ !regBit s (Reg.EVT_SEL n) 23 then s
  else evtAdd (setCounter s n (2 ^ 48 - 1)) n 1

/-- R462: the snapshot of a measure boundary. -/
def evtSnapshot (s : State) : State :=
  if regBit s Reg.EVT_CTRL 2 then
    setReg64 { s with
      evt := { s.evt with
        snap := s.evt.cnt } } Reg.EVT_SNAP_TIME (stamp s.time.beat 0)
  else s

/-- EVT_SEL. -/
def execEvtSel (n v : Nat) (s : State) : Out := host s (Reg.EVT_SEL n) fun s => evtSelect s n v
/-- EVT_FREEZE. -/
def execEvtFreeze (on : Bool) (s : State) : Out := host s Reg.EVT_CTRL fun s => evtFreeze s on
/-- EVT_CLEAR. -/
def execEvtClear (s : State) : Out := host s Reg.EVT_CTRL evtClear
/-- EVT_COUNTER_WRAP. -/
def execEvtCounterWrap (n : Nat) (s : State) : Out := done (evtWrap s n)

end Sys2Proof.Machine
end

