-- ==== Sys2Proof/Machine/Time.lean ====
section
/-!
DEFINITION. Machine/Time.lean: beat time (spec/02_beat_time.md): the local beat, the loss and return of BEAT, markers and TIMECODE frames, the holdover
exit, RELOAD and the end of the count.
-/
namespace Sys2Proof.Machine

/-- Replace the time block. -/
def setTime (s : State) (t : TimeSt) : State := { s with
    time := t }

/-! ## The end of the count (R25), FAULT (R29, R34) -/

/-- FAULT with a cause (R22, R29): from HOLDOVER the local beat stays synthesised. -/
def timeFault (s : State) (c : FaultCause) : State :=
  let t := s.time
  let s1 := setTime s { t with
    mode := .fault
    cause := c
    synth := if t.mode = .fault then t.synth else decide (t.mode = .holdover)
    slewLeft := 0
    mismatch := none
    firstFrame := none }
  if t.mode = .fault then s1 else setBits s1 Reg.BEAT_INT_STATUS 4

/-- WRAP_NEAR: the count reached 0xFF00_0000_0000. -/
def wrapNear (s : State) : State :=
  if hasCount s ∧ 0xFF0000000000 ≤ s.time.beat ∧ !s.time.wrapNear then
    setBits (setTime s { s.time with
      wrapNear := true }) Reg.BEAT_INT_STATUS 32
  else s

/-- WRAP_FAULT: the count reached 0xFFFF_FFFF_0000 (R25, step 1). -/
def wrapFault (s : State) : State :=
  if hasCount s ∧ 0xFFFFFFFF0000 ≤ s.time.beat ∧ s.time.cause ≠ .wrap then admitCtrl (timeFault s .wrap) false else s

/-- WRAP_HOLD: the count reached 0xFFFF_FFFF_FFFF and stays (R25, step 3). -/
def wrapHold (s : State) : State :=
  if hasCount s ∧ 0xFFFFFFFFFFFF ≤ s.time.beat then setTime s { s.time with
      hold := true }
  else s

/-- R25: the thresholds, tested at every edge and at a load. -/
def wrapTests (s : State) : State := wrapHold (wrapFault (wrapNear s))

/-- WRAP_NEAR. -/
def execWrapNear (s : State) : Out := done (wrapNear s)
/-- WRAP_FAULT. -/
def execWrapFault (s : State) : Out := done (wrapFault s)
/-- WRAP_HOLD. -/
def execWrapHold (s : State) : Out := done (wrapHold s)

/-! ## The local beat (R22, R26, R157, R360) -/

/-- R26: markers are compared with the boundaries only while the local beat is BEAT itself, in LOCKED or FAULT. -/
def slipTest (s : State) : Bool := (decide (s.time.mode = .locked) || decide (s.time.mode = .fault)) && localIsBeat s.time

/-- A MEASURE_SLIP. -/
def slip (s : State) : State := setBits (bump s Reg.BEAT_CNT_MEAS_SLIP) Reg.BEAT_INT_STATUS 16

/-- Whether a marker came in the present beat. -/
def markerHere (s : State) : Bool :=
  match s.time.marker with
  | some m => decide (m.1 = s.time.rawBeats)
  | none => false

/-- R26: the beat that ends was a boundary, and no marker came. -/
def boundarySlip (s : State) : State :=
  if slipTest s ∧ s.time.beat % max (measureN s) 1 = 0 ∧ !markerHere s then slip s else s

/-- `k` ck pass within the beat: the pod ports' shapers and transmissions advance (R362, R365). -/
def passCk (s : State) : Nat → State
  | 0 => s
  | k + 1 =>
    let s1 := (List.range 4).foldl portCk s
    passCk (setTime s1 { s1.time with
      ck := s1.time.ck + 1 }) k

/-- R157: one beat's credit of a section at every enabled controller, capped. -/
def creditSection (s : State) (x : Section) : State :=
  let ds := memDevices s
  let d := max ds.length 1
  let add : Int := ((x.chanBudget * 256 / d : Nat) : Int)
  let cap : Int := (((match s.bond.image with
    | some im => ((im.budgets.find? fun b => b.sect = x.id).map (·.burst)).getD 0
    | none => 0) * 256 / d : Nat) : Int)
  { s with
    credits := ds.foldl (fun t k => tmod (fun _ => 0) t (creditKey k x.id) fun c => min (c + add) cap) s.credits }

/-- R157: every section's credit of a beat. -/
def creditAll (s : State) : State :=
  match s.bond.image with
  | some im => im.sections.foldl creditSection s
  | none => s

/-- R33: the accumulator after a beat. Of a synthesised beat: 2^48 for each reference cycle until BEAT_RATIO is reached, less BEAT_RATIO;
else it is in phase with BEAT (log 59). -/
def accAfter (s : State) : Nat :=
  let r := max (reg64 s Reg.BEAT_RATIO) 1
  if localIsBeat s.time ∨ s.time.mode = .slewing then 0 else s.time.acc + (r - s.time.acc + 2 ^ 48 - 1) / 2 ^ 48 * 2 ^ 48 - r

/-- R34: the slew of one beat, in 10^-6 of 1/65,536 beat: 100 ppm of it, less as far as the local beat would leave 0.999 to 1.001 MHz, by
BEAT's frequency over the last measure (log 59). -/
def slewStep (s : State) : Nat :=
  let f : Int := reg s Reg.BEAT_FREQ
  let room : Int := if 0 < s.time.slewLeft then 1001000 - f else f - 999000
  min (100 * 65536) ((max 0 room) * 1000000 * 65536 / f).toNat

/-- R34: what is left of the offset after a beat of SLEWING. -/
def slewAfter (s : State) : Int :=
  let x := s.time.slewLeft
  let d : Int := min (slewStep s) x.natAbs
  if s.time.mode ≠ .slewing then 0 else if 0 < x then x - d else x + d

/-- The synthesiser and the slew at the end of a beat (R33, R34). -/
def localBeat (s : State) : State := setTime s { s.time with
    acc := accAfter s
    slewLeft := slewAfter s }

/-- BEAT_EDGE: the present beat ends and the next begins at ck 0. Without a count the model counts beats from 0, and stamps with
that (DESIGN CHOICE, log 58). -/
def beatEdge (s : State) : State :=
  let s1 := localBeat (boundarySlip (passCk (settleTree s) (1500 - s.time.ck)))
  let t := s1.time
  if t.hold then setTime s1 { t with
      rawBeats := t.rawBeats + 1
      ck := 0
      held := true }
  else
    wrapTests (creditAll (refillAll (setTime s1 { t with
      rawBeats := t.rawBeats + 1
      beat := t.beat + 1
      ck := 0 })))

/-- BEAT_EDGE. -/
def execBeatEdge (s : State) : Out := done (beatEdge s)

/-- One ck passes without a command: the shapers and transmissions advance, and the beat's next edge is never reached this way. -/
def idleCk (s : State) : State :=
  if s.time.ck < 1499 then passCk (settleTree s) 1 else s

/-! ## Loss and return of BEAT (R21, R32) -/

/-- The stamp of the next expected edge of the local beat; the held count reads phase 0xFFFF (R25, step 3). -/
def nextEdge (s : State) : Nat := if 0xFFFFFFFFFFFF ≤ s.time.beat + 1 then 0xFFFFFFFFFFFFFFFF else stamp (s.time.beat + 1) 0

/-- HOLDOVER_ENTER (R32). -/
def holdoverEnter (s : State) : State :=
  setBits (bump (setReg64 s Reg.BEAT_HOLD_START (nextEdge s)) Reg.BEAT_CNT_HOLDOVER) Reg.BEAT_INT_STATUS 1

/-- BEAT is lost (R32), whatever made it so. -/
def beatLoss (s : State) : State :=
  let t : TimeSt := { s.time with
    cleanMeasures := 0
    slewLeft := 0
    wholeMeasure := false
    exitFrom := none
    mismatch := none }
  match t.mode with
  | .unset => setTime s { t with
      firstFrame := none }
  | .holdover => setTime s t
  | .locked => holdoverEnter (setTime s { t with
      mode := .holdover })
  | .slewing => holdoverEnter (setTime s { t with
      mode := .holdover })
  | .fault => if t.synth then setTime s t else holdoverEnter (setTime s { t with
      synth := true
      firstFrame := none })

/-- BEAT_LOST: no edge for 1.5 nominal periods. -/
def beatLost (s : State) : State :=
  let was := beatPresent s.time
  let s1 := setTime s { s.time with
    beatIn := false }
  if was then beatLoss s1 else s1

/-- Whether the present edge is a measure boundary. -/
def atMeasure (s : State) : Bool := hasCount s && decide (s.time.ck = 0) && decide (s.time.beat % max (measureN s) 1 = 0)

/-- BEAT is present again: a measure counts for R34 when it is there from end to end, from its boundary on. -/
def beatBack (s : State) : State := if beatPresent s.time ∧ atMeasure s ∧ s.time.measureAt = s.time.beat + 1 then setTime s { s.time with
    wholeMeasure := true }
  else s

/-- BEAT_RETURN. -/
def beatReturn (s : State) : State := if s.time.beatIn then s else beatBack (setTime s { s.time with
    beatIn := true })

/-- FORCE_HOLDOVER (R21, Table 02.5). -/
def forceHoldover (s : State) (on : Bool) : State :=
  let was := beatPresent s.time
  let s1 := putBit (setTime s { s.time with
    forced := on }) Reg.BEAT_CTRL 1 on
  if on then (if was then beatLoss s1 else s1) else if s.time.forced then beatBack s1 else s1

/-- BEAT_LOST. -/
def execBeatLost (s : State) : Out := done (beatLost s)
/-- BEAT_RETURN. -/
def execBeatReturn (s : State) : Out := done (beatReturn s)
/-- FORCE_HOLDOVER. -/
def execForceHoldover (on : Bool) (s : State) : Out := host s Reg.BEAT_CTRL fun s => forceHoldover s on

/-! ## Markers (R26, R27) -/

/-- MEASURE_MARKER. -/
def measureMarker (s : State) : State :=
  let s1 := setTime s { s.time with
    marker := some (s.time.rawBeats, now s)
    markerSeen := true }
  if slipTest s ∧ s.time.beat % max (measureN s) 1 ≠ 0 then slip s1 else s1

/-- MEASURE_MARKER. -/
def execMeasureMarker (s : State) : Out := done (measureMarker s)

/-! ## TIMECODE frames (R27 to R30, R34) -/

/-- Whether a frame is valid (R27). -/
def frameValid (s : State) (b : List Byte) : Bool :=
  decide (b.length = 14) && decide (le b 0 2 = 0x2BD4) && decide (le b 10 4 = crc32c (b.take 10))
    && (!hasCount s || decide (le b 2 6 % max (measureN s) 1 = 0))

/-- R30: the timeouts that the new count makes due: of pod peers, of completion messages, of mailbox locks, of a debug unlock, of the
twin link. -/
def timeoutsDue (s : State) : State :=
  let peers := s.pod.peers.map fun p => (p.1 / 256, p.1 % 256)
  let s1 := peers.foldl (fun s' p =>
    peerRetry (rtoExpiry (ackDelay (pendingExpiry s' p.1 p.2) p.1 p.2) p.1 p.2) p.1 p.2) s
  let s2 := (s.host.pairs.map (·.1)).foldl coalTimer s1
  let s3 := (s.host.chans.map (·.1)).foldl (fun s' c => if lockExpired s' c then forceRelease s' c else s') s2
  (List.range 3).foldl firicRto (debugExpiry s3)

/-- R30: what the new count makes due at the load edge: switches in ascending S (R62), gate changes, timeouts. -/
def loadDue (s : State) : State :=
  timeoutsDue ((List.range 4).foldl gateChange (dueSwitches s))

/-- R30, R307: a head that was passed over until a front-end boundary waits for the first one of the grid of the new count `b`. -/
def reholdHead (s : State) (b : Nat) (r : Req) : Req :=
  let p := max (planOf s).period 1
  if s.time.beat < r.heldTo then { r with
    heldTo := (b / p + 1) * p } else { r with
    heldTo := 0 }

/-- R28, R30: the count of a pair is loaded: `c` at the marker `raw`, measured interval `iv`. -/
def countLoad (s : State) (c raw iv : Nat) : State :=
  let t := s.time
  let b := min (c + (t.rawBeats - raw)) 0xFFFFFFFFFFFF
  let s1 := setTime s { t with
    beat := b
    mode := .locked
    cause := .none
    synth := false
    hold := false
    held := false
    wrapNear := false
    reloadPending := false
    firstFrame := none
    mismatch := none
    marker := some (raw, stamp c 0)
    measureAt := 0
    cleanMeasures := 0
    exitFrom := none }
  let s2 := { s1 with
    steps := s1.steps.map fun p => (p.1, { p.2 with
      at_ := 0 })
    adm := { s1.adm with
      decided := none
      bounds := []
      queues := s1.adm.queues.map fun q => (q.1, q.2.map (reholdHead s b)) } }
  let s3 := setReg s2 Reg.BEAT_MEASURE_OBS iv
  let s4 := { s3 with
    twin := { s3.twin with
      fedAt := t.rawBeats } }
  let s5 := if t.reloadPending then loadDue (setBits s4 Reg.BEAT_INT_STATUS 128) else s4
  timeWaitDone (wrapTests s5)

/-- R28: whether two valid frames give a count: the interval between their markers. -/
def pairHolds (c1 r1 c2 r2 : Nat) : Bool :=
  let iv := r2 - r1
  decide (r1 < r2) && decide (c1 + iv = c2) && decide (128 ≤ iv) && decide (iv ≤ 65535) && decide (c1 % iv = 0) && decide (c2 % iv = 0)

/-- R28: a valid frame while a count is awaited. The beats between the markers are those of the local beat, synthesised or not
(DESIGN CHOICE, log 58). -/
def framePair (s : State) (c raw : Nat) : State :=
  if !beatPresent s.time then setTime s { s.time with
      firstFrame := none }
  else
    match s.time.firstFrame with
    | some f => if pairHolds f.1 f.2 c raw then countLoad s c raw (raw - f.2) else setTime s { s.time with
        firstFrame := some (c, raw) }
    | none => setTime s { s.time with
        firstFrame := some (c, raw) }

/-- R29: a valid frame in LOCKED, compared with the local count `m` of its marker. -/
def frameCompare (s : State) (c m : Nat) : State :=
  let d : Int := (c : Int) - (m : Int)
  if d = 0 then setTime s { s.time with
      mismatch := none }
  else
    let s1 := setBits (bump s Reg.BEAT_CNT_TC_MISMATCH) Reg.BEAT_INT_STATUS 8
    if s1.time.mismatch = some d then timeFault s1 .timecode else setTime s1 { s1.time with
        mismatch := some d }

/-- HOLDOVER and SLEWING end in LOCKED. -/
def relock (s : State) : State := timeWaitDone <| setBits (setTime s { s.time with
    mode := .locked
    slewLeft := 0
    cause := .none
    exitFrom := none
    cleanMeasures := 0 }) Reg.BEAT_INT_STATUS 2

/-- R34: the offset in 1/65,536 beat decides how the holdover ends. An offset that BEAT_OFFSET cannot hold leaves a free value there. -/
def holdoverExit (s : State) (o : Int) : State :=
  let fits := decide (-(2 ^ 31) ≤ o ∧ o < 2 ^ 31)
  let s1 := if fits then setReg s Reg.BEAT_OFFSET (unsigned 32 o) else setReg (tick s) Reg.BEAT_OFFSET (Config.free s.fresh)
  if o = 0 then relock s1
  else if o.natAbs ≤ reg s1 Reg.BEAT_SLEW_MAX * 65536 then setTime s1 { s1.time with
      mode := .slewing
      slewLeft := o * 1000000
      exitFrom := none
      cleanMeasures := 0 }
  else timeFault s1 .slewLimit

/-- A valid frame of count `c`, whose marker came at raw beat `raw` and local BeatTime `m`. -/
def frameUse (s : State) (c raw m : Nat) : State :=
  if s.time.mode = .unset ∨ s.time.reloadPending then framePair s c raw
  else
    match s.time.mode with
    | .locked => frameCompare s c (m / 65536)
    | .holdover =>
      match s.time.exitFrom with
      | some r => if r ≤ raw ∧ beatPresent s.time then holdoverExit s ((c * 65536 : Nat) - (m : Nat)) else s
      | none => s
    | _ => s

/-- TIMECODE_FRAME: 14 bytes as received. An invalid frame between two valid ones leaves the pair of R28 and the mismatch of R29 as they
are (DESIGN CHOICE, log 58). -/
def timecodeFrame (s : State) (b : List Byte) : State :=
  if !frameValid s b then bump s Reg.BEAT_CNT_TC_BAD
  else
    let s1 := setTime (setReg64 s Reg.BEAT_TC_LAST (le b 8 1 * 2 ^ 48 + le b 2 6)) { s.time with
      framed := true
      framesMissed := 0
      tcLost := false
      tcSrcHold := bit (le b 8 1) 1 }
    match s1.time.marker with
    | some m => frameUse s1 (le b 2 6) m.1 m.2
    | none => s1

/-- TIMECODE_FRAME. -/
def execTimecodeFrame (b : List Byte) (s : State) : Out := done (timecodeFrame s b)

/-- TC_LOST (R32): three measures without a valid frame. -/
def tcLost (s : State) : State := if 3 ≤ s.time.framesMissed then setTime s { s.time with
    tcLost := true }
  else s

/-- TC_LOST. -/
def execTcLost (s : State) : Out := done (tcLost s)

/-- SLEW_DONE (R34): nothing of the offset is left. -/
def slewDone (s : State) : State := if s.time.mode = .slewing ∧ s.time.slewLeft = 0 then relock s else s

/-- SLEW_DONE. -/
def execSlewDone (s : State) : Out := done (slewDone s)

/-- RELOAD (R30). -/
def reload (s : State) : State :=
  if (s.time.mode = .unset ∨ s.time.mode = .fault) ∧ !inFlight s then setTime s { s.time with
      reloadPending := true }
  else setBits s Reg.BEAT_INT_STATUS 64

/-- RELOAD. -/
def execReload (s : State) : Out := host s Reg.BEAT_CTRL reload

end Sys2Proof.Machine
end

