-- ==== Sys2Proof/Machine/Measure.lean ====
section
/-!
DEFINITION. Machine/Measure.lean: what a measure boundary does (R26): BEAT's frequency (R21), the holdover count (R34), the learned ratio (R33), share
deficits (R303), the governor (R310, R312, R316, R317), the Plinth (R425, R426), the pair (R376, R385, R388, R395) and the snapshot
(R462).
-/
namespace Sys2Proof.Machine

/-! ## BEAT (R21, R32 to R34, R37) -/

/-- Deviation of a frequency from 1.000 MHz, in ppm: 1 Hz is 1 ppm. -/
def deviationPpm (hz : Nat) : Nat := ((hz : Int) - 1000000).natAbs

/-- R21: the frequency measured over the last measure, in Hz; 0 when no edges came. -/
def beatMeasured (s : State) (hz : Nat) : State :=
  let was := beatPresent s.time
  let out := decide (hz ≠ 0) && decide (1100 < deviationPpm hz)
  let s1 := setTime (setReg s Reg.BEAT_FREQ hz) { s.time with
    rangeWarn := decide (hz ≠ 0) && decide (1000 < deviationPpm hz) && decide (deviationPpm hz ≤ 1100)
    overRange := out }
  if was ∧ out then beatLoss s1 else s1

/-- R34: a measure of HOLDOVER with BEAT present from end to end counts towards the 16. -/
def cleanCount (s : State) : State :=
  let t := s.time
  if t.mode ≠ .holdover then setTime s { t with
      wholeMeasure := beatPresent t }
  else
    let n := if beatPresent t ∧ t.wholeMeasure then t.cleanMeasures + 1 else 0
    setTime s { t with
      cleanMeasures := n
      wholeMeasure := beatPresent t
      exitFrom := if n = 16 then some t.rawBeats else if n = 0 then none else t.exitFrom }

/-- Markers and frames of the measure (Table 02.4, R32). -/
def cadenceSeen (s : State) : State :=
  let t := s.time
  let n := if t.framed then 0 else t.framesMissed + 1
  tcLost (setTime s { t with
    measurePresent := t.markerSeen
    markerSeen := false
    framesMissed := n
    framed := false })

/-- R33: reference cycles per beat over a window of measures, in Q16.48, truncated (log 59). -/
def meanRatio (w : List (Nat × Nat)) : Nat := (w.map (·.1)).foldl (· + ·) 0 * 2 ^ 48 / max ((w.map (·.2)).foldl (· + ·) 0) 1 % 2 ^ 64

/-- R33: a measure of LOCKED enters the learned ratio. -/
def learnRatio (s : State) (locked : Bool) (cycles : Nat) : State :=
  if !locked then s
  else
    let w := ((cycles, measureN s) :: s.time.ratioWindow).take 1024
    let s1 := setTime s { s.time with
      ratioWindow := w
      ratioValid := decide (w.length = 1024) }
    if w.length = 1024 then setReg64 s1 Reg.BEAT_RATIO (meanRatio w) else s1

/-- The BEAT block at a measure boundary. -/
def beatBoundary (s : State) (hz cycles : Nat) : State :=
  cleanCount (cadenceSeen (learnRatio (beatMeasured s hz) (decide (s.time.mode = .locked)) cycles))

/-! ## Share deficits (R301, R303) -/

/-- A value clamped to ± `cap`. -/
def clampTo (cap x : Int) : Int := max (-cap) (min cap x)

/-- D_a of an account after the measure: `u` its engine time, `c` the sum, `w` the active weights. -/
def newDeficit (s : State) (active : List Nat) (c w a : Nat) : Int :=
  if active.contains a then
    clampTo ((reg64 s Reg.ADMIT_DEF_CAP : Nat) : Int)
      (deficitOf s a + (((c * weightOfAccount s a / w : Nat) : Int) - ((tget (fun _ => 0) s.adm.charged a : Nat) : Int)))
  else 0

/-- R303, and the weights written take effect (R301). -/
def shareBoundary (s : State) : State :=
  let act := (activeNow s).foldl (fun l a => insertAsc a l) s.adm.active
  let c := sumNat (s.adm.charged.map (·.2))
  let w := sumNat (act.map (weightOfAccount s))
  let d := act.foldl (fun t a => tset (fun _ => 0) t a (newDeficit s act c w a)) []
  { s with
    adm := { s.adm with
      deficit := d
      charged := []
      active := activeNow s
      weight := s.adm.weightNew } }

/-! ## The governor (R310, R312, R316, R317) -/

/-- The clamp of a class cost: E0 / 4 to 4 · E0. -/
def costClamp (e0 : Nat) (x : Int) : Int := max ((e0 / 4 : Nat) : Int) (min ((4 * e0 : Nat) : Int) x)

/-- R312: the costs of the classes that ran in the measure of the reading. -/
def recost (s : State) (i e : Int) (ks : List Nat) : Tab Int :=
  ks.foldl (fun t k =>
    match ((classList s).find? fun p => p.1 = k) with
    | some p => tset (fun _ => 0) t k (costClamp p.2.e0 (tget (fun _ => 0) t k + tget (fun _ => 0) t k * e / (8 * i)))
    | none => t) s.energy.cost

/-- R312: the reading of a measure and what was predicted for it move the fixed draw and the costs. -/
def recalibrate (s : State) (m : Int) (p : Int × List Nat × Int × Nat) : State :=
  let e := m - (p.2.2.1 + p.1)
  { s with
    energy := { s.energy with
      fBar := s.energy.fBar + e / 16
      cost := if m / 32 ≤ p.1 ∧ 0 < p.1 then recost s p.1 e p.2.1 else s.energy.cost } }

/-- R312, R426: a boundary whose measure brought no record, or none for a measure with a prediction, leaves both unchanged. -/
def energyReading (s : State) : State :=
  match s.energy.reading, s.energy.last with
  | some r, some p => if s.plinth.recorded ∧ r.1 = p.2.2.2 then recalibrate s r.2 p else s
  | _, _ => s

/-- The prediction of the finished measure is kept for its reading. -/
def closePrediction (s : State) (fBar : Int) : State := { s with
    energy := { s.energy with
      last := some (s.energy.predicted, s.energy.ran, fBar, measureNo s - 1)
      predicted := 0
      ran := [] } }

/-- CEIL_E, H and the margin M (R310, steps 1 to 4). -/
def headroomOf (s : State) : Int :=
  max 0 (((bits (reg s Reg.ENERGY_CEILING) 11 0 * measureN s * 2 ^ 20 / governorHz s : Nat) : Int) - s.energy.fBar)

/-- θ: 0 at 95 °C, 65,536 at 105 °C. -/
def thetaOf (t16 : Nat) : Nat := min (t16 - 1520) 160 * 65536 / 160

/-- M of R310. -/
def marginOf (s : State) : Int := headroomOf s * ((thetaOf (bits (reg s Reg.ENERGY_TMAX) 15 0) : Nat) : Int) / 65536

/-- R310: the allowance of the new measure. -/
def allowance (s : State) : State :=
  let a := headroomOf s - marginOf s
  { setReg64 s Reg.ENERGY_MARGIN (unsigned 64 (marginOf s)) with
    energy := { s.energy with
      aVar := a } }

/-- R316: the thermal state for a temperature; STOP and DRAINED do not fall back. -/
def thermalOf (now : Thermal) (t16 : Nat) : Thermal :=
  match now with
  | .stop => .stop
  | .drained => .drained
  | _ => if t16 < 1520 then .normal else if t16 < 1680 then .margin else if t16 < 1760 then .zero else .stop

/-- The bit of ENERGY_INT_STATUS that entering a thermal state sets. -/
def thermalBit : Thermal → Nat
  | .normal => 0
  | .margin => 1
  | .zero => 2
  | .stop => 4
  | .drained => 8

/-- R316, R317: the thermal state follows T16; entering STOP declares FAULT with cause THERMAL_STOP. -/
def thermalBoundary (s : State) : State :=
  let x := thermalOf s.energy.thermal (bits (reg s Reg.ENERGY_TMAX) 15 0)
  if x = s.energy.thermal then s
  else
    let s1 := setBits { s with
      energy := { s.energy with
        thermal := x } } Reg.ENERGY_INT_STATUS (thermalBit x)
    if x = .stop then declareFault s1 1 else s1

/-- The governor at a measure boundary. -/
def governor (s : State) : State :=
  let f := s.energy.fBar
  thermalBoundary (allowance (closePrediction (energyReading s) f))

/-! ## The Plinth (R425, R426) -/

/-- R426: a measure latched before brought no record. -/
def recordMissed (s : State) : State :=
  let n := s.plinth.missRun + 1
  let s1 := bump (setPlinth s { s.plinth with
    missRun := n }) Reg.PWR_CNT_TLM_MISS
  if n = 16 then setBits (setBits s1 Reg.PWR_STATUS 8) Reg.PWR_INT_STATUS 4 else s1

/-- The marker of the boundary reaches the Plinth, which latches its meter. -/
def plinthBoundary (s : State) : State :=
  let s1 := if s.plinth.record ≠ [] ∧ !s.plinth.recorded then recordMissed s else s
  setPlinth s1 { plinthLatch s1.plinth with
    recorded := false }

/-! ## The pair (R376, R378, R385, R388, R395) -/

/-- PAIRED begins; on a standby module admission closes (R378). -/
def enterPaired (s : State) (bitsSet : Nat) : State :=
  let s1 := setTwin s { s.twin with
    mode := .paired
    joined := true
    missed := 0
    hbCounted := false
    joinReady := false
    peerSeal := false
    sealPending := false
    resync := none }
  let s2 := setBits s1 Reg.TWIN_INT_STATUS bitsSet
  if standby s2 ∧ admitOpen s2 then admitCtrl s2 false else s2

/-- Whether the source of a rejoin has everything it needs to join (R395). -/
def sourceReady (s : State) : Bool :=
  match s.twin.resync with
  | some r => r.source && r.agreed && s.twin.peerSeal
  | none => false

/-- R376, R395: a first seal of the pair, or the end of a rejoin, at this boundary. -/
def pairBoundary (s : State) : State :=
  match s.twin.mode with
  | .attested => if s.twin.sealPending ∧ s.twin.peerSeal then enterPaired (sealNow s) 16 else s
  | .resync => if s.twin.joinReady ∨ sourceReady s then enterPaired s 18 else s
  | _ => s

/-- R388: a measure in which no heartbeat counted. -/
def heartbeatCount (s : State) : State :=
  if !s.twin.joined then s
  else if s.twin.hbCounted then setTwin s { s.twin with
      hbCounted := false
      missed := 0 }
  else bump (setTwin s { s.twin with
    missed := s.twin.missed + 1 }) Reg.TWIN_CNT_HB_MISSED

/-- R385: the heartbeat of this boundary, at which the Keystone feeds the watchdog; a hung Keystone sends none (R386). -/
def heartbeatSend (s0 : State) : State :=
  let s := if s0.twin.silent then s0 else setTwin s0 { s0.twin with
    fedAt := s0.time.rawBeats }
  if s.twin.linkUp ∧ !s.twin.silent then sendFrame s 0 0x10 (heartbeatBody s (stamp s.time.beat 0)) else s

/-! ## The boundary -/

/-- What the model keeps no longer: boundaries before the last front-end boundary (R311), corrected errors of the measure (R464). -/
def dropOld (s : State) : State :=
  let p := max (planOf s).period 1
  { s with
    adm := { s.adm with
      bounds := s.adm.bounds.filter fun b => decide (s.time.beat / p * p ≤ b.1) }
    err := { s.err with
      ceMeasure := 0
      storm := false } }

/-- MEASURE_BOUNDARY at ck 0 of a beat whose count is a multiple of N, once: BEAT's frequency over the finished measure in Hz, and its
reference cycles. -/
def measureBoundary (s : State) (hz cycles : Nat) : State :=
  if !atMeasure s ∨ s.time.measureAt = s.time.beat + 1 then s
  else
    let s1 := setTime s { s.time with
      measureAt := s.time.beat + 1 }
    let s2 := shareBoundary (beatBoundary s1 (hz % 2 ^ 32) cycles)
    let s3 := plinthBoundary (governor s2)
    evtSnapshot (dropOld (heartbeatSend (pairBoundary (heartbeatCount s3))))

/-- MEASURE_BOUNDARY. -/
def execMeasureBoundary (hz cycles : Nat) (s : State) : Out := done (measureBoundary s hz cycles)

end Sys2Proof.Machine
end

