-- ==== Sys2Proof/Machine/Views.lean ====
section
/-!
DEFINITION. Machine/Views.lean: what the registers read as that show state held outside the register file: the read-only views of the blocks and
the windows that a select register opens (the register tables of spec/02_beat_time.md to spec/22_monitoring.md).
-/
namespace Sys2Proof.Machine

/-- A flag as a number. -/
def flag (b : Bool) : Nat := if b then 1 else 0

/-- The first value of a list of (offset, value) pairs at an offset. -/
def viewAt (b : Nat) : List (Nat × Nat) → Option Nat
  | [] => none
  | (a, v) :: r => if a = b then some v else viewAt b r

/-- The index of offset `b` in an array of `n` registers `stride` bytes apart from `base` on. -/
def viewIndex (base stride n b : Nat) : Option Nat :=
  if base ≤ b ∧ b < base + stride * n ∧ (b - base) % stride = 0 then some ((b - base) / stride) else none

/-! ## BEAT (Tables 02.3, 02.4) -/

/-- FAULT_CAUSE. -/
def FaultCause.code : FaultCause → Nat
  | .none => 0
  | .timecode => 1
  | .slewLimit => 2
  | .wrap => 3

/-- BEAT_STATUS (Table 02.4). -/
def beatStatus (s : State) : Nat :=
  let t := s.time
  flag t.reloadPending * 2 ^ 14 + t.cause.code * 2 ^ 11 + flag t.tcSrcHold * 2 ^ 10 + flag t.rangeWarn * 2 ^ 9
    + flag (decide (t.mode ≠ .locked)) * 2 ^ 8 + flag t.wrapNear * 2 ^ 7 + flag t.tcLost * 2 ^ 6 + flag t.measurePresent * 2 ^ 5
    + flag (beatPresent t) * 2 ^ 4 + flag t.ratioValid * 2 ^ 3 + t.mode.code

/-- SVC_AUX (R53, R471, Table 03.7): the trace clock while debug is unlocked; else the cadence of a sealed image that claims it, high
from ck 0 to 749, from the beat after an unlock ended; else low. -/
def svcAux (s : State) : AuxPin :=
  let claimed := match s.bond.image with
    | some im => im.claims.any fun c => decide (c.cls = 1 ∧ c.feature = 1)
    | none => false
  if s.sec.unlocked.isSome then .traceClock
  else if isSealed s && claimed && decide (s.sec.auxOff ≠ some s.time.rawBeats) then .cadence (decide (s.time.ck < 750))
  else .low

/-- Static address of the I3C target for SETDASA (R472). -/
def i3cAddress : Nat := 0x3A

/-- Whether I3C_SCL and I3C_SDA are high-impedance: while input is absent (R472). -/
def i3cHighZ (s : State) : Bool := decide (s.plinth.mode = .off)

/-- Whether JTAG is there: TDO driven and the other inputs heeded, only while a signed unlock is in force (R472). What a debug chain does then
the spec does not say (log 69). -/
def jtagLive (s : State) : Bool := s.sec.unlocked.isSome

/-- Views of the BEAT block. -/
def beatView (s : State) (b : Nat) : Option Nat :=
  viewAt b [(Reg.BEAT_NOW, now s), (Reg.BEAT_STATUS, beatStatus s), (Reg.BEAT_MEASURE_N, measureN s)]

/-! ## BOND (Tables 03.9, 03.10) -/

/-- Initial versions not yet resident and verified. -/
def assetsMissing (s : State) : Nat :=
  match s.bond.image with
  | none => 0
  | some im => (im.assets.filter fun a => !((assetSt s a.id).versions.any fun v => decide (v.ver = a.initial) && v.verified)).length

/-- SEAL_READY: the conditions of R54; in ATTESTED a twin whose digest is equal meets them, since the seal then waits for its own (R376;
log 60). -/
def sealReady (s : State) : Bool :=
  match s.bond.image with
  | none => false
  | some im => decide (s.bond.mode = .loaded) && (sealAssets s im).isNone && decide (sealPath s im ≠ .refuse)

/-- PAIR_MATCH: the twin's sealed BOND_DIGEST equals this module's. -/
def pairMatch (s : State) : Bool := s.bond.image.isSome && twinSealed s && decide (s.twin.peerDigest = digestWord s)

/-- BOND_STATUS (Table 03.10). ASSETS_MISSING, 8 bits for up to 256 versions, stays at 255 (DESIGN CHOICE, log 69). -/
def bondStatus (s : State) : Nat :=
  (switchList s).length * 2 ^ 16 + min (assetsMissing s) 255 * 2 ^ 8 + flag (pairMatch s) * 2 ^ 4 + flag (sealReady s) * 2 ^ 3
    + s.bond.mode.code

/-- The 32 bytes of a section entry (Table 03.4). -/
def Section.toBytes (x : Section) : List Byte :=
  natLE 1 x.id ++ natLE 1 x.kind ++ natLE 2 x.flags ++ natLE 4 x.period ++ natLE 4 x.phase ++ x.groups.flatMap (natLE 1)
    ++ natLE 4 x.wcet ++ natLE 4 x.chanBudget ++ natLE 2 x.energyBase ++ natLE 2 x.chainBase ++ natLE 4 0

/-- The 16 bytes of a pending switch slot (Table 03.9). -/
def slotBytes (s : State) (i : Nat) : List Byte :=
  match switchOf s i with
  | none => List.replicate 16 0
  | some w => natLE 8 w.at_ ++ natLE 2 w.asset ++ natLE 2 0 ++ natLE 4 w.version

/-- Views of the BOND block. -/
def bondView (s : State) (b : Nat) : Option Nat :=
  match viewIndex (Reg.SEC_INFO 0) 32 64 b with
  | some i => some (match sectionOf s i with
    | some x => leNat x.toBytes
    | none => 0)
  | none =>
    match viewIndex (Reg.SW_SLOT 0) 16 64 b with
    | some i => some (leNat (slotBytes s i))
    | none =>
      match viewIndex (Reg.ASSET_INFO 0) 16 256 b with
      | some i => some (leNat (assetInfo s i))
      | none => viewAt b [(Reg.BOND_STATUS, bondStatus s), (Reg.BOND_SWITCH_LEAD, switchLead s)]

/-! ## SEARCH, SELECT, TABLES, TEXT (Tables 09.6, 10.5, 12.6, 13.8) -/

/-- The current version of the INDEX asset that SEARCH_SEL selects. -/
def selectedIndex (s : State) : Option Index :=
  let a := bits (reg s Reg.SEARCH_SEL) 15 0
  if kindOf s a = some 1 then some (indexAt s a (currentVer s a)) else none

/-- FILTER assets declared, and FILTER versions resident. -/
def filterCounts (s : State) : Nat :=
  let l := assetsOfKind s 10
  min l.length 255 + min (sumNat (l.map fun a => (assetSt s a).versions.length)) 255 * 2 ^ 8

/-- A field of the selected index; 0 when SEARCH_SEL names no INDEX asset. -/
def indexField (s : State) (f : Index → Nat) : Nat :=
  match selectedIndex s with
  | some x => f x
  | none => 0

/-- Views of the SEARCH block, the token store among them. -/
def searchView (s : State) (b : Nat) : Option Nat :=
  viewAt b [
    (Reg.SEARCH_VER, indexField s (·.ver)),
    (Reg.SEARCH_SHAPE, indexField s fun x => x.dim * 2 ^ 16 + x.m * 2 ^ 8 + flag x.ip * 2 + flag x.code4),
    (Reg.SEARCH_CENTROIDS, indexField s (·.centroids)),
    (Reg.SEARCH_PASSAGES, indexField s (·.passages)),
    (Reg.SEARCH_SHARD, indexField s (·.shard)),
    (Reg.SEARCH_SCORE_KEY, indexField s (·.scoreKey)),
    (Reg.SEARCH_STORE_PAGES, indexField s fun x => storePages s x.store),
    (Reg.SEARCH_STORE_FREE, indexField s fun x => (freePages s x.store).length),
    (Reg.SEARCH_FILTERS, filterCounts s),
    (Reg.TS_REGION, descRegion (fetchDesc s)),
    (Reg.TS_FREE, tsFree s (descRegion (fetchDesc s)))]

/-- SELECT_SHARD. -/
def selectView (s : State) (b : Nat) : Option Nat :=
  viewAt b [(Reg.SELECT_SHARD, match currentIndex s with
    | some x => x.shard
    | none => 0)]

/-- Views of the TABLES block: the open builds stand beside the code (Table 11.5). -/
def tableView (s : State) (b : Nat) : Option Nat :=
  viewAt b [(Reg.TAB_RESULT, s.assets.builds.length * 2 ^ 8 + bits (reg s Reg.TAB_RESULT) 7 0)]

/-- Pin area in use, in KiB: every resident version of every NORM_TABLE and MERGE_TABLE asset (R233). -/
def pinUsed (s : State) : Nat :=
  (sumNat ((assetsOfKind s 7 ++ assetsOfKind s 8).flatMap fun a => (assetSt s a).versions.map (·.size)) + 1023) / 1024

/-- Views of the TEXT block. -/
def textView (s : State) (b : Nat) : Option Nat :=
  viewAt b [(Reg.TEXT_STATUS, 16 * 2 ^ 16 + min (lanesBusy s) 64 * 2 ^ 8 + 64), (Reg.TEXT_PIN_USED, pinUsed s)]

/-! ## SERVE, ADMIT, ENERGY (Tables 14.6, 15.3, 15.4) -/

/-- Entries of the active sequence table whose state is not FREE. -/
def entriesUsed (s : State) : Nat := (s.serve.ast.filter fun p => decide (p.2.mode ≠ .free)).length

/-- Entries READY. -/
def entriesReady (s : State) : Nat := (s.serve.ast.filter fun p => decide (p.2.mode = .ready)).length

/-- Views of the SERVE block. -/
def serveView (s : State) (b : Nat) : Option Nat :=
  viewAt b [
    (Reg.SERVE_AST_USED, entriesUsed s),
    (Reg.SERVE_AST_READY, entriesReady s),
    (Reg.SERVE_VSETS, (vsetsUsed s).length),
    (Reg.SERVE_KV_BLOCKS, (kvOf s).nblk),
    (Reg.SERVE_KV_FREE, freeBlocks s),
    (Reg.SERVE_KV_RESERVED, reservedBlocks s),
    (Reg.SERVE_BLOCK_BYTES, (kvOf s).blockBytes),
    (Reg.PT_NODES, (nodeList s).length),
    (Reg.PT_PINNED, pinnedNodes s)]

/-- The account that ADMIT_ACCT_SEL selects. -/
def selectedAccount (s : State) : Nat := bits (reg s Reg.ADMIT_ACCT_SEL) 7 0

/-- Queue depth of an account (Table 15.3). -/
def depthShown (s : State) (a : Nat) : Nat := tget (fun _ => 1024) s.adm.depth a

/-- Engine time that ADMIT_USE_SEL selects, in units of 1,024 core-ck, saturating. -/
def selectedUse (s : State) : Nat :=
  let x := reg s Reg.ADMIT_USE_SEL
  min (tget (fun _ => 0) s.adm.engine (bits x 7 0 * 64 + bits x 13 8) / 1024) (2 ^ 64 - 1)

/-- Views of the ADMIT block. -/
def admitView (s : State) (b : Nat) : Option Nat :=
  viewAt b [
    (Reg.ADMIT_STATUS, (planOf s).slots * 2 ^ 8 + flag (admitOpen s)),
    (Reg.ADMIT_ACCT_WEIGHT, tget (fun _ => 0) s.adm.weightNew (selectedAccount s)),
    (Reg.ADMIT_ACCT_QDEPTH, depthShown s (selectedAccount s)),
    (Reg.ADMIT_ACCT_QUEUED, (queueOf s (selectedAccount s)).length),
    (Reg.ADMIT_ACCT_DEFICIT, unsigned 64 (deficitOf s (selectedAccount s))),
    (Reg.ADMIT_USE, selectedUse s)]

/-- Views of the ENERGY block. -/
def energyView (s : State) (b : Nat) : Option Nat :=
  viewAt b [
    (Reg.ENERGY_STATUS, s.energy.thermal.code),
    (Reg.ENERGY_FIXED, unsigned 64 s.energy.fBar),
    (Reg.ENERGY_AVAR, unsigned 64 s.energy.aVar),
    (Reg.ENERGY_CLASS_COST, unsigned 64 (costOf s (bits (reg s Reg.ENERGY_CLASS_SEL) 11 0)))]

/-! ## HOSTQ and MBOX (Tables 16.9 to 16.12) -/

/-- Q_STATUS of a pair. -/
def pairStatus (s : State) (q : Nat) : Nat :=
  let p := pairOf s q
  flag p.replay.isSome * 2 ^ 6 + p.replayResult * 2 ^ 4 + (if qEnabled s q then (if p.gap then 2 else 1) else 0)

/-- The oldest DSN in a pair's window; the next DSN when the window is empty. -/
def oldestDsn (p : Pair) : Nat :=
  match p.window with
  | c :: _ => c.dsn
  | [] => p.dsnNext

/-- Views of the HOSTQ block. -/
def hostqView (s : State) (b : Nat) : Option Nat :=
  if b < Reg.Q_SQ_BASE 0 then viewAt b [(Reg.HQ_IN_IMAGE_LEN, (planOf s).inImageLen), (Reg.HQ_IN_KEYS, (planOf s).inKeys)]
  else
    let q := (b - Reg.Q_SQ_BASE 0) / 0x80
    let p := pairOf s q
    viewAt b [
      (Reg.Q_HSN_NEXT q, p.hsnNext),
      (Reg.Q_HSN_LAST q, p.hsnLast),
      (Reg.Q_DSN_LAST q, (p.dsnNext + 2 ^ 32 - 1) % 2 ^ 32),
      (Reg.Q_DSN_OLDEST q, oldestDsn p),
      (Reg.Q_STATUS q, pairStatus s q),
      (Reg.Q_HEADS q, p.cqTail * 2 ^ 16 + p.sqHead)]

/-- MB_STATUS of a channel. -/
def chanStatus (k : Chan) : Nat :=
  k.owner.getD 0 * 2 ^ 12 + flag k.owner.isSome * 2 ^ 11 + k.respLen * 2 ^ 2 + flag k.done * 2 + flag k.pending.isSome

/-- Views of the MBOX block, as the channel's owner sees them. -/
def mboxView (s : State) (b : Nat) : Option Nat :=
  if Reg.MB_SEC_STATE ≤ b then viewAt b [(Reg.MB_SEC_STATE, s.sec.session.mode.code)]
  else
    let c := (b - Reg.MB_LOCK 0) / 0x400
    let k := chanOf s c
    if 16 ≤ c ∧ c < 24 ∧ b = Reg.MB_FN c then some 1
    else viewAt b [(Reg.MB_STATUS c, chanStatus k), (Reg.MB_DATA c, leNat k.data), (Reg.MB_RESP c, leNat k.resp)]

/-! ## POD (Tables 17.4 to 17.7) -/

/-- POD_STATUS of a port. -/
def portStatus (s : State) (n : Nat) : Nat :=
  let p := portOf s n
  (unitSt s 3 n).epoch * 2 ^ 16 + p.media * 2 ^ 4 + flag p.linkUp * 2 ^ 2 + flag p.linkUp * 2 + bits (reg s (Reg.POD_CTRL n)) 0 0

/-- The meter that POL_SEL selects. -/
def selectedMeter (s : State) (n : Nat) : Nat := bits (reg s (Reg.POL_SEL n)) 9 0

/-- The peer that PEER_SEL selects. -/
def selectedPeer (s : State) (n : Nat) : Nat := bits (reg s (Reg.PEER_SEL n)) 7 0

/-- PEER_STATUS. -/
def peerStatus (p : Peer) : Nat :=
  p.epoch * 2 ^ 16 + flag p.unsynced * 2 ^ 2 + (if !bit p.ctrl 0 then 0 else if p.down then 2 else 1)

/-- Views of a class of a port. -/
def classView (s : State) (n c b : Nat) : Option Nat :=
  let k := classOf s n c
  viewAt b [(Reg.TC_QUEUED n c, k.queue.length), (Reg.TC_CREDIT n c, unsigned 64 k.credit), (Reg.TC_DEFICIT n c, k.deficit)]

/-- Views of the policer and peer windows of a port. -/
def windowView (s : State) (n b : Nat) : Option Nat :=
  let m := meterOf s n (selectedMeter s n)
  let p := peerOf s n (selectedPeer s n)
  viewAt b [
    (Reg.POL_CTRL n, m.ctrl), (Reg.POL_CIR n, m.cirNew), (Reg.POL_PIR n, m.pirNew), (Reg.POL_CBS n, m.cbsNew), (Reg.POL_PBS n, m.pbsNew),
    (Reg.POL_CNT_GREEN n, m.green), (Reg.POL_CNT_YELLOW n, m.yellow), (Reg.POL_CNT_RED n, m.red),
    (Reg.PEER_MAC n, p.mac), (Reg.PEER_CONN n, p.conn), (Reg.PEER_CTRL n, p.ctrl), (Reg.PEER_STATUS n, peerStatus p),
    (Reg.PEER_TX_NEXT n, p.txNext), (Reg.PEER_TX_ACKED n, p.txAcked), (Reg.PEER_RX_NEXT n, p.rxNext)]

/-- Views of the POD block. -/
def podView (s : State) (b : Nat) : Option Nat :=
  let n := (b - Reg.POD_STATUS 0) / 0x40000
  let o := (b - Reg.POD_STATUS 0) % 0x40000
  if o < 0x1000 then viewAt b [(Reg.POD_STATUS n, portStatus s n), (Reg.POD_GATE_STATE n, (portOf s n).gateEntry * 2 ^ 8 + (portOf s n).gates)]
  else if o < 0x2000 then classView s n ((o - 0x1000) / 0x40) b
  else windowView s n b

/-! ## TWIN, SEC, PWR, TOPO (Tables 18.9, 19.7, 20.5, 21.6) -/

/-- TWIN_STATUS. -/
def twinStatus (s : State) : Nat :=
  let t := s.twin
  min t.missed 255 * 2 ^ 24 + t.lastCause * 2 ^ 8 + flag t.peerDegraded * 2 ^ 7 + flag t.linkUp * 2 ^ 6 + flag t.role * 2 ^ 5
    + bits (reg s Reg.TWIN_MODE) 1 0 * 2 ^ 3 + t.mode.code

/-- Views of the TWIN block: bytes left are the pass's segments still to be sent, or still to come (log 27). -/
def twinView (s : State) (b : Nat) : Option Nat :=
  let v := vcOf s 1
  let r := s.twin.resync
  viewAt b [
    (Reg.TWIN_STATUS, twinStatus s), (Reg.TWIN_JSEQ, (if v.acked = 0xFFFFFFFF ∧ v.wraps = 0 then 0 else v.acked) * 2 ^ 32 + v.nextSeq),
    (Reg.TWIN_RESYNC_LEFT, match r with
      | some x => if x.source then ((vcOf s 2).queue.map fun f => f.payload.length - 16).foldl (· + ·) 0 else 2048 * x.left
      | none => 0),
    (Reg.TWIN_RESYNC_PASS, match r with
      | some x => min x.pass 255
      | none => 0)]

/-- The function and window that SEC_WIN_SEL selects, as 4 * function + window. -/
def selectedWindow (s : State) : Nat := 4 * bits (reg s Reg.SEC_WIN_SEL) 13 8 + bits (reg s Reg.SEC_WIN_SEL) 1 0

/-- Views of the SEC block. -/
def secView (s : State) (b : Nat) : Option Nat :=
  let x := s.sec
  let w := windowOf s (selectedWindow s / 4) (selectedWindow s % 4)
  viewAt b [
    (Reg.SEC_STATUS, flag x.report.isSome * 8 + flag x.pairSecret.isSome * 4 + flag x.unlocked.isSome * 2 + flag x.keys.isSome),
    (Reg.SEC_DEVICE_ID, deviceId), (Reg.SEC_JOBKEYS, (x.jobKeys.filter fun p => p.2.isSome).length),
    (Reg.SEC_ASSETKEYS, x.assetKeys.length), (Reg.SEC_OWNER_ROOTS, x.owners.length),
    (Reg.SEC_DEBUG_EXPIRY, x.unlocked.getD 0), (Reg.SEC_WIN_BASE, w.1), (Reg.SEC_WIN_LIMIT, w.2)]

/-- PWR_CAL of the channel that PWR_CAL_SEL selects (R424). -/
def calView (s : State) (b : Nat) : Option Nat :=
  let c := Config.plinthCal (bits (reg s Reg.PWR_CAL_SEL) 1 0)
  viewAt b [(Reg.PWR_CAL, unsigned 16 c.2.2 * 2 ^ 32 + c.2.1 % 2 ^ 16 * 2 ^ 16 + c.1 % 2 ^ 16)]

/-- State of a unit (Table 21.6). -/
def UnitMode.code : UnitMode → Nat
  | .available => 0
  | .resetting => 1
  | .off => 2

/-- TOPO_DISC_LINKS. -/
def discLinks (s : State) : Nat :=
  flag s.twin.linkUp * 2 ^ 14 + sumNat ((List.range 4).map fun n => flag (portOf s n).linkUp * 2 ^ (10 + n)) + flag s.host.linkUp * 2 ^ 9
    + s.topo.bridges % 2 ^ 6

/-- Views of the TOPO block. -/
def topoView (s : State) (b : Nat) : Option Nat :=
  let sel := reg s Reg.TOPO_UNIT_SEL
  let u := unitSt s (bits sel 18 16) (bits sel 8 0)
  viewAt b [(Reg.TOPO_DISC_LINKS, discLinks s), (Reg.TOPO_EPOCH, u.epoch * 2 ^ 16 + u.mode.code)]

/-! ## EVT and ERR (Tables 22.6, 22.7) -/

/-- Views of the EVT block. -/
def evtView (s : State) (b : Nat) : Option Nat :=
  match viewIndex (Reg.EVT_CNT 0) 8 96 b with
  | some n => some (tget (fun _ => 0) s.evt.cnt n)
  | none => (viewIndex (Reg.EVT_SNAP 0) 8 96 b).map fun n => tget (fun _ => 0) s.evt.snap n

/-- ERR_INT_SUMMARY as a number. -/
def summaryWord (s : State) : Nat := sumNat ((summary s).map fun k => 2 ^ k)

/-- Views of the ERR block; a slot nothing was written to reads 0. -/
def errView (s : State) (b : Nat) : Option Nat :=
  match viewIndex (Reg.ERR_LOG 0) 32 512 b with
  | some i => some (match tget (fun _ => none) s.err.ring i with
    | some e => leNat e.toBytes
    | none => 0)
  | none => viewAt b [(Reg.ERR_INT_SUMMARY, summaryWord s), (Reg.ARITH_SUMMARY, arithSummary s)]

/-! ## Every block -/

/-- What the register that begins at offset `b` shows of state outside the register file; none where the register file holds it. -/
def viewOf (s : State) (b : Nat) : Option Nat :=
  if b < 0x10000 then none
  else if b < 0x20000 then beatView s b
  else if b < 0x40000 then bondView s b
  else if b < 0x50000 then hostqView s b
  else if b < 0x60000 then mboxView s b
  else if b < 0x70000 then admitView s b
  else if b < 0x80000 then energyView s b
  else if b < 0x90000 then searchView s b
  else if b < 0xA0000 then selectView s b
  else if b < 0xB0000 then tableView s b
  else if b < 0xC0000 then textView s b
  else if b < 0x100000 then serveView s b
  else if b < 0x200000 then podView s b
  else if b < 0x280000 then twinView s b
  else if b < 0x300000 then secView s b
  else if b < 0x380000 then calView s b
  else if b < 0x400000 then topoView s b
  else if b < 0x480000 then evtView s b
  else errView s b

/-- The words of the register file from offset `b` on, as one number. -/
def wordsFrom (s : State) (b : Nat) : Nat → Nat
  | 0 => 0
  | n + 1 => reg s b + 2 ^ 32 * wordsFrom s (b + 4) n

/-- What the register of row `r` that begins at offset `b` holds. -/
def registerValue (s : State) (r : RegRow) (b : Nat) : Nat :=
  match viewOf s b with
  | some v => v % 2 ^ (32 * r.words)
  | none => wordsFrom s b r.words

end Sys2Proof.Machine
end

