-- ==== Sys2Proof/Machine/Registers.lean ====
section
/-!
DEFINITION. Machine/Registers.lean: host accesses to BAR0 and the staging window (spec/00_scope.md R9 to R12, R479; spec/16_host_interface.md R321, R322,
R339 to R341): sizes, unmapped offsets, the windows of a virtual function, the access codes, latched halves, and the
registers whose write is an operation of its own.
-/
namespace Sys2Proof.Machine

/-! ## Where an access goes -/

/-- The channels, non-secure, that MB_FN grants function `f`, ascending (R321). -/
def grantedChannels (s : State) (f : Nat) : List Nat := (List.range 16).filter fun c => chanGrants s c f

/-- R321: where offset `off` of a virtual function's BAR0 lies in the block map; none outside its windows. -/
def windowOffset (s : State) (f off : Nat) : Option Nat :=
  if off < 0x1000 then ((boundPairs s f)[off / 0x80]?).map fun q => Reg.Q_SQ_BASE q + off % 0x80
  else ((grantedChannels s f)[(off - 0x1000) / 0x400]?).map fun c => Reg.MB_LOCK c + (off - 0x1000) % 0x400

/-- The offset in the block map of an access by function `f`; none for a virtual function outside its windows. -/
def blockOffset (s : State) (f off : Nat) : Option Nat := if f = 0 then some off else windowOffset s f off

/-- R10: whether an access is aligned and of 32 or 64 bits. -/
def goodSize (off size : Nat) : Bool := (decide (size = 4) || decide (size = 8)) && decide (off % size = 0)

/-- Whether an offset lies in the per-die debug windows (Table 16.2). -/
def inDebug (off : Nat) : Bool := decide (0x1000000 ≤ off) && decide (off < 0x4000000)

/-- Whether an offset lies in the window of a mailbox channel. -/
def inChannel (off : Nat) : Bool := decide (Reg.MB_LOCK 0 ≤ off) && decide (off < Reg.MB_SEC_STATE)

/-- The channel of an offset. -/
def channelAt (off : Nat) : Nat := (off - Reg.MB_LOCK 0) / 0x400

/-! ## Reads (R9 to R11) -/

/-- Word `i` of a register's value. -/
def wordAt (v i : Nat) : Nat := v / 2 ^ (32 * i) % 2 ^ 32

/-- Clear a register of the register file. -/
def clearWords (s : State) (b : Nat) : Nat → State
  | 0 => s
  | n + 1 => clearWords (setReg s b 0) (b + 4) n

/-- The RC counters of the selected meter, which stand in its record. -/
def clearMeter (s : State) (n b : Nat) : Option State :=
  let i := selectedMeter s n
  let m := meterOf s n i
  if b = Reg.POL_CNT_GREEN n then some (setMeter s n i { m with
      green := 0 })
  else if b = Reg.POL_CNT_YELLOW n then some (setMeter s n i { m with
      yellow := 0 })
  else if b = Reg.POL_CNT_RED n then some (setMeter s n i { m with
      red := 0 })
  else none

/-- What a read leaves of the register of row `r` that begins at `b`: an RC register is cleared (R9). -/
def afterRead (s : State) (r : RegRow) (b : Nat) : State :=
  if r.acc = .rc then
    match clearMeter s ((b - Reg.POD_STATUS 0) / 0x40000) b with
    | some s1 => s1
    | none => clearWords s b r.words
  else s

/-- The latch of the 64-bit register at `b` (R10). -/
def latchOf (s : State) (b : Nat) : Nat := (tget (fun _ => 0) s.latch b).toNat

/-- Latch a high half. -/
def setLatch (s : State) (b v : Nat) : State := { s with
    latch := tset (fun _ => 0) s.latch b (BitVec.ofNat 32 v) }

/-- A read of 32 bits at offset `off` of the block map: the value, and the state after it. -/
def readWord (s : State) (n off : Nat) : Nat × State :=
  match regRow off with
  | none => (0, protocol s 0x0002 off n)
  | some (r, d) =>
    let b := off - d
    if r.acc = .wo then (0, s)
    else if r.words = 2 then
      if d < 4 then
        let v := registerValue s r b
        (wordAt v 0, afterRead (setLatch s b (wordAt v 1)) r b)
      else (latchOf s b, s)
    else (wordAt (registerValue s r b) (d / 4), afterRead s r b)

/-- R11, R339: whether an offset of the mailbox block reaches nothing: no register stands there, or it belongs to a twin channel. -/
def chanUnmapped (off : Nat) : Bool := (regRow off).isNone || decide (24 ≤ channelAt off)

/-- Whether an offset is MB_FN of its channel, or its high half. -/
def atMbFn (off : Nat) : Bool := decide (off = Reg.MB_FN (channelAt off)) || decide (off = Reg.MB_FN (channelAt off) + 4)

/-- A read of a mailbox window by requester `n`: what R339, R340 and R386 show it. The physical function in a channel that MB_FN does
not grant it reads zero and is not counted (DESIGN CHOICE, log 58). -/
def readChannel (s : State) (n off : Nat) : Nat × State :=
  let c := channelAt off
  if chanUnmapped off then (0, protocol s 0x0002 off n)
  else if s.twin.silent then (0, s)
  else if atMbFn off then (if n ≠ 1 then (0, protocol s 0x0004 off n) else readWord s n off)
  else if !chanReach s c n then (0, s)
  else if off = Reg.MB_LOCK c then (lockValue s c n, lockRead s c n)
  else if Reg.MB_DATA c ≤ off ∧ !chanMay s c n then (0, s)
  else readWord s n off

/-- A read of 32 bits. -/
def readAt (s : State) (n off : Nat) : Nat × State := if inChannel off then readChannel s n off else readWord s n off

/-- A read of 64 bits: a 64-bit register whole, anything else as two reads, the lower first (R10). -/
def readWide (s : State) (n off : Nat) : Nat × State :=
  match regRow off with
  | some (r, 0) =>
    if r.words = 2 ∧ inChannel off then
      (if chanUnmapped off then (0, protocol s 0x0002 off n) else if s.twin.silent then (0, s)
        else if n ≠ 1 then (0, protocol s 0x0004 off n) else (registerValue s r off, s))
    else if r.words = 2 then (registerValue s r off, afterRead s r off)
    else
      let lo := readAt s n off
      let hi := readAt lo.2 n (off + 4)
      (lo.1 + 2 ^ 32 * hi.1, hi.2)
  | _ =>
    let lo := readAt s n off
    let hi := readAt lo.2 n (off + 4)
    (lo.1 + 2 ^ 32 * hi.1, hi.2)

/-- A read inside the debug windows: zero while locked; what an open window shows is open (R418). -/
def readDebug (s : State) (size : Nat) : Nat × State :=
  if s.sec.unlocked.isSome then (Config.free s.fresh % 2 ^ (8 * size), tick s) else (0, s)

/-- A read of BAR0 by function `f`: the data returned and the state after it. -/
def readBar (s : State) (f off size : Nat) : Nat × State :=
  if !goodSize off size then (0, protocol s 0x0001 off (f + 1))
  else
    match blockOffset s f off with
    | none => (0, protocol s 0x0004 off (f + 1))
    | some a =>
      if inDebug a then readDebug s size
      else if !hostReaches s a then (0, s)
      else if size = 4 then readAt s (f + 1) a else readWide s (f + 1) a

/-- A read of BAR0: the data leaves (log 13). -/
def hostRead (s : State) (f off size : Nat) : State := emit (readBar s f off size).2 (.readData off size (readBar s f off size).1)

/-! ## Writes of registers with an operation of their own -/

/-- The register of a command field. -/
def CmdReg.offset : CmdReg → Nat
  | .stg => Reg.STG_CMD
  | .sw => Reg.SW_CMD
  | .tab => Reg.TAB_CMD
  | .ts => Reg.TS_CMD
  | .ptPin => Reg.PT_PIN_CMD
  | .bond => Reg.BOND_CTRL

/-- The code that a written value puts into a command field. -/
def CmdReg.code : CmdReg → Nat → Nat
  | .stg, v => bits v 2 0
  | .sw, v => bits v 1 0
  | .tab, v => bits v 2 0
  | .ts, v => bits v 1 0
  | .ptPin, v => bits v 1 0
  | .bond, v => bits v 3 0

/-- Whether a code is defined: for BOND_CTRL, exactly one bit; zero there is no command (R479). -/
def CmdReg.defined : CmdReg → Nat → Bool
  | .stg, c => decide (1 ≤ c) && decide (c ≤ 4)
  | .sw, c => decide (1 ≤ c) && decide (c ≤ 2)
  | .tab, c => decide (1 ≤ c) && decide (c ≤ 4)
  | .ts, c => decide (1 ≤ c) && decide (c ≤ 2)
  | .ptPin, c => decide (1 ≤ c) && decide (c ≤ 2)
  | .bond, c => [0, 1, 2, 4, 8].contains c

/-- What a defined code of a command field does. -/
def commandRun (s : State) : CmdReg → Nat → State
  | .stg, c => stgCmd s c
  | .sw, c => swCmd s c
  | .tab, c => tabCmd s c
  | .ts, c => tsCmd s c
  | .ptPin, c => if c = 1 then ptPin s else ptUnpin s
  | .bond, c =>
    if c = 1 then bondLoad s else if c = 2 then bondSeal s else if c = 4 then bondUnload s else if c = 8 then bondAbort s else s

/-- A write of `v` to a command register: a code that it does not define has no effect and is logged (R479). -/
def commandWrite (s : State) (x : CmdReg) (v : Nat) : State :=
  if x.defined (x.code v) then commandRun s x (x.code v) else protocol s 0x000B x.offset 1

/-- The command register at an offset. -/
def commandAt (off : Nat) : Option CmdReg := [CmdReg.stg, .sw, .tab, .ts, .ptPin, .bond].find? fun x => decide (x.offset = off)

/-- BEAT_CTRL (Table 02.5): FORCE_HOLDOVER, then RELOAD, when one write carries both (DESIGN CHOICE, log 58). -/
def beatCtrl (s : State) (v : Nat) : State :=
  let s1 := forceHoldover s (bit v 1)
  if bit v 0 then reload s1 else s1

/-- TWIN_CTRL: SOLO_SEAL is kept; HANDOVER and REJOIN act. -/
def twinCtrl (s : State) (v : Nat) : State :=
  let s1 := putBit s Reg.TWIN_CTRL 2 (bit v 2)
  let s2 := if bit v 0 then declareFault s1 4 else s1
  if bit v 1 then rejoin s2 else s2

/-- The warm reset of this module (R435). -/
def warmNow (s : State) : State := warmReset s Config.fuseBytes Config.firmware (Config.activeImage % 2) Config.firmwareFloor

/-- TOPO_CTRL: RETRAIN_FULL is kept; WARM_RESET acts. -/
def topoCtrl (s : State) (v : Nat) : State :=
  let s1 := putBit s Reg.TOPO_CTRL 1 (bit v 1)
  if bit v 0 then warmNow s1 else s1

/-- EVT_CTRL: FREEZE and SNAP_EN are kept; CLEAR acts. -/
def evtCtrl (s : State) (v : Nat) : State :=
  let s1 := evtFreeze (putBit s Reg.EVT_CTRL 2 (bit v 2)) (bit v 0)
  if bit v 1 then evtClear s1 else s1

/-- A write of the selected account's weight (in force from the next measure boundary, R301) or queue depth. -/
def accountWrite (s : State) (off v : Nat) : State :=
  let a := selectedAccount s
  if off = Reg.ADMIT_ACCT_WEIGHT then { s with
      adm := { s.adm with
        weightNew := tset (fun _ => 0) s.adm.weightNew a (v % 2 ^ 16) } }
  else { s with
      adm := { s.adm with
        depth := tset (fun _ => 1024) s.adm.depth a (v % 2 ^ 13) } }

/-- ENERGY_CEILING (R310): out of range, the write is ignored and counted. -/
def ceilingWrite (s : State) (v : Nat) : State :=
  if 1200 ≤ bits v 11 0 ∧ bits v 11 0 ≤ 3000 then setReg s Reg.ENERGY_CEILING (bits v 11 0) else protocol s 0x0009 Reg.ENERGY_CEILING 1

/-- Q_SIZE (R324): within 6 to 16, while disabled. -/
def sizeWrite (s : State) (n q v : Nat) : State :=
  let a := bits v 4 0
  let b := bits v 12 8
  if 6 ≤ a ∧ a ≤ 16 ∧ 6 ≤ b ∧ b ≤ 16 ∧ !qEnabled s q then setReg s (Reg.Q_SIZE q) (b * 2 ^ 8 + a) else protocol s 0x0009 (Reg.Q_SIZE q) n

/-- Q_CTRL (R336): ENABLE, RESYNC and RESUME act in that order at one edge, and then held entries follow. -/
def pairCtrl (s : State) (q v : Nat) : State :=
  let s1 := if bit v 0 = qEnabled s q then s else enablePair s q (bit v 0)
  let s2 := if bit v 1 then resyncPair s1 q else s1
  flushAll (if bit v 2 then qResume s2 q else s2) q

/-- Q_HSN_NEXT is writable while ENABLE is 0 (Table 16.10), by the physical function (R343). -/
def hsnWrite (s : State) (n q v : Nat) : State :=
  if qEnabled s q ∨ n ≠ 1 then s
  else setPair s q { pairOf s q with
    hsnNext := v }

/-- A write of a queue pair's register by requester `n`; none where the access codes alone decide. Q_BIND is the physical function's
(R323). -/
def pairWrite (s : State) (n off v : Nat) : Option State :=
  let q := (off - Reg.Q_SQ_BASE 0) / 0x80
  if off = Reg.Q_SIZE q then some (sizeWrite s n q v)
  else if off = Reg.Q_CTRL q then some (pairCtrl s q v)
  else if off = Reg.Q_BIND q then some (if n = 1 then qBind s q v else protocol s 0x0004 off n)
  else if off = Reg.Q_HSN_NEXT q then some (hsnWrite s n q v)
  else if off = Reg.Q_REPLAY_FROM q then some (qReplay s q v)
  else none

/-- Replace byte range `[o, o + bs)` of a 256-byte area. -/
def areaPut (l : List Byte) (o : Nat) (bs : List Byte) : List Byte := l.take o ++ bs ++ l.drop (o + bs.length)

/-- A write to MB_DATA (R340, R341). -/
def dataWrite (s : State) (n c o v : Nat) : State :=
  if !chanMay s c n then s
  else if (chanOf s c).pending ≠ none then bump s Reg.MB_CNT_BUSY
  else setChan s c { chanOf s c with
    data := areaPut (chanOf s c).data o (natLE 4 v) }

/-- PEER_MAC and PEER_CONN are writable while ENABLE is 0 (R372). -/
def peerWrite (s : State) (n : Nat) (f : Peer → Peer) : State :=
  let i := selectedPeer s n
  if bit (peerOf s n i).ctrl 0 then s else setPeer s n i (f (peerOf s n i))

/-- Replace one half of a 64-bit value. -/
def putHalf (old : Nat) (high : Bool) (v : Nat) : Nat := if high then old % 2 ^ 32 + v * 2 ^ 32 else old / 2 ^ 32 * 2 ^ 32 + v

/-- A settings register of the selected meter (R360): the value is in force from the next beat. -/
def meterWrite (s : State) (n off v : Nat) : Option State :=
  let i := selectedMeter s n
  let m := meterOf s n i
  if off = Reg.POL_CTRL n then some (polCtrl s n i v)
  else if off = Reg.POL_CIR n then some (setMeter s n i { m with
      cirNew := v })
  else if off = Reg.POL_PIR n then some (setMeter s n i { m with
      pirNew := v })
  else if off = Reg.POL_CBS n then some (setMeter s n i { m with
      cbsNew := v % 2 ^ 24 })
  else if off = Reg.POL_PBS n then some (setMeter s n i { m with
      pbsNew := v % 2 ^ 24 })
  else none

/-- A write of the peer window of a port (R355, R372). -/
def peerWindow (s : State) (n off v : Nat) : Option State :=
  if off = Reg.PEER_MAC n then some (peerWrite s n fun p => { p with
      mac := putHalf p.mac false v })
  else if off = Reg.PEER_MAC n + 4 then some (peerWrite s n fun p => { p with
      mac := putHalf p.mac true (v % 2 ^ 16) })
  else if off = Reg.PEER_CONN n then some (peerWrite s n fun p => { p with
      conn := v % 2 ^ 16 })
  else if off = Reg.PEER_CTRL n then some (peerCtrl s n (selectedPeer s n) v)
  else if off = Reg.PEER_CMD n then some (if bit v 0 then restart s n (selectedPeer s n) else s)
  else none

/-- POD_CTRL: ENABLE, then RESET (Table 17.4). -/
def portCtrl (s : State) (n v : Nat) : State :=
  let s1 := podEnable s n (bit v 0)
  if bit v 1 then podReset s1 n else s1

/-- A write to a shaper register of a class; none for its other registers. -/
def classWrite (s : State) (n o v : Nat) : Option State :=
  let c := (o - 0x1000) / 0x40
  let x := (o - 0x1000) % 0x40
  if c < 8 ∧ x % 4 = 0 ∧ x ≤ 12 then some (shapeWrite s n c x v) else none

/-- A write of a pod port's register; none where the access codes alone decide. -/
def portWrite (s : State) (off v : Nat) : Option State :=
  let n := (off - Reg.POD_STATUS 0) / 0x40000
  let o := (off - Reg.POD_STATUS 0) % 0x40000
  if o < 0x1000 then (if off = Reg.POD_CTRL n then some (portCtrl s n v) else none)
  else if o < 0x2000 then classWrite s n o v
  else if o < 0x3000 then meterWrite s n off v
  else peerWindow s n off v

/-- A half of a window register of the function and window selected (R417). -/
def winWrite (s : State) (limit high : Bool) (v : Nat) : State :=
  let k := selectedWindow s
  let w := windowOf s (k / 4) (k % 4)
  let w1 := if limit then (w.1, putHalf w.2 high v) else (putHalf w.1 high v, w.2)
  { s with
    sec := { s.sec with
      windows := tset (fun _ => (0, 0)) s.sec.windows k w1 } }

/-- A write of a SEC register; none where the access codes alone decide. -/
def secWrite (s : State) (off v : Nat) : Option State :=
  if off = Reg.SEC_WIN_BASE then some (winWrite s false false v)
  else if off = Reg.SEC_WIN_BASE + 4 then some (winWrite s false true v)
  else if off = Reg.SEC_WIN_LIMIT then some (winWrite s true false v)
  else if off = Reg.SEC_WIN_LIMIT + 4 then some (winWrite s true true v)
  else none

/-- A write of a register of a block that has no array of its own operations. -/
def controlWrite (s : State) (off v : Nat) : Option State :=
  if off = Reg.BEAT_CTRL then some (beatCtrl s v)
  else if off = Reg.SERVE_CANCEL_CMD then some (if bit v 0 then serveCancel s (bit v 1) else s)
  else if off = Reg.SERVE_WIN_INDEX then some (winSnapshot s (bits v 15 0))
  else if off = Reg.ADMIT_CTRL then some (admitCtrl s (bit v 0))
  else if off = Reg.ADMIT_ACCT_WEIGHT ∨ off = Reg.ADMIT_ACCT_QDEPTH then some (accountWrite s off v)
  else if off = Reg.ENERGY_CEILING then some (ceilingWrite s v)
  else if off = Reg.TWIN_CTRL then some (twinCtrl s v)
  else if off = Reg.TOPO_CTRL then some (topoCtrl s v)
  else if off = Reg.TOPO_UNIT_CMD then some (if bit v 0 then hostUnitReset s else s)
  else if off = Reg.EVT_CTRL then some (evtCtrl s v)
  else (viewIndex (Reg.EVT_SEL 0) 4 96 off).map fun n => evtSelect s n v

/-- The operation of a write of `v` to the 32-bit word at `off` by requester `n`; none where the access codes alone decide (R9). -/
def specialWrite (s : State) (n off v : Nat) : Option State :=
  match commandAt off with
  | some x => some (commandWrite s x v)
  | none =>
    if 0x48000 ≤ off ∧ off < 0x50000 then pairWrite s n off v
    else if 0x100000 ≤ off ∧ off < 0x200000 then portWrite s off v
    else if 0x280000 ≤ off ∧ off < 0x300000 then secWrite s off v
    else controlWrite s off v

/-! ## Writes under the access codes (R9 to R12) -/

/-- R12: a write to an LK field of a sealed image. -/
def lkRefused (s : State) (n off : Nat) : State := setBits (protocol s 0x0003 off n) Reg.ERR_STATUS 4

/-- A write of `v` to byte offset `d` of the register of row `r`, under its access code. -/
def codeWrite (s : State) (r : RegRow) (n off d v : Nat) : State :=
  let m := (r.maskWord d).toNat
  match r.acc with
  | .rw => setReg s off (Nat.land v m)
  | .lk => if isSealed s then lkRefused s n off else setReg s off (Nat.land v m)
  | .w1c => clearBits s off (Nat.land v m)
  | .ro => s
  | .rc => s
  | .roSt => s
  | .wo => s

/-- A write of 32 bits at offset `off` of the block map. -/
def writeWord (s : State) (n off v : Nat) : State :=
  match regRow off with
  | none => protocol s 0x0002 off n
  | some (r, d) =>
    match specialWrite s n off v with
    | some s1 => s1
    | none => codeWrite s r n off d v

/-- A write of a mailbox window (R339 to R341, R386); MB_FN is the physical function's, and fixed for channels 16 to 23. -/
def writeChannel (s : State) (n off v : Nat) : State :=
  let c := channelAt off
  if chanUnmapped off then protocol s 0x0002 off n
  else if s.twin.silent then s
  else if atMbFn off then (if n ≠ 1 then protocol s 0x0004 off n else if 16 ≤ c then s else writeWord s n off v)
  else if !chanReach s c n then s
  else if off = Reg.MB_LOCK c then lockWrite s c n v
  else if off = Reg.MB_DOORBELL c then doorbell s c n (bits v 24 16) (bits v 15 0)
  else if Reg.MB_DATA c ≤ off ∧ off < Reg.MB_DATA c + 256 then dataWrite s n c (off - Reg.MB_DATA c) v
  else writeWord s n off v

/-- A write of 32 bits. -/
def writeAt (s : State) (n off v : Nat) : State := if inChannel off then writeChannel s n off v else writeWord s n off v

/-- A write of 64 bits: a 64-bit register whole, anything else as two writes, the lower first (R10). -/
def writeWide (s : State) (n off v : Nat) : State :=
  match regRow off with
  | some (r, 0) =>
    if r.words = 2 ∧ inChannel off ∧ (chanUnmapped off ∨ s.twin.silent ∨ n ≠ 1 ∨ 16 ≤ channelAt off) then writeChannel s n off (wordAt v 0)
    else if r.words = 2 ∧ r.acc = .lk ∧ isSealed s then lkRefused s n off
    else writeAt (writeAt s n off (wordAt v 0)) n (off + 4) (wordAt v 1)
  | _ => writeAt (writeAt s n off (wordAt v 0)) n (off + 4) (wordAt v 1)

/-- A write of `data` to BAR0 by function `f`. -/
def writeBar (s : State) (f off : Nat) (data : List Byte) : State :=
  if !goodSize off data.length then protocol s 0x0001 off (f + 1)
  else
    match blockOffset s f off with
    | none => protocol s 0x0004 off (f + 1)
    | some a =>
      if inDebug a ∨ !hostReaches s a then s
      else if data.length = 4 then writeAt s (f + 1) a (leNat data) else writeWide s (f + 1) a (leNat data)

/-- A write to the staging window (R321): the physical function's. -/
def stagingWrite (s : State) (f off : Nat) (data : List Byte) : State :=
  if f = 0 then { s with
      staging := memWrite s.staging off (data.take (bar4Size - off)) }
  else s

/-- A write to BAR2 (R321): a doorbell register of a page, or nothing there. -/
def doorbellWrite (s : State) (f off : Nat) (data : List Byte) : State :=
  let k := off / 4096
  let v := leNat data % 65536
  if !hostReaches s (Reg.Q_CTRL 0) then s
  else if off % 4096 = 0 then ring s f k 0 fun q => sqDoorbell s q v (f + 1)
  else if off % 4096 = 4 then ring s f k 4 fun q => cqDoorbell s q v (f + 1)
  else ring s f k (off % 4096) fun _ => s

/-- Whether a write reaches an open debug window. -/
def debugWrite (s : State) (f off : Nat) : Bool := decide (f = 0) && inDebug off && s.sec.unlocked.isSome

/-! ## The commands -/

/-- REGISTER_WRITE. -/
def execRegisterWrite (b : Bar) (f off : Nat) (data : List Byte) (s : State) : Out :=
  linked s <| match b with
  | .bar4 => done (stagingWrite s f off data)
  | .bar2 => doneHost (doorbellWrite s f off data)
  | .bar0 =>
    if goodSize off data.length ∧ debugWrite s f off then .refused .debugWindow else doneHost (writeBar s f off data)

/-- REGISTER_READ_CLEAR: any read of BAR0; an RC register among what it reads is cleared. -/
def execRegisterReadClear (f off size : Nat) (s : State) : Out := linked s (doneHost (hostRead s f off size))

/-- LOW_HALF_READ: a read of 32 bits. -/
def execLowHalfRead (f off : Nat) (s : State) : Out := linked s (doneHost (hostRead s f off 4))

/-- BAD_SIZE_ACCESS (R10): zero data, or no effect; logged with code 0x0001. -/
def execBadSizeAccess (f off size : Nat) (write : Bool) (s : State) : Out :=
  linked s <| if goodSize off size then done s
  else
    let s1 := protocol s 0x0001 off (f + 1)
    done (if write then s1 else emit s1 (.readData off size 0))

/-- The code an aligned access to offset `off` by function `f` is logged with, when it reaches no register. -/
def unmappedCode (s : State) (f off : Nat) : Option Nat :=
  match blockOffset s f off with
  | none => some 0x0004
  | some a => if inDebug a then none else if (regRow a).isNone ∨ (inChannel a ∧ chanUnmapped a) then some 0x0002 else none

/-- An access to BAR2 that reaches no doorbell register, or a read of one, which is write-only: it reads zero; outside its pages a virtual
function's is logged (R321). -/
def pageAccess (s : State) (f off size : Nat) (write : Bool) : State :=
  let s1 := ring s f (off / 4096) (off % 4096) fun _ => s
  if write then s1 else emit s1 (.readData off size 0)

/-- UNMAPPED_ACCESS (R11, R321): an access to BAR0 that reaches no register; one to BAR2 that rings no doorbell; a read of the staging window. -/
def execUnmappedAccess (a : Aperture) (off size : Nat) (write : Bool) (s : State) : Out :=
  let f : Nat := a.fn
  linked s <| match a.bar with
  | .bar4 => done (if write then s else emit s (.readData off size 0))
  | .bar2 => done (if write ∧ off % 4096 ≤ 4 ∧ (doorbellPair s f (off / 4096)).isSome then s else pageAccess s f off size write)
  | .bar0 =>
    match unmappedCode s f off with
    | none => done s
    | some _ =>
      if !goodSize off size then done s
      else doneHost (if write then writeBar s f off (List.replicate size 0) else hostRead s f off size)

/-- UNDEFINED_COMMAND (R479). -/
def execUndefinedCommand (x : CmdReg) (code : Nat) (s : State) : Out :=
  host s x.offset fun s => if x.defined (x.code code) then s else protocol s 0x000B x.offset 1

end Sys2Proof.Machine
end

