-- ==== Sys2Proof/Machine/Dispatch.lean ====
section
/-!
DEFINITION. Machine/Dispatch.lean: which meaning each command has: one arm per constructor of Instr, one direct call of its meaning.
-/
namespace Sys2Proof.Machine

/-- What a command does to the block, the queue aside. -/
def exec (i : Instr) (s : State) : Host.Outcome State Fault Refusal :=
  match i with
  | .registerWrite bar fn off data => Sys2Proof.Machine.execRegisterWrite bar fn off data s
  | .registerReadClear fn off size => Sys2Proof.Machine.execRegisterReadClear fn off size s
  | .lowHalfRead fn off => Sys2Proof.Machine.execLowHalfRead fn off s
  | .badSizeAccess fn off size write => Sys2Proof.Machine.execBadSizeAccess fn off size write s
  | .unmappedAccess via off size write => Sys2Proof.Machine.execUnmappedAccess via off size write s
  | .undefinedCommand reg code => Sys2Proof.Machine.execUndefinedCommand reg code s
  | .beatLost => Sys2Proof.Machine.execBeatLost s
  | .forceHoldover on => Sys2Proof.Machine.execForceHoldover on s
  | .measureMarker => Sys2Proof.Machine.execMeasureMarker s
  | .timecodeFrame bytes => Sys2Proof.Machine.execTimecodeFrame bytes s
  | .tcLost => Sys2Proof.Machine.execTcLost s
  | .slewDone => Sys2Proof.Machine.execSlewDone s
  | .reload => Sys2Proof.Machine.execReload s
  | .wrapNear => Sys2Proof.Machine.execWrapNear s
  | .wrapFault => Sys2Proof.Machine.execWrapFault s
  | .wrapHold => Sys2Proof.Machine.execWrapHold s
  | .measureBoundary hz cycles => Sys2Proof.Machine.execMeasureBoundary hz cycles s
  | .stepBoundary sect io => Sys2Proof.Machine.execStepBoundary sect io s
  | .opNop core => Sys2Proof.Machine.execOpNop core s
  | .loop core => Sys2Proof.Machine.execLoop core s
  | .stepEnd core => Sys2Proof.Machine.execStepEnd core s
  | .yield core => Sys2Proof.Machine.execYield core s
  | .mma core => Sys2Proof.Machine.execMma core s
  | .wload core => Sys2Proof.Machine.execWload core s
  | .prepass core => Sys2Proof.Machine.execPrepass core s
  | .accumDrain core => Sys2Proof.Machine.execAccumDrain core s
  | .epiBind core => Sys2Proof.Machine.execEpiBind core s
  | .prologue core => Sys2Proof.Machine.execPrologue core s
  | .vpass core => Sys2Proof.Machine.execVpass core s
  | .recmerge core => Sys2Proof.Machine.execRecmerge core s
  | .smxmerge core => Sys2Proof.Machine.execSmxmerge core s
  | .get core => Sys2Proof.Machine.execGet core s
  | .put core => Sys2Proof.Machine.execPut core s
  | .xfer core => Sys2Proof.Machine.execXfer core s
  | .pfWait core => Sys2Proof.Machine.execPfWait core s
  | .dmaWait core => Sys2Proof.Machine.execDmaWait core s
  | .arriveWait core => Sys2Proof.Machine.execArriveWait core s
  | .deliveryArrival core => Sys2Proof.Machine.execDeliveryArrival core s
  | .prefetchEntry core => Sys2Proof.Machine.execPrefetchEntry core s
  | .sliceClearDone core slice => Sys2Proof.Machine.execSliceClearDone core slice s
  | .scanUnit key unit => Sys2Proof.Machine.execScanUnit key unit s
  | .selTopk core => Sys2Proof.Machine.execSelTopk core s
  | .selMerge core => Sys2Proof.Machine.execSelMerge core s
  | .runDelivery unit parent => Sys2Proof.Machine.execRunDelivery unit parent s
  | .tgather core => Sys2Proof.Machine.execTgather core s
  | .tfetch core => Sys2Proof.Machine.execTfetch core s
  | .sfuncSlotFill core asset ver => Sys2Proof.Machine.execSfuncSlotFill core asset ver s
  | .bondLoad => Sys2Proof.Machine.execBondLoad s
  | .bondLoadComplete container => Sys2Proof.Machine.execBondLoadComplete container s
  | .bondAbort => Sys2Proof.Machine.execBondAbort s
  | .bondSeal => Sys2Proof.Machine.execBondSeal s
  | .bondUnload => Sys2Proof.Machine.execBondUnload s
  | .stgBegin => Sys2Proof.Machine.execStgBegin s
  | .stgData => Sys2Proof.Machine.execStgData s
  | .stgEnd => Sys2Proof.Machine.execStgEnd s
  | .stgAbort => Sys2Proof.Machine.execStgAbort s
  | .stgComplete => Sys2Proof.Machine.execStgComplete s
  | .swCommit => Sys2Proof.Machine.execSwCommit s
  | .swCancel => Sys2Proof.Machine.execSwCancel s
  | .switchDue slot => Sys2Proof.Machine.execSwitchDue slot s
  | .tabOpen => Sys2Proof.Machine.execTabOpen s
  | .tabApply => Sys2Proof.Machine.execTabApply s
  | .tabClose => Sys2Proof.Machine.execTabClose s
  | .tabAbort => Sys2Proof.Machine.execTabAbort s
  | .tabCommandDone => Sys2Proof.Machine.execTabCommandDone s
  | .tsInit => Sys2Proof.Machine.execTsInit s
  | .tsWrite => Sys2Proof.Machine.execTsWrite s
  | .tokenise key => Sys2Proof.Machine.execTokenise key s
  | .maskBuild entry => Sys2Proof.Machine.execMaskBuild entry s
  | .sampleToken entry logits => Sys2Proof.Machine.execSampleToken entry logits s
  | .completionInstant key => Sys2Proof.Machine.execCompletionInstant key s
  | .ptPin => Sys2Proof.Machine.execPtPin s
  | .ptUnpin => Sys2Proof.Machine.execPtUnpin s
  | .serveCancel role => Sys2Proof.Machine.execServeCancel role s
  | .serveWinSnapshot entry => Sys2Proof.Machine.execServeWinSnapshot entry s
  | .admitOpen on => Sys2Proof.Machine.execAdmitOpen on s
  | .admitDecision => Sys2Proof.Machine.execAdmitDecision s
  | .drainComplete => Sys2Proof.Machine.execDrainComplete s
  | .sqDoorbell page v => Sys2Proof.Machine.execSqDoorbell page v s
  | .cqHeadDoorbell page v => Sys2Proof.Machine.execCqHeadDoorbell page v s
  | .submitQuery pair e d ok => Sys2Proof.Machine.execSubmitQuery pair e d ok s
  | .submitNop pair e => Sys2Proof.Machine.execSubmitNop pair e s
  | .submitCancel pair e => Sys2Proof.Machine.execSubmitCancel pair e s
  | .coalTimer pair => Sys2Proof.Machine.execCoalTimer pair s
  | .qEnable pair on => Sys2Proof.Machine.execQEnable pair on s
  | .qResync pair => Sys2Proof.Machine.execQResync pair s
  | .qResume pair => Sys2Proof.Machine.execQResume pair s
  | .qBind pair v => Sys2Proof.Machine.execQBind pair v s
  | .qReplayFrom pair dsn => Sys2Proof.Machine.execQReplayFrom pair dsn s
  | .replayComplete pair => Sys2Proof.Machine.execReplayComplete pair s
  | .functionLevelReset fn => Sys2Proof.Machine.execFunctionLevelReset fn s
  | .hotReset linkLost => Sys2Proof.Machine.execHotReset linkLost s
  | .mbLockRead chan n => Sys2Proof.Machine.execMbLockRead chan n s
  | .mbLockRelease chan n v => Sys2Proof.Machine.execMbLockRelease chan n v s
  | .lockExpired chan => Sys2Proof.Machine.execLockExpired chan s
  | .mbDoorbell chan n len id => Sys2Proof.Machine.execMbDoorbell chan n len id s
  | .mbAck chan code => Sys2Proof.Machine.execMbAck chan code s
  | .sessionOpen nonce addr ok => Sys2Proof.Machine.execSessionOpen nonce addr ok s
  | .sessionKey ct ok => Sys2Proof.Machine.execSessionKey ct ok s
  | .sessionClose chan => Sys2Proof.Machine.execSessionClose chan s
  | .getReport chan nonce addr => Sys2Proof.Machine.execGetReport chan nonce addr s
  | .keyRelease chan object ok => Sys2Proof.Machine.execKeyRelease chan object ok s
  | .keyRevoke chan id => Sys2Proof.Machine.execKeyRevoke chan id s
  | .enrollRoot chan key sig ok => Sys2Proof.Machine.execEnrollRoot chan key sig ok s
  | .setFloor chan id floor sig ok => Sys2Proof.Machine.execSetFloor chan id floor sig ok s
  | .debugUnlock chan id nonce expiry sig ok => Sys2Proof.Machine.execDebugUnlock chan id nonce expiry sig ok s
  | .debugExpiry => Sys2Proof.Machine.execDebugExpiry s
  | .jobKeyOpen chan peer ct ok => Sys2Proof.Machine.execJobKeyOpen chan peer ct ok s
  | .jobKeyClose chan handle => Sys2Proof.Machine.execJobKeyClose chan handle s
  | .podFrameDrop port f => Sys2Proof.Machine.execPodFrameDrop port f s
  | .podRequest port f => Sys2Proof.Machine.execPodRequest port f s
  | .podCancel port f => Sys2Proof.Machine.execPodCancel port f s
  | .selRun port f => Sys2Proof.Machine.execSelRun port f s
  | .podMergeStart key => Sys2Proof.Machine.execPodMergeStart key s
  | .tokReq port f => Sys2Proof.Machine.execTokReq port f s
  | .tokReply port f => Sys2Proof.Machine.execTokReply port f s
  | .coll port f sameImage => Sys2Proof.Machine.execColl port f sameImage s
  | .hello port f => Sys2Proof.Machine.execHello port f s
  | .podAck port f => Sys2Proof.Machine.execPodAck port f s
  | .ackDelayExpiry port peer => Sys2Proof.Machine.execAckDelayExpiry port peer s
  | .podRtoExpiry port peer => Sys2Proof.Machine.execPodRtoExpiry port peer s
  | .peerRetry port peer => Sys2Proof.Machine.execPeerRetry port peer s
  | .pendingExpiry port peer => Sys2Proof.Machine.execPendingExpiry port peer s
  | .restart port peer => Sys2Proof.Machine.execRestart port peer s
  | .peerEnable port peer v => Sys2Proof.Machine.execPeerEnable port peer v s
  | .podReset port => Sys2Proof.Machine.execPodReset port s
  | .podEnable port on => Sys2Proof.Machine.execPodEnable port on s
  | .podLinkUp port media x => Sys2Proof.Machine.execPodLinkUp port media x s
  | .podLinkDown port => Sys2Proof.Machine.execPodLinkDown port s
  | .polCtrl port meter v => Sys2Proof.Machine.execPolCtrl port meter v s
  | .tcShapeWrite port cls off v => Sys2Proof.Machine.execTcShapeWrite port cls off v s
  | .gateEntryChange port => Sys2Proof.Machine.execGateEntryChange port s
  | .frameTransmit port => Sys2Proof.Machine.execFrameTransmit port s
  | .firicJournal f verdict => Sys2Proof.Machine.execFiricJournal f verdict s
  | .journalAccept => Sys2Proof.Machine.execJournalAccept s
  | .journalVset => Sys2Proof.Machine.execJournalVset s
  | .journalSwitch => Sys2Proof.Machine.execJournalSwitch s
  | .journalTable => Sys2Proof.Machine.execJournalTable s
  | .journalStore => Sys2Proof.Machine.execJournalStore s
  | .journalCancel => Sys2Proof.Machine.execJournalCancel s
  | .journalTokens => Sys2Proof.Machine.execJournalTokens s
  | .journalResult => Sys2Proof.Machine.execJournalResult s
  | .journalEnd => Sys2Proof.Machine.execJournalEnd s
  | .journalKey => Sys2Proof.Machine.execJournalKey s
  | .journalAssetState => Sys2Proof.Machine.execJournalAssetState s
  | .journalBuildState => Sys2Proof.Machine.execJournalBuildState s
  | .journalFreeMap => Sys2Proof.Machine.execJournalFreeMap s
  | .firicHeartbeat f => Sys2Proof.Machine.execFiricHeartbeat f s
  | .firicFault f => Sys2Proof.Machine.execFiricFault f s
  | .firicMbox f m => Sys2Proof.Machine.execFiricMbox f m s
  | .resyncData f => Sys2Proof.Machine.execResyncData f s
  | .passStart f => Sys2Proof.Machine.execPassStart f s
  | .passEnd f => Sys2Proof.Machine.execPassEnd f s
  | .stateBegin f => Sys2Proof.Machine.execStateBegin f s
  | .stateEnd f => Sys2Proof.Machine.execStateEnd f s
  | .stateAck f => Sys2Proof.Machine.execStateAck f s
  | .resyncAbort f => Sys2Proof.Machine.execResyncAbort f s
  | .resyncPassDone => Sys2Proof.Machine.execResyncPassDone s
  | .firicIdle f => Sys2Proof.Machine.execFiricIdle f s
  | .firicRto vc => Sys2Proof.Machine.execFiricRto vc s
  | .firicLinkDown => Sys2Proof.Machine.execFiricLinkDown s
  | .firicLinkUp peerSolo x => Sys2Proof.Machine.execFiricLinkUp peerSolo x s
  | .watchdogFire => Sys2Proof.Machine.execWatchdogFire s
  | .handover => Sys2Proof.Machine.execHandover s
  | .rejoin => Sys2Proof.Machine.execRejoin s
  | .twinFailDeclare => Sys2Proof.Machine.execTwinFailDeclare s
  | .inputValid => Sys2Proof.Machine.execInputValid s
  | .railPgoodFail => Sys2Proof.Machine.execRailPgoodFail s
  | .powerRetry => Sys2Proof.Machine.execPowerRetry s
  | .resetRelease => Sys2Proof.Machine.execResetRelease s
  | .discoveryDone d => Sys2Proof.Machine.execDiscoveryDone d s
  | .trainingDone t => Sys2Proof.Machine.execTrainingDone t s
  | .memInitDone failed => Sys2Proof.Machine.execMemInitDone failed s
  | .warmReset => Sys2Proof.Machine.execWarmReset s
  | .unitReset named => Sys2Proof.Machine.execUnitReset named s
  | .unitReturn cls index => Sys2Proof.Machine.execUnitReturn cls index s
  | .uvWarn => Sys2Proof.Machine.execUvWarn s
  | .uvTrip => Sys2Proof.Machine.execUvTrip s
  | .inputLoss => Sys2Proof.Machine.execInputLoss s
  | .railShutdown => Sys2Proof.Machine.execRailShutdown s
  | .ovTrip => Sys2Proof.Machine.execOvTrip s
  | .peakLimit => Sys2Proof.Machine.execPeakLimit s
  | .plinthRecord crossed => Sys2Proof.Machine.execPlinthRecord crossed s
  | .scrubAccess place flips dropped pass => Sys2Proof.Machine.execScrubAccess place flips dropped pass s
  | .evtCounterWrap n => Sys2Proof.Machine.execEvtCounterWrap n s
  | .evtFreeze on => Sys2Proof.Machine.execEvtFreeze on s
  | .evtClear => Sys2Proof.Machine.execEvtClear s
  | .evtSel n v => Sys2Proof.Machine.execEvtSel n v s
  | .beatEdge => Sys2Proof.Machine.execBeatEdge s
  | .beatReturn => Sys2Proof.Machine.execBeatReturn s
  | .hostLinkUp link x => Sys2Proof.Machine.execHostLinkUp link x s
  | .dmaCompletion core n => Sys2Proof.Machine.execDmaCompletion core n s
  | .messagePart port f => Sys2Proof.Machine.execMessagePart port f s
  | .plinthSample volts amps temp => Sys2Proof.Machine.execPlinthSample volts amps temp s
  | .telemSample t16 => Sys2Proof.Machine.execTelemSample t16 s
  | .trainingRecordWrite u => Sys2Proof.Machine.execTrainingRecordWrite u s

end Sys2Proof.Machine
end

