-- ==== Sys2Proof/Safety.lean ====
section
/-!
DEFINITION. Safety.lean: the words that the statements share: what a command's frame leaves out, and the states the statements speak of.
-/
namespace Sys2Proof.Machine

/-- The register words that an event may change (R462): an event counter that wraps sets its EVT_OVF bit and OVF. -/
def evtWord (a : Nat) : Bool := [Reg.EVT_INT_STATUS, Reg.EVT_OVF 0, Reg.EVT_OVF 1, Reg.EVT_OVF 2].contains a

/-- The register words of the error log (R457, Table 22.7). -/
def logWords : List Nat :=
  [Reg.ERR_LOG_HEAD, Reg.ERR_LOG_COUNT, Reg.ERR_CNT_OVERWRITTEN, Reg.ERR_CNT_PROTOCOL, Reg.ERR_INT_STATUS]

/-- Every register word keeps its value, but those of a list and those that an event may change. -/
def RegsKept (s u : State) (l : List Nat) : Prop := ∀ a, evtWord a = false → a ∉ l → reg u a = reg s a

/-- Every interrupt level that is up has been announced, and none that is down is remembered (R459). -/
abbrev Settled (s : State) : Prop := s.err.levels = levelsUp s

/-- Every memory of the block is in its canonical form. -/
abbrev MemoriesCanonical (s : State) : Prop :=
  twf memDefault s.staging = true ∧ twf memDefault s.lpddr = true ∧ twf memDefault s.scratch = true

/-- Scratchpad byte `x` of core `d`. -/
def spByte (s : State) (d x : Nat) : Byte := memByte s.scratch (spKey d x)

/-- Byte `o` of LPDDR region `g`. -/
def ldByte (s : State) (g o : Nat) : Byte := memByte s.lpddr (ldKey g o)

/-- Every scratchpad byte of every core keeps its value, but `n` bytes of core `c` from `x` on. -/
def ScratchKept (s u : State) (c x n : Nat) : Prop :=
  ∀ d y, y < spSize → (d ≠ c ∨ y < x ∨ x + n ≤ y) → spByte u d y = spByte s d y

/-- Every core but `c` is as before. -/
def CoresKept (s u : State) (c : Nat) : Prop := ∀ d, d ≠ c → core u d = core s d

end Sys2Proof.Machine
end

