-- ==== Sys2Proof/Certificates/Slice0/Obligations.lean ====
section
/-!
DEFINITION. Certificates/Slice0/Obligations.lean: the statements about this block, one for each group of commands and each kind of state that the
spec names, and what holds of every step. `settle u` in a conclusion is the state u with its interrupt levels announced (R459):
it differs from u in `emitted` and `err.levels` alone.
-/
open Sys2Proof Sys2Proof.Machine

/-- For every command c and every state s whose queue is c followed by rest, step s is exec of c at s with the queue rest; with
an empty queue, step answers the state after one ck without a command (the model's choice, log 2), its interrupt levels
settled. -/
def Obligations.StepRunsTheFrontCommand : Prop :=
  (∀ (c : Instr) (rest : List Instr) (s : State), s.pending = c :: rest → step s = exec c { s with pending := rest })
    ∧ ∀ s : State, s.pending = [] → step s = .next (settle (idleCk s))

/-- For every state s and every next state t that a step answers from s, whatever command stands at the front of the queue, the
levels t remembers are the levels that are up in t: every level that rose in the step was announced, and every level that
fell may be announced again (R459). Steps that fault or are refused are not spoken of. The model's own record of the levels
is ErrSt.levels. -/
def Obligations.StepKeepsLevelsSettled : Prop :=
  ∀ s t : State, Settled s → step s = .next t → Settled t

/-- The reset state has its interrupt levels settled, its memories are in canonical form, and its queue is empty. After reset
every register word reads its table's reset value; the time state is UNSET without a count; the image is EMPTY; no switch,
build or staging exists; every mailbox channel is free, every queue pair DISABLED with its first DSN and HSN 0; every pod
port's link is down; the twin is ABSENT; every resettable unit is OFF with epoch 0; every event counter is 0 and the error
log is empty; LPDDR and scratchpads read zero. The emptiness of memories is the model's choice (log 6), as is the state of
the power path (log 11). -/
def Obligations.ResetIsSettledAndUnpowered : Prop :=
  Settled State.reset ∧ MemoriesCanonical State.reset ∧ State.reset.pending = []
    ∧ (∀ a, reg State.reset a = (regReset a).toNat) ∧ State.reset.time.mode = .unset ∧ State.reset.bond.mode = .empty
    ∧ State.reset.bond.image = none ∧ State.reset.assets.staging = none ∧ (∀ i, switchOf State.reset i = none)
    ∧ (∀ c, (chanOf State.reset c).owner = none ∧ (chanOf State.reset c).pending = none)
    ∧ (∀ q, q < 256 → qEnabled State.reset q = false ∧ (pairOf State.reset q).dsnNext = 0 ∧ (pairOf State.reset q).hsnNext = 0)
    ∧ (∀ n, (portOf State.reset n).linkUp = false) ∧ State.reset.twin.mode = .absent
    ∧ (∀ c i, unitSt State.reset c i = UnitSt.reset)
    ∧ (∀ n, tget (fun _ => 0) State.reset.evt.cnt n = 0 ∧ tget (fun _ => none) State.reset.err.ring n = none)
    ∧ (∀ g o, ldRead State.reset g o 1 = [0]) ∧ (∀ c x, spRead State.reset c x 1 = [0])
    ∧ reg State.reset Reg.IDENT_VENDOR = 0x7A1E ∧ reg State.reset Reg.ENERGY_CEILING = (regReset Reg.ENERGY_CEILING).toNat

/-- For every state s whose staging window, LPDDR and scratchpads are in canonical form (addresses strictly rising, no entry
equal to what an unlisted byte reads as), and every next state t that a step answers from s, whatever command stands at the
front of the queue, the three memories of t are in canonical form, so that equal memories stay equal data. Steps that fault
or are refused are not spoken of. That unlisted bytes read zero is the model's choice (log 6). -/
def Obligations.StepKeepsMemoriesCanonical : Prop :=
  ∀ s t : State, MemoriesCanonical s → step s = .next t → MemoriesCanonical t

/-- Settling a state keeps every field but emitted and err.levels. A level that is up and was not remembered sends: of a summary
bit k below 21, the MSI-X vector that ERR_INT_ROUTE[k] holds, to function 0, and, with the route's MGMT bit, an I3C in-band
interrupt; of queue pair q (level 32 + q), the vector of Q_VECTOR to the pair's function; of mailbox channel c (level 512 +
c), the vector of MB_VECTOR to the channel's function (the lowest that MB_FN grants it to, the model's choice, log 31). Every
message sent belongs to a level that is up and was not remembered: a remembered level, and one that is down, sends nothing,
whatever else rises. A silent module (R386) sends no MSI-X message. -/
def Obligations.RisenLevelsAreAnnounced : Prop :=
  ∀ s : State,
    settle s = { s with emitted := (settle s).emitted, err := { s.err with levels := levelsUp s } }
      ∧ (∀ k, k < 20 → (k ∈ levelsUp s ↔ ∃ st en, intBlocks[k]? = some (st, en) ∧ Nat.land (reg s st) (reg s en) ≠ 0))
      ∧ (20 ∈ levelsUp s ↔ arithSummary s ≠ 0)
      ∧ (∀ k, k < 21 → k ∈ levelsUp s → k ∉ s.err.levels → s.twin.silent = false →
          Emission.msix 0 (bits (reg s (Reg.ERR_INT_ROUTE k)) 4 0) ∈ (settle s).emitted
            ∧ (bit (reg s (Reg.ERR_INT_ROUTE k)) 7 = true → Emission.i3c k ∈ (settle s).emitted))
      ∧ (∀ q, q < 256 → 32 + q ∈ levelsUp s → 32 + q ∉ s.err.levels → s.twin.silent = false →
          Emission.msix (qFn s q) (bits (reg s (Reg.Q_VECTOR q)) 4 0) ∈ (settle s).emitted)
      ∧ (∀ c, c < 32 → 512 + c ∈ levelsUp s → 512 + c ∉ s.err.levels → s.twin.silent = false →
          Emission.msix (channelFn s c) (bits (reg s (Reg.MB_VECTOR c)) 4 0) ∈ (settle s).emitted)
      ∧ (∃ l, (settle s).emitted = s.emitted ++ l ∧ (∀ e ∈ l, ∃ k, k ∈ levelsUp s ∧ k ∉ s.err.levels ∧ e ∈ riseMsgs s k)
          ∧ (s.twin.silent = true → ∀ e ∈ l, ∃ k, e = Emission.i3c k))

/-- Logging an event of class PROTOCOL adds 1 to ERR_CNT_PROTOCOL (saturating). If the newest entry was written in the present
measure with equal CODE, DIE, UNIT and ADDR, its REPEAT rises by 1, saturating, and ERR_LOG_HEAD stays. Otherwise slot
ERR_LOG_HEAD takes the new entry with TIME now and REPEAT 0, ERR_LOG_HEAD moves on modulo 512, LOGGED is raised, and
ERR_CNT_OVERWRITTEN counts when the slot held an entry. Every other register word that no event counter writes, every other
slot, and every field of the state but regs, evt and err stay. -/
def Obligations.LogEntryGoesToTheRing : Prop :=
  ∀ (s : State) (x : LogItem), reg s Reg.ERR_LOG_HEAD < 512 →
    let u := logErr s x
    u = { s with regs := u.regs, evt := u.evt, err := { s.err with ring := u.err.ring, newest := u.err.newest } }
      ∧ RegsKept s u logWords
      ∧ (x.cls = 2 → reg u Reg.ERR_CNT_PROTOCOL = min (reg s Reg.ERR_CNT_PROTOCOL + 1) 0xFFFFFFFF)
      ∧ (∀ slot e, s.err.newest = some (slot, measureNo s) → tget (fun _ => none) s.err.ring slot = some e →
          (x.code = e.code ∧ x.die = e.die ∧ x.unit = e.unit ∧ x.addr = e.addr) →
          tget (fun _ => none) u.err.ring slot = some { e with repeats := min (e.repeats + 1) 0xFFFF }
            ∧ (∀ k, k ≠ slot → tget (fun _ => none) u.err.ring k = tget (fun _ => none) s.err.ring k)
            ∧ reg u Reg.ERR_LOG_HEAD = reg s Reg.ERR_LOG_HEAD ∧ u.err.newest = s.err.newest)
      ∧ (repeated s x = none →
          tget (fun _ => none) u.err.ring (reg s Reg.ERR_LOG_HEAD) = some (x.entry s)
            ∧ (∀ k, k ≠ reg s Reg.ERR_LOG_HEAD → tget (fun _ => none) u.err.ring k = tget (fun _ => none) s.err.ring k)
            ∧ reg u Reg.ERR_LOG_HEAD = (reg s Reg.ERR_LOG_HEAD + 1) % 512
            ∧ u.err.newest = some (reg s Reg.ERR_LOG_HEAD, measureNo s)
            ∧ regBit u Reg.ERR_INT_STATUS 0 = true
            ∧ reg u Reg.ERR_CNT_OVERWRITTEN = (if tget (fun _ => none) s.err.ring (reg s Reg.ERR_LOG_HEAD) = none
                then reg s Reg.ERR_CNT_OVERWRITTEN else min (reg s Reg.ERR_CNT_OVERWRITTEN + 1) 0xFFFFFFFF))

/-- An aligned 32-bit write of v by the physical function to a mapped register word outside the mailbox and debug windows, whose
block runs and which has no operation of its own, completes. A RW word takes the written bits that the register has; of a W1C
word the written ones clear; a word of code RO, RC or WO stays; a LK word is written before the seal, and after it stays,
ERR_STATUS.LK_REFUSED is set and code 0x0003 is logged (R12). Other register words stay, those of the error log apart in the
refused case. Then requests whose last record has been written end (freeEnded, R269). -/
def Obligations.WritesFollowTheAccessCodes : Prop :=
  ∀ (s : State) (off : Nat) (b0 b1 b2 b3 : Byte) (r : RegRow) (d : Nat),
    let v := leNat [b0, b1, b2, b3]
    let m := (r.maskWord d).toNat
    off % 4 = 0 → inChannel off = false → inDebug off = false → hostReaches s off = true → regRow off = some (r, d) →
    specialWrite s 1 off v = none →
    ∃ u, exec (.registerWrite .bar0 0 off [b0, b1, b2, b3]) s = .next (settle (freeEnded u))
      ∧ u = { s with regs := u.regs, evt := u.evt, err := u.err }
      ∧ (r.acc = .rw → reg u off = Nat.land v m ∧ RegsKept s u [off])
      ∧ (r.acc = .w1c → reg u off = Nat.land (reg s off) (Nat.xor 0xFFFFFFFF (Nat.land v m)) ∧ RegsKept s u [off])
      ∧ (r.acc = .lk → isSealed s = false → reg u off = Nat.land v m ∧ RegsKept s u [off])
      ∧ (r.acc = .lk → isSealed s = true →
          u = setBits (protocol s 0x0003 off 1) Reg.ERR_STATUS 4 ∧ RegsKept s u (Reg.ERR_STATUS :: logWords)
            ∧ regBit u Reg.ERR_STATUS 2 = true)
      ∧ (r.acc = .ro ∨ r.acc = .rc ∨ r.acc = .roSt ∨ r.acc = .wo → u = s)

/-- While the host link is up, a write by the physical function of bytes that end within the 4 GiB staging window completes: the
bytes stand from the offset written on, every other byte of the window reads as before, the window keeps its canonical form,
and nothing else of the state changes. -/
def Obligations.StagingWindowStoresBytes : Prop :=
  ∀ (s : State) (off : Nat) (data : List Byte), s.host.linkUp = true → off + data.length ≤ bar4Size → twf memDefault s.staging = true →
    ∃ u, exec (.registerWrite .bar4 0 off data) s = .next (settle u)
      ∧ u = { s with staging := u.staging }
      ∧ memRead u.staging off data.length = data
      ∧ (∀ a, a < off ∨ off + data.length ≤ a → memByte u.staging a = memByte s.staging a)
      ∧ twf memDefault u.staging = true

/-- For the physical function, outside the mailbox and debug windows, where the block runs: a 32-bit read of the low half of a
readable 64-bit register returns its low word and latches its high word; an RC register of the register file is cleared;
without code RC no register word changes. A 32-bit read of an RC register of 32 bits returns its value, and the register then
reads 0. A 64-bit read of an RC register of 64 bits returns the whole value and clears it, and latches nothing. -/
def Obligations.ReadsReturnLatchAndClear : Prop :=
  ∀ (s : State) (off : Nat) (r : RegRow),
    inChannel off = false → inDebug off = false → hostReaches s off = true → regRow off = some (r, 0) → r.acc ≠ .wo →
    let n := (off - Reg.POD_STATUS 0) / 0x40000
    (off % 4 = 0 → r.words = 2 →
      ∃ u, exec (.lowHalfRead 0 off) s = .next (settle (freeEnded u))
        ∧ u = { s with regs := u.regs, latch := u.latch, pod := u.pod, emitted := u.emitted }
        ∧ u.emitted = s.emitted ++ [.readData off 4 (registerValue s r off % 2 ^ 32)]
        ∧ latchOf u off = registerValue s r off / 2 ^ 32 % 2 ^ 32
        ∧ (r.acc ≠ .rc → u.regs = s.regs ∧ u.pod = s.pod)
        ∧ (r.acc = .rc → clearMeter (setLatch s off (wordAt (registerValue s r off) 1)) n off = none →
            reg u off = 0 ∧ reg u (off + 4) = 0 ∧ RegsKept s u [off, off + 4]))
    ∧ (off % 4 = 0 → r.words = 1 → r.acc = .rc → clearMeter s n off = none →
      ∃ u, exec (.registerReadClear 0 off 4) s = .next (settle (freeEnded u))
        ∧ u = { s with regs := u.regs, emitted := u.emitted }
        ∧ u.emitted = s.emitted ++ [.readData off 4 (registerValue s r off % 2 ^ 32)]
        ∧ reg u off = 0 ∧ RegsKept s u [off])
    ∧ (off % 8 = 0 → r.words = 2 → r.acc = .rc → clearMeter s n off = none →
      ∃ u, exec (.registerReadClear 0 off 8) s = .next (settle (freeEnded u))
        ∧ u = { s with regs := u.regs, emitted := u.emitted }
        ∧ u.emitted = s.emitted ++ [.readData off 8 (registerValue s r off)]
        ∧ reg u off = 0 ∧ reg u (off + 4) = 0 ∧ RegsKept s u [off, off + 4])

/-- While the host link is up, an access that is not aligned 32 or 64 bits returns zero data, is ignored if a write, and logs
code 0x0001 for its requester. An aligned access of 32 bits by the physical function to an unmapped offset outside the
mailbox and debug windows, whose block runs, reads zero, is ignored if a write, and logs 0x0002; one by a virtual function
outside its windows, or to a doorbell page of BAR2 that it does not have, logs 0x0004. A command code that its field does not
define, or several BOND_CTRL commands at once, logs 0x000B. While the link is down none of these accesses arrives (log 37).
What logging itself does is LogEntryGoesToTheRing. -/
def Obligations.RefusedAccessesAreLogged : Prop :=
  (∀ (s : State) (f : FnNo) (off size : Nat), s.host.linkUp = true → goodSize off size = false →
      exec (.badSizeAccess f off size true) s = .next (settle (protocol s 0x0001 off (f + 1)))
        ∧ exec (.badSizeAccess f off size false) s = .next (settle (emit (protocol s 0x0001 off (f + 1)) (.readData off size 0))))
    ∧ (∀ (s : State) (off : Nat), off % 4 = 0 → inChannel off = false → inDebug off = false → hostReaches s off = true →
      regRow off = none →
      exec (.unmappedAccess ⟨.bar0, 0⟩ off 4 true) s = .next (settle (freeEnded (protocol s 0x0002 off 1)))
        ∧ exec (.unmappedAccess ⟨.bar0, 0⟩ off 4 false) s
          = .next (settle (freeEnded (emit (protocol s 0x0002 off 1) (.readData off 4 0)))))
    ∧ (∀ (s : State) (f : FnNo) (off size : Nat), s.host.linkUp = true → goodSize off size = true → f ≠ 0 → windowOffset s f off = none →
      exec (.unmappedAccess ⟨.bar0, f⟩ off size true) s = .next (settle (freeEnded (protocol s 0x0004 off (f + 1))))
        ∧ exec (.unmappedAccess ⟨.bar0, f⟩ off size false) s
          = .next (settle (freeEnded (emit (protocol s 0x0004 off (f + 1)) (.readData off size 0)))))
    ∧ (∀ (s : State) (f : FnNo) (off size : Nat), s.host.linkUp = true → doorbellPair s f (off / 4096) = none →
      exec (.unmappedAccess ⟨.bar2, f⟩ off size true) s = .next (settle (protocol s 0x0004 off (f + 1)))
        ∧ exec (.unmappedAccess ⟨.bar2, f⟩ off size false) s
          = .next (settle (emit (protocol s 0x0004 off (f + 1)) (.readData off size 0))))
    ∧ (∀ (s : State) (x : CmdReg) (c : Code32), hostReaches s x.offset = true → x.defined (x.code c) = false →
      exec (.undefinedCommand x c) s = .next (settle (protocol s 0x000B x.offset 1)))
    ∧ (∀ (s : State) (b : Bar) (a : Aperture) (f : FnNo) (off size : Nat) (data : List Byte) (w : Bool), s.host.linkUp = false →
      ∀ c ∈ [Instr.registerWrite b f off data, .registerReadClear f off size, .lowHalfRead f off, .badSizeAccess f off size w,
        .unmappedAccess a off size w], exec c s = .next (settle s))

/-- While BEAT is present, BEAT_LOST in LOCKED or SLEWING enters HOLDOVER, records the next expected edge in BEAT_HOLD_START,
counts BEAT_CNT_HOLDOVER and raises HOLDOVER_ENTER; in FAULT on BEAT it does the same but keeps FAULT and its cause and moves
to the synthesiser; in UNSET none of the registers change and an unfinished pair of frames is abandoned. Setting
FORCE_HOLDOVER acts as a loss in each of these states and sets its bit; clearing it in a state that was forced clears its bit
only, unless a measure boundary falls. BEAT_RETURN off a boundary marks edges as arriving. Nothing else changes. -/
def Obligations.BeatLossEntersHoldover : Prop :=
  (∀ s : State, beatPresent s.time = true → (s.time.mode = .locked ∨ s.time.mode = .slewing) →
      ∃ u, exec .beatLost s = .next (settle u)
        ∧ u = { s with time := u.time, regs := u.regs, evt := u.evt }
        ∧ localIsBeat u.time = false
        ∧ u.time = { s.time with
            mode := .holdover, beatIn := false, cleanMeasures := 0, slewLeft := 0, wholeMeasure := false, exitFrom := none, mismatch := none }
        ∧ reg64 u Reg.BEAT_HOLD_START = nextEdge s % 2 ^ 64
        ∧ reg u Reg.BEAT_CNT_HOLDOVER = min (reg s Reg.BEAT_CNT_HOLDOVER + 1) 0xFFFFFFFF
        ∧ regBit u Reg.BEAT_INT_STATUS 0 = true
        ∧ RegsKept s u [Reg.BEAT_HOLD_START, Reg.BEAT_HOLD_START + 4, Reg.BEAT_CNT_HOLDOVER, Reg.BEAT_INT_STATUS])
    ∧ (∀ s : State, beatPresent s.time = true → s.time.mode = .fault → s.time.synth = false →
      ∃ u, exec .beatLost s = .next (settle u)
        ∧ u = { s with time := u.time, regs := u.regs, evt := u.evt }
        ∧ u.time = { s.time with
            synth := true, firstFrame := none, beatIn := false, cleanMeasures := 0, slewLeft := 0, wholeMeasure := false
            exitFrom := none
            mismatch := none }
        ∧ localIsBeat u.time = false
        ∧ reg64 u Reg.BEAT_HOLD_START = nextEdge s % 2 ^ 64
        ∧ reg u Reg.BEAT_CNT_HOLDOVER = min (reg s Reg.BEAT_CNT_HOLDOVER + 1) 0xFFFFFFFF
        ∧ regBit u Reg.BEAT_INT_STATUS 0 = true
        ∧ RegsKept s u [Reg.BEAT_HOLD_START, Reg.BEAT_HOLD_START + 4, Reg.BEAT_CNT_HOLDOVER, Reg.BEAT_INT_STATUS])
    ∧ (∀ s : State, beatPresent s.time = true → s.time.mode = .unset →
      exec .beatLost s = .next (settle { s with
        time := { s.time with
          firstFrame := none, beatIn := false, cleanMeasures := 0, slewLeft := 0, wholeMeasure := false, exitFrom := none
          mismatch := none } }))
    ∧ (∀ s : State, hostReaches s Reg.BEAT_CTRL = true → beatPresent s.time = true → (s.time.mode = .locked ∨ s.time.mode = .slewing) →
      ∃ u, exec (.forceHoldover true) s = .next (settle u)
        ∧ u = { s with time := u.time, regs := u.regs, evt := u.evt }
        ∧ u.time = { s.time with
            mode := .holdover, forced := true, cleanMeasures := 0, slewLeft := 0, wholeMeasure := false, exitFrom := none
            mismatch := none }
        ∧ reg64 u Reg.BEAT_HOLD_START = nextEdge s % 2 ^ 64
        ∧ reg u Reg.BEAT_CNT_HOLDOVER = min (reg s Reg.BEAT_CNT_HOLDOVER + 1) 0xFFFFFFFF
        ∧ regBit u Reg.BEAT_CTRL 1 = true ∧ regBit u Reg.BEAT_INT_STATUS 0 = true
        ∧ RegsKept s u [Reg.BEAT_CTRL, Reg.BEAT_HOLD_START, Reg.BEAT_HOLD_START + 4, Reg.BEAT_CNT_HOLDOVER, Reg.BEAT_INT_STATUS])
    ∧ (∀ s : State, hostReaches s Reg.BEAT_CTRL = true → beatPresent s.time = true → s.time.mode = .fault → s.time.synth = false →
      ∃ u, exec (.forceHoldover true) s = .next (settle u)
        ∧ u = { s with time := u.time, regs := u.regs, evt := u.evt }
        ∧ u.time = { s.time with
            synth := true, firstFrame := none, forced := true, cleanMeasures := 0, slewLeft := 0, wholeMeasure := false
            exitFrom := none
            mismatch := none }
        ∧ reg64 u Reg.BEAT_HOLD_START = nextEdge s % 2 ^ 64
        ∧ reg u Reg.BEAT_CNT_HOLDOVER = min (reg s Reg.BEAT_CNT_HOLDOVER + 1) 0xFFFFFFFF
        ∧ regBit u Reg.BEAT_CTRL 1 = true ∧ regBit u Reg.BEAT_INT_STATUS 0 = true
        ∧ RegsKept s u [Reg.BEAT_CTRL, Reg.BEAT_HOLD_START, Reg.BEAT_HOLD_START + 4, Reg.BEAT_CNT_HOLDOVER, Reg.BEAT_INT_STATUS])
    ∧ (∀ s : State, hostReaches s Reg.BEAT_CTRL = true → beatPresent s.time = true → s.time.mode = .unset →
      ∃ u, exec (.forceHoldover true) s = .next (settle u)
        ∧ u = { s with time := u.time, regs := u.regs }
        ∧ u.time = { s.time with
            firstFrame := none, forced := true, cleanMeasures := 0, slewLeft := 0, wholeMeasure := false, exitFrom := none
            mismatch := none }
        ∧ regBit u Reg.BEAT_CTRL 1 = true ∧ RegsKept s u [Reg.BEAT_CTRL])
    ∧ (∀ s : State, hostReaches s Reg.BEAT_CTRL = true → s.time.forced = true → atMeasure s = false →
      ∃ u, exec (.forceHoldover false) s = .next (settle u)
        ∧ u = { s with time := { s.time with forced := false }, regs := u.regs }
        ∧ regBit u Reg.BEAT_CTRL 1 = false ∧ RegsKept s u [Reg.BEAT_CTRL])
    ∧ (∀ s : State, s.time.beatIn = false → atMeasure s = false →
      exec .beatReturn s = .next (settle { s with time := { s.time with beatIn := true } }))

/-- A marker is remembered with the raw beat and the local BeatTime of its edge. While the local beat is BEAT itself in LOCKED or
FAULT, a marker in a beat that is no measure boundary counts BEAT_CNT_MEAS_SLIP and raises MEASURE_SLIP; any other marker
changes nothing else. Once three measures passed without a valid frame, TC_LOST is set. -/
def Obligations.MarkersAreCheckedAgainstBoundaries : Prop :=
  (∀ s : State, slipTest s = true → s.time.beat % max (measureN s) 1 ≠ 0 →
      ∃ u, exec .measureMarker s = .next (settle u)
        ∧ u = { s with time := { s.time with marker := some (s.time.rawBeats, now s), markerSeen := true }, regs := u.regs, evt := u.evt }
        ∧ reg u Reg.BEAT_CNT_MEAS_SLIP = min (reg s Reg.BEAT_CNT_MEAS_SLIP + 1) 0xFFFFFFFF
        ∧ regBit u Reg.BEAT_INT_STATUS 4 = true
        ∧ RegsKept s u [Reg.BEAT_CNT_MEAS_SLIP, Reg.BEAT_INT_STATUS])
    ∧ (∀ s : State, (slipTest s = false ∨ s.time.beat % max (measureN s) 1 = 0) →
      exec .measureMarker s
        = .next (settle { s with time := { s.time with marker := some (s.time.rawBeats, now s), markerSeen := true } }))
    ∧ (∀ s : State, 3 ≤ s.time.framesMissed → exec .tcLost s = .next (settle { s with time := { s.time with tcLost := true } }))

/-- A frame that R27 does not accept counts BEAT_CNT_TC_BAD only. A valid frame of count C in LOCKED, whose marker came at local
count m, always updates BEAT_TC_LAST and clears TC_LOST. If C equals m nothing more happens. The first mismatch counts
BEAT_CNT_TC_MISMATCH and raises TC_MISMATCH; a second consecutive one by the same amount also puts the module into FAULT with
cause TIMECODE. The beat count is never stepped. In UNSET, with BEAT present and no reload pending, the first valid frame is
remembered with the raw beat of its marker. A second valid frame whose count differs from the first by exactly the beats
between their markers, an interval of 128 to 65,535 that divides both counts, loads the count: the state becomes LOCKED
unless the wrap thresholds (R25) act at once, and BEAT_MEASURE_OBS records the interval. A frame that does not pair becomes
the first of the next pair. With a reload pending in FAULT or UNSET, a pair loads the count likewise: LOCKED, cause NONE,
RELOAD_PENDING clear and RELOAD_DONE raised, then what the new count makes due is run (loadDue, R30). In FAULT or SLEWING
without one, and in HOLDOVER before its exit, a frame only updates BEAT_TC_LAST and TC_LOST. At the exit of HOLDOVER,
BEAT_OFFSET takes the offset: zero gives LOCKED, one within BEAT_SLEW_MAX SLEWING, a larger one FAULT with cause SLEW_LIMIT.
That an invalid frame leaves pair and mismatch standing is the model's choice (log 58). -/
def Obligations.TimecodeFramesCompareOrLoad : Prop :=
  (∀ (s : State) (b : List Byte), frameValid s b = false →
      ∃ u, exec (.timecodeFrame b) s = .next (settle u) ∧ u = { s with regs := u.regs, evt := u.evt }
        ∧ reg u Reg.BEAT_CNT_TC_BAD = min (reg s Reg.BEAT_CNT_TC_BAD + 1) 0xFFFFFFFF ∧ RegsKept s u [Reg.BEAT_CNT_TC_BAD])
    ∧ (∀ (s : State) (b : List Byte) (raw m : Nat), frameValid s b = true → s.time.mode = .locked → s.time.reloadPending = false →
        s.time.marker = some (raw, m) →
      ∃ u, exec (.timecodeFrame b) s = .next (settle u) ∧ u = { s with time := u.time, regs := u.regs, evt := u.evt }
        ∧ u.time = { s.time with
            framed := true, framesMissed := 0, tcLost := false, tcSrcHold := bit (le b 8 1) 1, mode := u.time.mode, cause := u.time.cause
            synth := u.time.synth, mismatch := u.time.mismatch, firstFrame := u.time.firstFrame, slewLeft := u.time.slewLeft }
        ∧ reg64 u Reg.BEAT_TC_LAST = le b 8 1 * 2 ^ 48 + le b 2 6
        ∧ RegsKept s u [Reg.BEAT_TC_LAST, Reg.BEAT_TC_LAST + 4, Reg.BEAT_CNT_TC_MISMATCH, Reg.BEAT_INT_STATUS]
        ∧ (le b 2 6 = m / 65536 → u.time.mode = .locked ∧ u.time.mismatch = none ∧ u.time.cause = s.time.cause ∧ u.time.slewLeft = s.time.slewLeft
            ∧ reg u Reg.BEAT_CNT_TC_MISMATCH = reg s Reg.BEAT_CNT_TC_MISMATCH
            ∧ reg u Reg.BEAT_INT_STATUS = reg s Reg.BEAT_INT_STATUS)
        ∧ (le b 2 6 ≠ m / 65536 →
            reg u Reg.BEAT_CNT_TC_MISMATCH = min (reg s Reg.BEAT_CNT_TC_MISMATCH + 1) 0xFFFFFFFF
              ∧ regBit u Reg.BEAT_INT_STATUS 3 = true
              ∧ (s.time.mismatch = some ((le b 2 6 : Nat) - (m / 65536 : Nat) : Int) →
                  u.time.mode = .fault ∧ u.time.cause = .timecode ∧ u.time.synth = false ∧ regBit u Reg.BEAT_INT_STATUS 2 = true)
              ∧ (s.time.mismatch ≠ some ((le b 2 6 : Nat) - (m / 65536 : Nat) : Int) →
                  u.time.mode = .locked ∧ u.time.mismatch = some ((le b 2 6 : Nat) - (m / 65536 : Nat) : Int))))
    ∧ (∀ (s : State) (b : List Byte) (raw m : Nat), frameValid s b = true → s.time.mode = .unset → beatPresent s.time = true →
      s.time.reloadPending = false → s.time.marker = some (raw, m) → s.time.firstFrame = none →
      ∃ u, exec (.timecodeFrame b) s = .next (settle u) ∧ u = { s with time := u.time, regs := u.regs }
        ∧ u.time = { s.time with
            framed := true, framesMissed := 0, tcLost := false, tcSrcHold := bit (le b 8 1) 1, firstFrame := some (le b 2 6, raw) }
        ∧ RegsKept s u [Reg.BEAT_TC_LAST, Reg.BEAT_TC_LAST + 4])
    ∧ (∀ (s : State) (b : List Byte) (raw m c r : Nat), frameValid s b = true → s.time.mode = .unset → beatPresent s.time = true →
      s.time.reloadPending = false → s.time.marker = some (raw, m) → s.time.firstFrame = some (c, r) →
      pairHolds c r (le b 2 6) raw = false →
      ∃ u, exec (.timecodeFrame b) s = .next (settle u) ∧ u = { s with time := u.time, regs := u.regs }
        ∧ u.time = { s.time with
            framed := true, framesMissed := 0, tcLost := false, tcSrcHold := bit (le b 8 1) 1, firstFrame := some (le b 2 6, raw) }
        ∧ RegsKept s u [Reg.BEAT_TC_LAST, Reg.BEAT_TC_LAST + 4])
    ∧ (∀ (s : State) (b : List Byte) (raw m c r : Nat), frameValid s b = true → s.time.mode = .unset → beatPresent s.time = true →
      s.time.reloadPending = false → s.time.marker = some (raw, m) → s.time.firstFrame = some (c, r) →
      pairHolds c r (le b 2 6) raw = true → le b 2 6 + (s.time.rawBeats - raw) < 0xFF0000000000 → s.topo.stage = .ready →
      ∃ u, exec (.timecodeFrame b) s = .next (settle u)
        ∧ u = { s with time := u.time, regs := u.regs, steps := u.steps, adm := u.adm, twin := { s.twin with fedAt := s.time.rawBeats } }
        ∧ u.time.mode = .locked ∧ u.time.beat = le b 2 6 + (s.time.rawBeats - raw) ∧ u.time.hold = false
        ∧ u.time.ck = s.time.ck ∧ u.time.rawBeats = s.time.rawBeats ∧ u.time.firstFrame = none ∧ u.time.cause = .none
        ∧ u.time.marker = some (raw, stamp (le b 2 6) 0)
        ∧ reg u Reg.BEAT_MEASURE_OBS = raw - r
        ∧ RegsKept s u [Reg.BEAT_TC_LAST, Reg.BEAT_TC_LAST + 4, Reg.BEAT_MEASURE_OBS])
    ∧ (∀ (s : State) (b : List Byte) (raw m c r : Nat), frameValid s b = true → (s.time.mode = .fault ∨ s.time.mode = .unset) →
      beatPresent s.time = true → s.time.reloadPending = true → s.time.marker = some (raw, m) → s.time.firstFrame = some (c, r) →
      pairHolds c r (le b 2 6) raw = true → le b 2 6 + (s.time.rawBeats - raw) < 0xFF0000000000 →
      ∃ u, exec (.timecodeFrame b) s = .next (settle (timeWaitDone (wrapTests (loadDue u))))
        ∧ u = { s with time := u.time, regs := u.regs, steps := u.steps, adm := u.adm, twin := { s.twin with fedAt := s.time.rawBeats } }
        ∧ u.time.mode = .locked ∧ u.time.cause = .none ∧ u.time.synth = false ∧ u.time.reloadPending = false
        ∧ u.time.beat = le b 2 6 + (s.time.rawBeats - raw) ∧ reg u Reg.BEAT_MEASURE_OBS = raw - r
        ∧ regBit u Reg.BEAT_INT_STATUS 7 = true
        ∧ RegsKept s u [Reg.BEAT_TC_LAST, Reg.BEAT_TC_LAST + 4, Reg.BEAT_MEASURE_OBS, Reg.BEAT_INT_STATUS])
    ∧ (∀ (s : State) (b : List Byte) (raw m : Nat), frameValid s b = true → s.time.reloadPending = false → s.time.marker = some (raw, m) →
      (s.time.mode = .fault ∨ s.time.mode = .slewing
        ∨ (s.time.mode = .holdover ∧ (beatPresent s.time = false ∨ ∀ r, s.time.exitFrom = some r → raw < r))) →
      ∃ u, exec (.timecodeFrame b) s = .next (settle u) ∧ u = { s with time := u.time, regs := u.regs }
        ∧ u.time = { s.time with framed := true, framesMissed := 0, tcLost := false, tcSrcHold := bit (le b 8 1) 1 }
        ∧ RegsKept s u [Reg.BEAT_TC_LAST, Reg.BEAT_TC_LAST + 4])
    ∧ (∀ (s : State) (b : List Byte) (raw m r : Nat), frameValid s b = true → s.time.reloadPending = false →
      s.time.marker = some (raw, m) → s.time.mode = .holdover → s.time.exitFrom = some r → r ≤ raw → beatPresent s.time = true →
      let o : Int := ((le b 2 6 * 65536 : Nat) : Int) - (m : Int)
      let kept := [Reg.BEAT_TC_LAST, Reg.BEAT_TC_LAST + 4, Reg.BEAT_OFFSET, Reg.BEAT_INT_STATUS]
      (o = 0 → s.topo.stage ≠ .timeWait →
        ∃ u, exec (.timecodeFrame b) s = .next (settle u) ∧ u = { s with time := u.time, regs := u.regs }
          ∧ u.time.mode = .locked ∧ u.time.cause = .none ∧ u.time.beat = s.time.beat ∧ u.time.ck = s.time.ck
          ∧ reg u Reg.BEAT_OFFSET = 0 ∧ regBit u Reg.BEAT_INT_STATUS 1 = true ∧ RegsKept s u kept)
      ∧ (o ≠ 0 → o.natAbs ≤ reg s Reg.BEAT_SLEW_MAX * 65536 → -(2 ^ 31) ≤ o → o < 2 ^ 31 →
        ∃ u, exec (.timecodeFrame b) s = .next (settle u) ∧ u = { s with time := u.time, regs := u.regs }
          ∧ u.time.mode = .slewing ∧ u.time.slewLeft = o * 1000000 ∧ u.time.beat = s.time.beat ∧ u.time.ck = s.time.ck
          ∧ (reg u Reg.BEAT_OFFSET : Int) = o % 2 ^ 32 ∧ RegsKept s u kept)
      ∧ (reg s Reg.BEAT_SLEW_MAX * 65536 < o.natAbs →
        ∃ u, exec (.timecodeFrame b) s = .next (settle u) ∧ u = { s with time := u.time, regs := u.regs, fresh := u.fresh }
          ∧ u.time.mode = .fault ∧ u.time.cause = .slewLimit ∧ u.time.synth = true ∧ u.time.beat = s.time.beat
          ∧ regBit u Reg.BEAT_INT_STATUS 2 = true ∧ RegsKept s u kept))

/-- With a count at or above 0xFF00_0000_0000 and WRAP_NEAR clear, WRAP_NEAR is set and its interrupt raised. With a count at or
above 0xFFFF_FFFF_0000 and another cause, FAULT with cause WRAP is entered and ADMIT_CTRL.OPEN is cleared by the operation of
ADMIT_OPEN; a module that was not yet in FAULT raises FAULT. With the count at 0xFFFF_FFFF_FFFF the count is held and stamps
read phase 0xFFFF. A RELOAD write in UNSET or FAULT with no request in flight sets RELOAD_PENDING and nothing else; in any
other state, or with a request in flight, it is ignored and raises RELOAD_REFUSED. While some of the offset is left,
SLEW_DONE changes nothing; once none is left, the state returns to LOCKED, its cause clears, and HOLDOVER_EXIT is raised. In
stage TIME_WAIT bring-up then goes on to READY (GoesStageByStage). The end of the offset that SLEW_DONE needs is the model's
reading (log 59). -/
def Obligations.WrapThresholdsReloadAndSlewing : Prop :=
  (∀ s : State, hasCount s = true → 0xFF0000000000 ≤ s.time.beat → s.time.wrapNear = false →
      ∃ u, exec .wrapNear s = .next (settle u) ∧ u = { s with time := { s.time with wrapNear := true }, regs := u.regs }
        ∧ regBit u Reg.BEAT_INT_STATUS 5 = true ∧ RegsKept s u [Reg.BEAT_INT_STATUS])
    ∧ (∀ s : State, hasCount s = true → 0xFFFFFFFF0000 ≤ s.time.beat → s.time.cause ≠ .wrap → s.time.mode ≠ .fault →
      ∃ v, exec .wrapFault s = .next (settle (admitCtrl v false))
        ∧ v = { s with time := v.time, regs := v.regs } ∧ v.time = { s.time with
            mode := .fault, cause := .wrap, synth := decide (s.time.mode = .holdover), slewLeft := 0, mismatch := none
            firstFrame := none }
        ∧ regBit v Reg.BEAT_INT_STATUS 2 = true ∧ RegsKept s v [Reg.BEAT_INT_STATUS])
    ∧ (∀ s : State, hasCount s = true → s.time.beat = 0xFFFFFFFFFFFF →
      ∃ u, exec .wrapHold s = .next (settle u) ∧ u = { s with time := { s.time with hold := true } }
        ∧ now u = 0xFFFFFFFFFFFFFFFF)
    ∧ (∀ s : State, hostReaches s Reg.BEAT_CTRL = true → (s.time.mode = .unset ∨ s.time.mode = .fault) → inFlight s = false →
      exec .reload s = .next (settle { s with time := { s.time with reloadPending := true } }))
    ∧ (∀ s : State, hostReaches s Reg.BEAT_CTRL = true → ((s.time.mode ≠ .unset ∧ s.time.mode ≠ .fault) ∨ inFlight s = true) →
      ∃ u, exec .reload s = .next (settle u) ∧ u = { s with regs := u.regs }
        ∧ regBit u Reg.BEAT_INT_STATUS 6 = true ∧ RegsKept s u [Reg.BEAT_INT_STATUS])
    ∧ (∀ s : State, s.time.mode = .slewing → s.time.slewLeft ≠ 0 → exec .slewDone s = .next (settle s))
    ∧ (∀ s : State, s.time.mode = .slewing → s.time.slewLeft = 0 → s.topo.stage ≠ .timeWait →
      ∃ u, exec .slewDone s = .next (settle u) ∧ u = { s with time := u.time, regs := u.regs }
        ∧ u.time = { s.time with mode := .locked, cause := .none, exitFrom := none, cleanMeasures := 0 }
        ∧ regBit u Reg.BEAT_INT_STATUS 1 = true ∧ RegsKept s u [Reg.BEAT_INT_STATUS])

/-- At a BEAT edge below the wrap thresholds, off a boundary that missed its marker, the engines that act at every ck have passed
over all 1,500 ck of the beat (passCk; the lookups of the tree that wait were settled before, settleTree), the beat count
rises by 1, the ck counter returns to 0, and the raw count rises by 1; the synthesiser's accumulator and what is left of a
slew are what the beat leaves of them (accAfter, slewAfter); the pod meters' buckets take their refill (refillAll, R360). A
held count stays, is marked held (nothing falls due any more) and the raw count rises, and neither buckets nor channel
credits are refilled. Otherwise channel credits rise by each section's share (creditAll, R157). That an edge first passes the
ck left in its beat, the accumulator off SYNTHESISED and the size of a slewing step are the model's reading (log 44, log 59);
the count of UNSET is its choice (log 58). -/
def Obligations.BeatEdgeCountsOneBeat : Prop :=
  ∀ s : State, slipTest s = false →
    let v := passCk (settleTree s) (1500 - s.time.ck)
    v.time = { s.time with ck := s.time.ck + (1500 - s.time.ck) }
      ∧ (s.time.hold = false → s.time.beat + 1 < 0xFF0000000000 →
        exec .beatEdge s = .next (settle (creditAll (refillAll { v with
          time := { v.time with
            rawBeats := s.time.rawBeats + 1, beat := s.time.beat + 1, ck := 0, acc := accAfter v, slewLeft := slewAfter v } }))))
      ∧ (s.time.hold = true →
        exec .beatEdge s = .next (settle { v with
          time := { v.time with rawBeats := s.time.rawBeats + 1, ck := 0, held := true, acc := accAfter v, slewLeft := slewAfter v } }))

/-- At ck 0 of a beat whose count is a multiple of N, MEASURE_BOUNDARY takes the boundary: BEAT's frequency, markers and holdover
count, share deficits, the governor, the Plinth's latch, the heartbeat count, the pair, the heartbeat, and the snapshot, in
that order. A second one at the same edge, and one off a boundary, changes nothing. With SNAP_EN the snapshot copies every
event counter and the boundary's BeatTime. With BEAT_FREQ measured at a deviation above 1,100 ppm a present BEAT is lost;
between 1,000 and 1,100 ppm RANGE_WARN is set and the lock stays (R21). The learned ratio's division is the model's reading
(log 59). -/
def Obligations.MeasureBoundaryIsTakenOnce : Prop :=
  (∀ (s : State) (hz cycles : Nat), atMeasure s = true → s.time.measureAt ≠ s.time.beat + 1 →
      exec (.measureBoundary hz cycles) s = .next (settle (evtSnapshot (dropOld (heartbeatSend (pairBoundary (heartbeatCount
        (plinthBoundary (governor (shareBoundary
          (beatBoundary { s with time := { s.time with measureAt := s.time.beat + 1 } } (hz % 2 ^ 32) cycles)))))))))))
    ∧ (∀ (s : State) (hz cycles : Nat), (atMeasure s = false ∨ s.time.measureAt = s.time.beat + 1) →
      exec (.measureBoundary hz cycles) s = .next (settle s))
    ∧ (∀ s : State, regBit s Reg.EVT_CTRL 2 = true → ∀ n,
      tget (fun _ => 0) (evtSnapshot s).evt.snap n = tget (fun _ => 0) s.evt.cnt n
        ∧ reg64 (evtSnapshot s) Reg.EVT_SNAP_TIME = stamp s.time.beat 0 % 2 ^ 64)
    ∧ (∀ (s : State) (hz : Nat), 0 < hz → hz < 2 ^ 32 →
      reg (beatMeasured s hz) Reg.BEAT_FREQ = hz
        ∧ ((beatMeasured s hz).time.overRange = decide (1100 < deviationPpm hz))
        ∧ ((beatMeasured s hz).time.rangeWarn = decide (1000 < deviationPpm hz ∧ deviationPpm hz ≤ 1100))
        ∧ (1100 < deviationPpm hz → beatPresent s.time = true → s.time.mode = .locked →
            (beatMeasured s hz).time.mode = .holdover)
        ∧ (deviationPpm hz ≤ 1100 → (beatMeasured s hz).time.mode = s.time.mode))

/-- After the update of a measure boundary every account's deficit lies between -ADMIT_DEF_CAP and +ADMIT_DEF_CAP; an account
that was not active in the measure has deficit 0; an active one has the clamp of its deficit plus its share of the measure's
engine time minus what it was charged. The charges restart from zero, and the weights written take effect. A_var of a measure
is H minus the margin; it lies between 0 and H, is the whole of H at 95 C or below and 0 at 105 C or above. The thermal state
is NORMAL below 95 C, MARGIN to 105 C, ZERO to 110 C and STOP from there; STOP and DRAINED are never left, and entering STOP
declares FAULT with cause THERMAL_STOP. -/
def Obligations.SharesAndAllowanceAtAMeasure : Prop :=
  (∀ s : State,
    let u := shareBoundary s
    let act := (activeNow s).foldl (fun l a => insertAsc a l) s.adm.active
    let c := sumNat (s.adm.charged.map (·.2))
    let w := sumNat (act.map (weightOfAccount s))
    u = { s with adm := { s.adm with deficit := u.adm.deficit, charged := [], active := activeNow s, weight := s.adm.weightNew } }
      ∧ (∀ a, -((reg64 s Reg.ADMIT_DEF_CAP : Nat) : Int) ≤ deficitOf u a ∧ deficitOf u a ≤ ((reg64 s Reg.ADMIT_DEF_CAP : Nat) : Int))
      ∧ (∀ a, act.contains a = false → deficitOf u a = 0)
      ∧ (∀ a, act.contains a = true →
          deficitOf u a = clampTo ((reg64 s Reg.ADMIT_DEF_CAP : Nat) : Int)
            (deficitOf s a + (((c * weightOfAccount s a / w : Nat) : Int) - ((tget (fun _ => 0) s.adm.charged a : Nat) : Int)))))
    ∧ (∀ s : State, (allowance s).energy.aVar = headroomOf s - marginOf s ∧ 0 ≤ (allowance s).energy.aVar
      ∧ (allowance s).energy.aVar ≤ headroomOf s
      ∧ (bits (reg s Reg.ENERGY_TMAX) 15 0 ≤ 1520 → (allowance s).energy.aVar = headroomOf s)
      ∧ (1680 ≤ bits (reg s Reg.ENERGY_TMAX) 15 0 → (allowance s).energy.aVar = 0))
    ∧ (∀ (t : Thermal) (x : Nat), t ≠ .stop → t ≠ .drained →
      (x < 1520 → thermalOf t x = .normal) ∧ (1520 ≤ x → x < 1680 → thermalOf t x = .margin)
        ∧ (1680 ≤ x → x < 1760 → thermalOf t x = .zero) ∧ (1760 ≤ x → thermalOf t x = .stop))
    ∧ (∀ x, thermalOf .stop x = .stop ∧ thermalOf .drained x = .drained)
    ∧ (∀ s : State, s.energy.thermal ≠ .stop → s.energy.thermal ≠ .drained → 1760 ≤ bits (reg s Reg.ENERGY_TMAX) 15 0 →
      thermalBoundary s
        = declareFault (setBits { s with energy := { s.energy with thermal := .stop } } Reg.ENERGY_INT_STATUS 4) 1)

/-- At a due boundary of a section, STEP_BOUNDARY applies the version switches and gate changes of the edge, ends the section's
step and begins the next at this beat; then requests whose last record has been written end. Off a boundary, or a second time
at one, it changes nothing. A section with a core that has not finished its step, and does not wait at a merge, counts
STEP_OVERRUN once and raises it, the items of PREFILL and DECODE cut short count in SERVE_CNT_PREEMPT, and the unfinished
items of its cores are lost to the step. That the switches and gate changes of the edge come before the end of the old step
is the model's choice (log 57): R52 and R62 place them before the start of the new one. -/
def Obligations.StepBoundaryEndsAndBegins : Prop :=
  (∀ (s : State) (i : SectionNo) (io : StepIn) (x : Section), sectionOf s i = some x → boundaryDue s x = true →
      exec (.stepBoundary i io) s = .next (settle (freeEnded
        (beginStep (endStep (gatesFirst s) x s.time.beat io) x s.time.beat io))))
    ∧ (∀ (s : State) (i : SectionNo) (io : StepIn), (∀ x, sectionOf s i = some x → boundaryDue s x = false) →
      exec (.stepBoundary i io) s = .next (settle (freeEnded s)))
    ∧ (∀ (s : State) (x : Section) (b : Nat), (stepOf (openStep s x.id b) x.id) = { at_ := b + 1, lost := [], work := [] })
    ∧ (∀ (s : State) (x : Section), lateCores s x ≠ [] → (∀ c ∈ lateCores s x, atMerge s c = false) →
      let u := overrun s x
      u = { s with regs := u.regs, evt := u.evt, steps := u.steps }
        ∧ reg u Reg.BOND_CNT_OVERRUN = min (reg s Reg.BOND_CNT_OVERRUN + 1) 0xFFFFFFFF
        ∧ regBit u Reg.BOND_INT_STATUS 7 = true
        ∧ reg u Reg.SERVE_CNT_PREEMPT = min (reg s Reg.SERVE_CNT_PREEMPT + (cutItems s x).length) 0xFFFFFFFF
        ∧ RegsKept s u [Reg.BOND_CNT_OVERRUN, Reg.BOND_INT_STATUS, Reg.SERVE_CNT_PREEMPT]
        ∧ (∀ c ∈ lateCores s x, ∀ i ∈ unfinished (core s c), i ∈ (stepOf u x.id).lost))

/-- The items the Caller takes are a prefix of the ordered candidates, at most ITEM_LIMIT of them, and their class costs, none of
which is negative, add up to no more than the step's allowance. If it stopped before the limit with candidates left, the next
one's cost exceeds what is left of the allowance. -/
def Obligations.WorkListRespectsItsLimits : Prop :=
  ∀ (cost : Nat → Int) (n : Nat) (allow : Int) (cand : List Nat), (∀ e, 0 ≤ cost e) → 0 ≤ allow →
    let l := takeItems cost n allow cand
    l = cand.take l.length ∧ l.length ≤ n ∧ (l.map cost).sum ≤ allow
      ∧ (∀ e, l.length < n → cand[l.length]? = some e → allow - (l.map cost).sum < cost e)

/-- At a due boundary of a section, STEP_BOUNDARY first applies every version switch that is due (dueSwitches, GATE_LIST versions
among them), then gives every pod port the gate-list entry and gates in force at this beat, and only then ends the old step
and starts the new one: the new step starts in a state whose gates are already the new ones (R52). That they also come before
the end of the old step, and the switches before the gates, is the model's choice (log 57). -/
def Obligations.GateChangesComeBeforeTheStep : Prop :=
  ∀ (s : State) (i : SectionNo) (io : StepIn) (x : Section), sectionOf s i = some x → boundaryDue s x = true →
    ∃ g, exec (.stepBoundary i io) s = .next (settle (freeEnded (beginStep (endStep g x s.time.beat io) x s.time.beat io)))
      ∧ g = { dueSwitches s with regs := g.regs, evt := g.evt, pod := g.pod }
      ∧ ∀ n, n < 4 → (portOf g n).gateEntry = (gatesAt (dueSwitches s) n s.time.beat).1
          ∧ (portOf g n).gates = (gatesAt (dueSwitches s) n s.time.beat).2

/-- When a core's place holds the word: a NOP only advances the place; a LOOP opens a loop over its body with its count and
strides and the body follows; STEP_END leaves the core idle at its place. Each enters the words issued in the step. Of these
only the core changes, and of it only what is named. PF_WAIT goes on once its entry of the step is done, DMA_WAIT once no
word with a tag of its mask is outstanding, ARRIVE_WAIT once the counter of its TAG has reached COUNT, which it then
subtracts. Until then each keeps its place. Going on only advances the core; memories and other cores stay. -/
def Obligations.SequencerControlWords : Prop :=
  (∀ (s : State) (c : CoreNo) (w : Nat), wordOf s c 0x00 = some w →
      ∃ u, exec (.opNop c) s = .next (settle u) ∧ u = { s with cores := u.cores } ∧ CoresKept s u c
        ∧ core u c = (core s c).advance)
    ∧ (∀ (s : State) (c : CoreNo) (w : Nat), wordOf s c 0x01 = some w →
      ∃ u, exec (.loop c) s = .next (settle u) ∧ u = { s with cores := u.cores } ∧ CoresKept s u c
        ∧ core u c = { core s c with
            loops := loopOf (core s c).pc w :: (core s c).loops
            pc := (core s c).pc + 1
            issued := insertAsc (core s c).pc (core s c).issued }
        ∧ (loopOf (core s c).pc w).count = bits w 107 88 ∧ (loopOf (core s c).pc w).body = bits w 119 108)
    ∧ (∀ (s : State) (c : CoreNo) (w : Nat), wordOf s c 0x02 = some w →
      ∃ u, exec (.stepEnd c) s = .next (settle u) ∧ u = { s with cores := u.cores } ∧ CoresKept s u c
        ∧ core u c = { core s c with idle := true, issued := insertAsc (core s c).pc (core s c).issued })
    ∧ (∀ (s : State) (c : CoreNo) (w : Nat), wordOf s c 0x53 = some w → (core s c).pfDone.contains (bits w 119 108) = true →
      exec (.pfWait c) s = .next (settle (setCore s c (core s c).advance)))
    ∧ (∀ (s : State) (c : CoreNo) (w : Nat), wordOf s c 0x53 = some w → (core s c).pfDone.contains (bits w 119 108) = false →
      ∃ u, exec (.pfWait c) s = .next (settle u) ∧ u = { s with regs := u.regs, evt := u.evt } ∧ RegsKept s u [])
    ∧ (∀ (s : State) (c : CoreNo) (w : Nat), wordOf s c 0x54 = some w →
      (∀ d ∈ (core s c).dma, ∀ t, d.tag = some t → bit (bits w 119 104) t = false) →
      exec (.dmaWait c) s = .next (settle (setCore s c (core s c).advance)))
    ∧ (∀ (s : State) (c : CoreNo) (w : Nat), wordOf s c 0x54 = some w →
      (∃ d ∈ (core s c).dma, ∃ t, d.tag = some t ∧ bit (bits w 119 104) t = true) →
      ∃ u, exec (.dmaWait c) s = .next (settle u) ∧ u = { s with regs := u.regs, evt := u.evt } ∧ RegsKept s u [])
    ∧ (∀ (s : State) (c : CoreNo) (w : Nat), wordOf s c 0x55 = some w →
      bits w 115 100 ≤ tget (fun _ => 0) (core s c).arrive (bits w 119 116) →
      ∃ u, exec (.arriveWait c) s = .next (settle u) ∧ u = { s with cores := u.cores } ∧ CoresKept s u c
        ∧ tget (fun _ => 0) (core u c).arrive (bits w 119 116)
          = tget (fun _ => 0) (core s c).arrive (bits w 119 116) - bits w 115 100
        ∧ (∀ t, t ≠ bits w 119 116 → tget (fun _ => 0) (core u c).arrive t = tget (fun _ => 0) (core s c).arrive t)
        ∧ (core u c).pc = (core s c).advance.pc)
    ∧ (∀ (s : State) (c : CoreNo) (w : Nat), wordOf s c 0x55 = some w →
      tget (fun _ => 0) (core s c).arrive (bits w 119 116) < bits w 115 100 →
      ∃ u, exec (.arriveWait c) s = .next (settle u) ∧ u = { s with regs := u.regs, evt := u.evt } ∧ RegsKept s u [])

/-- From the first word of the body of a loop that is the innermost and in its first iteration, a core that issues BODY words for
each of COUNT iterations (none of them a LOOP) comes to the word after the body, with the loop removed and the loops around
it unchanged, provided that word ends no body around it. After j whole iterations, j below COUNT, it stands at the first word
of the body again with the loop in iteration j. When a core's place holds a YIELD and the core has no further segment, the
word acts as a NOP. With a further segment, the core runs it next at word RESUME with no loop open, the rest of its segments
follow, no page is dirty any more, and other cores stay; its prefetch schedule begins again where the segment is of another
version set, and goes on where it is of the same. Items of the segment it leaves whose work is not done (preempted) count in
SERVE_CNT_PREEMPT, and of PREFILL or DECODE they produce nothing in the step unless a later segment of the core holds them. A
YIELD with no next segment passing to the next word is the model's reading (log 23); loops past their enclosing end are its
choice (log 61). -/
def Obligations.LoopsAndYieldsRun : Prop :=
  (∀ (k : Core) (l : Loop) (ls : List Loop), k.loops = l :: ls → k.pc = l.first → l.iter = 0 → 0 < l.body → 0 < l.count →
    (∀ m ∈ ls, l.first + l.body ≠ m.first + m.body) →
    (∀ j, j < l.count → (Nat.repeat Core.advance (j * l.body) k).pc = l.first
        ∧ (Nat.repeat Core.advance (j * l.body) k).loops = { l with iter := j } :: ls)
      ∧ (Nat.repeat Core.advance (l.count * l.body) k).pc = l.first + l.body
      ∧ (Nat.repeat Core.advance (l.count * l.body) k).loops = ls)
    ∧ (∀ (s : State) (c : CoreNo) (w : Nat), wordOf s c 0x03 = some w → (core s c).segments = [] →
      ∃ u, exec (.yield c) s = .next (settle u) ∧ u = { s with cores := u.cores } ∧ CoresKept s u c
        ∧ core u c = (core s c).advance)
    ∧ (∀ (s : State) (c : CoreNo) (w : Nat) (g : Segment) (gs : List Segment), wordOf s c 0x03 = some w →
        (core s c).segments = g :: gs →
      ∃ u, exec (.yield c) s = .next (settle u) ∧ CoresKept s u c
        ∧ (core u c).current = some g ∧ (core u c).segments = gs ∧ (core u c).pc = bits w 113 102 ∧ (core u c).loops = []
        ∧ (g.vset = (core s c).vset → (core u c).pfStarted = (core s c).pfStarted ∧ (core u c).pfDone = (core s c).pfDone)
        ∧ (g.vset ≠ (core s c).vset → (core u c).pfStarted = 0 ∧ (core u c).pfDone = [] ∧ (core u c).issued = [])
        ∧ (core u c).vset = g.vset ∧ (core u c).idle = (core s c).idle ∧ (core u c).dirty = []
        ∧ u.deliveries = s.deliveries ∧ u.sel = s.sel ∧ u.front = s.front ∧ u.serve = s.serve
        ∧ reg u Reg.SERVE_CNT_PREEMPT = min (reg s Reg.SERVE_CNT_PREEMPT + (preempted s c (core s c)).length) 0xFFFFFFFF
        ∧ (∀ i x, coreSection s c = some i → (sectionKind s i = 7 ∨ sectionKind s i = 8) → x ∈ preempted s c (core s c) →
            (∀ h ∈ g :: gs, x ∉ h.items) → x ∈ (stepOf u i).lost)
        ∧ u = { s with
            regs := u.regs, evt := u.evt, cores := u.cores, steps := u.steps, credits := u.credits, scratch := u.scratch
            lpddr := u.lpddr, poison := u.poison, twin := u.twin, topo := u.topo })

/-- When a core's place holds the word, nothing holds it back and its reads lie in the scratchpad: WLOAD takes its block, and
with GSTART its 16 scales, into the buffer WSEL names; PREPASS gives every set of its run pending anchors; MMA runs its strip
of products; each advances the core and stores nothing in a memory. An MMA with END leaves its set draining, last in the
drain queue under the EPI_BIND in force; one with START makes its set accumulate with the word's masks. ACCUM_DRAIN with no
ended set changes nothing; else it takes the first ended set through the chain that governs it and frees it, storing at most
in the core's scratchpad. The format of a buffer ruling its MMA, and START clearing the truncation flag, are the model's
choices (log 61). -/
def Obligations.MatrixWordsIssue : Prop :=
  (∀ (s : State) (c : CoreNo) (w : Nat), wordOf s c 0x11 = some w → readHold (core s c) (wloadReads (core s c) w) = none →
      inScratchpad (wloadReads (core s c) w) = true →
      ∃ u, exec (.wload c) s = .next (settle u) ∧ u = { s with cores := u.cores, regs := u.regs, evt := u.evt }
        ∧ RegsKept s u [] ∧ CoresKept s u c
        ∧ (getBuf (core u c) (bit w 108)).block = spRead s c (wAddr (core s c) w) (wblockBytes (wfmt w))
        ∧ (getBuf (core u c) (bit w 108)).loaded = true
        ∧ (getBuf (core u c) (bit w 108)).scales
          = (if bit w 64 then (spRead s c (sAddr (core s c) w) 16).map (·.toNat) else (core s c).lastScales)
        ∧ getBuf (core u c) (!bit w 108) = getBuf (core s c) (!bit w 108)
        ∧ (core u c).wacc = (core s c).wacc ∧ (core u c).sets = (core s c).sets ∧ (core u c).pc = (core s c).advance.pc)
    ∧ (∀ (s : State) (c : CoreNo) (w : Nat), wordOf s c 0x12 = some w → prepassHold (core s c) w = none →
      inScratchpad (prepassReads (core s c) w) = true →
      ∃ u, exec (.prepass c) s = .next (settle u) ∧ u = { s with cores := u.cores, regs := u.regs, evt := u.evt }
        ∧ RegsKept s u [] ∧ CoresKept s u c
        ∧ (∀ a ∈ prepassSets (core s c) w, (getSet (core u c) a).pendingReady = true)
        ∧ (∀ a, a < 16 → a ∉ prepassSets (core s c) w →
            getSet (core u c) a = getSet (core s c) a ∧ ∀ o, o < 64 → getWacc (core u c) (a * 64 + o) = getWacc (core s c) (a * 64 + o))
        ∧ (core u c).wbuf0 = (core s c).wbuf0 ∧ (core u c).wbuf1 = (core s c).wbuf1 ∧ (core u c).pc = (core s c).advance.pc)
    ∧ (∀ (s : State) (c : CoreNo) (w : Nat), wordOf s c 0x10 = some w → mmaHold (core s c) w = none →
      inScratchpad (mmaReads (core s c) w) = true →
      exec (.mma c) s = .next (settle (mmaEffect s c (core s c) w))
        ∧ CoresKept s (mmaEffect s c (core s c) w) c
        ∧ (mmaEffect s c (core s c) w).scratch = s.scratch ∧ (mmaEffect s c (core s c) w).lpddr = s.lpddr
        ∧ (core (mmaEffect s c (core s c) w) c).pc = (core s c).advance.pc
        ∧ (bit w 109 = true → endOn (core s c) = true →
            (getSet (core (mmaEffect s c (core s c) w) c) (accOf (core s c) w)).mode = .draining
              ∧ (core (mmaEffect s c (core s c) w) c).drainQ = (core s c).drainQ
                ++ [(accOf (core s c) w, (curEpi (core s c)).map fun e => (e.holder, e.ended))])
        ∧ (bit w 110 = true → startOn (core s c) = true → ¬(bit w 109 = true ∧ endOn (core s c) = true) →
            getSet (core (mmaEffect s c (core s c) w) c) (accOf (core s c) w)
              = { mode := .accumulating, rows := bits w 103 100, cols := bits w 99 84, pendingReady := false
                  pendBound := (getSet (core s c) (accOf (core s c) w)).pendBound
                  bound := (getSet (core s c) (accOf (core s c) w)).pendBound }))
    ∧ (∀ (s : State) (c : CoreNo), (core s c).drainQ = [] → exec (.accumDrain c) s = .next (settle s))
    ∧ (∀ (s : State) (c : CoreNo) (a : Nat) (g : Option (Nat × Nat)) (q : List (Nat × Option (Nat × Nat))),
      (core s c).drainQ = (a, g) :: q →
      ∃ u, exec (.accumDrain c) s = .next (settle u) ∧ CoresKept s u c ∧ u.lpddr = s.lpddr
        ∧ (core u c).drainQ = q ∧ (getSet (core u c) a).mode = .free ∧ (core u c).pc = (core s c).pc
        ∧ (∀ d x, d ≠ (c : Nat) → x < spSize → spByte u d x = spByte s d x))

/-- When a core's place holds the word, no range holds it back and what it reaches lies in the scratchpad: EPI_BIND attaches its
chain with a fresh count of ended and drained sets and enters its ranges, and an earlier EPI_BIND with sets still to drain
keeps its own; PROLOGUE, VPASS and RECMERGE run their chain or merge and hold their ranges from then on. Each advances the
core and changes no other core, no LPDDR byte and no scratchpad byte of another core. SMXMERGE stores for each of its rows
the 32-byte soft maximum record folded from the row's partial records in order, and nothing else. -/
def Obligations.ChainWordsIssue : Prop :=
  (∀ (s : State) (c : CoreNo) (w : Nat), wordOf s c 0x20 = some w → epiHold s c (core s c) w = none →
      inScratchpad (epiAccess s c w) = true →
      ∃ u, exec (.epiBind c) s = .next (settle u) ∧ u = { s with cores := u.cores } ∧ CoresKept s u c
        ∧ (∃ e, (core u c).epis = (closeEpi (core s c)).epis ++ [e] ∧ e.chain = bits w 119 110 ∧ e.ended = 0 ∧ e.drained = 0
            ∧ e.outAddr = 4 * bits w 78 62 ∧ ∀ r ∈ hulls (epiAccess s c w), { r with holder := e.holder } ∈ (core u c).board)
        ∧ (∀ e, curEpi (core s c) = some e → e.drained ≠ e.ended → ∀ r ∈ (core s c).board, r ∈ (core u c).board)
        ∧ (core u c).held = (core s c).held ∧ (core u c).pc = (core s c).advance.pc)
    ∧ (∀ (s : State) (c : CoreNo) (w : Nat), wordOf s c 0x21 = some w → rangeHold (core s c) (passAccess true s c w) = none →
      inScratchpad (passAccess true s c w) = true →
      ∃ u, exec (.prologue c) s = .next (settle u) ∧ u = prologueEffect s c (core s c) w ∧ CoresKept s u c ∧ u.lpddr = s.lpddr
        ∧ (core u c).board
          = (core s c).board ++ (hulls (passAccess true s c w)).map (fun r => { r with holder := (core s c).nextHolder })
        ∧ (core u c).pc = (core s c).advance.pc ∧ (∀ d x, d ≠ (c : Nat) → x < spSize → spByte u d x = spByte s d x))
    ∧ (∀ (s : State) (c : CoreNo) (w : Nat), wordOf s c 0x22 = some w → rangeHold (core s c) (passAccess false s c w) = none →
      inScratchpad (passAccess false s c w) = true →
      ∃ u, exec (.vpass c) s = .next (settle u) ∧ u = vpassEffect s c (core s c) w ∧ CoresKept s u c ∧ u.lpddr = s.lpddr
        ∧ (core u c).board
          = (core s c).board ++ (hulls (passAccess false s c w)).map (fun r => { r with holder := (core s c).nextHolder })
        ∧ (core u c).pc = (core s c).advance.pc ∧ (∀ d x, d ≠ (c : Nat) → x < spSize → spByte u d x = spByte s d x))
    ∧ (∀ (s : State) (c : CoreNo) (w : Nat), wordOf s c 0x23 = some w → rangeHold (core s c) (mergeAccess 64 w) = none →
      inScratchpad (mergeAccess 64 w) = true →
      ∃ u, exec (.recmerge c) s = .next (settle u) ∧ u = recMergeEffect s c (core s c) w ∧ CoresKept s u c ∧ u.lpddr = s.lpddr
        ∧ (core u c).board
          = (core s c).board ++ (hulls (mergeAccess 64 w)).map (fun r => { r with holder := (core s c).nextHolder })
        ∧ (core u c).pc = (core s c).advance.pc
        ∧ ScratchKept s u c (mergeFields w).2.2.2 (64 * (mergeFields w).1))
    ∧ (∀ (s : State) (c : CoreNo) (w : Nat), wordOf s c 0x30 = some w → rangeHold (core s c) (mergeAccess 32 w) = none →
    inScratchpad (mergeAccess 32 w) = true →
    let f := mergeFields w
    ∃ u, exec (.smxmerge c) s = .next (settle u) ∧ u = { s with scratch := u.scratch, cores := u.cores } ∧ CoresKept s u c
      ∧ (∀ r, r < f.1 → spRead u c (f.2.2.2 + 32 * r) 32
          = (smxMergeParts SmxRec.fresh ((List.range f.2.1).map fun p =>
              SmxRec.ofBytes (spRead s c (f.2.2.1 + 32 * (r * f.2.1 + p)) 32))).toBytes)
      ∧ ScratchKept s u c f.2.2.2 (32 * f.1)
      ∧ (core u c).pc = (core s c).advance.pc)

/-- When a core's place holds the word, no range holds it back, and it lies in the scratchpad and (GET, PUT) in its region: GET
fills its scratchpad range from its region (regionRead: memory, and in the key/value pool's region the tables kept there) and
sends copies to the other cores of its DSET; PUT writes its scratchpad range to its region; XFER sends its range to the named
core. Bytes that no controller serves, and those of a poisoned word, keep what stood at the destination; where every access
is served and no segment read holds a poisoned word, all bytes arrive, and nothing is learned of the controllers' epochs.
Every other byte of every memory stays. The word is outstanding under its tag, and the core advances. The bytes move when the
word issues, and unserved ones stay (the model's choices, log 21, log 50). -/
def Obligations.DmaWordsMoveTheirBytes : Prop :=
  (∀ (s : State) (c : CoreNo) (w : Nat), wordOf s c 0x50 = some w → rangeHold (core s c) (getReach (core s c) w) = none →
      inScratchpad (getReach (core s c) w) = true →
      let f := dmaFields w
      let o := f.at_ (core s c)
      let bs := servedBytes s ((c : Nat) / 64) f.region o (regionRead s f.region o f.len) (spRead s c f.sp f.len)
      inRegion s f.region o f.len = true →
      ∃ u, exec (.get c) s = .next (settle u)
        ∧ u = { s with
            scratch := u.scratch, cores := u.cores, deliveries := u.deliveries, credits := u.credits, steps := u.steps
            regs := u.regs, evt := u.evt, topo := u.topo }
        ∧ spRead u c f.sp f.len = bs ∧ ScratchKept s u c f.sp f.len ∧ CoresKept s u c
        ∧ (refusedAccesses s ((c : Nat) / 64) f.region o f.len = 0 → u.topo = s.topo
            ∧ (readsPoison s f.region o f.len = false → bs = regionRead s f.region o f.len))
        ∧ u.deliveries = s.deliveries
          ++ ((otherCores s c f.dset).map fun t =>
            { core := t, tag := some f.tag, addr := f.sp, data := bs, asker := (c : Nat) / 64
              askerEpoch := (unitSt s 0 ((c : Nat) / 64)).epoch, groupEpoch := (unitSt s 0 (t / 64)).epoch })
        ∧ (core u c).dma = (core s c).dma ++ [Dma.mk (core s c).nextHolder (some f.tag) none]
        ∧ (core u c).pc = (core s c).advance.pc)
    ∧ (∀ (s : State) (c : CoreNo) (w : Nat), wordOf s c 0x51 = some w → rangeHold (core s c) (putReach (core s c) w) = none →
      inScratchpad (putReach (core s c) w) = true →
      let f := dmaFields w
      let o := f.at_ (core s c)
      inRegion s f.region o f.len = true →
      ∃ u, exec (.put c) s = .next (settle u)
        ∧ u = { s with
            lpddr := u.lpddr, poison := u.poison, twin := u.twin, cores := u.cores, credits := u.credits, steps := u.steps
            regs := u.regs, evt := u.evt, topo := u.topo }
        ∧ ldRead u f.region o f.len
          = storedBytes s ((c : Nat) / 64) f.region o (spRead s c f.sp f.len) (ldRead s f.region o f.len)
        ∧ (refusedAccesses s ((c : Nat) / 64) f.region o f.len = 0 →
            u.topo = s.topo ∧ ldRead u f.region o f.len = spRead s c f.sp f.len)
        ∧ CoresKept s u c
        ∧ (∀ a, a < ldKey f.region o ∨ ldKey f.region o + f.len ≤ a → memByte u.lpddr a = memByte s.lpddr a)
        ∧ (core u c).dma = (core s c).dma ++ [Dma.mk (core s c).nextHolder (some f.tag) none]
        ∧ (core u c).pc = (core s c).advance.pc)
    ∧ (∀ (s : State) (c : CoreNo) (w : Nat) (i t : Nat), wordOf s c 0x52 = some w →
      rangeHold (core s c) (putReach (core s c) w) = none → inScratchpad (putReach (core s c) w) = true →
      coreSection s c = some i → (sectionCores s i)[(dmaFields w).region]? = some t →
      ∃ u, exec (.xfer c) s = .next (settle u) ∧ u = { s with cores := u.cores, deliveries := u.deliveries } ∧ CoresKept s u c
        ∧ u.deliveries = s.deliveries
          ++ [{ core := t, tag := some (dmaFields w).tag, addr := (dmaFields w).sp
                data := spRead s c (dmaFields w).sp (dmaFields w).len, asker := (c : Nat) / 64
                askerEpoch := (unitSt s 0 ((c : Nat) / 64)).epoch, groupEpoch := (unitSt s 0 (t / 64)).epoch }]
        ∧ (core u c).pc = (core s c).advance.pc)

/-- A completing word or entry leaves the core's outstanding list, its ranges are released, and a prefetch entry counts as done.
The first delivery under way into a core, where no slice it touches is clearing, is written at its address and counted under
its tag, and nothing else is stored; one from or to an earlier incarnation of a core group is discarded and counted in
TOPO_CNT_STALE (R444). The next prefetch entry, its trigger issued, fewer than 8 in flight, not held back, in the scratchpad
and its region, fills its destination from its source, as a GET does, when it issues (the model's choice, log 21), and is
outstanding. A slice that was clearing is on from then on; what waited for it alone waits no longer; where nothing waited, it
reads zero and no other byte changes. -/
def Obligations.CompletionsDeliveriesAndSlices : Prop :=
  (∀ (s : State) (c : CoreNo) (n : Nat) (d : Dma), (core s c).dma[n]? = some d →
      ∃ u, exec (.dmaCompletion c n) s = .next (settle u) ∧ u = { s with cores := u.cores } ∧ CoresKept s u c
        ∧ (core u c).dma = (core s c).dma.eraseIdx n
        ∧ (core u c).board = (core s c).board.filter (fun r => decide (r.holder ≠ d.holder))
        ∧ (∀ e, d.entry = some e → e ∈ (core u c).pfDone) ∧ (core u c).pc = (core s c).pc)
    ∧ (∀ (s : State) (c : CoreNo) (d : Delivery) (t : Nat), s.deliveries.find? (fun x => decide (x.core = (c : Nat))) = some d →
      d.stale s = false → d.tag = some t → tget (fun _ => 0) (core s c).arrive t < 65535 → d.addr + d.data.length ≤ spSize →
      sliceClearing (core s c) [⟨d.addr, d.data.length, true⟩] = false →
      ∃ u, exec (.deliveryArrival c) s = .next (settle u)
        ∧ u = { s with deliveries := s.deliveries.erase d, scratch := u.scratch, cores := u.cores } ∧ CoresKept s u c
        ∧ spRead u c d.addr d.data.length = d.data ∧ ScratchKept s u c d.addr d.data.length
        ∧ tget (fun _ => 0) (core u c).arrive t = tget (fun _ => 0) (core s c).arrive t + 1)
    ∧ (∀ (s : State) (c : CoreNo) (d : Delivery), s.deliveries.find? (fun x => decide (x.core = (c : Nat))) = some d → d.stale s = true →
      ∃ u, exec (.deliveryArrival c) s = .next (settle u)
        ∧ u = { s with deliveries := s.deliveries.erase d, regs := u.regs, evt := u.evt }
        ∧ reg u Reg.TOPO_CNT_STALE = min (reg s Reg.TOPO_CNT_STALE + 1) 0xFFFFFFFF ∧ RegsKept s u [Reg.TOPO_CNT_STALE])
    ∧ (∀ (s : State) (c : CoreNo) (e : PfEntry), (pfEntries s c)[(core s c).pfStarted]? = some e → triggered (core s c) e = true →
      ((core s c).dma.filter fun d => d.entry.isSome).length < 8 →
      rangeHold (core s c) [⟨pfDest s e, e.len, true⟩] = none → inScratchpad [⟨pfDest s e, e.len, true⟩] = true →
      inRegion s e.region (pfSource s c e) e.len = true →
      let bs := servedBytes s ((c : Nat) / 64) e.region (pfSource s c e) (regionRead s e.region (pfSource s c e) e.len)
        (spRead s c (pfDest s e) e.len)
      ∃ u, exec (.prefetchEntry c) s = .next (settle u)
        ∧ u = { s with
            scratch := u.scratch, cores := u.cores, deliveries := u.deliveries, credits := u.credits, steps := u.steps
            regs := u.regs, evt := u.evt, topo := u.topo }
        ∧ spRead u c (pfDest s e) e.len = bs
        ∧ (refusedAccesses s ((c : Nat) / 64) e.region (pfSource s c e) e.len = 0 → u.topo = s.topo
            ∧ (readsPoison s e.region (pfSource s c e) e.len = false → bs = regionRead s e.region (pfSource s c e) e.len))
        ∧ ScratchKept s u c (pfDest s e) e.len ∧ CoresKept s u c
        ∧ (core u c).pfStarted = (core s c).pfStarted + 1
        ∧ (core u c).dma
          = (core s c).dma ++ [Dma.mk (core s c).nextHolder none (some (core s c).pfStarted)])
    ∧ (∀ (s : State) (c : CoreNo) (i : SliceNo), tget (fun _ => SliceSt.off) (core s c).slices i = .clearing →
      ∃ u, exec (.sliceClearDone c i) s = .next (settle u) ∧ u = { s with scratch := u.scratch, cores := u.cores } ∧ CoresKept s u c
        ∧ tget (fun _ => SliceSt.off) (core u c).slices i = .on
        ∧ (core u c).fills = (core s c).fills.filter (fun p => sliceClearing (core u c) [⟨p.1, p.2.length, true⟩])
        ∧ ((core s c).fills = [] →
            (∀ x, 65536 * i ≤ x → x < 65536 * (i + 1) → spByte u c x = 0) ∧ ScratchKept s u c (65536 * i) 65536))

/-- The entries that a merge of runs gives are entries of the runs, at most K of them, in the order of R190 (a later one never
comes before an earlier one), and no two have one global ID. The header's ties and duplicates are at most 0xFFFF and
0xFFFF_FFFF. If fewer than K entries came out, every entry of the runs has the global ID of one of them. -/
def Obligations.MergedRunsAreOrderedAndDistinct : Prop :=
  ∀ (k : Nat) (runs : List Run),
    let m := (mergeRuns k runs).1
    m.entries.length ≤ k
      ∧ (∀ e ∈ m.entries, ∃ r ∈ runs, e ∈ r.entries)
      ∧ m.entries.Pairwise (fun a b => b.before a = false)
      ∧ (m.entries.map SelEntry.gid).Nodup
      ∧ m.tailTies ≤ 0xFFFF ∧ m.dup ≤ 0xFFFFFFFF
      ∧ (m.entries.length < k → ∀ r ∈ runs, ∀ e ∈ r.entries, ∃ o ∈ m.entries, o.gid = e.gid)

/-- When a core's place holds a SEL_TOPK that nothing holds back and that lies in the scratchpad, it completes: it makes the run
of its items and stores its bytes at its destination (DEST 0), or sends the run to its unit or the unit above. A SEL_MERGE
whose slots all hold runs completes likewise: it makes the merged run of K entries, empties its slots and stores the run, or
the record of it with RECORD set, or sends it. Without DEST 0 no scratchpad byte changes; with it only the destination's. No
LPDDR byte and no other core changes, and the core advances. A core whose place holds another word, and a word that must
wait, answer a next state too. -/
def Obligations.SelectionWordsIssue : Prop :=
  (∀ (s : State) (c : CoreNo) (w : Nat), wordOf s c 0x60 = some w → rangeHold (core s c) (topkReach (core s c) w) = none →
      inScratchpad (topkReach (core s c) w) = true →
      let it := topkItems s c w
      let r := (topk (bit w 117) (bits w 116 104 + 1) it.1 it.2).1
      let x := 4 * bits w 40 24
      ∃ u, exec (.selTopk c) s = .next (settle u)
        ∧ u = { s with
            scratch := u.scratch, cores := u.cores, sel := u.sel, regs := u.regs, evt := u.evt, err := u.err }
        ∧ CoresKept s u c ∧ (core u c).pc = (core s c).advance.pc
        ∧ (bits w 48 47 = 0 → u.sel = s.sel ∧ spRead u c x r.toBytes.length = r.toBytes ∧ ScratchKept s u c x r.toBytes.length)
        ∧ (bits w 48 47 = 1 → u.scratch = s.scratch ∧ u.sel.slots = s.sel.slots
            ∧ u.sel.flight = s.sel.flight ++ [⟨c, bits w 46 41, false, r, s.time.beat, learned s ((c : Nat) / 64) 1 ((c : Nat) / 64)⟩])
        ∧ (2 ≤ bits w 48 47 → u.scratch = s.scratch ∧ u.sel.slots = s.sel.slots
            ∧ u.sel.flight = s.sel.flight ++ [⟨c, bits w 46 41, true, r, s.time.beat, 0⟩]))
    ∧ (∀ (s : State) (c : CoreNo) (w : Nat), wordOf s c 0x61 = some w → selMergeReady s c w = true →
      rangeHold (core s c) (mergeReach (core s c) w) = none → inScratchpad (mergeReach (core s c) w) = true →
      let n := bits w 119 114 + 1
      let p := mergeRuns (bits w 109 97 + 1) ((List.range n).filterMap fun i => slotRun s (c / 64) i)
      let m := p.1
      let x := 4 * bits w 88 72
      let b := if bit w 67 then mergeRecord s (core s c) w p false else m.toBytes
      ∃ u, exec (.selMerge c) s = .next (settle u)
        ∧ u = { s with scratch := u.scratch, cores := u.cores, sel := u.sel, regs := u.regs, evt := u.evt }
        ∧ CoresKept s u c ∧ (core u c).pc = (core s c).advance.pc
        ∧ (∀ i, i < n → slotRun u (c / 64) i = none)
        ∧ (bits w 96 95 ≠ 0 → u.scratch = s.scratch)
        ∧ (bits w 96 95 = 1 → u.sel.flight = s.sel.flight ++ [⟨c, bits w 94 89, false, m, s.time.beat, learned s ((c : Nat) / 64) 1 ((c : Nat) / 64)⟩])
        ∧ (2 ≤ bits w 96 95 → u.sel.flight = s.sel.flight ++ [⟨c, bits w 94 89, true, m, s.time.beat, 0⟩])
        ∧ (bits w 96 95 = 0 → u.sel.flight = s.sel.flight ∧ spRead u c x b.length = b ∧ ScratchKept s u c x b.length))
    ∧ (∀ (s : State) (c : CoreNo), wordOf s c 0x60 = none → exec (.selTopk c) s = .next (settle s))
    ∧ (∀ (s : State) (c : CoreNo), wordOf s c 0x61 = none → exec (.selMerge c) s = .next (settle s))
    ∧ (∀ (s : State) (c : CoreNo) (w : Nat) (h : Hold), wordOf s c 0x60 = some w → rangeHold (core s c) (topkReach (core s c) w) = some h →
      exec (.selTopk c) s = .next (settle (held s c 0x60 h)))
    ∧ (∀ (s : State) (c : CoreNo) (w : Nat), wordOf s c 0x61 = some w → selMergeReady s c w = false →
      exec (.selMerge c) s = .next (settle (held s c 0x61 .other)))

/-- A SEL_TOPK with DEST 1, and a SEL_MERGE with DEST 2 whose slots hold its runs, complete where no range holds them back: the
run is on its way to a slot of the unit, or of the unit above. The first run on its way to an available unit enters its slot
when that is empty; at an occupied slot the run is dropped, SEL_SLOT_BUSY is logged and raised, and the slot keeps its run; a
run issued before the unit's last step boundary is discarded. A unit that is not available, or whose epoch the run does not
carry, answers UNIT_UNAVAILABLE, which counts, and the group learns its epoch (R444); a run to a unit above is judged by what
the group knows at arrival (the model's reading, log 70). Between steps, a verified version of a function that the core's
chains use, and that the core does not hold, enters one of the core's four slots that is free, with its coefficients; reads
that are not served leave the slots as they were (R447). What a function slot holds is the model's choice (log 64). -/
def Obligations.RunsAreDeliveredToSlots : Prop :=
  (∀ (s : State) (c : CoreNo) (w : Nat), wordOf s c 0x60 = some w → rangeHold (core s c) (topkReach (core s c) w) = none →
      inScratchpad (topkReach (core s c) w) = true → bits w 48 47 = 1 →
      ∃ u r, exec (.selTopk c) s = .next (settle u)
        ∧ u.sel.flight = s.sel.flight ++ [⟨c, bits w 46 41, false, r, s.time.beat, learned s ((c : Nat) / 64) 1 ((c : Nat) / 64)⟩] ∧ r.entries.length ≤ bits w 116 104 + 1)
    ∧ (∀ (s : State) (c : CoreNo) (w : Nat), wordOf s c 0x61 = some w → selMergeReady s c w = true →
      rangeHold (core s c) (mergeReach (core s c) w) = none → bits w 96 95 = 2 →
      ∃ u r, exec (.selMerge c) s = .next (settle u)
        ∧ u.sel.flight = s.sel.flight ++ [⟨c, bits w 94 89, true, r, s.time.beat, 0⟩] ∧ r.entries.length ≤ bits w 109 97 + 1)
    ∧ (∀ (s : State) (u : UnitNo) (parent : Bool) (f : RunFlight),
      s.sel.flight.find? (fun f => decide (f.parent = parent) && (parent || decide (f.core / 64 = (u : Nat)))) = some f →
      let sent := if parent then learned s (f.core / 64) 1 u else f.target
      ((unitSt s 1 u).mode = .available → sent = (unitSt s 1 u).epoch → staleRun s u f = false → slotRun s u f.slot = none →
        ∃ t, exec (.runDelivery u parent) s = .next (settle t) ∧ t = { s with sel := t.sel }
          ∧ t.sel.flight = s.sel.flight.erase f ∧ slotRun t u f.slot = some f.run
          ∧ ∀ v i, (v ≠ (u : Nat) ∨ i ≠ f.slot) → i < 64 → f.slot < 64 → slotRun t v i = slotRun s v i)
      ∧ (∀ r, (unitSt s 1 u).mode = .available → sent = (unitSt s 1 u).epoch → staleRun s u f = false → slotRun s u f.slot = some r →
        ∃ t, exec (.runDelivery u parent) s = .next (settle t)
          ∧ t = { s with sel := { s.sel with flight := s.sel.flight.erase f }, regs := t.regs, evt := t.evt, err := t.err }
          ∧ slotRun t u f.slot = some r ∧ regBit t Reg.SEL_INT_STATUS 3 = true)
      ∧ ((unitSt s 1 u).mode = .available → sent = (unitSt s 1 u).epoch → staleRun s u f = true →
        exec (.runDelivery u parent) s = .next (settle { s with sel := { s.sel with flight := s.sel.flight.erase f } }))
      ∧ (((unitSt s 1 u).mode ≠ .available ∨ sent ≠ (unitSt s 1 u).epoch) →
        ∃ t, exec (.runDelivery u parent) s = .next (settle t)
          ∧ t = { s with sel := { s.sel with flight := s.sel.flight.erase f }, regs := t.regs, evt := t.evt, topo := t.topo }
          ∧ learned t (f.core / 64) 1 u = (unitSt s 1 u).epoch
          ∧ reg t Reg.TOPO_CNT_UNAVAIL = min (reg s Reg.TOPO_CNT_UNAVAIL + 1) 0xFFFFFFFF ∧ RegsKept s t [Reg.TOPO_CNT_UNAVAIL]))
    ∧ (∀ (s : State) (c : CoreNo) (a : AssetNo) (ver : Code32), (core s c).idle = true → kindOf s a = some 6 →
      (funcCores s a).contains (c : Nat) = true → (verifiedVers s a).contains (ver : Nat) = true →
      ((funcSlotsOf s a c).all fun p => decide (p.ver ≠ (ver : Nat))) = true → (funcSlotsOf s a c).length < 4 →
      (fillServed s c a ver = true → ∃ t i, exec (.sfuncSlotFill c a ver) s = .next (settle t)
        ∧ t = { s with
            assets := { s.assets with funcSlots := t.assets.funcSlots }, credits := t.credits, regs := t.regs, evt := t.evt }
        ∧ i < 4 ∧ (⟨ver, i, funcTable s a ver⟩ : FuncSlot) ∈ funcSlotsOf t a c)
      ∧ (fillServed s c a ver = false → ∃ t, exec (.sfuncSlotFill c a ver) s = .next (settle t)
        ∧ t = { s with credits := t.credits, regs := t.regs, evt := t.evt, steps := t.steps, topo := t.topo }))

/-- A unit of the present round of a resident request that is not done is scanned on its core of the team: it is done from then
on, its passing entries count in the matches, the core's candidate list takes them and other requests stay; of a core only
its contexts' lines change. A unit whose segment is not served, or holds a poisoned word, leaves the list and the matches and
marks the request short. The contexts take units in turn (the model's choice, log 20). A candidate list never grows beyond
its capacity and holds each ID once. A merge that is due merges the request's own run with the runs that came, in the order
of shards' arrival, and the request has its first-stage result. -/
def Obligations.ScansFillBoundedCandidateLists : Prop :=
  (∀ (s : State) (k : ReqKey) (r : Req) (x : Index) (j : Nat) (p : Nat × Nat), reqOf s k = some r → pinnedIndex s r.vset = some x →
      (roundUnits s x (roundLists r))[j]? = some p → r.team ≠ [] → r.unitsDone.contains j = false → r.resident = true →
      let c := r.team.getD (j % r.team.length) 0
      let page := (listEntry s x (r.probe.getD p.1 (0, 0)).1).1 + p.2
      ∃ u r1, exec (.scanUnit k j) s = .next (settle u) ∧ reqOf u k = some r1 ∧ j ∈ r1.unitsDone
        ∧ (notServed s c x.store (2048 * page) 2048 = false → r1.short = r.short
            ∧ r1.matched = min (r.matched + (unitOut s x r p).passed.length) 0xFFFFFFFF
            ∧ tget (fun _ => []) r1.cands c = (takeUnit x.candMax (tget (fun _ => []) r.cands c) (unitOut s x r p).passed).1)
        ∧ (notServed s c x.store (2048 * page) 2048 = true → r1.short = true
            ∧ r1.matched = min r.matched 0xFFFFFFFF ∧ tget (fun _ => []) r1.cands c = tget (fun _ => []) r.cands c)
        ∧ (∀ d, d ≠ c → tget (fun _ => []) r1.cands d = tget (fun _ => []) r.cands d)
        ∧ (∀ k', k' ≠ (k : Nat) → reqOf u k' = reqOf s k')
        ∧ CoresKept s u c ∧ core u c = { core s c with lines := (core u c).lines }
        ∧ u = { s with
            front := u.front, regs := u.regs, evt := u.evt, credits := u.credits, steps := u.steps, cores := u.cores, topo := u.topo })
    ∧ (∀ (cap : Nat) (l es : List SelEntry), l.length ≤ cap → (l.map (·.id)).Nodup →
      (takeUnit cap l es).1.length ≤ cap ∧ ((takeUnit cap l es).1.map (·.id)).Nodup)
    ∧ (∀ (s : State) (k : ReqKey) (r : Req), reqOf s k = some r → mergeDue s r = true →
      ∃ u r1 res, exec (.podMergeStart k) s = .next (settle u) ∧ reqOf u k = some r1 ∧ r1 = { r with first := some res, resident := false } ∧ mergeDue u r1 = false
        ∧ res.entries = (mergeRuns r.search.k (levelThree r :: r.remote.map (·.run))).1.entries
        ∧ res.shards = 1 + r.remote.length
        ∧ (∀ k', k' ≠ (k : Nat) → reqOf u k' = reqOf s k')
        ∧ u = { s with front := u.front, regs := u.regs, evt := u.evt })

/-- When a core's place holds a TGATHER that no range holds back and that lies in the scratchpad, every bag is gathered, no LPDDR
byte changes, and no scratchpad byte of another core. When it holds a TFETCH whose output lies in its region, one row a
candidate is written there: no LPDDR byte outside the word's output changes, and no scratchpad byte. Each advances its core
and changes no other. -/
def Obligations.GatherAndFetchWordsIssue : Prop :=
  (∀ (s : State) (c : CoreNo) (w : Nat), wordOf s c 0x4F = some w → rangeHold (core s c) (gatherReach s c w) = none →
      inScratchpad (gatherReach s c w) = true →
      ∃ u, exec (.tgather c) s = .next (settle u) ∧ u = gatherEffect s c (core s c) w ∧ u.lpddr = s.lpddr ∧ CoresKept s u c
        ∧ (core u c).pc = (core s c).advance.pc ∧ (∀ d x, d ≠ (c : Nat) → x < spSize → spByte u d x = spByte s d x))
    ∧ (∀ (s : State) (c : CoreNo) (w : Nat), wordOf s c 0x4E = some w → rangeHold (core s c) (fetchReach s c w) = none →
      inScratchpad (fetchReach s c w) = true →
      let o := fetchAt (core s c) w
      let n := outBytes (spRead s c (4 * bits w 111 95) 32) (bits w 119 114 + 1)
      inRegion s (bits w 77 62) o n = true →
      ∃ u, exec (.tfetch c) s = .next (settle u) ∧ u = fetchEffect s c w ∧ u.scratch = s.scratch ∧ CoresKept s u c
        ∧ (core u c).pc = (core s c).advance.pc
        ∧ ∀ a, (a < ldKey (bits w 77 62) o ∨ ldKey (bits w 77 62) o + n ≤ a) → memByte u.lpddr a = memByte s.lpddr a)

/-- The value of the MXINT8 code 0x80 is exactly −2. Every conversion of one value to MXINT8, under every rounding mode and
descriptor, gives a code from 0x00 to 0x7F or from 0x81 to 0xFF; a value at or beyond 2 in magnitude, infinities included,
gives 0x7F when positive and 0x81 when negative. No element code of a converted MXINT8 block is 0x80. -/
def Obligations.MxInt8CodesNeverReach0x80 : Prop :=
  (∃ n d, Fmt.int8.decode 0x80 = .fin true n d ∧ 0 < d ∧ n = 2 * d)
    ∧ (∀ (inf : Bool) (mode : RMode) (v : Val),
      let c := (Fmt.int8.encode inf mode v).1
      (c ≤ 0x7F ∨ (0x81 ≤ c ∧ c ≤ 0xFF))
        ∧ (∀ neg, v = .inf neg → c = if neg then 0x81 else 0x7F)
        ∧ (∀ neg n d, v = .fin neg n d → 0 < d → 2 * d ≤ n → c = if neg then 0x81 else 0x7F))
    ∧ (∀ (inf : Bool) (n : Nat) (vs : List (Val × RMode)), ∀ c ∈ (encodeBlock .int8 inf n vs).2.1, c ≠ 0x80)

/-- In stage READY, LOAD in EMPTY or REJECTED, from the window or from a sealed attested twin, starts CHECKING with the
container's bytes; in another state, and before READY or in HALTED (R431, R433; the model's reading, log 70), it raises
LOAD_REFUSED and does nothing. The completion of a CHECKING load whose container breaks a check leaves REJECTED without an
image, the first broken check's reason in BOND_REASON, LOAD_FAILED raised. One whose container breaks none leaves LOADED with
the container's image in force, its identifier and version published, LOADED raised, and memory of the LPDDR and the staging
window untouched. ABORT leaves CHECKING for EMPTY with reason 0x16, and outside CHECKING does nothing. BOND_SEAL_TIME reading
0 from a load on is the model's choice (log 60). That a load takes the container's bytes at its write is the model's choice
(log 35). -/
def Obligations.LoadingAnImage : Prop :=
  (∀ s : State, hostReaches s Reg.BOND_CTRL = true → s.topo.stage = .ready → (s.bond.mode = .empty ∨ s.bond.mode = .rejected) →
      (regBit s Reg.BOND_SRC 0 = true → s.twin.mode = .attested ∧ twinSealed s = true) →
      exec .bondLoad s = .next (settle { s with
        bond := { mode := .checking
                  fromTwin := regBit s Reg.BOND_SRC 0
                  bytes := if regBit s Reg.BOND_SRC 0 = true ∨ bar4Size < reg64 s Reg.BOND_SRC_OFFSET + reg64 s Reg.BOND_SRC_LEN then []
                    else stagingRead s (reg64 s Reg.BOND_SRC_OFFSET) (reg64 s Reg.BOND_SRC_LEN)
                  image := none } }))
    ∧ (∀ s : State, hostReaches s Reg.BOND_CTRL = true →
      (s.topo.stage ≠ .ready ∨ (s.bond.mode ≠ .empty ∧ s.bond.mode ≠ .rejected)) →
      ∃ u, exec .bondLoad s = .next (settle u) ∧ u = { s with regs := u.regs } ∧ RegsKept s u [Reg.BOND_INT_STATUS]
        ∧ regBit u Reg.BOND_INT_STATUS 2 = true)
    ∧ (∀ (s : State) (tb : List Byte), (s.bond.mode ≠ .checking ∨ s.topo.stage ≠ .ready) → exec (.bondLoadComplete tb) s = .next (settle s))
    ∧ (∀ (s : State) (tb : List Byte), s.bond.mode = .checking → s.topo.stage = .ready →
      let b := if s.bond.fromTwin then tb else s.bond.bytes
      exec (.bondLoadComplete tb) s = .next (settle (match loadBad b (siteOf s (le b 24 8)) with
        | some x => loadReject s x
        | none => loadAccept s b)))
    ∧ (∀ (s : State) (x : Bad),
      let u := loadReject s x
      u = { s with regs := u.regs, bond := u.bond } ∧ u.bond.mode = .rejected ∧ u.bond.image = none
        ∧ RegsKept s u [Reg.BOND_REASON, Reg.BOND_INT_STATUS]
        ∧ reg u Reg.BOND_REASON = (x.2.2 * 65536 + x.2.1 * 256 + x.1) % 2 ^ 32 ∧ regBit u Reg.BOND_INT_STATUS 1 = true)
    ∧ (∀ (s : State) (b : List Byte),
      let im : Image := { imageIn b with digest := digest64 b }
      let u := loadAccept s b
      u.bond = { mode := .loaded, fromTwin := s.bond.fromTwin, bytes := [], image := some im }
        ∧ reg64 u Reg.BOND_IMAGE_ID = im.imageId % 2 ^ 64 ∧ reg u Reg.BOND_IMAGE_VER = im.imageVer % 2 ^ 32
        ∧ reg64 u Reg.BOND_SEAL_TIME = 0 ∧ regBit u Reg.BOND_INT_STATUS 0 = true
        ∧ u.lpddr = s.lpddr ∧ u.staging = s.staging ∧ u.twin = s.twin ∧ u.sec = s.sec ∧ u.host = s.host ∧ u.pod = s.pod
        ∧ u.time = s.time ∧ u.evt = s.evt)
    ∧ (∀ s : State, hostReaches s Reg.BOND_CTRL = true →
      ∃ u, exec .bondAbort s = .next (settle u)
        ∧ (s.bond.mode ≠ .checking → u = s)
        ∧ (s.bond.mode = .checking → u = { s with regs := u.regs, bond := BondSt.reset } ∧ reg u Reg.BOND_REASON = 0x16
            ∧ RegsKept s u [Reg.BOND_REASON]))

/-- SEAL outside LOADED raises SEAL_REFUSED and changes nothing else. In LOADED, the first asset, in table order, whose initial
version is missing or unverified (0x20) or differs from its digest (0x21) refuses the seal: BOND_REASON takes the asset's
position and the code, the image stays LOADED. With every asset good on a module without a twin whose image asks for none,
the image is SEALED at this edge, BOND_SEAL_TIME takes the BeatTime, SEALED is raised, the floor power takes its initial
value F0, every class its initial cost, and no LPDDR byte changes. UNLOAD outside SEALED, with ADMIT_CTRL.OPEN set, or with a
request in flight raises LOAD_REFUSED and changes nothing else. Else the image is gone and the state EMPTY; every core of
every enabled group stands at its reset; every asset, switch, build, step, request and sequence is gone; the epoch of every
unit of every class rises by one modulo 65,536, unless it has at this edge already (R443); the identifier, the version, L and
the seal time read 0; LPDDR and staging keep their bytes. BOND_SEAL_TIME reading 0 after UNLOAD, SEAL_READY with a LOADED
twin, and what commands in progress report are the model's choices (log 60). -/
def Obligations.SealingAndUnloadingAnImage : Prop :=
  (∀ s : State, hostReaches s Reg.BOND_CTRL = true → s.bond.mode ≠ .loaded →
      ∃ u, exec .bondSeal s = .next (settle u) ∧ u = { s with regs := u.regs } ∧ RegsKept s u [Reg.BOND_INT_STATUS]
        ∧ regBit u Reg.BOND_INT_STATUS 4 = true)
    ∧ (∀ (s : State) (im : Image) (p : Nat × Nat), hostReaches s Reg.BOND_CTRL = true → s.bond.mode = .loaded →
      s.bond.image = some im → sealAssets s im = some p →
      ∃ u, exec .bondSeal s = .next (settle u) ∧ u = { s with regs := u.regs }
        ∧ RegsKept s u [Reg.BOND_REASON, Reg.BOND_INT_STATUS] ∧ (p.1 = 0x20 ∨ p.1 = 0x21)
        ∧ reg u Reg.BOND_REASON = (p.2 * 65536 + p.1) % 2 ^ 32 ∧ regBit u Reg.BOND_INT_STATUS 4 = true)
    ∧ (∀ (s : State) (im : Image), hostReaches s Reg.BOND_CTRL = true → s.bond.mode = .loaded → s.bond.image = some im →
      sealAssets s im = none → s.twin.mode = .absent → regBit s Reg.TWIN_CTRL 2 = false → im.reqTwin = false →
      ∃ u, exec .bondSeal s = .next (settle u)
        ∧ u = { s with
            regs := u.regs, bond := u.bond, assets := u.assets, scratch := u.scratch, cores := u.cores, adm := u.adm, energy := u.energy
            twin := u.twin, pod := u.pod, credits := u.credits, steps := u.steps, evt := u.evt, topo := u.topo }
        ∧ u.topo = { s.topo with known := u.topo.known }
        ∧ u.bond = { s.bond with mode := .sealed } ∧ reg64 u Reg.BOND_SEAL_TIME = now s % 2 ^ 64
        ∧ regBit u Reg.BOND_INT_STATUS 3 = true ∧ u.energy.fBar = signed 64 im.f0
        ∧ (∀ i c, im.classes[i]? = some c → tget (fun _ => 0) u.energy.cost i = (c.e0 : Int))
        ∧ (∀ a, (assetSt u a).current = (assetSt s a).current
            ∧ (assetSt u a).versions.map (·.ver) = (assetSt s a).versions.map (·.ver))
        ∧ RegsKept s u ([Reg.BOND_SEAL_TIME, Reg.BOND_SEAL_TIME + 4, Reg.BOND_INT_STATUS, Reg.TOPO_CNT_UNAVAIL]
            ++ (List.range 4).map Reg.POD_CNT_GATE_OVERRUN ++ (List.range 4).map Reg.POD_INT_STATUS))
    ∧ (∀ s : State, hostReaches s Reg.BOND_CTRL = true → (s.bond.mode ≠ .sealed ∨ admitOpen s = true ∨ inFlight s = true) →
      ∃ u, exec .bondUnload s = .next (settle u) ∧ u = { s with regs := u.regs } ∧ RegsKept s u [Reg.BOND_INT_STATUS]
        ∧ regBit u Reg.BOND_INT_STATUS 2 = true)
    ∧ (∀ s : State, hostReaches s Reg.BOND_CTRL = true → s.bond.mode = .sealed → admitOpen s = false → inFlight s = false →
      ∃ u, exec .bondUnload s = .next (settle u)
        ∧ u.bond = BondSt.reset ∧ u.assets = clearAssets s [] ∧ u.steps = [] ∧ u.front = FrontSt.reset
        ∧ u.serve = { ServeSt.reset with nextSeq := s.serve.nextSeq } ∧ u.text = TextSt.reset
        ∧ (∀ g ∈ unitsOf s 0, ∀ c, c / 64 = g → core u c = Core.reset)
        ∧ (∀ cls i, cls < 6 → i ∈ unitsOf s cls → (unitSt u cls i).epoch
            = if (unitSt s cls i).at_ = some (edgeNow s) then (unitSt s cls i).epoch else ((unitSt s cls i).epoch + 1) % 65536)
        ∧ reg64 u Reg.BOND_IMAGE_ID = 0 ∧ reg u Reg.BOND_IMAGE_VER = 0 ∧ reg u Reg.BOND_L = 0 ∧ reg64 u Reg.BOND_SEAL_TIME = 0
        ∧ u.lpddr = s.lpddr ∧ u.staging = s.staging ∧ u.sec = s.sec ∧ u.host = s.host ∧ u.pod = s.pod ∧ u.evt = s.evt)

/-- A write of a staging command, when none reads BUSY, none is held, and no rejoin holds commands, makes STG_RESULT read BUSY;
at STG_COMPLETE its effect stands and STG_RESULT takes its code. BEGIN whose checks pass opens its staging in a free slot
with STG_DONE 0. DATA with a plaintext piece of a multiple of 16 bytes that fits appends it: the version slot takes the bytes
up to the version's size, every other LPDDR byte stays, and STG_DONE counts them. END of a version that verifies, with its
pages free, makes it resident and verified after the versions there were; one that does not verify is zeroed, its slot freed,
with code 0x09. ABORT zeroes what was written and frees the slot. A code other than 0 raises STAGE_FAILED, a successful END
STAGE_DONE. In a state other than LOADED and SEALED the code is 0x02 and nothing else changes. A command while another reads
BUSY is ignored and logs 0x0005. The order of the checks, what page records an encrypted version holds and when a command
reads its window are the model's choices (log 34, log 35, log 60). -/
def Obligations.StagingAVersion : Prop :=
  (∀ (s : State), hostReaches s Reg.STG_CMD = true → s.assets.stgBusy = none → isHeld s 0 = false → holdsCommands s = false →
      ∀ p ∈ [(Instr.stgBegin, 1), (.stgData, 2), (.stgEnd, 3), (.stgAbort, 4)],
        ∃ u, exec p.1 s = .next (settle u) ∧ u = { s with
            regs := u.regs
            assets := { s.assets with
              stgBusy := some (stgCommand s p.2 (reg s Reg.STG_ASSET) (reg64 s Reg.STG_OFFSET) (reg64 s Reg.STG_LEN)) } }
          ∧ reg u Reg.STG_RESULT = 1 ∧ RegsKept s u [Reg.STG_RESULT])
    ∧ (∀ (s : State) (x : StgCmd), s.assets.stgBusy = some x → (x.badState = true ∨ stgBarred s 0 0 = true) →
      ∃ u, exec .stgComplete s = .next (settle u) ∧ u = { s with regs := u.regs, assets := { s.assets with stgBusy := none } }
        ∧ reg u Reg.STG_RESULT = 2 ∧ regBit u Reg.BOND_INT_STATUS 10 = true
        ∧ RegsKept s u [Reg.STG_RESULT, Reg.BOND_INT_STATUS])
    ∧ (∀ (s : State) (x : StgCmd) (g : Staging), s.assets.stgBusy = some x → x.badState = false → stgBarred s 0 0 = false → x.op = 1 →
      stgOpen s (bits x.sel 15 0) (bit x.sel 16) x.inWindow x.bytes = (0, some g) →
      ∃ u, exec .stgComplete s = .next (settle u) ∧ u = { s with
          regs := u.regs
          assets := { s.assets with staging := some g, stgBusy := none } }
        ∧ g.asset = bits x.sel 15 0 ∧ g.data = [] ∧ (slotsTaken s g.asset).contains g.slot = false
        ∧ reg64 u Reg.STG_DONE = 0 ∧ reg u Reg.STG_RESULT = 0
        ∧ RegsKept s u [Reg.STG_DONE, Reg.STG_DONE + 4, Reg.STG_RESULT])
    ∧ (∀ (s : State) (x : StgCmd) (g : Staging) (k : Nat), s.assets.stgBusy = some x → x.badState = false → stgBarred s 0 0 = false →
      x.op = 2 → s.assets.staging = some g → g.key = none → g.lastPiece = false → x.inWindow = true → x.bytes.length % 16 = 0 →
      stagedRoom s g x.bytes.length = true → slotKeyOf s g.asset g.slot g.data.length = some k →
      let m := min x.bytes.length (g.size - g.data.length)
      ∃ u, exec .stgComplete s = .next (settle u)
        ∧ u = { s with
            regs := u.regs, lpddr := u.lpddr, poison := u.poison, twin := u.twin
            assets := { s.assets with
              staging := some { g with data := g.data ++ x.bytes, chunks := g.chunks, lastPiece := false }
              stgBusy := none } }
        ∧ memRead u.lpddr k m = x.bytes.take m
        ∧ (∀ y, y < k ∨ k + m ≤ y → memByte u.lpddr y = memByte s.lpddr y)
        ∧ reg64 u Reg.STG_DONE = (g.data.length + x.bytes.length) % 2 ^ 64 ∧ reg u Reg.STG_RESULT = 0
        ∧ RegsKept s u [Reg.STG_DONE, Reg.STG_DONE + 4, Reg.STG_RESULT])
    ∧ (∀ (s : State) (x : StgCmd) (g : Staging) (e : AssetE), s.assets.stgBusy = some x → x.badState = false →
      stgBarred s 0 0 = false → x.op = 3 → s.assets.staging = some g → assetEntry s g.asset = some e → stagedGood s g e = true →
      pagesFree s (storeOf s e.kind (bodyRd (g.data.take g.size)))
        ((if hasPages e.kind then pageRecords (g.data.length / 2064 + 1) (g.data.drop g.size) else []).map (·.1)) = true →
      ∃ u v, exec .stgComplete s = .next (settle u)
        ∧ u = { s with regs := u.regs, lpddr := u.lpddr, poison := u.poison, twin := u.twin, assets := u.assets }
        ∧ u.assets.staging = none ∧ u.assets.stgBusy = none
        ∧ assetSt u g.asset = { assetSt s g.asset with versions := (assetSt s g.asset).versions ++ [v] }
        ∧ v.ver = g.ver ∧ v.slot = g.slot ∧ v.digest = g.digest ∧ v.verified = true ∧ v.everCurrent = false
        ∧ (∀ a, a ≠ g.asset → assetSt u a = assetSt s a) ∧ reg u Reg.STG_RESULT = 0
        ∧ regBit u Reg.BOND_INT_STATUS 9 = true ∧ RegsKept s u [Reg.STG_RESULT, Reg.BOND_INT_STATUS])
    ∧ (∀ (s : State) (x : StgCmd) (g : Staging) (k : Nat), s.assets.stgBusy = some x → x.badState = false → stgBarred s 0 0 = false →
      s.assets.staging = some g → slotKeyOf s g.asset g.slot 0 = some k →
      let m := min g.data.length g.size
      (∀ e, x.op = 3 → assetEntry s g.asset = some e → stagedGood s g e = false →
        ∃ u, exec .stgComplete s = .next (settle u) ∧ u = { s with
            regs := u.regs, lpddr := u.lpddr, poison := u.poison, twin := u.twin
            assets := { s.assets with staging := none, stgBusy := none } }
          ∧ (∀ y, memByte u.lpddr y = if k ≤ y ∧ y < k + m then 0 else memByte s.lpddr y)
          ∧ reg u Reg.STG_RESULT = 9 ∧ regBit u Reg.BOND_INT_STATUS 10 = true)
      ∧ (x.op = 4 → ∃ u, exec .stgComplete s = .next (settle u) ∧ u = { s with
            regs := u.regs, lpddr := u.lpddr, poison := u.poison, twin := u.twin
            assets := { s.assets with staging := none, stgBusy := none } }
          ∧ (∀ y, memByte u.lpddr y = if k ≤ y ∧ y < k + m then 0 else memByte s.lpddr y)
          ∧ reg u Reg.STG_RESULT = 0 ∧ RegsKept s u [Reg.STG_RESULT]))
    ∧ (∀ (s : State), hostReaches s Reg.STG_CMD = true → s.assets.stgBusy.isSome = true →
      ∀ c ∈ [Instr.stgBegin, .stgData, .stgEnd, .stgAbort],
        exec c s = .next (settle (protocol s 0x0005 Reg.STG_CMD 1)))

/-- On a module that journals nothing, with no command busy or held: SW_COMMIT takes the first code whose check fails, in the
order of Table 03.8, and then changes no switch; with none failing the lowest free slot takes the switch and SW_RESULT reads
ACCEPTED with the slot. SW_CANCEL of the switch of the asset at the time empties its slot. When a pending switch's edge has
come and no earlier one of its asset is pending, its version is current from this edge, its slot is free, SWITCH_DONE is
raised; other assets keep their current versions and other slots their switches. That a commit takes the lowest free slot is
the model's choice (log 19). -/
def Obligations.SwitchesAreCommittedCancelledAndTaken : Prop :=
  (∀ (s : State), hostReaches s Reg.SW_CMD = true → s.assets.swBusy = none → isHeld s 1 = false → holdsCommands s = false →
      journals s = false →
      let a := bits (reg s Reg.SW_ASSET) 15 0
      let ver := reg s Reg.SW_VERSION
      let at_ := reg64 s Reg.SW_AT
      (∀ i, commitCheck s a ver at_ = 0 → freeSwitch s = some i →
        ∃ u, exec .swCommit s = .next (settle u) ∧ u = { s with
            regs := u.regs
            assets := { s.assets with switches := u.assets.switches } }
          ∧ i < 64 ∧ (∀ j, j < i → switchOf s j ≠ none)
          ∧ switchOf u i = some { asset := a, version := ver, at_ := at_, awaiting := false }
          ∧ (∀ j, j ≠ i → switchOf u j = switchOf s j)
          ∧ reg u Reg.SW_RESULT = i * 256 ∧ RegsKept s u [Reg.SW_RESULT])
      ∧ (commitCheck s a ver at_ ≠ 0 →
        ∃ u, exec .swCommit s = .next (settle u) ∧ u = { s with regs := u.regs }
          ∧ reg u Reg.SW_RESULT = commitCheck s a ver at_ ∧ regBit u Reg.BOND_INT_STATUS 6 = true
          ∧ RegsKept s u [Reg.SW_RESULT, Reg.BOND_INT_STATUS])
      ∧ (∀ i, cancelCheck s a at_ = 0 → switchAt s a at_ = some i → i < 64 →
        ∃ u, exec .swCancel s = .next (settle u) ∧ u = { s with
            regs := u.regs
            assets := { s.assets with table := u.assets.table, switches := u.assets.switches } }
          ∧ switchOf u i = none ∧ (∀ j, j ≠ i → switchOf u j = switchOf s j)
          ∧ (∀ b, (assetSt u b).current = (assetSt s b).current)
          ∧ reg u Reg.SW_RESULT = i * 256 ∧ RegsKept s u [Reg.SW_RESULT])
      ∧ (cancelCheck s a at_ ≠ 0 →
        ∃ u, exec .swCancel s = .next (settle u) ∧ u = { s with regs := u.regs }
          ∧ reg u Reg.SW_RESULT = cancelCheck s a at_ ∧ regBit u Reg.BOND_INT_STATUS 6 = true))
    ∧ (∀ (s : State) (i : Fin 64) (w : Switch), switchOf s i = some w → isDue s w.at_ = true →
      hasCount s = true → (∀ p ∈ switchList s, p.2.asset = w.asset → w.at_ ≤ p.2.at_) →
      ∃ u, exec (.switchDue i) s = .next (settle u)
        ∧ (assetSt u w.asset).current = w.version ∧ (∀ b, b ≠ w.asset → (assetSt u b).current = (assetSt s b).current)
        ∧ switchOf u i = none ∧ (∀ j, j ≠ (i : Nat) → switchOf u j = switchOf s j)
        ∧ regBit u Reg.BOND_INT_STATUS 5 = true
        ∧ u.time = s.time ∧ u.bond = s.bond ∧ u.lpddr = s.lpddr ∧ u.cores = s.cores ∧ u.host = s.host)
    ∧ (∀ (s : State) (i : Fin 64), switchOf s i = none → exec (.switchDue i) s = .next (settle s))

/-- On a sealed module that journals nothing, with no table command busy or held, for an embedding table: OPEN whose checks pass
opens a build of the new version on the base's pages in a free slot; APPLY of a good batch that the stores have pages for
begins with TAB_PROGRESS 0 and waits, its pages reserved, for the TABLE section's steps (in an image without that section it
runs at once, TAB_PROGRESS at its entries), and changes no resident version; CLOSE leaves the build's digest in TAB_DIGEST;
ABORT discards the build. Each reads BUSY until TAB_COMMAND_DONE, which waits for a batch that runs; at it a closed build
becomes a resident verified version, what R58 then frees is freed, and the result and its interrupt are given: DONE with code
0, else REFUSED with the refusals counted. When a store command computes its result, and the steps in which an APPLY runs,
are the model's choices (log 35, log 51). -/
def Obligations.TableBuildsRun : Prop :=
  (∀ (s : State), hostReaches s Reg.TAB_CMD = true → s.assets.tabBusy = none → isHeld s 2 = false → holdsCommands s = false →
      journals s = false → isSealed s = true →
      let a := bits (reg s Reg.TAB_ASSET) 15 0
      let base := reg s Reg.TAB_BASE_VER
      let ver := reg s Reg.TAB_NEW_VER
      let o := reg64 s Reg.TAB_UPD_OFFSET
      let n := reg64 s Reg.TAB_UPD_LEN
      let busy (op : Nat) : Option BusyCmd := some { code := 0, slot := 0, jseq := none, op := op, args := [a, base, ver] }
      kindOf s a = some 3 →
      (∀ sl, openCheck s a base ver = 0 → freeSlotOf s a = some sl →
        ∃ u b, exec .tabOpen s = .next (settle u) ∧ u = { s with
            regs := u.regs
            assets := { s.assets with builds := s.assets.builds ++ [b], tabBusy := busy 1 } }
          ∧ b.asset = a ∧ b.base = base ∧ b.ver = ver ∧ b.slot = sl ∧ b.copied = [] ∧ b.touched = [] ∧ b.applied = 0
          ∧ reg u Reg.TAB_RESULT = 1 ∧ RegsKept s u [Reg.TAB_RESULT])
      ∧ (∀ batch, batch = (if o + n ≤ bar4Size then stagingRead s o n else []) →
        let p := setReg s Reg.TAB_PROGRESS 0
        let t := buildEmb p a
        applyCheck p a t = 0 → batchGood a t.dim batch = true →
        pagesSuffice p (batchRows p a t (batchEntries t.dim (batchOf batch).nent batch)).1 = true →
        ((tableSection s).isSome = true → ∃ u x, exec .tabApply s = .next (settle u) ∧ u = { s with
            regs := u.regs
            assets := { s.assets with batches := s.assets.batches ++ [x], tabBusy := busy 2 } }
          ∧ x.asset = a ∧ x.bytes = batch ∧ x.left = (batchOf batch).nent ∧ x.listed = 0 ∧ x.own = true
          ∧ x.pages = reservedPages p (batchRows p a t (batchEntries t.dim (batchOf batch).nent batch)).1
          ∧ reg u Reg.TAB_PROGRESS = 0 ∧ RegsKept s u [Reg.TAB_PROGRESS, Reg.TAB_RESULT])
        ∧ (tableSection s = none → ∃ u, exec .tabApply s = .next (settle u) ∧ u = { s with
            regs := u.regs, evt := u.evt, lpddr := u.lpddr, poison := u.poison, twin := u.twin
            assets := { s.assets with builds := u.assets.builds, tabBusy := busy 2 } }
          ∧ reg u Reg.TAB_PROGRESS = (batchOf batch).nent))
      ∧ (∀ b, buildOf s a = some b →
        (∃ u, exec .tabClose s = .next (settle u) ∧ u = { s with
            regs := u.regs
            assets := { s.assets with tabBusy := busy 3 } }
          ∧ reg64 u Reg.TAB_DIGEST = buildDigest s b % 2 ^ 64
          ∧ RegsKept s u [Reg.TAB_DIGEST, Reg.TAB_DIGEST + 4, Reg.TAB_RESULT])
        ∧ (∃ u, exec .tabAbort s = .next (settle u) ∧ u = { s with
            regs := u.regs
            assets := { s.assets with table := u.assets.table, builds := u.assets.builds, tabBusy := busy 4 } }
          ∧ buildOf u a = none ∧ (∀ x, x ≠ a → buildOf u x = buildOf s x ∧ assetSt u x = assetSt s x)
          ∧ (assetSt u a).current = (assetSt s a).current)))
    ∧ (∀ (s : State) (b : BusyCmd), s.assets.tabBusy = some b → applyCut s = false →
      (acknowledged s b.jseq = false ∨ applyRuns s = true) → exec .tabCommandDone s = .next (settle s))
    ∧ (∀ (s : State) (b : BusyCmd), applyRuns s = false → s.assets.tabBusy = some b → acknowledged s b.jseq = true →
      isSealed s = true → b.code < 256 →
      ∃ u, exec .tabCommandDone s = .next (settle u) ∧ u.assets.tabBusy = none ∧ reg u Reg.TAB_RESULT = b.code
        ∧ (b.code = 0 → regBit u Reg.TAB_INT_STATUS 0 = true)
        ∧ (b.code ≠ 0 → regBit u Reg.TAB_INT_STATUS 1 = true
            ∧ reg u Reg.TAB_CNT_REFUSED = min (reg s Reg.TAB_CNT_REFUSED + 1) 0xFFFFFFFF)
        ∧ (b.op = 3 → b.code = 0 → ∀ x, buildOf s (b.args.headD 0) = some x →
            buildOf u x.asset = none
              ∧ (assetSt u x.asset).current = (assetSt s x.asset).current
              ∧ ∃ v, v ∈ (assetSt u x.asset).versions ∧ v.ver = x.ver ∧ v.slot = x.slot ∧ v.verified = true
                ∧ (assetSt u x.asset).versions
                    = ((assetSt s x.asset).versions ++ [v]).filter fun y => !freeable (closeBuild s x) x.asset y)
        ∧ ((b.op ≠ 3 ∨ b.code ≠ 0) → u = { s with
            regs := u.regs, evt := u.evt
            assets := { s.assets with tabBusy := none } }))

/-- On a module that journals nothing, with no store command busy or held: INIT of 65,280 bytes into a store without a block
writes the rank table at the front of its region, leaves every other LPDDR byte, and ends with 0x00. Every command ends at
once with its code; it changes LPDDR, the replaced blocks' list, and of the registers only TS_RESULT, TS_CNT_REFUSED and the
interrupt status; a refused one changes no memory, counts in TS_CNT_REFUSED and raises TS_REFUSED. A command while one reads
BUSY logs 0x0005 and does nothing. That a command's bytes are read, and its result computed, at its write is the model's
choice (log 35); so is the place a passage takes (log 19). -/
def Obligations.TokenStoreCommandsRun : Prop :=
  (∀ s : State, hostReaches s Reg.TS_CMD = true → s.assets.tsBusy = none → isHeld s 3 = false → holdsCommands s = false →
      journals s = false → isSealed s = true →
      let o := reg64 s Reg.TS_SRC_OFFSET
      let n := reg64 s Reg.TS_SRC_LEN
      let g := descRegion (fetchDesc s)
      let batch := stagingRead s o n
      o + n ≤ bar4Size →
      (n = 65280 → (∀ b, b < tsDir s g → tsBlock s g b = none) →
        ∃ u, exec .tsInit s = .next (settle u)
          ∧ u = { s with
              regs := u.regs, lpddr := u.lpddr, poison := u.poison, twin := u.twin
              assets := { s.assets with tsBusy := none } }
          ∧ ldRead u g 0 65280 = batch
          ∧ (∀ x, x < ldKey g 0 ∨ ldKey g 65280 ≤ x → memByte u.lpddr x = memByte s.lpddr x)
          ∧ reg u Reg.TS_RESULT = 0 ∧ RegsKept s u [Reg.TS_RESULT])
      ∧ (∀ op, (op = 1 ∨ op = 2) →
        let r := tsRun s op batch
        ∃ u, exec (if op = 1 then .tsInit else .tsWrite) s = .next (settle u)
          ∧ u = { s with
              regs := u.regs, evt := u.evt, lpddr := r.1.lpddr, poison := r.1.poison, twin := r.1.twin
              assets := { s.assets with tsOld := r.1.assets.tsOld } }
          ∧ (r.2 = 0 ∨ r.2 = 3 ∨ r.2 = 4 ∨ r.2 = 5 ∨ r.2 = 6) ∧ (r.2 ≠ 0 → r.1 = s) ∧ reg u Reg.TS_RESULT = r.2
          ∧ (r.2 ≠ 0 → regBit u Reg.RR_INT_STATUS 2 = true
            ∧ reg u Reg.TS_CNT_REFUSED = min (reg s Reg.TS_CNT_REFUSED + 1) 0xFFFFFFFF)
          ∧ RegsKept s u [Reg.TS_RESULT, Reg.TS_CNT_REFUSED, Reg.RR_INT_STATUS]))
    ∧ (∀ s : State, hostReaches s Reg.TS_CMD = true → s.assets.tsBusy.isSome = true → ∀ c ∈ [Instr.tsInit, .tsWrite],
        exec c s = .next (settle (protocol s 0x0005 Reg.TS_CMD 1)))

/-- A request that holds a lane, is not tokenised, and whose text unit is AVAILABLE takes the tokens of its text under its
version set's tables and gives its lane back; text that is ill-formed under STRICT, too long after normalisation, or over
4,096 tokens leaves no token and its own mark. Never more than 4,096 tokens result. TEXT_CNT_TOKENS, TEXT_CNT_REPLACED and
TEXT_CNT_STREAMSAFE rise by the amounts, saturating; other requests stay; the tokens are written to a free place of a WORKING
region and no other LPDDR byte changes (the model's choice, log 65). -/
def Obligations.TextIsTokenisedIntoItsRequest : Prop :=
  ∀ (s : State) (k : ReqKey) (r : Req), reqOf s k = some r → r.lane = true → r.tokenised = false → (unitSt s 4 0).mode = .available →
    let o := tokeniseText (pinnedRd s r.vset 1 7) (pinnedRd s r.vset 1 8) r.strict r.input
    ∃ u, exec (.tokenise k) s = .next (settle u)
      ∧ u = { s with regs := u.regs, evt := u.evt, front := u.front, lpddr := u.lpddr, poison := u.poison, twin := u.twin }
      ∧ u.lpddr = (placeInput s k 2 (o.tokens.flatMap (natLE 4))).lpddr
      ∧ reqOf u k = some { r with
          lane := false, tokenised := true, tokens := o.tokens, textReplaced := decide (o.replaced ≠ 0)
          textMalformed := o.malformed.isSome, malOffset := o.malformed.getD 0, textTooLong := o.tooLong }
      ∧ (∀ j, j ≠ (k : Nat) → reqOf u j = reqOf s j)
      ∧ o.tokens.length ≤ 4096 ∧ (o.tooLong = true ∨ o.malformed.isSome = true → o.tokens = [])
      ∧ (r.strict = true → utf8Good r.input = false → o.malformed = illFormedAt r.input.length r.input 0 ∧ o.tokens = [])
      ∧ (r.strict = false → o.malformed = none)
      ∧ reg u Reg.TEXT_CNT_TOKENS = min (reg s Reg.TEXT_CNT_TOKENS + o.tokens.length) 0xFFFFFFFF
      ∧ reg u Reg.TEXT_CNT_REPLACED = min (reg s Reg.TEXT_CNT_REPLACED + o.replaced) 0xFFFFFFFF
      ∧ reg u Reg.TEXT_CNT_STREAMSAFE = min (reg s Reg.TEXT_CNT_STREAMSAFE + o.safe) 0xFFFFFFFF
      ∧ RegsKept s u [Reg.TEXT_CNT_TOKENS, Reg.TEXT_CNT_REPLACED, Reg.TEXT_CNT_STREAMSAFE, Reg.TEXT_CNT_TOO_LONG,
          Reg.TEXT_CNT_MALFORMED, Reg.TEXT_INT_STATUS]

/-- MASK_BUILD of a READY entry under a grammar without a mask, while the grammar unit is AVAILABLE, leaves its mask, strictly
ascending and below the grammar's vocabulary size, and GRAM_CNT_MASKS counts; where a line it reads is poisoned the entry's
item falls short and there is no mask (R455). SAMPLE_TOKEN of a listed READY entry that is not lost: a grammar entry without
its mask, or with a late one, sits the step out; an empty mask ends it with reason 0x04, a NaN among its allowed logits with
0x07; else, where the lines of the token drawn are not poisoned, the token is one of the allowed ones, the context and
generated counts rise by one, and the token is the entry's last. An entry whose end a boundary has settled ends after that
with its own reason. How an ended sequence meets a step that runs it is the model's reading (log 66). -/
def Obligations.MasksAreBuiltAndTokensSampled : Prop :=
  (∀ (s : State) (e : EntryNo), (seqOf s e).mode = .ready → (seqOf s e).grammar = true → (seqOf s e).mask = none →
      (seqOf s e).maskLate = false → (unitSt s 5 0).mode = .available →
      let q := seqOf s e
      let m := buildMask (gramRd s q) (vocRd s q.vset) q.gstate q.gstack.reverse
      ∃ u, exec (.maskBuild e) s = .next (settle u)
        ∧ u = { s with
            regs := u.regs, evt := u.evt, text := u.text, credits := u.credits, serve := u.serve, steps := u.steps }
        ∧ (∀ j, j ≠ (e : Nat) → seqOf u j = seqOf s j)
        ∧ m.Pairwise (· < ·) ∧ (∀ t ∈ m, t < rdN (gramRd s q) 12 4)
        ∧ (decodeLost u e = false → seqOf u e = { q with mask := some m }
            ∧ reg u Reg.GRAM_CNT_MASKS = min (reg s Reg.GRAM_CNT_MASKS + 1) 0xFFFFFFFF)
        ∧ (decodeLost u e = true → seqOf u e = q ∧ reg u Reg.GRAM_CNT_MASKS = reg s Reg.GRAM_CNT_MASKS)
        ∧ (s.poison = [] → decodeLost u e = decodeLost s e ∧ u.steps = s.steps))
    ∧ (∀ (s : State) (e : EntryNo) (logits : List Nat), (seqOf s e).mode = .ready → (seqOf s e).listed = true →
      decodeLost s e = false → s.twin.genStop = false →
      let q := seqOf s e
      let al := allowedLogits (if q.grammar then q.mask else none) logits
      (q.grammar = true → (q.mask = none ∨ q.maskLate = true) →
        ∃ u, exec (.sampleToken e logits) s = .next (settle (endPending u e))
          ∧ u = { s with regs := u.regs, evt := u.evt, serve := u.serve }
          ∧ seqOf u e = { q with skips := min (q.skips + 1) 0xFFFF, listed := false, maskLate := false }
          ∧ (∀ j, j ≠ (e : Nat) → seqOf u j = seqOf s j)
          ∧ reg u Reg.GRAM_CNT_MASK_LATE = min (reg s Reg.GRAM_CNT_MASK_LATE + 1) 0xFFFFFFFF
          ∧ RegsKept s u [Reg.GRAM_CNT_MASK_LATE, Reg.TEXT_INT_STATUS])
      ∧ (q.grammar = true → q.mask = some [] → q.maskLate = false →
        exec (.sampleToken e logits) s = .next (settle (endPending (endNoToken s e 0x04 (gramStateWord q)) e)))
      ∧ ((q.grammar = true → q.mask ≠ none ∧ q.maskLate = false ∧ q.mask ≠ some []) →
        ((∃ p ∈ al, isNan32 p.2 = true) → exec (.sampleToken e logits) s = .next (settle (endPending (endNoToken s e 0x07 0) e)))
        ∧ ((∀ p ∈ al, isNan32 p.2 = false) → ∀ t, sampleRow q s.fresh al = some t →
          let s0 := tokenLines s e t
          seqOf s0 e = q ∧ (s.poison = [] → decodeLost s0 e = false)
          ∧ (decodeLost s0 e = true → exec (.sampleToken e logits) s = .next (settle (endPending s0 e)))
          ∧ (decodeLost s0 e = false →
          ∃ s1, exec (.sampleToken e logits) s = .next (settle (endPending (tokenText (takeToken s1 e t) e t) e))
            ∧ t ∈ al.map (·.1) ∧ s1.fresh = s.fresh + 1 ∧ seqOf s1 e = { q with inexact := (seqOf s1 e).inexact }
            ∧ (seqOf (takeToken s1 e t) e).ctxLen = q.ctxLen + 1 ∧ (seqOf (takeToken s1 e t) e).genCount = q.genCount + 1
            ∧ (seqOf (takeToken s1 e t) e).lastToken = t ∧ (seqOf (takeToken s1 e t) e).tokens = q.tokens ++ [t]
            ∧ (seqOf (takeToken s1 e t) e).mask = none ∧ (seqOf (takeToken s1 e t) e).listed = false))))
    ∧ (∀ (s : State) (e : Nat), ((seqOf s e).ending = none ∨ (seqOf s e).mode ≠ .ready) → endPending s e = s)
    ∧ (∀ (s : State) (e c : Nat), (seqOf s e).ending = some c → (seqOf s e).mode = .ready → endPending s e = endNoToken s e c 0)

/-- A token ends its sequence with reason 0x01 when it is EOS; else 0x02 with the index of the first stop token it equals; else
0x03 with the stop string completed; else 0x05 when MAX_NEW tokens have been generated; else 0x06 when the context is full;
else the sequence goes on. When a token completes a stop string and STOP_INCLUDE is clear, the text released and the stop
string after it are the characters held followed by the token's own up to the occurrence's end; nothing stays held. -/
def Obligations.EndReasonsFollowTheirOrder : Prop :=
  (∀ (q : SeqEntry) (eos ctxMax t : Nat) (stop : Option (Nat × Nat)),
      (t = eos → endReason q eos ctxMax t stop = (0x01, 0))
      ∧ (t ≠ eos → ∀ i, (gtStopToks q.genText).idxOf? t = some i → endReason q eos ctxMax t stop = (0x02, i))
      ∧ (t ≠ eos → t ∉ gtStopToks q.genText →
          (∀ p, stop = some p → endReason q eos ctxMax t stop = (0x03, p.1))
          ∧ (stop = none → q.maxNew ≤ q.genCount → endReason q eos ctxMax t stop = (0x05, 0))
          ∧ (stop = none → q.genCount < q.maxNew → ctxMax ≤ q.ctxLen + 1 → endReason q eos ctxMax t stop = (0x06, 0))
          ∧ (stop = none → q.genCount < q.maxNew → q.ctxLen + 1 < ctxMax → endReason q eos ctxMax t stop = (0, 0))))
    ∧ (∀ (stops : List (List Byte)) (pending held bytes : List Byte) (i cut : Nat),
      (detok stops false pending held bytes).stop = some (i, cut) →
      ∃ p own, stops[i]? = some p ∧ p ≠ [] ∧ (detok stops false pending held bytes).held = []
        ∧ (detok stops false pending held bytes).released ++ p = held ++ own
        ∧ own <+: ((utf8Split (pending ++ bytes)).1.flatMap (·.bytes)))

/-- Before a request's instant, and after its result or its end, COMPLETION_INSTANT changes nothing. At the instant the front end
completes the request; its own module then releases the result and hands it off as DEST says (a request taken over from the
twin is replayed, R389), and a shadow holds what it has. A request without a prompt, or with DEST HOST, ends its record at
the result. -/
def Obligations.CompletionInstantReleasesTheResult : Prop :=
  (∀ (s : State) (k : ReqKey), (reqOf s k = none ∨ ∃ r, reqOf s k = some r ∧
        ((r.resulted = true ∧ r.shadow = false) ∨ r.ended = true ∨ isDue s r.instant = false)) →
      exec (.completionInstant k) s = .next (settle s))
    ∧ (∀ (s : State) (k : ReqKey) (r : Req), reqOf s k = some r → isDue s r.instant = true → r.ended = false →
      (r.resulted = true → r.shadow = true) →
      let c := completeFront s k
      exec (.completionInstant k) s = .next (settle (match reqOf c k with
        | none => c
        | some r1 => if r1.shadow = true then c else releaseResult c k r1)))
    ∧ (∀ (c : State) (k : Nat) (r1 : Req),
      let sent := (journalFor (sendResult c r1 (resultParts c r1)) r1.role 0x08 r1.seq (natLE 8 r1.instant)).1
      let shown := setReq sent k (some { r1 with resulted := true })
      ((r1.pack = none ∨ ∃ p, r1.pack = some p ∧ p.dest = 0) → releaseResult c k r1 = endReq shown k)
        ∧ (∀ p e, r1.pack = some p → r1.ast = some e → p.dest = 1 →
            releaseResult c k r1 = if r1.adopted = true then replaySeq shown e r1.prompt else enterPrefill shown e r1.prompt)
        ∧ (∀ p e, r1.pack = some p → r1.ast = some e → p.dest = 3 →
            releaseResult c k r1 = enterPrefill (sendPrompt shown r1) e r1.prompt)
        ∧ (∀ p, r1.pack = some p → r1.ast = none → p.dest = 2 → releaseResult c k r1 = endReq (sendPrompt shown r1) k))

/-- PT_PIN of a key in the tree adds one pin for every place of a node on the path to the root, when the pinned nodes stay within
PT_PIN_MAX, with result 0; else no pin changes, the result is 3 and PIN_LIMIT is raised. PT_UNPIN of a pinned node takes them
away, with result 0; of one without a pin the result is 4; of a key not in the tree both answer 2. Nothing else of a node
changes, and no other register but the result and, at the limit, the interrupt status. On a module that journals nothing and
has no register cancel pending, SERVE_CANCEL of a request it knows, that is no shadow and has not ended, stamps the request
with the present edge unless it is stamped, with result 0; of another the result is 2, of an ended one 3, and nothing else
changes. A write of SERVE_WIN_INDEX copies the entry's 128 bytes into SERVE_WIN; no other register changes. -/
def Obligations.PinsCancelsAndWindowsOfSequences : Prop :=
  (∀ s : State, hostReaches s Reg.PT_PIN_CMD = true → nodeByKey s (reg64 s Reg.PT_PIN_KEY) = none →
      ∀ c ∈ [Instr.ptPin, .ptUnpin], exec c s = .next (settle (setReg s Reg.PT_PIN_RESULT 2)))
    ∧ (∀ (s : State) (p : Nat × Node), hostReaches s Reg.PT_PIN_CMD = true → nodeByKey s (reg64 s Reg.PT_PIN_KEY) = some p →
      let path := ancestry s 768 p.1
      let fresh := (path.filter fun i => decide ((nodeOf s i).map (·.pins) = some 0)).length
      (pinnedNodes s + fresh ≤ reg s Reg.PT_PIN_MAX →
        ∃ u, exec .ptPin s = .next (settle u) ∧ u = { s with
            regs := u.regs
            serve := { s.serve with nodes := u.serve.nodes } }
          ∧ reg u Reg.PT_PIN_RESULT = 0 ∧ RegsKept s u [Reg.PT_PIN_RESULT]
          ∧ ∀ i, nodeOf u i = (nodeOf s i).map fun x => { x with pins := x.pins + path.count i })
      ∧ (reg s Reg.PT_PIN_MAX < pinnedNodes s + fresh →
        ∃ u, exec .ptPin s = .next (settle u) ∧ u = { s with regs := u.regs } ∧ reg u Reg.PT_PIN_RESULT = 3
          ∧ regBit u Reg.SERVE_INT_STATUS 3 = true ∧ RegsKept s u [Reg.PT_PIN_RESULT, Reg.SERVE_INT_STATUS])
      ∧ (0 < p.2.pins →
        ∃ u, exec .ptUnpin s = .next (settle u) ∧ u = { s with
            regs := u.regs
            serve := { s.serve with nodes := u.serve.nodes } }
          ∧ reg u Reg.PT_PIN_RESULT = 0 ∧ RegsKept s u [Reg.PT_PIN_RESULT]
          ∧ ∀ i, nodeOf u i = (nodeOf s i).map fun x => { x with pins := x.pins - path.count i })
      ∧ (p.2.pins = 0 → exec .ptUnpin s = .next (settle (setReg s Reg.PT_PIN_RESULT 4))))
    ∧ (∀ (s : State) (role : Bool), hostReaches s Reg.SERVE_CANCEL_CMD = true → journals s = false →
      (∀ c ∈ s.serve.cancels, c.origin ≠ none) →
      let k := reqKey (reg s Reg.SERVE_CANCEL_SEQ) role
      ((reqOf s k = none ∨ ∃ r, reqOf s k = some r ∧ r.shadow = true) →
        exec (.serveCancel role) s = .next (settle (setReg s Reg.SERVE_CANCEL_RESULT 2)))
      ∧ (∀ r, reqOf s k = some r → r.shadow = false →
        (r.ended = true → exec (.serveCancel role) s = .next (settle (setReg s Reg.SERVE_CANCEL_RESULT 3)))
        ∧ (r.ended = false →
          ∃ u, exec (.serveCancel role) s = .next (settle u) ∧ u = { s with regs := u.regs, front := u.front }
            ∧ reg u Reg.SERVE_CANCEL_RESULT = 0 ∧ RegsKept s u [Reg.SERVE_CANCEL_RESULT]
            ∧ reqOf u k = some { r with cancelled := some (r.cancelled.getD (now s)) }
            ∧ ∀ j, j ≠ k → reqOf u j = reqOf s j)))
    ∧ (∀ (s : State) (e : EntryNo), hostReaches s Reg.SERVE_WIN_INDEX = true →
      ∃ u, exec (.serveWinSnapshot e) s = .next (settle u) ∧ u = { s with regs := u.regs }
        ∧ reg u Reg.SERVE_WIN_INDEX = e
        ∧ (∀ i, i < 32 → reg u (Reg.SERVE_WIN i) = le (seqOf s e).toBytes (4 * i) 4)
        ∧ RegsKept s u (Reg.SERVE_WIN_INDEX :: (List.range 32).map Reg.SERVE_WIN))

/-- When the examination of a head takes a boundary, that boundary is one of those examined, has a slot free, energy for the plan
within its budget, a completion instant not after the deadline, and the resources the request needs are free; no earlier
boundary of those examined passes every test; and the request counts as deferred exactly when the boundary is not the first.
A refusal has code 0x10, 0x11 or 0x13. At a decision edge of a sealed module in stage READY with a count whose pair state
admits requests, once an edge, ADMIT_DECISION completes: the switches due take effect, then it examines the heads in order;
elsewhere it does nothing. OPEN is set on a sealed module that is no standby and has declared no FAULT, and nothing else
changes; else the write is refused and nothing changes. Clearing it empties every queue. DRAIN_COMPLETE on a module in STOP
or with a declared FAULT, not yet DRAINED, with nothing left to end, powers every core group down: DRAINED is raised, every
core of an enabled group stands at its reset, LPDDR keeps its bytes; otherwise it changes nothing. What clearing OPEN does to
V is the model's reading (log 33). -/
def Obligations.AdmissionKeepsItsBounds : Prop :=
  (∀ (s : State) (r : Req) (t : Tests) (deferred : Bool), (verdict s r).1 = .take t deferred →
      let e := entryBoundary s (now s)
      let d := r.deadline.getD (addBeats r.arrival (reg s Reg.ADMIT_DEADLINE_DEFAULT))
      resourcesFree s r = true ∧ (∃ j, j ≤ bits (reg s Reg.ADMIT_DEFER_MAX) 7 0 ∧ t.at_ = e + j * (planOf s).period)
        ∧ (boundOf s t.at_).used < (planOf s).slots ∧ (boundOf s t.at_).own < ownSlots s
        ∧ (boundOf s t.at_).ledger + planCost s ≤ budgetAt s t.at_
        ∧ t.instant = addBeats (now s) (frontL s + (t.at_ - e)) ∧ t.instant ≤ d
        ∧ deferred = decide (t.at_ ≠ e)
        ∧ ∀ b, e ≤ b → b < t.at_ → b ∈ (verdict s r).2 →
            ((testsAt s r d e b).slot && (testsAt s r d e b).energy && (testsAt s r d e b).deadline) = false)
    ∧ (∀ (s : State) (r : Req) (c p : Nat), (verdict s r).1 = .refuse c p → c = 0x10 ∨ c = 0x11 ∨ c = 0x13)
    ∧ (∀ s : State, s.time.ck % 16 = 0 → s.time.ck ≤ 1488 → s.time.reloadPending = false → hasCount s = true → isSealed s = true →
      s.topo.stage = .ready → pairAdmits s = true → s.adm.decided ≠ some (now s) →
      let v := dueSwitches s
      exec .admitDecision s = .next (settle (decideHeads (headsInOrder v) v))
        ∧ (headsInOrder v = [] → decideHeads (headsInOrder v) v = v)
        ∧ (∀ r rs t deferred, headsInOrder v = r :: rs → (verdict v r).1 = .take t deferred →
            decideHeads (headsInOrder v) v = accept (edgeUsed (leaveQueue ((verdict v r).2.foldl examined v) r)) r t deferred)
        ∧ ∀ r rs c p, headsInOrder v = r :: rs → (verdict v r).1 = .refuse c p →
            decideHeads (headsInOrder v) v = refuse (edgeUsed (leaveQueue ((verdict v r).2.foldl examined v) r)) r c p)
    ∧ (∀ s : State, (s.time.ck % 16 ≠ 0 ∨ 1488 < s.time.ck ∨ s.time.reloadPending = true ∨ hasCount s = false ∨ isSealed s = false
        ∨ s.topo.stage ≠ .ready ∨ pairAdmits s = false ∨ s.adm.decided = some (now s)) →
      exec .admitDecision s = .next (settle s))
    ∧ (∀ s : State, hostReaches s Reg.ADMIT_CTRL = true → isSealed s = true → standby s = false → s.twin.declared = [] →
      ∃ u, exec (.admitOpen true) s = .next (settle u) ∧ u = { s with regs := u.regs } ∧ admitOpen u = true
        ∧ RegsKept s u [Reg.ADMIT_CTRL])
    ∧ (∀ s : State, hostReaches s Reg.ADMIT_CTRL = true → (isSealed s = false ∨ standby s = true ∨ s.twin.declared ≠ []) →
      exec (.admitOpen true) s = .next (settle s))
    ∧ (∀ s : State, hostReaches s Reg.ADMIT_CTRL = true →
      ∃ u, exec (.admitOpen false) s = .next (settle u) ∧ (∀ a, queueOf u a = []) ∧ u.front = s.front
        ∧ u.serve = s.serve ∧ u.bond = s.bond ∧ u.time = s.time ∧ u.cores = s.cores ∧ u.lpddr = s.lpddr
        ∧ ((∀ a, queueOf s a = []) → twf (fun _ => []) s.adm.queues = true →
            u = { s with regs := u.regs } ∧ admitOpen u = false ∧ RegsKept s u [Reg.ADMIT_CTRL]))
    ∧ (∀ s : State, (s.energy.thermal = .stop ∨ s.twin.declared ≠ []) → s.energy.thermal ≠ .drained → draining s = false →
      ∃ u, exec .drainComplete s = .next (settle u)
        ∧ u = { s with
            regs := u.regs, cores := u.cores, scratch := u.scratch, topo := u.topo
            energy := { s.energy with thermal := .drained } }
        ∧ regBit u Reg.ENERGY_INT_STATUS 3 = true ∧ RegsKept s u [Reg.ENERGY_INT_STATUS]
        ∧ ∀ g ∈ unitsOf s 0, ∀ c, c / 64 = g → core u c = Core.reset)
    ∧ (∀ s : State, ((s.energy.thermal ≠ .stop ∧ s.twin.declared = []) ∨ s.energy.thermal = .drained ∨ draining s = true) →
      exec .drainComplete s = .next (settle s))

/-- A page of BAR2 names a pair: of the physical function the pair of its number, of a virtual function one bound to it; a write
outside a function's pages is logged 0x0004. A doorbell of an enabled pair within its ring moves its index, and the
completion head lets held entries follow; of a disabled pair or past the ring it is refused and logged 0x0006. ENABLE of a
bound pair whose rings lie in its function's windows sets it; of an unbound pair it logs 0x0007, of rings outside the windows
0x0008; clearing it ends STOPPED_GAP. RESYNC zeroes the ring indices with phase 1. RESUME ends STOPPED_GAP. BIND of a
disabled pair within its function's 16 takes the defined bits and clears the pair's sequence state. A replay from a DSN in
the window starts at its record and runs to the DSN next at its start; from the next DSN it is empty; from another it reads
2. A replay that has reached its end reads 1. When its nonzero time field has run out the coalescing timer sends the pair's
message and stops; a silent module sends none. -/
def Obligations.QueuePairsAreDriven : Prop :=
  (∀ (s : State) (f : FnNo) (k : PairNo) (v : Code16) (q : Nat), hostReaches s (Reg.Q_CTRL 0) = true → doorbellPair s f k = some q →
      (qEnabled s q = true → (v : Nat) < sqSize s q →
        exec (.sqDoorbell ⟨f, k⟩ v) s = .next (settle (setPair s q { pairOf s q with sqTail := v })))
      ∧ ((qEnabled s q = false ∨ sqSize s q ≤ (v : Nat)) →
        exec (.sqDoorbell ⟨f, k⟩ v) s = .next (settle (protocol s 0x0006 (4096 * q) (f + 1))))
      ∧ (qEnabled s q = true → (v : Nat) < cqSize s q →
        let p := pairOf s q
        let t := setPair s q { p with cqHead := v, filled := p.filled - (v + cqSize s q - p.cqHead) % cqSize s q }
        ∃ u, exec (.cqHeadDoorbell ⟨f, k⟩ v) s = .next (settle (freeEnded u)) ∧ u = flushAll t q
          ∧ (pairOf u q).cqHead = v ∧ (∀ j, j ≠ q → pairOf u j = pairOf s j) ∧ u.regs = s.regs
          ∧ (p.replay = none → (∀ c ∈ p.window, c.written = true) → u = t))
      ∧ ((qEnabled s q = false ∨ cqSize s q ≤ (v : Nat)) →
        exec (.cqHeadDoorbell ⟨f, k⟩ v) s = .next (settle (freeEnded (protocol s 0x0006 (4096 * q + 4) (f + 1))))))
    ∧ (∀ (s : State) (f : FnNo) (k : PairNo) (v : Code16), hostReaches s (Reg.Q_CTRL 0) = true →
      ((f : Nat) = 0 → doorbellPair s f k = some (k : Nat))
      ∧ (∀ q, (f : Nat) ≠ 0 → doorbellPair s f k = some q → qBound s q = true ∧ qFn s q = f)
      ∧ (doorbellPair s f k = none →
        exec (.sqDoorbell ⟨f, k⟩ v) s = .next (settle (protocol s 0x0004 (4096 * k) (f + 1)))
          ∧ exec (.cqHeadDoorbell ⟨f, k⟩ v) s = .next (settle (freeEnded (protocol s 0x0004 (4096 * k + 4) (f + 1))))))
    ∧ (∀ (s : State) (q : PairNo), hostReaches s (Reg.Q_CTRL q) = true →
      (qBound s q = true → ringsAllowed s q = true →
        exec (.qEnable q true) s = .next (settle (freeEnded (flushAll (putBit s (Reg.Q_CTRL q) 0 true) q)))
          ∧ qEnabled (flushAll (putBit s (Reg.Q_CTRL q) 0 true) q) q = true)
      ∧ (qEnabled s q = false → qBound s q = false →
        exec (.qEnable q true) s = .next (settle (freeEnded (protocol s 0x0007 (Reg.Q_CTRL q) 1))))
      ∧ (qEnabled s q = false → qBound s q = true → ringsAllowed s q = false →
        exec (.qEnable q true) s
          = .next (settle (freeEnded (protocol (bump s Reg.SEC_CNT_WIN) 0x0008 (Reg.Q_CTRL q) (qFn s q + 1)))))
      ∧ (∃ u, exec (.qEnable q false) s = .next (settle (freeEnded u)) ∧ u = { s with regs := u.regs, host := u.host }
        ∧ qEnabled u q = false ∧ RegsKept s u [Reg.Q_CTRL q] ∧ pairOf u q = { pairOf s q with gap := false }
        ∧ ∀ j, j ≠ (q : Nat) → pairOf u j = pairOf s j)
      ∧ (qEnabled s q = true →
        ∃ u, exec (.qResync q) s = .next (settle (freeEnded u))
          ∧ u = flushAll (setPair s q { pairOf s q with
              sqHead := 0, cqTail := 0, sqTail := 0, cqHead := 0, filled := 0, phase := true }) q
          ∧ (pairOf u q).sqHead = 0 ∧ (pairOf u q).sqTail = 0 ∧ (pairOf u q).cqHead = 0)
      ∧ (exec (.qResume q) s = .next (settle (if (pairOf s q).gap = true then setPair s q { pairOf s q with gap := false } else s))))
    ∧ (∀ (s : State) (q : PairNo) (v : Code32), hostReaches s (Reg.Q_BIND q) = true → qEnabled s q = false →
      (bit v 31 = true → ((boundPairs s (bits v 21 16)).filter fun x => decide (x ≠ (q : Nat))).length < 16) →
      ∃ u, exec (.qBind q v) s = .next (settle u) ∧ u = { s with regs := u.regs, host := u.host }
        ∧ reg u (Reg.Q_BIND q) = Nat.land v 0x803F00FF ∧ RegsKept s u [Reg.Q_BIND q]
        ∧ pairOf u q = { pairOf s q with hsnNext := 0, dsnNext := 0, window := [], replay := none, replayResult := 0 })
    ∧ (∀ (s : State) (q : PairNo) (d : Code32), hostReaches s (Reg.Q_REPLAY_FROM q) = true → (pairOf s q).replay = none →
      ((d : Nat) ≠ (pairOf s q).dsnNext → (∀ c ∈ (pairOf s q).window, c.dsn ≠ d) →
        exec (.qReplayFrom q d) s = .next (settle (freeEnded (setPair s q { pairOf s q with replayResult := 2 }))))
      ∧ ((∃ c ∈ (pairOf s q).window, c.dsn = recordStart (pairOf s q) d ∧ ∃ x ∈ (pairOf s q).window, x.dsn = d) →
        exec (.qReplayFrom q d) s = .next (settle (freeEnded
          (flushAll (setPair s q { pairOf s q with
            replay := some (recordStart (pairOf s q) d), replayEnd := (pairOf s q).dsnNext }) q))))
      ∧ ((d : Nat) = (pairOf s q).dsnNext → (∀ c ∈ (pairOf s q).window, c.dsn ≠ d) →
        exec (.qReplayFrom q d) s = .next (settle (freeEnded
          (flushAll (setPair s q { pairOf s q with replay := some (d : Nat), replayEnd := (pairOf s q).dsnNext }) q)))))
    ∧ (∀ (s : State) (q : PairNo), (pairOf s q).replay = some (pairOf s q).replayEnd →
      ∃ u, exec (.replayComplete q) s = .next (settle (freeEnded u))
        ∧ u = flushAll (setPair s q { pairOf s q with replay := none, replayResult := 1 }) q
        ∧ (pairOf u q).replay = none ∧ (pairOf u q).replayResult = 1)
    ∧ (∀ (s : State) (q : PairNo) (b : Nat), (pairOf s q).timer = some b →
      (bits (reg s (Reg.Q_COAL q)) 31 16 ≠ 0 → isDue s (addBeats b (bits (reg s (Reg.Q_COAL q)) 31 16)) = true →
        s.twin.silent = false →
        exec (.coalTimer q) s = .next (settle (setPair
          { s with emitted := s.emitted ++ [.msix (qFn s q) (bits (reg s (Reg.Q_VECTOR q)) 4 0)] } q
          { pairOf s q with since := 0, timer := none })))
      ∧ ((bits (reg s (Reg.Q_COAL q)) 31 16 = 0 ∨ isDue s (addBeats b (bits (reg s (Reg.Q_COAL q)) 31 16)) = false
          ∨ s.twin.silent = true) →
        exec (.coalTimer q) s = .next (settle s)))

/-- An entry at the head of a running pair with a linked port is taken when its HSN is the next: the head moves on and the HSN
after it is next; a QUERY that passes the checks arrives at its account's queue, a NOP is answered, a CANCEL acts as
SERVE_CANCEL for the function's own requests, and an entry of any of them with a reserved bit set, or with an OPCODE that is
not defined, answers MALFORMED with code 0x01; then the function's job keys that expire at this HSN are erased. Whatever its
opcode, an entry whose HSN is behind is dropped as a duplicate, counted; one whose HSN is ahead stops the pair with its head
in place and raises GAP; an HSN at distance 2^31 is dropped and counted out of window. A command whose pair is not ready, or
whose entry has another opcode, changes nothing. ADMIT_OPEN completes: setting OPEN is taken on a sealed module that is no
standby and has declared no FAULT, and leaves it set, else it changes nothing; clearing it is always taken. ADMIT_DECISION
completes: at a decision edge of a module in stage READY with no queued head, that admits, it only makes the switches due
effective; elsewhere it changes nothing. -/
def Obligations.SubmissionsAreTakenInOrder : Prop :=
  (∀ (s : State) (q : PairNo) (e d : List Byte) (ok : Bool), pairReady s q = true → subHsn e = (pairOf s q).hsnNext →
      let p := pairOf s q
      let t := setPair s q { p with sqHead := (p.sqHead + 1) % sqSize s q, hsnNext := (p.hsnNext + 1) % 2 ^ 32, hsnLast := p.hsnNext }
      let o := hostOrigin s q e
      let taken : State → Host.Outcome State Fault Refusal := fun u =>
        .next (settle (freeEnded (expireSource u (qFn s q) q (subHsn e))))
      (subOpcode e = 1 → subOpcodeGood e = true → rangeAllowed s (qFn s q) (subAddr e) (subLen e) = true →
        rangeAllowed s (qFn s q) (subResultAddr e) (subResultLen e) = true → ok = true →
        exec (.submitQuery q e d ok) s = taken (match checkQuery t o (qAccount s q) e d with
          | .inl r => arrive t r
          | .inr f => hostMalformed t q o f))
      ∧ (subOpcode e = 0 → subOpcodeGood e = true →
        exec (.submitNop q e) s = taken (post t q 0x06 0xFFFFFFFF (subHsn e) [natLE 8 (subTag e)]))
      ∧ (subOpcode e = 2 → subOpcodeGood e = true →
        exec (.submitCancel q e) s = taken (cancelSub t o (ofFunction (qFn s q)) e))
      ∧ (subOpcodeGood e = false →
        (subOpcode e ≠ 0 → subOpcode e ≠ 2 → exec (.submitQuery q e d ok) s = taken (hostMalformed t q o (0x01, 0xFFFFFFFF)))
        ∧ (subOpcode e = 0 → exec (.submitNop q e) s = taken (hostMalformed t q o (0x01, 0xFFFFFFFF)))
        ∧ (subOpcode e = 2 → exec (.submitCancel q e) s = taken (hostMalformed t q o (0x01, 0xFFFFFFFF)))))
    ∧ (∀ (s : State) (q : PairNo) (e d : List Byte) (ok : Bool) (c : Instr), pairReady s q = true → subHsn e ≠ (pairOf s q).hsnNext →
      (c = .submitQuery q e d ok ∧ subOpcode e ≠ 0 ∧ subOpcode e ≠ 2) ∨ (c = .submitNop q e ∧ subOpcode e = 0)
        ∨ (c = .submitCancel q e ∧ subOpcode e = 2) →
      let p := pairOf s q
      let t := setPair s q { p with sqHead := (p.sqHead + 1) % sqSize s q }
      (serialLt 32 (subHsn e) p.hsnNext = true → exec c s = .next (settle (freeEnded (bump t (Reg.Q_CNT_DUP q)))))
      ∧ (serialLt 32 (subHsn e) p.hsnNext = false → serialLt 32 p.hsnNext (subHsn e) = true →
        exec c s = .next (settle (freeEnded (setBits (setPair s q { p with gap := true }) (Reg.Q_INT_STATUS q) 4))))
      ∧ (serialLt 32 (subHsn e) p.hsnNext = false → serialLt 32 p.hsnNext (subHsn e) = false →
        exec c s = .next (settle (freeEnded (bump t (Reg.Q_CNT_OOW q))))))
    ∧ (∀ (s : State) (q : PairNo) (e d : List Byte) (ok : Bool) (c : Instr),
      (c = .submitQuery q e d ok ∧ (pairReady s q = false ∨ subOpcode e = 0 ∨ subOpcode e = 2))
        ∨ (c = .submitNop q e ∧ (pairReady s q = false ∨ subOpcode e ≠ 0))
        ∨ (c = .submitCancel q e ∧ (pairReady s q = false ∨ subOpcode e ≠ 2)) → exec c s = .next (settle s))
    ∧ (∀ s : State, hostReaches s Reg.ADMIT_CTRL = true → isSealed s = true → standby s = false → s.twin.declared = [] →
      ∃ u, exec (.admitOpen true) s = .next (settle u) ∧ admitOpen u = true)
    ∧ (∀ s : State, hostReaches s Reg.ADMIT_CTRL = true → (isSealed s = false ∨ standby s = true ∨ s.twin.declared ≠ []) →
      exec (.admitOpen true) s = .next (settle s))
    ∧ (∀ s : State, hostReaches s Reg.ADMIT_CTRL = true → ∃ u, exec (.admitOpen false) s = .next (settle u) ∧ ∀ a, queueOf u a = [])
    ∧ (∀ s : State, s.time.ck % 16 = 0 → s.time.ck ≤ 1488 → s.time.reloadPending = false → hasCount s = true → isSealed s = true →
      s.topo.stage = .ready → pairAdmits s = true → s.adm.decided ≠ some (now s) → (∀ p ∈ s.adm.queues, p.2 = []) →
      exec .admitDecision s = .next (settle (dueSwitches s)))
    ∧ (∀ s : State, (s.time.ck % 16 ≠ 0 ∨ hasCount s = false ∨ isSealed s = false ∨ s.topo.stage ≠ .ready) →
      exec .admitDecision s = .next (settle s))

/-- A read of MB_LOCK by a requester with reach acquires a free lock at this edge and returns 0; of its own lock it returns 0, of
another's the owner, counted as denied, and nothing else changes. A write of its number by the owner frees the channel and
zeroes both areas; any other counts as a bad release. A lock held for MB_LOCK_TIMEOUT is freed by force, counted and raised;
a message the Keystone has not started is abandoned with LOCK_LOST, unless the module is silent, and one it has started loses
its response. A doorbell of a requester that may write makes the message pending, with DONE and MB_ACK cleared; while one is
pending it counts busy. The Keystone answers the next message, when it does not know it, with UNKNOWN_COMMAND, and one it has
not started within one measure, never an earlier one, with BUSY: MB_ACK takes the message's identifier and the code, DONE is
set and ACK raised. -/
def Obligations.MailboxLocksAndMessages : Prop :=
  (∀ (s : State) (c : ChanNo) (n : ReqNo), chanReach s c n = true → hostReaches s (Reg.MB_LOCK c) = true → s.twin.silent = false →
      ((chanOf s c).owner = none →
        exec (.mbLockRead c n) s = .next (settle (emit (setChan s c { chanOf s c with owner := some (n : Nat), since := now s })
          (.readData (Reg.MB_LOCK c) 4 0))))
      ∧ ((chanOf s c).owner = some (n : Nat) →
        exec (.mbLockRead c n) s = .next (settle (emit s (.readData (Reg.MB_LOCK c) 4 0))))
      ∧ (∀ m, (chanOf s c).owner = some m → m ≠ (n : Nat) →
        exec (.mbLockRead c n) s = .next (settle (emit (bump s Reg.MB_CNT_LOCK_DENIED) (.readData (Reg.MB_LOCK c) 4 m))))
      ∧ ((chanOf s c).owner = some (n : Nat) → ∀ v : Code32, (v : Nat) = (n : Nat) →
        exec (.mbLockRelease c n v) s = .next (settle (setChan s c { chanOf s c with
          owner := none, data := List.replicate 256 0, resp := List.replicate 256 0 })))
      ∧ (∀ v : Code32, ((chanOf s c).owner ≠ some (n : Nat) ∨ (v : Nat) ≠ (n : Nat)) →
        exec (.mbLockRelease c n v) s = .next (settle (bump s Reg.MB_CNT_BAD_RELEASE))))
    ∧ (∀ (s : State) (c : ChanNo) (m : Nat), (chanOf s c).owner = some m →
      isDue s (addBeats (chanOf s c).since (bits (reg s Reg.MB_LOCK_TIMEOUT) 23 0)) = true →
      ∃ u, exec (.lockExpired c) s = .next (settle u) ∧ u = { s with regs := u.regs, evt := u.evt, host := u.host }
        ∧ (chanOf u c).owner = none ∧ (chanOf u c).data = List.replicate 256 0 ∧ (chanOf u c).resp = List.replicate 256 0
        ∧ (∀ d, d ≠ (c : Nat) → chanOf u d = chanOf s d)
        ∧ reg u Reg.MB_CNT_EXPIRED = min (reg s Reg.MB_CNT_EXPIRED + 1) 0xFFFFFFFF ∧ regBit u (Reg.MB_INT_STATUS c) 1 = true
        ∧ (∀ len id k, (chanOf s c).pending = some (len, id, k) → (chanOf s c).started = false → id < 65536 →
            (s.twin.silent = false → (chanOf u c).pending = none ∧ reg u (Reg.MB_ACK c) = id * 65536 + 6)
            ∧ (s.twin.silent = true → (chanOf u c).pending = (chanOf s c).pending ∧ reg u (Reg.MB_ACK c) = reg s (Reg.MB_ACK c)))
        ∧ (∀ p, (chanOf s c).pending = some p → (chanOf s c).started = true →
            (chanOf u c).pending = some p ∧ (chanOf u c).lost = true ∧ reg u (Reg.MB_ACK c) = reg s (Reg.MB_ACK c)))
    ∧ (∀ (s : State) (c : ChanNo) (n : ReqNo) (len : Fin 512) (id : Code16), hostReaches s (Reg.MB_DOORBELL c) = true →
      chanMay s c n = true → s.twin.silent = false →
      ((chanOf s c).pending = none → ((c : Nat) < 16 ∨ ((c : Nat) < 24 ∧ s.sec.session.mode = .opened)) →
        ∃ u, exec (.mbDoorbell c n len id) s = .next (settle u) ∧ u = { s with regs := u.regs, host := u.host }
          ∧ chanOf u c = { chanOf s c with
              pending := some ((len : Nat), (id : Nat), (n : Nat)), started := false, lost := false, done := false, respLen := 0
              since := now s, rung := now s }
          ∧ reg u (Reg.MB_ACK c) = 0 ∧ RegsKept s u [Reg.MB_ACK c])
      ∧ ((chanOf s c).pending ≠ none → (c : Nat) < 24 →
        exec (.mbDoorbell c n len id) s = .next (settle (bump s Reg.MB_CNT_BUSY))))
    ∧ (∀ (s : State) (c : ChanNo) (code : Code16) (len id n : Nat), s.sec.report = none → (c : Nat) < 16 → id < 65536 →
      (chanOf s c).pending = some (len, id, n) → (chanOf s c).started = false → (chanOf s c).lost = false → s.twin.silent = false →
      (((code : Nat) = 1 ∧ isDue s (addBeats (chanOf s c).rung (measureN s)) = true)
        ∨ ((code : Nat) ≠ 1 ∧ nextChannel s = some (c : Nat) ∧ 2 ≤ len ∧ len ≤ 256
          ∧ [0x0111, 0x0201, 0x0202].contains (le ((chanOf s c).data.take len) 0 2) = false)) →
      ∃ u, exec (.mbAck c code) s = .next (settle u) ∧ u = { s with regs := u.regs, host := u.host }
        ∧ (chanOf u c).pending = none ∧ (chanOf u c).done = true ∧ (chanOf u c).respLen = 0
        ∧ (chanOf u c).owner = (chanOf s c).owner ∧ (chanOf u c).data = (chanOf s c).data
        ∧ reg u (Reg.MB_ACK c) = id * 65536 + (if (code : Nat) = 1 then 1 else 2) ∧ regBit u (Reg.MB_INT_STATUS c) 0 = true
        ∧ RegsKept s u [Reg.MB_ACK c, Reg.MB_INT_STATUS c])
    ∧ (∀ (s : State) (c : ChanNo) (code : Code16), s.sec.report = none → (code : Nat) = 1 →
      isDue s (addBeats (chanOf s c).rung (measureN s)) = false → exec (.mbAck c code) s = .next (settle s))

/-- A function-level reset clears ENABLE of every pair bound to the function, drops its submissions not yet taken and frees its
mailbox locks; other pairs and locks stay; of function 0 it closes the secure session, of another the security engine keeps
everything. A hot reset or a link loss does so for every function, closes the session, counts in HQ_CNT_LINK_DOWN and takes
the link down until it trains again. The link trains in every stage but POWER: from its saved record where that may be used
and passes its verification pattern, which counts and raises SAVED_REJECTED when it fails, else in full, counted, with a new
record not yet saved; HQ_LINK takes its rate, width and modes, with DEGRADED set unless 8 lanes trained at 128 GT/s, and held
entries of every pair follow. What a record holds beside the spec's fields is the model's choice (log 71). -/
def Obligations.PortResetsReachTheirFunctions : Prop :=
  (∀ (s : State) (f : FnNo),
      ∃ u, exec (.functionLevelReset f) s = .next (settle u)
        ∧ u = { s with regs := u.regs, evt := u.evt, host := u.host, sec := u.sec }
        ∧ (∀ q, q < 256 → qBound s q = true → qFn s q = (f : Nat) →
            qEnabled u q = false ∧ pairOf u q = { pairOf s q with gap := false, sqTail := (pairOf s q).sqHead })
        ∧ (∀ q, q < 256 → (qBound s q = false ∨ qFn s q ≠ (f : Nat)) → qEnabled u q = qEnabled s q ∧ pairOf u q = pairOf s q)
        ∧ (∀ c, c < 32 → (chanOf s c).owner = some ((f : Nat) + 1) → (chanOf u c).owner = none)
        ∧ (∀ c, c < 32 → (chanOf s c).owner ≠ some ((f : Nat) + 1) → chanOf u c = chanOf s c)
        ∧ ((f : Nat) ≠ 0 → u.sec = s.sec) ∧ ((f : Nat) = 0 → u.sec = { s.sec with session := Session.reset })
        ∧ u.host.linkUp = s.host.linkUp)
    ∧ (∀ (s : State) (lost : Bool),
      ∃ u, exec (.hotReset lost) s = .next (settle u)
        ∧ u = { s with regs := u.regs, evt := u.evt, host := u.host, sec := { s.sec with session := Session.reset } }
        ∧ (∀ q, q < 256 → qBound s q = true → qEnabled u q = false ∧ (pairOf u q).sqTail = (pairOf s q).sqHead)
        ∧ (∀ c m, c < 32 → (chanOf s c).owner = some m → 1 ≤ m → m ≤ 64 → (chanOf u c).owner = none)
        ∧ reg u Reg.HQ_CNT_LINK_DOWN = min (reg s Reg.HQ_CNT_LINK_DOWN + 1) 0xFFFFFFFF
        ∧ u.host.linkUp = false)
    ∧ (∀ (s : State) (link : Code32) (x : LinkTraining), s.topo.stage ≠ .power →
      let t := trainUnit s .hostPort { x with partner := [] }
      ∃ u, exec (.hostLinkUp link x) s = .next (settle (freeEnded u))
        ∧ u = { s with regs := u.regs, evt := u.evt, host := u.host, emitted := u.emitted, topo := t.topo }
        ∧ u.host.linkUp = true ∧ reg u Reg.HQ_LINK = linkTrained link
        ∧ (bit (reg u Reg.HQ_LINK) 10 = false ↔ bits link 3 0 = 7 ∧ bits link 8 4 = 8) ∧ u.host.chans = s.host.chans
        ∧ TrainUnit.hostPort ∈ u.topo.trained
        ∧ (t.topo.unsaved ≠ s.topo.unsaved →
            u.topo.unsaved = s.topo.unsaved.filter (fun y => decide (y.1 ≠ .hostPort)) ++ [(.hostPort, recordNow s [] x.t16)])
        ∧ RegsKept s u [Reg.HQ_LINK, Reg.TOPO_CNT_TRAIN_FULL, Reg.TOPO_CNT_SAVED_REJECT, Reg.TOPO_INT_STATUS])
    ∧ (∀ (s : State) (x : LinkTraining), (s.topo.stage = .power → ∀ link : Code32, exec (.hostLinkUp link x) s = .next (settle (freeEnded s)))
      ∧ (ignoresRecord s .hostPort = true ∨ savedRecord s .hostPort = none →
          reg (trainUnit s .hostPort x) Reg.TOPO_CNT_TRAIN_FULL = min (reg s Reg.TOPO_CNT_TRAIN_FULL + 1) 0xFFFFFFFF
            ∧ (TrainUnit.hostPort, recordNow s x.partner x.t16) ∈ (trainUnit s .hostPort x).topo.unsaved)
      ∧ (∀ r, ignoresRecord s .hostPort = false → savedRecord s .hostPort = some r → recordUsable s r x.crcBad x.partner x.t16 = true →
          (x.weak = false → reg (trainUnit s .hostPort x) Reg.TOPO_CNT_TRAIN_FULL = reg s Reg.TOPO_CNT_TRAIN_FULL
            ∧ (trainUnit s .hostPort x).topo.unsaved = s.topo.unsaved)
          ∧ (x.weak = true → reg (trainUnit s .hostPort x) Reg.TOPO_CNT_SAVED_REJECT = min (reg s Reg.TOPO_CNT_SAVED_REJECT + 1) 0xFFFFFFFF
            ∧ regBit (trainUnit s .hostPort x) Reg.TOPO_INT_STATUS 0 = true
            ∧ (TrainUnit.hostPort, recordNow s x.partner x.t16) ∈ (trainUnit s .hostPort x).topo.unsaved)))

/-- With the channel the next that the Keystone serves, its message's code the command's, and the module not silent: SESSION_OPEN
on channel 16 outside an open session starts the handshake with the host's nonce and two fresh random values, writes the
chain, the ephemeral key, the module's nonce and the signature to the host's buffer, and answers OK. SESSION_KEY in HANDSHAKE
opens the session with the two keys derived from the shared secret and both nonces, its counters 0. JOB_KEY_OPEN by a
function on a channel below 16 stores the derived key in the lowest free slot under a handle of slot, next generation and
role, bound to that function, and answers the handle. For a pod peer whose port resets it answers UNIT_UNAVAILABLE and
changes no key. JOB_KEY_CLOSE by the key's source empties its slot; of an unknown handle it answers 0x8004 and changes no
key. A debug unlock ends at its expiry, not before, and SVC_AUX then drives low. The lowest free slot (log 19), the
generations and the marks (log 41) are the model's choices. -/
def Obligations.SessionAndJobKeyCommands : Prop :=
  (∀ (s : State) (nonce : List Byte) (addr : Code64) (len id n : Nat), s.twin.silent = false → s.sec.session.mode ≠ .opened →
      nextChannel s = some 16 → (chanOf s 16).pending = some (len, id, n) → (chanOf s 16).lost = false →
      2 ≤ len → len ≤ 256 → le ((chanOf s 16).data.take len) 0 2 = 0x0101 →
      let eph := Config.random s.fresh 64
      let dev := Config.random (s.fresh + 1) 32
      let pub := kemPublic eph
      ∃ u, exec (.sessionOpen nonce addr true) s = .next (settle u)
        ∧ u = { s with
            regs := u.regs, host := u.host, fresh := s.fresh + 3
            sec := { s.sec with
              session := { Session.reset with mode := .handshake, hostNonce := nonce, devNonce := dev, ephem := eph } }
            emitted := s.emitted ++ [.hostWrite 0 addr (certChain ++ pub ++ dev ++ identitySign s (s.fresh + 2) (nonce ++ dev ++ pub))] }
        ∧ (chanOf u 16).pending = none ∧ (chanOf u 16).done = true ∧ reg u (Reg.MB_ACK 16) = id % 65536 * 65536
        ∧ RegsKept s u [Reg.MB_ACK 16, Reg.MB_INT_STATUS 16])
    ∧ (∀ (s : State) (ct : List Byte) (len id n : Nat), s.twin.silent = false → s.sec.session.mode = .handshake →
      nextChannel s = some 16 → (chanOf s 16).pending = some (len, id, n) → (chanOf s 16).lost = false →
      2 ≤ len → len ≤ 256 → le ((chanOf s 16).data.take len) 0 2 = 0x0102 →
      let x := s.sec.session
      let k := kdf "OPF-SESS" (kemDecap x.ephem ct ++ x.hostNonce ++ x.devNonce) 64
      ∃ u, exec (.sessionKey ct true) s = .next (settle u)
        ∧ u = { s with
            regs := u.regs, host := u.host
            sec := { s.sec with session := { Session.reset with mode := .opened, keyIn := k.take 32, keyOut := k.drop 32 } } }
        ∧ (chanOf u 16).pending = none ∧ reg u (Reg.MB_ACK 16) = id % 65536 * 65536)
    ∧ (∀ (s : State) (c : ChanNo) (ct : List Byte) (len id n i : Nat), s.twin.silent = false → (c : Nat) < 16 → journals s = false →
      nextChannel s = some (c : Nat) → (chanOf s c).pending = some (len, id, n) → (chanOf s c).lost = false →
      2 ≤ len → len ≤ 256 → le ((chanOf s c).data.take len) 0 2 = 0x0201 → 1 ≤ n → n ≤ 64 → freeJobSlot s = some i →
      let g := nextGen (tget (fun _ => 0) s.sec.jobGen i)
      let h := i + g % 65536 * 32768 + (if s.twin.role = true then 2 ^ 31 else 0)
      ∃ u, exec (.jobKeyOpen c none ct true) s = .next (settle u) ∧ u = { s with regs := u.regs, host := u.host, sec := u.sec }
        ∧ tget (fun _ => none) u.sec.jobKeys i = some
            { handle := h, source := n - 1
              key := kdf "OPF-JOB" (kemDecap (engineKeys s).kem ct ++ natLE 8 deviceId ++ natLE 8 (n - 1)) 32
              seqAt := s.serve.nextSeq, marks := sourceMarks s (n - 1) }
        ∧ (∀ j, j ≠ i → tget (fun _ => none) u.sec.jobKeys j = tget (fun _ => none) s.sec.jobKeys j)
        ∧ u.sec.assetKeys = s.sec.assetKeys ∧ u.sec.session = s.sec.session
        ∧ (chanOf u c).pending = none ∧ (chanOf u c).resp.take 4 = natLE 4 h ∧ reg u (Reg.MB_ACK c) = id % 65536 * 65536)
    ∧ (∀ (s : State) (c : ChanNo) (p : Fin 65536) (ct : List Byte) (len id : Nat), s.twin.silent = false → (c : Nat) < 16 →
      nextChannel s = some (c : Nat) → (chanOf s c).pending = some (len, id, 1) → (chanOf s c).lost = false →
      2 ≤ len → len ≤ 256 → le ((chanOf s c).data.take len) 0 2 = 0x0201 → (unitSt s 3 ((p : Nat) / 256)).mode = .resetting →
      ∃ u, exec (.jobKeyOpen c (some p) ct true) s = .next (settle u) ∧ u = { s with regs := u.regs, host := u.host }
        ∧ reg u (Reg.MB_ACK c) = id % 65536 * 65536 + 7)
    ∧ (∀ (s : State) (c : ChanNo) (h : Code32) (len id n : Nat), s.twin.silent = false → (c : Nat) < 16 → journals s = false →
      nextChannel s = some (c : Nat) → (chanOf s c).pending = some (len, id, n) → (chanOf s c).lost = false →
      2 ≤ len → len ≤ 256 → le ((chanOf s c).data.take len) 0 2 = 0x0202 →
      (jobKeyOf s h = none →
        ∃ u, exec (.jobKeyClose c h) s = .next (settle u) ∧ u = { s with regs := u.regs, host := u.host }
          ∧ reg u (Reg.MB_ACK c) = id % 65536 * 65536 + 0x8004)
      ∧ (∀ k, jobKeyOf s h = some k → (k.source = n - 1 ∨ (65536 ≤ k.source ∧ n = 1)) →
        ∃ u, exec (.jobKeyClose c h) s = .next (settle u) ∧ u = { s with regs := u.regs, host := u.host, sec := u.sec }
          ∧ jobKeyOf u h = none ∧ u.sec = { s.sec with jobKeys := u.sec.jobKeys }
          ∧ (∀ j, j ≠ bits h 13 0 → tget (fun _ => none) u.sec.jobKeys j = tget (fun _ => none) s.sec.jobKeys j)
          ∧ reg u (Reg.MB_ACK c) = id % 65536 * 65536))
    ∧ (∀ (s : State) (t : Nat), s.sec.unlocked = some t →
      (isDue s t = true →
        exec .debugExpiry s = .next (settle { s with sec := { s.sec with unlocked := none, token := [], auxOff := some s.time.rawBeats } })
        ∧ svcAux { s with sec := { s.sec with unlocked := none, token := [], auxOff := some s.time.rawBeats } } = .low)
      ∧ (isDue s t = false → exec .debugExpiry s = .next (settle s)))

/-- Under an open session, with a message of 20 to 256 bytes on a secure channel that is the next that the Keystone serves, and
the module not silent: a message whose counter or tag fails closes the session; one that opens to another command is left for
its own; one that opens to the command uses its counter up and has the command's effect: SESSION_CLOSE closes the session,
GET_REPORT starts the one report with its nonce, KEY_RELEASE installs the key in place of an earlier one, KEY_REVOKE erases
it, ENROLL_ROOT adds a root that an enrolled one signed, SET_FLOOR raises a floor that a root signed and never lowers one,
DEBUG_UNLOCK of a token for this device and a nonce it has reported erases every key, unlocks, takes the pair to ABSENT, and
has SVC_AUX drive the trace clock. Every other outcome answers its code and changes no key, root or floor. The codes of the
corners are the model's reading (log 41). -/
def Obligations.SessionMessagesRunTheirCommand : Prop :=
  (∀ (s : State) (c : ChanNo) (len id n : Nat), s.twin.silent = false → s.sec.session.mode = .opened → 16 ≤ (c : Nat) →
    nextChannel s = some (c : Nat) → (chanOf s c).pending = some (len, id, n) → 20 ≤ len → len ≤ 256 →
    let r := setSession s { s.sec.session with ctrIn := s.sec.session.ctrIn + 1 }
    let run (code : Nat) (act : State) : State := match messageOf s c len with
      | none => refuseSession s c
      | some m => if le m 0 2 = code then act else s
    exec (.sessionClose c) s = .next (settle (run 0x0103 (ackRaw (setSession r Session.reset) c 0 [])))
    ∧ (∀ nonce (addr : Code64), s.sec.report = none →
        ∃ t, exec (.getReport c nonce addr) s = .next (settle (run 0x0111 t))
          ∧ t.sec.report = some ((c : Nat), nonce, (addr : Nat)) ∧ t.sec.session.nonces = s.sec.session.nonces ++ [nonce]
          ∧ chanOf t c = { chanOf s c with started := true } ∧ t.regs = s.regs)
    ∧ (∀ o ok, exec (.keyRelease c o ok) s = .next (settle (run 0x0120 (
        if ok = false then ackChan r c 0x8005 []
        else match openRelease s o with
          | none => ackChan r c 0x8001 []
          | some k =>
            if 256 ≤ s.sec.assetKeys.length ∧ (s.sec.assetKeys.any fun x => decide (x.id = k.id)) = false then ackChan r c 0x8003 []
            else ackChan (setAssetKeys r ((s.sec.assetKeys.filter fun x => decide (x.id ≠ k.id)) ++ [k])) c 0 []))))
    ∧ (∀ i : Code64, exec (.keyRevoke c i) s = .next (settle (run 0x0121 (
        if (s.sec.assetKeys.any fun x => decide (x.id = i)) = true
        then ackChan (setAssetKeys r (s.sec.assetKeys.filter fun x => decide (x.id ≠ i))) c 0 [] else ackChan r c 0x8004 []))))
    ∧ (∀ key sig ok, exec (.enrollRoot c key sig ok) s = .next (settle (run 0x0130 (
        if ok = false then ackChan r c 0x8005 []
        else if s.sec.owners ≠ [] ∧ (s.sec.owners.any fun x => slhVerify x key sig) = false then ackChan r c 0x8001 []
        else if 4 ≤ s.sec.owners.length then ackChan r c 0x8003 []
        else ackChan (setSec r { r.sec with owners := s.sec.owners ++ [key] }) c 0 []))))
    ∧ (∀ (i : Code64) (f : Code32) sig ok, exec (.setFloor c i f sig ok) s = .next (settle (run 0x0131 (
        if ok = false then ackChan r c 0x8005 []
        else if ((imageRoots s).any fun x => slhVerify x (natLE 8 i ++ natLE 4 f) sig) = false then ackChan r c 0x8001 []
        else if (f : Nat) < tget (fun _ => 0) s.sec.floors i then ackChan r c 0x8002 []
        else ackChan (setSec r { r.sec with floors := tset (fun _ => 0) s.sec.floors i f }) c 0 []))))
    ∧ (∀ (i : Code64) nonce (t : Code64) sig ok, exec (.debugUnlock c i nonce t sig ok) s = .next (settle (run 0x0140 (
        if ok = false then ackChan r c 0x8005 []
        else if ((if s.sec.owners = [] then [Config.imageRoot] else s.sec.owners).any fun x =>
            slhVerify x (natLE 8 i ++ nonce ++ natLE 8 t) sig) = false then ackChan r c 0x8001 []
        else if (i : Nat) ≠ deviceId ∨ s.sec.session.nonces.contains nonce = false ∨ (t : Nat) ≤ now s then ackChan r c 0x8002 []
        else ackChan (unlock r (natLE 8 i ++ nonce ++ natLE 8 t ++ sig) t) c 0 [])))))
    ∧ (∀ (s : State) (token : List Byte) (t : Nat),
      let u := unlock s token t
      u.sec.assetKeys = [] ∧ u.sec.jobKeys = [] ∧ u.sec.session = Session.reset ∧ u.sec.pairSecret = none ∧ u.twin.mode = .absent
        ∧ u.sec.unlocked = some t ∧ svcAux u = .traceClock ∧ regBit u Reg.SEC_INT_STATUS 3 = true ∧ regBit u Reg.BOND_INT_STATUS 8 = true)
    ∧ (∀ (s : State) (c code id len n : Nat) (resp : List Byte), (chanOf s c).pending = some (len, id, n) →
      (chanOf s c).lost = false → s.twin.silent = false → code < 65536 →
      let u := ackRaw s c code resp
      u = { s with regs := u.regs, host := u.host } ∧ (chanOf u c).pending = none ∧ (chanOf u c).done = true
        ∧ (chanOf u c).respLen = min 256 resp.length ∧ (chanOf u c).resp.take (min 256 resp.length) = resp.take 256
        ∧ reg u (Reg.MB_ACK c) = id % 65536 * 65536 + code ∧ regBit u (Reg.MB_INT_STATUS c) 0 = true)

/-- A port that does not run takes no frame. On a running port a frame with a good FCS is dropped and counted for a wrong
EtherType, no matching peer, a bad header, or a full ingress buffer. An accepted message advances the peer's receive SEQ past
the frame and belongs to a matching, enabled peer; it goes by type: REQUEST of a client peer is checked as a submission,
CANCEL cancels that peer's request, a SEL_RUN goes to the request it belongs to at the root, TOK_REQ is answered from the own
store, TOK_REPLY taken, COLL written to its region and counted; a message that belongs to no request counts in
POD_CNT_UNMATCHED. A part is kept, a HELLO is acknowledged, an ACK has done its work when it is accepted. The last part of a
message whose part 0 was not received counts and is discarded; of a client's REQUEST that is a failed FETCH, answered
MALFORMED with code 0x02. A message erases its peer's job keys that expire at its MSG_ID. A run that arrives after the merge
was formed or after its deadline marks the request SHARD_LATE and counts; one of another score key marks KEY_MISMATCH and
counts; a second one of a shard, or one of the root's own shard, counts as a duplicate; else it is kept after the runs there
were. Nothing but the request and those registers changes. -/
def Obligations.PodFramesPassTheirStages : Prop :=
  (∀ (s : State) (n : PortNo) (f : RxFrame), portRuns s n = false →
      ∀ c ∈ [Instr.podFrameDrop n f, .messagePart n f, .podRequest n f, .podCancel n f, .selRun n f, .tokReq n f, .tokReply n f,
        .coll n f true, .hello n f, .podAck n f], exec c s = .next (settle s))
    ∧ (∀ (s : State) (n : PortNo) (f : RxFrame), portRuns s n = true → f.fcs = true →
      let o := etherAt f.bytes
      let h := f.bytes.drop (o + 2)
      let et := leNat (slice f.bytes o 2).reverse
      let peer := matchPeer s n (leNat (slice f.bytes 6 6).reverse) (le h 2 2)
      (et ≠ bits (reg s (Reg.POD_ETHERTYPE n)) 15 0 →
        exec (.podFrameDrop n f) s = .next (settle (bump s (Reg.POD_CNT_ETYPE n))))
      ∧ (et = bits (reg s (Reg.POD_ETHERTYPE n)) 15 0 → peer = none →
        exec (.podFrameDrop n f) s = .next (settle (bump s (Reg.POD_CNT_UNKNOWN_PEER n))))
      ∧ (∀ i, et = bits (reg s (Reg.POD_ETHERTYPE n)) 15 0 → peer = some i →
        (headerGood h = false → exec (.podFrameDrop n f) s = .next (settle (bump s (Reg.POD_CNT_CRC n))))
        ∧ (headerGood h = true → bit (peerOf s n i).ctrl 26 = false →
            bufferDrops s n (f.bytes.length + 4) f.fill (bits (le h 1 1) 5 4) = true →
            exec (.podFrameDrop n f) s = .next (settle (bump s (Reg.POD_CNT_BUF_DROP n))))))
    ∧ (∀ (s t : State) (n : PortNo) (f : RxFrame) (i ty m : Nat) (body : List Byte), receive s n f = .message t i ty m body →
      (t = { s with regs := t.regs, evt := t.evt, pod := t.pod, sec := { s.sec with jobKeys := t.sec.jobKeys } }
        ∧ (∀ k, k ∈ t.sec.jobKeys → k ∈ s.sec.jobKeys) ∧ (peerOf s n i).enabled = true
        ∧ (peerOf t n i).rxNext = (le (f.bytes.drop (etherAt f.bytes + 2)) 8 4 + 1) % 2 ^ 32 ∧ (peerOf t n i).rxMsg = m)
      ∧ (ty = 0x01 → (peerOf t n i).client = true →
        let e := body.take 64
        let o := Origin.pod n i m (subTag e)
        exec (.podRequest n f) s = .next (settle (
          if subOpcodeGood e = false ∨ subOpcode e ≠ 1 then malformed t o (0x01, 0xFFFFFFFF)
          else match checkQuery t o (peerOf t n i).account e (body.drop 64) with
            | .inl r => arrive t r
            | .inr x => malformed (countFail t x) o x)))
      ∧ (ty = 0x02 → (peerOf t n i).client = true → subOpcodeGood (body.take 64) = true → subOpcode (body.take 64) = 2 →
        exec (.podCancel n f) s
          = .next (settle (cancelSub t (.pod n i m (subTag (body.take 64))) (ofPeer n i) (body.take 64))))
      ∧ (∀ r, shardReq t body = some r →
        (ty = 0x10 → isRoot t r = true → exec (.selRun n f) s = .next (settle (takeRun t r body)))
        ∧ (ty = 0x11 → exec (.tokReq n f) s = .next (settle (answerTokens t n i r body)))
        ∧ (ty = 0x12 → exec (.tokReply n f) s = .next (settle (takeReply t r body))))
      ∧ (shardReq t body = none →
        (ty = 0x10 → exec (.selRun n f) s = .next (settle (bump t (Reg.POD_CNT_UNMATCHED n))))
        ∧ (ty = 0x11 → exec (.tokReq n f) s = .next (settle (bump t (Reg.POD_CNT_UNMATCHED n))))
        ∧ (ty = 0x12 → exec (.tokReply n f) s = .next (settle (bump t (Reg.POD_CNT_UNMATCHED n)))))
      ∧ (ty = 0x30 → (peerOf t n i).client = false → inRegion t (le body 0 2) (le body 8 8) (body.length - 16) = true →
        ∃ u, exec (.coll n f true) s = .next (settle u) ∧ ldRead u (le body 0 2) (le body 8 8) (body.length - 16) = body.drop 16
          ∧ (∀ x, x < ldKey (le body 0 2) (le body 8 8) ∨ ldKey (le body 0 2) (le body 8 8) + (body.length - 16) ≤ x →
              memByte u.lpddr x = memByte s.lpddr x)))
    ∧ (∀ (s t : State) (n : PortNo) (f : RxFrame) (i : Nat),
      (receive s n f = .part t → exec (.messagePart n f) s = .next (settle t))
        ∧ (receive s n f = .hello t i → exec (.hello n f) s = .next (settle (sendAck t n i)) ∧ (peerOf t n i).rxNext = 1
            ∧ (peerOf t n i).unsynced = false)
        ∧ (receive s n f = .ack t i → exec (.podAck n f) s = .next (settle t))
        ∧ (∀ ty m, receive s n f = .lost t i ty m →
            exec (.podFrameDrop n f) s = .next (settle (lostMessage t n i ty m))
              ∧ (ty = 0x01 → exec (.podRequest n f) s = .next (settle (lostMessage t n i 0x01 m)))
              ∧ (ty ≠ 0x01 → lostMessage t n i ty m = t) ∧ ((peerOf t n i).client = false → lostMessage t n i ty m = t)
              ∧ ((peerOf t n i).client = true → ∃ tag, lostMessage t n i 0x01 m
                  = malformed { t with fresh := t.fresh + 1 } (.pod n i m tag) (0x02, 0xFFFFFFFF))))
    ∧ (∀ (s : State) (r : Req) (body : List Byte),
    let u := takeRun s r body
    let sid := le body 16 2
    let known := sid = ownShard s r ∨ ∃ x ∈ r.remote, x.shard = sid
    let late := (r.first.isSome = true ∧ ¬known) ∨ ∃ d, r.mergeBy = some d ∧ d < now s
    let other := (pinnedIndex s r.vset).map (·.scoreKey) ≠ some (le body 8 8)
    u = { s with regs := u.regs, evt := u.evt, front := u.front }
      ∧ RegsKept s u [Reg.SEL_CNT_SHARD_LATE, Reg.SEL_CNT_KEY_MISMATCH, Reg.SEL_CNT_SHARD_DUP, Reg.SEL_INT_STATUS]
      ∧ (∀ j, j ≠ r.key → reqOf u j = reqOf s j)
      ∧ (late → reqOf u r.key = some { r with shardLate := true }
          ∧ reg u Reg.SEL_CNT_SHARD_LATE = min (reg s Reg.SEL_CNT_SHARD_LATE + 1) 0xFFFFFFFF ∧ regBit u Reg.SEL_INT_STATUS 0 = true)
      ∧ (¬late → other → reqOf u r.key = some { r with keyMismatch := true }
          ∧ reg u Reg.SEL_CNT_KEY_MISMATCH = min (reg s Reg.SEL_CNT_KEY_MISMATCH + 1) 0xFFFFFFFF ∧ regBit u Reg.SEL_INT_STATUS 1 = true)
      ∧ (¬late → ¬other → known → reqOf u r.key = some { r with shardDup := true }
          ∧ reg u Reg.SEL_CNT_SHARD_DUP = min (reg s Reg.SEL_CNT_SHARD_DUP + 1) 0xFFFFFFFF)
      ∧ (¬late → ¬other → ¬known →
          reqOf u r.key = some { r with remote := r.remote ++ [.mk sid (runOf (body.drop 32))] } ∧ u.regs = s.regs))

/-- A frame that has passed the stages before the buffer is dropped and counted in POD_CNT_BUF_DROP when its COLOUR is then 1 or
2 and the buffer holds POD_YELLOW_THRESH KiB or more, and when it does not fit in the 4 MiB of the port's buffer; any other
frame goes on to the sequence stage. -/
def Obligations.IngressBufferDropsFrames : Prop :=
  ∀ (s t : State) (n : PortNo) (f : RxFrame) (i colour : Nat), portRuns s n = true → f.fcs = true →
    let o := etherAt f.bytes
    let h := f.bytes.drop (o + 2)
    let b := f.bytes.length + 4
    leNat (slice f.bytes o 2).reverse = bits (reg s (Reg.POD_ETHERTYPE n)) 15 0 →
    matchPeer s n (leNat (slice f.bytes 6 6).reverse) (le h 2 2) = some i → headerGood h = true →
    policeStage s n i b (bits (le h 1 1) 5 4) = (t, some colour) →
    ((((colour = 1 ∨ colour = 2) ∧ bits (reg t (Reg.POD_YELLOW_THRESH n)) 12 0 * 1024 ≤ f.fill) ∨ 4 * 2 ^ 20 < f.fill + b) →
        exec (.podFrameDrop n f) s = .next (settle (bump t (Reg.POD_CNT_BUF_DROP n))))
      ∧ (¬((colour = 1 ∨ colour = 2) ∧ bits (reg t (Reg.POD_YELLOW_THRESH n)) 12 0 * 1024 ≤ f.fill) → f.fill + b ≤ 4 * 2 ^ 20 →
        receive s n f = sequenceStage t n i b h)

/-- The acknowledgement timer, the retransmission timer, the retry of a DOWN peer and the expiry of waiting token records act
when due and not before; a timeout at POD_RETRY_MAX takes the peer DOWN. RESTART, and enabling a disabled peer, give its
stream a new epoch, SEQ 0 and an unsynchronised receive side. A port reset takes an available port's unit into RESETTING with
its epoch raised, once an edge, and its link down, and keeps every peer; ENABLE is set and cleared; link down is recorded,
and link up, for which the port trains and which returns a resetting unit to service. POL_CTRL sets the mode and fills both
buckets. A shaper write stores its field, a slope above 100,000 as 100,000 (the model's choice, log 38), and takes effect at
the next ck. A gate change gives the port its gates of the beat. A free running port sends the head frame of the class with
the turn while its deficit suffices, else of the next eligible class with its quantum added; none is eligible whose frames
all joined at this edge. -/
def Obligations.PodPortsAndPeersRun : Prop :=
  (∀ (s : State) (n : PortNo) (i : PeerNo),
      let p := peerOf s n i
      (p.enabled = true → 0 < p.unacked →
        (16 ≤ p.unacked ∨ isDue s (addBeats p.ackSince (bits (reg s (Reg.POD_ACK_DELAY n)) 7 0)) = true) →
        exec (.ackDelayExpiry n i) s = .next (settle (sendAck s n i)) ∧ (peerOf (sendAck s n i) n i).unacked = 0)
      ∧ ((p.enabled = false ∨ p.unacked = 0
          ∨ (p.unacked < 16 ∧ isDue s (addBeats p.ackSince (bits (reg s (Reg.POD_ACK_DELAY n)) 7 0)) = false)) →
        exec (.ackDelayExpiry n i) s = .next (settle s))
      ∧ (p.out ≠ [] → p.down = false → isDue s (addBeats p.rtoSince (bits (reg s (Reg.POD_RTO n)) 15 0)) = true →
        (bits (reg s (Reg.POD_RETRY_MAX n)) 7 0 ≤ p.timeouts + 1 →
          ∃ u, exec (.podRtoExpiry n i) s = .next (settle u) ∧ u = { s with regs := u.regs, pod := u.pod }
            ∧ peerOf u n i = { p with down := true, timeouts := p.timeouts + 1, rtoSince := now s }
            ∧ regBit u (Reg.POD_INT_STATUS n) 1 = true ∧ RegsKept s u [Reg.POD_INT_STATUS n])
        ∧ (p.timeouts + 1 < bits (reg s (Reg.POD_RETRY_MAX n)) 7 0 →
          ∃ u, exec (.podRtoExpiry n i) s = .next (settle u) ∧ u = { s with regs := u.regs, evt := u.evt, pod := u.pod }
            ∧ (peerOf u n i).out = p.out ∧ (peerOf u n i).timeouts = p.timeouts + 1
            ∧ reg u (Reg.POD_CNT_RETX n) = min (reg s (Reg.POD_CNT_RETX n) + p.out.length) 0xFFFFFFFF))
      ∧ ((p.out = [] ∨ p.down = true ∨ isDue s (addBeats p.rtoSince (bits (reg s (Reg.POD_RTO n)) 15 0)) = false) →
        exec (.podRtoExpiry n i) s = .next (settle s))
      ∧ (p.down = true → isDue s (addBeats p.rtoSince (16 * bits (reg s (Reg.POD_RTO n)) 15 0)) = true →
        exec (.peerRetry n i) s = .next (settle (resend s n i)) ∧ (peerOf (resend s n i) n i).down = true)
      ∧ ((p.down = false ∨ isDue s (addBeats p.rtoSince (16 * bits (reg s (Reg.POD_RTO n)) 15 0)) = false) →
        exec (.peerRetry n i) s = .next (settle s))
      ∧ (p.client = true →
        let old (f : PodFrame) : Bool := f.token && isDue s (addBeats f.since (64 * measureN s))
        (∃ f ∈ p.waiting, old f = true ∧ f.type ≠ 0x3E) →
        ∃ u, exec (.pendingExpiry n i) s = .next (settle u) ∧ u = { s with regs := u.regs, evt := u.evt, pod := u.pod }
          ∧ peerOf u n i = { p with waiting := p.waiting.filter fun f => !old f }
          ∧ regBit u (Reg.POD_INT_STATUS n) 2 = true)
      ∧ ((p.client = false ∨ ∀ f ∈ p.waiting, f.token = false ∨ isDue s (addBeats f.since (64 * measureN s)) = false) →
        exec (.pendingExpiry n i) s = .next (settle s))
      ∧ (p.enabled = true → hostReaches s (Reg.PEER_CMD n) = true →
        exec (.restart n i) s = .next (settle (restartPeer s n i)))
      ∧ (p.enabled = false → exec (.restart n i) s = .next (settle s))
      ∧ (∀ v : Code32, hostReaches s (Reg.PEER_CTRL n) = true → p.enabled = false →
        let t := setPeer s n i { p with ctrl := Nat.land v 0x7FFFF1F }
        exec (.peerEnable n i v) s = .next (settle (if bit v 0 = true then restartPeer t n i else t)))
      ∧ (∀ v : Code32, hostReaches s (Reg.PEER_CTRL n) = true → p.enabled = true →
        exec (.peerEnable n i v) s
          = .next (settle (if bit v 0 = true then s else setPeer s n i { p with ctrl := p.ctrl - 1 }))))
    ∧ (∀ (s : State) (n i : Nat), (peerOf s n i).enabled = true →
      let p := peerOf s n i
      let q := peerOf (restartPeer s n i) n i
      q.epoch = (p.epoch + 1) % 65536 ∧ q.unsynced = true ∧ q.txNext = 1 ∧ q.out.map (·.seq) = [0] ∧ q.waiting = [] ∧ q.down = false
        ∧ q.rxNext = p.rxNext ∧ q.partial_ = none)
    ∧ (∀ (s : State) (n : PortNo), hostReaches s (Reg.POD_CTRL n) = true →
      ((unitSt s 3 n).mode = .available →
        ∃ u, exec (.podReset n) s = .next (settle u) ∧ u = { s with regs := u.regs, evt := u.evt, pod := u.pod, topo := u.topo }
          ∧ (unitSt u 3 n).mode = .resetting
          ∧ ((unitSt s 3 n).at_ ≠ some (edgeNow s) → (unitSt u 3 n).epoch = ((unitSt s 3 n).epoch + 1) % 65536)
          ∧ ((unitSt s 3 n).at_ = some (edgeNow s) → (unitSt u 3 n).epoch = (unitSt s 3 n).epoch)
          ∧ (portOf u n).linkUp = false ∧ u.pod.peers = s.pod.peers ∧ u.pod.classes = s.pod.classes
          ∧ reg u Reg.TOPO_CNT_UNIT_RESET = min (reg s Reg.TOPO_CNT_UNIT_RESET + 1) 0xFFFFFFFF)
      ∧ (∀ on, ∃ u, exec (.podEnable n on) s = .next (settle u) ∧ u = { s with regs := u.regs }
          ∧ regBit u (Reg.POD_CTRL n) 0 = on ∧ RegsKept s u [Reg.POD_CTRL n]))
    ∧ (∀ (s : State) (n : PortNo) (media : Fin 8) (x : LinkTraining),
      (linksTrain s = true → bit s.topo.fusePods n = true → (portOf s n).linkUp = false → (unitSt s 3 n).mode ≠ .resetting →
        exec (.podLinkUp n media x) s
          = .next (settle (setPort (trainUnit s (.podPort n) x) n { portOf s n with linkUp := true, media := (media : Nat) })))
      ∧ (linksTrain s = true → bit s.topo.fusePods n = true → (portOf s n).linkUp = false → (unitSt s 3 n).mode = .resetting →
        ∃ u, exec (.podLinkUp n media x) s = .next (settle u) ∧ u = { s with regs := u.regs, evt := u.evt, pod := u.pod, topo := u.topo }
          ∧ portOf u n = { portOf s n with linkUp := true, media := (media : Nat) } ∧ (unitSt u 3 n).mode = .available
          ∧ (unitSt u 3 n).epoch = (unitSt s 3 n).epoch ∧ regBit u Reg.TOPO_INT_STATUS 3 = true)
      ∧ ((linksTrain s = false ∨ bit s.topo.fusePods n = false ∨ (portOf s n).linkUp = true) →
        exec (.podLinkUp n media x) s = .next (settle s))
      ∧ ((portOf s n).linkUp = true →
        ∃ u, exec (.podLinkDown n) s = .next (settle u) ∧ u = { s with regs := u.regs, pod := u.pod }
          ∧ portOf u n = { portOf s n with linkUp := false, busy := none } ∧ regBit u (Reg.POD_INT_STATUS n) 0 = true
          ∧ RegsKept s u [Reg.POD_INT_STATUS n])
      ∧ (∃ u, exec (.gateEntryChange n) s = .next (settle u) ∧ u = { s with regs := u.regs, evt := u.evt, pod := u.pod }
          ∧ (portOf u n).gateEntry = (gatesAt s n s.time.beat).1 ∧ (portOf u n).gates = (gatesAt s n s.time.beat).2
          ∧ (∀ c t, (portOf s n).busy = some (c, t) → bit (portOf s n).gates c = true → bit (gatesAt s n s.time.beat).2 c = false →
              reg u (Reg.POD_CNT_GATE_OVERRUN n) = min (reg s (Reg.POD_CNT_GATE_OVERRUN n) + 1) 0xFFFFFFFF)))
    ∧ (∀ (s : State) (n : PortNo) (i : MeterNo) (v : Code32), hostReaches s (Reg.POL_CTRL n) = true →
      exec (.polCtrl n i v) s = .next (settle (setMeter s n i { meterOf s n i with
        ctrl := (v : Nat) % 8, tc := 256 * (meterOf s n i).cbs, tp := 256 * (meterOf s n i).pbs })))
    ∧ (∀ (s : State) (n : PortNo) (c : ClassNo) (off : Nat) (v : Code32), hostReaches s (Reg.TC_SHAPE_CTRL n c) = true →
      ∃ u, exec (.tcShapeWrite n c off v) s = .next (settle u) ∧ u = { s with regs := u.regs, pod := u.pod }
        ∧ classOf u n c = { classOf s n c with fresh := true }
        ∧ (off = 0 → reg u (Reg.TC_SHAPE_CTRL n c) = (v : Nat) % 4 ∧ RegsKept s u [Reg.TC_SHAPE_CTRL n c])
        ∧ (off = 4 → reg u (Reg.TC_IDLE_SLOPE n c) = min ((v : Nat) % 2 ^ 17) 100000 ∧ RegsKept s u [Reg.TC_IDLE_SLOPE n c])
        ∧ (off = 8 → reg u (Reg.TC_HI_CREDIT n c) = (v : Nat) % 2 ^ 24 ∧ RegsKept s u [Reg.TC_HI_CREDIT n c])
        ∧ (off = 12 → reg u (Reg.TC_LO_CREDIT n c) = (v : Nat) % 2 ^ 24 ∧ RegsKept s u [Reg.TC_LO_CREDIT n c]))
    ∧ (∀ (s : State) (n : PortNo), portRuns s n = true → (portOf s n).busy = none → s.twin.silent = false →
      let c := (portOf s n).turn
      (∀ f q, (classOf s n c).queue = f :: q → classEligible s n c = true → f.length + 4 ≤ (classOf s n c).deficit →
        exec (.frameTransmit n) s = .next (settle (sendHead s n c (classOf s n c).deficit)))
      ∧ (∀ d, (classEligible s n c = false ∨ ∃ f q, (classOf s n c).queue = f :: q ∧ (classOf s n c).deficit < f.length + 4) →
        nextEligible s n c = some d →
        exec (.frameTransmit n) s
          = .next (settle (sendHead s n d (min ((classOf s n d).deficit + quantum s n d) (quantum s n d + 9216)))))
      ∧ (nextEligible s n c = none → exec (.frameTransmit n) s = .next (settle s)))
    ∧ (∀ (s : State) (n : PortNo) (c : ClassNo), (classOf s n c).queue.length ≤ (classOf s n c).joined → classEligible s n c = false)
    ∧ (∀ (s : State) (n c deficit : Nat) (f : List Byte) (q : List (List Byte)), (classOf s n c).queue = f :: q →
      let u := sendHead s n c deficit
      u = { s with regs := u.regs, evt := u.evt, pod := u.pod, emitted := s.emitted ++ [.podFrame n c f] }
        ∧ classOf u n c = { classOf s n c with queue := q, deficit := if q = [] then 0 else deficit - (f.length + 4) }
        ∧ portOf u n = { portOf s n with busy := some (c, frameCk f.length), turn := c })

/-- The entry at the head of the stream of entry bytes is the entry that was written, whatever follows it. A command that applies
an entry does nothing where the stream holds no whole entry, its head is of another kind, or the destination of a copy still
waits for STATE_BEGIN; else the stream goes on behind the entry and, on a module that applies entries, the entry has taken
effect. A VSET entry maps the twin's set; a late ACCEPT is counted and books nothing, another one books a shadow in the slot
of its boundary; SWITCH installs or cancels the switch, and of two commits that crossed role A's is kept and role B's
rejected; TABLE and STORE run their command here, and a CLOSE whose digest differs discards the build with TWIN_DIGEST;
CANCEL stamps the request once; TOKENS are kept from their TSN on; RESULT and END discard shadows; KEY erase removes the job
key; ASSET_STATE sets the current version and the resident ones; BUILD_STATE opens the build it describes in a free slot;
FREE_MAP changes nothing. Where the bodies' fields stand is the model's choice (log 36). So is the slot a build takes (log
19); FREE_MAP is log 46. -/
def Obligations.JournalEntriesTakeEffect : Prop :=
  (∀ (kind seq : Nat) (role : Bool) (body rest : List Byte), kind < 256 → seq < 2 ^ 32 → body.length < 2 ^ 32 →
      headEntry (entryBytes kind role seq body ++ rest)
        = some ({ kind := kind, role := role, seq := seq, body := body, raw := entryBytes kind role seq body }, rest))
    ∧ (∀ (s : State) (c : Instr) (k : Nat), (c, k) ∈ [(Instr.journalAccept, 0x01), (.journalVset, 0x02), (.journalSwitch, 0x03),
          (.journalTable, 0x04), (.journalStore, 0x05), (.journalCancel, 0x06), (.journalTokens, 0x07), (.journalResult, 0x08),
          (.journalEnd, 0x09), (.journalKey, 0x0A), (.journalAssetState, 0x0B), (.journalBuildState, 0x0C), (.journalFreeMap, 0x0D)] →
      (headEntry s.twin.stream = none → exec c s = .next (settle s))
      ∧ (∀ j rest, headEntry s.twin.stream = some (j, rest) →
        (j.kind ≠ k → exec c s = .next (settle s))
        ∧ (streamWaits s = true → exec c s = .next (settle s))
        ∧ (j.kind = k → streamWaits s = false → ∃ u, exec c s = .next (settle u) ∧ u.twin.stream = rest
            ∧ (appliesEntries s = false → u = passEntry s j rest)
            ∧ (appliesEntries s = true → u = passEntry (applyEntry s j) j rest))))
    ∧ (∀ (s : State) (j : JEntry) (rest : List Byte),
      let u := passEntry s j rest
      u = { s with twin := u.twin } ∧ u.twin.stream = rest
        ∧ (inStateMsg s = false → u.twin = { s.twin with stream := rest })
        ∧ (∀ r, s.twin.resync = some r → inStateMsg s = true → u.twin.resync = some { r with entries := r.entries ++ [j.raw] }))
    ∧ (∀ (s : State) (j : JEntry), j.kind = 0x02 →
      let u := applyEntry s j
      u = { s with twin := { s.twin with vmap := u.twin.vmap } }
        ∧ tget (fun _ => []) u.twin.vmap j.seq
            = (List.range (j.body.length / 8)).map (fun i => (le j.body (8 * i) 4, le j.body (8 * i + 4) 4))
        ∧ (∀ v, v ≠ j.seq → tget (fun _ => []) u.twin.vmap v = tget (fun _ => []) s.twin.vmap v))
    ∧ (∀ (s : State) (j : JEntry), j.kind = 0x01 → bit (le j.body 40 1) 2 = false → inStateMsg s = false →
      let b := le j.body 16 8 / 65536
      (addBeats 0 b < now s → applyEntry s j = bump s Reg.TWIN_CNT_SHADOW_LATE)
      ∧ (now s ≤ addBeats 0 b →
        match setWith (tick s) (tget (fun _ => []) s.twin.vmap (le j.body 6 2)) with
        | none => applyEntry s j = tick s
        | some (_, v) => ∃ q, reqOf (applyEntry s j) (reqKey (le j.body 0 4) j.role) = some q ∧ q.shadow = true ∧ q.entry = b ∧ q.vset = v
            ∧ q.accept = le j.body 8 8 ∧ q.seed = le j.body 24 8 ∧ q.slot = (boundOf s b).used
            ∧ (boundOf (applyEntry s j) b).used = (boundOf s b).used + 1))
    ∧ (∀ (s : State) (j : JEntry), j.kind = 0x03 →
      let a := le j.body 0 4
      let t := le j.body 8 8
      (le j.body 16 4 = 2 → switchAt s a t = none → applyEntry s j = s)
      ∧ (le j.body 16 4 = 1 → switchAt s a t = none → (inStateMsg s = true ∨ verifiedHere s a (le j.body 4 4) = true) →
          ∀ i, freeSwitch s = some i →
          switchOf (applyEntry s j) i = some { asset := a, version := le j.body 4 4, at_ := t, awaiting := false })
      ∧ (∀ i w, le j.body 16 4 = 1 → switchAt s a t = some i → switchOf s i = some w →
          (s.twin.role = false → applyEntry s j = s)
          ∧ (s.twin.role = true → i < 64 → (inStateMsg s = true ∨ verifiedHere s a (le j.body 4 4) = true) →
              regBit (applyEntry s j) Reg.BOND_INT_STATUS 6 = true
                ∧ ∃ k, switchOf (applyEntry s j) k = some { asset := a, version := le j.body 4 4, at_ := t, awaiting := false })))
    ∧ (∀ (s : State) (j : JEntry), j.kind = 0x04 →
      let op := le j.body 0 4
      let a := le j.body 4 4
      let r := tabRun s op a (le j.body 8 4) (le j.body 12 4) (slice j.body 32 (le j.body 24 8)) false
      ((op ≠ 3 ∨ r.2.1 ≠ 0) → applyEntry s j = r.1)
      ∧ (op = 3 → r.2.1 = 0 → r.2.2 = le j.body 16 8 → ∀ x, buildOf r.1 a = some x → applyEntry s j = reap (closeBuild r.1 x) a)
      ∧ (op = 3 → r.2.1 = 0 → r.2.2 ≠ le j.body 16 8 →
          applyEntry s j = setBits (bump (tabResult (dropBuild r.1 a) 0x0A) Reg.TAB_CNT_REFUSED) Reg.TAB_INT_STATUS 6))
    ∧ (∀ (s : State) (j : JEntry), j.kind = 0x0C →
      let a := le j.body 0 2
      (freeSlotOf s a = none → applyEntry s j = s)
      ∧ (∀ sl, freeSlotOf s a = some sl → ∃ x, buildOf (applyEntry s j) a = some x ∧ x.asset = a ∧ x.base = le j.body 4 4
          ∧ x.ver = le j.body 8 4 ∧ x.applied = le j.body 12 4 ∧ x.slot = sl
          ∧ x.dir = (List.range ((j.body.length - 16) / 4)).map (fun i => le j.body (16 + 4 * i) 4)
          ∧ applyEntry s j = { s with assets := (applyEntry s j).assets }))
    ∧ (∀ (s : State) (j : JEntry), j.kind = 0x05 → applyEntry s j = (tsRun s (le j.body 0 4) (slice j.body 16 (le j.body 8 8))).1)
    ∧ (∀ (s : State) (j : JEntry), j.kind = 0x06 →
      let k := reqKey (le j.body 0 4) (bit (le j.body 4 1) 0)
      let u := applyEntry s j
      (reqOf s k = none → u = s)
        ∧ (∀ r, reqOf s k = some r → u = { s with front := u.front } ∧ (∀ n, n ≠ k → reqOf u n = reqOf s n)
          ∧ (r.cancelled = none → reqOf u k = some { r with cancelled := some (le j.body 8 8) })
          ∧ (r.cancelled ≠ none → reqOf u k = some r)))
    ∧ (∀ (s : State) (j : JEntry) (r : Req) (e : Nat), j.kind = 0x07 → reqOf s (reqKey j.seq j.role) = some r → r.shadow = true →
      r.ast = some e →
      let u := applyEntry s j
      (seqOf u e).tokens = (seqOf s e).tokens.take (le j.body 0 4) ++ (List.range (le j.body 4 2)).map (fun i => le j.body (8 + 4 * i) 4)
        ∧ (∀ x, x ≠ e → seqOf u x = seqOf s x))
    ∧ (∀ (s : State) (j : JEntry) (r : Req), (j.kind = 0x08 ∨ j.kind = 0x09) → reqOf s (reqKey j.seq j.role) = some r →
      let u := applyEntry s j
      let k := reqKey j.seq j.role
      (r.shadow = false → u = s)
        ∧ (r.shadow = true → j.kind = 0x08 → r.needsEntry = true → reqOf u k = some { r with resulted := true })
        ∧ (r.shadow = true → j.kind = 0x08 → r.needsEntry = false → reqOf u k = none)
        ∧ (r.shadow = true → j.kind = 0x09 → reqOf u k = none))
    ∧ (∀ (s : State) (j : JEntry), j.kind = 0x0A → le j.body 0 1 = 2 → jobKeyOf (applyEntry s j) (le j.body 4 4) = none)
    ∧ (∀ (s : State) (j : JEntry), j.kind = 0x0B →
      let x := assetSt (applyEntry s j) (le j.body 0 2)
      x.current = le j.body 2 4
        ∧ x.versions.map (fun v => (v.ver, v.slot, v.digest))
            = (List.range (le j.body 6 1)).map (fun i => let b := slice j.body (8 + 40 * i) 40; (le b 0 4, le b 4 1, slice b 8 32)))
    ∧ (∀ (s : State) (j : JEntry), j.kind = 0x0D → applyEntry s j = s)

/-- A frame comes as the words of the link; its header, payload and CRC are read through the 72/64 code. With the link down a
frame does nothing. A frame with an uncorrectable word, a bad CRC, a wrong LEN or channel, or a tag that fails changes the
two counters alone; its uncorrectable words are counted and logged as well. An acceptable frame in order advances the
channel's accepted SEQ, frees its flits, and has the effect of its type: a heartbeat is taken, FAULT is recorded and raises
its bit, MBOX messages are taken, journal bytes join the stream, copied segments are written at the destination, and
RESYNC_CTRL frames open and close passes and the state message. A frame out of order frees its flits and is answered by IDLE.
An acknowledgement takes what it covers off the channel, be it sent or waiting to be sent again; frames start in order, those
sent before counted, and no frame starts beyond the credit. The encryption of every payload is the model's reading (log 62),
as is the counting of a frame of the wrong channel (log 42). -/
def Obligations.TwinFramesAreAcceptedInOrder : Prop :=
  (∀ (s : State) (f : FiricWords) (m : TwinMsg) (c : Instr), c ∈ [Instr.firicHeartbeat f, .firicFault f, .firicMbox f m, .firicJournal f none,
        .resyncData f, .passStart f, .passEnd f, .stateBegin f, .stateEnd f, .stateAck f, .resyncAbort f, .firicIdle f] →
      s.twin.linkUp = false → exec c s = .next (settle s))
    ∧ (∀ x : FiricWords,
        let b := (x.words.map eccRead).flatMap fun r => natLE 8 (readWord64 r)
        let n := le b 2 2
        x.frame.type = le b 0 1 ∧ x.frame.vc = bits (le b 1 1) 1 0 ∧ x.frame.seq = le b 4 4 ∧ x.frame.payload = slice b 32 n
          ∧ (x.frame.intact = true ↔ (∀ r ∈ x.words.map eccRead, ∀ y, r ≠ .bad y) ∧ x.words.length = 32 * flits n ∧ n ≤ 65500
              ∧ le b (32 + n) 4 = crc32c (b.take (32 + n))))
    ∧ (∀ (s : State) (x : FiricWords) (m : TwinMsg) (c : Instr) (ty : Nat), (c, ty) ∈ [(Instr.firicHeartbeat x, 0x10), (.firicFault x, 0x11),
          (.firicMbox x m, 0x12), (.firicJournal x none, 0x01), (.resyncData x, 0x20), (.firicIdle x, 0x3F)] →
        let f := x.frame
        s.twin.linkUp = true →
        (f.intact = false ∨ (f.type = ty ∧ (f.vc ≠ typeVc ty ∨ (ty ≠ 0x3F ∧ openPayload s f = none)))) →
        ∃ u, exec c s = .next (settle u) ∧ u = { s with regs := u.regs, evt := u.evt, err := u.err }
          ∧ reg u Reg.TWIN_CNT_CORR = min (reg s Reg.TWIN_CNT_CORR + f.corrected) 0xFFFFFFFF
          ∧ reg u Reg.TWIN_CNT_BAD_FRAME = min (reg s Reg.TWIN_CNT_BAD_FRAME + 1) 0xFFFFFFFF
          ∧ (f.ues = [] → u.err = s.err ∧ RegsKept s u [Reg.TWIN_CNT_CORR, Reg.TWIN_CNT_BAD_FRAME])
          ∧ (f.ues ≠ [] → reg u Reg.ERR_CNT_UE = min (reg s Reg.ERR_CNT_UE + f.ues.length) 0xFFFFFFFF
            ∧ regBit u Reg.ERR_STATUS 1 = true ∧ regBit u Reg.ERR_INT_STATUS 2 = true))
    ∧ (∀ (s : State) (x : FiricWords), s.twin.linkUp = true → x.frame.intact = true → x.frame.vc = typeVc x.frame.type →
        let f := x.frame
        let s1 := takeHeader (bumpBy s Reg.TWIN_CNT_CORR f.corrected) f
        let c := vcOf s1 f.vc
        (f.type = 0x3F → exec (.firicIdle x) s = .next (settle s1))
        ∧ (f.type = 0x10 → (openPayload s f).isSome = true → f.seq ≠ (c.accepted + 1) % 2 ^ 32 →
            exec (.firicHeartbeat x) s
              = .next (settle (sendIdle (setVc s1 f.vc { c with freed := c.freed + flits f.payload.length }))))
        ∧ (∀ p, f.seq = (c.accepted + 1) % 2 ^ 32 → openPayload s f = some p →
          ∃ t, t = { s1 with twin := { s1.twin with vcs := t.twin.vcs } }
            ∧ vcOf t f.vc = { c with freed := c.freed + flits f.payload.length, accepted := f.seq,
                                     rxWraps := if f.seq = 0xFFFFFFFF then c.rxWraps + 1 else c.rxWraps }
            ∧ (∀ v, v ≠ f.vc → vcOf t v = vcOf s1 v)
            ∧ (f.type = 0x10 → exec (.firicHeartbeat x) s = .next (settle (takeHeartbeat t p)))
            ∧ (f.type = 0x11 → ∃ u, exec (.firicFault x) s = .next (settle u)
                ∧ u = { t with regs := u.regs, twin := { t.twin with faultSeen := true, lastCause := le p 0 1 } }
                ∧ regBit u Reg.TWIN_INT_STATUS 2 = true ∧ RegsKept t u [Reg.TWIN_INT_STATUS])
            ∧ (f.type = 0x12 → ∀ m, exec (.firicMbox x m) s = .next (settle (takeMbox m t p)))
            ∧ (f.type = 0x01 → exec (.firicJournal x none) s
                = .next (settle (finishState { t with twin := { t.twin with stream := t.twin.stream ++ p } })))
            ∧ (f.type = 0x20 → exec (.resyncData x) s = .next (settle (resyncData t p)))
            ∧ (f.type = 0x21 → ∀ r, t.twin.resync = some r →
              (le p 0 1 = 1 → r.source = false →
                exec (.passStart x) s = .next (settle (setResync t { r with pass := le p 1 1, left := le p 8 8 })))
              ∧ (le p 0 1 = 2 → r.source = false → exec (.passEnd x) s = .next (settle (setResync t { r with left := 0 })))
              ∧ (le p 0 1 = 3 → r.source = false →
                exec (.stateBegin x) s = .next (settle (setResync t { r with final := true, entries := [] })))
              ∧ (le p 0 1 = 4 → r.source = false →
                exec (.stateEnd x) s = .next (settle (finishState (setResync t { r with ending := some (le p 4 4, le p 8 8, slice p 16 16) }))))
              ∧ (le p 0 1 = 6 → r.source = true → r.sent = true → r.agreed = false →
                exec (.stateAck x) s = .next (settle (
                  if slice p 16 16 = stateDigest r.entries then releaseHeld (setResync t { r with final := false, agreed := true })
                  else endCopy (sendCtrl t 5 (r.pass % 256) 0 0 []))))
              ∧ (le p 0 1 = 5 → exec (.resyncAbort x) s = .next (settle (endCopy t))))))
    ∧ (∀ (s : State) (v ack cred : Nat),
        let u := takeAckCred s v ack cred
        let c := vcOf s v
        let wait := (c.queue.take c.again).filter fun x => !covers ack x.seq
        let left := wait ++ c.queue.drop c.again
        u = { s with regs := u.regs, evt := u.evt, twin := { s.twin with vcs := u.twin.vcs }, emitted := u.emitted }
          ∧ RegsKept s u [Reg.TWIN_CNT_RETX] ∧ (vcOf u v).cred = cred ∧ (∀ w, w ≠ v → vcOf u w = vcOf s w)
          ∧ ((∃ x ∈ c.out ++ c.queue.take c.again, covers ack x.seq = true) → (vcOf u v).acked = ack ∧ (vcOf u v).timeouts = 0)
          ∧ ((∀ x ∈ c.out ++ c.queue.take c.again, covers ack x.seq = false) →
              (vcOf u v).acked = c.acked ∧ (vcOf u v).timeouts = c.timeouts)
          ∧ ∃ k, (vcOf u v).out = c.out.filter (fun x => !covers ack x.seq) ++ left.take k ∧ (vcOf u v).queue = left.drop k
            ∧ reg u Reg.TWIN_CNT_RETX = min (reg s Reg.TWIN_CNT_RETX + min k wait.length) 0xFFFFFFFF
            ∧ (0 < k → left ≠ [] → ((vcOf u v).sent + 65536 - cred % 65536) % 65536 ≤ vcBuffer v))
    ∧ (∀ (t : State) (p : List Byte),
        let u := takeHeartbeat t p
        let w := { t.twin with hbCounted := true, peerDegraded := decide (bits (le p 8 1) 2 0 ≠ 1), peerState := bits (le p 10 1) 2 0,
                               peerMode := bits (le p 11 1) 1 0, peerDigest := le p 16 8 }
        ((t.twin.mode ≠ .solo ∨ bits (le p 10 1) 2 0 ≠ 5 ∨ t.twin.role = false) →
          u = { t with regs := u.regs, evt := u.evt, twin := w }
            ∧ RegsKept t u [Reg.TWIN_CNT_SKEW, Reg.TWIN_INT_STATUS]
            ∧ (t.time.mode = .locked → bits (le p 8 1) 2 0 = 1 → le p 0 8 ≠ lastBoundary t →
                reg u Reg.TWIN_CNT_SKEW = min (reg t Reg.TWIN_CNT_SKEW + 1) 0xFFFFFFFF ∧ regBit u Reg.TWIN_INT_STATUS 5 = true)
            ∧ ((t.time.mode ≠ .locked ∨ bits (le p 8 1) 2 0 ≠ 1 ∨ le p 0 8 = lastBoundary t) → u.regs = t.regs))
        ∧ (t.twin.mode = .solo → bits (le p 10 1) 2 0 = 5 → t.twin.role = true →
          u.twin.mode = .draining ∧ regBit u Reg.ADMIT_CTRL 0 = false))
    ∧ (∀ (t : State) (p : List Byte),
        (t.twin.mode ≠ .paired → ∀ r, t.twin.resync = some r → r.source = false →
          let u := resyncData t p
          ldRead u (le p 0 2) (le p 8 8) (p.length - 16) = p.drop 16
            ∧ u.twin = { t.twin with resync := some { r with left := r.left - 1 } }
            ∧ (∀ x, x < ldKey (le p 0 2) (le p 8 8) ∨ ldKey (le p 0 2) (le p 8 8) + (p.length - 16) ≤ x →
                memByte u.lpddr x = memByte t.lpddr x))
        ∧ (t.twin.mode ≠ .paired → ∀ r, t.twin.resync = some r → r.source = true → resyncData t p = t))

/-- A retransmission timeout that is due sends the channel's unacknowledged frames again in their order, each counted as it
starts, and takes the link down at the 250th in a row. The loss of the link ends the pair secret and a copy, raises its bit,
and leaves the pair ABSENT unless it is SOLO, DRAINING or the source of a copy, which stays SOLO; link-up trains the link,
raises the link epoch, starts the stream anew and begins pairing. The watchdog, unfed for two measures, and a handover
declare FAULT once each, close admission, and the watchdog silences the module. REJOIN asks a SOLO twin. A pass that has been
sent is followed by the next, which is the last from 4,096 segments down, and the last by the state message. A declaration is
made at a measure boundary after three missed measures or a FAULT; it makes the pair SOLO, is counted and stamped, opens
admission on a sealed standby, makes every shadow its own and then, one by one, writes the results that are due, sends the
POD_KV ones again and replays the others (log 42 tells the corners). -/
def Obligations.PairEventsRun : Prop :=
  (∀ (s : State) (v : VcNo),
      ((s.twin.linkUp = false ∨ firicRtoDue s v = false) → exec (.firicRto v) s = .next (settle s))
      ∧ (firicRtoDue s v = true ↔ ((vcOf s v).out ≠ [] ∨ 0 < (vcOf s v).again)
          ∧ isDue s (addBeats (vcOf s v).since (bits (reg s Reg.TWIN_RTO) 15 0)) = true)
      ∧ (s.twin.linkUp = true → firicRtoDue s v = true → 250 ≤ (vcOf s v).timeouts + 1 →
          exec (.firicRto v) s = exec .firicLinkDown s)
      ∧ (s.twin.linkUp = true → firicRtoDue s v = true → (vcOf s v).timeouts + 1 < 250 →
          let c := vcOf s v
          ∃ u k, exec (.firicRto v) s = .next (settle u)
            ∧ u = { s with regs := u.regs, evt := u.evt, twin := { s.twin with vcs := u.twin.vcs }, emitted := u.emitted }
            ∧ (vcOf u v).out = (c.out ++ c.queue).take k ∧ (vcOf u v).queue = (c.out ++ c.queue).drop k
            ∧ k ≤ (c.out ++ c.queue).length ∧ (vcOf u v).again = c.out.length + c.again - k
            ∧ reg u Reg.TWIN_CNT_RETX = min (reg s Reg.TWIN_CNT_RETX + min k (c.out.length + c.again)) 0xFFFFFFFF
            ∧ RegsKept s u [Reg.TWIN_CNT_RETX] ∧ (vcOf u v).timeouts = c.timeouts + 1
            ∧ (∀ w, w ≠ (v : Nat) → vcOf u w = vcOf s w)))
    ∧ (∀ s : State, (s.twin.linkUp = false → exec .firicLinkDown s = .next (settle s))
      ∧ (s.twin.linkUp = true → ∃ u, exec .firicLinkDown s = .next (settle u) ∧ u.twin.linkUp = false ∧ u.sec.pairSecret = none
          ∧ u.sec.share = none ∧ u.twin.resync = none ∧ regBit u Reg.TWIN_INT_STATUS 3 = true ∧ u.twin.vcs = [] ∧ u.twin.stream = []
          ∧ (s.twin.resync = none → u.twin.mode = (if s.twin.mode = .solo then .solo else if s.twin.mode = .draining then .draining else .absent))
          ∧ (∀ r, s.twin.resync = some r → u.twin.mode = (if r.source = true then .solo else .absent))))
    ∧ (∀ (s : State) (peerSolo : Bool) (x : LinkTraining),
      ((s.topo.fuseTwin = false ∨ s.twin.linkUp = true ∨ linksTrain s = false) →
        exec (.firicLinkUp peerSolo x) s = .next (settle s))
      ∧ (s.topo.fuseTwin = true → s.twin.linkUp = false → linksTrain s = true →
        ∃ u, exec (.firicLinkUp peerSolo x) s = .next (settle u) ∧ u.twin.linkUp = true ∧ u.topo = (trainUnit s .firic x).topo
          ∧ u.twin.linkEpoch = (s.twin.linkEpoch + 1) % 65536 ∧ u.twin.stream = [] ∧ u.twin.vmap = []
          ∧ u.twin.peerState = (if peerSolo then 5 else 0)
          ∧ u.twin.mode = (if s.twin.mode = .absent then .linking
              else if s.twin.mode = .solo ∧ peerSolo = true ∧ s.twin.role = true then .draining else s.twin.mode)))
    ∧ (∀ (s : State) (c : Instr) (cause : Nat), (c, cause) ∈ [(Instr.watchdogFire, 2), (.handover, 4)] →
      (c = .handover → hostReaches s Reg.TWIN_CTRL = true) →
      (c = .watchdogFire → hasCount s = true ∧ s.twin.fedAt + 2 * measureN s ≤ s.time.rawBeats) →
      (cause ∈ s.twin.declared → exec c s = .next (settle s))
      ∧ (cause ∉ s.twin.declared → ∃ u, exec c s = .next (settle u) ∧ u.twin.declared = s.twin.declared ++ [cause]
          ∧ regBit u Reg.ADMIT_CTRL 0 = false ∧ u.adm.queues = []
          ∧ (u.twin.genStop = true ↔ s.twin.genStop = true ∨ s.twin.mode = .paired ∨ cause = 2)
          ∧ (u.twin.silent = true ↔ s.twin.silent = true ∨ cause = 2)))
    ∧ (∀ s : State, (hasCount s = false ∨ s.time.rawBeats < s.twin.fedAt + 2 * measureN s) → exec .watchdogFire s = .next (settle s))
    ∧ (∀ s : State, hostReaches s Reg.TWIN_CTRL = true →
      (s.twin.mode = .attested → s.bond.mode = .loaded → s.bond.fromTwin = true → s.twin.peerState = 5 →
        ∃ u, exec .rejoin s = .next (settle u) ∧ u = { s with regs := u.regs, evt := u.evt, twin := u.twin, emitted := u.emitted }
          ∧ RegsKept s u [Reg.TWIN_CNT_RETX] ∧ u.twin.mode = .resync ∧ u.twin.resync = some (Resync.begin_ false))
      ∧ ((s.twin.mode ≠ .attested ∨ s.bond.mode ≠ .loaded ∨ s.bond.fromTwin = false ∨ s.twin.peerState ≠ 5) →
        exec .rejoin s = .next (settle s)))
    ∧ (∀ s : State,
      (s.twin.resync = none → exec .resyncPassDone s = .next (settle s))
      ∧ (∀ r, s.twin.resync = some r →
        ((r.source = false ∨ r.sent = true ∨ passSent s = false) → exec .resyncPassDone s = .next (settle s))
        ∧ (r.source = true → r.sent = false → passSent s = true →
          let segs := r.marked.filter fun x => (coveredRegions s).contains (x / 2 ^ 40)
          ∃ u, exec .resyncPassDone s = .next (settle u)
            ∧ (r.final = true → ∃ q, u.twin.resync = some q ∧ q.sent = true ∧ q.pass = r.pass)
            ∧ (r.final = false → u.twin.resync = some { r with pass := r.pass + 1, marked := [], final := decide (segs.length ≤ 4096) }))))
    ∧ (∀ s : State, (declareDue s = true ↔ s.twin.joined = true ∧ s.time.ck = 0 ∧ s.time.beat % max (measureN s) 1 = 0
          ∧ (3 ≤ s.twin.missed ∨ s.twin.faultSeen = true))
      ∧ (declareDue s = false → exec .twinFailDeclare s = .next (settle s))
      ∧ (declareDue s = true →
        let s1 := lossReleases (setPairMode { s with twin := { s.twin with joined := false, faultSeen := false } } .solo)
        let keys := (s.front.reqs.filter fun p => p.2.any fun (r : Req) => r.shadow).map (·.1)
        ∃ v, v = { s1 with regs := v.regs, evt := v.evt } ∧ reg64 v Reg.TWIN_TAKEOVER_TIME = now s % 2 ^ 64
          ∧ regBit v Reg.TWIN_INT_STATUS 0 = true ∧ s1.twin.mode = .solo ∧ s1.twin.joined = false
          ∧ reg v Reg.TWIN_CNT_TAKEOVER = min (reg s1 Reg.TWIN_CNT_TAKEOVER + 1) 0xFFFFFFFF
          ∧ (isSealed s1 = true → s1.twin.declared = [] → bits (reg s Reg.TWIN_MODE) 1 0 = (if s.twin.role = true then 1 else 2) →
              admitOpen v = true)
          ∧ RegsKept s1 v [Reg.TWIN_TAKEOVER_TIME, Reg.TWIN_TAKEOVER_TIME + 4, Reg.TWIN_CNT_TAKEOVER, Reg.TWIN_INT_STATUS, Reg.ADMIT_CTRL]
          ∧ exec .twinFailDeclare s = .next (settle (freeEnded (keys.foldl adopt (ownShadows v))))))
    ∧ (∀ (s : State) (k : Nat) (r : Req), reqOf s k = some r →
      (r.ended = true → adopt s k = s)
      ∧ (r.ended = false → r.resulted = false → adopt s k = completionInstant s k)
      ∧ (∀ p e, r.ended = false → r.resulted = true → r.packed = true → r.pack = some p → r.ast = some e →
          (p.dest = 3 → adopt s k = enterPrefill (sendPrompt s r) e r.prompt)
          ∧ (p.dest ≠ 3 → adopt s k = replaySeq s e r.prompt)))
    ∧ (∀ (s : State) (k : Nat), reqOf s k = none → adopt s k = s)
    ∧ (∀ (s : State) (k : Nat) (r : Req), tget (fun _ => none) s.front.reqs k = some r →
      tget (fun _ => none) (ownShadows s).front.reqs k
        = some (if r.shadow = true then { r with shadow := false, adopted := true } else r))

/-- What remains at a power-down, the restart after a lockout, and the limit at 0 V are the model's choices (log 10, log 11); the
calibration record is Config.plinthCal. -/
def Obligations.PowerCommandsRun : Prop :=
  (∀ s : State,
      ((s.plinth.mode = .off ∨ s.plinth.mode = .lockout) →
        exec .inputValid s = .next (settle { s with plinth := { PlinthSt.reset with mode := .rising } }))
      ∧ (s.plinth.mode ≠ .off → s.plinth.mode ≠ .lockout → exec .inputValid s = .next (settle s))
      ∧ (s.plinth.mode = .rising → exec .railPgoodFail s
          = .next (settle { s with plinth := { s.plinth with failed := true, mode := if s.plinth.failed = true then .lockout else .retry } }))
      ∧ (s.plinth.mode ≠ .rising → exec .railPgoodFail s = .next (settle s))
      ∧ (s.plinth.mode = .retry → exec .powerRetry s = .next (settle { s with plinth := { s.plinth with mode := .rising } }))
      ∧ (s.plinth.mode ≠ .retry → exec .powerRetry s = .next (settle s)))
    ∧ (∀ (s : State) (m : PowerMode),
      let gone : State := { State.reset with pending := s.pending, emitted := s.emitted, fresh := s.fresh,
                                             plinth := { PlinthSt.reset with mode := m },
                                             sec := { SecSt.reset with owners := s.sec.owners, floors := s.sec.floors,
                                                                       assetKeys := s.sec.assetKeys }
                                             topo := { TopoSt.reset with records := s.topo.records } }
      (s.plinth.mode = .on → exec .uvTrip s = .next (settle { s with plinth := { s.plinth with mode := .holdup } }))
        ∧ ((s.plinth.mode = .rising ∨ s.plinth.mode = .retry ∨ s.plinth.mode = .lockout) → m = .off → exec .uvTrip s = .next (settle gone))
        ∧ ((s.plinth.mode = .off ∨ s.plinth.mode = .holdup) → exec .uvTrip s = .next (settle s))
        ∧ (s.plinth.mode = .holdup → m = .off → exec .railShutdown s = .next (settle gone))
        ∧ (s.plinth.mode = .on → m = .lockout → exec .railShutdown s = .next (settle gone))
        ∧ (s.plinth.mode ≠ .on → s.plinth.mode ≠ .holdup → exec .railShutdown s = .next (settle s))
        ∧ (s.plinth.mode = .off → exec .ovTrip s = .next (settle s))
        ∧ (s.plinth.mode ≠ .off → m = .lockout → exec .ovTrip s = .next (settle gone)))
    ∧ (∀ s : State,
      (s.plinth.mode = .holdup → s.topo.stage ≠ .power →
        ∃ u, exec .inputLoss s = .next (settle u) ∧ regBit u Reg.PWR_INT_STATUS 3 = true ∧ 5 ∈ u.twin.declared
          ∧ (5 ∉ s.twin.declared → u.twin.declared = s.twin.declared ++ [5] ∧ regBit u Reg.ADMIT_CTRL 0 = false ∧ u.twin.genStop = true)
          ∧ (5 ∈ s.twin.declared → u = { s with regs := u.regs } ∧ RegsKept s u [Reg.PWR_INT_STATUS]))
      ∧ ((s.plinth.mode ≠ .holdup ∨ s.topo.stage = .power) → exec .inputLoss s = .next (settle s)))
    ∧ (∀ (s : State) (v i t : Code16),
      (s.plinth.mode = .off → exec (.plinthSample v i t) s = .next (settle s))
      ∧ (s.plinth.mode ≠ .off →
        let x := sampleValues Config.plinthCal v i t
        ∃ u, exec (.plinthSample v i t) s = .next (settle u) ∧ u = { s with plinth := u.plinth, fresh := u.fresh }
          ∧ u.plinth.acc = (s.plinth.acc + x.1 * x.2.1) % 2 ^ 96 ∧ u.plinth.total = s.plinth.total + x.1 * x.2.1
          ∧ u.plinth.v = x.1 ∧ u.plinth.i = x.2.1 ∧ u.plinth.t16 = x.2.2
          ∧ u.plinth.vMin = min s.plinth.vMin x.1 ∧ u.plinth.vMax = max s.plinth.vMax x.1 ∧ u.plinth.iMax = max s.plinth.iMax x.2.1
          ∧ u.plinth.limit = (if x.1 = 0 then Config.free s.fresh else 3600 * 2 ^ 20 / x.1)
          ∧ u.fresh = (if x.1 = 0 then s.fresh + 1 else s.fresh)
          ∧ u.plinth.mode = s.plinth.mode ∧ u.plinth.record = s.plinth.record ∧ u.plinth.seq = s.plinth.seq))
    ∧ (∀ (o r : Nat) (t : Int), calibrated o (2 ^ 14) 0 t r = r - o)
    ∧ (∀ s : State,
      (s.plinth.mode = .off → exec .uvWarn s = .next (settle s))
      ∧ (s.plinth.mode ≠ .off → ∃ u, exec .uvWarn s = .next (settle u)
          ∧ u = { s with regs := u.regs, plinth := { s.plinth with uvWarn := true } }
          ∧ (s.topo.stage = .power → u.regs = s.regs)
          ∧ (s.topo.stage ≠ .power → regBit u Reg.PWR_INT_STATUS 0 = true ∧ RegsKept s u [Reg.PWR_INT_STATUS]))
      ∧ ((s.plinth.mode = .on ∨ s.plinth.mode = .holdup) → ∃ u, exec .peakLimit s = .next (settle u)
          ∧ u = { s with regs := u.regs, evt := u.evt, plinth := { s.plinth with peak := min (s.plinth.peak + 1) 65535 } }
          ∧ (s.topo.stage = .power → u.regs = s.regs)
          ∧ (s.topo.stage ≠ .power → regBit u Reg.PWR_INT_STATUS 1 = true
              ∧ reg u Reg.PWR_CNT_PEAK = min (reg s Reg.PWR_CNT_PEAK + 1) 0xFFFFFFFF
              ∧ RegsKept s u [Reg.PWR_INT_STATUS, Reg.PWR_CNT_PEAK]))
      ∧ (s.plinth.mode ≠ .on → s.plinth.mode ≠ .holdup → exec .peakLimit s = .next (settle s)))
    ∧ (∀ (s : State) (crossed : Option (List Byte)),
      let b := crossed.getD s.plinth.record
      (s.topo.stage = .power → exec (.plinthRecord crossed) s = .next (settle s))
      ∧ (s.topo.stage ≠ .power → (recordWhole b = false ∨ recordNext s b = false) →
        exec (.plinthRecord crossed) s = .next (settle (bump s Reg.PWR_CNT_TLM_BAD)))
      ∧ (s.topo.stage ≠ .power → recordWhole b = true → recordNext s b = true →
        ∃ u, exec (.plinthRecord crossed) s = .next (settle u)
          ∧ u = { s with regs := u.regs, energy := { s.energy with reading := u.energy.reading },
                         plinth := { s.plinth with
                           seq := some (le b 0 4), seenTotal := le b 12 8, recorded := true, missRun := 0 } }
          ∧ u.energy.reading = some (measureNo s - 1, signed 64 (le b 4 8))
          ∧ reg u Reg.PWR_SEQ = le b 0 4 ∧ reg64 u Reg.PWR_E_MEAS = le b 4 8 ∧ reg64 u Reg.PWR_TOTAL = le b 12 8
          ∧ reg u Reg.PWR_V_MIN = le b 20 4 ∧ reg u Reg.PWR_V_MAX = le b 24 4 ∧ reg u Reg.PWR_I_MAX = le b 28 4
          ∧ reg u Reg.PWR_T16_HV = le b 32 2 ∧ reg64 u Reg.ENERGY_MEAS = le b 4 8
          ∧ regBit u Reg.PWR_STATUS 1 = bit (le b 36 1) 1 ∧ regBit u Reg.PWR_STATUS 2 = bit (le b 36 1) 0
          ∧ (s.plinth.seenTotal ≤ le b 12 8 → reg64 u Reg.ENERGY_TOTAL
              = (reg64 s Reg.ENERGY_TOTAL + (le b 12 8 - s.plinth.seenTotal)) % 2 ^ 64)))
    ∧ (∀ (s : State) (t : Code16), ∃ u, exec (.telemSample t) s = .next (settle u) ∧ u = { s with regs := u.regs }
        ∧ reg u Reg.ENERGY_TMAX = t ∧ RegsKept s u [Reg.ENERGY_TMAX])

/-- At reset release the fuse map is checked, then the firmware image is chosen, and bring-up stands at DISCOVERY or is HALTED
with the code of the first failure. Discovery, training and memory initialisation each go on to the next stage or halt with
their code, and do nothing in another stage; with the beat LOCKED, memory initialisation ends at READY with the text and
grammar units in service. Each channel and bridge trains from its saved record where that may be used and passes its pattern,
else in full, counted, with a record to save. A warm reset keeps module flash with its training records, sticky registers, a
debug unlock and the Plinth's power, counts the loss of a host link that was up, and gives every present unit a new epoch. A
unit reset takes an available unit to RESETTING with its epoch raised, once an edge; a unit returns when it may, a selection
unit to the state of its group, and the return is reported. A training record written is the saved one from then on and
raises the epoch of its controller or port. DRAIN_COMPLETE completes: with nothing left to drain in STOP or after a declared
FAULT the module is DRAINED and its core groups stand powered down; else nothing changes. What a warm reset leaves to the
Plinth (log 10, log 11), the layout of the records (log 71) and the edge kept with an epoch (log 70) are the model's choices. -/
def Obligations.BringUpGoesStageByStage : Prop :=
  (∀ s : State, (s.plinth.mode ≠ .rising → exec .resetRelease s = .next (settle s))
      ∧ (s.plinth.mode = .rising → exec .resetRelease s = .next (settle (
          boot (putField { s with plinth := { s.plinth with mode := .on, failed := false } } Reg.PWR_STATUS 7 4 0xF)
            Config.fuseBytes Config.firmware (Config.activeImage % 2) Config.firmwareFloor))))
    ∧ (∀ (s : State) (b : List Byte) (fw : Nat → Bool × Nat × List Byte) (active floor : Nat), active < 2 →
      let u := boot s b fw active floor
      let halted (code index : Nat) : Prop := u.topo.stage = .halted ∧ reg u Reg.TOPO_STAGE = 15
        ∧ reg u Reg.TOPO_CODE = index * 65536 + code ∧ regBit u Reg.TOPO_INT_STATUS 2 = true
      (fusesWhole b = false → halted 0x01 0xFFFF)
        ∧ (fusesWhole b = true → variantHolds b = false → halted 0x02 0xFFFF)
        ∧ (fusesWhole b = true → variantHolds b = true →
          u.topo.fuse = b ∧ u.topo.fuseMem = le b 64 4 ∧ u.sec.keys = some deviceKeys ∧ reg u Reg.IDENT_VARIANT = le b 70 2
            ∧ (firmwareBad fw floor active = none →
                u.topo.stage = .discovery ∧ reg u Reg.TOPO_STAGE = 3 ∧ reg u Reg.TOPO_FW_IMAGE = (fw active).2.1 % 65536 * 65536 + active)
            ∧ (∀ c, firmwareBad fw floor active = some c →
              (firmwareBad fw floor (1 - active) = none →
                u.topo.stage = .discovery ∧ reg u Reg.TOPO_FW_IMAGE = (fw (1 - active)).2.1 % 65536 * 65536 + (1 - active))
              ∧ (firmwareBad fw floor (1 - active) ≠ none → halted c active))))
    ∧ (∀ (s : State) (d : Discovery),
      (s.topo.stage ≠ .discovery → exec (.discoveryDone d) s = .next (settle s))
      ∧ (s.topo.stage = .discovery → ∃ u, exec (.discoveryDone d) s = .next (settle u)
          ∧ u = { s with regs := u.regs, topo := u.topo } ∧ u.topo.discGroups = (List.range 4).map (groupsPassed s d)
          ∧ u.topo.discovery = discoveryRecord s d
          ∧ (discoveryFail s d = none → u.topo.stage = .training ∧ ∀ n ∈ unitsOf s 3, (unitSt u 3 n).mode = .available)
          ∧ (∀ f, discoveryFail s d = some f → u.topo.stage = .halted ∧ reg u Reg.TOPO_CODE = (f.2 * 65536 + f.1) % 2 ^ 32)))
    ∧ (∀ (s : State) (t : Training),
      (s.topo.stage ≠ .training → exec (.trainingDone t) s = .next (settle s))
      ∧ (s.topo.stage = .training → ∃ u, exec (.trainingDone t) s = .next (settle u)
          ∧ u = { s with regs := u.regs, evt := u.evt, topo := u.topo }
          ∧ (let saved (x : TrainUnit) : Bool := !ignoresRecord s x
                && (savedRecord s x).any fun r => recordUsable s r (t.crcBad.contains x) [] t.t16
              let full (x : TrainUnit) : Bool := !saved x || t.weak.contains x
              reg u Reg.TOPO_CNT_TRAIN_FULL = min (reg s Reg.TOPO_CNT_TRAIN_FULL + (trainedUnits s).countP full) 0xFFFFFFFF
                ∧ reg u Reg.TOPO_CNT_SAVED_REJECT
                  = min (reg s Reg.TOPO_CNT_SAVED_REJECT + (trainedUnits s).countP fun x => saved x && t.weak.contains x) 0xFFFFFFFF
                ∧ (∀ x ∈ trainedUnits s, x ∈ u.topo.trained ∧ (full x = true → (x, recordNow s [] t.t16) ∈ u.topo.unsaved)))
          ∧ (t.failed.bind trainingHalt = none → u.topo.stage = .memInit ∧ u.topo.bridges = 0x3F ∧ u.topo.retrain = s.topo.retrain
              ∧ ∀ k ∈ unitsOf s 2, (unitSt u 2 k).mode = .available)
          ∧ (∀ h, t.failed.bind trainingHalt = some h → u.topo.stage = .halted ∧ reg u Reg.TOPO_CODE = (h.2 * 65536 + h.1) % 2 ^ 32)))
    ∧ (∀ (s : State) (failed : Option Nat),
      (s.topo.stage ≠ .memInit → exec (.memInitDone failed) s = .next (settle s))
      ∧ (∀ k, s.topo.stage = .memInit → failed = some k → ∃ u, exec (.memInitDone failed) s = .next (settle u)
          ∧ u = { s with regs := u.regs, topo := u.topo } ∧ u.topo.stage = .halted ∧ reg u Reg.TOPO_CODE = (k * 65536 + 0x22) % 2 ^ 32)
      ∧ (s.topo.stage = .memInit → failed = none → ∃ u, exec (.memInitDone failed) s = .next (settle u)
          ∧ u = { s with regs := u.regs, topo := u.topo, lpddr := [], poison := [], fresh := u.fresh }
          ∧ u.topo.discMem = s.topo.fuseMem
          ∧ (s.time.mode ≠ .locked → u.topo.stage = .timeWait)
          ∧ (s.time.mode = .locked → u.topo.stage = .ready ∧ regBit u Reg.TOPO_INT_STATUS 1 = true
              ∧ (unitSt u 4 0).mode = .available ∧ (unitSt u 5 0).mode = .available
              ∧ reg u Reg.TOPO_BRINGUP_MS = Config.free s.fresh % 2 ^ 32)))
    ∧ (∀ s : State, (s.topo.stage = .power → exec .warmReset s = .next (settle s))
      ∧ (s.topo.stage ≠ .power →
        let c := bump (warmState s) Reg.TOPO_WARM_COUNT
        let w := setStage (clearBits (if s.host.linkUp = true then bump c Reg.HQ_CNT_LINK_DOWN else c) Reg.ERR_STATUS 1) .fuse
        exec .warmReset s = .next (settle (boot (putField w Reg.PWR_STATUS 7 4 0xF)
          Config.fuseBytes Config.firmware (Config.activeImage % 2) Config.firmwareFloor)))
      ∧ (∀ a, reg (warmState s) a = if sticky a = true then reg s a else (regReset a).toNat)
      ∧ (warmState s).sec.owners = s.sec.owners ∧ (warmState s).sec.floors = s.sec.floors ∧ (warmState s).sec.assetKeys = s.sec.assetKeys
      ∧ (warmState s).sec.unlocked = s.sec.unlocked ∧ (warmState s).sec.token = s.sec.token ∧ (warmState s).topo.records = s.topo.records
      ∧ (warmState s).host.linkUp = false ∧ (warmState s).sec.pairSecret = none ∧ (warmState s).lpddr = [] ∧ (warmState s).bond = State.reset.bond
      ∧ (warmState s).plinth.mode = s.plinth.mode ∧ (warmState s).topo.retrain = regBit s Reg.TOPO_CTRL 1
      ∧ (∀ c i, c ≤ 5 → i ∈ unitsOf s c → i < 512 → unitSt (warmState s) c i = { mode := .off, epoch := ((unitSt s c i).epoch + 1) % 65536 }))
    ∧ (∀ (s : State) (cls i : Nat),
      ((unitPresent s cls i = false ∨ (unitSt s cls i).mode ≠ .available) → exec (.unitReset (some (cls, i))) s = .next (settle s))
      ∧ (unitPresent s cls i = true → (unitSt s cls i).mode = .available → ∃ u, exec (.unitReset (some (cls, i))) s = .next (settle u)
          ∧ unitSt u cls i = { unitSt (raiseEpoch s cls i) cls i with mode := .resetting }
          ∧ (cls = 0 → (unitSt u 1 i).mode = .resetting)
          ∧ reg u Reg.TOPO_CNT_UNIT_RESET = min (reg s Reg.TOPO_CNT_UNIT_RESET + 1) 0xFFFFFFFF))
    ∧ (∀ (s : State) (c i : Nat),
      ((unitSt s c i).at_ = some (edgeNow s) → raiseEpoch s c i = s)
      ∧ ((unitSt s c i).at_ ≠ some (edgeNow s) →
          unitSt (raiseEpoch s c i) c i
              = { mode := (unitSt s c i).mode, epoch := ((unitSt s c i).epoch + 1) % 65536, at_ := some (edgeNow s) }
            ∧ ∀ d j, unitKey d j ≠ unitKey c i → unitSt (raiseEpoch s c i) d j = unitSt s d j))
    ∧ (∀ s : State, hostReaches s Reg.TOPO_UNIT_CMD = true →
      let cls := bits (reg s Reg.TOPO_UNIT_SEL) 18 16
      let i := bits (reg s Reg.TOPO_UNIT_SEL) 8 0
      (s.topo.cmd ≠ none → exec (.unitReset none) s = .next (settle (protocol s 0x0005 Reg.TOPO_UNIT_CMD 1)))
      ∧ (s.topo.cmd = none → unitPresent s cls i = false → exec (.unitReset none) s = .next (settle (setReg s Reg.TOPO_UNIT_RESULT 2)))
      ∧ (s.topo.cmd = none → unitPresent s cls i = true → (unitSt s cls i).mode = .off →
          exec (.unitReset none) s = .next (settle (setReg s Reg.TOPO_UNIT_RESULT 3)))
      ∧ (s.topo.cmd = none → unitPresent s cls i = true → (unitSt s cls i).mode ≠ .off →
          ∃ u, exec (.unitReset none) s = .next (settle u) ∧ u.topo.cmd = some (cls, i) ∧ reg u Reg.TOPO_UNIT_RESULT = 1))
    ∧ (∀ (s : State) (cls : Fin 6) (i : UnitNo),
      ((unitSt s cls i).mode ≠ .resetting → exec (.unitReturn cls i) s = .next (settle s))
      ∧ ((unitSt s cls i).mode = .resetting → (3 ≤ (cls : Nat) ∨ (cls : Nat) = 2) → ((cls : Nat) = 3 → (portOf s i).linkUp = true) →
        ∃ u, exec (.unitReturn cls i) s = .next (settle u) ∧ u = { s with regs := u.regs, topo := u.topo }
          ∧ unitSt u cls i = { unitSt s cls i with mode := .available } ∧ regBit u Reg.TOPO_INT_STATUS 3 = true
          ∧ (s.topo.cmd = some ((cls : Nat), (i : Nat)) → u.topo.cmd = none ∧ reg u Reg.TOPO_UNIT_RESULT = 0))
      ∧ ((cls : Nat) = 3 → (portOf s i).linkUp = false → exec (.unitReturn cls i) s = .next (settle s))
      ∧ ((unitSt s cls i).mode = .resetting → (cls : Nat) = 0 → (atBoundaryOf s i = false → exec (.unitReturn cls i) s = .next (settle s))
        ∧ (atBoundaryOf s i = true → ∃ u, exec (.unitReturn cls i) s = .next (settle u)
            ∧ (unitSt u 0 i).mode = (if groupLive s i = true then .available else .off) ∧ (unitSt u 1 i).mode = (unitSt u 0 i).mode
            ∧ regBit u Reg.TOPO_INT_STATUS 3 = true
            ∧ ((s.topo.cmd = some (0, (i : Nat)) ∨ s.topo.cmd = some (1, (i : Nat))) →
                u.topo.cmd = none ∧ reg u Reg.TOPO_UNIT_RESULT = 0)))
      ∧ ((unitSt s cls i).mode = .resetting → (cls : Nat) = 1 → atBoundaryOf s i = true → (unitSt s 0 i).mode ≠ .resetting →
        ∃ u, exec (.unitReturn cls i) s = .next (settle u) ∧ u = { s with regs := u.regs, topo := u.topo }
          ∧ unitSt u 1 i = { unitSt s 1 i with mode := (unitSt s 0 i).mode }
          ∧ (s.topo.cmd = some (1, (i : Nat)) → u.topo.cmd = none ∧ reg u Reg.TOPO_UNIT_RESULT = 0))
      ∧ ((cls : Nat) = 1 → (atBoundaryOf s i = false ∨ (unitSt s 0 i).mode = .resetting) →
        exec (.unitReturn cls i) s = .next (settle s)))
    ∧ (∀ (s : State) (x : TrainUnit),
      ((s.topo.stage ≠ .ready ∨ ∀ p ∈ s.topo.unsaved, p.1 ≠ x) → exec (.trainingRecordWrite x) s = .next (settle s))
      ∧ (∀ r, s.topo.stage = .ready → (s.topo.unsaved.find? fun p => decide (p.1 = x)) = some r →
        ∃ u, exec (.trainingRecordWrite x) s = .next (settle u)
          ∧ u = { s with topo := u.topo } ∧ u.topo.unsaved = s.topo.unsaved.erase r ∧ savedRecord u x = some r.2
          ∧ (∀ y, y ≠ x → savedRecord u y = savedRecord s y)
          ∧ (∀ k, x = .channel k → unitSt u 2 (k / 8) = unitSt (raiseEpoch s 2 (k / 8)) 2 (k / 8))
          ∧ (∀ n, x = .podPort n → unitSt u 3 n = unitSt (raiseEpoch s 3 n) 3 n)))
    ∧ (∀ s : State, (s.energy.thermal = .stop ∨ s.twin.declared ≠ []) → s.energy.thermal ≠ .drained → draining s = false →
      ∃ u, exec .drainComplete s = .next (settle u) ∧ u.energy.thermal = .drained ∧ regBit u Reg.ENERGY_INT_STATUS 3 = true
        ∧ ∀ g ∈ unitsOf s 0, ∀ c, c / 64 = g → core u c = Core.reset)
    ∧ (∀ s : State, ((s.energy.thermal ≠ .stop ∧ s.twin.declared = []) ∨ s.energy.thermal = .drained ∨ draining s = true) →
      exec .drainComplete s = .next (settle s))

/-- For every 64-bit word: the stored word reads back as good data; with any one stored bit inverted, the reader delivers the
word and the column of that bit as the syndrome; with any two stored bits inverted, it reports an uncorrectable error; and
with two or more bits of one nibble inverted, it reports an uncorrectable error. The columns are distinct. -/
def Obligations.SingleErrorsAreCorrectedDoubleOnesDetected : Prop :=
  (∀ d, d < 2 ^ 64 →
      eccStore d < 2 ^ 72 ∧ eccRead (eccStore d) = .good d
        ∧ (∀ i, i < 72 → eccRead (Nat.xor (eccStore d) (2 ^ i)) = .corrected d (eccColumns.getD i 0))
        ∧ (∀ i j, i < j → j < 72 → ∃ y, y % 256 = y ∧ y ≠ 0 ∧ eccRead (Nat.xor (Nat.xor (eccStore d) (2 ^ i)) (2 ^ j)) = .bad y)
        ∧ (∀ n m, n < 18 → m < 16 → (∀ k, k < 4 → m ≠ 2 ^ k) → 0 < m →
            ∃ y, eccRead (Nat.xor (eccStore d) (m * 2 ^ (4 * n))) = .bad y))
    ∧ eccColumns.length = 72 ∧ eccColumns.Nodup

/-- That the refused EVT_SEL write is logged with code 0x000A, and that EVT_COUNTER_WRAP stands for the sources the model brings
no events of, are the model's choices (log 47, log 48). -/
def Obligations.MonitoringCommandsRun : Prop :=
  (∀ (s : State) (p : EccPlaceOf) (flips : Nat) (dropped pass : Bool), checkable s p = false →
      exec (.scrubAccess p flips dropped pass) s = .next (settle s))
    ∧ (∀ (s : State) (c a flips : Nat) (dropped pass : Bool), checkable s (.scratchpad c a) = true →
      ∃ u, exec (.scrubAccess (.scratchpad c a) flips dropped pass) s = .next (settle u)
        ∧ (pass = true → reg64 u Reg.ERR_SCRUB_SP = now s % 2 ^ 64)
        ∧ (match eccRead (Nat.xor (eccStore (spNat s c a 8)) (flips % 2 ^ 72)) with
          | .good d => reg u Reg.ERR_CNT_CE_SCRATCH = reg s Reg.ERR_CNT_CE_SCRATCH ∧ reg u Reg.ERR_CNT_UE = reg s Reg.ERR_CNT_UE
              ∧ u = { s with regs := u.regs, evt := u.evt, scratch := u.scratch }
              ∧ (dropped = false → spRead u c a 8 = natLE 8 d) ∧ (dropped = true → u.scratch = s.scratch) ∧ ScratchKept s u c a 8
          | .corrected d _ => reg u Reg.ERR_CNT_CE_SCRATCH = min (reg s Reg.ERR_CNT_CE_SCRATCH + 1) 0xFFFFFFFF
              ∧ reg u Reg.ERR_CNT_UE = reg s Reg.ERR_CNT_UE ∧ u.err.ceMeasure = s.err.ceMeasure + 1
              ∧ (s.err.storm = false → reg s Reg.ERR_CE_THRESH = s.err.ceMeasure + 1 →
                  u.err.storm = true ∧ regBit u Reg.ERR_INT_STATUS 3 = true)
              ∧ ((s.err.storm = true ∨ reg s Reg.ERR_CE_THRESH ≠ s.err.ceMeasure + 1) →
                  u.err.storm = s.err.storm ∧ regBit u Reg.ERR_INT_STATUS 3 = regBit s Reg.ERR_INT_STATUS 3)
              ∧ u = { s with regs := u.regs, evt := u.evt, err := u.err, scratch := u.scratch }
              ∧ (dropped = false → spRead u c a 8 = natLE 8 d) ∧ (dropped = true → u.scratch = s.scratch) ∧ ScratchKept s u c a 8
          | .bad _ => reg u Reg.ERR_CNT_UE = min (reg s Reg.ERR_CNT_UE + 1) 0xFFFFFFFF
              ∧ reg u Reg.ERR_CNT_CE_SCRATCH = reg s Reg.ERR_CNT_CE_SCRATCH
              ∧ regBit u Reg.ERR_STATUS 1 = true ∧ regBit u Reg.ERR_INT_STATUS 2 = true))
    ∧ (∀ (s : State) (g o flips : Nat) (dropped pass : Bool), checkable s (.lpddr g o) = true →
      ∃ u, exec (.scrubAccess (.lpddr g o) flips dropped pass) s = .next (settle u)
        ∧ (pass = true → reg64 u Reg.ERR_SCRUB_LPDDR = now s % 2 ^ 64)
        ∧ (match eccRead (Nat.xor (eccStore (ldNat s g o 8)) (flips % 2 ^ 72)) with
          | .good d => u = { s with regs := u.regs, evt := u.evt, lpddr := u.lpddr } ∧ (dropped = false → ldRead u g o 8 = natLE 8 d)
              ∧ (dropped = true → u.lpddr = s.lpddr)
          | .corrected d _ => reg u Reg.ERR_CNT_CE_LPDDR = min (reg s Reg.ERR_CNT_CE_LPDDR + 1) 0xFFFFFFFF
              ∧ u = { s with regs := u.regs, evt := u.evt, err := u.err, lpddr := u.lpddr }
              ∧ (dropped = false → ldRead u g o 8 = natLE 8 d) ∧ (dropped = true → u.lpddr = s.lpddr)
          | .bad _ => reg u Reg.ERR_CNT_UE = min (reg s Reg.ERR_CNT_UE + 1) 0xFFFFFFFF ∧ ldKey g o ∈ u.poison ∧ u.lpddr = s.lpddr))
    ∧ (∀ (s : State) (n : CounterNo) (v : Code32), hostReaches s (Reg.EVT_SEL n) = true →
      (eventDefined (bits v 15 8) (bits v 7 0) = true →
        ∃ u, exec (.evtSel n v) s = .next (settle u) ∧ u = { s with regs := u.regs, evt := u.evt }
          ∧ reg u (Reg.EVT_SEL n) = (v : Nat) % 2 ^ 24 ∧ RegsKept s u [Reg.EVT_SEL n]
          ∧ tget (fun _ => 0) u.evt.cnt n = 0
          ∧ (∀ m, m ≠ (n : Nat) → tget (fun _ => 0) u.evt.cnt m = tget (fun _ => 0) s.evt.cnt m))
      ∧ (eventDefined (bits v 15 8) (bits v 7 0) = false →
        exec (.evtSel n v) s = .next (settle (protocol s 0x000A (Reg.EVT_SEL n) 1))))
    ∧ (∀ s : State, hostReaches s Reg.EVT_CTRL = true →
      (∀ on, ∃ u, exec (.evtFreeze on) s = .next (settle u) ∧ u = { s with regs := u.regs } ∧ regBit u Reg.EVT_CTRL 0 = on
          ∧ RegsKept s u [Reg.EVT_CTRL])
      ∧ (∃ u, exec .evtClear s = .next (settle u) ∧ u = { s with regs := u.regs, evt := u.evt } ∧ RegsKept s u []
          ∧ (∀ i, i < 3 → reg u (Reg.EVT_OVF i) = 0) ∧ (∀ n, tget (fun _ => 0) u.evt.cnt n = 0)))
    ∧ (∀ (s : State) (n : CounterNo),
      ((regBit s Reg.EVT_CTRL 0 = true ∨ regBit s (Reg.EVT_SEL n) 23 = false) → exec (.evtCounterWrap n) s = .next (settle s))
      ∧ (regBit s Reg.EVT_CTRL 0 = false → regBit s (Reg.EVT_SEL n) 23 = true →
        ∃ u, exec (.evtCounterWrap n) s = .next (settle u) ∧ u = { s with regs := u.regs, evt := u.evt } ∧ RegsKept s u []
          ∧ tget (fun _ => 0) u.evt.cnt n = 0
          ∧ (∀ m, m ≠ (n : Nat) → tget (fun _ => 0) u.evt.cnt m = tget (fun _ => 0) s.evt.cnt m)
          ∧ regBit u (Reg.EVT_OVF ((n : Nat) / 32)) ((n : Nat) % 32) = true
          ∧ (regBit s (Reg.EVT_OVF_ENABLE ((n : Nat) / 32)) ((n : Nat) % 32) = true → regBit u Reg.EVT_INT_STATUS 0 = true)))
end

