-- ==== Sys2Proof/Laws/Tab.lean ====
section
/-!
SUPPORT. Laws/Tab.lean: the laws of the sparse table: a read after a write, and that every operation keeps the canonical form. Every memory
and register file of the block is such a table.
-/
namespace Sys2Proof.Laws

open Sys2Proof.Machine

variable {α : Type}

theorem tget_terase_self (d : Nat → α) (t : Tab α) (k : Nat) : tget d (terase k t) k = d k := by
  induction t with
  | nil => rfl
  | cons e t ih =>
    obtain ⟨j, w⟩ := e
    by_cases h : j = k <;> simp [terase, tget, h, ih]

theorem tget_terase_ne (d : Nat → α) (t : Tab α) {k j : Nat} (h : j ≠ k) : tget d (terase k t) j = tget d t j := by
  induction t with
  | nil => rfl
  | cons e t ih =>
    obtain ⟨i, w⟩ := e
    by_cases hi : i = k
    · have hij : i ≠ j := fun hh => h (hh ▸ hi)
      simp [terase, tget, hi, ih]
      intro hk
      exact absurd (hi.trans hk) hij
    · simp [terase, tget, hi, ih]

theorem tget_tins_ne (d : Nat → α) (t : Tab α) {k j : Nat} (v : α) (h : j ≠ k) : tget d (tins k v t) j = tget d t j := by
  have hk : ¬ k = j := fun hh => h hh.symm
  induction t with
  | nil => simp [tins, tget, hk]
  | cons e t ih =>
    obtain ⟨i, w⟩ := e
    by_cases hi : k < i
    · simp [tins, tget, hi, hk]
    · simp [tins, tget, hi, ih]

theorem tget_tins_self (d : Nat → α) (t : Tab α) (k : Nat) (v : α) : tget d (tins k v (terase k t)) k = v := by
  induction t with
  | nil => simp [terase, tins, tget]
  | cons e t ih =>
    obtain ⟨j, w⟩ := e
    by_cases h : j = k
    · simp [terase, h, ih]
    · by_cases hl : k < j <;> simp [terase, h, tins, hl, tget, ih]

/-- A read after a write to the same key gives the value written. -/
@[simp] theorem tget_tset_self [DecidableEq α] (d : Nat → α) (t : Tab α) (k : Nat) (v : α) : tget d (tset d t k v) k = v := by
  by_cases h : v = d k <;> simp [tset, h, tget_terase_self, tget_tins_self]

/-- A write leaves every other key alone. -/
theorem tget_tset_ne [DecidableEq α] (d : Nat → α) (t : Tab α) {k j : Nat} (v : α) (h : j ≠ k) :
    tget d (tset d t k v) j = tget d t j := by
  by_cases hv : v = d k <;> simp [tset, hv, tget_terase_ne _ _ h, tget_tins_ne _ _ _ h]

/-- A read after a write, in one equation. -/
theorem tget_tset [DecidableEq α] (d : Nat → α) (t : Tab α) (k j : Nat) (v : α) :
    tget d (tset d t k v) j = if j = k then v else tget d t j := by
  by_cases h : j = k
  · simp [h]
  · simp [h, tget_tset_ne _ _ _ h]

/-! ## The canonical form -/

theorem twfFrom_weaken [DecidableEq α] (d : Nat → α) {l : Nat} {lo : Option Nat} {t : Tab α} (h : twfFrom d (some l) t = true)
    (hl : ∀ m, lo = some m → m ≤ l) : twfFrom d lo t = true := by
  cases t with
  | nil => rfl
  | cons e t =>
    obtain ⟨k, v⟩ := e
    simp only [twfFrom, Bool.and_eq_true, decide_eq_true_eq] at h ⊢
    refine ⟨⟨?_, h.1.2⟩, h.2⟩
    cases lo with
    | none => rfl
    | some m =>
      have := hl m rfl
      simp only [decide_eq_true_eq]
      omega

theorem twfFrom_terase [DecidableEq α] (d : Nat → α) (k : Nat) {lo : Option Nat} {t : Tab α} (h : twfFrom d lo t = true) :
    twfFrom d lo (terase k t) = true := by
  induction t generalizing lo with
  | nil => rfl
  | cons e t ih =>
    obtain ⟨j, v⟩ := e
    simp only [twfFrom, Bool.and_eq_true, decide_eq_true_eq] at h
    by_cases hj : j = k
    · simp only [terase, hj, if_true]
      refine twfFrom_weaken d (ih h.2) ?_
      intro m hm
      subst hm
      have := h.1.1
      simp only [decide_eq_true_eq] at this
      omega
    · simp only [terase, hj, if_false, twfFrom, Bool.and_eq_true, decide_eq_true_eq]
      exact ⟨h.1, ih h.2⟩

theorem mem_terase {k : Nat} {t : Tab α} {e : Nat × α} (h : e ∈ terase k t) : e ∈ t ∧ e.1 ≠ k := by
  induction t with
  | nil => simp [terase] at h
  | cons x t ih =>
    obtain ⟨j, w⟩ := x
    by_cases hj : j = k
    · simp only [terase, hj, if_true] at h
      exact ⟨List.mem_cons_of_mem _ (ih h).1, (ih h).2⟩
    · simp only [terase, hj, if_false, List.mem_cons] at h
      rcases h with h | h
      · subst h
        exact ⟨List.mem_cons_self, hj⟩
      · exact ⟨List.mem_cons_of_mem _ (ih h).1, (ih h).2⟩

theorem twfFrom_tins [DecidableEq α] (d : Nat → α) {k : Nat} {v : α} (hv : v ≠ d k) {lo : Option Nat} {t : Tab α}
    (h : twfFrom d lo t = true) (hlo : ∀ m, lo = some m → m < k) (hne : ∀ e ∈ t, e.1 ≠ k) : twfFrom d lo (tins k v t) = true := by
  induction t generalizing lo with
  | nil =>
    cases lo with
    | none => simp [tins, twfFrom, hv]
    | some m => simp [tins, twfFrom, hv, hlo m rfl]
  | cons e t ih =>
    obtain ⟨j, w⟩ := e
    simp only [twfFrom, Bool.and_eq_true, decide_eq_true_eq] at h
    have hj : j ≠ k := hne (j, w) List.mem_cons_self
    by_cases hk : k < j
    · simp only [tins, hk, if_true, twfFrom, Bool.and_eq_true, decide_eq_true_eq]
      refine ⟨⟨?_, hv⟩, ⟨trivial, h.1.2⟩, h.2⟩
      cases lo with
      | none => rfl
      | some m => simpa using hlo m rfl
    · simp only [tins, hk, if_false, twfFrom, Bool.and_eq_true, decide_eq_true_eq]
      refine ⟨h.1, ih h.2 ?_ fun e he => hne e (List.mem_cons_of_mem _ he)⟩
      intro m hm
      cases hm
      omega

/-- A write keeps the canonical form. -/
theorem twf_tset [DecidableEq α] (d : Nat → α) {t : Tab α} (k : Nat) (v : α) (h : twf d t = true) : twf d (tset d t k v) = true := by
  by_cases hv : v = d k
  · simpa [tset, hv, twf] using twfFrom_terase d k h
  · simp only [tset, hv, if_false, twf]
    exact twfFrom_tins d hv (twfFrom_terase d k h) (by simp) fun e he => (mem_terase he).2

theorem twf_tsetList [DecidableEq α] (d : Nat → α) {t : Tab α} (k : Nat) (vs : List α) (h : twf d t = true) :
    twf d (tsetList d t k vs) = true := by
  induction vs generalizing t k with
  | nil => exact h
  | cons v vs ih => exact ih _ (twf_tset d k v h)

theorem twfFrom_filter [DecidableEq α] (d : Nat → α) (p : Nat × α → Bool) {lo : Option Nat} {t : Tab α}
    (h : twfFrom d lo t = true) : twfFrom d lo (t.filter p) = true := by
  induction t generalizing lo with
  | nil => rfl
  | cons e t ih =>
    obtain ⟨j, v⟩ := e
    simp only [twfFrom, Bool.and_eq_true, decide_eq_true_eq] at h
    by_cases hp : p (j, v) = true
    · simp only [List.filter_cons_of_pos hp, twfFrom, Bool.and_eq_true, decide_eq_true_eq]
      exact ⟨h.1, ih h.2⟩
    · rw [List.filter_cons_of_neg hp]
      refine twfFrom_weaken d (ih h.2) ?_
      intro m hm
      subst hm
      have := h.1.1
      simp only [decide_eq_true_eq] at this
      omega

/-! ## Memories -/

/-- Every write of a memory keeps its canonical form. -/
theorem mem_wf_write {m : Mem} (a : Nat) (bs : List Byte) (h : twf memDefault m = true) : twf memDefault (memWrite m a bs) = true :=
  twf_tsetList memDefault a bs h

/-- Clearing a range of a memory keeps its canonical form. -/
theorem mem_wf_zero {m : Mem} (a n : Nat) (h : twf memDefault m = true) : twf memDefault (memZero m a n) = true :=
  twfFrom_filter memDefault _ h

/-- A read of one byte after a write: the byte written where the range covers it, else what stood there. -/
theorem memByte_memWrite (m : Mem) (a : Nat) (bs : List Byte) (x : Nat) :
    memByte (memWrite m a bs) x = if h : a ≤ x ∧ x < a + bs.length then bs[x - a]'(by omega) else memByte m x := by
  induction bs generalizing m a with
  | nil =>
    have : ¬ (a ≤ x ∧ x < a + ([] : List Byte).length) := by simp only [List.length_nil]; omega
    simp only [this, dif_neg, not_false_eq_true]
    rfl
  | cons b bs ih =>
    have step : memByte (memWrite m a (b :: bs)) x = memByte (memWrite (tset memDefault m a b) (a + 1) bs) x := rfl
    rw [step, ih]
    by_cases hx : x = a
    · subst hx
      have h1 : ¬ (x + 1 ≤ x ∧ x < x + 1 + bs.length) := by omega
      have h2 : x ≤ x ∧ x < x + (b :: bs).length := by simp
      rw [dif_neg h1, dif_pos h2]
      simp [memByte]
    · by_cases hr : a + 1 ≤ x ∧ x < a + 1 + bs.length
      · have h2 : a ≤ x ∧ x < a + (b :: bs).length := by simp only [List.length_cons]; omega
        simp only [hr, h2, dif_pos, and_self]
        have : x - a = (x - (a + 1)) + 1 := by omega
        simp [this]
      · have h2 : ¬ (a ≤ x ∧ x < a + (b :: bs).length) := by simp only [List.length_cons]; omega
        simp only [hr, h2, dif_neg, not_false_eq_true]
        exact tget_tset_ne memDefault m b hx

end Sys2Proof.Laws
end

