-- ==== Sys2Proof/Laws/State.lean ====
section
/-!
SUPPORT. Laws/State.lean: one lemma per field per update of State: what each named update leaves as it was.
-/
namespace Sys2Proof.Laws

open Sys2Proof.Machine

variable (s : State)

/-! ## setReg -/

@[simp] theorem setReg_pending (a : Nat) (v : Nat) : (setReg s a v).pending = s.pending := rfl
@[simp] theorem setReg_latch (a : Nat) (v : Nat) : (setReg s a v).latch = s.latch := rfl
@[simp] theorem setReg_emitted (a : Nat) (v : Nat) : (setReg s a v).emitted = s.emitted := rfl
@[simp] theorem setReg_fresh (a : Nat) (v : Nat) : (setReg s a v).fresh = s.fresh := rfl
@[simp] theorem setReg_time (a : Nat) (v : Nat) : (setReg s a v).time = s.time := rfl
@[simp] theorem setReg_bond (a : Nat) (v : Nat) : (setReg s a v).bond = s.bond := rfl
@[simp] theorem setReg_assets (a : Nat) (v : Nat) : (setReg s a v).assets = s.assets := rfl
@[simp] theorem setReg_staging (a : Nat) (v : Nat) : (setReg s a v).staging = s.staging := rfl
@[simp] theorem setReg_lpddr (a : Nat) (v : Nat) : (setReg s a v).lpddr = s.lpddr := rfl
@[simp] theorem setReg_scratch (a : Nat) (v : Nat) : (setReg s a v).scratch = s.scratch := rfl
@[simp] theorem setReg_poison (a : Nat) (v : Nat) : (setReg s a v).poison = s.poison := rfl
@[simp] theorem setReg_cores (a : Nat) (v : Nat) : (setReg s a v).cores = s.cores := rfl
@[simp] theorem setReg_credits (a : Nat) (v : Nat) : (setReg s a v).credits = s.credits := rfl
@[simp] theorem setReg_deliveries (a : Nat) (v : Nat) : (setReg s a v).deliveries = s.deliveries := rfl
@[simp] theorem setReg_steps (a : Nat) (v : Nat) : (setReg s a v).steps = s.steps := rfl
@[simp] theorem setReg_sel (a : Nat) (v : Nat) : (setReg s a v).sel = s.sel := rfl
@[simp] theorem setReg_front (a : Nat) (v : Nat) : (setReg s a v).front = s.front := rfl
@[simp] theorem setReg_serve (a : Nat) (v : Nat) : (setReg s a v).serve = s.serve := rfl
@[simp] theorem setReg_adm (a : Nat) (v : Nat) : (setReg s a v).adm = s.adm := rfl
@[simp] theorem setReg_energy (a : Nat) (v : Nat) : (setReg s a v).energy = s.energy := rfl
@[simp] theorem setReg_host (a : Nat) (v : Nat) : (setReg s a v).host = s.host := rfl
@[simp] theorem setReg_twin (a : Nat) (v : Nat) : (setReg s a v).twin = s.twin := rfl
@[simp] theorem setReg_pod (a : Nat) (v : Nat) : (setReg s a v).pod = s.pod := rfl
@[simp] theorem setReg_sec (a : Nat) (v : Nat) : (setReg s a v).sec = s.sec := rfl
@[simp] theorem setReg_plinth (a : Nat) (v : Nat) : (setReg s a v).plinth = s.plinth := rfl
@[simp] theorem setReg_text (a : Nat) (v : Nat) : (setReg s a v).text = s.text := rfl
@[simp] theorem setReg_topo (a : Nat) (v : Nat) : (setReg s a v).topo = s.topo := rfl
@[simp] theorem setReg_err (a : Nat) (v : Nat) : (setReg s a v).err = s.err := rfl
@[simp] theorem setReg_evt (a : Nat) (v : Nat) : (setReg s a v).evt = s.evt := rfl

/-! ## setReg64 -/

@[simp] theorem setReg64_pending (a : Nat) (v : Nat) : (setReg64 s a v).pending = s.pending := rfl
@[simp] theorem setReg64_latch (a : Nat) (v : Nat) : (setReg64 s a v).latch = s.latch := rfl
@[simp] theorem setReg64_emitted (a : Nat) (v : Nat) : (setReg64 s a v).emitted = s.emitted := rfl
@[simp] theorem setReg64_fresh (a : Nat) (v : Nat) : (setReg64 s a v).fresh = s.fresh := rfl
@[simp] theorem setReg64_time (a : Nat) (v : Nat) : (setReg64 s a v).time = s.time := rfl
@[simp] theorem setReg64_bond (a : Nat) (v : Nat) : (setReg64 s a v).bond = s.bond := rfl
@[simp] theorem setReg64_assets (a : Nat) (v : Nat) : (setReg64 s a v).assets = s.assets := rfl
@[simp] theorem setReg64_staging (a : Nat) (v : Nat) : (setReg64 s a v).staging = s.staging := rfl
@[simp] theorem setReg64_lpddr (a : Nat) (v : Nat) : (setReg64 s a v).lpddr = s.lpddr := rfl
@[simp] theorem setReg64_scratch (a : Nat) (v : Nat) : (setReg64 s a v).scratch = s.scratch := rfl
@[simp] theorem setReg64_poison (a : Nat) (v : Nat) : (setReg64 s a v).poison = s.poison := rfl
@[simp] theorem setReg64_cores (a : Nat) (v : Nat) : (setReg64 s a v).cores = s.cores := rfl
@[simp] theorem setReg64_credits (a : Nat) (v : Nat) : (setReg64 s a v).credits = s.credits := rfl
@[simp] theorem setReg64_deliveries (a : Nat) (v : Nat) : (setReg64 s a v).deliveries = s.deliveries := rfl
@[simp] theorem setReg64_steps (a : Nat) (v : Nat) : (setReg64 s a v).steps = s.steps := rfl
@[simp] theorem setReg64_sel (a : Nat) (v : Nat) : (setReg64 s a v).sel = s.sel := rfl
@[simp] theorem setReg64_front (a : Nat) (v : Nat) : (setReg64 s a v).front = s.front := rfl
@[simp] theorem setReg64_serve (a : Nat) (v : Nat) : (setReg64 s a v).serve = s.serve := rfl
@[simp] theorem setReg64_adm (a : Nat) (v : Nat) : (setReg64 s a v).adm = s.adm := rfl
@[simp] theorem setReg64_energy (a : Nat) (v : Nat) : (setReg64 s a v).energy = s.energy := rfl
@[simp] theorem setReg64_host (a : Nat) (v : Nat) : (setReg64 s a v).host = s.host := rfl
@[simp] theorem setReg64_twin (a : Nat) (v : Nat) : (setReg64 s a v).twin = s.twin := rfl
@[simp] theorem setReg64_pod (a : Nat) (v : Nat) : (setReg64 s a v).pod = s.pod := rfl
@[simp] theorem setReg64_sec (a : Nat) (v : Nat) : (setReg64 s a v).sec = s.sec := rfl
@[simp] theorem setReg64_plinth (a : Nat) (v : Nat) : (setReg64 s a v).plinth = s.plinth := rfl
@[simp] theorem setReg64_text (a : Nat) (v : Nat) : (setReg64 s a v).text = s.text := rfl
@[simp] theorem setReg64_topo (a : Nat) (v : Nat) : (setReg64 s a v).topo = s.topo := rfl
@[simp] theorem setReg64_err (a : Nat) (v : Nat) : (setReg64 s a v).err = s.err := rfl
@[simp] theorem setReg64_evt (a : Nat) (v : Nat) : (setReg64 s a v).evt = s.evt := rfl

/-! ## setBits -/

@[simp] theorem setBits_pending (a : Nat) (m : Nat) : (setBits s a m).pending = s.pending := rfl
@[simp] theorem setBits_latch (a : Nat) (m : Nat) : (setBits s a m).latch = s.latch := rfl
@[simp] theorem setBits_emitted (a : Nat) (m : Nat) : (setBits s a m).emitted = s.emitted := rfl
@[simp] theorem setBits_fresh (a : Nat) (m : Nat) : (setBits s a m).fresh = s.fresh := rfl
@[simp] theorem setBits_time (a : Nat) (m : Nat) : (setBits s a m).time = s.time := rfl
@[simp] theorem setBits_bond (a : Nat) (m : Nat) : (setBits s a m).bond = s.bond := rfl
@[simp] theorem setBits_assets (a : Nat) (m : Nat) : (setBits s a m).assets = s.assets := rfl
@[simp] theorem setBits_staging (a : Nat) (m : Nat) : (setBits s a m).staging = s.staging := rfl
@[simp] theorem setBits_lpddr (a : Nat) (m : Nat) : (setBits s a m).lpddr = s.lpddr := rfl
@[simp] theorem setBits_scratch (a : Nat) (m : Nat) : (setBits s a m).scratch = s.scratch := rfl
@[simp] theorem setBits_poison (a : Nat) (m : Nat) : (setBits s a m).poison = s.poison := rfl
@[simp] theorem setBits_cores (a : Nat) (m : Nat) : (setBits s a m).cores = s.cores := rfl
@[simp] theorem setBits_credits (a : Nat) (m : Nat) : (setBits s a m).credits = s.credits := rfl
@[simp] theorem setBits_deliveries (a : Nat) (m : Nat) : (setBits s a m).deliveries = s.deliveries := rfl
@[simp] theorem setBits_steps (a : Nat) (m : Nat) : (setBits s a m).steps = s.steps := rfl
@[simp] theorem setBits_sel (a : Nat) (m : Nat) : (setBits s a m).sel = s.sel := rfl
@[simp] theorem setBits_front (a : Nat) (m : Nat) : (setBits s a m).front = s.front := rfl
@[simp] theorem setBits_serve (a : Nat) (m : Nat) : (setBits s a m).serve = s.serve := rfl
@[simp] theorem setBits_adm (a : Nat) (m : Nat) : (setBits s a m).adm = s.adm := rfl
@[simp] theorem setBits_energy (a : Nat) (m : Nat) : (setBits s a m).energy = s.energy := rfl
@[simp] theorem setBits_host (a : Nat) (m : Nat) : (setBits s a m).host = s.host := rfl
@[simp] theorem setBits_twin (a : Nat) (m : Nat) : (setBits s a m).twin = s.twin := rfl
@[simp] theorem setBits_pod (a : Nat) (m : Nat) : (setBits s a m).pod = s.pod := rfl
@[simp] theorem setBits_sec (a : Nat) (m : Nat) : (setBits s a m).sec = s.sec := rfl
@[simp] theorem setBits_plinth (a : Nat) (m : Nat) : (setBits s a m).plinth = s.plinth := rfl
@[simp] theorem setBits_text (a : Nat) (m : Nat) : (setBits s a m).text = s.text := rfl
@[simp] theorem setBits_topo (a : Nat) (m : Nat) : (setBits s a m).topo = s.topo := rfl
@[simp] theorem setBits_err (a : Nat) (m : Nat) : (setBits s a m).err = s.err := rfl
@[simp] theorem setBits_evt (a : Nat) (m : Nat) : (setBits s a m).evt = s.evt := rfl

/-! ## clearBits -/

@[simp] theorem clearBits_pending (a : Nat) (m : Nat) : (clearBits s a m).pending = s.pending := rfl
@[simp] theorem clearBits_latch (a : Nat) (m : Nat) : (clearBits s a m).latch = s.latch := rfl
@[simp] theorem clearBits_emitted (a : Nat) (m : Nat) : (clearBits s a m).emitted = s.emitted := rfl
@[simp] theorem clearBits_fresh (a : Nat) (m : Nat) : (clearBits s a m).fresh = s.fresh := rfl
@[simp] theorem clearBits_time (a : Nat) (m : Nat) : (clearBits s a m).time = s.time := rfl
@[simp] theorem clearBits_bond (a : Nat) (m : Nat) : (clearBits s a m).bond = s.bond := rfl
@[simp] theorem clearBits_assets (a : Nat) (m : Nat) : (clearBits s a m).assets = s.assets := rfl
@[simp] theorem clearBits_staging (a : Nat) (m : Nat) : (clearBits s a m).staging = s.staging := rfl
@[simp] theorem clearBits_lpddr (a : Nat) (m : Nat) : (clearBits s a m).lpddr = s.lpddr := rfl
@[simp] theorem clearBits_scratch (a : Nat) (m : Nat) : (clearBits s a m).scratch = s.scratch := rfl
@[simp] theorem clearBits_poison (a : Nat) (m : Nat) : (clearBits s a m).poison = s.poison := rfl
@[simp] theorem clearBits_cores (a : Nat) (m : Nat) : (clearBits s a m).cores = s.cores := rfl
@[simp] theorem clearBits_credits (a : Nat) (m : Nat) : (clearBits s a m).credits = s.credits := rfl
@[simp] theorem clearBits_deliveries (a : Nat) (m : Nat) : (clearBits s a m).deliveries = s.deliveries := rfl
@[simp] theorem clearBits_steps (a : Nat) (m : Nat) : (clearBits s a m).steps = s.steps := rfl
@[simp] theorem clearBits_sel (a : Nat) (m : Nat) : (clearBits s a m).sel = s.sel := rfl
@[simp] theorem clearBits_front (a : Nat) (m : Nat) : (clearBits s a m).front = s.front := rfl
@[simp] theorem clearBits_serve (a : Nat) (m : Nat) : (clearBits s a m).serve = s.serve := rfl
@[simp] theorem clearBits_adm (a : Nat) (m : Nat) : (clearBits s a m).adm = s.adm := rfl
@[simp] theorem clearBits_energy (a : Nat) (m : Nat) : (clearBits s a m).energy = s.energy := rfl
@[simp] theorem clearBits_host (a : Nat) (m : Nat) : (clearBits s a m).host = s.host := rfl
@[simp] theorem clearBits_twin (a : Nat) (m : Nat) : (clearBits s a m).twin = s.twin := rfl
@[simp] theorem clearBits_pod (a : Nat) (m : Nat) : (clearBits s a m).pod = s.pod := rfl
@[simp] theorem clearBits_sec (a : Nat) (m : Nat) : (clearBits s a m).sec = s.sec := rfl
@[simp] theorem clearBits_plinth (a : Nat) (m : Nat) : (clearBits s a m).plinth = s.plinth := rfl
@[simp] theorem clearBits_text (a : Nat) (m : Nat) : (clearBits s a m).text = s.text := rfl
@[simp] theorem clearBits_topo (a : Nat) (m : Nat) : (clearBits s a m).topo = s.topo := rfl
@[simp] theorem clearBits_err (a : Nat) (m : Nat) : (clearBits s a m).err = s.err := rfl
@[simp] theorem clearBits_evt (a : Nat) (m : Nat) : (clearBits s a m).evt = s.evt := rfl

/-! ## putField -/

@[simp] theorem putField_pending (a : Nat) (hi : Nat) (lo : Nat) (v : Nat) : (putField s a hi lo v).pending = s.pending := rfl
@[simp] theorem putField_latch (a : Nat) (hi : Nat) (lo : Nat) (v : Nat) : (putField s a hi lo v).latch = s.latch := rfl
@[simp] theorem putField_emitted (a : Nat) (hi : Nat) (lo : Nat) (v : Nat) : (putField s a hi lo v).emitted = s.emitted := rfl
@[simp] theorem putField_fresh (a : Nat) (hi : Nat) (lo : Nat) (v : Nat) : (putField s a hi lo v).fresh = s.fresh := rfl
@[simp] theorem putField_time (a : Nat) (hi : Nat) (lo : Nat) (v : Nat) : (putField s a hi lo v).time = s.time := rfl
@[simp] theorem putField_bond (a : Nat) (hi : Nat) (lo : Nat) (v : Nat) : (putField s a hi lo v).bond = s.bond := rfl
@[simp] theorem putField_assets (a : Nat) (hi : Nat) (lo : Nat) (v : Nat) : (putField s a hi lo v).assets = s.assets := rfl
@[simp] theorem putField_staging (a : Nat) (hi : Nat) (lo : Nat) (v : Nat) : (putField s a hi lo v).staging = s.staging := rfl
@[simp] theorem putField_lpddr (a : Nat) (hi : Nat) (lo : Nat) (v : Nat) : (putField s a hi lo v).lpddr = s.lpddr := rfl
@[simp] theorem putField_scratch (a : Nat) (hi : Nat) (lo : Nat) (v : Nat) : (putField s a hi lo v).scratch = s.scratch := rfl
@[simp] theorem putField_poison (a : Nat) (hi : Nat) (lo : Nat) (v : Nat) : (putField s a hi lo v).poison = s.poison := rfl
@[simp] theorem putField_cores (a : Nat) (hi : Nat) (lo : Nat) (v : Nat) : (putField s a hi lo v).cores = s.cores := rfl
@[simp] theorem putField_credits (a : Nat) (hi : Nat) (lo : Nat) (v : Nat) : (putField s a hi lo v).credits = s.credits := rfl
@[simp] theorem putField_deliveries (a : Nat) (hi : Nat) (lo : Nat) (v : Nat) : (putField s a hi lo v).deliveries = s.deliveries := rfl
@[simp] theorem putField_steps (a : Nat) (hi : Nat) (lo : Nat) (v : Nat) : (putField s a hi lo v).steps = s.steps := rfl
@[simp] theorem putField_sel (a : Nat) (hi : Nat) (lo : Nat) (v : Nat) : (putField s a hi lo v).sel = s.sel := rfl
@[simp] theorem putField_front (a : Nat) (hi : Nat) (lo : Nat) (v : Nat) : (putField s a hi lo v).front = s.front := rfl
@[simp] theorem putField_serve (a : Nat) (hi : Nat) (lo : Nat) (v : Nat) : (putField s a hi lo v).serve = s.serve := rfl
@[simp] theorem putField_adm (a : Nat) (hi : Nat) (lo : Nat) (v : Nat) : (putField s a hi lo v).adm = s.adm := rfl
@[simp] theorem putField_energy (a : Nat) (hi : Nat) (lo : Nat) (v : Nat) : (putField s a hi lo v).energy = s.energy := rfl
@[simp] theorem putField_host (a : Nat) (hi : Nat) (lo : Nat) (v : Nat) : (putField s a hi lo v).host = s.host := rfl
@[simp] theorem putField_twin (a : Nat) (hi : Nat) (lo : Nat) (v : Nat) : (putField s a hi lo v).twin = s.twin := rfl
@[simp] theorem putField_pod (a : Nat) (hi : Nat) (lo : Nat) (v : Nat) : (putField s a hi lo v).pod = s.pod := rfl
@[simp] theorem putField_sec (a : Nat) (hi : Nat) (lo : Nat) (v : Nat) : (putField s a hi lo v).sec = s.sec := rfl
@[simp] theorem putField_plinth (a : Nat) (hi : Nat) (lo : Nat) (v : Nat) : (putField s a hi lo v).plinth = s.plinth := rfl
@[simp] theorem putField_text (a : Nat) (hi : Nat) (lo : Nat) (v : Nat) : (putField s a hi lo v).text = s.text := rfl
@[simp] theorem putField_topo (a : Nat) (hi : Nat) (lo : Nat) (v : Nat) : (putField s a hi lo v).topo = s.topo := rfl
@[simp] theorem putField_err (a : Nat) (hi : Nat) (lo : Nat) (v : Nat) : (putField s a hi lo v).err = s.err := rfl
@[simp] theorem putField_evt (a : Nat) (hi : Nat) (lo : Nat) (v : Nat) : (putField s a hi lo v).evt = s.evt := rfl

/-! ## emit -/

@[simp] theorem emit_pending (e : Emission) : (emit s e).pending = s.pending := rfl
@[simp] theorem emit_regs (e : Emission) : (emit s e).regs = s.regs := rfl
@[simp] theorem emit_latch (e : Emission) : (emit s e).latch = s.latch := rfl
@[simp] theorem emit_fresh (e : Emission) : (emit s e).fresh = s.fresh := rfl
@[simp] theorem emit_time (e : Emission) : (emit s e).time = s.time := rfl
@[simp] theorem emit_bond (e : Emission) : (emit s e).bond = s.bond := rfl
@[simp] theorem emit_assets (e : Emission) : (emit s e).assets = s.assets := rfl
@[simp] theorem emit_staging (e : Emission) : (emit s e).staging = s.staging := rfl
@[simp] theorem emit_lpddr (e : Emission) : (emit s e).lpddr = s.lpddr := rfl
@[simp] theorem emit_scratch (e : Emission) : (emit s e).scratch = s.scratch := rfl
@[simp] theorem emit_poison (e : Emission) : (emit s e).poison = s.poison := rfl
@[simp] theorem emit_cores (e : Emission) : (emit s e).cores = s.cores := rfl
@[simp] theorem emit_credits (e : Emission) : (emit s e).credits = s.credits := rfl
@[simp] theorem emit_deliveries (e : Emission) : (emit s e).deliveries = s.deliveries := rfl
@[simp] theorem emit_steps (e : Emission) : (emit s e).steps = s.steps := rfl
@[simp] theorem emit_sel (e : Emission) : (emit s e).sel = s.sel := rfl
@[simp] theorem emit_front (e : Emission) : (emit s e).front = s.front := rfl
@[simp] theorem emit_serve (e : Emission) : (emit s e).serve = s.serve := rfl
@[simp] theorem emit_adm (e : Emission) : (emit s e).adm = s.adm := rfl
@[simp] theorem emit_energy (e : Emission) : (emit s e).energy = s.energy := rfl
@[simp] theorem emit_host (e : Emission) : (emit s e).host = s.host := rfl
@[simp] theorem emit_twin (e : Emission) : (emit s e).twin = s.twin := rfl
@[simp] theorem emit_pod (e : Emission) : (emit s e).pod = s.pod := rfl
@[simp] theorem emit_sec (e : Emission) : (emit s e).sec = s.sec := rfl
@[simp] theorem emit_plinth (e : Emission) : (emit s e).plinth = s.plinth := rfl
@[simp] theorem emit_text (e : Emission) : (emit s e).text = s.text := rfl
@[simp] theorem emit_topo (e : Emission) : (emit s e).topo = s.topo := rfl
@[simp] theorem emit_err (e : Emission) : (emit s e).err = s.err := rfl
@[simp] theorem emit_evt (e : Emission) : (emit s e).evt = s.evt := rfl
@[simp] theorem reg_emit (e : Emission) (y : Nat) : reg (emit s e) y = reg s y := rfl

/-! ## tick -/

@[simp] theorem tick_pending : (tick s).pending = s.pending := rfl
@[simp] theorem tick_regs : (tick s).regs = s.regs := rfl
@[simp] theorem tick_latch : (tick s).latch = s.latch := rfl
@[simp] theorem tick_emitted : (tick s).emitted = s.emitted := rfl
@[simp] theorem tick_time : (tick s).time = s.time := rfl
@[simp] theorem tick_bond : (tick s).bond = s.bond := rfl
@[simp] theorem tick_assets : (tick s).assets = s.assets := rfl
@[simp] theorem tick_staging : (tick s).staging = s.staging := rfl
@[simp] theorem tick_lpddr : (tick s).lpddr = s.lpddr := rfl
@[simp] theorem tick_scratch : (tick s).scratch = s.scratch := rfl
@[simp] theorem tick_poison : (tick s).poison = s.poison := rfl
@[simp] theorem tick_cores : (tick s).cores = s.cores := rfl
@[simp] theorem tick_credits : (tick s).credits = s.credits := rfl
@[simp] theorem tick_deliveries : (tick s).deliveries = s.deliveries := rfl
@[simp] theorem tick_steps : (tick s).steps = s.steps := rfl
@[simp] theorem tick_sel : (tick s).sel = s.sel := rfl
@[simp] theorem tick_front : (tick s).front = s.front := rfl
@[simp] theorem tick_serve : (tick s).serve = s.serve := rfl
@[simp] theorem tick_adm : (tick s).adm = s.adm := rfl
@[simp] theorem tick_energy : (tick s).energy = s.energy := rfl
@[simp] theorem tick_host : (tick s).host = s.host := rfl
@[simp] theorem tick_twin : (tick s).twin = s.twin := rfl
@[simp] theorem tick_pod : (tick s).pod = s.pod := rfl
@[simp] theorem tick_sec : (tick s).sec = s.sec := rfl
@[simp] theorem tick_plinth : (tick s).plinth = s.plinth := rfl
@[simp] theorem tick_text : (tick s).text = s.text := rfl
@[simp] theorem tick_topo : (tick s).topo = s.topo := rfl
@[simp] theorem tick_err : (tick s).err = s.err := rfl
@[simp] theorem tick_evt : (tick s).evt = s.evt := rfl
@[simp] theorem reg_tick (y : Nat) : reg (tick s) y = reg s y := rfl

/-! ## settle -/

@[simp] theorem settle_pending : (settle s).pending = s.pending := rfl
@[simp] theorem settle_regs : (settle s).regs = s.regs := rfl
@[simp] theorem settle_latch : (settle s).latch = s.latch := rfl
@[simp] theorem settle_fresh : (settle s).fresh = s.fresh := rfl
@[simp] theorem settle_time : (settle s).time = s.time := rfl
@[simp] theorem settle_bond : (settle s).bond = s.bond := rfl
@[simp] theorem settle_assets : (settle s).assets = s.assets := rfl
@[simp] theorem settle_staging : (settle s).staging = s.staging := rfl
@[simp] theorem settle_lpddr : (settle s).lpddr = s.lpddr := rfl
@[simp] theorem settle_scratch : (settle s).scratch = s.scratch := rfl
@[simp] theorem settle_poison : (settle s).poison = s.poison := rfl
@[simp] theorem settle_cores : (settle s).cores = s.cores := rfl
@[simp] theorem settle_credits : (settle s).credits = s.credits := rfl
@[simp] theorem settle_deliveries : (settle s).deliveries = s.deliveries := rfl
@[simp] theorem settle_steps : (settle s).steps = s.steps := rfl
@[simp] theorem settle_sel : (settle s).sel = s.sel := rfl
@[simp] theorem settle_front : (settle s).front = s.front := rfl
@[simp] theorem settle_serve : (settle s).serve = s.serve := rfl
@[simp] theorem settle_adm : (settle s).adm = s.adm := rfl
@[simp] theorem settle_energy : (settle s).energy = s.energy := rfl
@[simp] theorem settle_host : (settle s).host = s.host := rfl
@[simp] theorem settle_twin : (settle s).twin = s.twin := rfl
@[simp] theorem settle_pod : (settle s).pod = s.pod := rfl
@[simp] theorem settle_sec : (settle s).sec = s.sec := rfl
@[simp] theorem settle_plinth : (settle s).plinth = s.plinth := rfl
@[simp] theorem settle_text : (settle s).text = s.text := rfl
@[simp] theorem settle_topo : (settle s).topo = s.topo := rfl
@[simp] theorem settle_evt : (settle s).evt = s.evt := rfl
@[simp] theorem reg_settle (y : Nat) : reg (settle s) y = reg s y := rfl

/-! ## setCore -/

@[simp] theorem setCore_pending (c : Nat) (k : Core) : (setCore s c k).pending = s.pending := rfl
@[simp] theorem setCore_regs (c : Nat) (k : Core) : (setCore s c k).regs = s.regs := rfl
@[simp] theorem setCore_latch (c : Nat) (k : Core) : (setCore s c k).latch = s.latch := rfl
@[simp] theorem setCore_emitted (c : Nat) (k : Core) : (setCore s c k).emitted = s.emitted := rfl
@[simp] theorem setCore_fresh (c : Nat) (k : Core) : (setCore s c k).fresh = s.fresh := rfl
@[simp] theorem setCore_time (c : Nat) (k : Core) : (setCore s c k).time = s.time := rfl
@[simp] theorem setCore_bond (c : Nat) (k : Core) : (setCore s c k).bond = s.bond := rfl
@[simp] theorem setCore_assets (c : Nat) (k : Core) : (setCore s c k).assets = s.assets := rfl
@[simp] theorem setCore_staging (c : Nat) (k : Core) : (setCore s c k).staging = s.staging := rfl
@[simp] theorem setCore_lpddr (c : Nat) (k : Core) : (setCore s c k).lpddr = s.lpddr := rfl
@[simp] theorem setCore_scratch (c : Nat) (k : Core) : (setCore s c k).scratch = s.scratch := rfl
@[simp] theorem setCore_poison (c : Nat) (k : Core) : (setCore s c k).poison = s.poison := rfl
@[simp] theorem setCore_credits (c : Nat) (k : Core) : (setCore s c k).credits = s.credits := rfl
@[simp] theorem setCore_deliveries (c : Nat) (k : Core) : (setCore s c k).deliveries = s.deliveries := rfl
@[simp] theorem setCore_steps (c : Nat) (k : Core) : (setCore s c k).steps = s.steps := rfl
@[simp] theorem setCore_sel (c : Nat) (k : Core) : (setCore s c k).sel = s.sel := rfl
@[simp] theorem setCore_front (c : Nat) (k : Core) : (setCore s c k).front = s.front := rfl
@[simp] theorem setCore_serve (c : Nat) (k : Core) : (setCore s c k).serve = s.serve := rfl
@[simp] theorem setCore_adm (c : Nat) (k : Core) : (setCore s c k).adm = s.adm := rfl
@[simp] theorem setCore_energy (c : Nat) (k : Core) : (setCore s c k).energy = s.energy := rfl
@[simp] theorem setCore_host (c : Nat) (k : Core) : (setCore s c k).host = s.host := rfl
@[simp] theorem setCore_twin (c : Nat) (k : Core) : (setCore s c k).twin = s.twin := rfl
@[simp] theorem setCore_pod (c : Nat) (k : Core) : (setCore s c k).pod = s.pod := rfl
@[simp] theorem setCore_sec (c : Nat) (k : Core) : (setCore s c k).sec = s.sec := rfl
@[simp] theorem setCore_plinth (c : Nat) (k : Core) : (setCore s c k).plinth = s.plinth := rfl
@[simp] theorem setCore_text (c : Nat) (k : Core) : (setCore s c k).text = s.text := rfl
@[simp] theorem setCore_topo (c : Nat) (k : Core) : (setCore s c k).topo = s.topo := rfl
@[simp] theorem setCore_err (c : Nat) (k : Core) : (setCore s c k).err = s.err := rfl
@[simp] theorem setCore_evt (c : Nat) (k : Core) : (setCore s c k).evt = s.evt := rfl
@[simp] theorem reg_setCore (c : Nat) (k : Core) (y : Nat) : reg (setCore s c k) y = reg s y := rfl

/-! ## modCore -/

@[simp] theorem modCore_pending (c : Nat) (f : Core → Core) : (modCore s c f).pending = s.pending := rfl
@[simp] theorem modCore_regs (c : Nat) (f : Core → Core) : (modCore s c f).regs = s.regs := rfl
@[simp] theorem modCore_latch (c : Nat) (f : Core → Core) : (modCore s c f).latch = s.latch := rfl
@[simp] theorem modCore_emitted (c : Nat) (f : Core → Core) : (modCore s c f).emitted = s.emitted := rfl
@[simp] theorem modCore_fresh (c : Nat) (f : Core → Core) : (modCore s c f).fresh = s.fresh := rfl
@[simp] theorem modCore_time (c : Nat) (f : Core → Core) : (modCore s c f).time = s.time := rfl
@[simp] theorem modCore_bond (c : Nat) (f : Core → Core) : (modCore s c f).bond = s.bond := rfl
@[simp] theorem modCore_assets (c : Nat) (f : Core → Core) : (modCore s c f).assets = s.assets := rfl
@[simp] theorem modCore_staging (c : Nat) (f : Core → Core) : (modCore s c f).staging = s.staging := rfl
@[simp] theorem modCore_lpddr (c : Nat) (f : Core → Core) : (modCore s c f).lpddr = s.lpddr := rfl
@[simp] theorem modCore_scratch (c : Nat) (f : Core → Core) : (modCore s c f).scratch = s.scratch := rfl
@[simp] theorem modCore_poison (c : Nat) (f : Core → Core) : (modCore s c f).poison = s.poison := rfl
@[simp] theorem modCore_credits (c : Nat) (f : Core → Core) : (modCore s c f).credits = s.credits := rfl
@[simp] theorem modCore_deliveries (c : Nat) (f : Core → Core) : (modCore s c f).deliveries = s.deliveries := rfl
@[simp] theorem modCore_steps (c : Nat) (f : Core → Core) : (modCore s c f).steps = s.steps := rfl
@[simp] theorem modCore_sel (c : Nat) (f : Core → Core) : (modCore s c f).sel = s.sel := rfl
@[simp] theorem modCore_front (c : Nat) (f : Core → Core) : (modCore s c f).front = s.front := rfl
@[simp] theorem modCore_serve (c : Nat) (f : Core → Core) : (modCore s c f).serve = s.serve := rfl
@[simp] theorem modCore_adm (c : Nat) (f : Core → Core) : (modCore s c f).adm = s.adm := rfl
@[simp] theorem modCore_energy (c : Nat) (f : Core → Core) : (modCore s c f).energy = s.energy := rfl
@[simp] theorem modCore_host (c : Nat) (f : Core → Core) : (modCore s c f).host = s.host := rfl
@[simp] theorem modCore_twin (c : Nat) (f : Core → Core) : (modCore s c f).twin = s.twin := rfl
@[simp] theorem modCore_pod (c : Nat) (f : Core → Core) : (modCore s c f).pod = s.pod := rfl
@[simp] theorem modCore_sec (c : Nat) (f : Core → Core) : (modCore s c f).sec = s.sec := rfl
@[simp] theorem modCore_plinth (c : Nat) (f : Core → Core) : (modCore s c f).plinth = s.plinth := rfl
@[simp] theorem modCore_text (c : Nat) (f : Core → Core) : (modCore s c f).text = s.text := rfl
@[simp] theorem modCore_topo (c : Nat) (f : Core → Core) : (modCore s c f).topo = s.topo := rfl
@[simp] theorem modCore_err (c : Nat) (f : Core → Core) : (modCore s c f).err = s.err := rfl
@[simp] theorem modCore_evt (c : Nat) (f : Core → Core) : (modCore s c f).evt = s.evt := rfl
@[simp] theorem reg_modCore (c : Nat) (f : Core → Core) (y : Nat) : reg (modCore s c f) y = reg s y := rfl

/-! ## setUnit -/

@[simp] theorem setUnit_pending (cls : Nat) (i : Nat) (u : UnitSt) : (setUnit s cls i u).pending = s.pending := rfl
@[simp] theorem setUnit_regs (cls : Nat) (i : Nat) (u : UnitSt) : (setUnit s cls i u).regs = s.regs := rfl
@[simp] theorem setUnit_latch (cls : Nat) (i : Nat) (u : UnitSt) : (setUnit s cls i u).latch = s.latch := rfl
@[simp] theorem setUnit_emitted (cls : Nat) (i : Nat) (u : UnitSt) : (setUnit s cls i u).emitted = s.emitted := rfl
@[simp] theorem setUnit_fresh (cls : Nat) (i : Nat) (u : UnitSt) : (setUnit s cls i u).fresh = s.fresh := rfl
@[simp] theorem setUnit_time (cls : Nat) (i : Nat) (u : UnitSt) : (setUnit s cls i u).time = s.time := rfl
@[simp] theorem setUnit_bond (cls : Nat) (i : Nat) (u : UnitSt) : (setUnit s cls i u).bond = s.bond := rfl
@[simp] theorem setUnit_assets (cls : Nat) (i : Nat) (u : UnitSt) : (setUnit s cls i u).assets = s.assets := rfl
@[simp] theorem setUnit_staging (cls : Nat) (i : Nat) (u : UnitSt) : (setUnit s cls i u).staging = s.staging := rfl
@[simp] theorem setUnit_lpddr (cls : Nat) (i : Nat) (u : UnitSt) : (setUnit s cls i u).lpddr = s.lpddr := rfl
@[simp] theorem setUnit_scratch (cls : Nat) (i : Nat) (u : UnitSt) : (setUnit s cls i u).scratch = s.scratch := rfl
@[simp] theorem setUnit_poison (cls : Nat) (i : Nat) (u : UnitSt) : (setUnit s cls i u).poison = s.poison := rfl
@[simp] theorem setUnit_cores (cls : Nat) (i : Nat) (u : UnitSt) : (setUnit s cls i u).cores = s.cores := rfl
@[simp] theorem setUnit_credits (cls : Nat) (i : Nat) (u : UnitSt) : (setUnit s cls i u).credits = s.credits := rfl
@[simp] theorem setUnit_deliveries (cls : Nat) (i : Nat) (u : UnitSt) : (setUnit s cls i u).deliveries = s.deliveries := rfl
@[simp] theorem setUnit_steps (cls : Nat) (i : Nat) (u : UnitSt) : (setUnit s cls i u).steps = s.steps := rfl
@[simp] theorem setUnit_sel (cls : Nat) (i : Nat) (u : UnitSt) : (setUnit s cls i u).sel = s.sel := rfl
@[simp] theorem setUnit_front (cls : Nat) (i : Nat) (u : UnitSt) : (setUnit s cls i u).front = s.front := rfl
@[simp] theorem setUnit_serve (cls : Nat) (i : Nat) (u : UnitSt) : (setUnit s cls i u).serve = s.serve := rfl
@[simp] theorem setUnit_adm (cls : Nat) (i : Nat) (u : UnitSt) : (setUnit s cls i u).adm = s.adm := rfl
@[simp] theorem setUnit_energy (cls : Nat) (i : Nat) (u : UnitSt) : (setUnit s cls i u).energy = s.energy := rfl
@[simp] theorem setUnit_host (cls : Nat) (i : Nat) (u : UnitSt) : (setUnit s cls i u).host = s.host := rfl
@[simp] theorem setUnit_twin (cls : Nat) (i : Nat) (u : UnitSt) : (setUnit s cls i u).twin = s.twin := rfl
@[simp] theorem setUnit_pod (cls : Nat) (i : Nat) (u : UnitSt) : (setUnit s cls i u).pod = s.pod := rfl
@[simp] theorem setUnit_sec (cls : Nat) (i : Nat) (u : UnitSt) : (setUnit s cls i u).sec = s.sec := rfl
@[simp] theorem setUnit_plinth (cls : Nat) (i : Nat) (u : UnitSt) : (setUnit s cls i u).plinth = s.plinth := rfl
@[simp] theorem setUnit_text (cls : Nat) (i : Nat) (u : UnitSt) : (setUnit s cls i u).text = s.text := rfl
@[simp] theorem setUnit_err (cls : Nat) (i : Nat) (u : UnitSt) : (setUnit s cls i u).err = s.err := rfl
@[simp] theorem setUnit_evt (cls : Nat) (i : Nat) (u : UnitSt) : (setUnit s cls i u).evt = s.evt := rfl
@[simp] theorem reg_setUnit (cls : Nat) (i : Nat) (u : UnitSt) (y : Nat) : reg (setUnit s cls i u) y = reg s y := rfl

/-! ## spPut -/

@[simp] theorem spPut_pending (c : Nat) (x : Nat) (bs : List Byte) : (spPut s c x bs).pending = s.pending := rfl
@[simp] theorem spPut_regs (c : Nat) (x : Nat) (bs : List Byte) : (spPut s c x bs).regs = s.regs := rfl
@[simp] theorem spPut_latch (c : Nat) (x : Nat) (bs : List Byte) : (spPut s c x bs).latch = s.latch := rfl
@[simp] theorem spPut_emitted (c : Nat) (x : Nat) (bs : List Byte) : (spPut s c x bs).emitted = s.emitted := rfl
@[simp] theorem spPut_fresh (c : Nat) (x : Nat) (bs : List Byte) : (spPut s c x bs).fresh = s.fresh := rfl
@[simp] theorem spPut_time (c : Nat) (x : Nat) (bs : List Byte) : (spPut s c x bs).time = s.time := rfl
@[simp] theorem spPut_bond (c : Nat) (x : Nat) (bs : List Byte) : (spPut s c x bs).bond = s.bond := rfl
@[simp] theorem spPut_assets (c : Nat) (x : Nat) (bs : List Byte) : (spPut s c x bs).assets = s.assets := rfl
@[simp] theorem spPut_staging (c : Nat) (x : Nat) (bs : List Byte) : (spPut s c x bs).staging = s.staging := rfl
@[simp] theorem spPut_lpddr (c : Nat) (x : Nat) (bs : List Byte) : (spPut s c x bs).lpddr = s.lpddr := rfl
@[simp] theorem spPut_poison (c : Nat) (x : Nat) (bs : List Byte) : (spPut s c x bs).poison = s.poison := rfl
@[simp] theorem spPut_cores (c : Nat) (x : Nat) (bs : List Byte) : (spPut s c x bs).cores = s.cores := rfl
@[simp] theorem spPut_credits (c : Nat) (x : Nat) (bs : List Byte) : (spPut s c x bs).credits = s.credits := rfl
@[simp] theorem spPut_deliveries (c : Nat) (x : Nat) (bs : List Byte) : (spPut s c x bs).deliveries = s.deliveries := rfl
@[simp] theorem spPut_steps (c : Nat) (x : Nat) (bs : List Byte) : (spPut s c x bs).steps = s.steps := rfl
@[simp] theorem spPut_sel (c : Nat) (x : Nat) (bs : List Byte) : (spPut s c x bs).sel = s.sel := rfl
@[simp] theorem spPut_front (c : Nat) (x : Nat) (bs : List Byte) : (spPut s c x bs).front = s.front := rfl
@[simp] theorem spPut_serve (c : Nat) (x : Nat) (bs : List Byte) : (spPut s c x bs).serve = s.serve := rfl
@[simp] theorem spPut_adm (c : Nat) (x : Nat) (bs : List Byte) : (spPut s c x bs).adm = s.adm := rfl
@[simp] theorem spPut_energy (c : Nat) (x : Nat) (bs : List Byte) : (spPut s c x bs).energy = s.energy := rfl
@[simp] theorem spPut_host (c : Nat) (x : Nat) (bs : List Byte) : (spPut s c x bs).host = s.host := rfl
@[simp] theorem spPut_twin (c : Nat) (x : Nat) (bs : List Byte) : (spPut s c x bs).twin = s.twin := rfl
@[simp] theorem spPut_pod (c : Nat) (x : Nat) (bs : List Byte) : (spPut s c x bs).pod = s.pod := rfl
@[simp] theorem spPut_sec (c : Nat) (x : Nat) (bs : List Byte) : (spPut s c x bs).sec = s.sec := rfl
@[simp] theorem spPut_plinth (c : Nat) (x : Nat) (bs : List Byte) : (spPut s c x bs).plinth = s.plinth := rfl
@[simp] theorem spPut_text (c : Nat) (x : Nat) (bs : List Byte) : (spPut s c x bs).text = s.text := rfl
@[simp] theorem spPut_topo (c : Nat) (x : Nat) (bs : List Byte) : (spPut s c x bs).topo = s.topo := rfl
@[simp] theorem spPut_err (c : Nat) (x : Nat) (bs : List Byte) : (spPut s c x bs).err = s.err := rfl
@[simp] theorem spPut_evt (c : Nat) (x : Nat) (bs : List Byte) : (spPut s c x bs).evt = s.evt := rfl
@[simp] theorem reg_spPut (c : Nat) (x : Nat) (bs : List Byte) (y : Nat) : reg (spPut s c x bs) y = reg s y := rfl

/-! ## setTime -/

@[simp] theorem setTime_pending (t : TimeSt) : (setTime s t).pending = s.pending := rfl
@[simp] theorem setTime_regs (t : TimeSt) : (setTime s t).regs = s.regs := rfl
@[simp] theorem setTime_latch (t : TimeSt) : (setTime s t).latch = s.latch := rfl
@[simp] theorem setTime_emitted (t : TimeSt) : (setTime s t).emitted = s.emitted := rfl
@[simp] theorem setTime_fresh (t : TimeSt) : (setTime s t).fresh = s.fresh := rfl
@[simp] theorem setTime_bond (t : TimeSt) : (setTime s t).bond = s.bond := rfl
@[simp] theorem setTime_assets (t : TimeSt) : (setTime s t).assets = s.assets := rfl
@[simp] theorem setTime_staging (t : TimeSt) : (setTime s t).staging = s.staging := rfl
@[simp] theorem setTime_lpddr (t : TimeSt) : (setTime s t).lpddr = s.lpddr := rfl
@[simp] theorem setTime_scratch (t : TimeSt) : (setTime s t).scratch = s.scratch := rfl
@[simp] theorem setTime_poison (t : TimeSt) : (setTime s t).poison = s.poison := rfl
@[simp] theorem setTime_cores (t : TimeSt) : (setTime s t).cores = s.cores := rfl
@[simp] theorem setTime_credits (t : TimeSt) : (setTime s t).credits = s.credits := rfl
@[simp] theorem setTime_deliveries (t : TimeSt) : (setTime s t).deliveries = s.deliveries := rfl
@[simp] theorem setTime_steps (t : TimeSt) : (setTime s t).steps = s.steps := rfl
@[simp] theorem setTime_sel (t : TimeSt) : (setTime s t).sel = s.sel := rfl
@[simp] theorem setTime_front (t : TimeSt) : (setTime s t).front = s.front := rfl
@[simp] theorem setTime_serve (t : TimeSt) : (setTime s t).serve = s.serve := rfl
@[simp] theorem setTime_adm (t : TimeSt) : (setTime s t).adm = s.adm := rfl
@[simp] theorem setTime_energy (t : TimeSt) : (setTime s t).energy = s.energy := rfl
@[simp] theorem setTime_host (t : TimeSt) : (setTime s t).host = s.host := rfl
@[simp] theorem setTime_twin (t : TimeSt) : (setTime s t).twin = s.twin := rfl
@[simp] theorem setTime_pod (t : TimeSt) : (setTime s t).pod = s.pod := rfl
@[simp] theorem setTime_sec (t : TimeSt) : (setTime s t).sec = s.sec := rfl
@[simp] theorem setTime_plinth (t : TimeSt) : (setTime s t).plinth = s.plinth := rfl
@[simp] theorem setTime_text (t : TimeSt) : (setTime s t).text = s.text := rfl
@[simp] theorem setTime_topo (t : TimeSt) : (setTime s t).topo = s.topo := rfl
@[simp] theorem setTime_err (t : TimeSt) : (setTime s t).err = s.err := rfl
@[simp] theorem setTime_evt (t : TimeSt) : (setTime s t).evt = s.evt := rfl
@[simp] theorem reg_setTime (t : TimeSt) (y : Nat) : reg (setTime s t) y = reg s y := rfl

/-! ## setTwin -/

@[simp] theorem setTwin_pending (t : TwinSt) : (setTwin s t).pending = s.pending := rfl
@[simp] theorem setTwin_regs (t : TwinSt) : (setTwin s t).regs = s.regs := rfl
@[simp] theorem setTwin_latch (t : TwinSt) : (setTwin s t).latch = s.latch := rfl
@[simp] theorem setTwin_emitted (t : TwinSt) : (setTwin s t).emitted = s.emitted := rfl
@[simp] theorem setTwin_fresh (t : TwinSt) : (setTwin s t).fresh = s.fresh := rfl
@[simp] theorem setTwin_time (t : TwinSt) : (setTwin s t).time = s.time := rfl
@[simp] theorem setTwin_bond (t : TwinSt) : (setTwin s t).bond = s.bond := rfl
@[simp] theorem setTwin_assets (t : TwinSt) : (setTwin s t).assets = s.assets := rfl
@[simp] theorem setTwin_staging (t : TwinSt) : (setTwin s t).staging = s.staging := rfl
@[simp] theorem setTwin_lpddr (t : TwinSt) : (setTwin s t).lpddr = s.lpddr := rfl
@[simp] theorem setTwin_scratch (t : TwinSt) : (setTwin s t).scratch = s.scratch := rfl
@[simp] theorem setTwin_poison (t : TwinSt) : (setTwin s t).poison = s.poison := rfl
@[simp] theorem setTwin_cores (t : TwinSt) : (setTwin s t).cores = s.cores := rfl
@[simp] theorem setTwin_credits (t : TwinSt) : (setTwin s t).credits = s.credits := rfl
@[simp] theorem setTwin_deliveries (t : TwinSt) : (setTwin s t).deliveries = s.deliveries := rfl
@[simp] theorem setTwin_steps (t : TwinSt) : (setTwin s t).steps = s.steps := rfl
@[simp] theorem setTwin_sel (t : TwinSt) : (setTwin s t).sel = s.sel := rfl
@[simp] theorem setTwin_front (t : TwinSt) : (setTwin s t).front = s.front := rfl
@[simp] theorem setTwin_serve (t : TwinSt) : (setTwin s t).serve = s.serve := rfl
@[simp] theorem setTwin_adm (t : TwinSt) : (setTwin s t).adm = s.adm := rfl
@[simp] theorem setTwin_energy (t : TwinSt) : (setTwin s t).energy = s.energy := rfl
@[simp] theorem setTwin_host (t : TwinSt) : (setTwin s t).host = s.host := rfl
@[simp] theorem setTwin_pod (t : TwinSt) : (setTwin s t).pod = s.pod := rfl
@[simp] theorem setTwin_sec (t : TwinSt) : (setTwin s t).sec = s.sec := rfl
@[simp] theorem setTwin_plinth (t : TwinSt) : (setTwin s t).plinth = s.plinth := rfl
@[simp] theorem setTwin_text (t : TwinSt) : (setTwin s t).text = s.text := rfl
@[simp] theorem setTwin_topo (t : TwinSt) : (setTwin s t).topo = s.topo := rfl
@[simp] theorem setTwin_err (t : TwinSt) : (setTwin s t).err = s.err := rfl
@[simp] theorem setTwin_evt (t : TwinSt) : (setTwin s t).evt = s.evt := rfl
@[simp] theorem reg_setTwin (t : TwinSt) (y : Nat) : reg (setTwin s t) y = reg s y := rfl

/-! ## setVc -/

@[simp] theorem setVc_pending (v : Nat) (x : Vc) : (setVc s v x).pending = s.pending := rfl
@[simp] theorem setVc_regs (v : Nat) (x : Vc) : (setVc s v x).regs = s.regs := rfl
@[simp] theorem setVc_latch (v : Nat) (x : Vc) : (setVc s v x).latch = s.latch := rfl
@[simp] theorem setVc_emitted (v : Nat) (x : Vc) : (setVc s v x).emitted = s.emitted := rfl
@[simp] theorem setVc_fresh (v : Nat) (x : Vc) : (setVc s v x).fresh = s.fresh := rfl
@[simp] theorem setVc_time (v : Nat) (x : Vc) : (setVc s v x).time = s.time := rfl
@[simp] theorem setVc_bond (v : Nat) (x : Vc) : (setVc s v x).bond = s.bond := rfl
@[simp] theorem setVc_assets (v : Nat) (x : Vc) : (setVc s v x).assets = s.assets := rfl
@[simp] theorem setVc_staging (v : Nat) (x : Vc) : (setVc s v x).staging = s.staging := rfl
@[simp] theorem setVc_lpddr (v : Nat) (x : Vc) : (setVc s v x).lpddr = s.lpddr := rfl
@[simp] theorem setVc_scratch (v : Nat) (x : Vc) : (setVc s v x).scratch = s.scratch := rfl
@[simp] theorem setVc_poison (v : Nat) (x : Vc) : (setVc s v x).poison = s.poison := rfl
@[simp] theorem setVc_cores (v : Nat) (x : Vc) : (setVc s v x).cores = s.cores := rfl
@[simp] theorem setVc_credits (v : Nat) (x : Vc) : (setVc s v x).credits = s.credits := rfl
@[simp] theorem setVc_deliveries (v : Nat) (x : Vc) : (setVc s v x).deliveries = s.deliveries := rfl
@[simp] theorem setVc_steps (v : Nat) (x : Vc) : (setVc s v x).steps = s.steps := rfl
@[simp] theorem setVc_sel (v : Nat) (x : Vc) : (setVc s v x).sel = s.sel := rfl
@[simp] theorem setVc_front (v : Nat) (x : Vc) : (setVc s v x).front = s.front := rfl
@[simp] theorem setVc_serve (v : Nat) (x : Vc) : (setVc s v x).serve = s.serve := rfl
@[simp] theorem setVc_adm (v : Nat) (x : Vc) : (setVc s v x).adm = s.adm := rfl
@[simp] theorem setVc_energy (v : Nat) (x : Vc) : (setVc s v x).energy = s.energy := rfl
@[simp] theorem setVc_host (v : Nat) (x : Vc) : (setVc s v x).host = s.host := rfl
@[simp] theorem setVc_pod (v : Nat) (x : Vc) : (setVc s v x).pod = s.pod := rfl
@[simp] theorem setVc_sec (v : Nat) (x : Vc) : (setVc s v x).sec = s.sec := rfl
@[simp] theorem setVc_plinth (v : Nat) (x : Vc) : (setVc s v x).plinth = s.plinth := rfl
@[simp] theorem setVc_text (v : Nat) (x : Vc) : (setVc s v x).text = s.text := rfl
@[simp] theorem setVc_topo (v : Nat) (x : Vc) : (setVc s v x).topo = s.topo := rfl
@[simp] theorem setVc_err (v : Nat) (x : Vc) : (setVc s v x).err = s.err := rfl
@[simp] theorem setVc_evt (v : Nat) (x : Vc) : (setVc s v x).evt = s.evt := rfl
@[simp] theorem reg_setVc (v : Nat) (x : Vc) (y : Nat) : reg (setVc s v x) y = reg s y := rfl

/-! ## setSec -/

@[simp] theorem setSec_pending (x : SecSt) : (setSec s x).pending = s.pending := rfl
@[simp] theorem setSec_regs (x : SecSt) : (setSec s x).regs = s.regs := rfl
@[simp] theorem setSec_latch (x : SecSt) : (setSec s x).latch = s.latch := rfl
@[simp] theorem setSec_emitted (x : SecSt) : (setSec s x).emitted = s.emitted := rfl
@[simp] theorem setSec_fresh (x : SecSt) : (setSec s x).fresh = s.fresh := rfl
@[simp] theorem setSec_time (x : SecSt) : (setSec s x).time = s.time := rfl
@[simp] theorem setSec_bond (x : SecSt) : (setSec s x).bond = s.bond := rfl
@[simp] theorem setSec_assets (x : SecSt) : (setSec s x).assets = s.assets := rfl
@[simp] theorem setSec_staging (x : SecSt) : (setSec s x).staging = s.staging := rfl
@[simp] theorem setSec_lpddr (x : SecSt) : (setSec s x).lpddr = s.lpddr := rfl
@[simp] theorem setSec_scratch (x : SecSt) : (setSec s x).scratch = s.scratch := rfl
@[simp] theorem setSec_poison (x : SecSt) : (setSec s x).poison = s.poison := rfl
@[simp] theorem setSec_cores (x : SecSt) : (setSec s x).cores = s.cores := rfl
@[simp] theorem setSec_credits (x : SecSt) : (setSec s x).credits = s.credits := rfl
@[simp] theorem setSec_deliveries (x : SecSt) : (setSec s x).deliveries = s.deliveries := rfl
@[simp] theorem setSec_steps (x : SecSt) : (setSec s x).steps = s.steps := rfl
@[simp] theorem setSec_sel (x : SecSt) : (setSec s x).sel = s.sel := rfl
@[simp] theorem setSec_front (x : SecSt) : (setSec s x).front = s.front := rfl
@[simp] theorem setSec_serve (x : SecSt) : (setSec s x).serve = s.serve := rfl
@[simp] theorem setSec_adm (x : SecSt) : (setSec s x).adm = s.adm := rfl
@[simp] theorem setSec_energy (x : SecSt) : (setSec s x).energy = s.energy := rfl
@[simp] theorem setSec_host (x : SecSt) : (setSec s x).host = s.host := rfl
@[simp] theorem setSec_twin (x : SecSt) : (setSec s x).twin = s.twin := rfl
@[simp] theorem setSec_pod (x : SecSt) : (setSec s x).pod = s.pod := rfl
@[simp] theorem setSec_plinth (x : SecSt) : (setSec s x).plinth = s.plinth := rfl
@[simp] theorem setSec_text (x : SecSt) : (setSec s x).text = s.text := rfl
@[simp] theorem setSec_topo (x : SecSt) : (setSec s x).topo = s.topo := rfl
@[simp] theorem setSec_err (x : SecSt) : (setSec s x).err = s.err := rfl
@[simp] theorem setSec_evt (x : SecSt) : (setSec s x).evt = s.evt := rfl
@[simp] theorem reg_setSec (x : SecSt) (y : Nat) : reg (setSec s x) y = reg s y := rfl

/-! ## setPlinth -/

@[simp] theorem setPlinth_pending (p : PlinthSt) : (setPlinth s p).pending = s.pending := rfl
@[simp] theorem setPlinth_regs (p : PlinthSt) : (setPlinth s p).regs = s.regs := rfl
@[simp] theorem setPlinth_latch (p : PlinthSt) : (setPlinth s p).latch = s.latch := rfl
@[simp] theorem setPlinth_emitted (p : PlinthSt) : (setPlinth s p).emitted = s.emitted := rfl
@[simp] theorem setPlinth_fresh (p : PlinthSt) : (setPlinth s p).fresh = s.fresh := rfl
@[simp] theorem setPlinth_time (p : PlinthSt) : (setPlinth s p).time = s.time := rfl
@[simp] theorem setPlinth_bond (p : PlinthSt) : (setPlinth s p).bond = s.bond := rfl
@[simp] theorem setPlinth_assets (p : PlinthSt) : (setPlinth s p).assets = s.assets := rfl
@[simp] theorem setPlinth_staging (p : PlinthSt) : (setPlinth s p).staging = s.staging := rfl
@[simp] theorem setPlinth_lpddr (p : PlinthSt) : (setPlinth s p).lpddr = s.lpddr := rfl
@[simp] theorem setPlinth_scratch (p : PlinthSt) : (setPlinth s p).scratch = s.scratch := rfl
@[simp] theorem setPlinth_poison (p : PlinthSt) : (setPlinth s p).poison = s.poison := rfl
@[simp] theorem setPlinth_cores (p : PlinthSt) : (setPlinth s p).cores = s.cores := rfl
@[simp] theorem setPlinth_credits (p : PlinthSt) : (setPlinth s p).credits = s.credits := rfl
@[simp] theorem setPlinth_deliveries (p : PlinthSt) : (setPlinth s p).deliveries = s.deliveries := rfl
@[simp] theorem setPlinth_steps (p : PlinthSt) : (setPlinth s p).steps = s.steps := rfl
@[simp] theorem setPlinth_sel (p : PlinthSt) : (setPlinth s p).sel = s.sel := rfl
@[simp] theorem setPlinth_front (p : PlinthSt) : (setPlinth s p).front = s.front := rfl
@[simp] theorem setPlinth_serve (p : PlinthSt) : (setPlinth s p).serve = s.serve := rfl
@[simp] theorem setPlinth_adm (p : PlinthSt) : (setPlinth s p).adm = s.adm := rfl
@[simp] theorem setPlinth_energy (p : PlinthSt) : (setPlinth s p).energy = s.energy := rfl
@[simp] theorem setPlinth_host (p : PlinthSt) : (setPlinth s p).host = s.host := rfl
@[simp] theorem setPlinth_twin (p : PlinthSt) : (setPlinth s p).twin = s.twin := rfl
@[simp] theorem setPlinth_pod (p : PlinthSt) : (setPlinth s p).pod = s.pod := rfl
@[simp] theorem setPlinth_sec (p : PlinthSt) : (setPlinth s p).sec = s.sec := rfl
@[simp] theorem setPlinth_text (p : PlinthSt) : (setPlinth s p).text = s.text := rfl
@[simp] theorem setPlinth_topo (p : PlinthSt) : (setPlinth s p).topo = s.topo := rfl
@[simp] theorem setPlinth_err (p : PlinthSt) : (setPlinth s p).err = s.err := rfl
@[simp] theorem setPlinth_evt (p : PlinthSt) : (setPlinth s p).evt = s.evt := rfl
@[simp] theorem reg_setPlinth (p : PlinthSt) (y : Nat) : reg (setPlinth s p) y = reg s y := rfl

/-! ## setPair -/

@[simp] theorem setPair_pending (q : Nat) (p : Pair) : (setPair s q p).pending = s.pending := rfl
@[simp] theorem setPair_regs (q : Nat) (p : Pair) : (setPair s q p).regs = s.regs := rfl
@[simp] theorem setPair_latch (q : Nat) (p : Pair) : (setPair s q p).latch = s.latch := rfl
@[simp] theorem setPair_emitted (q : Nat) (p : Pair) : (setPair s q p).emitted = s.emitted := rfl
@[simp] theorem setPair_fresh (q : Nat) (p : Pair) : (setPair s q p).fresh = s.fresh := rfl
@[simp] theorem setPair_time (q : Nat) (p : Pair) : (setPair s q p).time = s.time := rfl
@[simp] theorem setPair_bond (q : Nat) (p : Pair) : (setPair s q p).bond = s.bond := rfl
@[simp] theorem setPair_assets (q : Nat) (p : Pair) : (setPair s q p).assets = s.assets := rfl
@[simp] theorem setPair_staging (q : Nat) (p : Pair) : (setPair s q p).staging = s.staging := rfl
@[simp] theorem setPair_lpddr (q : Nat) (p : Pair) : (setPair s q p).lpddr = s.lpddr := rfl
@[simp] theorem setPair_scratch (q : Nat) (p : Pair) : (setPair s q p).scratch = s.scratch := rfl
@[simp] theorem setPair_poison (q : Nat) (p : Pair) : (setPair s q p).poison = s.poison := rfl
@[simp] theorem setPair_cores (q : Nat) (p : Pair) : (setPair s q p).cores = s.cores := rfl
@[simp] theorem setPair_credits (q : Nat) (p : Pair) : (setPair s q p).credits = s.credits := rfl
@[simp] theorem setPair_deliveries (q : Nat) (p : Pair) : (setPair s q p).deliveries = s.deliveries := rfl
@[simp] theorem setPair_steps (q : Nat) (p : Pair) : (setPair s q p).steps = s.steps := rfl
@[simp] theorem setPair_sel (q : Nat) (p : Pair) : (setPair s q p).sel = s.sel := rfl
@[simp] theorem setPair_front (q : Nat) (p : Pair) : (setPair s q p).front = s.front := rfl
@[simp] theorem setPair_serve (q : Nat) (p : Pair) : (setPair s q p).serve = s.serve := rfl
@[simp] theorem setPair_adm (q : Nat) (p : Pair) : (setPair s q p).adm = s.adm := rfl
@[simp] theorem setPair_energy (q : Nat) (p : Pair) : (setPair s q p).energy = s.energy := rfl
@[simp] theorem setPair_twin (q : Nat) (p : Pair) : (setPair s q p).twin = s.twin := rfl
@[simp] theorem setPair_pod (q : Nat) (p : Pair) : (setPair s q p).pod = s.pod := rfl
@[simp] theorem setPair_sec (q : Nat) (p : Pair) : (setPair s q p).sec = s.sec := rfl
@[simp] theorem setPair_plinth (q : Nat) (p : Pair) : (setPair s q p).plinth = s.plinth := rfl
@[simp] theorem setPair_text (q : Nat) (p : Pair) : (setPair s q p).text = s.text := rfl
@[simp] theorem setPair_topo (q : Nat) (p : Pair) : (setPair s q p).topo = s.topo := rfl
@[simp] theorem setPair_err (q : Nat) (p : Pair) : (setPair s q p).err = s.err := rfl
@[simp] theorem setPair_evt (q : Nat) (p : Pair) : (setPair s q p).evt = s.evt := rfl
@[simp] theorem reg_setPair (q : Nat) (p : Pair) (y : Nat) : reg (setPair s q p) y = reg s y := rfl

/-! ## setChan -/

@[simp] theorem setChan_pending (c : Nat) (x : Chan) : (setChan s c x).pending = s.pending := rfl
@[simp] theorem setChan_regs (c : Nat) (x : Chan) : (setChan s c x).regs = s.regs := rfl
@[simp] theorem setChan_latch (c : Nat) (x : Chan) : (setChan s c x).latch = s.latch := rfl
@[simp] theorem setChan_emitted (c : Nat) (x : Chan) : (setChan s c x).emitted = s.emitted := rfl
@[simp] theorem setChan_fresh (c : Nat) (x : Chan) : (setChan s c x).fresh = s.fresh := rfl
@[simp] theorem setChan_time (c : Nat) (x : Chan) : (setChan s c x).time = s.time := rfl
@[simp] theorem setChan_bond (c : Nat) (x : Chan) : (setChan s c x).bond = s.bond := rfl
@[simp] theorem setChan_assets (c : Nat) (x : Chan) : (setChan s c x).assets = s.assets := rfl
@[simp] theorem setChan_staging (c : Nat) (x : Chan) : (setChan s c x).staging = s.staging := rfl
@[simp] theorem setChan_lpddr (c : Nat) (x : Chan) : (setChan s c x).lpddr = s.lpddr := rfl
@[simp] theorem setChan_scratch (c : Nat) (x : Chan) : (setChan s c x).scratch = s.scratch := rfl
@[simp] theorem setChan_poison (c : Nat) (x : Chan) : (setChan s c x).poison = s.poison := rfl
@[simp] theorem setChan_cores (c : Nat) (x : Chan) : (setChan s c x).cores = s.cores := rfl
@[simp] theorem setChan_credits (c : Nat) (x : Chan) : (setChan s c x).credits = s.credits := rfl
@[simp] theorem setChan_deliveries (c : Nat) (x : Chan) : (setChan s c x).deliveries = s.deliveries := rfl
@[simp] theorem setChan_steps (c : Nat) (x : Chan) : (setChan s c x).steps = s.steps := rfl
@[simp] theorem setChan_sel (c : Nat) (x : Chan) : (setChan s c x).sel = s.sel := rfl
@[simp] theorem setChan_front (c : Nat) (x : Chan) : (setChan s c x).front = s.front := rfl
@[simp] theorem setChan_serve (c : Nat) (x : Chan) : (setChan s c x).serve = s.serve := rfl
@[simp] theorem setChan_adm (c : Nat) (x : Chan) : (setChan s c x).adm = s.adm := rfl
@[simp] theorem setChan_energy (c : Nat) (x : Chan) : (setChan s c x).energy = s.energy := rfl
@[simp] theorem setChan_twin (c : Nat) (x : Chan) : (setChan s c x).twin = s.twin := rfl
@[simp] theorem setChan_pod (c : Nat) (x : Chan) : (setChan s c x).pod = s.pod := rfl
@[simp] theorem setChan_sec (c : Nat) (x : Chan) : (setChan s c x).sec = s.sec := rfl
@[simp] theorem setChan_plinth (c : Nat) (x : Chan) : (setChan s c x).plinth = s.plinth := rfl
@[simp] theorem setChan_text (c : Nat) (x : Chan) : (setChan s c x).text = s.text := rfl
@[simp] theorem setChan_topo (c : Nat) (x : Chan) : (setChan s c x).topo = s.topo := rfl
@[simp] theorem setChan_err (c : Nat) (x : Chan) : (setChan s c x).err = s.err := rfl
@[simp] theorem setChan_evt (c : Nat) (x : Chan) : (setChan s c x).evt = s.evt := rfl
@[simp] theorem reg_setChan (c : Nat) (x : Chan) (y : Nat) : reg (setChan s c x) y = reg s y := rfl

/-! ## setReq -/

@[simp] theorem setReq_pending (k : Nat) (r : Option Req) : (setReq s k r).pending = s.pending := rfl
@[simp] theorem setReq_regs (k : Nat) (r : Option Req) : (setReq s k r).regs = s.regs := rfl
@[simp] theorem setReq_latch (k : Nat) (r : Option Req) : (setReq s k r).latch = s.latch := rfl
@[simp] theorem setReq_emitted (k : Nat) (r : Option Req) : (setReq s k r).emitted = s.emitted := rfl
@[simp] theorem setReq_fresh (k : Nat) (r : Option Req) : (setReq s k r).fresh = s.fresh := rfl
@[simp] theorem setReq_time (k : Nat) (r : Option Req) : (setReq s k r).time = s.time := rfl
@[simp] theorem setReq_bond (k : Nat) (r : Option Req) : (setReq s k r).bond = s.bond := rfl
@[simp] theorem setReq_assets (k : Nat) (r : Option Req) : (setReq s k r).assets = s.assets := rfl
@[simp] theorem setReq_staging (k : Nat) (r : Option Req) : (setReq s k r).staging = s.staging := rfl
@[simp] theorem setReq_lpddr (k : Nat) (r : Option Req) : (setReq s k r).lpddr = s.lpddr := rfl
@[simp] theorem setReq_scratch (k : Nat) (r : Option Req) : (setReq s k r).scratch = s.scratch := rfl
@[simp] theorem setReq_poison (k : Nat) (r : Option Req) : (setReq s k r).poison = s.poison := rfl
@[simp] theorem setReq_cores (k : Nat) (r : Option Req) : (setReq s k r).cores = s.cores := rfl
@[simp] theorem setReq_credits (k : Nat) (r : Option Req) : (setReq s k r).credits = s.credits := rfl
@[simp] theorem setReq_deliveries (k : Nat) (r : Option Req) : (setReq s k r).deliveries = s.deliveries := rfl
@[simp] theorem setReq_steps (k : Nat) (r : Option Req) : (setReq s k r).steps = s.steps := rfl
@[simp] theorem setReq_sel (k : Nat) (r : Option Req) : (setReq s k r).sel = s.sel := rfl
@[simp] theorem setReq_serve (k : Nat) (r : Option Req) : (setReq s k r).serve = s.serve := rfl
@[simp] theorem setReq_adm (k : Nat) (r : Option Req) : (setReq s k r).adm = s.adm := rfl
@[simp] theorem setReq_energy (k : Nat) (r : Option Req) : (setReq s k r).energy = s.energy := rfl
@[simp] theorem setReq_host (k : Nat) (r : Option Req) : (setReq s k r).host = s.host := rfl
@[simp] theorem setReq_twin (k : Nat) (r : Option Req) : (setReq s k r).twin = s.twin := rfl
@[simp] theorem setReq_pod (k : Nat) (r : Option Req) : (setReq s k r).pod = s.pod := rfl
@[simp] theorem setReq_sec (k : Nat) (r : Option Req) : (setReq s k r).sec = s.sec := rfl
@[simp] theorem setReq_plinth (k : Nat) (r : Option Req) : (setReq s k r).plinth = s.plinth := rfl
@[simp] theorem setReq_text (k : Nat) (r : Option Req) : (setReq s k r).text = s.text := rfl
@[simp] theorem setReq_topo (k : Nat) (r : Option Req) : (setReq s k r).topo = s.topo := rfl
@[simp] theorem setReq_err (k : Nat) (r : Option Req) : (setReq s k r).err = s.err := rfl
@[simp] theorem setReq_evt (k : Nat) (r : Option Req) : (setReq s k r).evt = s.evt := rfl
@[simp] theorem reg_setReq (k : Nat) (r : Option Req) (y : Nat) : reg (setReq s k r) y = reg s y := rfl

/-! ## setSeq -/

@[simp] theorem setSeq_pending (e : Nat) (q : SeqEntry) : (setSeq s e q).pending = s.pending := rfl
@[simp] theorem setSeq_regs (e : Nat) (q : SeqEntry) : (setSeq s e q).regs = s.regs := rfl
@[simp] theorem setSeq_latch (e : Nat) (q : SeqEntry) : (setSeq s e q).latch = s.latch := rfl
@[simp] theorem setSeq_emitted (e : Nat) (q : SeqEntry) : (setSeq s e q).emitted = s.emitted := rfl
@[simp] theorem setSeq_fresh (e : Nat) (q : SeqEntry) : (setSeq s e q).fresh = s.fresh := rfl
@[simp] theorem setSeq_time (e : Nat) (q : SeqEntry) : (setSeq s e q).time = s.time := rfl
@[simp] theorem setSeq_bond (e : Nat) (q : SeqEntry) : (setSeq s e q).bond = s.bond := rfl
@[simp] theorem setSeq_assets (e : Nat) (q : SeqEntry) : (setSeq s e q).assets = s.assets := rfl
@[simp] theorem setSeq_staging (e : Nat) (q : SeqEntry) : (setSeq s e q).staging = s.staging := rfl
@[simp] theorem setSeq_lpddr (e : Nat) (q : SeqEntry) : (setSeq s e q).lpddr = s.lpddr := rfl
@[simp] theorem setSeq_scratch (e : Nat) (q : SeqEntry) : (setSeq s e q).scratch = s.scratch := rfl
@[simp] theorem setSeq_poison (e : Nat) (q : SeqEntry) : (setSeq s e q).poison = s.poison := rfl
@[simp] theorem setSeq_cores (e : Nat) (q : SeqEntry) : (setSeq s e q).cores = s.cores := rfl
@[simp] theorem setSeq_credits (e : Nat) (q : SeqEntry) : (setSeq s e q).credits = s.credits := rfl
@[simp] theorem setSeq_deliveries (e : Nat) (q : SeqEntry) : (setSeq s e q).deliveries = s.deliveries := rfl
@[simp] theorem setSeq_steps (e : Nat) (q : SeqEntry) : (setSeq s e q).steps = s.steps := rfl
@[simp] theorem setSeq_sel (e : Nat) (q : SeqEntry) : (setSeq s e q).sel = s.sel := rfl
@[simp] theorem setSeq_front (e : Nat) (q : SeqEntry) : (setSeq s e q).front = s.front := rfl
@[simp] theorem setSeq_adm (e : Nat) (q : SeqEntry) : (setSeq s e q).adm = s.adm := rfl
@[simp] theorem setSeq_energy (e : Nat) (q : SeqEntry) : (setSeq s e q).energy = s.energy := rfl
@[simp] theorem setSeq_host (e : Nat) (q : SeqEntry) : (setSeq s e q).host = s.host := rfl
@[simp] theorem setSeq_twin (e : Nat) (q : SeqEntry) : (setSeq s e q).twin = s.twin := rfl
@[simp] theorem setSeq_pod (e : Nat) (q : SeqEntry) : (setSeq s e q).pod = s.pod := rfl
@[simp] theorem setSeq_sec (e : Nat) (q : SeqEntry) : (setSeq s e q).sec = s.sec := rfl
@[simp] theorem setSeq_plinth (e : Nat) (q : SeqEntry) : (setSeq s e q).plinth = s.plinth := rfl
@[simp] theorem setSeq_text (e : Nat) (q : SeqEntry) : (setSeq s e q).text = s.text := rfl
@[simp] theorem setSeq_topo (e : Nat) (q : SeqEntry) : (setSeq s e q).topo = s.topo := rfl
@[simp] theorem setSeq_err (e : Nat) (q : SeqEntry) : (setSeq s e q).err = s.err := rfl
@[simp] theorem setSeq_evt (e : Nat) (q : SeqEntry) : (setSeq s e q).evt = s.evt := rfl
@[simp] theorem reg_setSeq (e : Nat) (q : SeqEntry) (y : Nat) : reg (setSeq s e q) y = reg s y := rfl

/-! ## setVset -/

@[simp] theorem setVset_pending (v : Nat) (l : List (Nat × Nat)) : (setVset s v l).pending = s.pending := rfl
@[simp] theorem setVset_regs (v : Nat) (l : List (Nat × Nat)) : (setVset s v l).regs = s.regs := rfl
@[simp] theorem setVset_latch (v : Nat) (l : List (Nat × Nat)) : (setVset s v l).latch = s.latch := rfl
@[simp] theorem setVset_emitted (v : Nat) (l : List (Nat × Nat)) : (setVset s v l).emitted = s.emitted := rfl
@[simp] theorem setVset_fresh (v : Nat) (l : List (Nat × Nat)) : (setVset s v l).fresh = s.fresh := rfl
@[simp] theorem setVset_time (v : Nat) (l : List (Nat × Nat)) : (setVset s v l).time = s.time := rfl
@[simp] theorem setVset_bond (v : Nat) (l : List (Nat × Nat)) : (setVset s v l).bond = s.bond := rfl
@[simp] theorem setVset_assets (v : Nat) (l : List (Nat × Nat)) : (setVset s v l).assets = s.assets := rfl
@[simp] theorem setVset_staging (v : Nat) (l : List (Nat × Nat)) : (setVset s v l).staging = s.staging := rfl
@[simp] theorem setVset_lpddr (v : Nat) (l : List (Nat × Nat)) : (setVset s v l).lpddr = s.lpddr := rfl
@[simp] theorem setVset_scratch (v : Nat) (l : List (Nat × Nat)) : (setVset s v l).scratch = s.scratch := rfl
@[simp] theorem setVset_poison (v : Nat) (l : List (Nat × Nat)) : (setVset s v l).poison = s.poison := rfl
@[simp] theorem setVset_cores (v : Nat) (l : List (Nat × Nat)) : (setVset s v l).cores = s.cores := rfl
@[simp] theorem setVset_credits (v : Nat) (l : List (Nat × Nat)) : (setVset s v l).credits = s.credits := rfl
@[simp] theorem setVset_deliveries (v : Nat) (l : List (Nat × Nat)) : (setVset s v l).deliveries = s.deliveries := rfl
@[simp] theorem setVset_steps (v : Nat) (l : List (Nat × Nat)) : (setVset s v l).steps = s.steps := rfl
@[simp] theorem setVset_sel (v : Nat) (l : List (Nat × Nat)) : (setVset s v l).sel = s.sel := rfl
@[simp] theorem setVset_front (v : Nat) (l : List (Nat × Nat)) : (setVset s v l).front = s.front := rfl
@[simp] theorem setVset_adm (v : Nat) (l : List (Nat × Nat)) : (setVset s v l).adm = s.adm := rfl
@[simp] theorem setVset_energy (v : Nat) (l : List (Nat × Nat)) : (setVset s v l).energy = s.energy := rfl
@[simp] theorem setVset_host (v : Nat) (l : List (Nat × Nat)) : (setVset s v l).host = s.host := rfl
@[simp] theorem setVset_twin (v : Nat) (l : List (Nat × Nat)) : (setVset s v l).twin = s.twin := rfl
@[simp] theorem setVset_pod (v : Nat) (l : List (Nat × Nat)) : (setVset s v l).pod = s.pod := rfl
@[simp] theorem setVset_sec (v : Nat) (l : List (Nat × Nat)) : (setVset s v l).sec = s.sec := rfl
@[simp] theorem setVset_plinth (v : Nat) (l : List (Nat × Nat)) : (setVset s v l).plinth = s.plinth := rfl
@[simp] theorem setVset_text (v : Nat) (l : List (Nat × Nat)) : (setVset s v l).text = s.text := rfl
@[simp] theorem setVset_topo (v : Nat) (l : List (Nat × Nat)) : (setVset s v l).topo = s.topo := rfl
@[simp] theorem setVset_err (v : Nat) (l : List (Nat × Nat)) : (setVset s v l).err = s.err := rfl
@[simp] theorem setVset_evt (v : Nat) (l : List (Nat × Nat)) : (setVset s v l).evt = s.evt := rfl
@[simp] theorem reg_setVset (v : Nat) (l : List (Nat × Nat)) (y : Nat) : reg (setVset s v l) y = reg s y := rfl

/-! ## setPort -/

@[simp] theorem setPort_pending (n : Nat) (x : Port) : (setPort s n x).pending = s.pending := rfl
@[simp] theorem setPort_regs (n : Nat) (x : Port) : (setPort s n x).regs = s.regs := rfl
@[simp] theorem setPort_latch (n : Nat) (x : Port) : (setPort s n x).latch = s.latch := rfl
@[simp] theorem setPort_emitted (n : Nat) (x : Port) : (setPort s n x).emitted = s.emitted := rfl
@[simp] theorem setPort_fresh (n : Nat) (x : Port) : (setPort s n x).fresh = s.fresh := rfl
@[simp] theorem setPort_time (n : Nat) (x : Port) : (setPort s n x).time = s.time := rfl
@[simp] theorem setPort_bond (n : Nat) (x : Port) : (setPort s n x).bond = s.bond := rfl
@[simp] theorem setPort_assets (n : Nat) (x : Port) : (setPort s n x).assets = s.assets := rfl
@[simp] theorem setPort_staging (n : Nat) (x : Port) : (setPort s n x).staging = s.staging := rfl
@[simp] theorem setPort_lpddr (n : Nat) (x : Port) : (setPort s n x).lpddr = s.lpddr := rfl
@[simp] theorem setPort_scratch (n : Nat) (x : Port) : (setPort s n x).scratch = s.scratch := rfl
@[simp] theorem setPort_poison (n : Nat) (x : Port) : (setPort s n x).poison = s.poison := rfl
@[simp] theorem setPort_cores (n : Nat) (x : Port) : (setPort s n x).cores = s.cores := rfl
@[simp] theorem setPort_credits (n : Nat) (x : Port) : (setPort s n x).credits = s.credits := rfl
@[simp] theorem setPort_deliveries (n : Nat) (x : Port) : (setPort s n x).deliveries = s.deliveries := rfl
@[simp] theorem setPort_steps (n : Nat) (x : Port) : (setPort s n x).steps = s.steps := rfl
@[simp] theorem setPort_sel (n : Nat) (x : Port) : (setPort s n x).sel = s.sel := rfl
@[simp] theorem setPort_front (n : Nat) (x : Port) : (setPort s n x).front = s.front := rfl
@[simp] theorem setPort_serve (n : Nat) (x : Port) : (setPort s n x).serve = s.serve := rfl
@[simp] theorem setPort_adm (n : Nat) (x : Port) : (setPort s n x).adm = s.adm := rfl
@[simp] theorem setPort_energy (n : Nat) (x : Port) : (setPort s n x).energy = s.energy := rfl
@[simp] theorem setPort_host (n : Nat) (x : Port) : (setPort s n x).host = s.host := rfl
@[simp] theorem setPort_twin (n : Nat) (x : Port) : (setPort s n x).twin = s.twin := rfl
@[simp] theorem setPort_sec (n : Nat) (x : Port) : (setPort s n x).sec = s.sec := rfl
@[simp] theorem setPort_plinth (n : Nat) (x : Port) : (setPort s n x).plinth = s.plinth := rfl
@[simp] theorem setPort_text (n : Nat) (x : Port) : (setPort s n x).text = s.text := rfl
@[simp] theorem setPort_topo (n : Nat) (x : Port) : (setPort s n x).topo = s.topo := rfl
@[simp] theorem setPort_err (n : Nat) (x : Port) : (setPort s n x).err = s.err := rfl
@[simp] theorem setPort_evt (n : Nat) (x : Port) : (setPort s n x).evt = s.evt := rfl
@[simp] theorem reg_setPort (n : Nat) (x : Port) (y : Nat) : reg (setPort s n x) y = reg s y := rfl

/-! ## setPeer -/

@[simp] theorem setPeer_pending (n : Nat) (i : Nat) (x : Peer) : (setPeer s n i x).pending = s.pending := rfl
@[simp] theorem setPeer_regs (n : Nat) (i : Nat) (x : Peer) : (setPeer s n i x).regs = s.regs := rfl
@[simp] theorem setPeer_latch (n : Nat) (i : Nat) (x : Peer) : (setPeer s n i x).latch = s.latch := rfl
@[simp] theorem setPeer_emitted (n : Nat) (i : Nat) (x : Peer) : (setPeer s n i x).emitted = s.emitted := rfl
@[simp] theorem setPeer_fresh (n : Nat) (i : Nat) (x : Peer) : (setPeer s n i x).fresh = s.fresh := rfl
@[simp] theorem setPeer_time (n : Nat) (i : Nat) (x : Peer) : (setPeer s n i x).time = s.time := rfl
@[simp] theorem setPeer_bond (n : Nat) (i : Nat) (x : Peer) : (setPeer s n i x).bond = s.bond := rfl
@[simp] theorem setPeer_assets (n : Nat) (i : Nat) (x : Peer) : (setPeer s n i x).assets = s.assets := rfl
@[simp] theorem setPeer_staging (n : Nat) (i : Nat) (x : Peer) : (setPeer s n i x).staging = s.staging := rfl
@[simp] theorem setPeer_lpddr (n : Nat) (i : Nat) (x : Peer) : (setPeer s n i x).lpddr = s.lpddr := rfl
@[simp] theorem setPeer_scratch (n : Nat) (i : Nat) (x : Peer) : (setPeer s n i x).scratch = s.scratch := rfl
@[simp] theorem setPeer_poison (n : Nat) (i : Nat) (x : Peer) : (setPeer s n i x).poison = s.poison := rfl
@[simp] theorem setPeer_cores (n : Nat) (i : Nat) (x : Peer) : (setPeer s n i x).cores = s.cores := rfl
@[simp] theorem setPeer_credits (n : Nat) (i : Nat) (x : Peer) : (setPeer s n i x).credits = s.credits := rfl
@[simp] theorem setPeer_deliveries (n : Nat) (i : Nat) (x : Peer) : (setPeer s n i x).deliveries = s.deliveries := rfl
@[simp] theorem setPeer_steps (n : Nat) (i : Nat) (x : Peer) : (setPeer s n i x).steps = s.steps := rfl
@[simp] theorem setPeer_sel (n : Nat) (i : Nat) (x : Peer) : (setPeer s n i x).sel = s.sel := rfl
@[simp] theorem setPeer_front (n : Nat) (i : Nat) (x : Peer) : (setPeer s n i x).front = s.front := rfl
@[simp] theorem setPeer_serve (n : Nat) (i : Nat) (x : Peer) : (setPeer s n i x).serve = s.serve := rfl
@[simp] theorem setPeer_adm (n : Nat) (i : Nat) (x : Peer) : (setPeer s n i x).adm = s.adm := rfl
@[simp] theorem setPeer_energy (n : Nat) (i : Nat) (x : Peer) : (setPeer s n i x).energy = s.energy := rfl
@[simp] theorem setPeer_host (n : Nat) (i : Nat) (x : Peer) : (setPeer s n i x).host = s.host := rfl
@[simp] theorem setPeer_twin (n : Nat) (i : Nat) (x : Peer) : (setPeer s n i x).twin = s.twin := rfl
@[simp] theorem setPeer_sec (n : Nat) (i : Nat) (x : Peer) : (setPeer s n i x).sec = s.sec := rfl
@[simp] theorem setPeer_plinth (n : Nat) (i : Nat) (x : Peer) : (setPeer s n i x).plinth = s.plinth := rfl
@[simp] theorem setPeer_text (n : Nat) (i : Nat) (x : Peer) : (setPeer s n i x).text = s.text := rfl
@[simp] theorem setPeer_topo (n : Nat) (i : Nat) (x : Peer) : (setPeer s n i x).topo = s.topo := rfl
@[simp] theorem setPeer_err (n : Nat) (i : Nat) (x : Peer) : (setPeer s n i x).err = s.err := rfl
@[simp] theorem setPeer_evt (n : Nat) (i : Nat) (x : Peer) : (setPeer s n i x).evt = s.evt := rfl
@[simp] theorem reg_setPeer (n : Nat) (i : Nat) (x : Peer) (y : Nat) : reg (setPeer s n i x) y = reg s y := rfl

/-! ## setMeter -/

@[simp] theorem setMeter_pending (n : Nat) (i : Nat) (x : Meter) : (setMeter s n i x).pending = s.pending := rfl
@[simp] theorem setMeter_regs (n : Nat) (i : Nat) (x : Meter) : (setMeter s n i x).regs = s.regs := rfl
@[simp] theorem setMeter_latch (n : Nat) (i : Nat) (x : Meter) : (setMeter s n i x).latch = s.latch := rfl
@[simp] theorem setMeter_emitted (n : Nat) (i : Nat) (x : Meter) : (setMeter s n i x).emitted = s.emitted := rfl
@[simp] theorem setMeter_fresh (n : Nat) (i : Nat) (x : Meter) : (setMeter s n i x).fresh = s.fresh := rfl
@[simp] theorem setMeter_time (n : Nat) (i : Nat) (x : Meter) : (setMeter s n i x).time = s.time := rfl
@[simp] theorem setMeter_bond (n : Nat) (i : Nat) (x : Meter) : (setMeter s n i x).bond = s.bond := rfl
@[simp] theorem setMeter_assets (n : Nat) (i : Nat) (x : Meter) : (setMeter s n i x).assets = s.assets := rfl
@[simp] theorem setMeter_staging (n : Nat) (i : Nat) (x : Meter) : (setMeter s n i x).staging = s.staging := rfl
@[simp] theorem setMeter_lpddr (n : Nat) (i : Nat) (x : Meter) : (setMeter s n i x).lpddr = s.lpddr := rfl
@[simp] theorem setMeter_scratch (n : Nat) (i : Nat) (x : Meter) : (setMeter s n i x).scratch = s.scratch := rfl
@[simp] theorem setMeter_poison (n : Nat) (i : Nat) (x : Meter) : (setMeter s n i x).poison = s.poison := rfl
@[simp] theorem setMeter_cores (n : Nat) (i : Nat) (x : Meter) : (setMeter s n i x).cores = s.cores := rfl
@[simp] theorem setMeter_credits (n : Nat) (i : Nat) (x : Meter) : (setMeter s n i x).credits = s.credits := rfl
@[simp] theorem setMeter_deliveries (n : Nat) (i : Nat) (x : Meter) : (setMeter s n i x).deliveries = s.deliveries := rfl
@[simp] theorem setMeter_steps (n : Nat) (i : Nat) (x : Meter) : (setMeter s n i x).steps = s.steps := rfl
@[simp] theorem setMeter_sel (n : Nat) (i : Nat) (x : Meter) : (setMeter s n i x).sel = s.sel := rfl
@[simp] theorem setMeter_front (n : Nat) (i : Nat) (x : Meter) : (setMeter s n i x).front = s.front := rfl
@[simp] theorem setMeter_serve (n : Nat) (i : Nat) (x : Meter) : (setMeter s n i x).serve = s.serve := rfl
@[simp] theorem setMeter_adm (n : Nat) (i : Nat) (x : Meter) : (setMeter s n i x).adm = s.adm := rfl
@[simp] theorem setMeter_energy (n : Nat) (i : Nat) (x : Meter) : (setMeter s n i x).energy = s.energy := rfl
@[simp] theorem setMeter_host (n : Nat) (i : Nat) (x : Meter) : (setMeter s n i x).host = s.host := rfl
@[simp] theorem setMeter_twin (n : Nat) (i : Nat) (x : Meter) : (setMeter s n i x).twin = s.twin := rfl
@[simp] theorem setMeter_sec (n : Nat) (i : Nat) (x : Meter) : (setMeter s n i x).sec = s.sec := rfl
@[simp] theorem setMeter_plinth (n : Nat) (i : Nat) (x : Meter) : (setMeter s n i x).plinth = s.plinth := rfl
@[simp] theorem setMeter_text (n : Nat) (i : Nat) (x : Meter) : (setMeter s n i x).text = s.text := rfl
@[simp] theorem setMeter_topo (n : Nat) (i : Nat) (x : Meter) : (setMeter s n i x).topo = s.topo := rfl
@[simp] theorem setMeter_err (n : Nat) (i : Nat) (x : Meter) : (setMeter s n i x).err = s.err := rfl
@[simp] theorem setMeter_evt (n : Nat) (i : Nat) (x : Meter) : (setMeter s n i x).evt = s.evt := rfl
@[simp] theorem reg_setMeter (n : Nat) (i : Nat) (x : Meter) (y : Nat) : reg (setMeter s n i x) y = reg s y := rfl

/-! ## setClass -/

@[simp] theorem setClass_pending (n : Nat) (c : Nat) (x : Machine.Class) : (setClass s n c x).pending = s.pending := rfl
@[simp] theorem setClass_regs (n : Nat) (c : Nat) (x : Machine.Class) : (setClass s n c x).regs = s.regs := rfl
@[simp] theorem setClass_latch (n : Nat) (c : Nat) (x : Machine.Class) : (setClass s n c x).latch = s.latch := rfl
@[simp] theorem setClass_emitted (n : Nat) (c : Nat) (x : Machine.Class) : (setClass s n c x).emitted = s.emitted := rfl
@[simp] theorem setClass_fresh (n : Nat) (c : Nat) (x : Machine.Class) : (setClass s n c x).fresh = s.fresh := rfl
@[simp] theorem setClass_time (n : Nat) (c : Nat) (x : Machine.Class) : (setClass s n c x).time = s.time := rfl
@[simp] theorem setClass_bond (n : Nat) (c : Nat) (x : Machine.Class) : (setClass s n c x).bond = s.bond := rfl
@[simp] theorem setClass_assets (n : Nat) (c : Nat) (x : Machine.Class) : (setClass s n c x).assets = s.assets := rfl
@[simp] theorem setClass_staging (n : Nat) (c : Nat) (x : Machine.Class) : (setClass s n c x).staging = s.staging := rfl
@[simp] theorem setClass_lpddr (n : Nat) (c : Nat) (x : Machine.Class) : (setClass s n c x).lpddr = s.lpddr := rfl
@[simp] theorem setClass_scratch (n : Nat) (c : Nat) (x : Machine.Class) : (setClass s n c x).scratch = s.scratch := rfl
@[simp] theorem setClass_poison (n : Nat) (c : Nat) (x : Machine.Class) : (setClass s n c x).poison = s.poison := rfl
@[simp] theorem setClass_cores (n : Nat) (c : Nat) (x : Machine.Class) : (setClass s n c x).cores = s.cores := rfl
@[simp] theorem setClass_credits (n : Nat) (c : Nat) (x : Machine.Class) : (setClass s n c x).credits = s.credits := rfl
@[simp] theorem setClass_deliveries (n : Nat) (c : Nat) (x : Machine.Class) : (setClass s n c x).deliveries = s.deliveries := rfl
@[simp] theorem setClass_steps (n : Nat) (c : Nat) (x : Machine.Class) : (setClass s n c x).steps = s.steps := rfl
@[simp] theorem setClass_sel (n : Nat) (c : Nat) (x : Machine.Class) : (setClass s n c x).sel = s.sel := rfl
@[simp] theorem setClass_front (n : Nat) (c : Nat) (x : Machine.Class) : (setClass s n c x).front = s.front := rfl
@[simp] theorem setClass_serve (n : Nat) (c : Nat) (x : Machine.Class) : (setClass s n c x).serve = s.serve := rfl
@[simp] theorem setClass_adm (n : Nat) (c : Nat) (x : Machine.Class) : (setClass s n c x).adm = s.adm := rfl
@[simp] theorem setClass_energy (n : Nat) (c : Nat) (x : Machine.Class) : (setClass s n c x).energy = s.energy := rfl
@[simp] theorem setClass_host (n : Nat) (c : Nat) (x : Machine.Class) : (setClass s n c x).host = s.host := rfl
@[simp] theorem setClass_twin (n : Nat) (c : Nat) (x : Machine.Class) : (setClass s n c x).twin = s.twin := rfl
@[simp] theorem setClass_sec (n : Nat) (c : Nat) (x : Machine.Class) : (setClass s n c x).sec = s.sec := rfl
@[simp] theorem setClass_plinth (n : Nat) (c : Nat) (x : Machine.Class) : (setClass s n c x).plinth = s.plinth := rfl
@[simp] theorem setClass_text (n : Nat) (c : Nat) (x : Machine.Class) : (setClass s n c x).text = s.text := rfl
@[simp] theorem setClass_topo (n : Nat) (c : Nat) (x : Machine.Class) : (setClass s n c x).topo = s.topo := rfl
@[simp] theorem setClass_err (n : Nat) (c : Nat) (x : Machine.Class) : (setClass s n c x).err = s.err := rfl
@[simp] theorem setClass_evt (n : Nat) (c : Nat) (x : Machine.Class) : (setClass s n c x).evt = s.evt := rfl
@[simp] theorem reg_setClass (n : Nat) (c : Nat) (x : Machine.Class) (y : Nat) : reg (setClass s n c x) y = reg s y := rfl

/-! ## setAsset -/

@[simp] theorem setAsset_pending (a : Nat) (x : Asset) : (setAsset s a x).pending = s.pending := rfl
@[simp] theorem setAsset_regs (a : Nat) (x : Asset) : (setAsset s a x).regs = s.regs := rfl
@[simp] theorem setAsset_latch (a : Nat) (x : Asset) : (setAsset s a x).latch = s.latch := rfl
@[simp] theorem setAsset_emitted (a : Nat) (x : Asset) : (setAsset s a x).emitted = s.emitted := rfl
@[simp] theorem setAsset_fresh (a : Nat) (x : Asset) : (setAsset s a x).fresh = s.fresh := rfl
@[simp] theorem setAsset_time (a : Nat) (x : Asset) : (setAsset s a x).time = s.time := rfl
@[simp] theorem setAsset_bond (a : Nat) (x : Asset) : (setAsset s a x).bond = s.bond := rfl
@[simp] theorem setAsset_staging (a : Nat) (x : Asset) : (setAsset s a x).staging = s.staging := rfl
@[simp] theorem setAsset_lpddr (a : Nat) (x : Asset) : (setAsset s a x).lpddr = s.lpddr := rfl
@[simp] theorem setAsset_scratch (a : Nat) (x : Asset) : (setAsset s a x).scratch = s.scratch := rfl
@[simp] theorem setAsset_poison (a : Nat) (x : Asset) : (setAsset s a x).poison = s.poison := rfl
@[simp] theorem setAsset_cores (a : Nat) (x : Asset) : (setAsset s a x).cores = s.cores := rfl
@[simp] theorem setAsset_credits (a : Nat) (x : Asset) : (setAsset s a x).credits = s.credits := rfl
@[simp] theorem setAsset_deliveries (a : Nat) (x : Asset) : (setAsset s a x).deliveries = s.deliveries := rfl
@[simp] theorem setAsset_steps (a : Nat) (x : Asset) : (setAsset s a x).steps = s.steps := rfl
@[simp] theorem setAsset_sel (a : Nat) (x : Asset) : (setAsset s a x).sel = s.sel := rfl
@[simp] theorem setAsset_front (a : Nat) (x : Asset) : (setAsset s a x).front = s.front := rfl
@[simp] theorem setAsset_serve (a : Nat) (x : Asset) : (setAsset s a x).serve = s.serve := rfl
@[simp] theorem setAsset_adm (a : Nat) (x : Asset) : (setAsset s a x).adm = s.adm := rfl
@[simp] theorem setAsset_energy (a : Nat) (x : Asset) : (setAsset s a x).energy = s.energy := rfl
@[simp] theorem setAsset_host (a : Nat) (x : Asset) : (setAsset s a x).host = s.host := rfl
@[simp] theorem setAsset_twin (a : Nat) (x : Asset) : (setAsset s a x).twin = s.twin := rfl
@[simp] theorem setAsset_pod (a : Nat) (x : Asset) : (setAsset s a x).pod = s.pod := rfl
@[simp] theorem setAsset_sec (a : Nat) (x : Asset) : (setAsset s a x).sec = s.sec := rfl
@[simp] theorem setAsset_plinth (a : Nat) (x : Asset) : (setAsset s a x).plinth = s.plinth := rfl
@[simp] theorem setAsset_text (a : Nat) (x : Asset) : (setAsset s a x).text = s.text := rfl
@[simp] theorem setAsset_topo (a : Nat) (x : Asset) : (setAsset s a x).topo = s.topo := rfl
@[simp] theorem setAsset_err (a : Nat) (x : Asset) : (setAsset s a x).err = s.err := rfl
@[simp] theorem setAsset_evt (a : Nat) (x : Asset) : (setAsset s a x).evt = s.evt := rfl
@[simp] theorem reg_setAsset (a : Nat) (x : Asset) (y : Nat) : reg (setAsset s a x) y = reg s y := rfl

/-! ## setStaging -/

@[simp] theorem setStaging_pending (g : Option Staging) : (setStaging s g).pending = s.pending := rfl
@[simp] theorem setStaging_regs (g : Option Staging) : (setStaging s g).regs = s.regs := rfl
@[simp] theorem setStaging_latch (g : Option Staging) : (setStaging s g).latch = s.latch := rfl
@[simp] theorem setStaging_emitted (g : Option Staging) : (setStaging s g).emitted = s.emitted := rfl
@[simp] theorem setStaging_fresh (g : Option Staging) : (setStaging s g).fresh = s.fresh := rfl
@[simp] theorem setStaging_time (g : Option Staging) : (setStaging s g).time = s.time := rfl
@[simp] theorem setStaging_bond (g : Option Staging) : (setStaging s g).bond = s.bond := rfl
@[simp] theorem setStaging_staging (g : Option Staging) : (setStaging s g).staging = s.staging := rfl
@[simp] theorem setStaging_lpddr (g : Option Staging) : (setStaging s g).lpddr = s.lpddr := rfl
@[simp] theorem setStaging_scratch (g : Option Staging) : (setStaging s g).scratch = s.scratch := rfl
@[simp] theorem setStaging_poison (g : Option Staging) : (setStaging s g).poison = s.poison := rfl
@[simp] theorem setStaging_cores (g : Option Staging) : (setStaging s g).cores = s.cores := rfl
@[simp] theorem setStaging_credits (g : Option Staging) : (setStaging s g).credits = s.credits := rfl
@[simp] theorem setStaging_deliveries (g : Option Staging) : (setStaging s g).deliveries = s.deliveries := rfl
@[simp] theorem setStaging_steps (g : Option Staging) : (setStaging s g).steps = s.steps := rfl
@[simp] theorem setStaging_sel (g : Option Staging) : (setStaging s g).sel = s.sel := rfl
@[simp] theorem setStaging_front (g : Option Staging) : (setStaging s g).front = s.front := rfl
@[simp] theorem setStaging_serve (g : Option Staging) : (setStaging s g).serve = s.serve := rfl
@[simp] theorem setStaging_adm (g : Option Staging) : (setStaging s g).adm = s.adm := rfl
@[simp] theorem setStaging_energy (g : Option Staging) : (setStaging s g).energy = s.energy := rfl
@[simp] theorem setStaging_host (g : Option Staging) : (setStaging s g).host = s.host := rfl
@[simp] theorem setStaging_twin (g : Option Staging) : (setStaging s g).twin = s.twin := rfl
@[simp] theorem setStaging_pod (g : Option Staging) : (setStaging s g).pod = s.pod := rfl
@[simp] theorem setStaging_sec (g : Option Staging) : (setStaging s g).sec = s.sec := rfl
@[simp] theorem setStaging_plinth (g : Option Staging) : (setStaging s g).plinth = s.plinth := rfl
@[simp] theorem setStaging_text (g : Option Staging) : (setStaging s g).text = s.text := rfl
@[simp] theorem setStaging_topo (g : Option Staging) : (setStaging s g).topo = s.topo := rfl
@[simp] theorem setStaging_err (g : Option Staging) : (setStaging s g).err = s.err := rfl
@[simp] theorem setStaging_evt (g : Option Staging) : (setStaging s g).evt = s.evt := rfl
@[simp] theorem reg_setStaging (g : Option Staging) (y : Nat) : reg (setStaging s g) y = reg s y := rfl

/-! ## setSwitch -/

@[simp] theorem setSwitch_pending (i : Nat) (x : Option Switch) : (setSwitch s i x).pending = s.pending := rfl
@[simp] theorem setSwitch_regs (i : Nat) (x : Option Switch) : (setSwitch s i x).regs = s.regs := rfl
@[simp] theorem setSwitch_latch (i : Nat) (x : Option Switch) : (setSwitch s i x).latch = s.latch := rfl
@[simp] theorem setSwitch_emitted (i : Nat) (x : Option Switch) : (setSwitch s i x).emitted = s.emitted := rfl
@[simp] theorem setSwitch_fresh (i : Nat) (x : Option Switch) : (setSwitch s i x).fresh = s.fresh := rfl
@[simp] theorem setSwitch_time (i : Nat) (x : Option Switch) : (setSwitch s i x).time = s.time := rfl
@[simp] theorem setSwitch_bond (i : Nat) (x : Option Switch) : (setSwitch s i x).bond = s.bond := rfl
@[simp] theorem setSwitch_staging (i : Nat) (x : Option Switch) : (setSwitch s i x).staging = s.staging := rfl
@[simp] theorem setSwitch_lpddr (i : Nat) (x : Option Switch) : (setSwitch s i x).lpddr = s.lpddr := rfl
@[simp] theorem setSwitch_scratch (i : Nat) (x : Option Switch) : (setSwitch s i x).scratch = s.scratch := rfl
@[simp] theorem setSwitch_poison (i : Nat) (x : Option Switch) : (setSwitch s i x).poison = s.poison := rfl
@[simp] theorem setSwitch_cores (i : Nat) (x : Option Switch) : (setSwitch s i x).cores = s.cores := rfl
@[simp] theorem setSwitch_credits (i : Nat) (x : Option Switch) : (setSwitch s i x).credits = s.credits := rfl
@[simp] theorem setSwitch_deliveries (i : Nat) (x : Option Switch) : (setSwitch s i x).deliveries = s.deliveries := rfl
@[simp] theorem setSwitch_steps (i : Nat) (x : Option Switch) : (setSwitch s i x).steps = s.steps := rfl
@[simp] theorem setSwitch_sel (i : Nat) (x : Option Switch) : (setSwitch s i x).sel = s.sel := rfl
@[simp] theorem setSwitch_front (i : Nat) (x : Option Switch) : (setSwitch s i x).front = s.front := rfl
@[simp] theorem setSwitch_serve (i : Nat) (x : Option Switch) : (setSwitch s i x).serve = s.serve := rfl
@[simp] theorem setSwitch_adm (i : Nat) (x : Option Switch) : (setSwitch s i x).adm = s.adm := rfl
@[simp] theorem setSwitch_energy (i : Nat) (x : Option Switch) : (setSwitch s i x).energy = s.energy := rfl
@[simp] theorem setSwitch_host (i : Nat) (x : Option Switch) : (setSwitch s i x).host = s.host := rfl
@[simp] theorem setSwitch_twin (i : Nat) (x : Option Switch) : (setSwitch s i x).twin = s.twin := rfl
@[simp] theorem setSwitch_pod (i : Nat) (x : Option Switch) : (setSwitch s i x).pod = s.pod := rfl
@[simp] theorem setSwitch_sec (i : Nat) (x : Option Switch) : (setSwitch s i x).sec = s.sec := rfl
@[simp] theorem setSwitch_plinth (i : Nat) (x : Option Switch) : (setSwitch s i x).plinth = s.plinth := rfl
@[simp] theorem setSwitch_text (i : Nat) (x : Option Switch) : (setSwitch s i x).text = s.text := rfl
@[simp] theorem setSwitch_topo (i : Nat) (x : Option Switch) : (setSwitch s i x).topo = s.topo := rfl
@[simp] theorem setSwitch_err (i : Nat) (x : Option Switch) : (setSwitch s i x).err = s.err := rfl
@[simp] theorem setSwitch_evt (i : Nat) (x : Option Switch) : (setSwitch s i x).evt = s.evt := rfl
@[simp] theorem reg_setSwitch (i : Nat) (x : Option Switch) (y : Nat) : reg (setSwitch s i x) y = reg s y := rfl

/-! ## setBond -/

@[simp] theorem setBond_pending (b : BondSt) : (setBond s b).pending = s.pending := rfl
@[simp] theorem setBond_regs (b : BondSt) : (setBond s b).regs = s.regs := rfl
@[simp] theorem setBond_latch (b : BondSt) : (setBond s b).latch = s.latch := rfl
@[simp] theorem setBond_emitted (b : BondSt) : (setBond s b).emitted = s.emitted := rfl
@[simp] theorem setBond_fresh (b : BondSt) : (setBond s b).fresh = s.fresh := rfl
@[simp] theorem setBond_time (b : BondSt) : (setBond s b).time = s.time := rfl
@[simp] theorem setBond_assets (b : BondSt) : (setBond s b).assets = s.assets := rfl
@[simp] theorem setBond_staging (b : BondSt) : (setBond s b).staging = s.staging := rfl
@[simp] theorem setBond_lpddr (b : BondSt) : (setBond s b).lpddr = s.lpddr := rfl
@[simp] theorem setBond_scratch (b : BondSt) : (setBond s b).scratch = s.scratch := rfl
@[simp] theorem setBond_poison (b : BondSt) : (setBond s b).poison = s.poison := rfl
@[simp] theorem setBond_cores (b : BondSt) : (setBond s b).cores = s.cores := rfl
@[simp] theorem setBond_credits (b : BondSt) : (setBond s b).credits = s.credits := rfl
@[simp] theorem setBond_deliveries (b : BondSt) : (setBond s b).deliveries = s.deliveries := rfl
@[simp] theorem setBond_steps (b : BondSt) : (setBond s b).steps = s.steps := rfl
@[simp] theorem setBond_sel (b : BondSt) : (setBond s b).sel = s.sel := rfl
@[simp] theorem setBond_front (b : BondSt) : (setBond s b).front = s.front := rfl
@[simp] theorem setBond_serve (b : BondSt) : (setBond s b).serve = s.serve := rfl
@[simp] theorem setBond_adm (b : BondSt) : (setBond s b).adm = s.adm := rfl
@[simp] theorem setBond_energy (b : BondSt) : (setBond s b).energy = s.energy := rfl
@[simp] theorem setBond_host (b : BondSt) : (setBond s b).host = s.host := rfl
@[simp] theorem setBond_twin (b : BondSt) : (setBond s b).twin = s.twin := rfl
@[simp] theorem setBond_pod (b : BondSt) : (setBond s b).pod = s.pod := rfl
@[simp] theorem setBond_sec (b : BondSt) : (setBond s b).sec = s.sec := rfl
@[simp] theorem setBond_plinth (b : BondSt) : (setBond s b).plinth = s.plinth := rfl
@[simp] theorem setBond_text (b : BondSt) : (setBond s b).text = s.text := rfl
@[simp] theorem setBond_topo (b : BondSt) : (setBond s b).topo = s.topo := rfl
@[simp] theorem setBond_err (b : BondSt) : (setBond s b).err = s.err := rfl
@[simp] theorem setBond_evt (b : BondSt) : (setBond s b).evt = s.evt := rfl
@[simp] theorem reg_setBond (b : BondSt) (y : Nat) : reg (setBond s b) y = reg s y := rfl

/-! ## setQueue -/

@[simp] theorem setQueue_pending (a : Nat) (l : List Req) : (setQueue s a l).pending = s.pending := rfl
@[simp] theorem setQueue_regs (a : Nat) (l : List Req) : (setQueue s a l).regs = s.regs := rfl
@[simp] theorem setQueue_latch (a : Nat) (l : List Req) : (setQueue s a l).latch = s.latch := rfl
@[simp] theorem setQueue_emitted (a : Nat) (l : List Req) : (setQueue s a l).emitted = s.emitted := rfl
@[simp] theorem setQueue_fresh (a : Nat) (l : List Req) : (setQueue s a l).fresh = s.fresh := rfl
@[simp] theorem setQueue_time (a : Nat) (l : List Req) : (setQueue s a l).time = s.time := rfl
@[simp] theorem setQueue_bond (a : Nat) (l : List Req) : (setQueue s a l).bond = s.bond := rfl
@[simp] theorem setQueue_assets (a : Nat) (l : List Req) : (setQueue s a l).assets = s.assets := rfl
@[simp] theorem setQueue_staging (a : Nat) (l : List Req) : (setQueue s a l).staging = s.staging := rfl
@[simp] theorem setQueue_lpddr (a : Nat) (l : List Req) : (setQueue s a l).lpddr = s.lpddr := rfl
@[simp] theorem setQueue_scratch (a : Nat) (l : List Req) : (setQueue s a l).scratch = s.scratch := rfl
@[simp] theorem setQueue_poison (a : Nat) (l : List Req) : (setQueue s a l).poison = s.poison := rfl
@[simp] theorem setQueue_cores (a : Nat) (l : List Req) : (setQueue s a l).cores = s.cores := rfl
@[simp] theorem setQueue_credits (a : Nat) (l : List Req) : (setQueue s a l).credits = s.credits := rfl
@[simp] theorem setQueue_deliveries (a : Nat) (l : List Req) : (setQueue s a l).deliveries = s.deliveries := rfl
@[simp] theorem setQueue_steps (a : Nat) (l : List Req) : (setQueue s a l).steps = s.steps := rfl
@[simp] theorem setQueue_sel (a : Nat) (l : List Req) : (setQueue s a l).sel = s.sel := rfl
@[simp] theorem setQueue_front (a : Nat) (l : List Req) : (setQueue s a l).front = s.front := rfl
@[simp] theorem setQueue_serve (a : Nat) (l : List Req) : (setQueue s a l).serve = s.serve := rfl
@[simp] theorem setQueue_energy (a : Nat) (l : List Req) : (setQueue s a l).energy = s.energy := rfl
@[simp] theorem setQueue_host (a : Nat) (l : List Req) : (setQueue s a l).host = s.host := rfl
@[simp] theorem setQueue_twin (a : Nat) (l : List Req) : (setQueue s a l).twin = s.twin := rfl
@[simp] theorem setQueue_pod (a : Nat) (l : List Req) : (setQueue s a l).pod = s.pod := rfl
@[simp] theorem setQueue_sec (a : Nat) (l : List Req) : (setQueue s a l).sec = s.sec := rfl
@[simp] theorem setQueue_plinth (a : Nat) (l : List Req) : (setQueue s a l).plinth = s.plinth := rfl
@[simp] theorem setQueue_text (a : Nat) (l : List Req) : (setQueue s a l).text = s.text := rfl
@[simp] theorem setQueue_topo (a : Nat) (l : List Req) : (setQueue s a l).topo = s.topo := rfl
@[simp] theorem setQueue_err (a : Nat) (l : List Req) : (setQueue s a l).err = s.err := rfl
@[simp] theorem setQueue_evt (a : Nat) (l : List Req) : (setQueue s a l).evt = s.evt := rfl
@[simp] theorem reg_setQueue (a : Nat) (l : List Req) (y : Nat) : reg (setQueue s a l) y = reg s y := rfl

/-! ## setBound -/

@[simp] theorem setBound_pending (b : Nat) (x : Bound) : (setBound s b x).pending = s.pending := rfl
@[simp] theorem setBound_regs (b : Nat) (x : Bound) : (setBound s b x).regs = s.regs := rfl
@[simp] theorem setBound_latch (b : Nat) (x : Bound) : (setBound s b x).latch = s.latch := rfl
@[simp] theorem setBound_emitted (b : Nat) (x : Bound) : (setBound s b x).emitted = s.emitted := rfl
@[simp] theorem setBound_fresh (b : Nat) (x : Bound) : (setBound s b x).fresh = s.fresh := rfl
@[simp] theorem setBound_time (b : Nat) (x : Bound) : (setBound s b x).time = s.time := rfl
@[simp] theorem setBound_bond (b : Nat) (x : Bound) : (setBound s b x).bond = s.bond := rfl
@[simp] theorem setBound_assets (b : Nat) (x : Bound) : (setBound s b x).assets = s.assets := rfl
@[simp] theorem setBound_staging (b : Nat) (x : Bound) : (setBound s b x).staging = s.staging := rfl
@[simp] theorem setBound_lpddr (b : Nat) (x : Bound) : (setBound s b x).lpddr = s.lpddr := rfl
@[simp] theorem setBound_scratch (b : Nat) (x : Bound) : (setBound s b x).scratch = s.scratch := rfl
@[simp] theorem setBound_poison (b : Nat) (x : Bound) : (setBound s b x).poison = s.poison := rfl
@[simp] theorem setBound_cores (b : Nat) (x : Bound) : (setBound s b x).cores = s.cores := rfl
@[simp] theorem setBound_credits (b : Nat) (x : Bound) : (setBound s b x).credits = s.credits := rfl
@[simp] theorem setBound_deliveries (b : Nat) (x : Bound) : (setBound s b x).deliveries = s.deliveries := rfl
@[simp] theorem setBound_steps (b : Nat) (x : Bound) : (setBound s b x).steps = s.steps := rfl
@[simp] theorem setBound_sel (b : Nat) (x : Bound) : (setBound s b x).sel = s.sel := rfl
@[simp] theorem setBound_front (b : Nat) (x : Bound) : (setBound s b x).front = s.front := rfl
@[simp] theorem setBound_serve (b : Nat) (x : Bound) : (setBound s b x).serve = s.serve := rfl
@[simp] theorem setBound_energy (b : Nat) (x : Bound) : (setBound s b x).energy = s.energy := rfl
@[simp] theorem setBound_host (b : Nat) (x : Bound) : (setBound s b x).host = s.host := rfl
@[simp] theorem setBound_twin (b : Nat) (x : Bound) : (setBound s b x).twin = s.twin := rfl
@[simp] theorem setBound_pod (b : Nat) (x : Bound) : (setBound s b x).pod = s.pod := rfl
@[simp] theorem setBound_sec (b : Nat) (x : Bound) : (setBound s b x).sec = s.sec := rfl
@[simp] theorem setBound_plinth (b : Nat) (x : Bound) : (setBound s b x).plinth = s.plinth := rfl
@[simp] theorem setBound_text (b : Nat) (x : Bound) : (setBound s b x).text = s.text := rfl
@[simp] theorem setBound_topo (b : Nat) (x : Bound) : (setBound s b x).topo = s.topo := rfl
@[simp] theorem setBound_err (b : Nat) (x : Bound) : (setBound s b x).err = s.err := rfl
@[simp] theorem setBound_evt (b : Nat) (x : Bound) : (setBound s b x).evt = s.evt := rfl
@[simp] theorem reg_setBound (b : Nat) (x : Bound) (y : Nat) : reg (setBound s b x) y = reg s y := rfl

/-! ## setSlot -/

@[simp] theorem setSlot_pending (u : Nat) (i : Nat) (r : Option Run) : (setSlot s u i r).pending = s.pending := rfl
@[simp] theorem setSlot_regs (u : Nat) (i : Nat) (r : Option Run) : (setSlot s u i r).regs = s.regs := rfl
@[simp] theorem setSlot_latch (u : Nat) (i : Nat) (r : Option Run) : (setSlot s u i r).latch = s.latch := rfl
@[simp] theorem setSlot_emitted (u : Nat) (i : Nat) (r : Option Run) : (setSlot s u i r).emitted = s.emitted := rfl
@[simp] theorem setSlot_fresh (u : Nat) (i : Nat) (r : Option Run) : (setSlot s u i r).fresh = s.fresh := rfl
@[simp] theorem setSlot_time (u : Nat) (i : Nat) (r : Option Run) : (setSlot s u i r).time = s.time := rfl
@[simp] theorem setSlot_bond (u : Nat) (i : Nat) (r : Option Run) : (setSlot s u i r).bond = s.bond := rfl
@[simp] theorem setSlot_assets (u : Nat) (i : Nat) (r : Option Run) : (setSlot s u i r).assets = s.assets := rfl
@[simp] theorem setSlot_staging (u : Nat) (i : Nat) (r : Option Run) : (setSlot s u i r).staging = s.staging := rfl
@[simp] theorem setSlot_lpddr (u : Nat) (i : Nat) (r : Option Run) : (setSlot s u i r).lpddr = s.lpddr := rfl
@[simp] theorem setSlot_scratch (u : Nat) (i : Nat) (r : Option Run) : (setSlot s u i r).scratch = s.scratch := rfl
@[simp] theorem setSlot_poison (u : Nat) (i : Nat) (r : Option Run) : (setSlot s u i r).poison = s.poison := rfl
@[simp] theorem setSlot_cores (u : Nat) (i : Nat) (r : Option Run) : (setSlot s u i r).cores = s.cores := rfl
@[simp] theorem setSlot_credits (u : Nat) (i : Nat) (r : Option Run) : (setSlot s u i r).credits = s.credits := rfl
@[simp] theorem setSlot_deliveries (u : Nat) (i : Nat) (r : Option Run) : (setSlot s u i r).deliveries = s.deliveries := rfl
@[simp] theorem setSlot_steps (u : Nat) (i : Nat) (r : Option Run) : (setSlot s u i r).steps = s.steps := rfl
@[simp] theorem setSlot_front (u : Nat) (i : Nat) (r : Option Run) : (setSlot s u i r).front = s.front := rfl
@[simp] theorem setSlot_serve (u : Nat) (i : Nat) (r : Option Run) : (setSlot s u i r).serve = s.serve := rfl
@[simp] theorem setSlot_adm (u : Nat) (i : Nat) (r : Option Run) : (setSlot s u i r).adm = s.adm := rfl
@[simp] theorem setSlot_energy (u : Nat) (i : Nat) (r : Option Run) : (setSlot s u i r).energy = s.energy := rfl
@[simp] theorem setSlot_host (u : Nat) (i : Nat) (r : Option Run) : (setSlot s u i r).host = s.host := rfl
@[simp] theorem setSlot_twin (u : Nat) (i : Nat) (r : Option Run) : (setSlot s u i r).twin = s.twin := rfl
@[simp] theorem setSlot_pod (u : Nat) (i : Nat) (r : Option Run) : (setSlot s u i r).pod = s.pod := rfl
@[simp] theorem setSlot_sec (u : Nat) (i : Nat) (r : Option Run) : (setSlot s u i r).sec = s.sec := rfl
@[simp] theorem setSlot_plinth (u : Nat) (i : Nat) (r : Option Run) : (setSlot s u i r).plinth = s.plinth := rfl
@[simp] theorem setSlot_text (u : Nat) (i : Nat) (r : Option Run) : (setSlot s u i r).text = s.text := rfl
@[simp] theorem setSlot_topo (u : Nat) (i : Nat) (r : Option Run) : (setSlot s u i r).topo = s.topo := rfl
@[simp] theorem setSlot_err (u : Nat) (i : Nat) (r : Option Run) : (setSlot s u i r).err = s.err := rfl
@[simp] theorem setSlot_evt (u : Nat) (i : Nat) (r : Option Run) : (setSlot s u i r).evt = s.evt := rfl
@[simp] theorem reg_setSlot (u : Nat) (i : Nat) (r : Option Run) (y : Nat) : reg (setSlot s u i r) y = reg s y := rfl

/-! ## setLatch -/

@[simp] theorem setLatch_pending (b : Nat) (v : Nat) : (setLatch s b v).pending = s.pending := rfl
@[simp] theorem setLatch_regs (b : Nat) (v : Nat) : (setLatch s b v).regs = s.regs := rfl
@[simp] theorem setLatch_emitted (b : Nat) (v : Nat) : (setLatch s b v).emitted = s.emitted := rfl
@[simp] theorem setLatch_fresh (b : Nat) (v : Nat) : (setLatch s b v).fresh = s.fresh := rfl
@[simp] theorem setLatch_time (b : Nat) (v : Nat) : (setLatch s b v).time = s.time := rfl
@[simp] theorem setLatch_bond (b : Nat) (v : Nat) : (setLatch s b v).bond = s.bond := rfl
@[simp] theorem setLatch_assets (b : Nat) (v : Nat) : (setLatch s b v).assets = s.assets := rfl
@[simp] theorem setLatch_staging (b : Nat) (v : Nat) : (setLatch s b v).staging = s.staging := rfl
@[simp] theorem setLatch_lpddr (b : Nat) (v : Nat) : (setLatch s b v).lpddr = s.lpddr := rfl
@[simp] theorem setLatch_scratch (b : Nat) (v : Nat) : (setLatch s b v).scratch = s.scratch := rfl
@[simp] theorem setLatch_poison (b : Nat) (v : Nat) : (setLatch s b v).poison = s.poison := rfl
@[simp] theorem setLatch_cores (b : Nat) (v : Nat) : (setLatch s b v).cores = s.cores := rfl
@[simp] theorem setLatch_credits (b : Nat) (v : Nat) : (setLatch s b v).credits = s.credits := rfl
@[simp] theorem setLatch_deliveries (b : Nat) (v : Nat) : (setLatch s b v).deliveries = s.deliveries := rfl
@[simp] theorem setLatch_steps (b : Nat) (v : Nat) : (setLatch s b v).steps = s.steps := rfl
@[simp] theorem setLatch_sel (b : Nat) (v : Nat) : (setLatch s b v).sel = s.sel := rfl
@[simp] theorem setLatch_front (b : Nat) (v : Nat) : (setLatch s b v).front = s.front := rfl
@[simp] theorem setLatch_serve (b : Nat) (v : Nat) : (setLatch s b v).serve = s.serve := rfl
@[simp] theorem setLatch_adm (b : Nat) (v : Nat) : (setLatch s b v).adm = s.adm := rfl
@[simp] theorem setLatch_energy (b : Nat) (v : Nat) : (setLatch s b v).energy = s.energy := rfl
@[simp] theorem setLatch_host (b : Nat) (v : Nat) : (setLatch s b v).host = s.host := rfl
@[simp] theorem setLatch_twin (b : Nat) (v : Nat) : (setLatch s b v).twin = s.twin := rfl
@[simp] theorem setLatch_pod (b : Nat) (v : Nat) : (setLatch s b v).pod = s.pod := rfl
@[simp] theorem setLatch_sec (b : Nat) (v : Nat) : (setLatch s b v).sec = s.sec := rfl
@[simp] theorem setLatch_plinth (b : Nat) (v : Nat) : (setLatch s b v).plinth = s.plinth := rfl
@[simp] theorem setLatch_text (b : Nat) (v : Nat) : (setLatch s b v).text = s.text := rfl
@[simp] theorem setLatch_topo (b : Nat) (v : Nat) : (setLatch s b v).topo = s.topo := rfl
@[simp] theorem setLatch_err (b : Nat) (v : Nat) : (setLatch s b v).err = s.err := rfl
@[simp] theorem setLatch_evt (b : Nat) (v : Nat) : (setLatch s b v).evt = s.evt := rfl
@[simp] theorem reg_setLatch (b : Nat) (v : Nat) (y : Nat) : reg (setLatch s b v) y = reg s y := rfl

end Sys2Proof.Laws
end

