-- ==== Sys2Proof/Laws/Ops.lean ====
section
/-!
SUPPORT. Laws/Ops.lean: what each shared operation of Machine/Ops.lean does, once: register words, events, counters, the error log and the
interrupt levels.
-/
namespace Sys2Proof.Laws

open Sys2Proof.Machine

/-! ## Register words -/

theorem reg_congr {s t : State} (h : s.regs = t.regs) (a : Nat) : reg s a = reg t a := by simp [reg, h]

@[simp] theorem reg_setReg_self (s : State) (a v : Nat) : reg (setReg s a v) a = v % 2 ^ 32 := by
  simp [reg, setReg]

theorem reg_setReg_ne (s : State) {a b : Nat} (v : Nat) (h : b ≠ a) : reg (setReg s a v) b = reg s b := by
  simp [reg, setReg, tget_tset_ne _ _ _ h]

/-- A register word after a write. -/
theorem reg_setReg (s : State) (a b v : Nat) : reg (setReg s a v) b = if b = a then v % 2 ^ 32 else reg s b := by
  by_cases h : b = a
  · simp [h]
  · simp [h, reg_setReg_ne s v h]

theorem reg_setBits (s : State) (a b m : Nat) :
    reg (setBits s a m) b = if b = a then Nat.lor (reg s a) m % 2 ^ 32 else reg s b := reg_setReg s a b _

theorem reg_clearBits (s : State) (a b m : Nat) :
    reg (clearBits s a m) b = if b = a then Nat.land (reg s a) (Nat.xor 0xFFFFFFFF (m % 2 ^ 32)) % 2 ^ 32 else reg s b :=
  reg_setReg s a b _

theorem reg_lt (s : State) (a : Nat) : reg s a < 2 ^ 32 := (tget regReset s.regs a).isLt

/-- R10: a 64-bit register after a write of it. -/
theorem reg64_setReg64 (s : State) (a v : Nat) (h : v < 2 ^ 64) : reg64 (setReg64 s a v) a = v := by
  simp only [reg64, setReg64, reg_setReg]
  simp
  omega

theorem twf_setReg {s : State} (a v : Nat) (h : twf regReset s.regs = true) : twf regReset (setReg s a v).regs = true :=
  twf_tset regReset a _ h

/-! ## Events and counters -/

/-- An event counter's step changes register words and counters only. -/
theorem evtAdd_frame (s : State) (n k : Nat) : ∃ r e, evtAdd s n k = { s with regs := r, evt := e } := by
  unfold evtAdd
  dsimp only
  split
  · exact ⟨_, _, rfl⟩
  · split <;> exact ⟨_, _, rfl⟩

theorem evtAll_frame (l : List (Nat × Word)) (s : State) (cls evt : Nat) (sect die : Option Nat) (k : Nat) :
    ∃ r e, evtAll s cls evt sect die k l = { s with regs := r, evt := e } := by
  induction l generalizing s with
  | nil => exact ⟨_, _, rfl⟩
  | cons p l ih =>
    obtain ⟨a, v⟩ := p
    simp only [evtAll]
    split
    · obtain ⟨r, e, h⟩ := evtAdd_frame s ((a - Reg.EVT_SEL 0) / 4) k
      rw [h]
      obtain ⟨r', e', h'⟩ := ih { s with regs := r, evt := e }
      exact ⟨r', e', h'⟩
    · exact ih s

/-- R460: an event changes register words and counters only. -/
theorem event_frame (s : State) (cls evt : Nat) (sect die : Option Nat) (k : Nat) :
    ∃ r e, event s cls evt sect die k = { s with regs := r, evt := e } := by
  unfold event
  split
  · exact ⟨_, _, rfl⟩
  · exact evtAll_frame _ _ _ _ _ _ _

theorem reg_evtAdd (s : State) (n k : Nat) (hn : n < 96) {a : Nat} (h : evtWord a = false) : reg (evtAdd s n k) a = reg s a := by
  have h1 : a ≠ Reg.EVT_INT_STATUS := by intro hh; simp [evtWord, hh] at h
  have h2 : a ≠ Reg.EVT_OVF (n / 32) := by
    intro hh
    have h3 : n / 32 = 0 ∨ n / 32 = 1 ∨ n / 32 = 2 := by omega
    rcases h3 with h3 | h3 | h3 <;> rw [h3] at hh <;> simp [evtWord, hh] at h
  unfold evtAdd
  dsimp only
  split
  · rfl
  · split <;> simp [reg_setBits, h1, h2] <;> rfl

theorem reg_evtAll (l : List (Nat × Word)) (s : State) (cls evt : Nat) (sect die : Option Nat) (k : Nat) {a : Nat}
    (h : evtWord a = false) : reg (evtAll s cls evt sect die k l) a = reg s a := by
  induction l generalizing s with
  | nil => rfl
  | cons p l ih =>
    obtain ⟨b, v⟩ := p
    simp only [evtAll]
    rw [ih]
    split
    · rename_i hb
      have : (b - Reg.EVT_SEL 0) / 4 < 96 := by
        have := hb.2.1
        simp only [Reg.EVT_SEL] at this ⊢
        omega
      exact reg_evtAdd s _ k this h
    · rfl

/-- An event leaves every register word but EVT_OVF and EVT_INT_STATUS. -/
theorem reg_event (s : State) (cls evt : Nat) (sect die : Option Nat) (k : Nat) {a : Nat} (h : evtWord a = false) :
    reg (event s cls evt sect die k) a = reg s a := by
  unfold event
  split
  · rfl
  · exact reg_evtAll _ _ _ _ _ _ _ h

theorem bumpBy_frame (s : State) (a k : Nat) : ∃ r e, bumpBy s a k = { s with regs := r, evt := e } := by
  unfold bumpBy
  dsimp only
  split
  · obtain ⟨r, e, h⟩ := event_frame (setReg s a (min (reg s a + k) 0xFFFFFFFF)) _ _ none none k
    exact ⟨r, e, h⟩
  · exact ⟨_, _, rfl⟩

theorem bump_frame (s : State) (a : Nat) : ∃ r e, bump s a = { s with regs := r, evt := e } := bumpBy_frame s a 1

theorem bump64_frame (s : State) (a k cap : Nat) : ∃ r e, bump64 s a k cap = { s with regs := r, evt := e } := by
  unfold bump64
  dsimp only
  split
  · obtain ⟨r, e, h⟩ := event_frame (setReg64 s a (min (reg64 s a + k) cap)) _ _ none none k
    exact ⟨r, e, h⟩
  · exact ⟨_, _, rfl⟩

/-- A counter after an increment (R9: it saturates), and every other register word. -/
theorem reg_bumpBy (s : State) (a k b : Nat) (h : evtWord b = false) :
    reg (bumpBy s a k) b = if b = a then min (reg s a + k) 0xFFFFFFFF else reg s b := by
  have hm : min (reg s a + k) 0xFFFFFFFF % 2 ^ 32 = min (reg s a + k) 0xFFFFFFFF := Nat.mod_eq_of_lt (by omega)
  unfold bumpBy
  dsimp only
  split
  · rw [reg_event _ _ _ _ _ _ h, reg_setReg, hm]
  · rw [reg_setReg, hm]

theorem reg_bump (s : State) (a b : Nat) (h : evtWord b = false) :
    reg (bump s a) b = if b = a then min (reg s a + 1) 0xFFFFFFFF else reg s b := reg_bumpBy s a 1 b h

/-! ## The error log -/

/-- `t` is `s` but for register words, event counters and the error log. -/
def LogOnly (s t : State) : Prop := ∃ r e l, t = { s with regs := r, evt := e, err := l }

theorem LogOnly.refl (s : State) : LogOnly s s := ⟨_, _, _, rfl⟩

theorem LogOnly.trans {s t u : State} (h : LogOnly s t) (g : LogOnly t u) : LogOnly s u := by
  obtain ⟨r, e, l, rfl⟩ := h
  obtain ⟨r', e', l', rfl⟩ := g
  exact ⟨r', e', l', rfl⟩

theorem logOnly_setReg (s : State) (a v : Nat) : LogOnly s (setReg s a v) := ⟨_, _, _, rfl⟩

theorem logOnly_err (s : State) (x : ErrSt) : LogOnly s { s with err := x } := ⟨_, _, _, rfl⟩

theorem logOnly_bump (s : State) (a : Nat) : LogOnly s (bump s a) := by
  obtain ⟨r, e, h⟩ := bump_frame s a
  exact ⟨r, e, s.err, h⟩

theorem logCount_frame (s : State) (x : LogItem) : LogOnly s (logCount s x) := by
  unfold logCount
  split
  · exact logOnly_bump s _
  · exact LogOnly.refl s

theorem logNew_frame (s : State) (x : LogItem) : LogOnly s (logNew s x) := by
  unfold logNew
  dsimp only
  split
  · exact (((logOnly_err s _).trans (logOnly_setReg _ _ _)).trans (logOnly_setReg _ _ _)).trans (logOnly_setReg _ _ _)
  · exact (((((logOnly_err s _).trans (logOnly_setReg _ _ _)).trans (logOnly_setReg _ _ _)).trans (logOnly_setReg _ _ _)).trans
      (logOnly_bump _ _)).trans (logOnly_setReg _ _ _)

/-- R457: logging changes register words, event counters and the log only. -/
theorem logErr_frame (s : State) (x : LogItem) : LogOnly s (logErr s x) := by
  unfold logErr
  split
  · exact (logCount_frame s x).trans (logOnly_err _ _)
  · exact (logCount_frame s x).trans (logNew_frame _ x)

theorem protocol_frame (s : State) (code off n : Nat) : LogOnly s (protocol s code off n) := logErr_frame s _

/-! ## Interrupt levels (R459) -/

@[simp] theorem levelsUp_settle (s : State) : levelsUp (settle s) = levelsUp s := rfl

/-- R459: after a command every level that is up is remembered. -/
@[simp] theorem settle_levels (s : State) : (settle s).err.levels = levelsUp s := rfl

theorem settle_err (s : State) : (settle s).err = { s.err with levels := levelsUp s } := rfl

/-- R459: what a command's end sends: the messages of the levels that rose. -/
theorem settle_emitted (s : State) :
    (settle s).emitted = s.emitted ++ ((levelsUp s).filter fun k => !(s.err.levels.contains k)).flatMap (riseMsgs s) := rfl

/-! ## Outcomes -/

theorem done_eq (s : State) : done s = .next (settle s) := rfl

/-- `done` answers a next state whose levels are settled. -/
theorem done_next {s t : State} (h : done s = .next t) : t = settle s := by
  cases h
  rfl

/-- `finish` stops where its argument stops, and settles a next state. -/
theorem finish_cases {o : Out} {t : State} (h : finish o = .next t) : ∃ u, o = .next u ∧ t = settle u := by
  cases o with
  | next u => exact ⟨u, rfl, done_next h⟩
  | fault f => cases h
  | refused r => cases h

theorem linked_up {s : State} (o : Out) (h : s.host.linkUp = true) : linked s o = o := by
  simp [linked, h]

theorem linked_down {s : State} (o : Out) (h : s.host.linkUp = false) : linked s o = .next (settle s) := by
  simp [linked, h, done]

theorem host_running {s : State} {off : Nat} (f : State → State) (h : hostReaches s off = true) : host s off f = .next (settle (f s)) := by
  simp [host, h, done]

theorem host_silent {s : State} {off : Nat} (f : State → State) (h : hostReaches s off = false) : host s off f = .next (settle s) := by
  simp [host, h, done]

end Sys2Proof.Laws
end

