-- ==== Sys2Proof/WellFormed.lean ====
section
/-!
DEFINITION. WellFormed.lean: which commands are well formed: the lengths and ranges that an operand's type does not fix. `exec` is total: a command
that is not well formed has a meaning too.
-/
namespace Sys2Proof

open Machine

/-- Bytes of a base address register (R321). -/
def barSize : Bar → Nat
  | .bar0 => 2 ^ 26
  | .bar2 => 2 ^ 20
  | .bar4 => 2 ^ 32

/-- R10: an access that is aligned and of 32 or 64 bits. -/
def aligned (off size : Nat) : Bool := (decide (size = 4) || decide (size = 8)) && decide (off % size = 0)

/-- A read that the host port can carry (Table 16.1): at most 4,096 bytes of a BAR. -/
def readOk (bar : Bar) (off size : Nat) : Bool := decide (1 ≤ size) && decide (size ≤ 4096) && decide (off + size ≤ barSize bar)

/-- A received frame: an Ethernet header and at most 9,216 bytes, one of another EtherType included (R346). -/
def frameOk (f : RxFrame) : Bool := decide (14 ≤ f.bytes.length) && decide (f.bytes.length ≤ 9216)

/-- A Firic frame as a whole number of flits, at most 256, of words of 72 bits (R380, R381). -/
def firicOk (f : FiricWords) : Bool :=
  decide (f.words.length % 32 = 0) && decide (f.words.length ≤ 8192) && f.words.all fun w => decide (w < 2 ^ 72)

/-- Bitmaps of the four dies. -/
def discoveryOk (d : Discovery) : Bool := decide (d.groups.length = 4) && decide (d.slices.length = 4) && decide (d.routes.length = 4)

/-- A place of the module (R453). -/
def placeOk : EccPlaceOf → Bool
  | .scratchpad c a => decide (c < 32768) && decide (a < 393216)
  | .lpddr g o => decide (g < 65536) && decide (o < 2 ^ 48)
  | .mortar d _ => decide (d < 4)
  | .keystone => true

/-- Whether a command is well formed. -/
def Instr.wf : Instr → Bool
  | .registerWrite bar _ off data => decide (1 ≤ data.length) && decide (data.length ≤ 512) && decide (off + data.length ≤ barSize bar)
  | .registerReadClear _ off size => readOk .bar0 off size
  | .lowHalfRead _ off => decide (off % 4 = 0) && readOk .bar0 off 4
  | .badSizeAccess _ off size _ => readOk .bar0 off size && !aligned off size
  | .unmappedAccess via off size _ => readOk via.bar off size && aligned off size
  | .undefinedCommand _ _ => true
  | .beatLost => true
  | .forceHoldover _ => true
  | .measureMarker => true
  | .timecodeFrame bytes => decide (bytes.length = 14)
  | .tcLost => true
  | .slewDone => true
  | .reload => true
  | .wrapNear => true
  | .wrapFault => true
  | .wrapHold => true
  | .measureBoundary hz _ => decide (hz < 2 ^ 32)
  | .stepBoundary _ _ => true
  | .opNop _ => true
  | .loop _ => true
  | .stepEnd _ => true
  | .yield _ => true
  | .mma _ => true
  | .wload _ => true
  | .prepass _ => true
  | .accumDrain _ => true
  | .epiBind _ => true
  | .prologue _ => true
  | .vpass _ => true
  | .recmerge _ => true
  | .smxmerge _ => true
  | .get _ => true
  | .put _ => true
  | .xfer _ => true
  | .pfWait _ => true
  | .dmaWait _ => true
  | .arriveWait _ => true
  | .deliveryArrival _ => true
  | .prefetchEntry _ => true
  | .sliceClearDone _ _ => true
  | .scanUnit _ _ => true
  | .selTopk _ => true
  | .selMerge _ => true
  | .runDelivery _ _ => true
  | .tgather _ => true
  | .tfetch _ => true
  | .sfuncSlotFill _ _ _ => true
  | .bondLoad => true
  | .bondLoadComplete _ => true
  | .bondAbort => true
  | .bondSeal => true
  | .bondUnload => true
  | .stgBegin => true
  | .stgData => true
  | .stgEnd => true
  | .stgAbort => true
  | .stgComplete => true
  | .swCommit => true
  | .swCancel => true
  | .switchDue _ => true
  | .tabOpen => true
  | .tabApply => true
  | .tabClose => true
  | .tabAbort => true
  | .tabCommandDone => true
  | .tsInit => true
  | .tsWrite => true
  | .tokenise _ => true
  | .maskBuild _ => true
  | .sampleToken _ logits => logits.all fun x => decide (x < 2 ^ 32)
  | .completionInstant _ => true
  | .ptPin => true
  | .ptUnpin => true
  | .serveCancel _ => true
  | .serveWinSnapshot _ => true
  | .admitOpen _ => true
  | .admitDecision => true
  | .drainComplete => true
  | .sqDoorbell _ _ => true
  | .cqHeadDoorbell _ _ => true
  | .submitQuery _ e _ _ => decide (e.length = 64)
  | .submitNop _ e => decide (e.length = 64)
  | .submitCancel _ e => decide (e.length = 64)
  | .coalTimer _ => true
  | .qEnable _ _ => true
  | .qResync _ => true
  | .qResume _ => true
  | .qBind _ _ => true
  | .qReplayFrom _ _ => true
  | .replayComplete _ => true
  | .functionLevelReset _ => true
  | .hotReset _ => true
  | .mbLockRead _ n => decide (1 ≤ n.val)
  | .mbLockRelease _ n _ => decide (1 ≤ n.val)
  | .lockExpired _ => true
  | .mbDoorbell _ n _ _ => decide (1 ≤ n.val)
  | .mbAck _ _ => true
  | .sessionOpen nonce _ _ => decide (nonce.length = 32)
  | .sessionKey ct _ => decide (ct.length = 1568)
  | .sessionClose _ => true
  | .getReport _ nonce _ => decide (nonce.length = 32)
  | .keyRelease _ object _ => decide (object.length = 1688)
  | .keyRevoke _ _ => true
  | .enrollRoot _ key sig _ => decide (key.length = 64) && decide (sig.length = 29792)
  | .setFloor _ _ _ sig _ => decide (sig.length = 29792)
  | .debugUnlock _ _ nonce _ sig _ => decide (nonce.length = 32) && decide (sig.length = 29792)
  | .debugExpiry => true
  | .jobKeyOpen _ peer ct _ => decide (ct.length = 1568) && (match peer with
      | some x => decide (x < 1024)
      | none => true)
  | .jobKeyClose _ _ => true
  | .podFrameDrop _ f => frameOk f
  | .podRequest _ f => frameOk f
  | .podCancel _ f => frameOk f
  | .selRun _ f => frameOk f
  | .podMergeStart _ => true
  | .tokReq _ f => frameOk f
  | .tokReply _ f => frameOk f
  | .coll _ f _ => frameOk f
  | .hello _ f => frameOk f
  | .podAck _ f => frameOk f
  | .ackDelayExpiry _ _ => true
  | .podRtoExpiry _ _ => true
  | .peerRetry _ _ => true
  | .pendingExpiry _ _ => true
  | .restart _ _ => true
  | .peerEnable _ _ _ => true
  | .podReset _ => true
  | .podEnable _ _ => true
  | .podLinkUp _ media _ => decide (1 ≤ media.val) && decide (media.val ≤ 3)
  | .podLinkDown _ => true
  | .polCtrl _ _ _ => true
  | .tcShapeWrite _ _ off _ => decide (off % 4 = 0) && decide (off ≤ 12)
  | .gateEntryChange _ => true
  | .frameTransmit _ => true
  | .firicJournal f _ => firicOk f
  | .journalAccept => true
  | .journalVset => true
  | .journalSwitch => true
  | .journalTable => true
  | .journalStore => true
  | .journalCancel => true
  | .journalTokens => true
  | .journalResult => true
  | .journalEnd => true
  | .journalKey => true
  | .journalAssetState => true
  | .journalBuildState => true
  | .journalFreeMap => true
  | .firicHeartbeat f => firicOk f
  | .firicFault f => firicOk f
  | .firicMbox f _ => firicOk f
  | .resyncData f => firicOk f
  | .passStart f => firicOk f
  | .passEnd f => firicOk f
  | .stateBegin f => firicOk f
  | .stateEnd f => firicOk f
  | .stateAck f => firicOk f
  | .resyncAbort f => firicOk f
  | .resyncPassDone => true
  | .firicIdle f => firicOk f
  | .firicRto _ => true
  | .firicLinkDown => true
  | .firicLinkUp _ _ => true
  | .watchdogFire => true
  | .handover => true
  | .rejoin => true
  | .twinFailDeclare => true
  | .inputValid => true
  | .railPgoodFail => true
  | .powerRetry => true
  | .resetRelease => true
  | .discoveryDone d => discoveryOk d
  | .trainingDone _ => true
  | .memInitDone failed => match failed with
    | some k => decide (k < 32)
    | none => true
  | .warmReset => true
  | .unitReset named => match named with
    | some u => decide (u.1 < 6) && decide (u.2 < 512)
    | none => true
  | .unitReturn _ _ => true
  | .uvWarn => true
  | .uvTrip => true
  | .inputLoss => true
  | .railShutdown => true
  | .ovTrip => true
  | .peakLimit => true
  | .plinthRecord crossed => match crossed with
    | some b => decide (b.length = 64)
    | none => true
  | .scrubAccess place flips _ _ => decide (flips < 2 ^ 72) && placeOk place
  | .evtCounterWrap _ => true
  | .evtFreeze _ => true
  | .evtClear => true
  | .evtSel _ _ => true
  | .beatEdge => true
  | .beatReturn => true
  | .hostLinkUp link _ => decide (link.val < 2 ^ 11)
  | .dmaCompletion _ _ => true
  | .messagePart _ f => frameOk f
  | .plinthSample _ _ _ => true
  | .telemSample _ => true
  | .trainingRecordWrite _ => true

end Sys2Proof
end

