-- ==== Sys2Proof/Tests/Slice0.lean ====
section
/-!
SUPPORT. Tests/Slice0.lean: a term that each well-formedness check refuses; for every statement's hypotheses, and for every clause of it, a
named state and operands that meet them together; and small tests of single commands against values of the spec.
-/
namespace Sys2Proof.Tests

-- one theorem after another: many kernel evaluations at once need more memory for their threads than the check allows
set_option Elab.async false

open Sys2Proof.Machine

/-! ## A small machine -/

/-- One section of kind SCAN: one core group of die 0, a step every 1,000 beats. -/
def sec0 : Section :=
  { id := 0, kind := 3, flags := 0, period := 1000, phase := 0, groups := [1, 0, 0, 0], wcet := 1, chanBudget := 0, energyBase := 0,
    chainBase := 0 }

/-- An SFUNC stage that names function 0. -/
def sfuncStage : Stage := { kind := 6, cvt := 0, sub := 0, tensor := 0, aAddr := 0, bAddr := 0, headroom := 0, rowlen := 0 }

/-- A small image with the words `ws` in the table of section 0: two regions, an allocation, a prefetch entry and assets of some kinds. -/
def img (ws : List SeqWord) : Image :=
  { imageId := 1, imageVer := 1, measureN := 1000, frontL := 4000, reqMemdev := 0, reqPodports := 0, reqTwin := false,
    reqGroups := [1, 0, 0, 0], sections := [sec0], seq := [.mk 0 0 0 0 ws], chains := [.mk 0 [] [] 0 false 0, .mk 0 [] [sfuncStage] 0 false 0],
    funcs := [.mk 0 0 0 0 0 true 6 0 [(0, 0, 0)] [] []], allocs := [{ sect := 0, flags := 0, base := 0, len := 65536, region := 0xFFFF }],
    regions := [{ kind := 2, asset := 0xFFFF, size := 1048576 }, { kind := 1, asset := 1, size := 4096 }, { kind := 1, asset := 6, size := 4096 },
      { kind := 1, asset := 3, size := 4096 }, { kind := 1, asset := 9, size := 4096 }],
    prefetch := [.mk 0 [.mk 0xFFFF 0 false false 0 0 0 32 0]],
    kv := { region := 0, blockBytes := 2048, nblk := 16, hbits := 4, ctxMax := 4096, prefillChunk := 128, homeStride := 2048 }, yields := [],
    f0 := 5, classes := [{ sect := 0, keyMin := 0, engCk := 10, e0 := 7 }], splits := [], claims := [],
    assets := [.mk 1 2 false 0xFFFFFFFF 16 [] [], .mk 6 6 false 0xFFFFFFFF 16 [] [], .mk 3 3 false 0xFFFFFFFF 16 [] [],
      .mk 9 1 false 0xFFFFFFFF 16 [] []],
    budgets := [], plan := { slots := 4, inImageLen := 0, inKeys := 0, period := 1000, steps := [] }, proofs := [], digest := [] }

/-- A module in service: READY, LOCKED at beat 1, one core group, one memory device, four pod ports, a SEALED image with the words `ws`, the host link up. -/
def up (ws : List SeqWord) : State :=
  { State.reset with
    topo := { TopoSt.reset with
              stage := .ready, fuseGroups := [1, 0, 0, 0], fuseMem := 1, fusePods := 15, fuseTwin := true
              units := [(0, .mk .available 0 none), (512, .mk .available 0 none), (1024, .mk .available 0 none), (1536, .mk .available 0 none),
                (2048, .mk .available 0 none), (2560, .mk .available 0 none)] }
    time := { TimeSt.reset with mode := .locked, beatIn := true, beat := 1 }
    plinth := { PlinthSt.reset with mode := .on }
    host := { HostSt.reset with linkUp := true }
    bond := { BondSt.reset with mode := .sealed, image := some (img ws) } }

/-- The same with core 0 running from its first word. -/
def running (w : Nat) : State := { up [BitVec.ofNat 128 w] with cores := [(0, { Core.reset with idle := false })] }

/-- Core 0. -/
def core0 (s : State) : Core := Machine.core s 0

/-- `running`, with changes to core 0. -/
def runningWith (w : Nat) (f : Core → Core) : State := modCore (running w) 0 f

/-- A word of opcode `op` whose other bits are `x`. -/
def word (op x : Nat) : Nat := op * 2 ^ 120 + x

/-- `up` with no words and another time. -/
def atTime (f : TimeSt → TimeSt) : State := { up [] with time := f (up []).time }

/-! ## Every check of well-formedness refuses a term -/

theorem smoke_registerWrite_empty : (Instr.registerWrite .bar0 0 0 []).wf = false := by decide
theorem smoke_registerWrite_range : (Instr.registerWrite .bar0 0 0x3FFFFFD [0, 0, 0, 0]).wf = false := by decide
theorem smoke_registerReadClear_empty : (Instr.registerReadClear 0 0 0).wf = false := by decide
theorem smoke_registerReadClear_long : (Instr.registerReadClear 0 0 4097).wf = false := by decide
theorem smoke_registerReadClear_range : (Instr.registerReadClear 0 0x3FFFFFF 4).wf = false := by decide
theorem smoke_lowHalfRead : (Instr.lowHalfRead 0 2).wf = false := by decide
theorem smoke_badSizeAccess : (Instr.badSizeAccess 0 8 4 true).wf = false := by decide
theorem smoke_unmappedAccess : (Instr.unmappedAccess ⟨.bar0, 0⟩ 2 4 true).wf = false := by decide
theorem smoke_timecodeFrame : (Instr.timecodeFrame [0]).wf = false := by decide
theorem smoke_measureBoundary : (Instr.measureBoundary (2 ^ 32) 0).wf = false := by decide
theorem smoke_sampleToken : (Instr.sampleToken 0 [2 ^ 32]).wf = false := by decide
theorem smoke_submitQuery : (Instr.submitQuery 0 [] [] true).wf = false := by decide
theorem smoke_submitNop : (Instr.submitNop 0 []).wf = false := by decide
theorem smoke_submitCancel : (Instr.submitCancel 0 []).wf = false := by decide
theorem smoke_mbLockRead : (Instr.mbLockRead 0 0).wf = false := by decide
theorem smoke_mbLockRelease : (Instr.mbLockRelease 0 0 0).wf = false := by decide
theorem smoke_mbDoorbell : (Instr.mbDoorbell 0 0 0 0).wf = false := by decide
theorem smoke_sessionOpen : (Instr.sessionOpen [] 0 true).wf = false := by decide
theorem smoke_sessionKey : (Instr.sessionKey [] true).wf = false := by decide
theorem smoke_getReport : (Instr.getReport 16 [] 0).wf = false := by decide
theorem smoke_keyRelease : (Instr.keyRelease 16 [] true).wf = false := by decide
theorem smoke_enrollRoot : (Instr.enrollRoot 16 [] [] true).wf = false := by decide
theorem smoke_setFloor : (Instr.setFloor 16 0 0 [] true).wf = false := by decide
theorem smoke_debugUnlock : (Instr.debugUnlock 16 0 [] 0 [] true).wf = false := by decide
theorem smoke_jobKeyOpen : (Instr.jobKeyOpen 0 none [] true).wf = false := by decide
theorem smoke_jobKeyOpen_peer : (Instr.jobKeyOpen 0 (some 1024) (List.replicate 1568 0) true).wf = false := by decide +kernel

/-- A link that trained at 40 °C, its record good. -/
def trained : LinkTraining := { crcBad := false, t16 := 640, partner := [], weak := false }

/-- A pod frame too short for its Ethernet header. -/
def shortFrame : RxFrame := { bytes := List.replicate 13 0, fcs := true, fill := 0 }

theorem smoke_podFrames : ([Instr.podFrameDrop 0 shortFrame, .podRequest 0 shortFrame, .podCancel 0 shortFrame, .selRun 0 shortFrame,
    .tokReq 0 shortFrame, .tokReply 0 shortFrame, .coll 0 shortFrame true, .hello 0 shortFrame, .podAck 0 shortFrame,
    .messagePart 0 shortFrame].all fun c => !c.wf) = true := by decide
theorem smoke_podFrame_long : (Instr.podFrameDrop 0 { shortFrame with bytes := List.replicate 9217 0 }).wf = false := by decide +kernel
theorem smoke_podLinkUp_none : (Instr.podLinkUp 0 0 trained).wf = false := by decide
theorem smoke_podLinkUp_range : (Instr.podLinkUp 0 4 trained).wf = false := by decide
theorem smoke_tcShapeWrite_aligned : (Instr.tcShapeWrite 0 0 2 0).wf = false := by decide
theorem smoke_tcShapeWrite_range : (Instr.tcShapeWrite 0 0 16 0).wf = false := by decide

/-- The words of a Firic frame of a type, SEQ and payload, its channel's number `vc`, good and whole. -/
def firicSeq (vc type seq : Nat) (p : List Byte) : FiricWords :=
  let h : List Byte := natLE 1 type ++ natLE 1 vc ++ natLE 2 p.length ++ natLE 4 seq ++ List.replicate 12 0xFF ++ List.replicate 12 0
  let b := h ++ p ++ natLE 4 (crc32c (h ++ p))
  { words := codeWords (32 * flits p.length) (b ++ List.replicate (256 * flits p.length - b.length) 0) }

/-- The first frame of its channel. -/
def firic (vc type : Nat) (p : List Byte) : FiricWords := firicSeq vc type 0 p

theorem smoke_firicFrames : (let f : FiricWords := { words := [0] }
    [Instr.firicJournal f none, .firicHeartbeat f, .firicFault f, .firicMbox f .seal, .resyncData f, .passStart f, .passEnd f,
      .stateBegin f, .stateEnd f, .stateAck f, .resyncAbort f, .firicIdle f].all fun c => !c.wf) = true := by decide
theorem smoke_firic_word : (Instr.firicIdle { words := 2 ^ 72 :: List.replicate 31 0 }).wf = false := by decide +kernel
theorem smoke_firic_long : (Instr.firicIdle { words := List.replicate 8224 0 }).wf = false := by decide +kernel
/-- A discovery in which everything passed. -/
def allFound : Discovery :=
  { dies := 15, srams := 15, groups := List.replicate 4 (2 ^ 128 - 1), slices := List.replicate 4 (2 ^ 128 - 1),
    routes := List.replicate 4 (2 ^ 128 - 1), bridges := 63, memPresent := 2 ^ 32 - 1, memGood := 2 ^ 32 - 1, ports := 15, firic := true }

theorem smoke_discoveryDone : ([Instr.discoveryDone { allFound with groups := [] }, .discoveryDone { allFound with slices := [] },
    .discoveryDone { allFound with routes := [] }].all fun c => !c.wf) = true := by decide
theorem smoke_memInitDone : (Instr.memInitDone (some 32)).wf = false := by decide
theorem smoke_unitReset : ([Instr.unitReset (some (6, 0)), .unitReset (some (0, 512))].all fun c => !c.wf) = true := by decide
theorem smoke_plinthRecord : (Instr.plinthRecord (some [])).wf = false := by decide
theorem smoke_scrubAccess_flips : (Instr.scrubAccess .keystone (2 ^ 72) false false).wf = false := by decide
theorem smoke_scrubAccess_place : ([Instr.scrubAccess (.scratchpad 32768 0) 0 false false, .scrubAccess (.scratchpad 0 393216) 0 false false,
    .scrubAccess (.lpddr 65536 0) 0 false false, .scrubAccess (.lpddr 0 (2 ^ 48)) 0 false false,
    .scrubAccess (.mortar 4 false) 0 false false].all fun c => !c.wf) = true := by decide
theorem smoke_hostLinkUp : (Instr.hostLinkUp 2048 trained).wf = false := by decide
theorem smoke_wellFormed : ([Instr.registerWrite .bar0 0 0 [0, 0, 0, 0], .unmappedAccess ⟨.bar0, 0⟩ 4 4 true, .badSizeAccess 0 8 3 false,
    .beatEdge, .hostLinkUp 2047 trained, .unitReset none, .memInitDone none].all Instr.wf) = true := by decide

/-! ## Witnesses: steps, levels, the log, accesses (R9 to R12, R457, R459) -/

theorem witness_StepRunsTheFrontCommand : ({ up [] with pending := [.beatLost, .beatEdge] } : State).pending = [.beatLost, .beatEdge]
    ∧ (up []).pending = [] := by decide +kernel

theorem witness_StepKeepsLevelsSettled : Settled State.reset ∧ (match Machine.step { State.reset with pending := [.inputValid] } with
    | .next t => decide (t.plinth.mode = .rising)
    | _ => false) = true := by decide +kernel

/-- BOND_INT_STATUS up under its enable, routed to vector 3 with an I3C interrupt. -/
def bondUp : State :=
  setReg (setReg (setReg (up []) Reg.BOND_INT_STATUS 1) Reg.BOND_INT_ENABLE 1) (Reg.ERR_INT_ROUTE 1) 0x83

/-- Queue pair 5 with a status bit up under its enable. -/
def pairUp : State := setReg (setReg (up []) (Reg.Q_INT_STATUS 5) 1) (Reg.Q_INT_ENABLE 5) 1

theorem witness_RisenLevels_summary : (1 ∈ levelsUp bondUp ∧ 1 ∉ bondUp.err.levels ∧ bondUp.twin.silent = false
    ∧ bit (reg bondUp (Reg.ERR_INT_ROUTE 1)) 7 = true) ∧ 20 ∉ levelsUp bondUp := by decide +kernel
theorem witness_RisenLevels_pair : 32 + 5 ∈ levelsUp pairUp ∧ 32 + 5 ∉ pairUp.err.levels ∧ pairUp.twin.silent = false := by decide +kernel
theorem witness_RisenLevels_remembered : ∀ k ∈ levelsUp (settle bondUp), k ∈ (settle bondUp).err.levels := by decide +kernel

/-- A protocol event. -/
def item : LogItem := { code := 2, cls := 2 }

theorem witness_LogEntry_new : reg (setReg (up []) Reg.ERR_LOG_HEAD 511) Reg.ERR_LOG_HEAD < 512 ∧ item.cls = 2
    ∧ repeated (setReg (up []) Reg.ERR_LOG_HEAD 511) item = none := by decide +kernel
theorem witness_LogEntry_repeat : reg (logErr (up []) item) Reg.ERR_LOG_HEAD < 512
    ∧ (logErr (up []) item).err.newest = some (0, measureNo (logErr (up []) item))
    ∧ (match tget (fun _ => none) (logErr (up []) item).err.ring 0 with
      | some e => decide (item.code = e.code ∧ item.die = e.die ∧ item.unit = e.unit ∧ item.addr = e.addr)
      | none => false) = true := by decide +kernel

/-- The premises of WritesFollowTheAccessCodes for a write of ones at `off`, a register of access code `a`. -/
def writesAt (s : State) (off : Nat) (a : Acc) : Bool :=
  decide (off % 4 = 0) && !inChannel off && !inDebug off && hostReaches s off && (specialWrite s 1 off (leNat [255, 255, 255, 255])).isNone
    && (match regRow off with
      | some (r, _) => decide (r.acc = a)
      | none => false)

theorem witness_Writes_rw : writesAt (up []) Reg.BOND_INT_ENABLE .rw = true := by decide +kernel
theorem witness_Writes_w1c : writesAt (up []) Reg.BOND_INT_STATUS .w1c = true := by decide +kernel
theorem witness_Writes_lk : writesAt (up []) (Reg.POD_MAC 0) .lk = true ∧ isSealed (up []) = true ∧
    writesAt { up [] with bond := BondSt.reset } (Reg.POD_MAC 0) .lk = true ∧ isSealed { up [] with bond := BondSt.reset } = false := by
  decide +kernel
theorem witness_Writes_ro : writesAt (up []) Reg.IDENT_VENDOR .ro = true ∧ writesAt (up []) Reg.BOND_CNT_OVERRUN .rc = true
    ∧ writesAt (up []) Reg.ENERGY_TOTAL .roSt = true := by decide +kernel

theorem witness_StagingWindow : bar4Size - 1 + [(7 : Byte)].length ≤ bar4Size ∧ twf memDefault (up []).staging = true := by decide +kernel

/-- The premises of a read of the register at `off`: its words and access code. -/
def readsAt (s : State) (off words : Nat) (a : Acc) : Bool :=
  !inChannel off && !inDebug off && hostReaches s off && (match regRow off with
    | some (r, d) => decide (d = 0 ∧ r.acc = a ∧ r.words = words ∧ r.acc ≠ .wo)
    | none => false)

theorem witness_Reads_low : readsAt (up []) Reg.ENERGY_TOTAL 2 .roSt = true ∧ Reg.ENERGY_TOTAL % 4 = 0
    ∧ readsAt (up []) (Reg.POD_CNT_RX_BYTES 0) 2 .rc = true ∧ Reg.POD_CNT_RX_BYTES 0 % 8 = 0
    ∧ clearMeter (setLatch (up []) (Reg.POD_CNT_RX_BYTES 0) 0) 0 (Reg.POD_CNT_RX_BYTES 0) = none
    ∧ clearMeter (up []) 0 (Reg.POD_CNT_RX_BYTES 0) = none := by decide +kernel
theorem witness_Reads_clear : readsAt (up []) Reg.BOND_CNT_OVERRUN 1 .rc = true ∧ Reg.BOND_CNT_OVERRUN % 4 = 0
    ∧ clearMeter (up []) ((Reg.BOND_CNT_OVERRUN - Reg.POD_STATUS 0) / 0x40000) Reg.BOND_CNT_OVERRUN = none := by decide +kernel

theorem witness_Refused : goodSize 2 4 = false ∧ goodSize 4 8 = false ∧ (inChannel 0x1000 = false ∧ inDebug 0x1000 = false
    ∧ hostReaches (up []) 0x1000 = true ∧ regRow 0x1000 = none) ∧ (goodSize 0x2000 4 = true ∧ windowOffset (up []) 1 0x2000 = none)
    ∧ hostReaches (up []) CmdReg.bond.offset = true ∧ CmdReg.bond.defined (CmdReg.bond.code 3) = false
    ∧ CmdReg.stg.defined (CmdReg.stg.code 5) = false ∧ CmdReg.ptPin.defined (CmdReg.ptPin.code 3) = false := by decide +kernel

/-! ## Witnesses: time, measures, boundaries -/

theorem witness_BeatLoss_locked : beatPresent (up []).time = true ∧ (up []).time.mode = .locked ∧ hostReaches (up []) Reg.BEAT_CTRL = true := by
  decide +kernel
theorem witness_BeatLoss_slewing : beatPresent (atTime fun t => { t with mode := .slewing }).time = true
    ∧ (atTime fun t => { t with mode := .slewing }).time.mode = .slewing := by decide +kernel
theorem witness_BeatLoss_fault : beatPresent (atTime fun t => { t with mode := .fault }).time = true
    ∧ (atTime fun t => { t with mode := .fault }).time.mode = .fault ∧ (atTime fun t => { t with mode := .fault }).time.synth = false := by
  decide +kernel
theorem witness_BeatLoss_unset : beatPresent (atTime fun t => { t with mode := .unset }).time = true
    ∧ (atTime fun t => { t with mode := .unset }).time.mode = .unset := by decide +kernel
theorem witness_BeatLoss_forced : hostReaches (atTime fun t => { t with forced := true }) Reg.BEAT_CTRL = true
    ∧ (atTime fun t => { t with forced := true }).time.forced = true ∧ atMeasure (atTime fun t => { t with forced := true }) = false := by
  decide +kernel
theorem witness_BeatLoss_return : (atTime fun t => { t with beatIn := false }).time.beatIn = false
    ∧ atMeasure (atTime fun t => { t with beatIn := false }) = false := by decide +kernel

theorem witness_Markers : (slipTest (up []) = true ∧ (up []).time.beat % max (measureN (up [])) 1 ≠ 0)
    ∧ slipTest (atTime fun t => { t with mode := .unset }) = false
    ∧ (slipTest (atTime fun t => { t with beat := 1000 }) = true ∧ 1000 % max (measureN (up [])) 1 = 0)
    ∧ 3 ≤ (atTime fun t => { t with framesMissed := 3 }).time.framesMissed := by decide +kernel

/-- A TIMECODE frame of a count (R27). -/
def frameOf (count : Nat) : List Byte :=
  let b := natLE 2 0x2BD4 ++ natLE 6 count ++ natLE 2 0
  b ++ natLE 4 (crc32c b)

/-- LOCKED, with a marker of raw beat 5 at local beat 1,000. -/
def marked : State := atTime fun t => { t with marker := some (5, 1000 * 65536), rawBeats := 5, beat := 1000 }

theorem witness_Timecode_bad : frameValid (up []) [] = false := by decide +kernel
theorem witness_Timecode_equal : frameValid marked (frameOf 1000) = true ∧ marked.time.mode = .locked ∧ marked.time.reloadPending = false
    ∧ marked.time.marker = some (5, 1000 * 65536) ∧ le (frameOf 1000) 2 6 = 1000 * 65536 / 65536 := by decide +kernel
theorem witness_Timecode_differs : frameValid marked (frameOf 2000) = true ∧ le (frameOf 2000) 2 6 ≠ 1000 * 65536 / 65536
    ∧ marked.time.mismatch ≠ some ((le (frameOf 2000) 2 6 : Nat) - (1000 * 65536 / 65536 : Nat) : Int) := by decide +kernel
theorem witness_Timecode_again :
    let s : State := { marked with time := { marked.time with mismatch := some 1000 } }
    frameValid s (frameOf 2000) = true ∧ s.time.mode = .locked ∧ s.time.reloadPending = false ∧ s.time.marker = some (5, 1000 * 65536)
      ∧ le (frameOf 2000) 2 6 ≠ 1000 * 65536 / 65536
      ∧ s.time.mismatch = some ((le (frameOf 2000) 2 6 : Nat) - (1000 * 65536 / 65536 : Nat) : Int) := by decide +kernel

/-- UNSET with BEAT present and a marker of raw beat `r`, the first frame `first`. -/
def unsetWith (r : Nat) (first : Option (Nat × Nat)) : State :=
  atTime fun t => { t with mode := .unset, beat := 0, marker := some (r, 0), rawBeats := r + 3, firstFrame := first }

theorem witness_Timecode_first : (frameValid (unsetWith 5 none) (frameOf 1000) = true ∧ (unsetWith 5 none).time.mode = .unset
    ∧ beatPresent (unsetWith 5 none).time = true ∧ (unsetWith 5 none).time.reloadPending = false
    ∧ (unsetWith 5 none).time.marker = some (5, 0)) ∧ (unsetWith 5 none).time.firstFrame = none := by decide +kernel
theorem witness_Timecode_unpaired : frameValid (unsetWith 5 (some (1000, 4))) (frameOf 1000) = true
    ∧ (unsetWith 5 (some (1000, 4))).time.firstFrame = some (1000, 4) ∧ pairHolds 1000 4 (le (frameOf 1000) 2 6) 5 = false := by decide +kernel
theorem witness_Timecode_pair : frameValid (unsetWith 1005 (some (1000, 5))) (frameOf 2000) = true
    ∧ (unsetWith 1005 (some (1000, 5))).time.firstFrame = some (1000, 5) ∧ pairHolds 1000 5 (le (frameOf 2000) 2 6) 1005 = true
    ∧ le (frameOf 2000) 2 6 + ((unsetWith 1005 (some (1000, 5))).time.rawBeats - 1005) < 0xFF0000000000
    ∧ (unsetWith 1005 (some (1000, 5))).topo.stage = .ready := by decide +kernel

theorem witness_Wrap_near : hasCount (atTime fun t => { t with beat := 0xFF0000000000 }) = true
    ∧ 0xFF0000000000 ≤ (atTime fun t => { t with beat := 0xFF0000000000 }).time.beat
    ∧ (atTime fun t => { t with beat := 0xFF0000000000 }).time.wrapNear = false := by decide +kernel
theorem witness_Wrap_fault : hasCount (atTime fun t => { t with beat := 0xFFFFFFFF0000 }) = true
    ∧ 0xFFFFFFFF0000 ≤ (atTime fun t => { t with beat := 0xFFFFFFFF0000 }).time.beat
    ∧ (atTime fun t => { t with beat := 0xFFFFFFFF0000 }).time.cause ≠ .wrap
    ∧ (atTime fun t => { t with beat := 0xFFFFFFFF0000 }).time.mode ≠ .fault := by decide +kernel
theorem witness_Wrap_hold : hasCount (atTime fun t => { t with beat := 0xFFFFFFFFFFFF }) = true
    ∧ (atTime fun t => { t with beat := 0xFFFFFFFFFFFF }).time.beat = 0xFFFFFFFFFFFF := by decide +kernel
theorem witness_Reload : (hostReaches (atTime fun t => { t with mode := .fault }) Reg.BEAT_CTRL = true
    ∧ (atTime fun t => { t with mode := .fault }).time.mode = .fault ∧ inFlight (atTime fun t => { t with mode := .fault }) = false)
    ∧ (hostReaches (up []) Reg.BEAT_CTRL = true ∧ (up []).time.mode ≠ .unset ∧ (up []).time.mode ≠ .fault)
    ∧ inFlight { up [] with front := { FrontSt.reset with reqs := [(0, some Req.blank)] } } = true
    ∧ (atTime fun t => { t with mode := .slewing }).time.mode = .slewing := by decide +kernel

theorem witness_BeatEdge : (slipTest (atTime fun t => { t with mode := .holdover, ck := 1499 }) = false
    ∧ (atTime fun t => { t with mode := .holdover, ck := 1499 }).time.hold = false
    ∧ (atTime fun t => { t with mode := .holdover, ck := 1499 }).time.beat + 1 < 0xFF0000000000)
    ∧ (slipTest (atTime fun t => { t with mode := .holdover, ck := 1499, hold := true }) = false
    ∧ (atTime fun t => { t with mode := .holdover, ck := 1499, hold := true }).time.hold = true
    ∧ (atTime fun t => { t with mode := .holdover, ck := 1499, hold := true }).time.ck = 1499) := by decide +kernel

theorem witness_Measure_taken : atMeasure (atTime fun t => { t with beat := 2000 }) = true
    ∧ (atTime fun t => { t with beat := 2000 }).time.hold = false ∧ (atTime fun t => { t with beat := 2000 }).time.measureAt ≠ 2000 + 1
    ∧ atMeasure (up []) = false ∧ regBit (setReg (up []) Reg.EVT_CTRL 4) Reg.EVT_CTRL 2 = true := by decide +kernel
theorem witness_Measure_frequency : 1100 < deviationPpm 1001101 ∧ beatPresent (up []).time = true ∧ (up []).time.mode = .locked
    ∧ deviationPpm 1001100 ≤ 1100 ∧ 0 < 1001100 ∧ 1001101 < 2 ^ 32 := by decide +kernel

/-- A request of account 3 in flight. -/
def oneRequest : State := { up [] with front := { FrontSt.reset with reqs := [(0, some { Req.blank with account := 3 })] } }

theorem witness_Shares : let act := (activeNow oneRequest).foldl (fun l a => insertAsc a l) oneRequest.adm.active
    act.contains 3 = true ∧ act.contains 4 = false := by decide +kernel
theorem witness_Allowance : bits (reg (setReg (up []) Reg.ENERGY_TMAX 1520) Reg.ENERGY_TMAX) 15 0 ≤ 1520
    ∧ 1680 ≤ bits (reg (setReg (up []) Reg.ENERGY_TMAX 1680) Reg.ENERGY_TMAX) 15 0
    ∧ Thermal.margin ≠ .stop ∧ Thermal.margin ≠ .drained
    ∧ (setReg (up []) Reg.ENERGY_TMAX 1760).energy.thermal ≠ .stop ∧ (setReg (up []) Reg.ENERGY_TMAX 1760).energy.thermal ≠ .drained
    ∧ 1760 ≤ bits (reg (setReg (up []) Reg.ENERGY_TMAX 1760) Reg.ENERGY_TMAX) 15 0 := by decide +kernel

theorem witness_StepBoundary : (sectionOf (atTime fun t => { t with beat := 1000 }) 0 = some sec0
    ∧ boundaryDue (atTime fun t => { t with beat := 1000 }) sec0 = true)
    ∧ sectionOf (up []) 0 = some sec0 ∧ boundaryDue (up []) sec0 = false ∧ sectionOf (up []) 1 = none := by decide +kernel
theorem witness_StepOverrun :
    let s : State := { running (word 0 0) with steps := [(0, { StepSt.reset with at_ := 1 })] }
    lateCores s sec0 ≠ [] ∧ ∀ c ∈ lateCores s sec0, atMerge s c = false := by decide +kernel
theorem witness_WorkList : (∀ e, 0 ≤ (fun _ : Nat => (2 : Int)) e) ∧ (0 : Int) ≤ 5
    ∧ (takeItems (fun _ => 2) 3 5 [1, 2, 3]).length < 3 ∧ [1, 2, 3][(takeItems (fun _ => 2) 3 5 [1, 2, 3]).length]? = some 3 := by
  exact ⟨fun _ => Int.le_of_lt (by show (0 : Int) < 2; decide), by decide, by decide, by decide⟩

/-! ## Witnesses: sequencer words -/

/-- Core 0 of `running` holds word `w` of opcode `op`, and a test of its word and core holds. -/
def runs (op x : Nat) (f : Core → Core) (p : State → Nat → Bool) : Bool :=
  let s := runningWith (word op x) f
  match wordOf s 0 op with
  | some w => p s w
  | none => false

theorem witness_ControlWords : (runs 0x00 0 id (fun _ _ => true) && runs 0x01 (2 ^ 108 + 3 * 2 ^ 88) id (fun _ w => bits w 107 88 == 3)
    && runs 0x02 0 id (fun _ _ => true)) = true := by decide +kernel

/-- A loop of a body of two words from word 1, run three times. -/
def loop3 : Loop := { loopOf 0 (word 0x01 0) with first := 1, body := 2, count := 3, iter := 0 }

theorem witness_Loops : let k : Core := { Core.reset with loops := [loop3], pc := 1 }
    k.loops = loop3 :: [] ∧ k.pc = loop3.first ∧ loop3.iter = 0 ∧ 0 < loop3.body ∧ 0 < loop3.count ∧ 2 < loop3.count := by decide +kernel

/-- A segment of one item. -/
def seg : Segment := { items := [0], owners := [], seeds := [], home := 4096, vset := 1 }

theorem witness_Yields : (runs 0x03 (5 * 2 ^ 102) id (fun s _ => (core0 s).segments.isEmpty)
    && runs 0x03 (5 * 2 ^ 102) (fun k => { k with segments := [seg] }) (fun s w => (core0 s).segments == [seg] && bits w 113 102 == 5))
    = true := by decide +kernel

theorem witness_Matrix : (runs 0x11 0 id (fun s w => readHold (core0 s) (wloadReads (core0 s) w) == none && inScratchpad (wloadReads (core0 s) w))
    && runs 0x11 (2 ^ 64) id (fun s w => readHold (core0 s) (wloadReads (core0 s) w) == none && inScratchpad (wloadReads (core0 s) w))
    && runs 0x12 0 id (fun s w => prepassHold (core0 s) w == none && inScratchpad (prepassReads (core0 s) w))) = true := by decide +kernel

/-- A core whose set 0 has pending anchors and whose buffer 0 is loaded. -/
def readyCore (k : Core) : Core :=
  setSet { k with wbuf0 := { WBuf.reset with fmt := 0, block := List.replicate 64 1, scales := List.replicate 16 127, loaded := true } } 0
    { AccSet.reset with pendingReady := true }

theorem witness_Mma : (runs 0x10 (2 ^ 110 + 2 ^ 64) readyCore (fun s w => mmaHold (core0 s) w == none && inScratchpad (mmaReads (core0 s) w)
      && bit w 110 && startOn (core0 s) && !bit w 109)
    && runs 0x10 (2 ^ 110 + 2 ^ 109 + 2 ^ 64) readyCore (fun s w => mmaHold (core0 s) w == none && inScratchpad (mmaReads (core0 s) w)
      && bit w 109 && endOn (core0 s))) = true := by decide +kernel
theorem witness_Drain : (core0 (up [])).drainQ = [] ∧ (core0 (runningWith 0 fun k => { k with drainQ := [(3, none), (4, some (1, 2))] })).drainQ = (3, none) :: [(4, some (1, 2))] := by
  decide +kernel

theorem witness_Chains : (runs 0x20 0 id (fun s w => rangeHold (core0 s) (epiAccess s 0 w) == none && inScratchpad (epiAccess s 0 w))
    && runs 0x21 0 id (fun s w => rangeHold (core0 s) (passAccess true s 0 w) == none && inScratchpad (passAccess true s 0 w))
    && runs 0x22 0 id (fun s w => rangeHold (core0 s) (passAccess false s 0 w) == none && inScratchpad (passAccess false s 0 w))
    && runs 0x23 0 id (fun s w => rangeHold (core0 s) (mergeAccess 64 w) == none && inScratchpad (mergeAccess 64 w))
    && runs 0x30 0 id (fun s w => rangeHold (core0 s) (mergeAccess 32 w) == none && inScratchpad (mergeAccess 32 w)
      && decide (0 < (mergeFields w).1) && decide (0 < (mergeFields w).2.1))) = true := by decide +kernel

/-- The premises of a GET or PUT that reaches `reach`. -/
def dmaGoes (reach : Core → Nat → List Access) (s : State) (w : Nat) : Bool :=
  let f := dmaFields w
  rangeHold (core0 s) (reach (core0 s) w) == none && inScratchpad (reach (core0 s) w)
    && inRegion s f.region (f.at_ (core0 s)) f.len && refusedAccesses s 0 f.region (f.at_ (core0 s)) f.len == 0
    && !readsPoison s f.region (f.at_ (core0 s)) f.len

theorem witness_Dma : (runs 0x50 0 id (dmaGoes getReach)
    && runs 0x50 (2 ^ 114 + 1048560) id (dmaGoes getReach)
    && runs 0x51 (1048560) id (dmaGoes putReach)) = true := by decide +kernel
theorem witness_Xfer : runs 0x52 (2 ^ 96) id (fun s w => rangeHold (core0 s) (putReach (core0 s) w) == none && inScratchpad (putReach (core0 s) w)
    && coreSection s 0 == some 0 && ((sectionCores s 0)[(dmaFields w).region]?).isSome) = true := by decide +kernel
theorem witness_Waits : (runs 0x53 (7 * 2 ^ 108) (fun k => { k with pfDone := [7] }) (fun s w => (core0 s).pfDone.contains (bits w 119 108))
    && runs 0x53 (7 * 2 ^ 108) id (fun s w => !(core0 s).pfDone.contains (bits w 119 108))
    && runs 0x54 (2 ^ 104) id (fun s _ => (core0 s).dma.isEmpty)
    && runs 0x54 (2 ^ 104) (fun k => { k with dma := [.mk 0 (some 0) none] }) (fun s w => (core0 s).dma.any fun d =>
      match d.tag with
      | some t => bit (bits w 119 104) t
      | none => false)
    && runs 0x55 (2 ^ 100) (fun k => { k with arrive := [(0, 1)] }) (fun s w => decide (bits w 115 100 ≤ tget (fun _ => 0) (core0 s).arrive (bits w 119 116)))
    && runs 0x55 (2 ^ 100) id (fun s w => decide (tget (fun _ => 0) (core0 s).arrive (bits w 119 116) < bits w 115 100))) = true := by
  decide +kernel

theorem witness_Completion : (core0 (runningWith 0 fun k => { k with dma := [.mk 0 (some 0) none, .mk 1 none (some 4)] })).dma[1]?
    = some (Dma.mk 1 none (some 4)) := by decide +kernel

/-- A delivery of two bytes to the last place of core 0. -/
def edge : Delivery := { core := 0, tag := some 3, addr := spSize - 2, data := [1, 2], asker := 0, askerEpoch := 0, groupEpoch := 0 }

theorem witness_Delivery :
    let s : State := { up [] with deliveries := [edge], cores := [(0, { Core.reset with arrive := [(3, 65534)] })] }
    s.deliveries.find? (fun x => decide (x.core = 0)) = some edge ∧ edge.tag = some 3
      ∧ tget (fun _ => 0) (core0 s).arrive 3 < 65535 ∧ edge.addr + edge.data.length ≤ spSize ∧ edge.stale s = false
      ∧ ({ edge with askerEpoch := 1 } : Delivery).stale s = true := by decide +kernel

theorem witness_Prefetch :
    let s := runningWith 0 fun k => { k with issued := [0] }
    (match (pfEntries s 0)[(core0 s).pfStarted]? with
    | some e => triggered (core0 s) e && decide (((core0 s).dma.filter fun d => d.entry.isSome).length < 8)
      && rangeHold (core0 s) [⟨pfDest s e, e.len, true⟩] == none && inScratchpad [⟨pfDest s e, e.len, true⟩]
      && inRegion s e.region (pfSource s 0 e) e.len && refusedAccesses s 0 e.region (pfSource s 0 e) e.len == 0
      && !readsPoison s e.region (pfSource s 0 e) e.len
    | none => false) = true := by decide +kernel
theorem witness_Slice : tget (fun _ => SliceSt.off) (core0 (runningWith 0 fun k => { k with slices := [(5, .clearing)] })).slices 5
    = .clearing := by decide +kernel

/-! ## Witnesses: selection, search, tables -/

theorem witness_SelTopk : ([0, 1, 2].all fun d => runs 0x60 (d * 2 ^ 47) id (fun s w => rangeHold (core0 s) (topkReach (core0 s) w) == none
    && inScratchpad (topkReach (core0 s) w) && bits w 48 47 == d)) = true := by decide +kernel

/-- A run of one entry. -/
def run1 : Run := { Run.empty with entries := [{ score := 5, id := 1, pos := 0 }] }

/-- Core 0 before a SEL_MERGE with destination `d`, a run in its slot 0. -/
def merging (d : Nat) : State := { running (word 0x61 (d * 2 ^ 95)) with sel := { SelSt.reset with slots := [(0, some run1)] } }

theorem witness_SelMerge : ([0, 1, 2].all fun d => match wordOf (merging d) 0 0x61 with
    | some w => selMergeReady (merging d) 0 w && rangeHold (core0 (merging d)) (mergeReach (core0 (merging d)) w) == none
      && inScratchpad (mergeReach (core0 (merging d)) w) && bits w 96 95 == d
    | none => false) = true := by decide +kernel

/-- A run on its way to unit 0, slot 63. -/
def flying : State := { up [] with sel := { SelSt.reset with flight := [⟨0, 63, false, run1, 0, 0⟩] } }

theorem witness_RunDelivery :
    let full : State := { flying with sel := { flying.sel with slots := [(slotKey 0 63, some run1)] } }
    let off : State := { flying with topo := { flying.topo with units := [] } }
    (flying.sel.flight.find? fun f => decide (f.parent = false) && (false || decide (f.core / 64 = 0))) = some ⟨0, 63, false, run1, 0, 0⟩
      ∧ (unitSt flying 1 0).mode = .available ∧ slotRun flying 0 63 = none
      ∧ (unitSt full 1 0).mode = .available ∧ slotRun full 0 63 = some run1 ∧ (unitSt off 1 0).mode ≠ .available := by decide +kernel

/-- A verified version `n` of slot `sl`. -/
def version (n sl : Nat) : Version :=
  { ver := n, slot := sl, size := 16, digest := [], verified := true, everCurrent := false, superseded := false, pages := [], wb := [] }

/-- `up` with version 5 of asset `a` in slot 0. -/
def holding (a : Nat) : State := { up [] with assets := { AssetSt.reset with table := [(a, { Asset.reset with versions := [version 5 0] })] } }

theorem witness_SfuncFill : (Machine.core (holding 6) 0).idle = true ∧ kindOf (holding 6) 6 = some 6 ∧ (funcCores (holding 6) 6).contains 0 = true
    ∧ (verifiedVers (holding 6) 6).contains 5 = true ∧ ((funcSlotsOf (holding 6) 6 0).all fun p => decide (p.ver ≠ 5)) = true
    ∧ (funcSlotsOf (holding 6) 6 0).length < 4 := by decide +kernel

/-- A resident request in round 1 with one probe list, and an INDEX whose list directory gives that list one page. -/
def scanning : State :=
  let s : State := { holding 9 with
    front := { FrontSt.reset with
      reqs := [(0, some { Req.blank with round := 1, probe := [(0, 0)], team := [0], resident := true, mergeBy := some 0, shardCount := 2 })] } }
  ldWrite (ldWrite { s with assets := { s.assets with table := [(9, { Asset.reset with current := 5, versions := [version 5 0] })] } } 4 60
    (natLE 4 256)) 4 256 (natLE 4 0 ++ natLE 4 1 ++ natLE 4 1)

theorem witness_ScanUnit : (match reqOf scanning 0 with
    | some r => (match pinnedIndex scanning r.vset with
      | some x => decide ((roundUnits scanning x (roundLists r))[0]? = some (0, 0)) && decide (r.team ≠ []) && !r.unitsDone.contains 0 && r.resident
      | none => false) && mergeDue scanning r
    | none => false) = true := by decide +kernel
theorem witness_TakeUnit : run1.entries.length ≤ 1 ∧ (run1.entries.map (·.id)).Nodup := by decide +kernel
theorem witness_Merge : (mergeRuns 2 [run1, run1]).1.entries.length < 2 := by decide +kernel

theorem witness_Gather : (runs 0x4F 0 id (fun s w => rangeHold (core0 s) (gatherReach s 0 w) == none && inScratchpad (gatherReach s 0 w))
    && runs 0x4E 4096 id (fun s w => rangeHold (core0 s) (fetchReach s 0 w) == none && inScratchpad (fetchReach s 0 w)
      && inRegion s (bits w 77 62) (fetchAt (core0 s) w) (outBytes (spRead s 0 (4 * bits w 111 95) 32) (bits w 119 114 + 1)))) = true := by
  decide +kernel

/-! ## Witnesses: images and assets -/

/-- `up` with the bond block in a mode. -/
def bondIn (m : BondMode) : State := { up [] with bond := { (up []).bond with mode := m } }

theorem witness_Load : (hostReaches (bondIn .empty) Reg.BOND_CTRL = true ∧ (bondIn .empty).bond.mode = .empty
      ∧ regBit (bondIn .empty) Reg.BOND_SRC 0 = false)
    ∧ (bondIn .rejected).bond.mode = .rejected ∧ (bondIn .checking).bond.mode = .checking ∧ (bondIn .checking).bond.fromTwin = false
    ∧ (up []).bond.mode ≠ .empty ∧ (up []).bond.mode ≠ .rejected ∧ (up []).bond.mode ≠ .checking := by decide +kernel
theorem witness_Load_twin :
    let s : State := { setReg (bondIn .empty) Reg.BOND_SRC 1 with twin := { TwinSt.reset with mode := .attested, peerState := 3 } }
    hostReaches s Reg.BOND_CTRL = true ∧ s.bond.mode = .empty ∧ regBit s Reg.BOND_SRC 0 = true ∧ s.twin.mode = .attested ∧ twinSealed s = true
      ∧ twinSealed { s with twin := { s.twin with peerState := 6 } } = true := by decide +kernel
theorem witness_LoadBad : loadBad [] (siteOf (bondIn .checking) 0) ≠ none := by decide +kernel

/-- LOADED with an image of no assets. -/
def loadedBare : State := { bondIn .loaded with bond := { (bondIn .loaded).bond with image := some { img [] with assets := [] } } }

theorem witness_Seal : (hostReaches (up []) Reg.BOND_CTRL = true ∧ (up []).bond.mode ≠ .loaded)
    ∧ ((bondIn .loaded).bond.mode = .loaded ∧ sealAssets (bondIn .loaded) (img []) = some (0x20, 0))
    ∧ (loadedBare.bond.mode = .loaded ∧ loadedBare.bond.image = some { img [] with assets := [] }
      ∧ sealAssets loadedBare { img [] with assets := [] } = none ∧ loadedBare.twin.mode = .absent
      ∧ regBit loadedBare Reg.TWIN_CTRL 2 = false) ∧ (img []).reqTwin = false := by decide +kernel
theorem witness_Seal_digest : sealAssets (holding 9) { img [] with assets := [.mk 9 1 false 5 16 [] [1]] } = some (0x21, 0) := by decide +kernel
theorem witness_Unload : ((bondIn .loaded).bond.mode ≠ .sealed) ∧ admitOpen (setReg (up []) Reg.ADMIT_CTRL 1) = true ∧ inFlight { up [] with front := { FrontSt.reset with reqs := [(0, some Req.blank)] } } = true
    ∧ ((up []).bond.mode = .sealed ∧ admitOpen (up []) = false ∧ inFlight (up []) = false ∧ hostReaches (up []) Reg.BOND_CTRL = true) := by
  decide +kernel

/-- What BEGIN opens for the initial version of function asset 6 without a header. -/
def opened : Staging :=
  { asset := 6, pos := 0, ver := 0xFFFFFFFF, slot := 0, initial := true, size := 16, shape := [], digest := [], header := [], key := none,
    chunks := 0, data := [], lastPiece := false }

/-- LOADED, STG_ASSET naming asset 6's initial version. -/
def beginning : State := setReg (bondIn .loaded) Reg.STG_ASSET (65536 + 6)

/-- `beginning` with command `op` reading BUSY, of asset 6's initial version, with the bytes `bs`, and a staging. -/
def busyWith (op : Nat) (bs : List Byte) (g : Option Staging) : State :=
  { beginning with assets := { beginning.assets with
      staging := g
      stgBusy := some { op := op, sel := 65536 + 6, badState := false, inWindow := true, bytes := bs } } }

theorem witness_StgWrite : hostReaches beginning Reg.STG_CMD = true ∧ beginning.assets.stgBusy = none ∧ isHeld beginning 0 = false
    ∧ holdsCommands beginning = false ∧ (stgCommand beginning 1 (65536 + 6) 0 0).inWindow = true
    ∧ (busyWith 1 [] none).assets.stgBusy.isSome = true ∧ hostReaches (busyWith 1 [] none) Reg.STG_CMD = true := by decide +kernel
theorem witness_StgBad : (stgCommand (up []) 1 (65536 + 6) 0 0).badState = true ∧ (stgCommand beginning 1 (65536 + 6) 0 0).badState = false
    ∧ stgBarred beginning 0 0 = false ∧ stgBarred (bondIn .empty) 0 0 = true := by decide +kernel
theorem witness_StgBegin : stgOpen (busyWith 1 [] none) (bits (65536 + 6) 15 0) (bit (65536 + 6) 16) true [] = (0, some opened) := by
  decide +kernel
theorem witness_StgData : opened.key = none ∧ opened.lastPiece = false ∧ (List.replicate 16 (1 : Byte)).length % 16 = 0
    ∧ stagedRoom (busyWith 2 [] (some opened)) opened 16 = true ∧ slotKeyOf (busyWith 2 [] (some opened)) 6 0 0 = some (ldKey 2 0) := by
  decide +kernel

/-- A whole version of asset 6: 16 zero bytes, with the digest and fingerprint they have. -/
def whole : Staging :=
  let d : List Byte := List.replicate 16 0
  { opened with data := d, shape := Config.shapeOf 6 [1, 0, 0], digest := shake256 d 32 }

/-- An image entry with that fingerprint. -/
def wholeEntry : AssetE := .mk 6 6 false 0xFFFFFFFF 16 (Config.shapeOf 6 [1, 0, 0]) []

/-- Its image, with that staging open and END reading BUSY. -/
def ending : State :=
  let s := busyWith 3 [] (some whole)
  { s with bond := { s.bond with image := some { img [] with assets := [wholeEntry] } } }

theorem witness_StgEnd_state : ending.assets.stgBusy = some (.mk 3 (65536 + 6) false true []) ∧ assetEntry ending whole.asset = some wholeEntry
    ∧ ending.assets.staging = some whole ∧ hasPages wholeEntry.kind = false ∧ stgBarred ending 0 0 = false := ⟨rfl, rfl, rfl, rfl, rfl⟩
theorem witness_StgEnd_good : stagedGood ending whole wholeEntry = true := by
  have h1 : lengthGood whole wholeEntry.kind = true := by decide +kernel
  have h2 : contentGood ending whole.asset wholeEntry.kind (bodyRd (whole.data.take whole.size)) = true := rfl
  have h3 : vocabRule ending whole.asset wholeEntry.kind (bodyRd (whole.data.take whole.size)) = true := by decide +kernel
  have h5 : shake256 whole.data 32 = whole.digest := by simp only [whole]
  have h6 : shapeGood ending whole.asset wholeEntry.kind (whole.data.take whole.size).length wholeEntry.shape
      (bodyRd (whole.data.take whole.size)) = true := by
    have hc : shapeCover ending whole.asset wholeEntry.kind (whole.data.take whole.size).length (bodyRd (whole.data.take whole.size))
        = [1, 0, 0] := rfl
    have hn : ((boundFuncs ending whole.asset).all fun f =>
        decide ((whole.data.take whole.size).length = 16 * f.segs.length)) = true := rfl
    unfold shapeGood
    rw [hc, hn]
    simp [whole, wholeEntry, opened]
  simp only [stagedGood, h1, Bool.true_and, Bool.and_eq_true, decide_eq_true_eq]
  exact ⟨⟨⟨⟨rfl, h6⟩, h5⟩, h2⟩, h3⟩
theorem witness_StgEnd_bad : stagedGood (busyWith 3 [] (some opened)) { opened with data := List.replicate 17 0 } (.mk 6 6 false 0 16 [] []) = false
    ∧ pagesFree ending 0 [] = true ∧ slotKeyOf (busyWith 4 [] (some opened)) 6 0 0 = some (ldKey 2 0) ∧ min 17 16 = 16 := by decide +kernel

/-- SW registers naming a switch of asset 9 to version 5 at beat `b`. -/
def switching (b : Nat) (sw : List (Nat × Option Switch)) : State :=
  let s := setReg64 (setReg (setReg (holding 9) Reg.SW_ASSET 9) Reg.SW_VERSION 5) Reg.SW_AT (b * 65536)
  { s with assets := { s.assets with switches := sw } }

/-- A pending switch at beat `b`. -/
def pend (b : Nat) : Switch := { asset := 9, version := 5, at_ := b * 65536, awaiting := false }

theorem witness_Switch : (let s := switching 2000000 []
    hostReaches s Reg.SW_CMD = true ∧ s.assets.swBusy = none ∧ isHeld s 1 = false ∧ holdsCommands s = false ∧ journals s = false
      ∧ commitCheck s 9 5 (2000000 * 65536) = 0 ∧ freeSwitch s = some 0 ∧ cancelCheck s 9 (2000000 * 65536) ≠ 0)
    ∧ (let s := switching 2000000 [(63, some (pend 2000000))]
      commitCheck s 9 5 (2000000 * 65536) ≠ 0 ∧ cancelCheck s 9 (2000000 * 65536) = 0 ∧ switchAt s 9 (2000000 * 65536) = some 63) := by decide +kernel
theorem witness_SwitchDue : let s := switching 2000 [(63, some (pend 1))]
    switchOf s 63 = some (pend 1) ∧ isDue s (pend 1).at_ = true ∧ hasCount s = true
      ∧ (∀ p ∈ switchList s, p.2.asset = 9 → (pend 1).at_ ≤ p.2.at_) ∧ switchOf s 62 = none := by decide +kernel

/-- Table asset 3 at version 5: one row of one FP32 element, updates of rule 1, its pages in region 0. -/
def tabled (bs : List Build) : State :=
  let s := setReg (setReg (setReg (holding 3) Reg.TAB_ASSET 3) Reg.TAB_BASE_VER 5) Reg.TAB_NEW_VER 6
  ldWrite { s with assets := { s.assets with builds := bs } } 3 4 (natLE 2 1 ++ natLE 1 0 ++ natLE 1 1 ++ natLE 8 1 ++ List.replicate 14 0 ++ natLE 2 64)

/-- An open build of it. -/
def build6 : Build := { asset := 3, base := 5, ver := 6, slot := 1, dir := [0], copied := [], touched := [], applied := 0 }

/-- A batch of one entry for row 0. -/
def batch1 : List Byte := natLE 4 0x7AB10A01 ++ natLE 4 3 ++ natLE 4 1 ++ List.replicate 20 0 ++ List.replicate 12 0

theorem witness_TabOpen : let s := tabled []
    hostReaches s Reg.TAB_CMD = true ∧ s.assets.tabBusy = none ∧ isHeld s 2 = false ∧ holdsCommands s = false ∧ journals s = false
      ∧ isSealed s = true ∧ kindOf s 3 = some 3 ∧ openCheck s 3 5 6 = 0 ∧ freeSlotOf s 3 = some 1 := by decide +kernel
theorem witness_TabApply :
    let s0 := setReg64 (tabled [build6]) Reg.TAB_UPD_LEN 44
    let s : State := { s0 with staging := memWrite [] 0 batch1 }
    let p := setReg s Reg.TAB_PROGRESS 0
    let t := buildEmb p 3
    stagingRead s 0 44 = batch1 ∧ applyCheck p 3 t = 0 ∧ batchGood 3 t.dim batch1 = true
      ∧ pagesSuffice p (batchRows p 3 t (batchEntries t.dim (batchOf batch1).nent batch1)).1 = true ∧ buildOf s 3 = some build6
      ∧ isSealed s = true ∧ kindOf s 3 = some 3 := by decide +kernel
theorem witness_TabDone : ([(0, 1), (0, 3), (5, 3)].all fun p =>
    let b : BusyCmd := { code := p.1, slot := 0, jseq := none, op := p.2, args := [3, 5, 6] }
    let s : State := { tabled [build6] with assets := { (tabled [build6]).assets with tabBusy := some b } }
    !applyCut s && acknowledged s b.jseq && decide (s.assets.builds.length ≤ 8) && decide (buildOf s (b.args.headD 0) = some build6)) = true := by
  decide +kernel

/-! ## Witnesses: the token store, text, sampling, results -/

theorem witness_TsInit : let s := setReg64 (up []) Reg.TS_SRC_LEN 65280
    hostReaches s Reg.TS_CMD = true ∧ s.assets.tsBusy = none ∧ isHeld s 3 = false ∧ holdsCommands s = false ∧ journals s = false
      ∧ isSealed s = true ∧ reg64 s Reg.TS_SRC_OFFSET + reg64 s Reg.TS_SRC_LEN ≤ bar4Size ∧ reg64 s Reg.TS_SRC_LEN = 65280 := by decide +kernel
theorem witness_TsInit_empty (b g : Nat) : tsBlock (setReg64 (up []) Reg.TS_SRC_LEN 65280) g b = none := by
  have h : ldNat (setReg64 (up []) Reg.TS_SRC_LEN 65280) g (65536 + 8 * b) 8 = 0 := by
    have hm : (setReg64 (up []) Reg.TS_SRC_LEN 65280).lpddr = [] := by rw [Laws.setReg64_lpddr]; rfl
    have hz (a : Nat) : memRead [] a 8 = List.replicate 8 0 := by simp only [memRead, tgetList, tget, memDefault, List.map_const', List.length_range]
    unfold ldNat ldRead
    rw [hm, hz]
    decide
  unfold tsBlock
  rw [h, if_pos (Or.inr (Or.inr (by decide)))]
theorem witness_TsBusy :
    let s : State := { up [] with assets := { AssetSt.reset with tsBusy := some { code := 0, slot := 0, jseq := some 1, op := 1, args := [] } } }
    hostReaches s Reg.TS_CMD = true ∧ s.assets.tsBusy.isSome = true := by decide +kernel

/-- `up` with a request of key 0. -/
def withReq (r : Req) : State := { up [] with front := { FrontSt.reset with reqs := [(0, some r)] } }

theorem witness_Tokenise : let r : Req := { Req.blank with lane := true, strict := true, input := [0xFF] }
    reqOf (withReq r) 0 = some r ∧ r.lane = true ∧ r.tokenised = false ∧ (unitSt (withReq r) 4 0).mode = .available ∧ r.strict = true
      ∧ utf8Good r.input = false := by decide +kernel

/-- `up` with sequence table entry 0. -/
def withSeq (q : SeqEntry) : State := { up [] with serve := { ServeSt.reset with ast := [(0, q)] } }

theorem witness_MaskBuild : let q : SeqEntry := { SeqEntry.reset with mode := .ready, grammar := true }
    (seqOf (withSeq q) 0).mode = .ready ∧ (seqOf (withSeq q) 0).grammar = true ∧ (seqOf (withSeq q) 0).mask = none
      ∧ (seqOf (withSeq q) 0).maskLate = false ∧ (unitSt (withSeq q) 5 0).mode = .available := by decide +kernel
theorem witness_Sample : let q : SeqEntry := { SeqEntry.reset with mode := .ready, listed := true, sampleMode := 0 }
    let al := allowedLogits none [0x3F800000, 0x40000000]
    (seqOf (withSeq q) 0).mode = .ready ∧ (seqOf (withSeq q) 0).listed = true ∧ decodeLost (withSeq q) 0 = false
      ∧ (withSeq q).twin.genStop = false ∧ q.grammar = false ∧ (∀ p ∈ al, isNan32 p.2 = false) ∧ sampleRow q 0 al = some 1 := by decide +kernel
theorem witness_Sample_late : let q : SeqEntry := { SeqEntry.reset with mode := .ready, listed := true, grammar := true, maskLate := true, mask := some [1] }
    q.grammar = true ∧ q.maskLate = true ∧ (seqOf (withSeq q) 0).listed = true ∧ decodeLost (withSeq q) 0 = false := by decide +kernel
theorem witness_Sample_nan : let q : SeqEntry := { SeqEntry.reset with mode := .ready, listed := true, grammar := true, mask := some [1] }
    q.mask ≠ none ∧ q.maskLate = false ∧ q.mask ≠ some [] ∧ (∃ p ∈ allowedLogits (if q.grammar then q.mask else none) [0, 0x7FC00000], isNan32 p.2 = true) := by
  decide +kernel

/-- A sequence entry with one stop token, 7, and room for `n` more tokens. -/
def stopping (n : Nat) : SeqEntry := { SeqEntry.reset with maxNew := n, genText := natLE 4 0 ++ natLE 4 1 ++ natLE 4 7 }

theorem witness_EndReasons : (gtStopToks (stopping 1).genText).idxOf? 7 = some 0 ∧ (7 : Nat) ≠ 2 ∧ 8 ∉ gtStopToks (stopping 1).genText
    ∧ (stopping 0).maxNew ≤ (stopping 0).genCount ∧ (stopping 1).genCount < (stopping 1).maxNew ∧ 1 ≤ (stopping 1).ctxLen + 1
    ∧ (stopping 1).ctxLen + 1 < 2 := by decide +kernel
theorem witness_StopString : (detok [[0x61, 0x62]] false [] [0x61] [0x62]).stop = some (0, 1) := by decide +kernel

theorem witness_Instant : reqOf (up []) 0 = none ∧ (∃ r, reqOf (withReq { Req.blank with resulted := true }) 0 = some r ∧ r.resulted = true ∧ r.shadow = false)
    ∧ (reqOf (withReq Req.blank) 0 = some Req.blank ∧ isDue (withReq Req.blank) Req.blank.instant = true ∧ Req.blank.ended = false
      ∧ Req.blank.resulted = false) ∧ isDue (withReq Req.blank) (2 * 65536) = false := ⟨rfl, ⟨_, rfl, rfl, rfl⟩, by decide +kernel, by decide +kernel⟩

/-- A node of the tree with `n` pins, and its parent. -/
def tree (n : Nat) : State :=
  { setReg64 (setReg (up []) Reg.PT_PIN_MAX 2) Reg.PT_PIN_KEY 9 with
    serve := { ServeSt.reset with
      nodes := [(0, some (.mk 8 none (some 1) none none 0 0 0 n 0 [] true)), (1, some (.mk 9 (some 0) none none none 1 0 0 n 1 [] true))] } }

theorem witness_Pins : (hostReaches (up []) Reg.PT_PIN_CMD = true ∧ nodeByKey (up []) (reg64 (up []) Reg.PT_PIN_KEY) = none)
    ∧ ([0, 1].all fun n => match nodeByKey (tree n) (reg64 (tree n) Reg.PT_PIN_KEY) with
      | some p => decide (p.2.pins = n ∧ ancestry (tree n) 768 p.1 = [1, 0]
        ∧ pinnedNodes (tree n) + ((ancestry (tree n) 768 p.1).filter fun i => decide ((nodeOf (tree n) i).map (·.pins) = some 0)).length = reg (tree n) Reg.PT_PIN_MAX)
      | none => false) = true
    ∧ (let s := setReg (tree 0) Reg.PT_PIN_MAX 1
      reg s Reg.PT_PIN_MAX < pinnedNodes s + ((ancestry s 768 1).filter fun i => decide ((nodeOf s i).map (·.pins) = some 0)).length) := by
  decide +kernel
theorem witness_Cancel : (hostReaches (up []) Reg.SERVE_CANCEL_CMD = true ∧ journals (up []) = false ∧ (∀ c ∈ (up []).serve.cancels, c.origin ≠ none)
      ∧ reqKey (reg (up []) Reg.SERVE_CANCEL_SEQ) false = 0 ∧ reqOf (up []) 0 = none)
    ∧ (reqOf (withReq { Req.blank with shadow := true }) 0).map (·.shadow) = some true
    ∧ (reqOf (withReq Req.blank) 0).map (fun r => (r.shadow, r.ended)) = some (false, false)
    ∧ (reqOf (withReq { Req.blank with ended := true }) 0).map (fun r => (r.shadow, r.ended)) = some (false, true) := by decide +kernel
theorem witness_Window : hostReaches (up []) Reg.SERVE_WIN_INDEX = true := by decide +kernel

/-- `up` with a front-end budget and a request of account 0 at the head of its queue. -/
def queued (r : Req) : State :=
  { up [] with
    energy := { EnergySt.reset with aVar := 65536000 }
    adm := { AdmitSt.reset with queues := [(0, [r])] }
    twin := { TwinSt.reset with mode := .solo }
    time := { (up []).time with ck := 0 } }

/-- A request that may wait for its result. -/
def patient : Req := { Req.blank with deadline := some (100000 * 65536) }

theorem witness_Verdict : (match (verdict (queued patient) patient).1 with
    | .take _ d => !d
    | _ => false) = true ∧ (match (verdict (queued Req.blank) { Req.blank with deadline := some 0 }).1 with
    | .refuse c _ => decide (c = 0x13)
    | _ => false) = true := by decide +kernel
theorem witness_Admit : ((queued patient).time.ck % 16 = 0 ∧ (queued patient).time.ck ≤ 1488 ∧ (queued patient).time.reloadPending = false
      ∧ hasCount (queued patient) = true ∧ isSealed (queued patient) = true ∧ pairAdmits (queued patient) = true ∧ headsInOrder (queued patient) = [patient])
    ∧ headsInOrder (up []) = [] ∧ (1504 % 16 = 0 ∧ 1488 < 1504 ∧ 1489 % 16 ≠ 0) ∧ hasCount (atTime fun t => { t with mode := .unset }) = false
    ∧ isSealed { up [] with bond := BondSt.reset } = false ∧ pairAdmits (up []) = false := by decide +kernel
theorem witness_AdmitOpen : hostReaches (up []) Reg.ADMIT_CTRL = true ∧ isSealed (up []) = true ∧ standby (up []) = false ∧ (up []).twin.declared = []
    ∧ standby { setReg (up []) Reg.TWIN_MODE 2 with twin := { TwinSt.reset with mode := .paired } } = true
    ∧ (∀ a, queueOf (up []) a = []) ∧ twf (fun _ => []) (up []).adm.queues = true :=
  ⟨by decide +kernel, by decide +kernel, by decide +kernel, rfl, by decide +kernel, fun _ => rfl, rfl⟩

/-- `up` with a thermal state. -/
def heated (t : Thermal) : State := { up [] with energy := { EnergySt.reset with thermal := t } }

theorem witness_Drain2 : ((heated .stop).energy.thermal = .stop ∧ draining (heated .stop) = false)
    ∧ draining { heated .stop with front := { FrontSt.reset with reqs := [(0, some Req.blank)] } } = true
    ∧ (heated .drained).energy.thermal = .drained ∧ (up []).energy.thermal ≠ .stop ∧ (up []).twin.declared = [] := by decide +kernel

/-! ## Witnesses: host queues -/

/-- Queue pair 5: bound to function 0, enabled, 64 entries a ring, the host link up, with a pair state. -/
def ringed (p : Pair) : State :=
  let s := setReg (setReg (setReg (up []) (Reg.Q_BIND 5) 0x80000000) (Reg.Q_SIZE 5) 0x606) (Reg.Q_CTRL 5) 1
  { setPair s 5 p with host := { (setPair s 5 p).host with linkUp := true } }

theorem witness_Doorbells : hostReaches (ringed Pair.reset) (Reg.Q_CTRL 5) = true ∧ qEnabled (ringed Pair.reset) 5 = true ∧ sqSize (ringed Pair.reset) 5 = 64
    ∧ cqSize (ringed Pair.reset) 5 = 64 ∧ qEnabled (up []) 5 = false ∧ Pair.reset.replay = none ∧ (∀ c ∈ Pair.reset.window, c.written = true) := by
  decide +kernel
theorem witness_Enable : qBound (ringed Pair.reset) 5 = true ∧ ringsAllowed (ringed Pair.reset) 5 = true ∧ qBound (up []) 5 = false
    ∧ hostReaches (up []) (Reg.Q_CTRL 5) = true := by decide +kernel
theorem witness_Bind : hostReaches (up []) (Reg.Q_BIND 5) = true ∧ qEnabled (up []) 5 = false ∧ bit 0x7FFFFFFF 31 = false := by decide +kernel

/-- A pair whose window holds a record of two entries, DSN 8 and 9. -/
def windowed : Pair :=
  { Pair.reset with dsnNext := 10, window := [.mk 8 (List.replicate 64 0) true none, .mk 9 (List.replicate 6 0 ++ [1] ++ List.replicate 57 0) true none] }

theorem witness_Replay : hostReaches (ringed windowed) (Reg.Q_REPLAY_FROM 5) = true ∧ (pairOf (ringed windowed) 5).replay = none
    ∧ (11 ≠ windowed.dsnNext ∧ ∀ c ∈ windowed.window, c.dsn ≠ 11)
    ∧ (∃ c ∈ (pairOf (ringed windowed) 5).window, c.dsn = recordStart (pairOf (ringed windowed) 5) 9
      ∧ ∃ x ∈ (pairOf (ringed windowed) 5).window, x.dsn = 9)
    ∧ (pairOf (ringed { windowed with replay := some 10 }) 5).replay = some (pairOf (ringed { windowed with replay := some 10 }) 5).dsnNext := by
  decide +kernel
theorem witness_CoalTimer : (pairOf (ringed { Pair.reset with timer := some 1 }) 5).timer = some 1
    ∧ isDue (ringed Pair.reset) (addBeats 1 (bits (reg (ringed Pair.reset) (Reg.Q_COAL 5)) 31 16)) = true
    ∧ isDue (setReg (ringed Pair.reset) (Reg.Q_COAL 5) 0x10000) (addBeats 1 (bits (reg (setReg (ringed Pair.reset) (Reg.Q_COAL 5) 0x10000)
      (Reg.Q_COAL 5)) 31 16)) = false := by decide +kernel

/-- A submission of OPCODE `op` and HSN `h`. -/
def sub (h op : Nat) : List Byte := natLE 4 h ++ natLE 1 op ++ List.replicate 59 0

/-- Pair 5 with one entry to take and HSN `n` next. -/
def readyPair (n : Nat) : State := ringed { Pair.reset with sqTail := 1, hsnNext := n }

theorem witness_Submit : pairReady (readyPair 0) 5 = true ∧ ([0, 1, 2].all fun op => decide (subHsn (sub 0 op) = (pairOf (readyPair 0) 5).hsnNext)
      && decide (subOpcode (sub 0 op) = op) && subOpcodeGood (sub 0 op)) = true
    ∧ rangeAllowed (readyPair 0) (qFn (readyPair 0) 5) (subAddr (sub 0 1)) (subLen (sub 0 1)) = true
    ∧ rangeAllowed (readyPair 0) (qFn (readyPair 0) 5) (subResultAddr (sub 0 1)) (subResultLen (sub 0 1)) = true
    ∧ subOpcodeGood (natLE 4 0 ++ natLE 1 2 ++ natLE 1 4 ++ List.replicate 58 0) = false := by decide +kernel
theorem witness_Submit_order : pairReady (readyPair 5) 5 = true ∧ (subHsn (sub 4 0) ≠ (pairOf (readyPair 5) 5).hsnNext ∧ serialLt 32 4 5 = true)
    ∧ (serialLt 32 6 5 = false ∧ serialLt 32 5 6 = true)
    ∧ (serialLt 32 (5 + 2 ^ 31) 5 = false ∧ serialLt 32 5 (5 + 2 ^ 31) = false) ∧ pairReady (ringed Pair.reset) 5 = false := by decide +kernel

/-! ## Witnesses: mailbox, port resets, sessions -/

/-- `up` with channel `c` in a state. -/
def chanIn (c : Nat) (x : Chan) : State := setChan (up []) c x

theorem witness_Locks : chanReach (up []) 3 1 = true ∧ hostReaches (up []) (Reg.MB_LOCK 3) = true ∧ (up []).twin.silent = false
    ∧ (chanOf (up []) 3).owner = none ∧ (chanOf (chanIn 3 { Chan.reset with owner := some 1 }) 3).owner = some 1
    ∧ chanReach (chanIn 3 { Chan.reset with owner := some 1 }) 3 1 = true := by decide +kernel
theorem witness_LockExpired : let s := chanIn 3 { Chan.reset with owner := some 1, pending := some (4, 65535, 1) }
    let t := atTime fun x => { x with beat := 2 ^ 30 }
    (chanOf s 3).owner = some 1 ∧ (chanOf s 3).started = false
      ∧ isDue t (addBeats (chanOf s 3).since (bits (reg t Reg.MB_LOCK_TIMEOUT) 23 0)) = true := by decide +kernel
theorem witness_MbDoorbell : let s := chanIn 3 { Chan.reset with owner := some 1 }
    hostReaches s (Reg.MB_DOORBELL 3) = true ∧ chanMay s 3 1 = true ∧ s.twin.silent = false ∧ (chanOf s 3).pending = none
      ∧ (let t := chanIn 3 { Chan.reset with owner := some 1, pending := some (4, 1, 1) }
        chanMay t 3 1 = true ∧ (chanOf t 3).pending ≠ none) := by decide +kernel

/-- A channel with an unstarted message of `n` bytes that begins with a command code. -/
def message (n code : Nat) : Chan :=
  { Chan.reset with owner := some 1, pending := some (n, 7, 1), data := natLE 2 code ++ List.replicate 254 0 }

theorem witness_MbAck : let s := chanIn 3 (message 2 0x0999)
    s.sec.report = none ∧ (chanOf s 3).pending = some (2, 7, 1) ∧ (chanOf s 3).started = false ∧ (chanOf s 3).lost = false
      ∧ [0x0111, 0x0201, 0x0202].contains (le ((chanOf s 3).data.take 2) 0 2) = false := by decide +kernel
theorem witness_Reset : qBound (ringed Pair.reset) 5 = true ∧ qFn (ringed Pair.reset) 5 = 0 ∧ qBound (ringed Pair.reset) 6 = false
    ∧ (chanOf (chanIn 31 { Chan.reset with owner := some 1 }) 31).owner = some (0 + 1) := by decide +kernel

theorem witness_Session : ([(16, 2, 0x0101), (16, 256, 0x0102), (3, 2, 0x0201), (3, 256, 0x0202)].all fun p =>
    let s := chanIn p.1 (message p.2.1 p.2.2)
    !s.twin.silent && decide (s.sec.session.mode ≠ .opened) && decide ((chanOf s p.1).pending = some (p.2.1, 7, 1)) && !(chanOf s p.1).started
      && !(chanOf s p.1).lost && decide (le ((chanOf s p.1).data.take p.2.1) 0 2 = p.2.2) && !journals s) = true
    ∧ jobKeyOf (up []) 0 = none := by decide +kernel
theorem witness_JobSlot : freeJobSlot (up []) = some 0 := by decide +kernel
theorem witness_SessionKey : ({ up [] with sec := { SecSt.reset with session := { Session.reset with mode := .handshake } } } : State).sec.session.mode
    = .handshake := rfl

/-- `up` holding the job key of handle 32768 for source `n`. -/
def keyed (n : Nat) : State :=
  { chanIn 3 (message 2 0x0202) with
    sec := { SecSt.reset with jobKeys := [(0, some { handle := 32768, source := n, key := [], seqAt := 0, marks := [] })] } }

theorem witness_JobKeyClose : (jobKeyOf (keyed 0) 32768).map (·.source) = some 0 ∧ (jobKeyOf (keyed 65536) 32768).map (·.source) = some 65536 := by
  decide +kernel
theorem witness_DebugExpiry : let s (t : Nat) : State := { up [] with sec := { SecSt.reset with unlocked := some t } }
    (s 1).sec.unlocked = some 1 ∧ isDue (s 1) 1 = true ∧ isDue (s (2 ^ 40)) (2 ^ 40) = false := by decide +kernel
theorem witness_SessionMessages :
    let s : State := { chanIn 16 { message 20 0 with pending := some (20, 7, 1) } with
      sec := { SecSt.reset with session := { Session.reset with mode := .opened } } }
    s.twin.silent = false ∧ s.sec.session.mode = .opened ∧ (chanOf s 16).pending = some (20, 7, 1) ∧ (chanOf s 16).started = false
      ∧ s.sec.report = none ∧ (chanOf s 16).lost = false := by decide +kernel

/-! ## Witnesses: the pod -/

/-- Port 0 enabled with its link up, peer 0 in a state. -/
def podUp (p : Peer) : State :=
  let s := setReg (up []) (Reg.POD_CTRL 0) 1
  { s with pod := { PodSt.reset with ports := [(0, { Port.reset with linkUp := true })], peers := [(0, p)] } }

/-- A peer of epoch 0 that has received SEQ 0; `ctrl` its PEER_CTRL. -/
def peer (ctrl : Nat) : Peer := { Peer.reset with ctrl := ctrl, rxEpoch := some 0, rxNext := 1 }

/-- A frame of that peer: SEQ 1, one part of `parts`. -/
def frame (type parts : Nat) (body : List Byte) : RxFrame :=
  { bytes := wireFrame (podUp (peer 1)) 0 { peer 1 with rxNext := 0 } (.mk type 1 9 0 parts body 0 false) 0, fcs := true, fill := 0 }

/-- The stages a frame's hypotheses speak of. -/
def staged (s : State) (f : RxFrame) : Bool × Option Nat × Bool :=
  let o := etherAt f.bytes
  let h := f.bytes.drop (o + 2)
  (decide (leNat (slice f.bytes o 2).reverse = bits (reg s (Reg.POD_ETHERTYPE 0)) 15 0),
    matchPeer s 0 (leNat (slice f.bytes 6 6).reverse) (le h 2 2), headerGood h)

theorem witness_Pod_stopped : portRuns (up []) 0 = false := by decide +kernel
theorem witness_Pod_drops : portRuns (podUp (peer 1)) 0 = true
    ∧ (staged (podUp (peer 1)) { frame 1 1 [] with bytes := List.replicate 60 0 }).1 = false
    ∧ staged (podUp { peer 1 with conn := 5 }) (frame 1 1 []) = (true, none, true)
    ∧ staged (podUp (peer 1)) { frame 1 1 [] with bytes := (frame 1 1 []).bytes.set 30 0xFF } = (true, some 0, false) := by decide +kernel
theorem witness_Pod_buffer : let f := { frame 1 1 [] with fill := 4194304 }
    staged (podUp (peer 1)) f = (true, some 0, true) ∧ bit (peerOf (podUp (peer 1)) 0 0).ctrl 26 = false
      ∧ bufferDrops (podUp (peer 1)) 0 (f.bytes.length + 4) f.fill (bits (le (f.bytes.drop (etherAt f.bytes + 2)) 1 1) 5 4) = true := by
  decide +kernel

/-- Whether a frame of type `type` comes through as a whole message of peer 0 for which `p` holds. -/
def comes (s : State) (f : RxFrame) (type : Nat) (p : State → List Byte → Bool) : Bool :=
  match receive s 0 f with
  | .message t i ty _ body => decide (i = 0) && decide (ty = type) && p t body
  | _ => false

theorem witness_Pod_request : comes (podUp (peer 3)) (frame 0x01 1 (List.replicate 64 0)) 0x01 (fun t _ => (peerOf t 0 0).client) = true := by
  decide +kernel
theorem witness_Pod_cancel : comes (podUp (peer 3)) (frame 0x02 1 (sub 0 2)) 0x02 (fun t body => (peerOf t 0 0).client
    && subOpcodeGood (body.take 64) && decide (subOpcode (body.take 64) = 2)) = true := by decide +kernel

/-- The body of a shard message that names request 0 of `sharded`. -/
def shardBody (s : State) : List Byte := natLE 8 0 ++ natLE 8 0 ++ natLE 2 1 ++ natLE 2 0 ++ natLE 8 (mergeBoundary s Req.blank) ++ List.replicate 36 0

/-- `podUp` with a request in flight. -/
def sharded (ctrl : Nat) : State := { podUp (peer ctrl) with front := { FrontSt.reset with reqs := [(0, some Req.blank)] } }

theorem witness_Pod_shards : ([0x10, 0x11, 0x12].all fun ty => comes (sharded 1) (frame ty 1 (shardBody (sharded 1))) ty (fun t body =>
    match shardReq t body with
    | some r => isRoot t r
    | none => false)) = true := by decide +kernel
theorem witness_Pod_unmatched : ([0x10, 0x11, 0x12].all fun ty => comes (podUp (peer 1)) (frame ty 1 (shardBody (sharded 1))) ty
    (fun t body => (shardReq t body).isNone)) = true := by decide +kernel
theorem witness_Pod_coll : comes (podUp (peer 1)) (frame 0x30 1 (natLE 8 0 ++ natLE 8 (1048576 - 2) ++ [1, 2])) 0x30 (fun t body =>
    !(peerOf t 0 0).client && inRegion t (le body 0 2) (le body 8 8) (body.length - 16)) = true := by decide +kernel
theorem witness_Pod_kinds : ((match receive (podUp (peer 1)) 0 (frame 0x01 2 []) with
      | .part _ => true
      | _ => false) && (match receive (podUp { peer 1 with rxEpoch := none }) 0 (frame 0x3E 1 []) with
      | .hello _ i => decide (i = 0)
      | _ => false) && (match receive (podUp (peer 1)) 0 (frame 0x3F 1 []) with
      | .ack _ i => decide (i = 0)
      | _ => false)) = true := by decide +kernel

/-- Table 10.6: the shard runs of a request: `late` ones, ones of another key, known and new shards. -/
theorem witness_TakeRun : Req.blank.first.isSome = false ∧ (∃ d, ({ Req.blank with mergeBy := some 0 } : Req).mergeBy = some d ∧ d < now (up []))
    ∧ ((pinnedIndex (up []) 0).map (·.scoreKey) ≠ some 7 ∧ (pinnedIndex (up []) 0).map (·.scoreKey) = some 0)
    ∧ ownShard (up []) Req.blank = 0
    ∧ ¬(1 = ownShard (up []) Req.blank ∨ ∃ x ∈ Req.blank.remote, x.shard = 1) :=
  ⟨rfl, ⟨0, rfl, by decide +kernel⟩, by decide +kernel, by decide +kernel, by decide +kernel⟩

/-- An outstanding frame. -/
def sent : PodFrame := .mk 1 0 0 0 1 [] 0 true

/-- Port 0 with peer 0, late enough for every timer. -/
def podLate (p : Peer) : State := { podUp p with time := { (podUp p).time with beat := 2 ^ 24 } }

theorem witness_Peers : (let p := { peer 1 with unacked := 16 }
      p.enabled = true ∧ 0 < p.unacked ∧ 16 ≤ p.unacked)
    ∧ isDue (podLate { peer 1 with unacked := 1 }) (addBeats 0 (bits (reg (podLate (peer 1)) (Reg.POD_ACK_DELAY 0)) 7 0)) = true
    ∧ (peer 0).enabled = false ∧ (peer 1).unacked = 0 := by decide +kernel
theorem witness_Peers_rto : let s := podLate { peer 3 with out := [sent] }
    (peerOf s 0 0).out ≠ [] ∧ (peerOf s 0 0).down = false ∧ isDue s (addBeats 0 (bits (reg s (Reg.POD_RTO 0)) 15 0)) = true
      ∧ (peerOf s 0 0).timeouts + 1 < bits (reg s (Reg.POD_RETRY_MAX 0)) 7 0 ∧ bits (reg (setReg s (Reg.POD_RETRY_MAX 0) 1) (Reg.POD_RETRY_MAX 0)) 7 0 ≤ 0 + 1
      ∧ isDue s (addBeats 0 (16 * bits (reg s (Reg.POD_RTO 0)) 15 0)) = true ∧ (peer 3).client = true
      ∧ (sent.token && isDue s (addBeats sent.since (64 * measureN s))) = true := by decide +kernel
theorem witness_Peers_ctrl : hostReaches (podUp (peer 0)) (Reg.PEER_CTRL 0) = true ∧ hostReaches (podUp (peer 1)) (Reg.PEER_CMD 0) = true
    ∧ (peerOf (podUp (peer 0)) 0 0).enabled = false ∧ (peerOf (podUp (peer 1)) 0 0).enabled = true ∧ bit 1 0 = true := by decide +kernel
theorem witness_Ports : hostReaches (up []) (Reg.POD_CTRL 0) = true ∧ (unitSt (up []) 3 0).mode = .available ∧ linksTrain (up []) = true
    ∧ bit (up []).topo.fusePods 0 = true ∧ (portOf (up []) 0).linkUp = false ∧ (unitSt (up []) 3 0).mode ≠ .resetting
    ∧ (portOf (podUp (peer 1)) 0).linkUp = true ∧ hostReaches (up []) (Reg.POL_CTRL 0) = true ∧ hostReaches (up []) (Reg.TC_SHAPE_CTRL 0 7) = true := by
  decide +kernel
theorem witness_GateChange : let g : Port := { Port.reset with busy := some (0, 3), gates := 1 }
    g.busy = some (0, 3) ∧ bit g.gates 0 = true := by decide +kernel

/-- Port 0 with a frame of 60 bytes in class 2, its deficit `d`. -/
def loaded (d : Nat) : State := setClass (podUp (peer 1)) 0 2 { Machine.Class.reset with queue := [List.replicate 60 0], deficit := d }

theorem witness_Transmit : portRuns (loaded 64) 0 = true ∧ (portOf (loaded 64) 0).busy = none ∧ (loaded 64).twin.silent = false
    ∧ classEligible (loaded 64) 0 2 = true ∧ 60 + 4 ≤ (classOf (loaded 64) 0 2).deficit ∧ (portOf (loaded 64) 0).turn = 0
    ∧ classEligible (loaded 0) 0 0 = false ∧ nextEligible (loaded 0) 0 0 = some 2 := by decide +kernel

/-! ## Witnesses: the twin -/

/-- The link up, the pair in a state, the journal stream holding `b`. -/
def twinUp (m : PairMode) (b : List Byte) : State :=
  { up [] with twin := { TwinSt.reset with mode := m, linkUp := true, stream := b } }

/-- A journal entry. -/
def entry (kind : Nat) (body : List Byte) : List Byte := entryBytes kind false 0 body

/-- The entry as it is read. -/
def jentry (kind : Nat) (body : List Byte) : JEntry := { kind := kind, role := false, seq := 0, body := body, raw := entry kind body }

theorem witness_Journal : 0x0D < 256 ∧ headEntry (twinUp .paired []).twin.stream = none
    ∧ ([1, 2, 3, 4, 5, 6, 7, 8, 9, 10, 11, 12, 13].all fun k => decide (headEntry (twinUp .paired (entry k [])).twin.stream = some (jentry k [], []))) = true
    ∧ streamWaits (twinUp .paired []) = false
    ∧ streamWaits { twinUp .resync [] with twin := { (twinUp .resync []).twin with resync := some (Resync.begin_ false) } } = true
    ∧ appliesEntries (twinUp .paired []) = true ∧ appliesEntries (twinUp .solo []) = false ∧ inStateMsg (twinUp .paired []) = false
    ∧ inStateMsg { twinUp .resync [] with twin := { (twinUp .resync []).twin with resync := some { Resync.begin_ false with final := true } } } = true := by
  decide +kernel
theorem witness_Entry_accept : let b (n : Nat) := List.replicate 18 0 ++ natLE 6 n ++ List.replicate 20 0
    bit (le (b 5) 40 1) 2 = false ∧ now (up []) ≤ addBeats 0 (le (b 5) 16 8 / 65536) ∧ addBeats 0 (le (b 0) 16 8 / 65536) < now (up [])
      ∧ (setWith (tick (up [])) (tget (fun _ => []) (up []).twin.vmap (le (b 5) 6 2))).isSome = true := by decide +kernel

/-- Body of a SWITCH entry: asset 9, version 5, beat 2,000. -/
def swEntry (op : Nat) : List Byte := natLE 4 9 ++ natLE 4 5 ++ natLE 8 (2000 * 65536) ++ natLE 4 op

theorem witness_Entry_switch : le (swEntry 2) 16 4 = 2 ∧ le (swEntry 1) 16 4 = 1 ∧ switchAt (holding 9) 9 (2000 * 65536) = none
    ∧ verifiedHere (holding 9) 9 5 = true ∧ freeSwitch (holding 9) = some 0
    ∧ switchAt (switching 2000 [(7, some (pend 2000))]) 9 (2000 * 65536) = some 7
    ∧ switchOf (switching 2000 [(7, some (pend 2000))]) 7 = some (pend 2000) ∧ (pend 2000).awaiting = false := by decide +kernel
theorem witness_Entry_requests : let sh : Req := { Req.blank with shadow := true, ast := some 4 }
    reqOf (up []) (reqKey 0 false) = none ∧ reqOf (withReq sh) (reqKey 0 false) = some sh ∧ sh.shadow = true ∧ sh.ast = some 4
      ∧ Req.blank.cancelled = none ∧ Req.blank.shadow = false ∧ sh.needsEntry = false
      ∧ ({ sh with pack := some (.mk 1 1 0 1 1 0) } : Req).needsEntry = true := by decide +kernel

theorem witness_Firic_down : (up []).twin.linkUp = false := rfl
/-- A frame of a type with one stored bit of its first word inverted, and one with two. -/
def hit (type n : Nat) : FiricWords :=
  match (firic 0 type []).words with
  | w :: ws => { words := Nat.xor w n :: ws }
  | [] => { words := [] }

theorem witness_Firic_bad : (twinUp .paired []).twin.linkUp = true ∧ (firic 1 0x10 []).frame.type = 0x10
    ∧ (firic 1 0x10 []).frame.vc ≠ typeVc 0x10 ∧ (hit 0x10 3).frame.intact = false ∧ (hit 0x10 3).frame.ues ≠ []
    ∧ (hit 0x10 1).frame.intact = true ∧ (hit 0x10 1).frame.corrected = 1 ∧ (firic 0 0x10 []).frame.ues = []
    ∧ ({ words := [] } : FiricWords).frame.intact = false := by decide +kernel

/-- The frame after the first steps of its acceptance: the next of its channel, its payload in clear. -/
def isNext (s : State) (x : FiricWords) : Bool :=
  let f := x.frame
  let s1 := takeHeader (bumpBy s Reg.TWIN_CNT_CORR f.corrected) f
  s.twin.linkUp && f.intact && decide (f.vc = typeVc f.type)
    && decide (f.seq = ((vcOf s1 f.vc).accepted + 1) % 2 ^ 32) && decide (openPayload s f = some f.payload)

theorem witness_Firic_next : ([(0, 0x10), (0, 0x11), (0, 0x12), (1, 0x01), (2, 0x20), (0, 0x21)].all fun p =>
    isNext (twinUp .attested []) (firic p.1 p.2 (List.replicate 32 0))) = true := by decide +kernel
theorem witness_Firic_order : let f := (firicSeq 0 0x10 1 []).frame
    f.intact = true ∧ (openPayload (twinUp .attested []) f).isSome = true
      ∧ f.seq ≠ ((vcOf (takeHeader (bumpBy (twinUp .attested []) Reg.TWIN_CNT_CORR 0) f) 0).accepted + 1) % 2 ^ 32 := by decide +kernel
theorem witness_Firic_idle : (firic 0 0x3F []).frame.type = 0x3F ∧ (firic 0 0x3F []).frame.intact = true
    ∧ (firic 0 0x3F []).frame.vc = typeVc 0x3F := by decide +kernel

/-- A copy in progress at its source or destination. -/
def copying (r : Resync) : State := { twinUp .resync [] with twin := { (twinUp .resync []).twin with resync := some r } }

theorem witness_Firic_ctrl : ([1, 2, 3, 4].all fun op => isNext (copying (Resync.begin_ false)) (firic 0 0x21 (natLE 1 op ++ List.replicate 31 0))
      && decide (le (natLE 1 op ++ List.replicate 31 0) 0 1 = op)) = true
    ∧ (copying (Resync.begin_ false)).twin.resync = some (Resync.begin_ false) ∧ (Resync.begin_ false).source = false
    ∧ (let r : Resync := { Resync.begin_ true with sent := true, agreed := false }
      r.source = true ∧ r.sent = true ∧ r.agreed = false ∧ isNext (copying r) (firic 0 0x21 (natLE 1 6 ++ List.replicate 31 0)) = true
        ∧ isNext (copying r) (firic 0 0x21 (natLE 1 5 ++ List.replicate 31 0)) = true) := by decide +kernel
theorem witness_Ack : let c : Vc := { Vc.reset with queue := [.mk 0x10 5 []], out := [.mk 0x10 4 []], again := 1 }
    (∃ x ∈ c.out ++ c.queue.take c.again, covers 5 x.seq = true) ∧ (∀ x ∈ c.out ++ c.queue.take c.again, covers 3 x.seq = false) := by
  decide +kernel
theorem witness_Heartbeat : (up []).twin.mode ≠ .solo ∧ (up []).time.mode = .locked
    ∧ (let p : List Byte := natLE 8 7 ++ natLE 1 1 ++ List.replicate 15 0
      bits (le p 8 1) 2 0 = 1 ∧ le p 0 8 ≠ lastBoundary (up []))
    ∧ (let t : State := { twinUp .solo [] with twin := { (twinUp .solo []).twin with role := true } }
      t.twin.mode = .solo ∧ t.twin.role = true ∧ bits (le (List.replicate 10 0 ++ natLE 14 5) 10 1) 2 0 = 5) := by decide +kernel
theorem witness_ResyncData : (copying (Resync.begin_ false)).twin.mode ≠ .paired ∧ (Resync.begin_ true).source = true := by decide +kernel

/-- Channel 1 with a frame outstanding since beat 0, `n` timeouts. -/
def outstanding (n : Nat) : State :=
  { twinUp .paired [] with
    twin := { (twinUp .paired []).twin with vcs := [(1, { Vc.reset with out := [.mk 1 0 []], timeouts := n })] }
    time := { (up []).time with beat := 2 ^ 20 } }

theorem witness_FiricRto : (outstanding 0).twin.linkUp = true ∧ firicRtoDue (outstanding 0) 1 = true ∧ (vcOf (outstanding 248) 1).timeouts + 1 < 250
    ∧ 250 ≤ (vcOf (outstanding 249) 1).timeouts + 1 ∧ firicRtoDue (outstanding 0) 0 = false := by decide +kernel
theorem witness_LinkDown : (outstanding 0).twin.resync = none ∧ (copying (Resync.begin_ true)).twin.resync = some (Resync.begin_ true)
    ∧ (copying (Resync.begin_ true)).twin.linkUp = true := by decide +kernel
theorem witness_FiricUp : (up []).topo.fuseTwin = true ∧ (up []).twin.linkUp = false ∧ linksTrain (up []) = true ∧ linksTrain State.reset = false := by
  decide +kernel
theorem witness_Faults : 2 ∉ (up []).twin.declared ∧ hasCount (outstanding 0) = true
    ∧ (let s := atTime fun t => { t with rawBeats := 2000 }
      s.twin.fedAt + 2 * measureN s ≤ s.time.rawBeats) ∧ (up []).time.rawBeats < (up []).twin.fedAt + 2 * measureN (up []) ∧ hostReaches (up []) Reg.TWIN_CTRL = true
    ∧ 4 ∈ ({ TwinSt.reset with declared := [4] } : TwinSt).declared := by decide +kernel
theorem witness_Rejoin :
    let s : State := { twinUp .attested [] with
      bond := { (bondIn .loaded).bond with fromTwin := true }, twin := { (twinUp .attested []).twin with peerState := 5 } }
    hostReaches s Reg.TWIN_CTRL = true ∧ s.twin.mode = .attested ∧ s.bond.mode = .loaded ∧ s.bond.fromTwin = true ∧ s.twin.peerState = 5 := by
  decide +kernel
theorem witness_PassDone : (up []).twin.resync = none ∧ passSent (copying (Resync.begin_ true)) = true ∧ (Resync.begin_ true).sent = false
    ∧ (Resync.begin_ true).final = false ∧ ({ Resync.begin_ true with final := true } : Resync).final = true := by decide +kernel

/-- At a measure boundary with the twin's FAULT accepted, once joined. -/
def failing : State := { twinUp .paired [] with
  twin := { (twinUp .paired []).twin with joined := true, faultSeen := true }, time := { (up []).time with beat := 2000 } }

theorem witness_Declare : declareDue failing = true ∧ declareDue (up []) = false ∧ (failing.twin.joined = true ∧ failing.time.ck = 0)
    ∧ declareDue { failing with twin := { failing.twin with faultSeen := false, missed := 3 } } = true := by decide +kernel
theorem witness_Adopt : let sh : Req := { Req.blank with resulted := true, packed := true, pack := some (.mk 1 1 0 1 1 0), ast := some 4 }
    reqOf (withReq sh) 0 = some sh ∧ sh.ended = false ∧ sh.resulted = true ∧ sh.packed = true
      ∧ reqOf (withReq Req.blank) 0 = some Req.blank ∧ Req.blank.ended = false ∧ Req.blank.resulted = false
      ∧ reqOf (withReq { Req.blank with ended := true }) 0 = some { Req.blank with ended := true } ∧ reqOf (up []) 0 = none := by decide +kernel
theorem witness_Entry_table : let b (op dg : Nat) := natLE 4 op ++ natLE 4 9 ++ natLE 8 0 ++ natLE 8 dg
    (∀ op ∈ [1, 2, 4], le (b op 0) 0 4 ≠ 3) ∧ le (b 3 7) 0 4 = 3 ∧ le (b 3 7) 16 8 = 7
      ∧ freeSlotOf (holding 9) 9 = some 1 ∧ freeSlotOf State.reset 9 = some 0 := by decide +kernel

/-! ## Witnesses: power, bring-up, monitoring -/

/-- The power path in a mode, the module off. -/
def powerIn (m : PowerMode) : State := { State.reset with plinth := { PlinthSt.reset with mode := m } }

theorem witness_Power : (powerIn .off).plinth.mode = .off ∧ (powerIn .lockout).plinth.mode = .lockout ∧ (powerIn .rising).plinth.mode = .rising
    ∧ (powerIn .retry).plinth.mode = .retry ∧ (powerIn .on).plinth.mode = .on ∧ (powerIn .holdup).plinth.mode = .holdup := by decide
theorem witness_InputLoss : let s : State := { up [] with plinth := { PlinthSt.reset with mode := .holdup } }
    s.plinth.mode = .holdup ∧ s.topo.stage ≠ .power ∧ 5 ∉ s.twin.declared ∧ State.reset.topo.stage = .power := by decide +kernel

/-- A telemetry record of SEQ `n`. -/
def record (n : Nat) : List Byte :=
  let b := natLE 4 n ++ List.replicate 56 1
  b ++ natLE 4 (crc32c b)

theorem witness_Record : recordWhole (record 0) = true ∧ recordNext (up []) (record 5) = true
    ∧ recordNext { up [] with plinth := { PlinthSt.reset with seq := some 0xFFFFFFFF } } (record 0) = true
    ∧ recordNext { up [] with plinth := { PlinthSt.reset with seq := some 3 } } (record 3) = false
    ∧ recordWhole ((record 0).set 5 0) = false := by decide +kernel

/-- The fuse map of an OPF-920 (Tables 21.2, 21.3). -/
def fuses : List Byte :=
  let g := natLE 16 (2 ^ 120 - 1)
  let b := g ++ g ++ g ++ g ++ natLE 4 0xFFFFFFFF ++ natLE 2 0x1F ++ natLE 2 0x0920 ++ natLE 2 0x0F09 ++ List.replicate 50 0
  b ++ natLE 4 (crc32c b)

theorem witness_Boot : fusesWhole fuses = true ∧ variantHolds fuses = true ∧ fusesWhole [] = false := by decide +kernel
theorem witness_Boot_variant : let b := List.replicate 124 (0 : Byte) ++ natLE 4 (crc32c (List.replicate 124 0))
    fusesWhole b = true ∧ variantHolds b = false := by decide +kernel
theorem witness_Firmware : let fw (i : Nat) : Bool × Nat × List Byte := (i == 1, 3, [])
    firmwareBad fw 3 0 = some 0x03 ∧ firmwareBad fw 3 (1 - 0) = none ∧ firmwareBad fw 3 1 = none ∧ firmwareBad fw 4 1 = some 0x04
      ∧ firmwareBad fw 4 (1 - 1) ≠ none := by decide +kernel

/-- Bring-up at a stage. -/
def stageIn (b : BringUp) : State := { up [] with topo := { (up []).topo with stage := b } }

theorem witness_Discovery : (stageIn .discovery).topo.stage = .discovery ∧ discoveryFail (stageIn .discovery) allFound = none
    ∧ discoveryFail (stageIn .discovery) { allFound with srams := 7 } = some (0x11, 3) ∧ (up []).topo.stage ≠ .discovery := by decide +kernel
theorem witness_Stages : (stageIn .training).topo.stage = .training ∧ (stageIn .training).topo.retrain = false ∧ (stageIn .memInit).topo.stage = .memInit
    ∧ (stageIn .memInit).time.mode = .locked ∧ (atTime fun t => { t with mode := .unset }).time.mode ≠ .locked
    ∧ (up []).topo.stage ≠ .power ∧ (some (TrainUnit.channel 8)).bind trainingHalt = some (0x20, 8)
    ∧ (none : Option TrainUnit).bind trainingHalt = none ∧ (some TrainUnit.firic).bind trainingHalt = none := by decide +kernel

/-- `up` with unit `i` of class `cls` resetting. -/
def resetting (cls i : Nat) : State := setUnit (up []) cls i { mode := .resetting, epoch := 0xFFFF }

theorem witness_Units : unitPresent (up []) 0 0 = true ∧ (unitSt (up []) 0 0).mode = .available ∧ unitPresent (up []) 0 1 = false
    ∧ unitPresent (up []) 6 0 = false ∧ hostReaches (up []) Reg.TOPO_UNIT_CMD = true ∧ (up []).topo.cmd = none
    ∧ (unitSt { up [] with topo := { (up []).topo with units := [] } } 0 0).mode = .off := by decide +kernel
theorem witness_UnitReturn : ([(0, 0), (1, 0), (2, 0), (3, 0), (4, 0), (5, 0)].all fun p => decide ((unitSt (resetting p.1 p.2) p.1 p.2).mode = .resetting)) = true
    ∧ atBoundaryOf (resetting 0 0) 0 = false ∧ (portOf (podUp (peer 1)) 0).linkUp = true ∧ (unitSt (resetting 1 0) 0 0).mode ≠ .resetting
    ∧ atBoundaryOf { resetting 0 0 with time := { (up []).time with beat := 1000 } } 0 = true := by decide +kernel
/-- A training record. -/
def rec0 : TrainRec := { device := 1, fuseCrc := 0, firmware := 3, partner := [], t16 := 640 }

theorem witness_TrainingRecord : let s : State := { up [] with topo := { (up []).topo with unsaved := [(.channel 8, rec0), (.podPort 2, rec0)] } }
    s.topo.stage = .ready ∧ (s.topo.unsaved.find? fun p => decide (p.1 = .channel 8)) = some (.channel 8, rec0)
      ∧ (s.topo.unsaved.find? fun p => decide (p.1 = .podPort 2)) = some (.podPort 2, rec0) ∧ ∀ p ∈ s.topo.unsaved, p.1 ≠ .firic := by
  decide +kernel

theorem witness_Ecc : (0 < 2 ^ 64 ∧ 71 < 72) ∧ (∀ k, k < 4 → 3 ≠ 2 ^ k) ∧ 15 < 16 ∧ 17 < 18 := by decide

/-- Core 0 with its last slice on. -/
def sliced : State := { up [] with cores := [(0, { Core.reset with slices := [(5, .on)] })] }

theorem witness_Scrub : checkable sliced (.scratchpad 0 (spSize - 8)) = true ∧ checkable sliced (.scratchpad 0 0) = false
    ∧ (match eccRead (Nat.xor (eccStore (spNat sliced 0 (spSize - 8) 8)) (0 % 2 ^ 72)) with
      | .good _ => true
      | _ => false) = true
    ∧ (match eccRead (Nat.xor (eccStore (spNat sliced 0 (spSize - 8) 8)) (1 % 2 ^ 72)) with
      | .corrected _ _ => true
      | _ => false) = true
    ∧ (match eccRead (Nat.xor (eccStore (spNat sliced 0 (spSize - 8) 8)) (3 % 2 ^ 72)) with
      | .bad _ => true
      | _ => false) = true := by decide +kernel
theorem witness_Counters : hostReaches (up []) (Reg.EVT_SEL 95) = true ∧ eventDefined 2 0 = true ∧ eventDefined 255 255 = false
    ∧ hostReaches (up []) Reg.EVT_CTRL = true ∧ regBit (up []) Reg.EVT_CTRL 0 = false
    ∧ regBit (setReg (up []) (Reg.EVT_SEL 95) 0x800200) (Reg.EVT_SEL 95) 23 = true
    ∧ regBit (setReg (up []) (Reg.EVT_OVF_ENABLE 2) (2 ^ 31)) (Reg.EVT_OVF_ENABLE (95 / 32)) (95 % 32) = true := by decide +kernel

/-! ## Worked examples of the spec

The numbers are those of the examples of the manual. -/

/-- spec/02_beat_time.md, example of R23. -/
theorem test_stamp : ckAtOrAfter 0x17BD58000 = (0x17BD5, 750) ∧ stamp 0x17BD5 750 = 0x17BD58000 ∧ ckAtOrAfter 0x17BD58001 = (0x17BD5, 751)
    ∧ stamp 0x17BD5 751 % 65536 = 0x802B ∧ stamp 0x133FF 1499 = 0x133FFFFD4 := by decide

/-- spec/00_scope.md, examples of R7 and R8. -/
theorem test_addBeats : addBeats 0x12C000000 20000 = 0x17A200000 := by decide
theorem test_serial : serialLt 32 0xFFFFFFF0 0x00000010 = true ∧ serialLt 32 0x00000010 0xFFFFFFF0 = false := by decide

/-- spec/03_bond_image.md, example of R61: 1,023.75 beats are LEAD under a lead of 2,000, 2,047.75 are not. -/
def leadAt (at_ : Nat) : Nat :=
  let s := setReg (holding 9) Reg.BOND_SWITCH_LEAD 2000
  commitCheck { s with time := { s.time with beat := 76800, ck := 375 } } 9 5 at_

theorem test_switchLead : leadAt 0x130000000 = 0x05 ∧ leadAt 0x134000000 = 0 := by decide +kernel

/-- spec/04_number_formats.md, example of R77 and R78: 1 + 2^-9 as BF16. -/
theorem test_stochastic : (Fmt.bf16.encode false (.keyed 0xC0000000) (.fin false 513 512)).1 = 0x3F81
    ∧ (Fmt.bf16.encode false (.keyed 0xBFFFFFFF) (.fin false 513 512)).1 = 0x3F80 := by decide +kernel

/-- spec/04_number_formats.md, example of R79: 5.0, -0.25, 7.5, 0.75 and 28 zeros as MXFP4. -/
def mxfp4 : Nat × List Nat × ArithEv :=
  encodeBlock .e2m1 false 32 (([Val.fin false 5 1, .fin true 1 4, .fin false 15 2, .fin false 3 4] ++ List.replicate 28 Val.zero).map fun v => (v, .nearest))

theorem test_mxfp4 : mxfp4.1 = 0x7F ∧ mxfp4.2.1.take 4 = [0x6, 0x8, 0x7, 0x2] ∧ mxfp4.2.2.sat = 1 := by decide +kernel

/-- spec/05_matrix_cores.md, example of R97: the fields of an MMA word. -/
def mmaWord : Nat := 0x1014C07FFFF080010800000000000000

theorem test_mmaFields : opcode mmaWord = 0x10 ∧ afmt mmaWord = .e4m3 ∧ wfmt mmaWord = .e2m3 ∧ kiOf mmaWord = 8 ∧ bit mmaWord 110 = true
    ∧ bit mmaWord 109 = false ∧ bits mmaWord 103 100 = 7 ∧ bits mmaWord 99 84 = 0xFFFF ∧ bit mmaWord 64 = true
    ∧ aAddr Core.reset mmaWord = 0x4000 ∧ sAddr Core.reset mmaWord = 0x10000 ∧ accOf Core.reset mmaWord = 0 := by decide +kernel

/-- spec/10_selection.md, examples of R189 and R200: the key of a value, and a merge of three runs. -/
theorem test_valueKey : valueKey 0x40200000 = 0x40200000 ∧ valueKey 0xBF800000 = -0x3F800000 := by decide +kernel

/-- The runs A, B and C. -/
def mergeRunsOf : List Run :=
  let e (s i p : Nat) : SelEntry := { score := s, id := i, pos := p }
  [{ Run.empty with entries := [e 0x1960 0x0A10 0x0002000003E80007, e 0x1800 0x0B20 0x00050000000C0007] },
    { Run.empty with entries := [e 0x1960 0x0C30 0x0001000000280007, e 0x1800 0x0A10 0x0007000000030007, e 0x1700 0x0D40 0x0007000000090007] },
    { Run.empty with entries := [e 0x1800 0x0E50 0x0003000000C80007, e 0x1800 0x0F60 0x0009000000010007] }]

theorem test_merge4 : (mergeRuns 4 mergeRunsOf).1.entries.map (·.id) = [0x0C30, 0x0A10, 0x0E50, 0x0B20]
    ∧ (mergeRuns 4 mergeRunsOf).1.tailTies = 1 ∧ (mergeRuns 4 mergeRunsOf).1.dup = 1 := by decide +kernel
theorem test_merge8 : (mergeRuns 8 mergeRunsOf).1.entries.map (·.id) = [0x0C30, 0x0A10, 0x0E50, 0x0B20, 0x0F60, 0x0D40]
    ∧ (mergeRuns 8 mergeRunsOf).1.tailTies = 0 := by decide +kernel

/-- spec/12_text_grammar.md, example of R241: the stop string END over four tokens. -/
def endStop (pending held bytes : List Byte) : Detok := detok [[0x45, 0x4E, 0x44]] false pending held bytes

theorem test_stop : (endStop [] [] [0x31, 0x32, 0xC2]).released = [0x31, 0x32] ∧ (endStop [] [] [0x31, 0x32, 0xC2]).pending = [0xC2]
    ∧ (endStop [0xC2] [] [0xB0, 0x20, 0x45]).released = [0xC2, 0xB0, 0x20] ∧ (endStop [0xC2] [] [0xB0, 0x20, 0x45]).held = [0x45]
    ∧ (endStop [] [0x45] [0x4E]).released = [] ∧ (endStop [] [0x45] [0x4E]).held = [0x45, 0x4E]
    ∧ (endStop [] [0x45, 0x4E] [0x44, 0x0A, 0x78]).released = [] ∧ (endStop [] [0x45, 0x4E] [0x44, 0x0A, 0x78]).stop = some (0, 1) := by
  decide +kernel

/-- spec/15_admission_energy.md, example of R310: 1,800 W at 97 °C. -/
def governed : State :=
  let s := setReg (setReg (up []) Reg.ENERGY_CEILING 0x0708) Reg.ENERGY_TMAX 1552
  { s with energy := { EnergySt.reset with fBar := 671089 } }

theorem test_allowance : headroomOf governed = 1216347 ∧ marginOf governed = 243265 ∧ (allowance governed).energy.aVar = 973082 := by decide +kernel

/-- spec/16_host_interface.md, example of the resubmission order: 0xFFFF_FFFB and 0xFFFF_FFFC precede HSN_NEXT 0xFFFF_FFFD; 0 follows 0xFFFF_FFFF. -/
theorem test_hsn : serialLt 32 0xFFFFFFFB 0xFFFFFFFD = true ∧ serialLt 32 0xFFFFFFFC 0xFFFFFFFD = true ∧ serialLt 32 0xFFFFFFFF 0 = true := by decide

/-- spec/17_pod_ports.md, example of R366: the ck of frames of 8,242 and 4,122 bytes with their FCS. -/
theorem test_frameCk : frameCk (8242 - 4) = 124 ∧ frameCk (4122 - 4) = 63 := by decide

/-- spec/20_power_supply.md, example of R424: 399.65 V and 6.0 A. -/
theorem test_calibrated : calibrated 0x10 0x7D00 (-64) 160 0xCCD0 = 102311 ∧ calibrated 0x8 0x3000 0 160 0x8008 = 24576 := by decide

/-- spec/22_monitoring.md, example of R452. -/
theorem test_ecc : eccStore 3 = 0x0C0000000000000003 ∧ eccRead (Nat.xor (eccStore 3) 4) = .corrected 3 0x45
    ∧ eccRead (Nat.xor (eccStore 3) 14) = .bad 0xE5 ∧ eccRead (Nat.xor (eccStore 3) (1 + 2 ^ 66)) = .bad 0x05 := by decide +kernel

/-- Well-formed UTF-8: a whole character, a truncated one, an encoded surrogate. -/
theorem test_utf8 : utf8Good [0xC2, 0xB0] = true ∧ utf8Good [0xC2] = false ∧ utf8Good [0xED, 0xA0, 0x80] = false := by decide +kernel

theorem witness_MxInt8 : (Val.fin true 2 1 = .fin true 2 1 ∧ 0 < 1 ∧ 2 * 1 ≤ 2) ∧ (encodeBlock .int8 false 1 [(.fin true 4 1, .nearest)]).2.1 ≠ [] := by
  decide +kernel

/-! ## Single commands -/

/-- R431, Table 20.2: after INPUT_VALID the rails rise; at RAIL_PGOOD_FAIL they are retried once, then locked out. -/
theorem test_power : (match exec .inputValid State.reset with
    | .next t => decide (t.plinth.mode = .rising)
    | _ => false) = true ∧ (match exec .railPgoodFail { powerIn .rising with plinth := { PlinthSt.reset with mode := .rising, failed := true } } with
    | .next t => decide (t.plinth.mode = .lockout)
    | _ => false) = true := by decide +kernel

/-- R94: a LOOP word enters its loop; the body's first word follows. -/
theorem test_loop : (match exec (.loop 0) (up [BitVec.ofNat 128 (word 0x01 (2 ^ 108 + 3 * 2 ^ 88))]) with
    | .next t => decide ((core0 t).pc = 0)
    | _ => false) = true ∧ (match exec (.loop 0) (running (word 0x01 (2 ^ 108 + 3 * 2 ^ 88))) with
    | .next t => decide ((core0 t).pc = 1) && decide ((core0 t).loops.map (·.count) = [3])
    | _ => false) = true := by decide +kernel

/-- R457: an access to no register is logged in slot 0, and the head moves on. -/
theorem test_unmapped : (match exec (.unmappedAccess ⟨.bar0, 0⟩ 0x1000 4 true) (up []) with
    | .next t => decide (reg t Reg.ERR_LOG_HEAD = 1)
    | _ => false) = true := by decide +kernel

/-! ## Witnesses of further clauses -/

theorem witness_Refused_page : doorbellPair (up []) 1 0 = none := by decide +kernel
theorem witness_Slew : (atTime fun t => { t with mode := .slewing, slewLeft := 100 }).time.mode = .slewing
    ∧ (atTime fun t => { t with mode := .slewing, slewLeft := 100 }).time.slewLeft ≠ 0
    ∧ (atTime fun t => { t with mode := .slewing }).time.slewLeft = 0 := by decide +kernel

theorem witness_Yield_sets : (runs 0x03 0 (fun k => { k with segments := [seg], vset := 1 }) (fun s _ => seg.vset == (core0 s).vset)
    && runs 0x03 0 (fun k => { k with segments := [seg] }) (fun s _ => seg.vset != (core0 s).vset)) = true := by decide +kernel

/-- An EPI_BIND in force with `e` sets ended and `d` drained. -/
def binding (e d : Nat) : EpiSt :=
  { chain := 0, run := 0, mblocks := 0, strips := 0, outAddr := 0, outScale := 0, pitch := 0, place := [], ended := e, drained := d, holder := 0 }

theorem witness_Chains_earlier : (runs 0x20 0 (fun k => { k with epis := [binding 2 1] }) (fun s w => epiHold s 0 (core0 s) w == none
      && inScratchpad (epiAccess s 0 w) && curEpi (core0 s) == some (binding 2 1))
    && runs 0x20 0 (fun k => { k with epis := [binding 2 2] }) (fun s w => epiHold s 0 (core0 s) w == none)) = true
    ∧ (binding 2 1).drained ≠ (binding 2 1).ended := by decide +kernel
theorem witness_Delivery_free : sliceClearing (core0 (up [])) [⟨edge.addr, edge.data.length, true⟩] = false := by decide +kernel
theorem witness_Slice_alone : (core0 (runningWith 0 fun k => { k with slices := [(5, .clearing)] })).fills = [] := by decide +kernel

theorem witness_Sel_waits : (runs 0x60 0 (fun k => { k with board := [.mk 0 65536 true 0] })
      (fun s w => (rangeHold (core0 s) (topkReach (core0 s) w)).isSome)
    && runs 0x61 0 id (fun s w => !selMergeReady s 0 w)) = true
    ∧ wordOf (up []) 0 0x60 = none ∧ wordOf (up []) 0 0x61 = none := by decide +kernel
theorem witness_Run_stale : let f : RunFlight := ⟨0, 63, false, run1, 0, 0⟩
    staleRun { flying with steps := [(0, { StepSt.reset with at_ := 1 })] } 0 f = false
      ∧ staleRun { flying with steps := [(0, { StepSt.reset with at_ := 2 })] } 0 f = true := by decide +kernel

/-- `tabled` under an image with a TABLE section. -/
def tabledIn : State :=
  let s := setReg64 (tabled [build6]) Reg.TAB_UPD_LEN 44
  { s with
    staging := memWrite [] 0 batch1
    bond := { s.bond with image := some { img [] with sections := [{ sec0 with kind := 9 }] } } }

theorem witness_TabApply_section : (let p := setReg tabledIn Reg.TAB_PROGRESS 0
    let t := buildEmb p 3
    (tableSection tabledIn).isSome = true ∧ stagingRead tabledIn 0 44 = batch1 ∧ applyCheck p 3 t = 0 ∧ batchGood 3 t.dim batch1 = true
      ∧ pagesSuffice p (batchRows p 3 t (batchEntries t.dim (batchOf batch1).nent batch1)).1 = true)
    ∧ tableSection (tabled [build6]) = none := by decide +kernel

/-- A table command that reads BUSY, with a batch of its own under way. -/
def applying (jseq : Option Nat) (bs : List BatchRun) : State :=
  { tabled [build6] with
    assets := { (tabled [build6]).assets with
      tabBusy := some { code := 0, slot := 0, jseq := jseq, op := 2, args := [3, 5, 6] }, batches := bs } }

theorem witness_TabDone_waits : (let s := applying none [{ asset := 3, bytes := batch1, left := 1, listed := 0, pages := [], own := true }]
      applyCut s = false ∧ applyRuns s = true)
    ∧ (let s : State := { applying (some 0) [] with twin := { TwinSt.reset with mode := .paired } }
      applyCut s = false ∧ acknowledged s (some 0) = false)
    ∧ applyRuns (applying none []) = false ∧ acknowledged (applying none []) none = true ∧ isSealed (applying none []) = true := by
  decide +kernel

theorem witness_Sample_empty : let q : SeqEntry := { SeqEntry.reset with mode := .ready, listed := true, grammar := true, mask := some [] }
    q.grammar = true ∧ q.mask = some [] ∧ q.maskLate = false ∧ (seqOf (withSeq q) 0).listed = true ∧ decodeLost (withSeq q) 0 = false
      ∧ (withSeq q).twin.genStop = false := by decide +kernel
theorem witness_EndPending : (seqOf (withSeq { SeqEntry.reset with mode := .ready }) 0).ending = none
    ∧ (seqOf (withSeq { SeqEntry.reset with mode := .ready, ending := some 8 }) 0).ending = some 8
    ∧ (seqOf (withSeq { SeqEntry.reset with ending := some 8 }) 0).mode ≠ .ready := by decide +kernel
theorem witness_Admit_once : (queued patient).adm.decided ≠ some (now (queued patient))
    ∧ (let s : State := { queued patient with adm := { (queued patient).adm with decided := some (now (queued patient)) } }
      s.adm.decided = some (now s))
    ∧ headsInOrder (dueSwitches (queued patient)) = [patient]
    ∧ (match (verdict (dueSwitches (queued patient)) patient).1 with
      | .take _ d => !d
      | _ => false) = true
    ∧ (let s := queued { Req.blank with deadline := some 0 }
      headsInOrder (dueSwitches s) = [{ Req.blank with deadline := some 0 }]
        ∧ (match (verdict (dueSwitches s) { Req.blank with deadline := some 0 }).1 with
          | .refuse c _ => decide (c = 0x13)
          | _ => false) = true) := by decide +kernel

/-- `up` where admission decides, with no request queued. -/
def deciding : State := { up [] with twin := { TwinSt.reset with mode := .solo }, time := { (up []).time with ck := 0 } }

theorem witness_Admit_none : deciding.time.ck % 16 = 0 ∧ deciding.time.ck ≤ 1488 ∧ deciding.time.reloadPending = false ∧ hasCount deciding = true
    ∧ isSealed deciding = true ∧ pairAdmits deciding = true ∧ deciding.adm.decided ≠ some (now deciding)
    ∧ (∀ p ∈ deciding.adm.queues, p.2 = []) ∧ headsInOrder (dueSwitches deciding) = [] := by decide +kernel
theorem witness_Drain_done : ((heated .stop).energy.thermal = .stop ∧ (heated .stop).energy.thermal ≠ .drained ∧ draining (heated .stop) = false)
    ∧ (let s : State := { up [] with twin := { TwinSt.reset with declared := [4] } }
      s.twin.declared ≠ [] ∧ s.energy.thermal ≠ .drained ∧ draining s = false) := by decide +kernel

theorem witness_Pages : doorbellPair (up []) 0 255 = some 255
    ∧ (let s := setReg (up []) (Reg.Q_BIND 7) (0x80000000 + 3 * 65536)
      doorbellPair s 3 0 = some 7 ∧ qBound s 7 = true ∧ qFn s 7 = 3 ∧ doorbellPair s 3 1 = none) := by decide +kernel

/-- Pair 5 disabled and bound to function 1, whose windows are enforced and empty, with rings of 64. -/
def outside : State := setReg64 (setReg (setReg (up []) (Reg.Q_BIND 5) 0x80010000) (Reg.Q_SIZE 5) 0x606) Reg.SEC_WIN_CTRL 2

theorem witness_Enable_refused : (qEnabled (up []) 5 = false ∧ qBound (up []) 5 = false)
    ∧ qEnabled outside 5 = false ∧ qBound outside 5 = true ∧ ringsAllowed outside 5 = false := by decide +kernel
theorem witness_Replay_ends : (10 = windowed.dsnNext ∧ ∀ c ∈ windowed.window, c.dsn ≠ 10)
    ∧ (let s := ringed { windowed with replay := some 9, replayEnd := 9 }
      (pairOf s 5).replay = some (pairOf s 5).replayEnd) := by decide +kernel

/-- Pair 5 with its timer started at beat 1 and a time field of `t`. -/
def timed (t beat : Nat) : State :=
  let s := setReg (ringed { Pair.reset with timer := some (stamp 1 0) }) (Reg.Q_COAL 5) (t * 65536)
  { s with time := { s.time with beat := beat } }

theorem witness_CoalTimer_due : (bits (reg (timed 2 3) (Reg.Q_COAL 5)) 31 16 ≠ 0
      ∧ isDue (timed 2 3) (addBeats (stamp 1 0) (bits (reg (timed 2 3) (Reg.Q_COAL 5)) 31 16)) = true)
    ∧ isDue (timed 2 2) (addBeats (stamp 1 0) (bits (reg (timed 2 2) (Reg.Q_COAL 5)) 31 16)) = false
    ∧ bits (reg (timed 0 3) (Reg.Q_COAL 5)) 31 16 = 0 ∧ (pairOf (timed 0 3) 5).timer = some (stamp 1 0) := by decide +kernel

theorem witness_MbDoorbell_session :
    let s (p : Option (Nat × Nat × Nat)) : State := { chanIn 23 { Chan.reset with owner := some 1, pending := p } with
      sec := { SecSt.reset with session := { Session.reset with mode := .opened } } }
    hostReaches (s none) (Reg.MB_DOORBELL 23) = true ∧ chanMay (s none) 23 1 = true ∧ (s none).sec.session.mode = .opened
      ∧ (chanOf (s none) 23).pending = none ∧ chanMay (s (some (20, 1, 1))) 23 1 = true
      ∧ (chanOf (s (some (20, 1, 1))) 23).pending ≠ none := by decide +kernel

/-- Channel 3 with a message rung at beat 1 that the Keystone has not started, at beat `b`. -/
def unstarted (b : Nat) : State :=
  let s := chanIn 3 { message 2 0x0999 with rung := stamp 1 0 }
  { s with time := { s.time with beat := b } }

theorem witness_MbAck_busy : (unstarted 1001).sec.report = none ∧ (chanOf (unstarted 1001) 3).pending = some (2, 7, 1)
    ∧ (chanOf (unstarted 1001) 3).started = false ∧ (chanOf (unstarted 1001) 3).lost = false ∧ (unstarted 1001).twin.silent = false
    ∧ isDue (unstarted 1001) (addBeats (chanOf (unstarted 1001) 3).rung (measureN (unstarted 1001))) = true
    ∧ isDue (unstarted 1000) (addBeats (chanOf (unstarted 1000) 3).rung (measureN (unstarted 1000))) = false
    ∧ nextChannel (unstarted 1001) = some 3 := by decide +kernel
theorem witness_Session_next : ([(16, 2, 0x0101), (16, 256, 0x0102), (3, 2, 0x0201), (3, 256, 0x0202)].all fun p =>
    decide (nextChannel (chanIn p.1 (message p.2.1 p.2.2)) = some p.1)) = true
    ∧ nextChannel (keyed 0) = some 3
    ∧ (let s : State := { chanIn 16 { message 20 0 with pending := some (20, 7, 1) } with
        sec := { SecSt.reset with session := { Session.reset with mode := .opened } } }
      nextChannel s = some 16) := by decide +kernel
theorem witness_Entry_crossed :
    let s (role : Bool) : State := { switching 2000 [(7, some (pend 2000))] with twin := { TwinSt.reset with role := role } }
    (s false).twin.role = false ∧ (s true).twin.role = true ∧ switchAt (s true) 9 (2000 * 65536) = some 7
      ∧ switchOf (s true) 7 = some (pend 2000) ∧ verifiedHere (s true) 9 5 = true := by decide +kernel
theorem witness_Record_total : (up []).plinth.seenTotal ≤ le (List.replicate 40 (0 : Byte)) 12 8 := by decide +kernel

/-! ## Witnesses: further clauses of the statements, in their order -/

/-- Channel 31 with a status bit up under its enable, beside `bondUp`'s level, which is remembered. -/
def channelUp : State :=
  let s : State := { bondUp with err := { bondUp.err with levels := [1] } }
  setReg (setReg s (Reg.MB_INT_STATUS 31) 1) (Reg.MB_INT_ENABLE 31) 1

theorem witness_RisenLevels_channel : (512 + 31 ∈ levelsUp channelUp ∧ 512 + 31 ∉ channelUp.err.levels ∧ channelUp.twin.silent = false)
    ∧ (1 ∈ levelsUp channelUp ∧ 1 ∈ channelUp.err.levels) ∧ 0 ∉ levelsUp channelUp := by decide +kernel
theorem witness_RisenLevels_silent : (let s : State := { bondUp with twin := { TwinSt.reset with silent := true } }
    s.twin.silent = true ∧ 1 ∈ levelsUp s ∧ 1 ∉ s.err.levels) := by decide +kernel
theorem witness_StepKeepsMemories : MemoriesCanonical State.reset ∧ (match Machine.step { State.reset with pending := [.inputValid] } with
    | .next t => decide (t.plinth.mode = .rising)
    | _ => false) = true := by decide +kernel
theorem witness_StagingWindow_up : (up []).host.linkUp = true ∧ State.reset.host.linkUp = false := by decide +kernel

theorem witness_Force_fault : (let s := atTime fun t => { t with mode := .fault }
    hostReaches s Reg.BEAT_CTRL = true ∧ beatPresent s.time = true ∧ s.time.mode = .fault ∧ s.time.synth = false)
    ∧ (let s := atTime fun t => { t with mode := .unset }
      hostReaches s Reg.BEAT_CTRL = true ∧ beatPresent s.time = true ∧ s.time.mode = .unset) := by decide +kernel

/-- A RELOAD pending in FAULT, with a marker of raw beat 1,005 and a first frame 1,000 beats before. -/
def reloading : State := atTime fun t => { t with
  mode := .fault, reloadPending := true, marker := some (1005, 7), rawBeats := 1005, firstFrame := some (1000, 5) }

theorem witness_Timecode_reload : frameValid reloading (frameOf 2000) = true ∧ reloading.time.mode = .fault ∧ beatPresent reloading.time = true
    ∧ reloading.time.reloadPending = true ∧ reloading.time.marker = some (1005, 7) ∧ reloading.time.firstFrame = some (1000, 5)
    ∧ pairHolds 1000 5 (le (frameOf 2000) 2 6) 1005 = true
    ∧ le (frameOf 2000) 2 6 + (reloading.time.rawBeats - 1005) < 0xFF0000000000 := by decide +kernel

/-- HOLDOVER with BEAT back, whose exit comes with the first frame from raw beat `r` on; the marker is of raw beat 5 at local time `m`. -/
def leaving (r m : Nat) : State :=
  let s := atTime fun t => { t with mode := .holdover, marker := some (5, m), rawBeats := 5, beat := 1000, exitFrom := some r }
  setReg s Reg.BEAT_SLEW_MAX 1

theorem witness_Timecode_quiet : (frameValid { marked with time := { marked.time with mode := .fault } } (frameOf 1000) = true)
    ∧ (let s := leaving 6 0
      frameValid s (frameOf 1000) = true ∧ s.time.mode = .holdover ∧ s.time.exitFrom = some 6 ∧ 5 < 6 ∧ s.time.reloadPending = false) := by decide +kernel
theorem witness_Timecode_exit : (let s := leaving 5 (1000 * 65536)
    frameValid s (frameOf 1000) = true ∧ s.time.mode = .holdover ∧ s.time.reloadPending = false ∧ s.time.marker = some (5, 1000 * 65536)
      ∧ s.time.exitFrom = some 5 ∧ beatPresent s.time = true ∧ s.topo.stage ≠ .timeWait
      ∧ ((le (frameOf 1000) 2 6 * 65536 : Nat) : Int) - ((1000 * 65536 : Nat) : Int) = 0)
    ∧ ([1001 * 65536, 1000 * 65536 - 1].all fun m : Nat =>
      let o : Int := ((le (frameOf 1000) 2 6 * 65536 : Nat) : Int) - (m : Int)
      let s := leaving 5 m
      frameValid s (frameOf 1000) && decide (o ≠ 0 ∧ o.natAbs ≤ reg s Reg.BEAT_SLEW_MAX * 65536 ∧ -(2 ^ 31) ≤ o ∧ o < 2 ^ 31)) = true
    ∧ (let o : Int := ((le (frameOf 1000) 2 6 * 65536 : Nat) : Int) - ((1001 * 65536 + 1 : Nat) : Int)
      frameValid (leaving 5 (1001 * 65536 + 1)) (frameOf 1000) = true
        ∧ reg (leaving 5 (1001 * 65536 + 1)) Reg.BEAT_SLEW_MAX * 65536 < o.natAbs) := by decide +kernel
theorem witness_Slewing_quiet : (let s := { marked with time := { marked.time with mode := .slewing } }
    frameValid s (frameOf 1000) = true ∧ s.time.mode = .slewing ∧ s.time.marker = some (5, 1000 * 65536) ∧ s.time.reloadPending = false) := by
  decide +kernel

/-! ### Sequencer words, transfers, runs -/

theorem witness_Yield_preempted :
    let k : Core := { Core.reset with idle := false, current := some seg, segments := [{ seg with items := [1] }] }
    let s : State := { up [BitVec.ofNat 128 (word 0x03 (5 * 2 ^ 102)), 0] with cores := [(0, k)] }
    preempted s 0 (core0 s) = [0] ∧ (core0 s).segments ≠ [] ∧ (∀ h ∈ (core0 s).segments, 0 ∉ h.items) := by decide +kernel
theorem witness_Overrun_cut :
    let s : State := { runningWith (word 0 0) (fun k => { k with current := some seg }) with steps := [(0, { StepSt.reset with at_ := 1 })] }
    let x : Section := { sec0 with kind := 8 }
    lateCores s x = [0] ∧ atMerge s 0 = false ∧ cutItems s x = [0] := by decide +kernel

/-- Core 0 before a GET of 16 bytes whose segment holds a poisoned word. -/
def poisoned : State := { running (word 0x50 0) with poison := [8] }

theorem witness_Dma_poisoned : (match wordOf poisoned 0 0x50 with
    | some w =>
      let f := dmaFields w
      rangeHold (core0 poisoned) (getReach (core0 poisoned) w) == none && inScratchpad (getReach (core0 poisoned) w)
        && inRegion poisoned f.region (f.at_ (core0 poisoned)) f.len && readsPoison poisoned f.region (f.at_ (core0 poisoned)) f.len
    | none => false) = true := by decide +kernel

/-- A state whose memory device 0 resets. -/
def setDown (s : State) : State := setUnit s 2 0 (.mk .resetting 0 none)

/-- `running` whose one memory device resets. -/
def deviceGone (op : Nat) : State := setDown (running (word op 0))

theorem witness_Dma_unserved : ([0x50, 0x51].all fun op => match wordOf (deviceGone op) 0 op with
    | some w => decide (refusedAccesses (deviceGone op) 0 (dmaFields w).region 0 (dmaFields w).len ≠ 0)
    | none => false) = true := by decide +kernel
theorem witness_Delivery_stale :
    let d : Delivery := { edge with groupEpoch := 1 }
    let s : State := { up [] with deliveries := [d] }
    s.deliveries.find? (fun x => decide (x.core = 0)) = some d ∧ d.stale s = true := by decide +kernel
theorem witness_RunDelivery_epochs :
    let f : RunFlight := ⟨0, 63, false, run1, 0, 0⟩
    let old : State := { flying with sel := { SelSt.reset with flight := [{ f with target := 1 }] } }
    let late : State := { flying with steps := [(0, { StepSt.reset with at_ := 2 })] }
    let above : State := { flying with sel := { SelSt.reset with flight := [{ f with parent := true }] } }
    (f.target = (unitSt flying 1 0).epoch ∧ staleRun flying 0 f = false)
      ∧ ({ f with target := 1 } : RunFlight).target ≠ (unitSt old 1 0).epoch
      ∧ staleRun late 0 f = true
      ∧ (above.sel.flight.find? fun f => decide (f.parent = true) && (true || decide (f.core / 64 = 0))) = some { f with parent := true }
      ∧ learned above 0 1 0 = (unitSt above 1 0).epoch := by decide +kernel
theorem witness_SfuncFill_served : fillServed (holding 6) 0 6 5 = true ∧ fillServed (setDown (holding 6)) 0 6 5 = false := by
  decide +kernel
theorem witness_ScanUnit_served : (match reqOf scanning 0 with
    | some r => (match pinnedIndex scanning r.vset with
      | some x =>
        let page := (listEntry scanning x (r.probe.getD 0 (0, 0)).1).1
        !notServed scanning (r.team.getD 0 0) x.store (2048 * page) 2048
          && notServed (setDown scanning) (r.team.getD 0 0) x.store (2048 * page) 2048
      | none => false)
    | none => false) = true := by decide +kernel

/-! ### Images, tables, text, admission -/

theorem witness_Load_stage : (let s (g : BringUp) : State := { bondIn .checking with topo := { (bondIn .checking).topo with stage := g } }
    (s .halted).bond.mode = .checking ∧ (s .halted).topo.stage ≠ .ready ∧ (s .timeWait).topo.stage ≠ .ready
      ∧ hostReaches (s .timeWait) Reg.BOND_CTRL = true) ∧ (bondIn .checking).topo.stage = .ready := by decide +kernel
theorem witness_Unload_edge : (unitSt (setUnit (up []) 0 0 (.mk .available 7 (some (edgeNow (up []))))) 0 0).at_ = some (edgeNow (up []))
    ∧ 0 ∈ unitsOf (up []) 0 ∧ 0 ∈ unitsOf (up []) 1 := by decide +kernel

/-- A DECODE section whose one entry's grammar is asset 9 and whose vocabulary is asset 1, with the words `bad` poisoned. -/
def decoding (bad : List Nat) (q : SeqEntry) : State :=
  let s : State := withSeq { q with genText := natLE 4 9 }
  let a : Asset := { Asset.reset with current := 5, versions := [version 5 0] }
  let im : Image := { img [] with
    sections := [{ sec0 with kind := 8 }], assets := [.mk 1 4 false 5 16 [] [], .mk 9 5 false 5 16 [] []] }
  { s with poison := bad, bond := { s.bond with image := some im }, assets := { AssetSt.reset with table := [(1, a), (9, a)] } }

theorem witness_Mask_poisoned :
    let q : SeqEntry := { SeqEntry.reset with mode := .ready, grammar := true }
    decodeLost (maskBuild (decoding [4 * 2 ^ 48] q) 0) 0 = true ∧ (decoding [] q).poison = [] ∧ decodeLost (decoding [4 * 2 ^ 48] q) 0 = false := by decide +kernel
theorem witness_Sample_poisoned :
    let q : SeqEntry := { SeqEntry.reset with mode := .ready, listed := true }
    decodeLost (tokenLines (decoding [2 ^ 48] q) 0 1) 0 = true
      ∧ decodeLost (decoding [2 ^ 48] q) 0 = false
      ∧ sampleRow q (decoding [2 ^ 48] q).fresh (allowedLogits none [0x3F800000, 0x40000000]) = some 1 := by decide +kernel
theorem witness_Result : ([0, 1, 2, 3].all fun d => let r : Req := { Req.blank with pack := some (.mk 0 0 0 0 d 0) }
    decide (r.pack.map (·.dest) = some d)) = true ∧ Req.blank.pack = none ∧ ({ Req.blank with ast := some 0, adopted := true } : Req).adopted = true
    ∧ (∃ r, reqOf (withReq { Req.blank with resulted := true, shadow := true }) 0 = some r ∧ r.resulted = true ∧ r.shadow = true ∧ r.ended = false) := by
  exact ⟨by decide +kernel, rfl, rfl, ⟨_, rfl, rfl, rfl, rfl⟩⟩
theorem witness_Admit_stage : ((queued patient).topo.stage = .ready ∧ (queued patient).adm.decided ≠ some (now (queued patient)))
    ∧ (let s : State := { queued patient with adm := { (queued patient).adm with decided := some (now (queued patient)) } }
      s.adm.decided = some (now s)) ∧ State.reset.topo.stage ≠ .ready := by decide +kernel
theorem witness_Open_refused : isSealed (bondIn .loaded) = false ∧ hostReaches (bondIn .loaded) Reg.ADMIT_CTRL = true
    ∧ ({ TwinSt.reset with declared := [0] } : TwinSt).declared ≠ [] ∧ (∀ p ∈ (up []).adm.queues, p.2 = []) := by decide +kernel

theorem witness_Submit_bad : ([0, 1, 2, 9].all fun op => let e := natLE 4 0 ++ natLE 1 op ++ natLE 1 4 ++ List.replicate 58 0
    !subOpcodeGood e && decide (subOpcode e = op) && decide (subHsn e = 0)) = true := by decide +kernel
theorem witness_Submit_waits : ([0, 1, 2].all fun op => decide (subOpcode (sub 4 op) = op ∧ subHsn (sub 4 op) ≠ (pairOf (readyPair 5) 5).hsnNext)) = true
    ∧ pairReady (ringed Pair.reset) 5 = false := by decide +kernel

/-! ### Mailbox, host link, sessions -/

theorem witness_LockExpired_message :
    let s (started silent : Bool) : State :=
      let x := chanIn 3 { Chan.reset with owner := some 1, pending := some (4, 65535, 1), started := started }
      { x with time := { x.time with beat := 2 ^ 30 }, twin := { TwinSt.reset with silent := silent } }
    ([(false, false), (false, true), (true, false)].all fun p =>
      decide (isDue (s p.1 p.2) (addBeats (chanOf (s p.1 p.2) 3).since (bits (reg (s p.1 p.2) Reg.MB_LOCK_TIMEOUT) 23 0)) = true)
        && decide ((chanOf (s p.1 p.2) 3).owner = some 1 ∧ (chanOf (s p.1 p.2) 3).pending = some (4, 65535, 1))
        && decide ((chanOf (s p.1 p.2) 3).started = p.1 ∧ (s p.1 p.2).twin.silent = p.2)) = true := by decide +kernel

/-- `up` with a saved training record of the host port that its own key holds, taken 30 °C below 40 °C. -/
def recorded : State := { up [] with
  topo := { (up []).topo with records := [(.hostPort, { recordNow (up []) [] 640 with t16 := 160 })] } }

theorem witness_HostLink : (up []).topo.stage ≠ .power ∧ State.reset.topo.stage = .power ∧ savedRecord (up []) .hostPort = none
    ∧ ignoresRecord { up [] with topo := { (up []).topo with retrain := true } } .hostPort = true
    ∧ ignoresRecord recorded .hostPort = false := by decide +kernel
theorem witness_HostLink_record : savedRecord recorded .hostPort = some { recordNow (up []) [] 640 with t16 := 160 }
    ∧ recordUsable recorded { recordNow (up []) [] 640 with t16 := 160 } false [] 640 = true :=
  ⟨rfl, by
    have h : ({ { recordNow (up []) [] 640 with t16 := 160 } with t16 := 640 } : TrainRec) = recordNow recorded [] 640 := rfl
    simp only [recordUsable, h]
    rfl⟩
theorem witness_JobKeyOpen_peer : let s : State := setUnit (chanIn 3 (message 256 0x0201)) 3 3 (.mk .resetting 1 none)
    s.twin.silent = false ∧ nextChannel s = some 3 ∧ (chanOf s 3).pending = some (256, 7, 1) ∧ (chanOf s 3).lost = false
      ∧ le ((chanOf s 3).data.take 256) 0 2 = 0x0201 ∧ (unitSt s 3 (1023 / 256)).mode = .resetting := by decide +kernel

/-! ### Pod -/

/-- The last part of a message of type `ty` of two parts, its part 0 not received. -/
def lastPart (ctrl ty : Nat) : RxFrame :=
  { bytes := wireFrame (podUp (peer ctrl)) 0 { peer ctrl with rxNext := 0 } (.mk ty 1 9 1 2 [] 0 false) 0, fcs := true, fill := 0 }

theorem witness_Pod_lost : ([(1, 0x01), (3, 0x01), (3, 0x11)].all fun p =>
    match receive (podUp (peer p.1)) 0 (lastPart p.1 p.2) with
    | .lost t i ty m => decide (i = 0 ∧ ty = p.2 ∧ m = 9 ∧ (peerOf t 0 0).client = bit p.1 1)
    | _ => false) = true := by decide +kernel
theorem witness_Ingress : let f (n : Nat) : RxFrame := { frame 1 1 [] with fill := n }
    let o := etherAt (f 0).bytes
    let b := (f 0).bytes.length + 4
    (portRuns (podUp (peer 1)) 0 = true ∧ staged (podUp (peer 1)) (f 0) = (true, some 0, true)
      ∧ policeStage (podUp (peer 1)) 0 0 b (bits (le ((f 0).bytes.drop (o + 2)) 1 1) 5 4) = (podUp (peer 1), some 0))
    ∧ ¬((0 = 1 ∨ 0 = 2) ∧ bits (reg (podUp (peer 1)) (Reg.POD_YELLOW_THRESH 0)) 12 0 * 1024 ≤ 4194304 - b) ∧ 4194304 - b + b ≤ 4 * 2 ^ 20
    ∧ 4 * 2 ^ 20 < 4194304 - b + 1 + b := by decide +kernel

/-- A peer whose frames meter 0 polices: enabled, committed and peak buckets of `c` and `p` bytes. -/
def policed (c p : Nat) : State :=
  setMeter (podUp { peer 1 with ctrl := 1 + 2 ^ 26 }) 0 0 { Meter.reset with ctrl := 1, tc := 256 * c, tp := 256 * p }

theorem witness_Ingress_yellow : (match policeStage (policed 0 9216) 0 0 100 0 with
    | (t, some c) => decide (c = 1 ∧ bits (reg t (Reg.POD_YELLOW_THRESH 0)) 12 0 * 1024 ≤ 4194304 - 100)
    | _ => false) = true := by decide +kernel
theorem witness_Peers_waits : let s := podUp { peer 3 with unacked := 15, out := [sent], rtoSince := now (up []), ackSince := now (up []) }
    (peerOf s 0 0).unacked < 16 ∧ isDue s (addBeats (peerOf s 0 0).ackSince (bits (reg s (Reg.POD_ACK_DELAY 0)) 7 0)) = false
      ∧ isDue s (addBeats (peerOf s 0 0).rtoSince (bits (reg s (Reg.POD_RTO 0)) 15 0)) = false
      ∧ isDue s (addBeats (peerOf s 0 0).rtoSince (16 * bits (reg s (Reg.POD_RTO 0)) 15 0)) = false := by decide +kernel
theorem witness_Peers_down : let s := podLate { peer 3 with down := true }
    (peerOf s 0 0).down = true ∧ isDue s (addBeats (peerOf s 0 0).rtoSince (16 * bits (reg s (Reg.POD_RTO 0)) 15 0)) = true
      ∧ (peer 3).down = false ∧ (peer 1).client = false := by decide +kernel
theorem witness_Pending : let s := podLate { peer 3 with waiting := [sent] }
    (peerOf s 0 0).client = true ∧ (∃ f ∈ (peerOf s 0 0).waiting, (f.token && isDue s (addBeats f.since (64 * measureN s))) = true ∧ f.type ≠ 0x3E)
      ∧ (∀ f ∈ [{ sent with token := false }], f.token = false) := by decide +kernel
theorem witness_PortUp : (let s := setUnit (up []) 3 0 (.mk .resetting 1 none)
    linksTrain s = true ∧ bit s.topo.fusePods 0 = true ∧ (portOf s 0).linkUp = false ∧ (unitSt s 3 0).mode = .resetting)
    ∧ linksTrain State.reset = false ∧ bit 14 0 = false
    ∧ (unitSt (setUnit (up []) 3 0 (.mk .available 1 (some (edgeNow (up []))))) 3 0).at_ = some (edgeNow (up [])) := by decide +kernel
theorem witness_Turn : (portOf (loaded 63) 0).turn = 0
    ∧ (let s := setPort (loaded 63) 0 { portOf (loaded 63) 0 with turn := 2 }
      (classOf s 0 2).queue = List.replicate 60 0 :: [] ∧ (classOf s 0 2).deficit < 60 + 4 ∧ classEligible s 0 2 = true ∧ nextEligible s 0 2 = some 2)
    ∧ nextEligible (podUp (peer 1)) 0 0 = none
    ∧ (let s := setClass (loaded 64) 0 2 { classOf (loaded 64) 0 2 with joined := 1 }
      (classOf s 0 2).queue.length ≤ (classOf s 0 2).joined) := by decide +kernel

/-! ### Power, bring-up, monitoring -/

theorem witness_InputLoss_again : let s : State := { up [] with
      plinth := { PlinthSt.reset with mode := .holdup }, twin := { TwinSt.reset with declared := [5] } }
    s.plinth.mode = .holdup ∧ s.topo.stage ≠ .power ∧ 5 ∈ s.twin.declared := by decide +kernel

/-- TRAINING with a saved record of channel 8 that its key holds. -/
def trainingWith (weak : List TrainUnit) : State × Training :=
  let s := stageIn .training
  ({ s with topo := { s.topo with records := [(.channel 8, recordNow s [] 640)] } }, { failed := none, crcBad := [], t16 := 640, weak := weak })

theorem witness_Training : (trainingWith []).1.topo.stage = .training
    ∧ savedRecord (trainingWith []).1 (.channel 8) = some (recordNow (trainingWith []).1 [] 640)
    ∧ recordUsable (trainingWith []).1 (recordNow (trainingWith []).1 [] 640) ((trainingWith []).2.crcBad.contains (.channel 8)) [] 640 = true
    ∧ (trainingWith [.channel 8]).2.weak.contains (.channel 8) = true ∧ savedRecord (trainingWith []).1 (.bridge 5) = none
    ∧ ignoresRecord (trainingWith []).1 (.channel 8) = false :=
  ⟨rfl, rfl, by simp [recordUsable, trainingWith, recordNow], by decide, rfl, rfl⟩
theorem witness_WarmReset : (up []).host.linkUp = true ∧ (up []).topo.stage ≠ .power ∧ 0 ∈ unitsOf (up []) 5 ∧ sticky Reg.TOPO_WARM_COUNT = true
    ∧ sticky Reg.BOND_INT_ENABLE = false := by decide +kernel
theorem witness_RaiseEpoch : (unitSt (raiseEpoch (up []) 0 0) 0 0).at_ = some (edgeNow (raiseEpoch (up []) 0 0))
    ∧ (unitSt (up []) 0 0).at_ ≠ some (edgeNow (up [])) ∧ unitKey 1 0 ≠ unitKey 0 0 := by decide +kernel
theorem witness_UnitReturn_group :
    let s (m1 : UnitMode) (c : Option (Nat × Nat)) : State :=
      let x := setUnit (setUnit (up []) 0 0 (.mk m1 1 none)) 1 0 (.mk .resetting 1 none)
      { x with time := { x.time with beat := 1000, ck := 0 }, topo := { x.topo with cmd := c } }
    (atBoundaryOf (s .resetting (some (1, 0))) 0 = true ∧ (unitSt (s .resetting (some (1, 0))) 0 0).mode = .resetting
      ∧ (s .resetting (some (1, 0))).topo.cmd = some (1, 0) ∧ groupLive (s .resetting none) 0 = true ∧ groupLive (s .resetting none) 7 = false)
    ∧ (atBoundaryOf (s .off (some (1, 0))) 0 = true ∧ (unitSt (s .off (some (1, 0))) 1 0).mode = .resetting
      ∧ (unitSt (s .off none) 0 0).mode ≠ .resetting) := by decide +kernel
theorem witness_UnitCmd : (let s := setReg (up []) Reg.TOPO_UNIT_SEL 0x20001
    unitPresent s (bits (reg s Reg.TOPO_UNIT_SEL) 18 16) (bits (reg s Reg.TOPO_UNIT_SEL) 8 0) = false)
    ∧ (let s := setUnit (up []) 0 0 .reset
      unitPresent s 0 0 = true ∧ (unitSt s 0 0).mode = .off)
    ∧ ({ (up []).topo with cmd := some (0, 0) } : TopoSt).cmd ≠ none := by decide +kernel
theorem witness_Storm : let s (t : Nat) (up : Bool) : State := setReg { sliced with err := { sliced.err with ceMeasure := 4, storm := up } } Reg.ERR_CE_THRESH t
    (s 5 false).err.storm = false ∧ reg (s 5 false) Reg.ERR_CE_THRESH = (s 5 false).err.ceMeasure + 1
      ∧ (s 5 true).err.storm = true ∧ reg (s 4 false) Reg.ERR_CE_THRESH ≠ (s 4 false).err.ceMeasure + 1 := by decide +kernel
theorem witness_Scrub_lpddr : checkable (up []) (.lpddr 0 1048568) = true ∧ checkable (up []) (.lpddr 0 1048576) = false
    ∧ ([0, 1, 3].map fun m => match eccRead (Nat.xor (eccStore (ldNat (up []) 0 1048568 8)) (m % 2 ^ 72)) with
      | .good _ => 0
      | .corrected _ _ => 1
      | .bad _ => 2) = [0, 1, 2] := by decide +kernel

end Sys2Proof.Tests
end

section
/-!
SUPPORT. The statements of spec/00_scope.md, and of the submissions of spec/16_host_interface.md, settled. First what shared
operations leave of the state: register words, completion entries, messages to a peer, switches that take effect. Then the
rules of accesses to BAR0 and of a submission entry, and the theorems.
-/
namespace Sys2Proof.Machine

open Sys2Proof.Laws

/-! ## Register words that an update keeps -/

theorem RegsKept.refl (s : State) (l : List Nat) : RegsKept s s l := fun _ _ _ => rfl

theorem RegsKept.trans {s t u : State} {l : List Nat} (h : RegsKept s t l) (g : RegsKept t u l) : RegsKept s u l :=
  fun a he ha => (g a he ha).trans (h a he ha)

theorem RegsKept.mono {s t : State} {l m : List Nat} (h : RegsKept s t l) (hlm : l ⊆ m) : RegsKept s t m :=
  fun a he ha => h a he fun hm => ha (hlm hm)

section
variable {s t : State} {a : Nat} {l : List Nat} (h : RegsKept s t l) (ha : a ∈ l)
include h ha

theorem RegsKept.after_setReg (v : Nat) : RegsKept s (setReg t a v) l :=
  h.trans fun _ _ hb => reg_setReg_ne t v fun e => hb (e ▸ ha)

theorem RegsKept.after_setBits (m : Nat) : RegsKept s (setBits t a m) l := h.after_setReg ha _

theorem RegsKept.after_clearBits (m : Nat) : RegsKept s (clearBits t a m) l := h.after_setReg ha _

theorem RegsKept.after_bump : RegsKept s (bump t a) l := h.trans fun b he hb => by
  have hba : b ≠ a := fun e => hb (e ▸ ha)
  rw [reg_bump t a b he, if_neg hba]

end

end Sys2Proof.Machine

namespace Sys2Proof.Laws

open Sys2Proof.Machine

/-! ## Bits of a word -/

theorem land_word_lt {v m : Nat} (h : m < 2 ^ 32) : Nat.land v m < 2 ^ 32 := Nat.and_lt_two_pow v h

theorem bit_eq_testBit (x n : Nat) : bit x n = x.testBit n := by
  simp [bit, Nat.testBit_eq_decide_div_mod_eq]

/-- A bit below 32 that `setBits` sets reads 1. -/
theorem regBit_setBits (s : State) (a : Nat) {m n : Nat} (hn : n < 32) (hm : m.testBit n = true) : regBit (setBits s a m) a n = true := by
  have hor : (Nat.lor (reg s a) m).testBit n = true := by
    rw [show Nat.lor (reg s a) m = reg s a ||| m from rfl, Nat.testBit_or, hm, Bool.or_true]
  rw [regBit, reg_setBits, if_pos rfl, bit_eq_testBit, Nat.testBit_mod_two_pow, hor]
  simp [hn]

/-! ## The error log (R457) -/

theorem regsKept_logCount (s : State) (x : LogItem) : RegsKept s (logCount s x) logWords := by
  unfold logCount
  split
  · exact (RegsKept.refl s _).after_bump (by simp [logWords])
  · exact RegsKept.refl s _

theorem regsKept_logNew (s : State) (x : LogItem) : RegsKept s (logNew s x) logWords := by
  have entered (e : ErrSt) : RegsKept s { s with err := e } logWords := fun _ _ _ => rfl
  unfold logNew
  dsimp only
  split
  · refine .after_setBits (.after_setReg (.after_setReg (entered _) ?_ _) ?_ _) ?_ _ <;> simp [logWords]
  · refine .after_setBits (.after_bump (.after_setBits (.after_setReg (.after_setReg (entered _) ?_ _) ?_ _) ?_ _) ?_) ?_ _
      <;> simp [logWords]

/-- Logging leaves every register word but those of the log. -/
theorem regsKept_logErr (s : State) (x : LogItem) : RegsKept s (logErr s x) logWords := by
  unfold logErr
  split
  · exact regsKept_logCount s x
  · exact (regsKept_logCount s x).trans (regsKept_logNew _ x)

theorem regsKept_protocol (s : State) (code off n : Nat) : RegsKept s (protocol s code off n) logWords := regsKept_logErr s _

theorem logOnly_eq {s t : State} (h : LogOnly s t) : t = { s with regs := t.regs, evt := t.evt, err := t.err } := by
  obtain ⟨r, e, l, rfl⟩ := h
  rfl

/-! ## A second write of the same key -/

section
variable {α : Type}

theorem terase_terase (t : Tab α) (k : Nat) : terase k (terase k t) = terase k t := by
  induction t with
  | nil => rfl
  | cons e t ih =>
    obtain ⟨j, w⟩ := e
    by_cases h : j = k <;> simp [terase, h, ih]

theorem terase_tins (t : Tab α) (k : Nat) (v : α) : terase k (tins k v t) = terase k t := by
  induction t with
  | nil => simp [tins, terase]
  | cons e t ih =>
    obtain ⟨j, w⟩ := e
    by_cases h : k < j
    · simp [tins, terase, h]
    · simp [tins, terase, h, ih]

theorem tset_tset [DecidableEq α] (d : Nat → α) (t : Tab α) (k : Nat) (v w : α) : tset d (tset d t k v) k w = tset d t k w := by
  have h : terase k (tset d t k v) = terase k t := by
    unfold tset
    split
    · exact terase_terase t k
    · rw [terase_tins, terase_terase]
  rw [tset, h, tset]

end

@[simp] theorem setPair_setPair (s : State) (q : Nat) (p r : Pair) : setPair (setPair s q p) q r = setPair s q r := by
  simp [setPair, tset_tset]

@[simp] theorem pairOf_setPair_self (s : State) (q : Nat) (p : Pair) : pairOf (setPair s q p) q = p := by
  simp [pairOf, setPair]

/-! ## Completion entries (R330 to R335) -/

/-- `t` is `s` but for register words, event counters, what has left the block, and the host port. -/
def PostOnly (s t : State) : Prop := ∃ r e m h, t = { s with regs := r, evt := e, emitted := m, host := h }

theorem PostOnly.refl (s : State) : PostOnly s s := ⟨_, _, _, _, rfl⟩

theorem PostOnly.trans {s t u : State} (h : PostOnly s t) (g : PostOnly t u) : PostOnly s u := by
  obtain ⟨r, e, m, x, rfl⟩ := h
  obtain ⟨r', e', m', x', rfl⟩ := g
  exact ⟨r', e', m', x', rfl⟩

theorem postOnly_setPair (s : State) (q : Nat) (p : Pair) : PostOnly s (setPair s q p) := ⟨_, _, _, _, rfl⟩

theorem postOnly_emit (s : State) (e : Emission) : PostOnly s (emit s e) := ⟨_, _, _, _, rfl⟩

theorem postOnly_setBits (s : State) (a m : Nat) : PostOnly s (setBits s a m) := ⟨_, _, _, _, rfl⟩

theorem postOnly_bump (s : State) (a : Nat) : PostOnly s (bump s a) := by
  obtain ⟨r, e, h⟩ := bump_frame s a
  exact ⟨r, e, _, _, h⟩

theorem coalMsg_frame (s : State) (q : Nat) : PostOnly s (coalMsg s q) := by
  unfold coalMsg
  split
  · exact PostOnly.refl s
  · exact (postOnly_emit s _).trans (postOnly_setPair _ _ _)

theorem coalesce_frame (s : State) (q : Nat) : PostOnly s (coalesce s q) := by
  unfold coalesce
  dsimp only
  split
  · exact (postOnly_setPair s _ _).trans (coalMsg_frame _ _)
  · exact postOnly_setPair s _ _

theorem putEntry_frame (s : State) (q : Nat) (bytes : List Byte) (replayed : Bool) : PostOnly s (putEntry s q bytes replayed) :=
  ((postOnly_emit s _).trans (postOnly_setPair _ _ _)).trans (coalesce_frame _ _)

theorem putBuffer_frame (s : State) (q : Nat) (c : Cpl) : PostOnly s (putBuffer s q c) := by
  unfold putBuffer
  split
  · exact postOnly_emit s _
  · exact PostOnly.refl s

theorem flushPair_frame (s : State) (q n : Nat) : PostOnly s (flushPair s q n) := by
  induction n generalizing s with
  | zero => exact PostOnly.refl s
  | succ n ih =>
    unfold flushPair
    split
    · exact PostOnly.refl s
    · dsimp only
      split
      · next c _ =>
        have hbuffer : PostOnly s (if c.written then s else putBuffer s q c) := by
          split
          · exact PostOnly.refl s
          · exact putBuffer_frame s q c
        exact ((hbuffer.trans (putEntry_frame _ _ _ _)).trans (postOnly_setPair _ _ _)).trans (ih _)
      · split
        · exact PostOnly.refl s
        · split
          · exact PostOnly.refl s
          · exact (((putBuffer_frame s q _).trans (putEntry_frame _ _ _ _)).trans (postOnly_setPair _ _ _)).trans (ih _)

theorem trimWindow_frame (s : State) (q : Nat) : PostOnly s (trimWindow s q) := by
  unfold trimWindow
  dsimp only
  split
  · exact PostOnly.refl s
  · split
    · exact PostOnly.refl s
    · split
      · exact postOnly_setPair s _ _
      · exact ((postOnly_setPair s _ _).trans (postOnly_bump _ _)).trans (postOnly_setBits _ _ _)

theorem postEntry_frame (s : State) (q kind part parts reqSeq hsn : Nat) (buffer : Option (Nat × List Byte)) (payload : List Byte) :
    PostOnly s (postEntry s q kind part parts reqSeq hsn buffer payload) := by
  have hwritten (p : Pair) : PostOnly s (flushPair (trimWindow (setPair s q p) q) q 1) :=
    ((postOnly_setPair s q p).trans (trimWindow_frame _ _)).trans (flushPair_frame _ _ _)
  unfold postEntry
  dsimp only
  split
  · exact hwritten _
  · exact ((hwritten _).trans (postOnly_bump _ _)).trans (postOnly_setBits _ _ _)

/-- R330: a record changes register words, event counters, what has left the block, and the host port only. -/
theorem post_frame (s : State) (q kind reqSeq hsn : Nat) (payloads : List (List Byte)) :
    PostOnly s (post s q kind reqSeq hsn payloads) := by
  have hparts (parts i : Nat) (l : List (List Byte)) (u : State) : PostOnly u (postParts u q kind parts reqSeq hsn i l) := by
    induction l generalizing u i with
    | nil => exact PostOnly.refl u
    | cons b bs ih => exact (postEntry_frame u q kind i parts reqSeq hsn none b).trans (ih (i + 1) _)
  exact hparts _ 0 payloads s

/-! ## Messages to a peer (R350 to R354) -/

/-- `t` is `s` but for the pod ports. -/
def PodOnly (s t : State) : Prop := ∃ p, t = { s with pod := p }

theorem PodOnly.refl (s : State) : PodOnly s s := ⟨_, rfl⟩

theorem PodOnly.trans {s t u : State} (h : PodOnly s t) (g : PodOnly t u) : PodOnly s u := by
  obtain ⟨p, rfl⟩ := h
  obtain ⟨p', rfl⟩ := g
  exact ⟨p', rfl⟩

theorem podOnly_setPeer (s : State) (n i : Nat) (x : Peer) : PodOnly s (setPeer s n i x) := ⟨_, rfl⟩

theorem podOnly_putFrame (s : State) (n i : Nat) (f : PodFrame) : PodOnly s (putFrame s n i f) := ⟨_, rfl⟩

theorem pumpPeer_frame (s : State) (n i k : Nat) : PodOnly s (pumpPeer s n i k) := by
  induction k generalizing s with
  | zero => exact PodOnly.refl s
  | succ k ih =>
    unfold pumpPeer
    dsimp only
    split
    · exact PodOnly.refl s
    · split
      · exact PodOnly.refl s
      · exact ((podOnly_setPeer s n i _).trans (podOnly_putFrame _ _ _ _)).trans (ih _)

/-- R350: a message to a peer changes the pod ports only. -/
theorem podSend_frame (s : State) (n i type : Nat) (body : List Byte) (token : Bool) : PodOnly s (podSend s n i type body token) := by
  unfold podSend
  dsimp only
  split
  · exact PodOnly.refl s
  · exact (podOnly_setPeer s n i _).trans (pumpPeer_frame _ n i _)

theorem answer_frame (s : State) (o : Origin) (kind reqSeq : Nat) (payload : List Byte) :
    ∃ r e m h p, answer s o kind reqSeq payload = { s with regs := r, evt := e, emitted := m, host := h, pod := p } := by
  cases o with
  | host f q hsn tag addr len =>
    obtain ⟨r, e, m, h, hp⟩ := post_frame s q kind reqSeq hsn [payload]
    exact ⟨r, e, m, h, s.pod, hp⟩
  | pod n i msg tag =>
    obtain ⟨p, hp⟩ := podSend_frame s n i 0x08 (podEntry kind reqSeq msg (pad48 payload)) false
    exact ⟨_, _, _, _, p, hp⟩

/-! ## Refusals (R307, R309) -/

@[simp] theorem answer_adm (s : State) (o : Origin) (kind reqSeq : Nat) (payload : List Byte) :
    (answer s o kind reqSeq payload).adm = s.adm := by
  obtain ⟨r, e, m, h, p, hframe⟩ := answer_frame s o kind reqSeq payload
  rw [hframe]

@[simp] theorem bump_adm (s : State) (a : Nat) : (bump s a).adm = s.adm := by
  obtain ⟨r, e, h⟩ := bump_frame s a
  rw [h]

@[simp] theorem refuse_adm (s : State) (r : Req) (code planned : Nat) : (refuse s r code planned).adm = s.adm := by
  unfold refuse
  dsimp only
  split <;> simp [admitEntry]

/-- Clearing OPEN leaves no queued request. -/
theorem queueOf_refuseAll (s : State) (code a : Nat) : queueOf (refuseAll s code) a = [] := by
  have hqueues : (refuseAll s code).adm.queues = [] :=
    List.foldlRecOn (motive := fun t : State => t.adm.queues = []) _ (fun t r => refuse t r code 0) rfl
      fun t ht r _ => (congrArg AdmitSt.queues (refuse_adm t r code 0)).trans ht
  simp [queueOf, hqueues, tget]

/-! ## Switches that take effect (R58, R62) -/

/-- `t` is `s` but for register words, event counters, assets, serving records and pod ports. -/
def SwitchOnly (s t : State) : Prop := ∃ r e a v p, t = { s with regs := r, evt := e, assets := a, serve := v, pod := p }

theorem SwitchOnly.refl (s : State) : SwitchOnly s s := ⟨_, _, _, _, _, rfl⟩

theorem SwitchOnly.trans {s t u : State} (h : SwitchOnly s t) (g : SwitchOnly t u) : SwitchOnly s u := by
  obtain ⟨r, e, a, v, p, rfl⟩ := h
  obtain ⟨r', e', a', v', p', rfl⟩ := g
  exact ⟨r', e', a', v', p', rfl⟩

theorem SwitchOnly.foldl {β : Type} {f : State → β → State} (h : ∀ t x, SwitchOnly t (f t x)) (s : State) (l : List β) :
    SwitchOnly s (l.foldl f s) :=
  List.foldlRecOn l f (SwitchOnly.refl s) fun t ht x _ => ht.trans (h t x)

theorem reap_frame (s : State) (a : Nat) : SwitchOnly s (reap s a) := by
  unfold reap
  dsimp only
  split
  · exact SwitchOnly.refl s
  · exact ⟨_, _, _, _, _, rfl⟩

theorem reapAll_frame (s : State) : SwitchOnly s (reapAll s) := by
  unfold reapAll
  split
  · exact SwitchOnly.foldl (fun t e => reap_frame t _) s _
  · exact SwitchOnly.refl s

theorem gateChange_frame (s : State) (n : Nat) : SwitchOnly s (gateChange s n) := by
  have hbumped (x : Port) (a b m : Nat) : SwitchOnly s (setBits (bump (setPort s n x) a) b m) := by
    obtain ⟨r, e, h⟩ := bump_frame (setPort s n x) a
    rw [h]
    exact ⟨_, _, _, _, _, rfl⟩
  unfold gateChange
  dsimp only
  split
  · split
    · exact hbumped ..
    · exact ⟨_, _, _, _, _, rfl⟩
  · exact ⟨_, _, _, _, _, rfl⟩

theorem makeCurrent_frame (s : State) (a ver : Nat) : SwitchOnly s (makeCurrent s a ver) := by
  have hcurrent (x : Asset) (v : ServeSt) : SwitchOnly s { setAsset s a x with serve := v } := ⟨_, _, _, _, _, rfl⟩
  exact ((hcurrent _ _).trans (SwitchOnly.foldl gateChange_frame _ _)).trans (reapAll_frame _)

theorem switchApply_frame (s : State) (i : Nat) : SwitchOnly s (switchApply s i) := by
  have hcleared : SwitchOnly s (setSwitch s i none) := ⟨_, _, _, _, _, rfl⟩
  have hraised (t : State) (b m : Nat) : SwitchOnly t (setBits t b m) := ⟨_, _, _, _, _, rfl⟩
  unfold switchApply
  split
  · exact SwitchOnly.refl s
  · split
    · exact (hcleared.trans (makeCurrent_frame _ _ _)).trans (hraised _ _ _)
    · exact SwitchOnly.refl s

theorem dueSwitches_frame (s : State) : SwitchOnly s (dueSwitches s) :=
  SwitchOnly.foldl (fun t (p : Nat × Switch) => switchApply_frame t p.1) s _

@[simp] theorem dueSwitches_adm (s : State) : (dueSwitches s).adm = s.adm := by
  obtain ⟨r, e, a, v, p, h⟩ := dueSwitches_frame s
  rw [h]

end Sys2Proof.Laws

namespace Sys2Proof.Proofs

open Sys2Proof Sys2Proof.Machine Sys2Proof.Laws

/-! ## Steps -/

theorem step_of_cons {c : Instr} {rest : List Instr} {s : State} (h : s.pending = c :: rest) :
    step s = exec c { s with pending := rest } := by
  simp [step, h]

theorem step_of_nil {s : State} (h : s.pending = []) : step s = .next (settle (idleCk s)) := by
  simp [step, h, done_eq]

/-- Settles O1: `step` matches on the queue. -/
theorem stepRunsTheFrontCommand : Obligations.StepRunsTheFrontCommand :=
  ⟨fun _ _ _ => step_of_cons, fun _ => step_of_nil⟩

/-! ## Accesses to BAR0 by the physical function (R9 to R11) -/

theorem linkUp_of_hostReaches {s : State} {off : Nat} (h : hostReaches s off = true) : s.host.linkUp = true := by
  simp only [hostReaches, Bool.and_eq_true] at h
  exact h.1

theorem goodSize_four {off : Nat} (h : off % 4 = 0) : goodSize off 4 = true := by simp [goodSize, h]

theorem goodSize_eight {off : Nat} (h : off % 8 = 0) : goodSize off 8 = true := by simp [goodSize, h]

section
variable {s : State} {off : Nat} (hchan : inChannel off = false) (hdebug : inDebug off = false) (hreach : hostReaches s off = true)
include hchan hdebug hreach

theorem readBar_four (h : off % 4 = 0) : readBar s 0 off 4 = readWord s 1 off := by
  simp [readBar, goodSize_four h, blockOffset, hdebug, hreach, readAt, hchan]

theorem writeBar_four {data : List Byte} (h : off % 4 = 0) (hlen : data.length = 4) :
    writeBar s 0 off data = writeWord s 1 off (leNat data) := by
  simp [writeBar, hlen, goodSize_four h, blockOffset, hdebug, hreach, writeAt, hchan]

theorem exec_registerWrite_four {data : List Byte} (h : off % 4 = 0) (hlen : data.length = 4) :
    exec (.registerWrite .bar0 0 off data) s = .next (settle (freeEnded (writeWord s 1 off (leNat data)))) := by
  have hw := writeBar_four hchan hdebug hreach h hlen
  simp only [exec, execRegisterWrite]
  rw [linked_up _ (linkUp_of_hostReaches hreach)]
  simp [debugWrite, hdebug, doneHost, done_eq, hw]

end

theorem readBar_eight {s : State} {off : Nat} (hdebug : inDebug off = false) (hreach : hostReaches s off = true) (h : off % 8 = 0) :
    readBar s 0 off 8 = readWide s 1 off := by
  simp [readBar, goodSize_eight h, blockOffset, hdebug, hreach]

theorem hostRead_eq {s t : State} {f off size v : Nat} (h : readBar s f off size = (v, t)) :
    hostRead s f off size = emit t (.readData off size v) := by
  simp [hostRead, h]

section
variable {s t : State} {off v : Nat} (hlink : s.host.linkUp = true)
include hlink

theorem exec_lowHalfRead (h : readBar s 0 off 4 = (v, t)) :
    exec (.lowHalfRead 0 off) s = .next (settle (freeEnded (emit t (.readData off 4 v)))) := by
  simp only [exec, execLowHalfRead]
  rw [linked_up _ hlink, doneHost, done_eq, Fin.val_zero, hostRead_eq h]

theorem exec_registerReadClear {size : Nat} (h : readBar s 0 off size = (v, t)) :
    exec (.registerReadClear 0 off size) s = .next (settle (freeEnded (emit t (.readData off size v)))) := by
  simp only [exec, execRegisterReadClear]
  rw [linked_up _ hlink, doneHost, done_eq, Fin.val_zero, hostRead_eq h]

end

theorem wordAt_zero (v : Nat) : wordAt v 0 = v % 2 ^ 32 := by simp [wordAt]

theorem wordAt_one (v : Nat) : wordAt v 1 = v / 2 ^ 32 % 2 ^ 32 := by simp [wordAt]

theorem readWord_unmapped {s : State} {off : Nat} (n : Nat) (h : regRow off = none) : readWord s n off = (0, protocol s 0x0002 off n) := by
  simp [readWord, h]

theorem writeWord_unmapped {s : State} {off : Nat} (n v : Nat) (h : regRow off = none) : writeWord s n off v = protocol s 0x0002 off n := by
  simp [writeWord, h]

/-- A read of the low half of a 64-bit register (R10). -/
theorem readWord_low {s : State} {off : Nat} {r : RegRow} (n : Nat) (hrow : regRow off = some (r, 0)) (hwo : r.acc ≠ .wo)
    (hw : r.words = 2) :
    readWord s n off
      = (wordAt (registerValue s r off) 0, afterRead (setLatch s off (wordAt (registerValue s r off) 1)) r off) := by
  simp [readWord, hrow, hwo, hw]

/-- A read of a 32-bit register. -/
theorem readWord_single {s : State} {off : Nat} {r : RegRow} (n : Nat) (hrow : regRow off = some (r, 0)) (hwo : r.acc ≠ .wo)
    (hw : r.words = 1) : readWord s n off = (wordAt (registerValue s r off) 0, afterRead s r off) := by
  simp [readWord, hrow, hwo, hw]

/-- A read of a 64-bit register whole (R10). -/
theorem readWide_double {s : State} {off : Nat} {r : RegRow} (n : Nat) (hchan : inChannel off = false)
    (hrow : regRow off = some (r, 0)) (hw : r.words = 2) : readWide s n off = (registerValue s r off, afterRead s r off) := by
  simp [readWide, hrow, hw, hchan]

/-! ## What a read leaves (R9) -/

theorem afterRead_of_not_rc {s : State} {r : RegRow} (b : Nat) (h : r.acc ≠ .rc) : afterRead s r b = s := by
  simp [afterRead, h]

/-- An RC register of the register file is cleared. -/
theorem afterRead_rc {s : State} {r : RegRow} {b : Nat} (h : r.acc = .rc)
    (hm : clearMeter s ((b - Reg.POD_STATUS 0) / 0x40000) b = none) : afterRead s r b = clearWords s b r.words := by
  simp [afterRead, h, hm]

theorem clearMeter_frame {s t : State} {n b : Nat} (h : clearMeter s n b = some t) : ∃ p, t = { s with pod := p } := by
  unfold clearMeter at h
  dsimp only at h
  split at h
  · exact ⟨_, (Option.some.inj h).symm⟩
  · split at h
    · exact ⟨_, (Option.some.inj h).symm⟩
    · split at h
      · exact ⟨_, (Option.some.inj h).symm⟩
      · cases h

theorem clearWords_frame (s : State) (b n : Nat) : ∃ r, clearWords s b n = { s with regs := r } := by
  induction n generalizing s b with
  | zero => exact ⟨_, rfl⟩
  | succ n ih =>
    obtain ⟨r, h⟩ := ih (setReg s b 0) (b + 4)
    exact ⟨r, h⟩

theorem afterRead_frame (s : State) (r : RegRow) (b : Nat) : ∃ g p, afterRead s r b = { s with regs := g, pod := p } := by
  unfold afterRead
  split
  · split
    · next t ht =>
      obtain ⟨p, rfl⟩ := clearMeter_frame ht
      exact ⟨_, p, rfl⟩
    · obtain ⟨g, h⟩ := clearWords_frame s b r.words
      exact ⟨g, _, h⟩
  · exact ⟨_, _, rfl⟩

theorem clearWords_one (s : State) (b : Nat) : reg (clearWords s b 1) b = 0 ∧ RegsKept s (clearWords s b 1) [b] :=
  ⟨by simp [clearWords], (RegsKept.refl s _).after_setReg (by simp) 0⟩

theorem clearWords_two (s : State) (b : Nat) :
    reg (clearWords s b 2) b = 0 ∧ reg (clearWords s b 2) (b + 4) = 0 ∧ RegsKept s (clearWords s b 2) [b, b + 4] :=
  ⟨by simp [clearWords, reg_setReg], by simp [clearWords],
    ((RegsKept.refl s _).after_setReg (by simp) 0).after_setReg (by simp) 0⟩

@[simp] theorem latchOf_setLatch (s : State) (b v : Nat) : latchOf (setLatch s b v) b = v % 2 ^ 32 := by
  simp [latchOf, setLatch]

/-! ## Writes under the access codes (R9, R12) -/

theorem writeWord_by_code {s : State} {off v d n : Nat} {r : RegRow} (hrow : regRow off = some (r, d))
    (hspecial : specialWrite s n off v = none) : writeWord s n off v = codeWrite s r n off d v := by
  simp [writeWord, hrow, hspecial]

theorem codeWrite_frame (s : State) (r : RegRow) (n off d v : Nat) : LogOnly s (codeWrite s r n off d v) := by
  unfold codeWrite
  cases r.acc with
  | rw => exact logOnly_setReg s _ _
  | w1c => exact logOnly_setReg s _ _
  | lk =>
    dsimp only
    split
    · exact (protocol_frame s _ _ _).trans (logOnly_setReg _ _ _)
    · exact logOnly_setReg s _ _
  | ro => exact LogOnly.refl s
  | rc => exact LogOnly.refl s
  | roSt => exact LogOnly.refl s
  | wo => exact LogOnly.refl s

section
variable {s : State} {r : RegRow} {n off d v : Nat}

theorem codeWrite_rw (h : r.acc = .rw) : codeWrite s r n off d v = setReg s off (Nat.land v (r.maskWord d).toNat) := by
  simp [codeWrite, h]

theorem codeWrite_w1c (h : r.acc = .w1c) : codeWrite s r n off d v = clearBits s off (Nat.land v (r.maskWord d).toNat) := by
  simp [codeWrite, h]

theorem codeWrite_lk_open (h : r.acc = .lk) (hs : isSealed s = false) :
    codeWrite s r n off d v = setReg s off (Nat.land v (r.maskWord d).toNat) := by
  simp [codeWrite, h, hs]

theorem codeWrite_lk_sealed (h : r.acc = .lk) (hs : isSealed s = true) : codeWrite s r n off d v = lkRefused s n off := by
  simp [codeWrite, h, hs]

theorem codeWrite_readOnly (h : r.acc = .ro ∨ r.acc = .rc ∨ r.acc = .roSt ∨ r.acc = .wo) : codeWrite s r n off d v = s := by
  rcases h with h | h | h | h <;> simp [codeWrite, h]

end

theorem reg_setReg_masked (s : State) (off v : Nat) (m : Word) : reg (setReg s off (Nat.land v m.toNat)) off = Nat.land v m.toNat := by
  rw [reg_setReg_self, Nat.mod_eq_of_lt (land_word_lt m.isLt)]

theorem reg_clearBits_masked (s : State) (off v : Nat) (m : Word) :
    reg (clearBits s off (Nat.land v m.toNat)) off = Nat.land (reg s off) (Nat.xor 0xFFFFFFFF (Nat.land v m.toNat)) := by
  have hm : Nat.land v m.toNat < 2 ^ 32 := land_word_lt m.isLt
  have hx : Nat.xor 0xFFFFFFFF (Nat.land v m.toNat) < 2 ^ 32 := Nat.xor_lt_two_pow (by decide) hm
  rw [reg_clearBits, if_pos rfl, Nat.mod_eq_of_lt hm, Nat.mod_eq_of_lt (land_word_lt hx)]

theorem regsKept_lkRefused (s : State) (n off : Nat) : RegsKept s (lkRefused s n off) (Reg.ERR_STATUS :: logWords) :=
  ((regsKept_protocol s 0x0003 off n).mono (List.subset_cons_self _ _)).after_setBits List.mem_cons_self 4

/-- Settles O7, by cases on the access code. -/
theorem writesFollowTheAccessCodes : Obligations.WritesFollowTheAccessCodes := by
  intro s off b0 b1 b2 b3 r d
  dsimp only
  intro halign hchan hdebug hreach hrow hspecial
  refine ⟨codeWrite s r 1 off d (leNat [b0, b1, b2, b3]), ?_, logOnly_eq (codeWrite_frame ..), fun h => ?_, fun h => ?_, fun h hs => ?_,
    fun h hs => ?_, codeWrite_readOnly⟩
  · rw [exec_registerWrite_four hchan hdebug hreach halign rfl, writeWord_by_code hrow hspecial]
  · rw [codeWrite_rw h]
    exact ⟨reg_setReg_masked .., (RegsKept.refl s _).after_setReg List.mem_cons_self _⟩
  · rw [codeWrite_w1c h]
    exact ⟨reg_clearBits_masked .., (RegsKept.refl s _).after_clearBits List.mem_cons_self _⟩
  · rw [codeWrite_lk_open h hs]
    exact ⟨reg_setReg_masked .., (RegsKept.refl s _).after_setReg List.mem_cons_self _⟩
  · rw [codeWrite_lk_sealed h hs]
    exact ⟨rfl, regsKept_lkRefused s 1 off, regBit_setBits _ _ (by decide) (by decide)⟩

/-- A 32-bit read of the low half of a 64-bit register returns its low word, latches its high word, and clears an RC register. -/
theorem lowHalfRead_latches {s : State} {off : Nat} {r : RegRow} (hread : readBar s 0 off 4 = readWord s 1 off)
    (hlink : s.host.linkUp = true) (hrow : regRow off = some (r, 0)) (hwo : r.acc ≠ .wo) (hw : r.words = 2) :
    ∃ u, exec (.lowHalfRead 0 off) s = .next (settle (freeEnded u))
      ∧ u = { s with regs := u.regs, latch := u.latch, pod := u.pod, emitted := u.emitted }
      ∧ u.emitted = s.emitted ++ [.readData off 4 (registerValue s r off % 2 ^ 32)]
      ∧ latchOf u off = registerValue s r off / 2 ^ 32 % 2 ^ 32
      ∧ (r.acc ≠ .rc → u.regs = s.regs ∧ u.pod = s.pod)
      ∧ (r.acc = .rc →
          clearMeter (setLatch s off (wordAt (registerValue s r off) 1)) ((off - Reg.POD_STATUS 0) / 0x40000) off = none →
          reg u off = 0 ∧ reg u (off + 4) = 0 ∧ RegsKept s u [off, off + 4]) := by
  have hexec := exec_lowHalfRead hlink (hread.trans (readWord_low 1 hrow hwo hw))
  obtain ⟨g, p, hframe⟩ := afterRead_frame (setLatch s off (wordAt (registerValue s r off) 1)) r off
  refine ⟨_, hexec, ?_, ?_, ?_, fun h => ?_, fun h hmeter => ?_⟩
  · rw [hframe]
    rfl
  · rw [hframe, wordAt_zero]
    rfl
  · rw [hframe]
    exact (latchOf_setLatch s off _).trans (by simp [wordAt_one])
  · rw [afterRead_of_not_rc off h]
    exact ⟨rfl, rfl⟩
  · rw [afterRead_rc h hmeter, hw]
    exact clearWords_two (setLatch s off _) off

/-- Settles O9: a read is of one word or of the whole register, and an RC register is cleared after it. -/
theorem readsReturnLatchAndClear : Obligations.ReadsReturnLatchAndClear := by
  intro s off r hchan hdebug hreach hrow hwo
  have hlink := linkUp_of_hostReaches hreach
  refine ⟨fun halign hw => lowHalfRead_latches (readBar_four hchan hdebug hreach halign) hlink hrow hwo hw,
    fun halign hw hrc hmeter => ?_, fun halign hw hrc hmeter => ?_⟩
  · have hexec := exec_registerReadClear hlink
      ((readBar_four hchan hdebug hreach halign).trans (readWord_single 1 hrow hwo hw))
    rw [afterRead_rc hrc hmeter, hw, wordAt_zero] at hexec
    exact ⟨_, hexec, rfl, rfl, clearWords_one s off⟩
  · have hexec := exec_registerReadClear hlink ((readBar_eight hdebug hreach halign).trans (readWide_double 1 hchan hrow hw))
    rw [afterRead_rc hrc hmeter, hw] at hexec
    exact ⟨_, hexec, rfl, rfl, clearWords_two s off⟩

/-! ## Accesses that reach nothing (R10, R11, R321) -/

theorem exec_badSizeAccess {s : State} (f : FnNo) {off size : Nat} (write : Bool) (hlink : s.host.linkUp = true)
    (h : goodSize off size = false) :
    exec (.badSizeAccess f off size write) s
      = .next (settle (if write then protocol s 0x0001 off (f + 1) else emit (protocol s 0x0001 off (f + 1)) (.readData off size 0))) := by
  simp only [exec, execBadSizeAccess]
  rw [linked_up _ hlink]
  simp [h, done_eq]

/-- An aligned access to BAR0 that reaches no register runs as the write or read that it is. -/
theorem exec_unmappedAccess_bar0 {s : State} {f : FnNo} {off size code : Nat} (write : Bool) (hlink : s.host.linkUp = true)
    (hcode : unmappedCode s f off = some code) (hsize : goodSize off size = true) :
    exec (.unmappedAccess ⟨.bar0, f⟩ off size write) s
      = .next (settle (freeEnded (if write then writeBar s f off (List.replicate size 0) else hostRead s f off size))) := by
  simp only [exec, execUnmappedAccess]
  rw [linked_up _ hlink]
  simp [hcode, hsize, doneHost, done_eq]

theorem unmappedCode_unmapped {s : State} {off : Nat} (hdebug : inDebug off = false) (h : regRow off = none) :
    unmappedCode s 0 off = some 0x0002 := by
  simp [unmappedCode, blockOffset, hdebug, h]

section
variable {s : State} {f off : Nat} (hf : f ≠ 0) (h : windowOffset s f off = none)
include hf h

theorem blockOffset_outside : blockOffset s f off = none := by simp [blockOffset, hf, h]

theorem unmappedCode_outside : unmappedCode s f off = some 0x0004 := by simp [unmappedCode, blockOffset_outside hf h]

theorem readBar_outside {size : Nat} (hsize : goodSize off size = true) :
    readBar s f off size = (0, protocol s 0x0004 off (f + 1)) := by
  simp [readBar, hsize, blockOffset_outside hf h]

theorem writeBar_outside {data : List Byte} (hsize : goodSize off data.length = true) :
    writeBar s f off data = protocol s 0x0004 off (f + 1) := by
  simp [writeBar, hsize, blockOffset_outside hf h]

end

/-- A write to BAR2, or a read of it, outside the pages of a function is logged at its offset. -/
theorem pageAccess_outside {s : State} {f off : Nat} (size : Nat) (write : Bool) (h : doorbellPair s f (off / 4096) = none) :
    pageAccess s f off size write
      = if write then protocol s 0x0004 off (f + 1) else emit (protocol s 0x0004 off (f + 1)) (.readData off size 0) := by
  simp [pageAccess, ring, h, Nat.div_add_mod]

theorem exec_unmappedAccess_bar2 {s : State} {f : FnNo} {off : Nat} (size : Nat) (write : Bool) (hlink : s.host.linkUp = true)
    (h : doorbellPair s f (off / 4096) = none) :
    exec (.unmappedAccess ⟨.bar2, f⟩ off size write) s
      = .next (settle (if write then protocol s 0x0004 off (f + 1)
          else emit (protocol s 0x0004 off (f + 1)) (.readData off size 0))) := by
  simp only [exec, execUnmappedAccess]
  rw [linked_up _ hlink, pageAccess_outside size write h]
  simp [h, done_eq]

theorem exec_undefinedCommand {s : State} {x : CmdReg} {c : Code32} (hreach : hostReaches s x.offset = true)
    (h : x.defined (x.code c) = false) :
    exec (.undefinedCommand x c) s = .next (settle (protocol s 0x000B x.offset 1)) := by
  simp only [exec, execUndefinedCommand]
  rw [host_running _ hreach]
  simp [h]

/-- Settles O10: each access is refused at the first test that it fails. -/
theorem refusedAccessesAreLogged : Obligations.RefusedAccessesAreLogged := by
  refine ⟨fun s f off size hlink hsize => ⟨exec_badSizeAccess f true hlink hsize, exec_badSizeAccess f false hlink hsize⟩,
    fun s off halign hchan hdebug hreach hrow => ?_, fun s f off size hlink hsize hf hwin => ?_,
    fun s f off size hlink hpage => ⟨exec_unmappedAccess_bar2 size true hlink hpage, exec_unmappedAccess_bar2 size false hlink hpage⟩,
    fun s x c => exec_undefinedCommand, fun s b a f off size data w hdown c hc => ?_⟩
  · have hexec (w : Bool) := exec_unmappedAccess_bar0 w (f := 0) (linkUp_of_hostReaches hreach) (unmappedCode_unmapped hdebug hrow)
      (goodSize_four halign)
    refine ⟨(hexec true).trans ?_, (hexec false).trans ?_⟩
    · rw [if_pos rfl, Fin.val_zero, writeBar_four hchan hdebug hreach halign (by simp), writeWord_unmapped 1 _ hrow]
    · rw [if_neg (by decide), Fin.val_zero,
        hostRead_eq ((readBar_four hchan hdebug hreach halign).trans (readWord_unmapped 1 hrow))]
  · have hf' : (f : Nat) ≠ 0 := fun h => hf (Fin.ext h)
    have hexec (w : Bool) := exec_unmappedAccess_bar0 w hlink (unmappedCode_outside hf' hwin) hsize
    refine ⟨(hexec true).trans ?_, (hexec false).trans ?_⟩
    · rw [if_pos rfl, writeBar_outside hf' hwin (by simpa using hsize)]
    · rw [if_neg (by decide), hostRead_eq (readBar_outside hf' hwin hsize)]
  · simp only [List.mem_cons, List.not_mem_nil, or_false] at hc
    rcases hc with rfl | rfl | rfl | rfl | rfl <;> exact linked_down _ hdown

/-! ## The entry at the head of a pair (R326) -/

/-- The pair `q` of `s` once the entry at its head has been taken. -/
def takenHead (s : State) (q : Nat) : State :=
  let p := pairOf s q
  setPair s q { p with sqHead := (p.sqHead + 1) % sqSize s q, hsnNext := (p.hsnNext + 1) % 2 ^ 32, hsnLast := p.hsnNext }

section
variable {s : State} {q : Nat} {e : List Byte} (f : State → State)

theorem takeSubmission_next (h : subHsn e = (pairOf s q).hsnNext) :
    takeSubmission s q e f = expireSource (f (takenHead s q)) (qFn s q) q (subHsn e) := by
  simp [takeSubmission, takenHead, headOn, h]

section
variable (hne : subHsn e ≠ (pairOf s q).hsnNext)
include hne

theorem takeSubmission_behind (h : serialLt 32 (subHsn e) (pairOf s q).hsnNext = true) :
    takeSubmission s q e f = bump (headOn s q) (Reg.Q_CNT_DUP q) := by
  simp [takeSubmission, hne, h]

theorem takeSubmission_ahead (h : serialLt 32 (subHsn e) (pairOf s q).hsnNext = false)
    (h' : serialLt 32 (pairOf s q).hsnNext (subHsn e) = true) :
    takeSubmission s q e f = setBits (setPair s q { pairOf s q with gap := true }) (Reg.Q_INT_STATUS q) 4 := by
  simp [takeSubmission, hne, h, h']

theorem takeSubmission_outOfWindow (h : serialLt 32 (subHsn e) (pairOf s q).hsnNext = false)
    (h' : serialLt 32 (pairOf s q).hsnNext (subHsn e) = false) :
    takeSubmission s q e f = bump (headOn s q) (Reg.Q_CNT_OOW q) := by
  simp [takeSubmission, hne, h, h']

end

end

/-- What a taken NOP does. -/
def submitNop (s : State) (q : Nat) (e : List Byte) : State :=
  if subOpcodeGood e then answer s (hostOrigin s q e) 0x06 0xFFFFFFFF (natLE 8 (hostOrigin s q e).tag)
  else hostMalformed s q (hostOrigin s q e) (0x01, noField)

/-- What a taken CANCEL does. -/
def submitCancel (s : State) (q : Nat) (e : List Byte) : State :=
  if subOpcodeGood e then cancelSub s (hostOrigin s q e) (ofFunction (qFn s q)) e
  else hostMalformed s q (hostOrigin s q e) (0x01, noField)

section
variable {s : State} {q : PairNo} {e : List Byte} (hready : pairReady s q = true)
include hready

theorem exec_submitQuery_ready (d : List Byte) (ok : Bool) (h0 : subOpcode e ≠ 0) (h2 : subOpcode e ≠ 2) :
    exec (.submitQuery q e d ok) s = .next (settle (freeEnded (takeSubmission s q e fun u => submitQuery u q e d ok))) := by
  simp [exec, execSubmitQuery, hready, h0, h2, doneHost, done_eq]

theorem exec_submitNop_ready (h : subOpcode e = 0) :
    exec (.submitNop q e) s = .next (settle (freeEnded (takeSubmission s q e fun u => submitNop u q e))) := by
  simp [exec, execSubmitNop, hready, h, doneHost, done_eq, submitNop]

theorem exec_submitCancel_ready (h : subOpcode e = 2) :
    exec (.submitCancel q e) s = .next (settle (freeEnded (takeSubmission s q e fun u => submitCancel u q e))) := by
  simp [exec, execSubmitCancel, hready, h, doneHost, done_eq, submitCancel]

/-- Each of the three commands, on a ready pair with an entry of its own, takes the entry. -/
theorem exec_submission_ready {d : List Byte} {ok : Bool} {c : Instr}
    (h : (c = .submitQuery q e d ok ∧ subOpcode e ≠ 0 ∧ subOpcode e ≠ 2) ∨ (c = .submitNop q e ∧ subOpcode e = 0)
      ∨ (c = .submitCancel q e ∧ subOpcode e = 2)) :
    ∃ f, exec c s = .next (settle (freeEnded (takeSubmission s q e f))) := by
  rcases h with ⟨rfl, h0, h2⟩ | ⟨rfl, h0⟩ | ⟨rfl, h2⟩
  · exact ⟨_, exec_submitQuery_ready hready d ok h0 h2⟩
  · exact ⟨_, exec_submitNop_ready hready h0⟩
  · exact ⟨_, exec_submitCancel_ready hready h2⟩

end

/-! ## What a taken entry does (R328, R338) -/

/-- The outcome of a command whose entry was taken, `u` the state after what the entry does (R413). -/
def takenOutcome (s : State) (q : Nat) (e : List Byte) (u : State) : Out :=
  .next (settle (freeEnded (expireSource u (qFn s q) q (subHsn e))))

section
variable {s : State} {q : PairNo} {e : List Byte} (hready : pairReady s q = true) (hnext : subHsn e = (pairOf s q).hsnNext)
include hready hnext

theorem exec_submitQuery_next {d : List Byte} {ok : Bool} {u : State} (h0 : subOpcode e ≠ 0) (h2 : subOpcode e ≠ 2)
    (hu : submitQuery (takenHead s q) q e d ok = u) : exec (.submitQuery q e d ok) s = takenOutcome s q e u := by
  rw [exec_submitQuery_ready hready d ok h0 h2, takeSubmission_next _ hnext, hu, takenOutcome]

theorem exec_submitNop_next {u : State} (h : subOpcode e = 0) (hu : submitNop (takenHead s q) q e = u) :
    exec (.submitNop q e) s = takenOutcome s q e u := by
  rw [exec_submitNop_ready hready h, takeSubmission_next _ hnext, hu, takenOutcome]

theorem exec_submitCancel_next {u : State} (h : subOpcode e = 2) (hu : submitCancel (takenHead s q) q e = u) :
    exec (.submitCancel q e) s = takenOutcome s q e u := by
  rw [exec_submitCancel_ready hready h, takeSubmission_next _ hnext, hu, takenOutcome]

end

section
variable {s : State} {q : Nat} {e d : List Byte}

@[simp] theorem qFn_takenHead (s : State) (q j : Nat) : qFn (takenHead s q) j = qFn s j := rfl

@[simp] theorem qAccount_takenHead (s : State) (q j : Nat) : qAccount (takenHead s q) j = qAccount s j := rfl

@[simp] theorem hostOrigin_takenHead (s : State) (q j : Nat) (e : List Byte) : hostOrigin (takenHead s q) j e = hostOrigin s j e := rfl

@[simp] theorem rangeAllowed_takenHead (s : State) (q f a n : Nat) : rangeAllowed (takenHead s q) f a n = rangeAllowed s f a n := rfl

theorem submitQuery_bad {ok : Bool} (h : subOpcodeGood e = false) :
    submitQuery (takenHead s q) q e d ok = hostMalformed (takenHead s q) q (hostOrigin s q e) (0x01, noField) := by
  simp [submitQuery, h]

theorem submitNop_bad (h : subOpcodeGood e = false) :
    submitNop (takenHead s q) q e = hostMalformed (takenHead s q) q (hostOrigin s q e) (0x01, noField) := by
  simp [submitNop, h]

theorem submitCancel_bad (h : subOpcodeGood e = false) :
    submitCancel (takenHead s q) q e = hostMalformed (takenHead s q) q (hostOrigin s q e) (0x01, noField) := by
  simp [submitCancel, h]

theorem submitNop_good (h : subOpcodeGood e = true) :
    submitNop (takenHead s q) q e = post (takenHead s q) q 0x06 0xFFFFFFFF (subHsn e) [natLE 8 (subTag e)] := by
  simp [submitNop, h, answer, hostOrigin, Origin.tag]

theorem submitCancel_good (h : subOpcodeGood e = true) :
    submitCancel (takenHead s q) q e = cancelSub (takenHead s q) (hostOrigin s q e) (ofFunction (qFn s q)) e := by
  simp [submitCancel, h]

section
variable (h : subOpcodeGood e = true) (hdesc : rangeAllowed s (qFn s q) (subAddr e) (subLen e) = true)
  (hresult : rangeAllowed s (qFn s q) (subResultAddr e) (subResultLen e) = true)
include h hdesc hresult

theorem submitQuery_accepted {r : Req} (hcheck : checkQuery (takenHead s q) (hostOrigin s q e) (qAccount s q) e d = .inl r) :
    submitQuery (takenHead s q) q e d true = arrive (takenHead s q) r := by
  simp [submitQuery, h, hdesc, hresult, hcheck]

theorem submitQuery_failed {f : Fail} (hcheck : checkQuery (takenHead s q) (hostOrigin s q e) (qAccount s q) e d = .inr f) :
    submitQuery (takenHead s q) q e d true = hostMalformed (takenHead s q) q (hostOrigin s q e) f := by
  simp [submitQuery, h, hdesc, hresult, hcheck]

end

end

/-- A submission whose pair is not ready, or whose entry is another command's, changes nothing. -/
theorem exec_submission_idle {s : State} {q : PairNo} {e d : List Byte} {ok : Bool} {c : Instr}
    (h : (c = .submitQuery q e d ok ∧ (pairReady s q = false ∨ subOpcode e = 0 ∨ subOpcode e = 2))
      ∨ (c = .submitNop q e ∧ (pairReady s q = false ∨ subOpcode e ≠ 0))
      ∨ (c = .submitCancel q e ∧ (pairReady s q = false ∨ subOpcode e ≠ 2))) : exec c s = .next (settle s) := by
  rcases h with ⟨rfl, h⟩ | ⟨rfl, h⟩ | ⟨rfl, h⟩
  · simp [exec, execSubmitQuery, h, done_eq]
  · simp [exec, execSubmitNop, h, done_eq]
  · simp [exec, execSubmitCancel, h, done_eq]

/-! ## ADMIT_OPEN and ADMIT_DECISION (R304, R305) -/

theorem exec_admitOpen {s : State} (on : Bool) (hreach : hostReaches s Reg.ADMIT_CTRL = true) :
    exec (.admitOpen on) s = .next (settle (admitCtrl s on)) := by
  simp only [exec, execAdmitOpen]
  exact host_running _ hreach

theorem admitOpen_admitCtrl {s : State} (hseal : isSealed s = true) (hstandby : standby s = false) (hfault : s.twin.declared = []) :
    admitOpen (admitCtrl s true) = true := by
  have hset : admitCtrl s true = setBits s Reg.ADMIT_CTRL 1 := by simp [admitCtrl, hseal, hstandby, hfault, putBit]
  rw [hset]
  exact regBit_setBits s _ (by decide) (by decide)

theorem admitCtrl_refused {s : State} (h : isSealed s = false ∨ standby s = true ∨ s.twin.declared ≠ []) : admitCtrl s true = s := by
  rcases h with h | h | h <;> simp [admitCtrl, h]

theorem headsInOrder_of_empty {s : State} (h : ∀ p ∈ s.adm.queues, p.2 = []) : headsInOrder s = [] := by
  have hheads : s.adm.queues.filterMap (fun p => p.2.head?) = [] :=
    List.filterMap_eq_nil_iff.mpr fun p hp => by rw [h p hp, List.head?_nil]
  simp [headsInOrder, hheads]

/-- A decision edge without a queued head only makes the switches due effective. -/
theorem admitDecision_no_head {s : State} (hedge : s.time.ck % 16 = 0) (hlast : s.time.ck ≤ 1488) (hreload : s.time.reloadPending = false)
    (hcount : hasCount s = true) (hseal : isSealed s = true) (hstage : s.topo.stage = .ready) (hpair : pairAdmits s = true)
    (hnew : s.adm.decided ≠ some (now s)) (hempty : ∀ p ∈ s.adm.queues, p.2 = []) : admitDecision s = dueSwitches s := by
  have hheads : headsInOrder (dueSwitches s) = [] := headsInOrder_of_empty (by rwa [dueSwitches_adm])
  simp [admitDecision, hedge, hreload, hcount, hseal, hstage, hpair, hnew, hheads, decideHeads, Nat.not_lt.mpr hlast]

theorem admitDecision_elsewhere {s : State}
    (h : s.time.ck % 16 ≠ 0 ∨ hasCount s = false ∨ isSealed s = false ∨ s.topo.stage ≠ .ready) :
    admitDecision s = s := by
  rcases h with h | h | h | h <;> simp [admitDecision, h]

theorem exec_admitDecision (s : State) : exec .admitDecision s = .next (settle (admitDecision s)) := rfl

/-- Settles O46: the entry is taken by its HSN, and each command acts on the taken head. -/
theorem submissionsAreTakenInOrder : Obligations.SubmissionsAreTakenInOrder := by
  refine ⟨fun s q e d ok hready hnext => ⟨fun h1 hgood hdesc hresult hok => ?_, fun h0 hgood => ?_, fun h2 hgood => ?_,
      fun hbad => ⟨fun h0 h2 => ?_, fun h0 => ?_, fun h2 => ?_⟩⟩, fun s q e d ok c hready hne hc => ?_,
    fun s q e d ok c => exec_submission_idle, fun s hreach hseal hstandby hfault => ?_, fun s hreach h => ?_, fun s hreach => ?_,
    fun s hedge hlast hreload hcount hseal hstage hpair hnew hempty => ?_, fun s h => ?_⟩
  · subst hok
    have hnop : subOpcode e ≠ 0 := by omega
    have hcancel : subOpcode e ≠ 2 := by omega
    dsimp only
    split
    · next r hcheck =>
      exact exec_submitQuery_next hready hnext hnop hcancel (submitQuery_accepted hgood hdesc hresult hcheck)
    · next f hcheck =>
      exact exec_submitQuery_next hready hnext hnop hcancel (submitQuery_failed hgood hdesc hresult hcheck)
  · exact exec_submitNop_next hready hnext h0 (submitNop_good hgood)
  · exact exec_submitCancel_next hready hnext h2 (submitCancel_good hgood)
  · exact exec_submitQuery_next hready hnext h0 h2 (submitQuery_bad hbad)
  · exact exec_submitNop_next hready hnext h0 (submitNop_bad hbad)
  · exact exec_submitCancel_next hready hnext h2 (submitCancel_bad hbad)
  · obtain ⟨f, hexec⟩ := exec_submission_ready hready hc
    exact ⟨fun h => by rw [hexec, takeSubmission_behind f hne h]; rfl,
      fun h h' => by rw [hexec, takeSubmission_ahead f hne h h'],
      fun h h' => by rw [hexec, takeSubmission_outOfWindow f hne h h']; rfl⟩
  · exact ⟨_, exec_admitOpen true hreach, admitOpen_admitCtrl hseal hstandby hfault⟩
  · rw [exec_admitOpen true hreach, admitCtrl_refused h]
  · exact ⟨_, exec_admitOpen false hreach, queueOf_refuseAll _ _⟩
  · rw [exec_admitDecision, admitDecision_no_head hedge hlast hreload hcount hseal hstage hpair hnew hempty]
  · rw [exec_admitDecision, admitDecision_elsewhere h]

end Sys2Proof.Proofs
end

section
/-!
SUPPORT. The statement of spec/01_architecture.md settled: what a request's completion instant does (R16), and how the result
that it releases goes on (R266, R331, R384, R389).
-/
namespace Sys2Proof.Proofs

open Sys2Proof Sys2Proof.Machine Sys2Proof.Laws

/-! ## When the instant acts (R16) -/

theorem exec_completionInstant (s : State) (k : ReqKey) : exec (.completionInstant k) s = .next (settle (completionInstant s k)) := rfl

theorem completionInstant_unknown {s : State} {k : Nat} (h : reqOf s k = none) : completionInstant s k = s := by
  simp [completionInstant, h]

theorem completionInstant_elsewhere {s : State} {k : Nat} {r : Req} (hreq : reqOf s k = some r)
    (h : (r.resulted = true ∧ r.shadow = false) ∨ r.ended = true ∨ isDue s r.instant = false) : completionInstant s k = s := by
  simp [completionInstant, hreq, h]

/-- What follows the front end's completion: a module releases the result of its own request, and a shadow holds it (R384). -/
def releaseUnlessShadow (c : State) (k : Nat) : State :=
  match reqOf c k with
  | none => c
  | some r => if r.shadow = true then c else releaseResult c k r

theorem completionInstant_due {s : State} {k : Nat} {r : Req} (hreq : reqOf s k = some r) (hdue : isDue s r.instant = true)
    (hopen : r.ended = false) (hheld : r.resulted = true → r.shadow = true) :
    completionInstant s k = releaseUnlessShadow (completeFront s k) k := by
  have hacts : ¬((r.resulted = true ∧ (!r.shadow) = true) ∨ r.ended = true ∨ (!isDue s r.instant) = true) := by
    simpa [hopen, hdue] using hheld
  simp only [completionInstant, hreq, if_neg hacts]
  rfl

/-! ## How the released result goes on (R266, R331, R389) -/

/-- The state in which the result of `r` has left and is journaled, before DEST is followed. -/
def resultShown (c : State) (k : Nat) (r : Req) : State :=
  setReq (journalFor (sendResult c r (resultParts c r)) r.role 0x08 r.seq (natLE 8 r.instant)).1 k (some { r with resulted := true })

section
variable {r : Req} {p : PackBlk} {e : Nat} (c : State) (k : Nat)

theorem releaseResult_no_prompt (hpack : r.pack = none) : releaseResult c k r = endReq (resultShown c k r) k := by
  simp [releaseResult, hpack, resultShown]

theorem releaseResult_host (hpack : r.pack = some p) (hdest : p.dest = 0) :
    releaseResult c k r = endReq (resultShown c k r) k := by
  cases hast : r.ast <;> simp [releaseResult, hpack, hast, hdest, resultShown]

theorem releaseResult_generate (hpack : r.pack = some p) (hast : r.ast = some e) (hdest : p.dest = 1) :
    releaseResult c k r =
      if r.adopted = true then replaySeq (resultShown c k r) e r.prompt else enterPrefill (resultShown c k r) e r.prompt := by
  simp [releaseResult, hpack, hast, hdest, resultShown]

theorem releaseResult_generate_and_peer (hpack : r.pack = some p) (hast : r.ast = some e) (hdest : p.dest = 3) :
    releaseResult c k r = enterPrefill (sendPrompt (resultShown c k r) r) e r.prompt := by
  simp [releaseResult, hpack, hast, hdest, resultShown]

theorem releaseResult_peer (hpack : r.pack = some p) (hast : r.ast = none) (hdest : p.dest = 2) :
    releaseResult c k r = endReq (sendPrompt (resultShown c k r) r) k := by
  simp [releaseResult, hpack, hast, hdest, resultShown]

end

/-- Settles O42: the instant's guard, then the five ways in which a released result goes on. -/
theorem completionInstantReleasesTheResult : Obligations.CompletionInstantReleasesTheResult := by
  refine ⟨fun s k h => ?_, fun s k r hreq hdue hopen hheld => ?_, fun c k r => ⟨fun h => ?_, fun p e hpack hast hdest => ?_,
    fun p e hpack hast hdest => ?_, fun p hpack hast hdest => ?_⟩⟩
  · rw [exec_completionInstant]
    rcases h with hnone | ⟨r, hreq, hguard⟩
    · rw [completionInstant_unknown hnone]
    · rw [completionInstant_elsewhere hreq hguard]
  · rw [exec_completionInstant]
    exact congrArg done (completionInstant_due hreq hdue hopen hheld)
  · rcases h with hpack | ⟨p, hpack, hdest⟩
    · exact releaseResult_no_prompt c k hpack
    · exact releaseResult_host c k hpack hdest
  · exact releaseResult_generate c k hpack hast hdest
  · exact releaseResult_generate_and_peer c k hpack hast hdest
  · exact releaseResult_peer c k hpack hast hdest

end Sys2Proof.Proofs
end

section
/-!
SUPPORT. The statements of spec/02_beat_time.md settled: the loss of BEAT, markers, the wrap thresholds, RELOAD and SLEW_DONE, the
measure boundary and STEP_BOUNDARY. First what a counted and raised event leaves of the register words, and how an ascending
list grows; then the rules of the time unit, one part for each statement.
-/
namespace Sys2Proof.Laws

open Sys2Proof.Machine

/-! ## Register words -/

/-- R10: a 64-bit register after a write of it holds the low 64 bits. -/
theorem reg64_setReg64_mod (s : State) (a v : Nat) : reg64 (setReg64 s a v) a = v % 2 ^ 64 := by
  have hlow : v % 2 ^ 64 % 2 ^ 32 = v % 2 ^ 32 := by omega
  have hhigh : v % 2 ^ 64 / 2 ^ 32 % 2 ^ 32 = v / 2 ^ 32 % 2 ^ 32 := by omega
  have hset : setReg64 s a v = setReg64 s a (v % 2 ^ 64) := by rw [setReg64, setReg64, hlow, hhigh]
  rw [hset, reg64_setReg64 s a _ (Nat.mod_lt _ (by decide))]

theorem regsKept_setTime (s : State) (t : TimeSt) (l : List Nat) : RegsKept s (setTime s t) l := fun _ _ _ => rfl

theorem regsKept_setReg64 (s : State) (a v : Nat) : RegsKept s (setReg64 s a v) [a, a + 4] :=
  ((RegsKept.refl s _).after_setReg (by simp) _).after_setReg (by simp) _

theorem regsKept_bumpBy (s : State) (a k : Nat) : RegsKept s (bumpBy s a k) [a] := fun b hb hne => by
  rw [reg_bumpBy s a k b hb, if_neg (by simpa using hne)]

/-- A 64-bit register keeps its value where its words are kept. -/
theorem reg64_of_regsKept {s u : State} {l : List Nat} {a : Nat} (h : RegsKept s u l) (hlo : evtWord a = false ∧ a ∉ l)
    (hhi : evtWord (a + 4) = false ∧ a + 4 ∉ l) : reg64 u a = reg64 s a := by
  rw [reg64, reg64, h a hlo.1 hlo.2, h (a + 4) hhi.1 hhi.2]

theorem regBit_of_regsKept {s u : State} {l : List Nat} {a : Nat} (h : RegsKept s u l) (ha : evtWord a = false ∧ a ∉ l) (n : Nat) :
    regBit u a n = regBit s a n := by
  rw [regBit, regBit, h a ha.1 ha.2]

/-- A bit that `clearBits` clears reads 0. -/
theorem regBit_clearBits_two_pow (s : State) (a : Nat) {n : Nat} (hn : n < 32) : regBit (clearBits s a (2 ^ n)) a n = false := by
  have hcleared : (Nat.xor 0xFFFFFFFF (2 ^ n % 2 ^ 32)).testBit n = false := by
    rw [show Nat.xor 0xFFFFFFFF (2 ^ n % 2 ^ 32) = (2 ^ 32 - 1) ^^^ (2 ^ n % 2 ^ 32) from rfl, Nat.testBit_xor,
      Nat.testBit_two_pow_sub_one, Nat.testBit_mod_two_pow, Nat.testBit_two_pow_self]
    simp [hn]
  have hand : (Nat.land (reg s a) (Nat.xor 0xFFFFFFFF (2 ^ n % 2 ^ 32))).testBit n = false := by
    rw [show Nat.land (reg s a) (Nat.xor 0xFFFFFFFF (2 ^ n % 2 ^ 32)) = reg s a &&& Nat.xor 0xFFFFFFFF (2 ^ n % 2 ^ 32) from rfl,
      Nat.testBit_and, hcleared, Bool.and_false]
  rw [regBit, reg_clearBits, if_pos rfl, bit_eq_testBit, Nat.testBit_mod_two_pow, hand, Bool.and_false]

/-! ## An event that is counted at `a` and raised at `b` -/

section
variable (s : State) (a b m : Nat)

theorem countRaise_frame : ∃ r e, setBits (bump s a) b m = { s with regs := r, evt := e } := by
  obtain ⟨r, e, h⟩ := bump_frame s a
  rw [h]
  exact ⟨_, _, rfl⟩

theorem steps_countRaise : (setBits (bump s a) b m).steps = s.steps := by
  obtain ⟨r, e, h⟩ := countRaise_frame s a b m
  rw [h]

theorem regsKept_countRaise : RegsKept s (setBits (bump s a) b m) [a, b] :=
  ((RegsKept.refl s _).after_bump (by simp)).after_setBits (by simp) m

theorem reg_countRaise_counter (ha : evtWord a = false) (hab : a ≠ b) :
    reg (setBits (bump s a) b m) a = min (reg s a + 1) 0xFFFFFFFF := by
  rw [reg_setBits, if_neg hab, reg_bump s a a ha, if_pos rfl]

end

/-! ## Ascending lists -/

@[simp] theorem mem_insertAsc {x y : Nat} {l : List Nat} : y ∈ insertAsc x l ↔ y = x ∨ y ∈ l := by
  induction l with
  | nil => simp [insertAsc]
  | cons z l ih =>
    unfold insertAsc
    split
    · exact List.mem_cons
    · split
      · next heq => simp [heq]
      · simp only [List.mem_cons, ih]
        exact or_left_comm

theorem mem_foldl_insertAsc {y : Nat} {xs l : List Nat} : y ∈ xs.foldl (fun l x => insertAsc x l) l ↔ y ∈ xs ∨ y ∈ l := by
  induction xs generalizing l with
  | nil => simp
  | cons x xs ih =>
    rw [List.foldl_cons, ih, mem_insertAsc, List.mem_cons, or_assoc]
    exact or_left_comm

end Sys2Proof.Laws

namespace Sys2Proof.Proofs

open Sys2Proof Sys2Proof.Machine Sys2Proof.Laws

/-! ## HOLDOVER_ENTER (R32) -/

/-- The register words that HOLDOVER_ENTER writes. -/
def holdoverWords : List Nat := [Reg.BEAT_HOLD_START, Reg.BEAT_HOLD_START + 4, Reg.BEAT_CNT_HOLDOVER, Reg.BEAT_INT_STATUS]

theorem holdoverEnter_frame (s : State) : ∃ r e, holdoverEnter s = { s with regs := r, evt := e } :=
  countRaise_frame (setReg64 s Reg.BEAT_HOLD_START (nextEdge s)) _ _ _

@[simp] theorem holdoverEnter_time (s : State) : (holdoverEnter s).time = s.time := by
  obtain ⟨r, e, h⟩ := holdoverEnter_frame s
  rw [h]

theorem regsKept_holdoverEnter (s : State) : RegsKept s (holdoverEnter s) holdoverWords :=
  ((regsKept_setReg64 s _ _).mono (by simp [holdoverWords])).trans ((regsKept_countRaise _ _ _ _).mono (by simp [holdoverWords]))

theorem reg64_holdStart_holdoverEnter (s : State) : reg64 (holdoverEnter s) Reg.BEAT_HOLD_START = nextEdge s % 2 ^ 64 :=
  (reg64_of_regsKept (regsKept_countRaise _ _ _ _) (by decide) (by decide)).trans (reg64_setReg64_mod _ _ _)

theorem reg_cntHoldover_holdoverEnter (s : State) :
    reg (holdoverEnter s) Reg.BEAT_CNT_HOLDOVER = min (reg s Reg.BEAT_CNT_HOLDOVER + 1) 0xFFFFFFFF := by
  rw [holdoverEnter, reg_countRaise_counter _ _ _ _ (by decide) (by decide), regsKept_setReg64 s _ _ _ (by decide) (by decide)]

theorem regBit_holdoverEnter (s : State) : regBit (holdoverEnter s) Reg.BEAT_INT_STATUS 0 = true :=
  regBit_setBits _ _ (by decide) (by decide)

/-- `u` is `s` after a loss that entered HOLDOVER: the words of R32 as it writes them, and of the rest only the time block, event
counters and the words of `l` may differ. -/
structure HoldoverEntered (s u : State) (l : List Nat) : Prop where
  frame : u = { s with time := u.time, regs := u.regs, evt := u.evt }
  start : reg64 u Reg.BEAT_HOLD_START = nextEdge s % 2 ^ 64
  count : reg u Reg.BEAT_CNT_HOLDOVER = min (reg s Reg.BEAT_CNT_HOLDOVER + 1) 0xFFFFFFFF
  raised : regBit u Reg.BEAT_INT_STATUS 0 = true
  kept : RegsKept s u (l ++ holdoverWords)

theorem holdoverEnter_enters {s v : State} {l : List Nat} (hframe : v = { s with time := v.time, regs := v.regs })
    (hbeat : v.time.beat = s.time.beat) (hkept : RegsKept s v l) (hcount : Reg.BEAT_CNT_HOLDOVER ∉ l) :
    HoldoverEntered s (holdoverEnter v) l where
  frame := by
    obtain ⟨r, e, h⟩ := holdoverEnter_frame v
    rw [h, hframe]
  start := by rw [reg64_holdStart_holdoverEnter, nextEdge, nextEdge, hbeat]
  count := by rw [reg_cntHoldover_holdoverEnter, hkept _ (by decide) hcount]
  raised := regBit_holdoverEnter v
  kept := (hkept.mono (List.subset_append_left l _)).trans ((regsKept_holdoverEnter v).mono (List.subset_append_right l _))

/-! ## The loss of BEAT (R21, R32) -/

/-- What a loss of BEAT clears in the time block, whatever the mode. -/
def lossCleared (t : TimeSt) : TimeSt :=
  { t with cleanMeasures := 0, slewLeft := 0, wholeMeasure := false, exitFrom := none, mismatch := none }

/-- The modes in which a loss of BEAT enters HOLDOVER: LOCKED, SLEWING, and FAULT on BEAT. -/
def FollowsBeat (t : TimeSt) : Prop := t.mode = .locked ∨ t.mode = .slewing ∨ (t.mode = .fault ∧ t.synth = false)

/-- The time block after a loss that enters HOLDOVER; FAULT stays, on the synthesiser. -/
def holdoverTime (t : TimeSt) : TimeSt :=
  if t.mode = .fault then { lossCleared t with synth := true, firstFrame := none } else { lossCleared t with mode := .holdover }

theorem holdoverTime_fault {t : TimeSt} (h : t.mode = .fault) :
    holdoverTime t = { lossCleared t with synth := true, firstFrame := none } := by
  simp [holdoverTime, h]

theorem holdoverTime_following {t : TimeSt} (h : t.mode = .locked ∨ t.mode = .slewing) :
    holdoverTime t = { lossCleared t with mode := .holdover } := by
  rcases h with h | h <;> simp [holdoverTime, h]

@[simp] theorem holdoverTime_beat (t : TimeSt) : (holdoverTime t).beat = t.beat := by
  unfold holdoverTime
  split <;> rfl

@[simp] theorem holdoverTime_overRange (t : TimeSt) : (holdoverTime t).overRange = t.overRange := by
  unfold holdoverTime
  split <;> rfl

@[simp] theorem holdoverTime_rangeWarn (t : TimeSt) : (holdoverTime t).rangeWarn = t.rangeWarn := by
  unfold holdoverTime
  split <;> rfl

@[simp] theorem localIsBeat_holdoverTime (t : TimeSt) : localIsBeat (holdoverTime t) = false := by
  unfold holdoverTime
  split
  · next h => simp [localIsBeat, lossCleared, h]
  · rfl

section
variable {s : State}

theorem beatLoss_unset (h : s.time.mode = .unset) : beatLoss s = setTime s { lossCleared s.time with firstFrame := none } := by
  simp [beatLoss, h, lossCleared]

theorem beatLoss_synthesised (h : s.time.mode = .holdover ∨ (s.time.mode = .fault ∧ s.time.synth = true)) :
    beatLoss s = setTime s (lossCleared s.time) := by
  rcases h with h | ⟨h, hsynth⟩
  · simp [beatLoss, h, lossCleared]
  · simp [beatLoss, h, hsynth, lossCleared]

theorem beatLoss_follows (h : FollowsBeat s.time) : beatLoss s = holdoverEnter (setTime s (holdoverTime s.time)) := by
  rcases h with h | h | ⟨h, hsynth⟩
  · simp [beatLoss, h, holdoverTime, lossCleared]
  · simp [beatLoss, h, holdoverTime, lossCleared]
  · simp [beatLoss, h, hsynth, holdoverTime, lossCleared]

end

/-- A loss of BEAT replaces the time block, keeping the frequency's verdict, and may enter HOLDOVER (R32). -/
theorem beatLoss_cases (s : State) : ∃ t : TimeSt, (beatLoss s = setTime s t ∨ beatLoss s = holdoverEnter (setTime s t))
    ∧ t.overRange = s.time.overRange ∧ t.rangeWarn = s.time.rangeWarn := by
  cases hmode : s.time.mode with
  | unset => exact ⟨_, .inl (beatLoss_unset hmode), rfl, rfl⟩
  | locked => exact ⟨_, .inr (beatLoss_follows (.inl hmode)), holdoverTime_overRange _, holdoverTime_rangeWarn _⟩
  | holdover => exact ⟨_, .inl (beatLoss_synthesised (.inl hmode)), rfl, rfl⟩
  | slewing => exact ⟨_, .inr (beatLoss_follows (.inr (.inl hmode))), holdoverTime_overRange _, holdoverTime_rangeWarn _⟩
  | fault =>
    cases hsynth : s.time.synth with
    | true => exact ⟨_, .inl (beatLoss_synthesised (.inr ⟨hmode, hsynth⟩)), rfl, rfl⟩
    | false =>
      exact ⟨_, .inr (beatLoss_follows (.inr (.inr ⟨hmode, hsynth⟩))), holdoverTime_overRange _, holdoverTime_rangeWarn _⟩

theorem beatLost_present {s : State} (h : beatPresent s.time = true) :
    beatLost s = beatLoss (setTime s { s.time with beatIn := false }) := by
  simp [beatLost, h]

theorem exec_beatLost_unset {s : State} (hpres : beatPresent s.time = true) (hmode : s.time.mode = .unset) :
    exec .beatLost s = .next (settle (setTime s { lossCleared { s.time with beatIn := false } with firstFrame := none })) :=
  congrArg done ((beatLost_present hpres).trans (beatLoss_unset hmode))

theorem exec_beatLost_follows {s : State} (hpres : beatPresent s.time = true) (h : FollowsBeat s.time) :
    ∃ u, exec .beatLost s = .next (settle u) ∧ HoldoverEntered s u [] ∧ u.time = holdoverTime { s.time with beatIn := false } := by
  refine ⟨_, congrArg done ((beatLost_present hpres).trans (beatLoss_follows h)), ?_, holdoverEnter_time _⟩
  exact holdoverEnter_enters rfl (holdoverTime_beat _) (regsKept_setTime s _ _) (by decide)

/-! ## FORCE_HOLDOVER (R21) -/

/-- `s` with the time block `t` and FORCE_HOLDOVER set. -/
def forcedState (s : State) (t : TimeSt) : State := setBits (setTime s t) Reg.BEAT_CTRL 2

theorem regBit_forcedState (s : State) (t : TimeSt) : regBit (forcedState s t) Reg.BEAT_CTRL 1 = true :=
  regBit_setBits _ _ (by decide) (by decide)

theorem regsKept_forcedState (s : State) (t : TimeSt) : RegsKept s (forcedState s t) [Reg.BEAT_CTRL] :=
  (regsKept_setTime s t _).after_setBits List.mem_cons_self _

theorem forceHoldover_present {s : State} (h : beatPresent s.time = true) :
    forceHoldover s true = beatLoss (forcedState s { s.time with forced := true }) := by
  simp [forceHoldover, h, putBit, forcedState]

section
variable {s : State} (hreach : hostReaches s Reg.BEAT_CTRL = true)
include hreach

theorem exec_forceHoldover (on : Bool) : exec (.forceHoldover on) s = .next (settle (forceHoldover s on)) := by
  simp only [exec, execForceHoldover]
  exact host_running _ hreach

theorem exec_forceHoldover_unset (hpres : beatPresent s.time = true) (hmode : s.time.mode = .unset) :
    exec (.forceHoldover true) s
      = .next (settle (forcedState s { lossCleared { s.time with forced := true } with firstFrame := none })) :=
  (exec_forceHoldover hreach true).trans (congrArg done ((forceHoldover_present hpres).trans (beatLoss_unset hmode)))

theorem exec_forceHoldover_follows (hpres : beatPresent s.time = true) (h : FollowsBeat s.time) :
    ∃ u, exec (.forceHoldover true) s = .next (settle u) ∧ HoldoverEntered s u [Reg.BEAT_CTRL]
      ∧ regBit u Reg.BEAT_CTRL 1 = true ∧ u.time = holdoverTime { s.time with forced := true } := by
  have hexec := (exec_forceHoldover hreach true).trans (congrArg done ((forceHoldover_present hpres).trans (beatLoss_follows h)))
  refine ⟨_, hexec, ?_, ?_, holdoverEnter_time _⟩
  · exact holdoverEnter_enters rfl (holdoverTime_beat _) (regsKept_forcedState s _) (by decide)
  · exact (regBit_of_regsKept (regsKept_holdoverEnter _) (by decide) 1).trans (regBit_forcedState s _)

end

/-- The state in which FORCE_HOLDOVER has been cleared. -/
def unforcedState (s : State) : State := clearBits (setTime s { s.time with forced := false }) Reg.BEAT_CTRL (2 ^ 1)

theorem regsKept_unforcedState (s : State) : RegsKept s (unforcedState s) [Reg.BEAT_CTRL] :=
  (regsKept_setTime s _ _).after_clearBits List.mem_cons_self _

theorem forceHoldover_clear {s : State} (hforced : s.time.forced = true) : forceHoldover s false = beatBack (unforcedState s) := by
  simp [forceHoldover, hforced, putBit, unforcedState]

/-! ## The return of BEAT (R34) -/

/-- Off a boundary a returning BEAT makes no measure whole. -/
theorem beatBack_off_boundary {s : State} (h : atMeasure s = false) : beatBack s = s := by
  simp [beatBack, h]

/-- Whether the edge is a boundary depends on the mode, the count and N, and N on the image and BEAT_MEASURE_OBS. -/
theorem atMeasure_congr {s u : State} (hmode : u.time.mode = s.time.mode) (hck : u.time.ck = s.time.ck)
    (hbeat : u.time.beat = s.time.beat) (himage : u.bond = s.bond)
    (hobs : reg u Reg.BEAT_MEASURE_OBS = reg s Reg.BEAT_MEASURE_OBS) : atMeasure u = atMeasure s := by
  have hn : measureN u = measureN s := by rw [measureN, measureN, himage, hobs]
  simp [atMeasure, hasCount, hmode, hck, hbeat, hn]

theorem exec_beatReturn_off_boundary {s : State} (hin : s.time.beatIn = false) (hoff : atMeasure s = false) :
    exec .beatReturn s = .next (settle (setTime s { s.time with beatIn := true })) := by
  have hoff' : atMeasure (setTime s { s.time with beatIn := true }) = false :=
    (atMeasure_congr (s := s) (u := setTime s _) rfl rfl rfl rfl rfl).trans hoff
  simp [exec, execBeatReturn, beatReturn, hin, beatBack_off_boundary hoff', done_eq]

theorem exec_forceHoldover_clear_off_boundary {s : State} (hreach : hostReaches s Reg.BEAT_CTRL = true)
    (hforced : s.time.forced = true) (hoff : atMeasure s = false) :
    exec (.forceHoldover false) s = .next (settle (unforcedState s)) := by
  have hobs : reg (unforcedState s) Reg.BEAT_MEASURE_OBS = reg s Reg.BEAT_MEASURE_OBS :=
    regsKept_unforcedState s _ (by decide) (by decide)
  have hoff' : atMeasure (unforcedState s) = false :=
    (atMeasure_congr (s := s) (u := unforcedState s) rfl rfl rfl rfl hobs).trans hoff
  rw [exec_forceHoldover hreach, forceHoldover_clear hforced, beatBack_off_boundary hoff']

/-- Settles O11: a loss in a mode that follows BEAT enters HOLDOVER, forced or not; in UNSET it abandons the pair of frames. -/
theorem beatLossEntersHoldover : Obligations.BeatLossEntersHoldover := by
  have hfollows {s : State} (h : s.time.mode = .locked ∨ s.time.mode = .slewing) : FollowsBeat s.time := h.imp_right .inl
  refine ⟨fun s hpres hmode => ?_, fun s hpres hmode hsynth => ?_, fun s hpres hmode => exec_beatLost_unset hpres hmode,
    fun s hreach hpres hmode => ?_, fun s hreach hpres hmode hsynth => ?_, fun s hreach hpres hmode => ?_,
    fun s hreach hforced hoff => ?_, fun s hin hoff => exec_beatReturn_off_boundary hin hoff⟩
  · obtain ⟨u, hexec, ⟨hframe, hstart, hcount, hraised, hkept⟩, htime⟩ := exec_beatLost_follows hpres (hfollows hmode)
    exact ⟨u, hexec, hframe, htime ▸ localIsBeat_holdoverTime _, htime.trans (holdoverTime_following hmode), hstart, hcount,
      hraised, hkept⟩
  · obtain ⟨u, hexec, ⟨hframe, hstart, hcount, hraised, hkept⟩, htime⟩ := exec_beatLost_follows hpres (.inr (.inr ⟨hmode, hsynth⟩))
    exact ⟨u, hexec, hframe, htime.trans (holdoverTime_fault hmode), htime ▸ localIsBeat_holdoverTime _, hstart, hcount,
      hraised, hkept⟩
  · obtain ⟨u, hexec, ⟨hframe, hstart, hcount, hraised, hkept⟩, hforced, htime⟩ :=
      exec_forceHoldover_follows hreach hpres (hfollows hmode)
    exact ⟨u, hexec, hframe, htime.trans (holdoverTime_following hmode), hstart, hcount, hforced, hraised, hkept⟩
  · obtain ⟨u, hexec, ⟨hframe, hstart, hcount, hraised, hkept⟩, hforced, htime⟩ :=
      exec_forceHoldover_follows hreach hpres (.inr (.inr ⟨hmode, hsynth⟩))
    exact ⟨u, hexec, hframe, htime.trans (holdoverTime_fault hmode), hstart, hcount, hforced, hraised, hkept⟩
  · exact ⟨_, exec_forceHoldover_unset hreach hpres hmode, rfl, rfl, regBit_forcedState s _, regsKept_forcedState s _⟩
  · exact ⟨_, exec_forceHoldover_clear_off_boundary hreach hforced hoff, rfl, regBit_clearBits_two_pow _ _ (by decide),
      regsKept_unforcedState s⟩

/-! ## Markers (R26), and frames that stay away (R32) -/

/-- `s` with a marker remembered at its edge. -/
def markedState (s : State) : State :=
  setTime s { s.time with marker := some (s.time.rawBeats, now s), markerSeen := true }

theorem measureMarker_slip {s : State} (hslip : slipTest s = true) (hoff : s.time.beat % max (measureN s) 1 ≠ 0) :
    measureMarker s = slip (markedState s) := by
  simp [measureMarker, hslip, hoff, markedState]

theorem measureMarker_noSlip {s : State} (h : slipTest s = false ∨ s.time.beat % max (measureN s) 1 = 0) :
    measureMarker s = markedState s := by
  rcases h with h | h <;> simp [measureMarker, h, markedState]

theorem tcLost_due {s : State} (h : 3 ≤ s.time.framesMissed) : tcLost s = setTime s { s.time with tcLost := true } := if_pos h

theorem slip_frame (s : State) : ∃ r e, slip s = { s with regs := r, evt := e } := countRaise_frame s _ _ _

/-- Settles O12: a marker slips off a boundary, while the local beat is BEAT itself. -/
theorem markersAreCheckedAgainstBoundaries : Obligations.MarkersAreCheckedAgainstBoundaries := by
  refine ⟨fun s hslip hoff => ?_, fun s h => congrArg done (measureMarker_noSlip h),
    fun s hmissed => congrArg done (tcLost_due hmissed)⟩
  refine ⟨slip (markedState s), congrArg done (measureMarker_slip hslip hoff), ?_, ?_, ?_, ?_⟩
  · obtain ⟨r, e, h⟩ := slip_frame (markedState s)
    rw [h]
    rfl
  · exact reg_countRaise_counter (markedState s) _ _ _ (by decide) (by decide)
  · exact regBit_setBits _ _ (by decide) (by decide)
  · exact (regsKept_setTime s _ _).trans (regsKept_countRaise (markedState s) _ _ _)

/-! ## The end of the count (R25) -/

section
variable {s : State}

theorem wrapNear_reached (hcount : hasCount s = true) (hbeat : 0xFF0000000000 ≤ s.time.beat) (hclear : s.time.wrapNear = false) :
    wrapNear s = setBits (setTime s { s.time with wrapNear := true }) Reg.BEAT_INT_STATUS 32 := by
  simp [wrapNear, hcount, hbeat, hclear]

theorem wrapFault_reached (hcount : hasCount s = true) (hbeat : 0xFFFFFFFF0000 ≤ s.time.beat) (hcause : s.time.cause ≠ .wrap) :
    wrapFault s = admitCtrl (timeFault s .wrap) false := by
  simp [wrapFault, hcount, hbeat, hcause]

theorem wrapHold_reached (hcount : hasCount s = true) (hbeat : 0xFFFFFFFFFFFF ≤ s.time.beat) :
    wrapHold s = setTime s { s.time with hold := true } := by
  simp [wrapHold, hcount, hbeat]

/-- FAULT entered from another mode (R22, R29). -/
theorem timeFault_enters (c : FaultCause) (h : s.time.mode ≠ .fault) :
    timeFault s c = setBits (setTime s { s.time with
      mode := .fault, cause := c, synth := decide (s.time.mode = .holdover), slewLeft := 0, mismatch := none
      firstFrame := none }) Reg.BEAT_INT_STATUS 4 := by
  simp [timeFault, h]

end

/-! ## RELOAD (R30) and SLEW_DONE (R34) -/

section
variable {s : State}

theorem exec_reload (hreach : hostReaches s Reg.BEAT_CTRL = true) : exec .reload s = .next (settle (reload s)) := by
  simp only [exec, execReload]
  exact host_running _ hreach

theorem reload_taken (hmode : s.time.mode = .unset ∨ s.time.mode = .fault) (hidle : inFlight s = false) :
    reload s = setTime s { s.time with reloadPending := true } := by
  simp [reload, hmode, hidle]

theorem reload_refused (h : (s.time.mode ≠ .unset ∧ s.time.mode ≠ .fault) ∨ inFlight s = true) :
    reload s = setBits s Reg.BEAT_INT_STATUS 64 := by
  rcases h with ⟨hunset, hfault⟩ | hbusy
  · simp [reload, hunset, hfault]
  · simp [reload, hbusy]

theorem slewDone_open (h : s.time.slewLeft ≠ 0) : slewDone s = s := by
  simp [slewDone, h]

theorem slewDone_relock (hmode : s.time.mode = .slewing) (hleft : s.time.slewLeft = 0) : slewDone s = relock s := by
  simp [slewDone, hmode, hleft]

/-- Outside TIME_WAIT a lock only changes the time block and raises HOLDOVER_EXIT. -/
theorem relock_outside_timeWait (h : s.topo.stage ≠ .timeWait) :
    relock s = setBits (setTime s { s.time with
      mode := .locked, slewLeft := 0, cause := .none, exitFrom := none, cleanMeasures := 0 }) Reg.BEAT_INT_STATUS 2 := by
  simp [relock, timeWaitDone, h]

end

theorem now_of_hold {s : State} (h : s.time.hold = true) : now s = s.time.beat * 65536 + 0xFFFF := by
  simp [now, h]

/-- Settles O14: each command acts at its threshold, or in its mode. -/
theorem wrapThresholdsReloadAndSlewing : Obligations.WrapThresholdsReloadAndSlewing := by
  have hraises (s : State) (t : TimeSt) (m : Nat) :
      RegsKept s (setBits (setTime s t) Reg.BEAT_INT_STATUS m) [Reg.BEAT_INT_STATUS] :=
    (regsKept_setTime s t _).after_setBits List.mem_cons_self m
  refine ⟨fun s hcount hbeat hclear => ?_, fun s hcount hbeat hcause hmode => ?_, fun s hcount hbeat => ?_,
    fun s hreach hmode hidle => ?_, fun s hreach h => ?_, fun s _ hleft => congrArg done (slewDone_open hleft),
    fun s hmode hleft hstage => ?_⟩
  · exact ⟨_, congrArg done (wrapNear_reached hcount hbeat hclear), rfl, regBit_setBits _ _ (by decide) (by decide), hraises s _ _⟩
  · refine ⟨timeFault s .wrap, congrArg done (wrapFault_reached hcount hbeat hcause), ?_⟩
    rw [timeFault_enters .wrap hmode]
    exact ⟨rfl, rfl, regBit_setBits _ _ (by decide) (by decide), hraises s _ _⟩
  · refine ⟨_, congrArg done (wrapHold_reached hcount (Nat.le_of_eq hbeat.symm)), rfl, ?_⟩
    exact (now_of_hold rfl).trans (by simp [setTime, hbeat])
  · rw [exec_reload hreach, reload_taken hmode hidle]
    rfl
  · refine ⟨_, (exec_reload hreach).trans (congrArg done (reload_refused h)), rfl, regBit_setBits _ _ (by decide) (by decide), ?_⟩
    exact (RegsKept.refl s _).after_setBits List.mem_cons_self _
  · refine ⟨_, congrArg done ((slewDone_relock hmode hleft).trans (relock_outside_timeWait hstage)), rfl, ?_,
      regBit_setBits _ _ (by decide) (by decide), hraises s _ _⟩
    simp [setTime, hleft]

/-! ## The measure boundary (R26, R21, R462) -/

section
variable {s : State} (hz cycles : Nat)

theorem measureBoundary_taken (hat : atMeasure s = true) (hnew : s.time.measureAt ≠ s.time.beat + 1) :
    measureBoundary s hz cycles = evtSnapshot (dropOld (heartbeatSend (pairBoundary (heartbeatCount (plinthBoundary (governor
      (shareBoundary (beatBoundary (setTime s { s.time with measureAt := s.time.beat + 1 }) (hz % 2 ^ 32) cycles)))))))) := by
  simp [measureBoundary, hat, hnew]

theorem measureBoundary_idle (h : atMeasure s = false ∨ s.time.measureAt = s.time.beat + 1) : measureBoundary s hz cycles = s := by
  rcases h with h | h <;> simp [measureBoundary, h]

end

/-- The snapshot of an enabled measure boundary (R462). -/
theorem evtSnapshot_enabled {s : State} (h : regBit s Reg.EVT_CTRL 2 = true) :
    evtSnapshot s = setReg64 { s with evt := { s.evt with snap := s.evt.cnt } } Reg.EVT_SNAP_TIME (stamp s.time.beat 0) := by
  simp [evtSnapshot, h]

/-- A loss of BEAT writes the words of HOLDOVER_ENTER only. -/
theorem regsKept_beatLoss (s : State) : RegsKept s (beatLoss s) holdoverWords := by
  obtain ⟨t, h | h, -⟩ := beatLoss_cases s
  · exact h ▸ regsKept_setTime s t _
  · exact h ▸ (regsKept_setTime s t _).trans (regsKept_holdoverEnter _)

/-- A loss of BEAT keeps the verdict on its frequency. -/
theorem beatLoss_verdict (s : State) :
    (beatLoss s).time.overRange = s.time.overRange ∧ (beatLoss s).time.rangeWarn = s.time.rangeWarn := by
  obtain ⟨t, h | h, hverdict⟩ := beatLoss_cases s
  · exact h ▸ hverdict
  · rw [h, holdoverEnter_time]
    exact hverdict

/-- The state in which the frequency of a measure has been entered, before a loss acts (R21). -/
def frequencyEntered (s : State) (hz : Nat) : State :=
  setTime (setReg s Reg.BEAT_FREQ hz) { s.time with
    rangeWarn := decide (1000 < deviationPpm hz ∧ deviationPpm hz ≤ 1100)
    overRange := decide (1100 < deviationPpm hz) }

section
variable (s : State) {hz : Nat} (hpos : 0 < hz)
include hpos

theorem beatMeasured_eq :
    beatMeasured s hz = if beatPresent s.time = true ∧ 1100 < deviationPpm hz then beatLoss (frequencyEntered s hz)
      else frequencyEntered s hz := by
  have hedges : hz ≠ 0 := Nat.ne_of_gt hpos
  simp [beatMeasured, frequencyEntered, hedges]

theorem reg_freq_beatMeasured (hlt : hz < 2 ^ 32) : reg (beatMeasured s hz) Reg.BEAT_FREQ = hz := by
  have hentered : reg (frequencyEntered s hz) Reg.BEAT_FREQ = hz := (reg_setReg_self s _ hz).trans (Nat.mod_eq_of_lt hlt)
  rw [beatMeasured_eq s hpos]
  split
  · rw [regsKept_beatLoss _ _ (by decide) (by decide), hentered]
  · exact hentered

theorem beatMeasured_verdict :
    (beatMeasured s hz).time.overRange = decide (1100 < deviationPpm hz)
      ∧ (beatMeasured s hz).time.rangeWarn = decide (1000 < deviationPpm hz ∧ deviationPpm hz ≤ 1100) := by
  rw [beatMeasured_eq s hpos]
  split
  · exact beatLoss_verdict (frequencyEntered s hz)
  · exact ⟨rfl, rfl⟩

/-- R21: a present BEAT whose frequency is too far off is lost. -/
theorem beatMeasured_lost (hout : 1100 < deviationPpm hz) (hpres : beatPresent s.time = true) (hmode : s.time.mode = .locked) :
    (beatMeasured s hz).time.mode = .holdover := by
  have hlocked : (frequencyEntered s hz).time.mode = .locked := hmode
  rw [beatMeasured_eq s hpos, if_pos ⟨hpres, hout⟩, beatLoss_follows (.inl hlocked), holdoverEnter_time]
  exact congrArg TimeSt.mode (holdoverTime_following (.inl hlocked))

theorem beatMeasured_kept (hin : deviationPpm hz ≤ 1100) : (beatMeasured s hz).time.mode = s.time.mode := by
  rw [beatMeasured_eq s hpos, if_neg fun h => Nat.not_le_of_gt h.2 hin]
  rfl

end

/-- Settles O16: the boundary is taken once, and BEAT's frequency decides whether BEAT stays. -/
theorem measureBoundaryIsTakenOnce : Obligations.MeasureBoundaryIsTakenOnce := by
  refine ⟨fun s hz cycles hat hnew => congrArg done (measureBoundary_taken hz cycles hat hnew),
    fun s hz cycles h => congrArg done (measureBoundary_idle hz cycles h), fun s hen n => ?_, fun s hz hpos hlt => ?_⟩
  · rw [evtSnapshot_enabled hen]
    exact ⟨rfl, reg64_setReg64_mod _ _ _⟩
  · obtain ⟨hover, hwarn⟩ := beatMeasured_verdict s hpos
    exact ⟨reg_freq_beatMeasured s hpos hlt, hover, hwarn, beatMeasured_lost s hpos, beatMeasured_kept s hpos⟩

/-! ## STEP_BOUNDARY (R31, R47) -/

section
variable {s : State} {i : SectionNo} (io : StepIn)

theorem stepBoundary_due {x : Section} (hsect : sectionOf s i = some x) (hdue : boundaryDue s x = true) :
    stepBoundary s i io = beginStep (endStep (gatesFirst s) x s.time.beat io) x s.time.beat io := by
  simp [stepBoundary, hsect, hdue]

theorem stepBoundary_elsewhere (h : ∀ x, sectionOf s i = some x → boundaryDue s x = false) : stepBoundary s i io = s := by
  unfold stepBoundary
  split
  · rfl
  · next x hx => simp [h x hx]

end

theorem stepOf_openStep (s : State) (i b : Nat) : stepOf (openStep s i b) i = { at_ := b + 1, lost := [], work := [] } := by
  simp [stepOf, openStep]

theorem lost_loseItems (s : State) (i : Nat) (items : List Nat) :
    (stepOf (loseItems s i items) i).lost = items.foldl (fun l k => insertAsc k l) (stepOf s i).lost := by
  simp [stepOf, loseItems, tmod]

/-- The state of an overrun before STEP_OVERRUN counts: the items cut short are counted, those unfinished are lost. -/
def itemsLost (s : State) (x : Section) : State :=
  loseItems (bumpBy s Reg.SERVE_CNT_PREEMPT (cutItems s x).length) x.id
    ((lateCores s x).flatMap fun c => unfinished (Machine.core s c))

/-- An overrun in which no core waits at a merge. -/
theorem overrun_stopped {s : State} {x : Section} (hlate : lateCores s x ≠ []) (hmerge : ∀ c ∈ lateCores s x, atMerge s c = false) :
    overrun s x = setBits (bump (itemsLost s x) Reg.BOND_CNT_OVERRUN) Reg.BOND_INT_STATUS 128 := by
  have hnone : (lateCores s x).filter (atMerge s) = [] := by simpa using hmerge
  have hsome : (lateCores s x).all (atMerge s) = false := by
    obtain ⟨c, hc⟩ := List.exists_mem_of_ne_nil _ hlate
    exact List.all_eq_false.mpr ⟨c, hc, by simp [hmerge c hc]⟩
  simp [overrun, hnone, hsome, itemsLost]

theorem itemsLost_frame (s : State) (x : Section) : ∃ r e p, itemsLost s x = { s with regs := r, evt := e, steps := p } := by
  obtain ⟨r, e, h⟩ := bumpBy_frame s Reg.SERVE_CNT_PREEMPT (cutItems s x).length
  rw [itemsLost, h]
  exact ⟨_, _, _, rfl⟩

theorem regsKept_itemsLost (s : State) (x : Section) : RegsKept s (itemsLost s x) [Reg.SERVE_CNT_PREEMPT] :=
  regsKept_bumpBy s _ _

theorem reg_preempt_itemsLost (s : State) (x : Section) :
    reg (itemsLost s x) Reg.SERVE_CNT_PREEMPT = min (reg s Reg.SERVE_CNT_PREEMPT + (cutItems s x).length) 0xFFFFFFFF :=
  (reg_bumpBy s _ _ _ (by decide)).trans (if_pos rfl)

theorem mem_lost_itemsLost {s : State} {x : Section} {c i : Nat} (hc : c ∈ lateCores s x) (hi : i ∈ unfinished (Machine.core s c)) :
    i ∈ (stepOf (itemsLost s x) x.id).lost := by
  rw [itemsLost, lost_loseItems]
  exact mem_foldl_insertAsc.mpr (.inl (List.mem_flatMap.mpr ⟨c, hc, hi⟩))

/-- Settles O18: the boundary by its guard, the overrun by what it counts and what it gives up. -/
theorem stepBoundaryEndsAndBegins : Obligations.StepBoundaryEndsAndBegins := by
  refine ⟨fun s i io x hsect hdue => congrArg doneHost (stepBoundary_due io hsect hdue),
    fun s i io h => congrArg doneHost (stepBoundary_elsewhere io h), fun s x b => stepOf_openStep s x.id b,
    fun s x hlate hmerge => ?_⟩
  dsimp only
  rw [overrun_stopped hlate hmerge]
  have hraised := regsKept_countRaise (itemsLost s x) Reg.BOND_CNT_OVERRUN Reg.BOND_INT_STATUS 128
  refine ⟨?_, ?_, regBit_setBits _ _ (by decide) (by decide), ?_, ?_, fun c hc i hi => ?_⟩
  · obtain ⟨r, e, p, h⟩ := itemsLost_frame s x
    obtain ⟨r', e', h'⟩ := countRaise_frame (itemsLost s x) Reg.BOND_CNT_OVERRUN Reg.BOND_INT_STATUS 128
    rw [h', h]
  · rw [reg_countRaise_counter _ _ _ _ (by decide) (by decide), regsKept_itemsLost s x _ (by decide) (by decide)]
  · rw [hraised _ (by decide) (by decide), reg_preempt_itemsLost]
  · exact ((regsKept_itemsLost s x).mono (by simp)).trans (hraised.mono (by simp))
  · rw [stepOf, steps_countRaise]
    exact mem_lost_itemsLost hc hi

end Sys2Proof.Proofs
end

section
/-!
SUPPORT. The statement of spec/04_number_formats.md settled: what a conversion to MXINT8 stores (R68, R77, R80), and the element
codes of a converted block (R79, R81).
-/
namespace Sys2Proof.Laws

open Sys2Proof.Machine

/-! ## Rounding (R77, R78) -/

/-- Every mode and every tie rounds to one of the two neighbours, and the quotient is the lower one. -/
theorem div_le_roundMag (mode : RMode) (neg : Bool) (n d : Nat) : n / d ≤ roundMag mode neg n d := by
  cases mode with
  | nearest =>
    simp only [roundMag]
    repeat' split
    all_goals omega
  | keyed u =>
    simp only [roundMag]
    repeat' split
    all_goals omega

/-! ## One element to MXINT8 (R68, R80) -/

/-- The MXINT8 code of a sign and a magnitude in units of 1/64: two's complement, with one zero. -/
def int8Code (neg : Bool) (k : Nat) : Nat := if neg ∧ 0 < k then 256 - k else k

theorem int8Code_range (neg : Bool) {k : Nat} (hk : k ≤ 127) :
    int8Code neg k ≤ 0x7F ∨ (0x81 ≤ int8Code neg k ∧ int8Code neg k ≤ 0xFF) := by
  unfold int8Code
  split <;> omega

theorem int8Code_max (neg : Bool) : int8Code neg 127 = if neg then 0x81 else 0x7F := by
  cases neg <;> rfl

theorem encode_int8_inf (inf : Bool) (mode : RMode) (neg : Bool) :
    (Fmt.int8.encode inf mode (.inf neg)).1 = int8Code neg 127 := (int8Code_max neg).symm

/-- A finite value is rounded in units of 1/64, and its magnitude saturates at 127 on both sides of zero. -/
theorem encode_int8_fin (inf : Bool) (mode : RMode) (neg : Bool) (n d : Nat) :
    (Fmt.int8.encode inf mode (.fin neg n d)).1 = int8Code neg (min 127 (roundMag mode neg (n * 64) d)) := by
  by_cases hover : 127 < roundMag mode neg (n * 64) d
  · rw [Nat.min_eq_left (Nat.le_of_lt hover)]
    simp only [Fmt.encode, int8Code, hover, decide_true, if_true]
  · rw [Nat.min_eq_right (Nat.not_lt.mp hover)]
    simp only [Fmt.encode, int8Code, hover, decide_false, Bool.false_eq_true, if_false]

theorem encode_int8_range (inf : Bool) (mode : RMode) (v : Val) :
    (Fmt.int8.encode inf mode v).1 ≤ 0x7F
      ∨ (0x81 ≤ (Fmt.int8.encode inf mode v).1 ∧ (Fmt.int8.encode inf mode v).1 ≤ 0xFF) := by
  cases v with
  | nan => exact .inl (Nat.zero_le _)
  | inf neg => rw [encode_int8_inf]; exact int8Code_range neg (Nat.le_refl _)
  | fin neg n d => rw [encode_int8_fin]; exact int8Code_range neg (Nat.min_le_left _ _)

theorem encode_int8_ne_0x80 (inf : Bool) (mode : RMode) (v : Val) : (Fmt.int8.encode inf mode v).1 ≠ 0x80 := by
  have := encode_int8_range inf mode v
  omega

/-- A magnitude of 2 or more is 128 units or more, past the largest code. -/
theorem encode_int8_saturates (inf : Bool) (mode : RMode) (neg : Bool) {n d : Nat} (hd : 0 < d) (hn : 2 * d ≤ n) :
    (Fmt.int8.encode inf mode (.fin neg n d)).1 = int8Code neg 127 := by
  have hunits : 128 ≤ n * 64 / d := (Nat.le_div_iff_mul_le hd).mpr (by omega)
  have hround := div_le_roundMag mode neg (n * 64) d
  rw [encode_int8_fin, Nat.min_eq_left (by omega)]

/-! ## A block (R79, R81) -/

theorem encodeAll_codes (f : Fmt) (inf : Bool) (vs : List (Val × RMode)) :
    (encodeAll f inf vs).1 = vs.map fun p => (f.encode inf p.2 p.1).1 := by
  induction vs with
  | nil => rfl
  | cons p vs ih => simp only [encodeAll, ih, List.map_cons]

/-- An element code of a converted block is 0, where the block is NaN, or the conversion of one scaled value. -/
theorem mem_encodeBlock {f : Fmt} {inf : Bool} {n c : Nat} {vs : List (Val × RMode)} (hc : c ∈ (encodeBlock f inf n vs).2.1) :
    c = 0 ∨ ∃ mode v, c = (f.encode inf mode v).1 := by
  unfold encodeBlock at hc
  split at hc
  · obtain ⟨_, _, rfl⟩ := List.mem_map.mp hc
    exact .inl rfl
  · rw [encodeAll_codes] at hc
    obtain ⟨p, _, rfl⟩ := List.mem_map.mp hc
    exact .inr ⟨p.2, p.1, rfl⟩

end Sys2Proof.Laws

namespace Sys2Proof.Proofs

open Sys2Proof.Machine Sys2Proof.Laws

/-- Settles O32: a converted code is the two's complement of a magnitude of at most 127 units. -/
theorem mxInt8CodesNeverReach0x80 : Obligations.MxInt8CodesNeverReach0x80 := by
  refine ⟨⟨2, 1, by decide, by decide, rfl⟩, fun inf mode v => ⟨encode_int8_range inf mode v, ?_, ?_⟩, fun inf n vs c hc => ?_⟩
  · rintro neg rfl
    exact (encode_int8_inf inf mode neg).trans (int8Code_max neg)
  · rintro neg n d rfl hd hn
    exact (encode_int8_saturates inf mode neg hd hn).trans (int8Code_max neg)
  · obtain rfl | ⟨mode, v, rfl⟩ := mem_encodeBlock hc
    · decide
    · exact encode_int8_ne_0x80 inf mode v

end Sys2Proof.Proofs
end

section
/-!
SUPPORT. The statements of spec/05_matrix_cores.md settled. First what holds of cores, of events that count, and of a sequencer word
that issues or is held back; then one part for each statement.
-/
namespace Sys2Proof.Laws

open Sys2Proof.Machine

/-! ## Cores -/

section
variable (s : State) (c : Nat)

theorem core_congr {s t : State} (h : t.cores = s.cores) (d : Nat) : Machine.core t d = Machine.core s d := by
  rw [Machine.core, Machine.core, h]

@[simp] theorem core_setCore_self (k : Core) : Machine.core (setCore s c k) c = k := tget_tset_self ..

theorem coresKept_setCore (k : Core) : CoresKept s (setCore s c k) c := fun _ h => tget_tset_ne _ _ _ h

@[simp] theorem core_modCore_self (f : Core → Core) : Machine.core (modCore s c f) c = f (Machine.core s c) :=
  core_setCore_self s c _

theorem coresKept_modCore (f : Core → Core) : CoresKept s (modCore s c f) c := coresKept_setCore s c _

theorem coresKept_of_eq {s t : State} (h : t.cores = s.cores) : CoresKept s t c := fun d _ => core_congr h d

theorem coresKept_trans {s t u : State} {c : Nat} (h : CoresKept s t c) (g : CoresKept t u c) : CoresKept s u c :=
  fun d hd => (g d hd).trans (h d hd)

end

/-! ## Events that count (R460) -/

/-- `t` is `s` after events: of the register words only those that an event may change differ (R462). -/
structure Counted (s t : State) : Prop where
  frame : t = { s with regs := t.regs, evt := t.evt }
  kept : RegsKept s t []

theorem Counted.refl (s : State) : Counted s s := ⟨rfl, RegsKept.refl s []⟩

theorem Counted.trans {s t u : State} (h : Counted s t) (g : Counted t u) : Counted s u :=
  ⟨g.frame.trans (by rw [h.frame]), h.kept.trans g.kept⟩

theorem counted_event (s : State) (cls e : Nat) (sect die : Option Nat) (k : Nat) : Counted s (event s cls e sect die k) := by
  refine ⟨?_, fun a ha _ => reg_event s cls e sect die k ha⟩
  obtain ⟨r, v, h⟩ := event_frame s cls e sect die k
  rw [h]

theorem Counted.cores {s t : State} (h : Counted s t) : t.cores = s.cores := by rw [h.frame]

/-- What holds of `s` after its core `c` was replaced and events counted. -/
theorem Counted.after_setCore {s u : State} {c : Nat} {k : Core} (h : Counted (setCore s c k) u) :
    u = { s with cores := u.cores, regs := u.regs, evt := u.evt } ∧ RegsKept s u [] ∧ CoresKept s u c ∧ Machine.core u c = k :=
  ⟨h.frame.trans (by rw [h.cores]; rfl), h.kept, coresKept_trans (coresKept_setCore s c k) (coresKept_of_eq c h.cores),
    (core_congr h.cores c).trans (core_setCore_self s c k)⟩

/-! ## Sequencer words (R93, R102) -/

theorem counted_heldScratch (s : State) (c : Nat) (h : Hold) : Counted s (heldScratch s c h) := by
  unfold heldScratch
  split
  · exact counted_event ..
  · exact Counted.refl s

/-- A word held back only counts its ck. -/
theorem counted_held (s : State) (c op : Nat) (h : Hold) : Counted s (held s c op h) := by
  have hscratch := counted_heldScratch s c h
  unfold held
  dsimp only
  split
  · split
    · exact hscratch.trans (counted_event ..)
    · exact hscratch
  · exact hscratch

section
variable {s : State} {c op w : Nat} {reach : Core → Nat → List Access} {hold : Core → Nat → Option Hold}
  {eff : State → Core → Nat → State} (hword : wordOf s c op = some w)
include hword

theorem issue_runs (hfree : hold (Machine.core s c) w = none) (hin : inScratchpad (reach (Machine.core s c) w) = true) :
    finish (issue s c op reach hold eff) = .next (settle (eff s (Machine.core s c) w)) := by
  simp [issue, hword, hfree, hin, finish, done]

theorem issue_held {h : Hold} (hheld : hold (Machine.core s c) w = some h) :
    finish (issue s c op reach hold eff) = .next (settle (held s c op h)) := by
  simp [issue, hword, hheld, finish, done]

/-- A word that is held back keeps its place. -/
theorem issue_waits {h : Hold} (hheld : hold (Machine.core s c) w = some h) :
    ∃ u, finish (issue s c op reach hold eff) = .next (settle u) ∧ u = { s with regs := u.regs, evt := u.evt }
      ∧ RegsKept s u [] :=
  have hcounted := counted_held s c op h
  ⟨_, issue_held hword hheld, hcounted.frame, hcounted.kept⟩

/-- A word without reach that nothing holds back and that replaces its core. -/
theorem issue_setsCore {k : Core} (hfree : hold (Machine.core s c) w = none) (hnone : reach (Machine.core s c) w = [])
    (heff : eff s (Machine.core s c) w = setCore s c k) :
    ∃ u, finish (issue s c op reach hold eff) = .next (settle u) ∧ u = { s with cores := u.cores } ∧ CoresKept s u c
      ∧ Machine.core u c = k :=
  ⟨setCore s c k, by rw [issue_runs hword hfree (by rw [hnone]; rfl), heff], rfl, coresKept_setCore s c k, core_setCore_self s c k⟩

end

end Sys2Proof.Laws

namespace Sys2Proof.Proofs

open Sys2Proof.Machine Sys2Proof.Laws

/-! ## The control and wait words (R93, R94, R154) -/

section
variable {k : Core} {w : Nat}

theorem pfWaitHold_done (h : k.pfDone.contains (bits w 119 108) = true) : pfWaitHold k w = none := by simp only [pfWaitHold, h, if_true]

theorem pfWaitHold_open (h : k.pfDone.contains (bits w 119 108) = false) : pfWaitHold k w = some .pfWait := by
  simp only [pfWaitHold, h, Bool.false_eq_true, if_false]

theorem dmaWaitHold_idle (h : ∀ d ∈ k.dma, ∀ t, d.tag = some t → bit (bits w 119 104) t = false) : dmaWaitHold k w = none := by
  refine if_neg (Bool.not_eq_true _ ▸ List.any_eq_false.mpr fun d hd => ?_)
  cases htag : d.tag with
  | none => exact Bool.false_ne_true
  | some t => simp only [h d hd t htag, Bool.false_eq_true, not_false_eq_true]

theorem dmaWaitHold_outstanding (h : ∃ d ∈ k.dma, ∃ t, d.tag = some t ∧ bit (bits w 119 104) t = true) :
    dmaWaitHold k w = some .other := by
  obtain ⟨d, hd, t, htag, hbit⟩ := h
  refine if_pos (List.any_eq_true.mpr ⟨d, hd, ?_⟩)
  rw [htag]
  exact hbit

end

/-- A wait whose condition holds only lets the core go on. -/
theorem wait_goesOn {s : State} {c op w : Nat} {reach : Core → Nat → List Access} {hold : Core → Nat → Option Hold}
    (hword : wordOf s c op = some w) (hfree : hold (Machine.core s c) w = none) (hnone : reach (Machine.core s c) w = []) :
    finish (issue s c op reach hold fun s' k v => waitEffect s' c k v) = .next (settle (setCore s c (Machine.core s c).advance)) :=
  issue_runs hword hfree (by rw [hnone]; rfl)

/-- Settles O21: each word is issued or held back, by its condition. -/
theorem sequencerControlWords : Obligations.SequencerControlWords := by
  refine ⟨fun s c w hword => issue_setsCore hword rfl rfl rfl, fun s c w hword => ?_,
    fun s c w hword => issue_setsCore hword rfl rfl rfl, fun s c w hword hdone => wait_goesOn hword (pfWaitHold_done hdone) rfl,
    fun s c w hword hopen => issue_waits hword (pfWaitHold_open hopen),
    fun s c w hword hidle => wait_goesOn hword (dmaWaitHold_idle hidle) rfl,
    fun s c w hword hout => issue_waits hword (dmaWaitHold_outstanding hout), fun s c w hword hcount => ?_,
    fun s c w hword hcount => issue_waits hword (if_neg (Nat.not_le_of_lt hcount))⟩
  · obtain ⟨u, hexec, hframe, hkept, hcore⟩ := issue_setsCore (reach := noReach) (hold := noHold)
      (eff := fun s' k v => loopEffect s' c k v) hword rfl rfl rfl
    exact ⟨u, hexec, hframe, hkept, hcore, rfl, rfl⟩
  · obtain ⟨u, hexec, hframe, hkept, hcore⟩ := issue_setsCore (reach := fun _ _ => []) (hold := arriveWaitHold)
      (eff := fun s' k v => arriveWaitEffect s' c k v) hword (if_pos hcount) rfl rfl
    refine ⟨u, hexec, hframe, hkept, ?_, fun t ht => ?_, ?_⟩
    · rw [hcore]
      exact tget_tset_self ..
    · rw [hcore]
      exact tget_tset_ne _ _ _ ht
    · rw [hcore]
      rfl

end Sys2Proof.Proofs

namespace Sys2Proof.Laws

open Sys2Proof.Machine

/-! ## Loops (R94) -/

section
variable {l : Loop} {ls : List Loop} {pc : Nat}

theorem popLoops_inside (h : pc ≠ l.first + l.body) : popLoops (l :: ls) pc = (l :: ls, pc) := by simp [popLoops, h]

theorem popLoops_again (hpc : pc = l.first + l.body) (h : l.iter + 1 < l.count) :
    popLoops (l :: ls) pc = ({ l with iter := l.iter + 1 } :: ls, l.first) := by simp [popLoops, hpc, h]

theorem popLoops_exit (hpc : pc = l.first + l.body) (h : l.count ≤ l.iter + 1) : popLoops (l :: ls) pc = popLoops ls pc := by
  simp [popLoops, hpc, Nat.not_lt.mpr h]

theorem popLoops_no_end (h : ∀ m ∈ ls, pc ≠ m.first + m.body) : popLoops ls pc = (ls, pc) := by
  cases ls with
  | nil => rfl
  | cons m ms => exact popLoops_inside (h m List.mem_cons_self)

end

/-- The words run one after another: first `m` of them, then `n`. -/
theorem repeat_add {α : Type} (f : α → α) (n m : Nat) (a : α) : Nat.repeat f (n + m) a = Nat.repeat f n (Nat.repeat f m a) := by
  induction n with
  | zero => rw [Nat.zero_add]; rfl
  | succ n ih => rw [Nat.succ_add]; exact congrArg f ih

/-- Core `k` is at place `pc` with the loops `ls` open. -/
structure StandsAt (k : Core) (pc : Nat) (ls : List Loop) : Prop where
  place : k.pc = pc
  loops : k.loops = ls

theorem StandsAt.advance {k : Core} {pc : Nat} {ls : List Loop} (h : StandsAt k pc ls) :
    StandsAt k.advance (popLoops ls (pc + 1)).2 (popLoops ls (pc + 1)).1 := by
  obtain ⟨rfl, rfl⟩ := h
  exact ⟨rfl, rfl⟩

section
variable {k : Core} {l : Loop} {ls : List Loop} (h : StandsAt k l.first (l :: ls))
include h

/-- Within the body the core passes from word to word. -/
theorem StandsAt.body_words {t : Nat} (ht : t < l.body) : StandsAt (Nat.repeat Core.advance t k) (l.first + t) (l :: ls) := by
  induction t with
  | zero => exact h
  | succ t ih =>
    have hnext := (ih (Nat.lt_of_succ_lt ht)).advance
    rwa [popLoops_inside (by omega)] at hnext

/-- After the last word of the body its end is reached. -/
theorem StandsAt.body_end (hbody : 0 < l.body) :
    StandsAt (Nat.repeat Core.advance l.body k) (popLoops (l :: ls) (l.first + l.body)).2
      (popLoops (l :: ls) (l.first + l.body)).1 := by
  obtain ⟨t, ht⟩ : ∃ t, l.body = t + 1 := Nat.exists_eq_succ_of_ne_zero (Nat.ne_of_gt hbody)
  have hlast := (h.body_words (t := t) (by omega)).advance
  rw [Nat.add_assoc, ← ht] at hlast
  rw [ht] at hlast ⊢
  exact hlast

theorem StandsAt.next_iteration (hbody : 0 < l.body) (hiter : l.iter + 1 < l.count) :
    StandsAt (Nat.repeat Core.advance l.body k) l.first ({ l with iter := l.iter + 1 } :: ls) := by
  have hend := h.body_end hbody
  rwa [popLoops_again rfl hiter] at hend

theorem StandsAt.loop_exit (hbody : 0 < l.body) (hiter : l.count ≤ l.iter + 1)
    (hout : ∀ m ∈ ls, l.first + l.body ≠ m.first + m.body) :
    StandsAt (Nat.repeat Core.advance l.body k) (l.first + l.body) ls := by
  have hend := h.body_end hbody
  rwa [popLoops_exit rfl hiter, popLoops_no_end hout] at hend

end

section
variable {k : Core} {l : Loop} {ls : List Loop} (h : StandsAt k l.first ({ l with iter := 0 } :: ls)) (hbody : 0 < l.body)
include h hbody

theorem StandsAt.iterations {j : Nat} (hj : j < l.count) :
    StandsAt (Nat.repeat Core.advance (j * l.body) k) l.first ({ l with iter := j } :: ls) := by
  induction j with
  | zero => rw [Nat.zero_mul]; exact h
  | succ j ih =>
    rw [Nat.succ_mul, Nat.add_comm, repeat_add]
    exact (ih (Nat.lt_of_succ_lt hj)).next_iteration (l := { l with iter := j }) hbody hj

theorem StandsAt.whole_loop (hcount : 0 < l.count) (hout : ∀ m ∈ ls, l.first + l.body ≠ m.first + m.body) :
    StandsAt (Nat.repeat Core.advance (l.count * l.body) k) (l.first + l.body) ls := by
  obtain ⟨j, hj⟩ : ∃ j, l.count = j + 1 := Nat.exists_eq_succ_of_ne_zero (Nat.ne_of_gt hcount)
  rw [hj, Nat.succ_mul, Nat.add_comm, repeat_add]
  exact (h.iterations hbody (j := j) (by omega)).loop_exit (l := { l with iter := j }) hbody (Nat.le_of_eq hj) hout

end

end Sys2Proof.Laws

namespace Sys2Proof.Proofs

open Sys2Proof.Machine Sys2Proof.Laws

/-! ## LPDDR transfers (R157, R447, R455) -/

/-- `t` is `s` after an LPDDR transfer is charged and answered: no core changes, of the register words only TOPO_CNT_UNAVAIL may, and
what has fallen short in a step stays so. -/
structure Transferred (s t : State) : Prop where
  frame : t = { s with regs := t.regs, evt := t.evt, steps := t.steps, credits := t.credits, topo := t.topo }
  kept : RegsKept s t [Reg.TOPO_CNT_UNAVAIL]
  lost : ∀ i, (stepOf s i).lost ⊆ (stepOf t i).lost

theorem Transferred.refl (s : State) : Transferred s s := ⟨rfl, RegsKept.refl s _, fun _ => List.Subset.refl _⟩

theorem Transferred.trans {s t u : State} (h : Transferred s t) (g : Transferred t u) : Transferred s u :=
  ⟨g.frame.trans (by rw [h.frame]), h.kept.trans g.kept, fun i => List.Subset.trans (h.lost i) (g.lost i)⟩

theorem Transferred.foldl {β : Type} {f : State → β → State} (h : ∀ t x, Transferred t (f t x)) (s : State) (l : List β) :
    Transferred s (l.foldl f s) :=
  List.foldlRecOn l f (Transferred.refl s) fun t ht x _ => ht.trans (h t x)

theorem counted_transferred {s t : State} (h : Counted s t) : Transferred s t :=
  ⟨h.frame.trans (by rw [h.frame]), h.kept.mono (List.nil_subset _), fun _ => by rw [h.frame]; exact List.Subset.refl _⟩

theorem transferred_event (s : State) (cls e : Nat) (sect die : Option Nat) (k : Nat) :
    Transferred s (event s cls e sect die k) :=
  counted_transferred (counted_event ..)

theorem transferred_credits (s : State) (t : Tab Int) : Transferred s { s with credits := t } :=
  ⟨rfl, fun _ _ _ => rfl, fun _ => List.Subset.refl _⟩

theorem transferred_learn (s : State) (g cls i : Nat) : Transferred s (learn s g cls i) :=
  ⟨rfl, fun _ _ _ => rfl, fun _ => List.Subset.refl _⟩

theorem transferred_unavailable (s : State) (m : Nat) : Transferred s (bumpBy s Reg.TOPO_CNT_UNAVAIL m) := by
  have hkept := regsKept_bumpBy s Reg.TOPO_CNT_UNAVAIL m
  obtain ⟨r, e, h⟩ := bumpBy_frame s Reg.TOPO_CNT_UNAVAIL m
  rw [h] at hkept ⊢
  exact ⟨rfl, hkept, fun _ => List.Subset.refl _⟩

theorem lost_subset_loseItems (s : State) (i : Nat) (items : List Nat) (j : Nat) :
    (stepOf s j).lost ⊆ (stepOf (loseItems s i items) j).lost := by
  by_cases hj : j = i
  · subst hj
    rw [lost_loseItems]
    exact fun x hx => mem_foldl_insertAsc.mpr (.inr hx)
  · rw [show stepOf (loseItems s i items) j = stepOf s j from tget_tset_ne _ _ _ hj]
    exact List.Subset.refl _

theorem transferred_loseItems (s : State) (i : Nat) (items : List Nat) : Transferred s (loseItems s i items) :=
  ⟨rfl, fun _ _ _ => rfl, lost_subset_loseItems s i items⟩

theorem chargeOne_transferred (s : State) (i die g o : Nat) : Transferred s (chargeOne s i die g o) := by
  unfold chargeOne
  dsimp only
  split
  · exact transferred_credits s _
  · split
    · exact transferred_event ..
    · exact (transferred_credits s _).trans (transferred_event ..)

theorem chargeAll_transferred (s : State) (i die g n o : Nat) : Transferred s (chargeAll s i die g n o) := by
  induction n generalizing s o with
  | zero => exact Transferred.refl s
  | succ n ih => exact (chargeOne_transferred s i die g o).trans (ih _ _)

theorem accessed_transferred (s : State) (i die g o n : Nat) (wr : Bool) : Transferred s (accessed s i die g o n wr) := by
  unfold accessed
  split
  · exact Transferred.refl s
  · exact (chargeAll_transferred ..).trans (transferred_event ..)

theorem shortfall_transferred (s : State) (c i g o n : Nat) (wr : Bool) : Transferred s (shortfall s c i g o n wr) := by
  have hlost (m : Nat) (items : List Nat) : Transferred s (loseItems (bumpBy s Reg.TOPO_CNT_UNAVAIL m) i items) :=
    (transferred_unavailable s m).trans (transferred_loseItems _ i items)
  unfold shortfall
  dsimp only
  split
  · exact Transferred.refl s
  · split
    · exact hlost _ _
    · exact (hlost _ _).trans (Transferred.foldl (fun t _ => transferred_learn t _ _ _) _ _)

theorem transfer_transferred (s : State) (c g o n : Nat) (wr : Bool) : Transferred s (transfer s c g o n wr) := by
  unfold transfer
  split
  · exact Transferred.refl s
  · split
    · exact Transferred.refl s
    · exact (accessed_transferred ..).trans (shortfall_transferred ..)

/-! ## A handover (R159 to R161) -/

/-- `t` is `s` after a part of a handover of core `c`: other cores stay, of the register words only TOPO_CNT_UNAVAIL may change, and
what has fallen short in a step stays so. -/
structure Handed (c : Nat) (s t : State) : Prop where
  frame : t = { s with
    regs := t.regs, evt := t.evt, cores := t.cores, steps := t.steps, credits := t.credits, scratch := t.scratch
    lpddr := t.lpddr, poison := t.poison, twin := t.twin, topo := t.topo }
  kept : RegsKept s t [Reg.TOPO_CNT_UNAVAIL]
  lost : ∀ i, (stepOf s i).lost ⊆ (stepOf t i).lost
  cores : CoresKept s t c

theorem Handed.trans {c : Nat} {s t u : State} (h : Handed c s t) (g : Handed c t u) : Handed c s u :=
  ⟨g.frame.trans (by rw [h.frame]), h.kept.trans g.kept, fun i => List.Subset.trans (h.lost i) (g.lost i),
    coresKept_trans h.cores g.cores⟩

theorem handed_modCore (s : State) (c : Nat) (f : Core → Core) : Handed c s (modCore s c f) :=
  ⟨rfl, fun _ _ _ => rfl, fun _ => List.Subset.refl _, coresKept_modCore s c f⟩

/-- Core `k'` is `k` but for what write-back, zeroing and restore write, and has no dirty page where `k` has none. -/
structure Refreshed (k k' : Core) : Prop where
  frame : k' = { k with
    dirty := k'.dirty, wacc := k'.wacc, held := k'.held, fills := k'.fills, rowBounds := k'.rowBounds }
  clean : k.dirty = [] → k'.dirty = []

theorem Refreshed.keeps {k k' : Core} (h : Refreshed k k') : k'.current = k.current ∧ k'.vset = k.vset ∧ k'.idle = k.idle
    ∧ k'.pfStarted = k.pfStarted ∧ k'.pfDone = k.pfDone := by
  rw [h.frame]
  exact ⟨rfl, rfl, rfl, rfl, rfl⟩

theorem Refreshed.withWork {k k' : Core} (h : Refreshed k k') (g : Segment) :
    Refreshed { k with current := some g, vset := g.vset } { k' with current := some g, vset := g.vset } :=
  ⟨by rw [h.frame], h.clean⟩

theorem Refreshed.refl (k : Core) : Refreshed k k := ⟨rfl, id⟩

theorem Refreshed.trans {k k' l : Core} (h : Refreshed k k') (g : Refreshed k' l) : Refreshed k l :=
  ⟨g.frame.trans (by rw [h.frame]), g.clean ∘ h.clean⟩

theorem refreshed_forgetBounds (k : Core) (x n : Nat) : Refreshed k (k.forgetBounds x n) := ⟨rfl, id⟩

/-- The part of a handover that moves bytes: core `c` keeps its place and its work. -/
structure Moved (c : Nat) (s t : State) : Prop extends Handed c s t where
  own : Refreshed (Machine.core s c) (Machine.core t c)

theorem Moved.trans {c : Nat} {s t u : State} (h : Moved c s t) (g : Moved c t u) : Moved c s u :=
  ⟨h.toHanded.trans g.toHanded, h.own.trans g.own⟩

/-- A change of memories alone. -/
theorem Moved.of_frame {s t : State} (c : Nat)
    (h : t = { s with scratch := t.scratch, lpddr := t.lpddr, poison := t.poison, twin := t.twin }) : Moved c s t := by
  rw [h]
  exact ⟨⟨rfl, fun _ _ _ => rfl, fun _ => List.Subset.refl _, coresKept_of_eq c rfl⟩, Refreshed.refl _⟩

theorem Transferred.moved {s t : State} (h : Transferred s t) (c : Nat) : Moved c s t := by
  have hcores : t.cores = s.cores := by rw [h.frame]
  exact ⟨⟨h.frame.trans (by rw [h.frame]), h.kept, h.lost, coresKept_of_eq c hcores⟩, core_congr hcores c ▸ Refreshed.refl _⟩

theorem Moved.refl (c : Nat) (s : State) : Moved c s s := Moved.of_frame c rfl

theorem Moved.foldl {β : Type} {c : Nat} {f : State → β → State} (h : ∀ t x, Moved c t (f t x)) (s : State) (l : List β) :
    Moved c s (l.foldl f s) :=
  List.foldlRecOn l f (Moved.refl c s) fun t ht x _ => ht.trans (h t x)

theorem moved_modCore {s : State} {c : Nat} {f : Core → Core} (h : Refreshed (Machine.core s c) (f (Machine.core s c))) :
    Moved c s (modCore s c f) :=
  ⟨handed_modCore s c f, (core_modCore_self s c f).symm ▸ h⟩

theorem writeBack_moved (s : State) (c yp : Nat) : Moved c s (writeBack s c yp) ∧ (Machine.core (writeBack s c yp) c).dirty = [] := by
  refine ⟨?_, congrArg Core.dirty (core_modCore_self _ c _)⟩
  unfold writeBack
  dsimp only
  refine ((Moved.foldl (fun t p => ?_) s _).trans ((transferred_event ..).moved c)).trans (moved_modCore ⟨rfl, fun _ => rfl⟩)
  exact ((transfer_transferred ..).moved c).trans (Moved.of_frame c rfl)

theorem zeroHandover_moved (s : State) (c : Nat) : Moved c s (zeroHandover s c) := by
  have hforget (k : Core) (as : List Alloc) : Refreshed k (as.foldl (fun (k : Core) a => k.forgetBounds a.base a.len) k) :=
    List.foldlRecOn as _ (Refreshed.refl k) fun k' hk a _ => hk.trans (refreshed_forgetBounds k' a.base a.len)
  refine ((Moved.foldl (fun t a => Moved.of_frame c rfl) s _).trans (moved_modCore ?_)).trans ((transferred_event ..).moved c)
  exact (hforget _ _).trans ⟨rfl, id⟩

theorem spFill_moved (s : State) (c x : Nat) (bs : List Byte) : Moved c s (spFill s c x bs) := by
  unfold spFill
  split
  · exact ((counted_transferred (counted_heldScratch ..)).moved c).trans (moved_modCore ⟨rfl, id⟩)
  · exact (Moved.of_frame c rfl).trans (moved_modCore (refreshed_forgetBounds _ _ _))

theorem restore_moved (s : State) (c yp : Nat) : Moved c s (restore s c yp) :=
  Moved.foldl (fun _ _ => ((transfer_transferred ..).moved c).trans (spFill_moved ..)) s _

/-- The state of a handover to `g` before the core takes it: written back, and zeroed where the owners differ (R161). -/
def handoverCleared (s : State) (c yp : Nat) (g : Segment) : State :=
  if sameOwners (ownerSet (Machine.core s c).current) (ownerSet (some g)) then writeBack s c yp
  else zeroHandover (writeBack s c yp) c

theorem handover_some (s : State) (c yp : Nat) (g : Segment) :
    handover s c yp (some g)
      = restore (modCore (handoverCleared s c yp g) c fun k => { k with current := some g, vset := g.vset }) c yp := rfl

theorem handoverCleared_moved (s : State) (c yp : Nat) (g : Segment) :
    Moved c s (handoverCleared s c yp g) ∧ (Machine.core (handoverCleared s c yp g) c).dirty = [] := by
  obtain ⟨hback, hclean⟩ := writeBack_moved s c yp
  unfold handoverCleared
  split
  · exact ⟨hback, hclean⟩
  · have hzero := zeroHandover_moved (writeBack s c yp) c
    exact ⟨hback.trans hzero, hzero.own.clean hclean⟩

/-- R161: the core passes to the segment `g`, with no dirty page. -/
theorem handover_passes (s : State) (c yp : Nat) (g : Segment) :
    Handed c s (handover s c yp (some g))
      ∧ Refreshed { Machine.core s c with current := some g, vset := g.vset } (Machine.core (handover s c yp (some g)) c)
      ∧ (Machine.core (handover s c yp (some g)) c).dirty = [] := by
  obtain ⟨hcleared, hclean⟩ := handoverCleared_moved s c yp g
  rw [handover_some]
  have hrestored := restore_moved (modCore (handoverCleared s c yp g) c fun k => { k with current := some g, vset := g.vset }) c yp
  have hown := hrestored.own
  rw [core_modCore_self] at hown
  exact ⟨(hcleared.toHanded.trans (handed_modCore ..)).trans hrestored.toHanded, (hcleared.own.withWork g).trans hown,
    hown.clean hclean⟩

/-! ## YIELD (R286) -/

theorem offerAgain_frame (s : State) (c : Nat) (k : Core) (items : List Nat) :
    ∃ p, offerAgain s c k items = { s with steps := p } := by
  unfold offerAgain
  split
  · split
    · exact ⟨_, rfl⟩
    · exact ⟨_, rfl⟩
  · exact ⟨_, rfl⟩

/-- R286: an item of PREFILL or DECODE that no later segment holds falls short. -/
theorem mem_lost_offerAgain {s : State} {c i x : Nat} {k : Core} {items : List Nat} (hsect : coreSection s c = some i)
    (hkind : sectionKind s i = 7 ∨ sectionKind s i = 8) (hx : x ∈ items) (hlater : ∀ g ∈ k.segments, x ∉ g.items) :
    x ∈ (stepOf (offerAgain s c k items) i).lost := by
  have hkept : x ∈ items.filter fun x => !(k.segments.any fun (g : Segment) => g.items.contains x) := by
    simpa [hx] using hlater
  simp only [offerAgain, hsect, hkind, if_true]
  rw [lost_loseItems]
  exact mem_foldl_insertAsc.mpr (.inl hkept)

/-- The state in which the items that a YIELD cuts short are counted and offered again. -/
def yieldCut (s : State) (c : Nat) : State :=
  offerAgain (bumpBy s Reg.SERVE_CNT_PREEMPT (preempted s c (Machine.core s c)).length) c (Machine.core s c)
    (preempted s c (Machine.core s c))

theorem yieldCut_frame (s : State) (c : Nat) : ∃ r e p, yieldCut s c = { s with regs := r, evt := e, steps := p } := by
  obtain ⟨p, hoffer⟩ := offerAgain_frame (bumpBy s Reg.SERVE_CNT_PREEMPT (preempted s c (Machine.core s c)).length) c
    (Machine.core s c) (preempted s c (Machine.core s c))
  obtain ⟨r, e, hbump⟩ := bumpBy_frame s Reg.SERVE_CNT_PREEMPT (preempted s c (Machine.core s c)).length
  exact ⟨r, e, p, by rw [yieldCut, hoffer, hbump]⟩

theorem reg_preempt_yieldCut (s : State) (c : Nat) :
    reg (yieldCut s c) Reg.SERVE_CNT_PREEMPT
      = min (reg s Reg.SERVE_CNT_PREEMPT + (preempted s c (Machine.core s c)).length) 0xFFFFFFFF := by
  obtain ⟨p, hoffer⟩ := offerAgain_frame (bumpBy s Reg.SERVE_CNT_PREEMPT (preempted s c (Machine.core s c)).length) c
    (Machine.core s c) (preempted s c (Machine.core s c))
  rw [yieldCut, hoffer]
  exact (reg_bumpBy s _ _ _ (by decide)).trans (if_pos rfl)

theorem mem_lost_yieldCut {s : State} {c i x : Nat} (hsect : coreSection s c = some i)
    (hkind : sectionKind s i = 7 ∨ sectionKind s i = 8) (hx : x ∈ preempted s c (Machine.core s c))
    (hlater : ∀ g ∈ (Machine.core s c).segments, x ∉ g.items) : x ∈ (stepOf (yieldCut s c) i).lost := by
  obtain ⟨r, e, hbump⟩ := bumpBy_frame s Reg.SERVE_CNT_PREEMPT (preempted s c (Machine.core s c)).length
  rw [yieldCut, hbump]
  exact mem_lost_offerAgain hsect hkind hx hlater

/-- The prefetch schedule of core `k'`, which was `k` at its YIELD, in the segment `g`: it goes on within a version set, else it begins
again (R156). -/
def rescheduled (k k' : Core) (g : Segment) : Core :=
  if g.vset = k.vset then { k' with issued := insertAsc k.pc k'.issued } else k'.rewindPrefetch

section
variable {k k' : Core} {g : Segment}

theorem rescheduled_same (h : g.vset = k.vset) : rescheduled k k' g = { k' with issued := insertAsc k.pc k'.issued } := if_pos h

theorem rescheduled_other (h : g.vset ≠ k.vset) : rescheduled k k' g = k'.rewindPrefetch := if_neg h

theorem rescheduled_keeps (k k' : Core) (g : Segment) : (rescheduled k k' g).current = k'.current
    ∧ (rescheduled k k' g).vset = k'.vset ∧ (rescheduled k k' g).idle = k'.idle ∧ (rescheduled k k' g).dirty = k'.dirty := by
  unfold rescheduled
  split <;> exact ⟨rfl, rfl, rfl, rfl⟩

end

/-- The core at word `pc` of its segment, no loop open, with the segments `gs` to follow and `served` what it has served. -/
def resumeAt (k : Core) (gs : List Segment) (served : List Nat) (pc : Nat) : Core :=
  { k with segments := gs, served := served, loops := [], pc := pc }

section
variable {s : State} {c : Nat} (w : Nat) {g : Segment} {gs : List Segment} (hsegs : (Machine.core s c).segments = g :: gs)
include hsegs

theorem yieldEffect_further : yieldEffect s c (Machine.core s c) w
    = modCore (handover (yieldCut s c) c (bits w 119 114) (some g)) c fun k' =>
        resumeAt (rescheduled (Machine.core s c) k' g) gs (k'.served ++ (Machine.core s c).current.elim [] Segment.items)
          (bits w 113 102) := by
  simp only [yieldEffect, hsegs]
  cases (Machine.core s c).current <;> rfl

/-- R286: the core after a YIELD runs `g` next, at RESUME. -/
theorem core_yieldEffect_further : ∃ served k', Refreshed { Machine.core s c with current := some g, vset := g.vset } k'
    ∧ k'.dirty = [] ∧ Machine.core (yieldEffect s c (Machine.core s c) w) c
      = resumeAt (rescheduled (Machine.core s c) k' g) gs served (bits w 113 102) := by
  obtain ⟨-, hown, hclean⟩ := handover_passes (yieldCut s c) c (bits w 119 114) g
  have hcore : Machine.core (yieldCut s c) c = Machine.core s c := by
    obtain ⟨r, e, p, h⟩ := yieldCut_frame s c
    exact core_congr (by rw [h]) c
  rw [hcore] at hown
  exact ⟨_, _, hown, hclean, by rw [yieldEffect_further w hsegs, core_modCore_self]⟩

/-- A YIELD changes but what the handover does, once what it cuts short is counted. -/
theorem yieldEffect_handed : Handed c (yieldCut s c) (yieldEffect s c (Machine.core s c) w) := by
  obtain ⟨hhanded, -, -⟩ := handover_passes (yieldCut s c) c (bits w 119 114) g
  rw [yieldEffect_further w hsegs]
  exact hhanded.trans (handed_modCore ..)

end

theorem yieldEffect_last {s : State} {c : Nat} (w : Nat) (h : (Machine.core s c).segments = []) :
    yieldEffect s c (Machine.core s c) w = setCore s c (Machine.core s c).advance := by
  simp only [yieldEffect, h]
  rfl

/-- Settles O22: a loop by induction over its iterations, a YIELD by whether a segment follows. -/
theorem loopsAndYieldsRun : Obligations.LoopsAndYieldsRun := by
  refine ⟨fun k l ls hloops hpc hiter hbody hcount hout => ?_, fun s c w hword hlast => ?_, fun s c w g gs hword hsegs => ?_⟩
  · have hstart : StandsAt k l.first ({ l with iter := 0 } :: ls) := ⟨hpc, by rw [hloops, ← hiter]⟩
    have hexit := hstart.whole_loop hbody hcount hout
    exact ⟨fun j hj => ⟨(hstart.iterations hbody hj).place, (hstart.iterations hbody hj).loops⟩, hexit.place, hexit.loops⟩
  · exact issue_setsCore (hold := noHold) (reach := noReach) (eff := fun s' k v => yieldEffect s' c k v) hword rfl rfl
      (yieldEffect_last w hlast)
  · have hhanded := yieldEffect_handed w hsegs
    obtain ⟨served, k', hown, hclean, hcore⟩ := core_yieldEffect_further w hsegs
    obtain ⟨hcurrent, hvset, hidle, hstarted, hdone⟩ := hown.keeps
    obtain ⟨hcurrent', hvset', hidle', hdirty'⟩ := rescheduled_keeps (Machine.core s c) k' g
    obtain ⟨r, e, p, hcut⟩ := yieldCut_frame s c
    refine ⟨yieldEffect s c (Machine.core s c) w, issue_runs (hold := noHold) (reach := noReach)
      (eff := fun s' k v => yieldEffect s' c k v) hword rfl rfl,
      coresKept_trans (coresKept_of_eq c (by rw [hcut])) hhanded.cores, ?_⟩
    rw [hcore]
    refine ⟨hcurrent'.trans hcurrent, rfl, rfl, rfl, fun hsame => ?_, fun hother => ?_, hvset'.trans hvset, hidle'.trans hidle,
      hdirty'.trans hclean, by rw [hhanded.frame, hcut], by rw [hhanded.frame, hcut], by rw [hhanded.frame, hcut],
      by rw [hhanded.frame, hcut], ?_, fun i x hsect hkind hx hlater => ?_, hhanded.frame.trans (by rw [hcut])⟩
    · rw [rescheduled_same hsame]
      exact ⟨hstarted, hdone⟩
    · rw [rescheduled_other hother]
      exact ⟨rfl, rfl, rfl⟩
    · rw [hhanded.kept _ (by decide) (by decide), reg_preempt_yieldCut]
    · exact hhanded.lost i (mem_lost_yieldCut hsect hkind hx (by rwa [hsegs]))

end Sys2Proof.Proofs

namespace Sys2Proof.Laws

open Sys2Proof.Machine

/-! ## The place after a word -/

theorem advance_pc_congr {k k' : Core} (hpc : k'.pc = k.pc) (hloops : k'.loops = k.loops) : k'.advance.pc = k.advance.pc := by
  simp only [Core.advance, hpc, hloops]

/-! ## Accumulators and sets -/

@[simp] theorem getSet_setSet_self (k : Core) (a : Nat) (v : AccSet) : getSet (setSet k a v) a = v := tget_tset_self ..

theorem getSet_setSet_ne (k : Core) {a b : Nat} (v : AccSet) (h : b ≠ a) : getSet (setSet k a v) b = getSet k b :=
  tget_tset_ne _ _ _ h

theorem getWacc_setSet (k : Core) (a : Nat) (v : AccSet) (x : Nat) : getWacc (setSet k a v) x = getWacc k x := rfl

theorem getWacc_setWacc_ne (k : Core) {x y : Nat} (v : Wacc) (h : y ≠ x) : getWacc (setWacc k x v) y = getWacc k y :=
  tget_tset_ne _ _ _ h

/-- Core `k'` is `k` but for accumulators. -/
def WaccOnly (k k' : Core) : Prop := k' = { k with wacc := k'.wacc }

theorem WaccOnly.refl (k : Core) : WaccOnly k k := rfl

theorem WaccOnly.setWacc {k k' : Core} (h : WaccOnly k k') (x : Nat) (v : Wacc) : WaccOnly k (setWacc k' x v) := by
  rw [WaccOnly, Machine.setWacc, h]

theorem WaccOnly.getSet {k k' : Core} (h : WaccOnly k k') (a : Nat) : getSet k' a = getSet k a := by
  rw [h]
  rfl

/-- Core `k'` is `k` but for activation scales, accumulators and accumulator sets. -/
def MatrixOnly (k k' : Core) : Prop := k' = { k with ascale := k'.ascale, wacc := k'.wacc, sets := k'.sets }

theorem MatrixOnly.trans {k k' l : Core} (h : MatrixOnly k k') (g : MatrixOnly k' l) : MatrixOnly k l :=
  Eq.trans g (by rw [h])

theorem MatrixOnly.keeps {k k' : Core} (h : MatrixOnly k k') :
    k'.wbuf0 = k.wbuf0 ∧ k'.wbuf1 = k.wbuf1 ∧ k'.pc = k.pc ∧ k'.loops = k.loops := by
  rw [h]
  exact ⟨rfl, rfl, rfl, rfl⟩

theorem WaccOnly.matrixOnly {k k' : Core} (h : WaccOnly k k') : MatrixOnly k k' := by
  rw [MatrixOnly, h]

theorem WaccOnly.setSet {k k' : Core} (h : WaccOnly k k') (a : Nat) (v : AccSet) : MatrixOnly k (setSet k' a v) := by
  rw [MatrixOnly, Machine.setSet, h]

/-- A pass over accumulators changes no other than those it names. -/
theorem foldl_setWacc {β : Type} (l : List β) (key : β → Nat) (v : Core → β → Wacc) (k : Core) :
    WaccOnly k (l.foldl (fun k' x => setWacc k' (key x) (v k' x)) k)
      ∧ ∀ y, (∀ x ∈ l, y ≠ key x) → getWacc (l.foldl (fun k' x => setWacc k' (key x) (v k' x)) k) y = getWacc k y := by
  refine ⟨List.foldlRecOn l _ (WaccOnly.refl k) fun k' hk x _ => hk.setWacc _ _, fun y hy => ?_⟩
  exact List.foldlRecOn (motive := fun k' => getWacc k' y = getWacc k y) l _ rfl
    fun k' hk x hx => (getWacc_setWacc_ne k' _ (hy x hx)).trans hk

/-! ## Words that count events -/

/-- A word that replaces its core and counts events, and that nothing holds back. -/
theorem issue_counts {s : State} {c op w : Nat} {reach : Core → Nat → List Access} {hold : Core → Nat → Option Hold}
    {eff : State → Core → Nat → State} {k : Core} (hword : wordOf s c op = some w) (hfree : hold (Machine.core s c) w = none)
    (hin : inScratchpad (reach (Machine.core s c) w) = true) (heff : Counted (setCore s c k) (eff s (Machine.core s c) w)) :
    ∃ u, finish (issue s c op reach hold eff) = .next (settle u) ∧ u = { s with cores := u.cores, regs := u.regs, evt := u.evt }
      ∧ RegsKept s u [] ∧ CoresKept s u c ∧ Machine.core u c = k :=
  ⟨_, issue_runs hword hfree hin, heff.after_setCore⟩

end Sys2Proof.Laws

namespace Sys2Proof.Proofs

open Sys2Proof.Machine Sys2Proof.Laws

/-! ## WLOAD (R96) -/

/-- The scales of a WLOAD: its own with GSTART, else those of the last one. -/
def loadedScales (s : State) (c : Nat) (k : Core) (w : Nat) : List Nat :=
  if bit w 64 then (spRead s c (sAddr k w) 16).map (·.toNat) else k.lastScales

/-- The buffer that a WLOAD fills. -/
def loadedBuf (s : State) (c : Nat) (k : Core) (w : Nat) : WBuf :=
  { fmt := bits w 115 112, block := spRead s c (wAddr k w) (wblockBytes (wfmt w)), scales := loadedScales s c k w, loaded := true }

/-- The core once the buffer that WSEL names is filled. -/
def loadedCore (s : State) (c : Nat) (k : Core) (w : Nat) : Core :=
  if bit w 108 then { k with wbuf1 := loadedBuf s c k w, lastScales := loadedScales s c k w }
  else { k with wbuf0 := loadedBuf s c k w, lastScales := loadedScales s c k w }

theorem wloadEffect_counted (s : State) (c : Nat) (k : Core) (w : Nat) :
    Counted (setCore s c (loadedCore s c k w).advance) (wloadEffect s c k w) := counted_event ..

theorem getBuf_loadedCore (s : State) (c : Nat) (k : Core) (w : Nat) :
    getBuf (loadedCore s c k w) (bit w 108) = loadedBuf s c k w
      ∧ getBuf (loadedCore s c k w) (!bit w 108) = getBuf k (!bit w 108) := by
  unfold loadedCore
  cases bit w 108 <;> exact ⟨rfl, rfl⟩

theorem loadedCore_keeps (s : State) (c : Nat) (k : Core) (w : Nat) : (loadedCore s c k w).wacc = k.wacc
    ∧ (loadedCore s c k w).sets = k.sets ∧ (loadedCore s c k w).pc = k.pc ∧ (loadedCore s c k w).loops = k.loops := by
  unfold loadedCore
  split <;> exact ⟨rfl, rfl, rfl, rfl⟩

/-! ## PREPASS (R95) -/

/-- The pending anchors of the outputs of set `a`. -/
def pendAnchors (k : Core) (a : Nat) (anchor : Nat → Int) : Core :=
  (List.range 64).foldl (fun k' o => setWacc k' (a * 64 + o) { getWacc k' (a * 64 + o) with pending := anchor o }) k

theorem pendAnchors_frame (k : Core) (a : Nat) (anchor : Nat → Int) : WaccOnly k (pendAnchors k a anchor)
    ∧ ∀ x, (∀ o ∈ List.range 64, x ≠ a * 64 + o) → getWacc (pendAnchors k a anchor) x = getWacc k x :=
  foldl_setWacc (List.range 64) (fun o => a * 64 + o) (fun k' o => { getWacc k' (a * 64 + o) with pending := anchor o }) k

/-- Set `a` with pending anchors and the bounds of its rows. -/
def prepareSet (k : Core) (a : Nat) (anchor : Nat → Int) (bounds : List (Option Int)) : Core :=
  setSet (pendAnchors k a anchor) a { getSet (pendAnchors k a anchor) a with pendingReady := true, pendBound := bounds }

/-- Core `k'` is `k` after pending anchors were given to the sets `as`. -/
structure Prepared (as : List Nat) (k k' : Core) : Prop where
  frame : MatrixOnly k k'
  ready : ∀ a ∈ as, (getSet k' a).pendingReady = true
  sets : ∀ a, a ∉ as → getSet k' a = getSet k a
  waccs : ∀ a, a ∉ as → ∀ o, o < 64 → getWacc k' (a * 64 + o) = getWacc k (a * 64 + o)

theorem prepareSet_prepared (k : Core) (a : Nat) (anchor : Nat → Int) (bounds : List (Option Int)) :
    Prepared [a] k (prepareSet k a anchor bounds) := by
  obtain ⟨hframe, hkept⟩ := pendAnchors_frame k a anchor
  refine ⟨hframe.setSet _ _, fun b hb => ?_, fun b hb => ?_, fun b hb o ho => ?_⟩
  · rw [List.mem_singleton.mp hb, prepareSet, getSet_setSet_self]
  · exact (getSet_setSet_ne _ _ (by simpa using hb)).trans (hframe.getSet b)
  · have hba : b ≠ a := by simpa using hb
    rw [prepareSet, getWacc_setSet]
    refine hkept _ fun o' ho' => ?_
    have := List.mem_range.mp ho'
    omega

theorem Prepared.trans {as bs : List Nat} {k k' l : Core} (h : Prepared as k k') (g : Prepared bs k' l) : Prepared (as ++ bs) k l := by
  refine ⟨h.frame.trans g.frame, fun a ha => ?_, fun a ha => ?_, fun a ha o ho => ?_⟩
  · by_cases hb : a ∈ bs
    · exact g.ready a hb
    · rw [g.sets a hb]
      exact h.ready a ((List.mem_append.mp ha).resolve_right hb)
  · rw [List.mem_append, not_or] at ha
    exact (g.sets a ha.2).trans (h.sets a ha.1)
  · rw [List.mem_append, not_or] at ha
    exact (g.waccs a ha.2 o ho).trans (h.waccs a ha.1 o ho)

theorem foldl_prepareSet {β : Type} (l : List β) (a : β → Nat) (anchor : β → Nat → Int) (bounds : β → List (Option Int)) (k : Core) :
    Prepared (l.map a) k (l.foldl (fun k' m => prepareSet k' (a m) (anchor m) (bounds m)) k) := by
  induction l generalizing k with
  | nil => exact ⟨rfl, by simp, fun _ _ => rfl, fun _ _ _ _ => rfl⟩
  | cons m ms ih =>
    rw [List.map_cons, List.foldl_cons, ← List.singleton_append]
    exact (prepareSet_prepared k (a m) (anchor m) (bounds m)).trans (ih _)

/-- The pending anchor of output `o` of block `m` of a PREPASS (R70). -/
def prepassAnchor (s : State) (c : Nat) (k : Core) (w m o : Nat) : Int :=
  anchorOf s c (afmt w) (wfmt w) (sAddr k w) (wBase k w) (bits w 102 100 + 1) (bits w 99 84 + 1) m (o / 16) (o % 16)

/-- The activation bounds of the rows of block `m` of a PREPASS (R82). -/
def prepassBounds (s : State) (c : Nat) (k : Core) (w m : Nat) : List (Option Int) :=
  (List.range 4).map fun i => rowBoundOf s c (afmt w) (sAddr k w) (bits w 102 100 + 1) (bits w 99 84 + 1) m i

/-- The core once every set of a PREPASS has its pending anchors. -/
def prepassCore (s : State) (c : Nat) (k : Core) (w : Nat) : Core :=
  (List.range (bits w 102 100 + 1)).foldl
    (fun k' m => prepareSet k' ((accOf k w + m) % 16) (prepassAnchor s c k w m) (prepassBounds s c k w m)) k

theorem prepassCore_prepared (s : State) (c : Nat) (k : Core) (w : Nat) : Prepared (prepassSets k w) k (prepassCore s c k w) :=
  foldl_prepareSet _ (fun m => (accOf k w + m) % 16) (prepassAnchor s c k w) (prepassBounds s c k w) k

theorem prepassEffect_counted (s : State) (c : Nat) (k : Core) (w : Nat) :
    Counted (setCore s c (prepassCore s c k w).advance) (prepassEffect s c k w) :=
  counted_event (setCore s c (prepassCore s c k w).advance) 2 8 (coreSection s c) (some (dieOf c)) 1

/-! ## MMA (R97, R98) -/

theorem strip_frame (s : State) (c : Nat) (k : Core) (w : Nat) : WaccOnly k (strip s c k w).1 :=
  List.foldlRecOn (motive := fun p : Core × ArithEv × Nat => WaccOnly k p.1) _ _ (WaccOnly.refl k) fun _ hp _ _ => hp.setWacc _ _

theorem startSet_frame (k : Core) (a w : Nat) : MatrixOnly k (startSet k a w) := by
  obtain ⟨hframe, -⟩ := foldl_setWacc (List.range 64) (fun o => a * 64 + o) (fun k' o => (getWacc k' (a * 64 + o)).start) k
  exact hframe.setSet _ _

theorem getSet_startSet (k : Core) (a w : Nat) : getSet (startSet k a w) a
    = { mode := .accumulating, rows := bits w 103 100, cols := bits w 99 84, pendingReady := false
        pendBound := (getSet k a).pendBound, bound := (getSet k a).pendBound } := getSet_setSet_self ..

section
variable (k : Core) (a : Nat)

theorem endSet_eq : endSet k a = { setSet k a { getSet k a with mode := .draining } with
    drainQ := k.drainQ ++ [(a, (curEpi k).map fun e => (e.holder, e.ended))], epis := (endSet k a).epis } := by
  unfold endSet
  dsimp only
  split <;> next h => rw [h]; rfl

theorem sets_endSet : (endSet k a).sets = (setSet k a { getSet k a with mode := .draining }).sets := by rw [endSet_eq]

theorem mode_endSet : (getSet (endSet k a) a).mode = .draining := by
  rw [getSet, sets_endSet, ← getSet, getSet_setSet_self]

theorem drainQ_endSet : (endSet k a).drainQ = k.drainQ ++ [(a, (curEpi k).map fun e => (e.holder, e.ended))] := by
  rw [endSet_eq]

theorem endSet_place : (endSet k a).pc = k.pc ∧ (endSet k a).loops = k.loops := by
  rw [endSet_eq]
  exact ⟨rfl, rfl⟩

end

/-- The core with the activation scales of GSTART. -/
def scaledCore (s : State) (c : Nat) (k : Core) (w : Nat) : Core :=
  if bit w 64 then
    { k with ascale := (List.range 4).foldl (fun t i => tset (fun _ => 0) t (accOf k w * 4 + i) (spNat s c (sAddr k w + i) 1)) k.ascale }
  else k

/-- The core of an MMA at its strip: after its scales and its START. -/
def startedCore (s : State) (c : Nat) (k : Core) (w : Nat) : Core :=
  if (bit w 110 && startOn k) = true then startSet (scaledCore s c k w) (accOf k w) w else scaledCore s c k w

/-- The core after the strip of an MMA. -/
def strippedCore (s : State) (c : Nat) (k : Core) (w : Nat) : Core := (strip s c (startedCore s c k w) w).1

/-- The core after an MMA, before the next word. -/
def mmaCore (s : State) (c : Nat) (k : Core) (w : Nat) : Core :=
  if (bit w 109 && endOn k) = true then endSet (strippedCore s c k w) (accOf k w) else strippedCore s c k w

section
variable (s : State) (c : Nat) (k : Core) (w : Nat)

theorem scaledCore_frame : MatrixOnly k (scaledCore s c k w) ∧ (scaledCore s c k w).sets = k.sets := by
  unfold scaledCore
  split <;> exact ⟨rfl, rfl⟩

theorem startedCore_frame : MatrixOnly k (startedCore s c k w) := by
  have hscaled := (scaledCore_frame s c k w).1
  unfold startedCore
  split
  · exact hscaled.trans (startSet_frame ..)
  · exact hscaled

theorem strippedCore_frame : MatrixOnly k (strippedCore s c k w) :=
  (startedCore_frame s c k w).trans (strip_frame ..).matrixOnly

theorem mmaCore_place : (mmaCore s c k w).pc = k.pc ∧ (mmaCore s c k w).loops = k.loops := by
  obtain ⟨-, -, hpc, hloops⟩ := (strippedCore_frame s c k w).keeps
  unfold mmaCore
  split
  · obtain ⟨hpc', hloops'⟩ := endSet_place (strippedCore s c k w) (accOf k w)
    exact ⟨hpc'.trans hpc, hloops'.trans hloops⟩
  · exact ⟨hpc, hloops⟩

end

section
variable {s : State} {c : Nat} {k : Core} {w : Nat}

theorem mmaCore_ends (hend : bit w 109 = true ∧ endOn k = true) :
    mmaCore s c k w = endSet (strippedCore s c k w) (accOf k w) := by
  simp [mmaCore, hend]

theorem mode_mmaCore (hend : bit w 109 = true ∧ endOn k = true) : (getSet (mmaCore s c k w) (accOf k w)).mode = .draining := by
  rw [mmaCore_ends hend, mode_endSet]

theorem drainQ_mmaCore (hend : bit w 109 = true ∧ endOn k = true) :
    (mmaCore s c k w).drainQ = k.drainQ ++ [(accOf k w, (curEpi k).map fun e => (e.holder, e.ended))] := by
  rw [mmaCore_ends hend, drainQ_endSet, strippedCore_frame s c k w]
  rfl

/-- A START without END leaves its set accumulating, with the word's masks and the bounds of the last PREPASS. -/
theorem getSet_mmaCore_start (hstart : bit w 110 = true ∧ startOn k = true) (hopen : ¬(bit w 109 = true ∧ endOn k = true)) :
    getSet (mmaCore s c k w) (accOf k w)
      = { mode := .accumulating, rows := bits w 103 100, cols := bits w 99 84, pendingReady := false
          pendBound := (getSet k (accOf k w)).pendBound, bound := (getSet k (accOf k w)).pendBound } := by
  have hcore : mmaCore s c k w = strippedCore s c k w := if_neg (by simpa using hopen)
  have hsets : (strippedCore s c k w).sets = (startSet (scaledCore s c k w) (accOf k w) w).sets := by
    rw [strippedCore, strip_frame s c (startedCore s c k w) w]
    simp [startedCore, hstart]
  have hscaled : getSet (scaledCore s c k w) (accOf k w) = getSet k (accOf k w) := by
    rw [getSet, (scaledCore_frame s c k w).2]
    rfl
  rw [hcore, getSet, hsets, ← getSet, getSet_startSet, hscaled]

end

/-! ## Arithmetic counters and logged violations (R86, R98) -/

theorem logOnly_event (s : State) (cls e : Nat) (sect die : Option Nat) (k : Nat) : LogOnly s (event s cls e sect die k) := by
  obtain ⟨r, v, h⟩ := event_frame s cls e sect die k
  exact ⟨r, v, s.err, h⟩

theorem arithOne_frame (s : State) (i die off n flag e : Nat) : LogOnly s (arithOne s i die off n flag e) := by
  unfold arithOne
  split
  · exact LogOnly.refl s
  · exact (((logOnly_setReg s _ _).trans (logOnly_setReg _ _ _)).trans (logOnly_setReg _ _ _)).trans (logOnly_event ..)

theorem arith_frame (s : State) (i die : Nat) (e : ArithEv) : LogOnly s (arith s i die e) :=
  ((((((arithOne_frame ..).trans (arithOne_frame ..)).trans (arithOne_frame ..)).trans (arithOne_frame ..)).trans
    (arithOne_frame ..)).trans (arithOne_frame ..)).trans (arithOne_frame ..)

theorem arithCore_frame (s : State) (c : Nat) (e : ArithEv) : LogOnly s (arithCore s c e) := by
  unfold arithCore
  split
  · exact arith_frame ..
  · exact LogOnly.refl s

theorem logViolations_frame (s : State) (c x n : Nat) : LogOnly s (logViolations s c x n) := by
  induction n generalizing s with
  | zero => exact LogOnly.refl s
  | succ n ih => exact (logErr_frame ..).trans (ih _)

theorem logOnly_memories {s t : State} (h : LogOnly s t) : t.cores = s.cores ∧ t.scratch = s.scratch ∧ t.lpddr = s.lpddr := by
  obtain ⟨r, e, l, rfl⟩ := h
  exact ⟨rfl, rfl, rfl⟩

theorem mmaEffect_frame (s : State) (c : Nat) (k : Core) (w : Nat) :
    LogOnly (setCore s c (mmaCore s c k w).advance) (mmaEffect s c k w) :=
  ((arithCore_frame (setCore s c (mmaCore s c k w).advance) c (strip s c (startedCore s c k w) w).2.1).trans
    (logViolations_frame ..)).trans (logOnly_event ..)

/-- What holds of `s` once an MMA of its core `c` has issued. -/
theorem mmaEffect_memories (s : State) (c w : Nat) : let u := mmaEffect s c (Machine.core s c) w
    CoresKept s u c ∧ u.scratch = s.scratch ∧ u.lpddr = s.lpddr
      ∧ Machine.core u c = (mmaCore s c (Machine.core s c) w).advance := by
  obtain ⟨hcores, hscratch, hlpddr⟩ := logOnly_memories (mmaEffect_frame s c (Machine.core s c) w)
  exact ⟨coresKept_trans (coresKept_setCore s c _) (coresKept_of_eq c hcores), hscratch, hlpddr,
    (core_congr hcores c).trans (core_setCore_self ..)⟩

/-! ## Work on a row (R106 to R117) -/

/-- `t` is `s` after work of core `c` on rows: it stores in its own scratchpad, and of the cores only its own changes, in what it knows
of the rows it holds and has stored. -/
structure RowWork (c : Nat) (s t : State) : Prop where
  cores : CoresKept s t c
  own : Machine.core t c = { Machine.core s c with
    held := (Machine.core t c).held, rowBounds := (Machine.core t c).rowBounds, dirty := (Machine.core t c).dirty }
  lpddr : t.lpddr = s.lpddr
  others : ∀ d x, d ≠ c → x < spSize → spByte t d x = spByte s d x

/-- A change of neither cores, scratchpads nor LPDDR. -/
theorem RowWork.of_eq {s t : State} (c : Nat) (hcores : t.cores = s.cores) (hscratch : t.scratch = s.scratch)
    (hlpddr : t.lpddr = s.lpddr) : RowWork c s t :=
  ⟨coresKept_of_eq c hcores, by rw [core_congr hcores], hlpddr, fun _ _ _ _ => by rw [spByte, spByte, hscratch]⟩

theorem RowWork.refl (c : Nat) (s : State) : RowWork c s s := .of_eq c rfl rfl rfl

theorem RowWork.trans {c : Nat} {s t u : State} (h : RowWork c s t) (g : RowWork c t u) : RowWork c s u :=
  ⟨coresKept_trans h.cores g.cores, g.own.trans (by rw [h.own]), g.lpddr.trans h.lpddr,
    fun d x hd hx => (g.others d x hd hx).trans (h.others d x hd hx)⟩

theorem RowWork.foldl {β : Type} {c : Nat} {f : State → β → State} (h : ∀ t x, RowWork c t (f t x)) (s : State) (l : List β) :
    RowWork c s (l.foldl f s) :=
  List.foldlRecOn l f (RowWork.refl c s) fun t ht x _ => ht.trans (h t x)

theorem rowWork_logOnly {s t : State} (c : Nat) (h : LogOnly s t) : RowWork c s t := by
  obtain ⟨hcores, hscratch, hlpddr⟩ := logOnly_memories h
  exact .of_eq c hcores hscratch hlpddr

theorem rowWork_setCore {s : State} {c : Nat} {k : Core}
    (h : k = { Machine.core s c with held := k.held, rowBounds := k.rowBounds, dirty := k.dirty }) : RowWork c s (setCore s c k) :=
  ⟨coresKept_setCore s c k, by rw [core_setCore_self]; exact h, rfl, fun _ _ _ _ => rfl⟩

/-- A write into a scratchpad is clipped to it, so it reaches no other (R142). -/
theorem spByte_spPut_ne (s : State) {c d : Nat} (a : Nat) (bs : List Byte) {x : Nat} (hd : d ≠ c) (hx : x < spSize) :
    spByte (spPut s c a bs) d x = spByte s d x := by
  have hlen : (bs.take (spSize - a)).length ≤ spSize - a := by
    rw [List.length_take]
    exact Nat.min_le_left _ _
  refine (memByte_memWrite s.scratch (spKey c a) _ (spKey d x)).trans (dif_neg fun h => ?_)
  simp only [spKey, spSize] at h hlen hx
  omega

theorem spPut_rowWork (s : State) (c a : Nat) (bs : List Byte) : RowWork c s (spPut s c a bs) :=
  ⟨coresKept_of_eq c rfl, rfl, rfl, fun _ _ hd hx => spByte_spPut_ne s a bs hd hx⟩

theorem spWrite_rowWork (s : State) (c a : Nat) (bs : List Byte) : RowWork c s (spWrite s c a bs) := by
  unfold spWrite
  dsimp only
  split
  · exact spPut_rowWork ..
  · exact (spPut_rowWork ..).trans (rowWork_setCore rfl)

theorem keepBound_rowWork (s : State) (c x n : Nat) (b : Int) : RowWork c s (keepBound s c x n b) := rowWork_setCore rfl

theorem markItem_rowWork (s : State) (c kind item : Nat) : RowWork c s (markItem s kind item) := by
  unfold markItem
  split
  · exact .refl c s
  · split <;> exact .of_eq c rfl rfl rfl

theorem markRow_rowWork (s : State) (c : Nat) (r : RowId) : RowWork c s (markRow s c r) := by
  unfold markRow
  split
  · exact markItem_rowWork ..
  · exact .refl c s

theorem arithRow_rowWork (s : State) (c : Nat) (r : RowId) (e : ArithEv) : RowWork c s (arithRow s c r e) := by
  have hcounted := rowWork_logOnly c (arithCore_frame s c e)
  unfold arithRow
  split
  · exact hcounted.trans (markRow_rowWork ..)
  · exact hcounted

/-! ## Stages over a row (R108 to R110) -/

theorem statRow_rowWork (s : State) (c : Nat) (st : Stage) (r : RowId) (b : Int) (j0 : Nat) (vs : List (Option Val)) :
    RowWork c s (statRow s c st r b j0 vs) :=
  (spWrite_rowWork ..).trans (arithRow_rowWork ..)

theorem rowBuffer_rowWork (s : State) (c b pitch row j : Nat) (vs : List (Option Val)) :
    RowWork c s (rowBuffer s c b pitch row j vs) := by
  induction vs generalizing s j with
  | nil => exact .refl c s
  | cons v vs ih =>
    refine RowWork.trans ?_ (ih _ _)
    cases v with
    | none => exact .refl c s
    | some x => exact spWrite_rowWork ..

theorem smxStage_rowWork (s : State) (c : Nat) (st : Stage) (r : RowId) (tile pitch : Nat) (vs : List (Option Val)) :
    RowWork c s (smxStage s c st r tile pitch vs).1 :=
  ((rowBuffer_rowWork ..).trans (spWrite_rowWork ..)).trans (arithRow_rowWork ..)

theorem stageRow_rowWork (s : State) (c : Nat) (st : Stage) (r : RowId) (tile pitch j0 : Nat) (vs : List (Option Val)) :
    RowWork c s (stageRow s c st r tile pitch j0 vs).1 := by
  unfold stageRow
  split
  · exact (smxStage_rowWork ..).trans (arithRow_rowWork ..)
  · dsimp only
    split
    · exact (arithRow_rowWork ..).trans (rowWork_logOnly c (logErr_frame ..))
    · exact arithRow_rowWork ..
  · exact arithRow_rowWork ..

theorem stagesRow_rowWork (s : State) (c : Nat) (r : RowId) (b : Int) (tile pitch j0 : Nat) (sts : List Stage) (o : RowOut) :
    RowWork c s (stagesRow s c r b tile pitch j0 sts o).1 := by
  induction sts generalizing s o with
  | nil => exact .refl c s
  | cons st sts ih =>
    unfold stagesRow
    dsimp only
    split
    · exact (statRow_rowWork ..).trans (ih _ _)
    · exact (stageRow_rowWork ..).trans (ih _ _)

theorem storeRow_rowWork (s : State) (c : Nat) (d : Store) (row j0 : Nat) (o : RowOut) : RowWork c s (storeRow s c d row j0 o) := by
  have hcodes : RowWork c s ((List.range o.codes.length).foldl (fun s' i =>
      match o.codes.getD i none with
      | none => s'
      | some code => spPutElem s' c d.dst d.fmt (row * d.pitch + j0 + i) code) s) := by
    refine RowWork.foldl (fun t i => ?_) s _
    split
    · exact .refl c t
    · exact spWrite_rowWork ..
  unfold storeRow
  dsimp only
  split
  · exact (hcodes.trans (RowWork.foldl (fun t i => spWrite_rowWork ..) _ _)).trans (spWrite_rowWork ..)
  · exact hcodes

/-! ## The drain path (R98, R112, R115) -/

theorem epilogueRow_rowWork (s : State) (c : Nat) (ch : Chain) (e : EpiSt) (a : Int) (row j0 n : Nat) (vs : List (Option Val)) :
    RowWork c s (epilogueRow s c ch e a row j0 n vs) := by
  unfold epilogueRow
  split
  · exact .refl c s
  · exact (((arithRow_rowWork ..).trans (stagesRow_rowWork ..)).trans (storeRow_rowWork ..)).trans (keepBound_rowWork ..)

theorem markTruncated_rowWork (s : State) (c tensor : Nat) (place : List Nat) (row0 : Nat) (outs : List (Nat × Nat × Wacc)) :
    RowWork c s (markTruncated s c tensor place row0 outs) := by
  refine RowWork.foldl (fun t i => ?_) s _
  split
  · exact markRow_rowWork ..
  · exact .refl c t

theorem drainInto_rowWork (s : State) (c a t : Nat) (ch : Chain) (e : EpiSt) : RowWork c s (drainInto s c a t ch e) := by
  unfold drainInto
  dsimp only
  split
  · exact (rowWork_setCore rfl).trans (markTruncated_rowWork ..)
  · exact (((rowWork_setCore rfl).trans (markTruncated_rowWork ..)).trans
      (RowWork.foldl (fun t i => epilogueRow_rowWork ..) _ _)).trans (rowWork_setCore rfl)

/-- `t` is `s` after work of the drain path of core `c`: the core keeps its place and stores in its own scratchpad. -/
structure DrainWork (c : Nat) (s t : State) : Prop where
  cores : CoresKept s t c
  place : (Machine.core t c).pc = (Machine.core s c).pc
  lpddr : t.lpddr = s.lpddr
  others : ∀ d x, d ≠ c → x < spSize → spByte t d x = spByte s d x

theorem RowWork.drainWork {c : Nat} {s t : State} (h : RowWork c s t) : DrainWork c s t :=
  ⟨h.cores, by rw [h.own], h.lpddr, h.others⟩

theorem DrainWork.after_modCore {c : Nat} {s t : State} {f : Core → Core} (h : DrainWork c s t) (hf : ∀ k, (f k).pc = k.pc) :
    DrainWork c s (modCore t c f) :=
  ⟨coresKept_trans h.cores (coresKept_modCore t c f), by rw [core_modCore_self, hf]; exact h.place, h.lpddr, h.others⟩

theorem epiDrained_pc (h : Nat) (k : Core) : (epiDrained k h).pc = k.pc := by
  unfold epiDrained
  dsimp only
  split
  · rfl
  · split
    · split <;> rfl
    · split <;> rfl

/-- The first ended set passes the chain that governs it. -/
theorem drainEffect_cons {s : State} {c a : Nat} {g : Option (Nat × Nat)} {q : List (Nat × Option (Nat × Nat))}
    (hq : (Machine.core s c).drainQ = (a, g) :: q) : ∃ t, DrainWork c s t
      ∧ drainEffect s c = modCore t c fun k => { setSet k a { getSet k a with mode := .free } with drainQ := q } := by
  have hrefl : RowWork c s s := .refl c s
  unfold drainEffect
  dsimp only
  rw [hq]
  cases g with
  | none => exact ⟨_, ((markTruncated_rowWork ..).trans (rowWork_logOnly c (arithCore_frame ..))).drainWork, rfl⟩
  | some g =>
    refine ⟨_, RowWork.drainWork ?_ |>.after_modCore (epiDrained_pc g.1), rfl⟩
    split
    · exact hrefl
    · split
      · exact hrefl
      · exact drainInto_rowWork ..

theorem drainEffect_nil {s : State} {c : Nat} (hq : (Machine.core s c).drainQ = []) : drainEffect s c = s := by
  simp only [drainEffect, hq]

/-- Settles O23: each word by the core it leaves, the drain by the chain that its set passes. -/
theorem matrixWordsIssue : Obligations.MatrixWordsIssue := by
  refine ⟨fun s c w hword hfree hin => ?_, fun s c w hword hfree hin => ?_, fun s c w hword hfree hin => ?_,
    fun s c hq => ?_, fun s c a g q hq => ?_⟩
  · obtain ⟨u, hexec, hframe, hregs, hkept, hcore⟩ := issue_counts (reach := wloadReads)
      (hold := fun k v => readHold k (wloadReads k v)) (eff := fun s' k v => wloadEffect s' c k v) hword hfree hin
      (wloadEffect_counted s c _ w)
    obtain ⟨hfilled, hother⟩ := getBuf_loadedCore s c (Machine.core s c) w
    obtain ⟨hwacc, hsets, hpc, hloops⟩ := loadedCore_keeps s c (Machine.core s c) w
    have hbuf (b : Bool) : getBuf (Machine.core u c) b = getBuf (loadedCore s c (Machine.core s c) w) b := by rw [hcore]; rfl
    refine ⟨u, hexec, hframe, hregs, hkept, ?_, ?_, ?_, (hbuf _).trans hother, (congrArg Core.wacc hcore).trans hwacc,
      (congrArg Core.sets hcore).trans hsets, (congrArg Core.pc hcore).trans (advance_pc_congr hpc hloops)⟩
    · rw [hbuf, hfilled]; rfl
    · rw [hbuf, hfilled]; rfl
    · rw [hbuf, hfilled]; rfl
  · obtain ⟨u, hexec, hframe, hregs, hkept, hcore⟩ := issue_counts (reach := prepassReads) (hold := prepassHold)
      (eff := fun s' k v => prepassEffect s' c k v) hword hfree hin (prepassEffect_counted s c _ w)
    obtain ⟨hprepared, hready, hsets, hwaccs⟩ := prepassCore_prepared s c (Machine.core s c) w
    obtain ⟨hbuf0, hbuf1, hpc, hloops⟩ := hprepared.keeps
    refine ⟨u, hexec, hframe, hregs, hkept, ?_⟩
    rw [hcore]
    exact ⟨hready, fun a _ ha => ⟨hsets a ha, hwaccs a ha⟩, hbuf0, hbuf1, advance_pc_congr hpc hloops⟩
  · obtain ⟨hkept, hscratch, hlpddr, hcore⟩ := mmaEffect_memories s c w
    obtain ⟨hpc, hloops⟩ := mmaCore_place s c (Machine.core s c) w
    rw [hcore]
    refine ⟨issue_runs (reach := mmaReads) (hold := mmaHold) (eff := fun s' k v => mmaEffect s' c k v) hword hfree hin, hkept,
      hscratch, hlpddr, advance_pc_congr hpc hloops, fun hend hlast => ?_, fun hstart hfirst hopen => ?_⟩
    · exact ⟨mode_mmaCore ⟨hend, hlast⟩, drainQ_mmaCore ⟨hend, hlast⟩⟩
    · exact getSet_mmaCore_start ⟨hstart, hfirst⟩ hopen
  · exact congrArg done (drainEffect_nil hq)
  · obtain ⟨t, hwork, heff⟩ := drainEffect_cons hq
    have hdone : DrainWork c s (drainEffect s c) := heff ▸ hwork.after_modCore fun _ => rfl
    refine ⟨drainEffect s c, rfl, hdone.cores, hdone.lpddr, ?_, ?_, hdone.place, hdone.others⟩
    · rw [heff, core_modCore_self]
    · rw [heff, core_modCore_self]
      exact congrArg AccSet.mode (getSet_setSet_self (Machine.core t c) a { getSet (Machine.core t c) a with mode := .free })

end Sys2Proof.Proofs
end

section
/-!
SUPPORT. The statement of spec/06_fused_chains.md settled. First what a write leaves of a scratchpad's bytes, and a run of records
stored one after another; then EPI_BIND, the words that run a chain or a merge, and the theorem.
-/
namespace Sys2Proof.Machine

open Sys2Proof.Laws

/-! ## Scratchpad bytes after a write (R142, R159) -/

section
variable {s t u : State} {c x n : Nat}

theorem scratchKept_of_eq (h : t.scratch = s.scratch) : ScratchKept s t c x n := fun _ _ _ _ => by rw [spByte, spByte, h]

theorem ScratchKept.trans (h : ScratchKept s t c x n) (g : ScratchKept t u c x n) : ScratchKept s u c x n :=
  fun d y hy hout => (g d y hy hout).trans (h d y hy hout)

/-- What keeps all but a range keeps all but a range around it. -/
theorem ScratchKept.mono {y m : Nat} (h : ScratchKept s t c x n) (hlo : y ≤ x) (hhi : x + n ≤ y + m) : ScratchKept s t c y m :=
  fun d z hz hout => h d z hz (by omega)

theorem spRead_eq_map (s : State) (c x n : Nat) : spRead s c x n = (List.range n).map fun i => spByte s c (x + i) := by
  simp [spRead, memRead, tgetList, spByte, memByte, spKey, Nat.add_assoc]

/-- A read outside the range that changed. -/
theorem ScratchKept.spRead_eq {y m : Nat} (h : ScratchKept s t c x n) (hin : y + m ≤ spSize) (hout : y + m ≤ x ∨ x + n ≤ y) :
    spRead t c y m = spRead s c y m := by
  rw [spRead_eq_map, spRead_eq_map]
  refine List.map_congr_left fun i hi => ?_
  have him := List.mem_range.mp hi
  exact h c (y + i) (by omega) (by omega)

end

section
variable (s : State) (c x : Nat) (bs : List Byte)

/-- A write by a word differs from a plain write only in the core that it tells of dirty pages and lost bounds. -/
theorem spWrite_eq_spPut : ∃ k, spWrite s c x bs = { spPut s c x bs with cores := k } := by
  unfold spWrite
  dsimp only
  split
  · exact ⟨_, rfl⟩
  · exact ⟨_, rfl⟩

/-- One byte after a write: the clipped bytes cover it, or it stands as before. -/
theorem spByte_spWrite (d y : Nat) : spByte (spWrite s c x bs) d y
    = if h : spKey c x ≤ spKey d y ∧ spKey d y < spKey c x + (bs.take (spSize - x)).length
      then (bs.take (spSize - x))[spKey d y - spKey c x]'(by omega) else spByte s d y := by
  obtain ⟨k, hk⟩ := spWrite_eq_spPut s c x bs
  rw [hk]
  exact memByte_memWrite ..

theorem scratchKept_spWrite : ScratchKept s (spWrite s c x bs) c x bs.length := fun d y hy hout => by
  rw [spByte_spWrite, dif_neg]
  simp only [spKey, List.length_take, spSize] at hy ⊢
  omega

variable {x bs}

/-- The bytes written are read again where the scratchpad holds them all. -/
theorem spRead_spWrite_self (hin : x + bs.length ≤ spSize) : spRead (spWrite s c x bs) c x bs.length = bs := by
  have htake : bs.take (spSize - x) = bs := List.take_of_length_le (by omega)
  rw [spRead_eq_map]
  refine List.ext_getElem (by simp) fun i _ hi => ?_
  rw [List.getElem_map, List.getElem_range, spByte_spWrite, dif_pos (by simp only [htake, spKey]; omega)]
  simp only [htake, spKey, Nat.add_sub_add_left, Nat.add_sub_cancel_left]

end

/-! ## The length of a record -/

theorem natLE_length (n x : Nat) : (natLE n x).length = n := by
  induction n generalizing x with
  | zero => rfl
  | succ n ih => exact congrArg (· + 1) (ih _)

theorem StatRec.toBytes_length (r : StatRec) : r.toBytes.length = 64 := by
  simp only [StatRec.toBytes, List.length_append, natLE_length, List.length_replicate]

theorem SmxRec.toBytes_length (r : SmxRec) : r.toBytes.length = 32 := by
  simp only [SmxRec.toBytes, List.length_append, natLE_length, List.length_replicate]

end Sys2Proof.Machine

namespace Sys2Proof.Proofs

open Sys2Proof.Machine Sys2Proof.Laws

/-! ## A run of records -/

section
variable {c x m : Nat}

/-- Steps that each change one record of `m` bytes change the run of records. -/
theorem scratchKept_records {f : State → Nat → State} (h : ∀ t r, ScratchKept t (f t r) c (x + m * r) m) (s : State) (n : Nat) :
    ScratchKept s ((List.range n).foldl f s) c x (m * n) := by
  induction n with
  | zero => exact scratchKept_of_eq rfl
  | succ n ih =>
    rw [List.range_succ, List.foldl_append]
    have hend : m * (n + 1) = m * n + m := Nat.mul_succ m n
    exact (ih.mono (Nat.le_refl x) (by omega)).trans ((h _ n).mono (Nat.le_add_right _ _) (by omega))

/-- `s` with the records `record 0`, …, `record (n - 1)` of `m` bytes each stored from byte address `x` on. -/
def storeRecords (c x m : Nat) (record : Nat → List Byte) (s : State) (n : Nat) : State :=
  (List.range n).foldl (fun t r => spWrite t c (x + m * r) (record r)) s

theorem storeRecords_succ (record : Nat → List Byte) (s : State) (n : Nat) : storeRecords c x m record s (n + 1)
    = spWrite (storeRecords c x m record s n) c (x + m * n) (record n) := by
  rw [storeRecords, List.range_succ, List.foldl_append]
  rfl

theorem storeRecords_frame (record : Nat → List Byte) (s : State) (n : Nat) :
    ∃ b k, storeRecords c x m record s n = { s with scratch := b, cores := k } := by
  induction n with
  | zero => exact ⟨_, _, rfl⟩
  | succ n ih =>
    obtain ⟨b, k, hb⟩ := ih
    obtain ⟨k', hk'⟩ := spWrite_eq_spPut (storeRecords c x m record s n) c (x + m * n) (record n)
    rw [storeRecords_succ, hk', hb]
    exact ⟨_, _, rfl⟩

theorem storeRecords_rowWork (record : Nat → List Byte) (s : State) (n : Nat) : RowWork c s (storeRecords c x m record s n) :=
  RowWork.foldl (fun t _ => spWrite_rowWork t c _ _) s _

section
variable {record : Nat → List Byte} (hlen : ∀ r, (record r).length = m)
include hlen

theorem scratchKept_storeRecords (s : State) (n : Nat) : ScratchKept s (storeRecords c x m record s n) c x (m * n) :=
  scratchKept_records (fun t r => by simpa only [hlen r] using scratchKept_spWrite t c (x + m * r) (record r)) s n

/-- Each record of the run is read as it was stored: those after it lie above it. -/
theorem spRead_storeRecords (s : State) {n : Nat} (hin : x + m * n ≤ spSize) {r : Nat} (hr : r < n) :
    spRead (storeRecords c x m record s n) c (x + m * r) m = record r := by
  induction n with
  | zero => exact absurd hr (Nat.not_lt_zero r)
  | succ n ih =>
    have hend : m * (n + 1) = m * n + m := Nat.mul_succ m n
    rw [storeRecords_succ]
    obtain hbefore | rfl := Nat.lt_succ_iff_lt_or_eq.mp hr
    · have hbelow : m * r + m ≤ m * n := Nat.mul_succ m r ▸ Nat.mul_le_mul_left m hbefore
      rw [(scratchKept_spWrite _ c (x + m * n) (record n)).spRead_eq (by omega) (.inl (by omega))]
      exact ih (by omega) hbefore
    · have hrec := spRead_spWrite_self (storeRecords c x m record s r) c (x := x + m * r) (bs := record r) (by rw [hlen]; omega)
      rwa [hlen] at hrec

end

end

/-! ## EPI_BIND (R112, R115) -/

/-- An EPI_BIND with sets still to drain keeps its ranges. -/
theorem closeEpi_open {k : Core} {e : EpiSt} (hcur : curEpi k = some e) (hdrain : e.drained ≠ e.ended) : closeEpi k = k := by
  simp only [closeEpi, hcur, if_neg hdrain]

theorem closeEpi_frame (k : Core) : closeEpi k = { k with board := (closeEpi k).board, epis := (closeEpi k).epis } := by
  unfold closeEpi
  split
  · rfl
  · split <;> rfl

theorem closeEpi_keeps (k : Core) : (closeEpi k).held = k.held ∧ (closeEpi k).pc = k.pc ∧ (closeEpi k).loops = k.loops := by
  rw [closeEpi_frame k]
  exact ⟨rfl, rfl, rfl⟩

/-- A word's ranges stand in the scoreboard under its holder. -/
theorem mem_board_enterHulls {k : Core} {as : List Access} {r : SbRange} (hr : r ∈ hulls as) :
    { r with holder := k.nextHolder } ∈ (enterHulls k as).board :=
  List.mem_append_right _ (List.mem_map.mpr ⟨r, hr, rfl⟩)

theorem board_subset_enterHulls (k : Core) (as : List Access) : k.board ⊆ (enterHulls k as).board :=
  List.subset_append_left ..

/-! ## The words that run a chain or a merge (R114, R117, R141) -/

/-- `u` is `s` after a word of core `c` ran and holds the ranges of `as` (R115, R147): the core has advanced and stored in its own
scratchpad. -/
structure ChainRan (c : Nat) (as : List Access) (s u : State) : Prop where
  cores : CoresKept s u c
  lpddr : u.lpddr = s.lpddr
  board : (Machine.core u c).board
    = (Machine.core s c).board ++ (hulls as).map (fun r => { r with holder := (Machine.core s c).nextHolder })
  place : (Machine.core u c).pc = (Machine.core s c).advance.pc
  others : ∀ d x, d ≠ c → x < spSize → spByte u d x = spByte s d x

/-- Work on rows, and then the ranges are held. -/
theorem RowWork.chainRan {c : Nat} {s t : State} (h : RowWork c s t) (as : List Access) : ChainRan c as s (chainDone t c as) where
  cores := coresKept_trans h.cores (coresKept_modCore t c _)
  lpddr := h.lpddr
  board := by rw [chainDone, core_modCore_self, h.own]; rfl
  place := by rw [chainDone, core_modCore_self, h.own]; rfl
  others := h.others

/-- A word that names no chain only lets its core go on. -/
theorem chainRan_advance (s : State) (c : Nat) : ChainRan c [] s (advance s c) where
  cores := coresKept_modCore s c _
  lpddr := rfl
  board := by rw [advance, core_modCore_self]; exact (List.append_nil _).symm
  place := by rw [advance, core_modCore_self]
  others := fun _ _ _ _ => rfl

section
variable (s : State) (c w : Nat)

theorem passRow_rowWork (ch : Chain) (p : PassFields) (r : RowId) : RowWork c s (passRow s c ch p r).1 := stagesRow_rowWork ..

theorem storeBlockRow_rowWork (f : Fmt) (p : PassFields) (row : Nat) (o : RowOut) : RowWork c s (storeBlockRow s c f p row o) := by
  unfold storeBlockRow
  dsimp only
  split
  · exact (RowWork.foldl (fun _ _ => spWrite_rowWork ..) s _).trans (RowWork.foldl (fun _ _ => spWrite_rowWork ..) _ _)
  · exact RowWork.foldl (fun _ _ => spWrite_rowWork ..) s _

theorem prologueEffect_ran : ChainRan c (passAccess true s c w) s (prologueEffect s c (Machine.core s c) w) := by
  unfold prologueEffect passAccess
  dsimp only
  cases chainOf s c (passFields w).chain with
  | none => exact chainRan_advance s c
  | some ch => exact (RowWork.foldl (fun _ _ => (passRow_rowWork ..).trans (storeBlockRow_rowWork ..)) s _).chainRan _

theorem vpassEffect_ran : ChainRan c (passAccess false s c w) s (vpassEffect s c (Machine.core s c) w) := by
  unfold vpassEffect passAccess
  dsimp only
  cases chainOf s c (passFields w).chain with
  | none => exact chainRan_advance s c
  | some ch =>
    refine (RowWork.foldl (fun _ _ => ?_) s _).chainRan _
    exact ((passRow_rowWork ..).trans (storeRow_rowWork ..)).trans (keepBound_rowWork ..)

/-- The store of a merge word lies in the scratchpad, whole. -/
theorem mergeAccess_inside {n : Nat} (hn : 0 < n) (hin : inScratchpad (mergeAccess n w) = true) :
    (mergeFields w).2.2.2 + n * (mergeFields w).1 ≤ spSize := by
  have hstore := List.all_eq_true.mp hin _ (List.mem_cons_of_mem _ List.mem_cons_self)
  have hsome : n * (mergeFields w).1 ≠ 0 := Nat.mul_ne_zero (Nat.ne_of_gt hn) (Nat.succ_ne_zero _)
  simpa only [hsome, decide_false, Bool.false_or, decide_eq_true_eq] using hstore

theorem logUnit_frame (code x : Nat) : LogOnly s (logUnit s c code x) := logErr_frame ..

/-- RECMERGE passes over its rows; the step of a row stores at most its record, and may log. -/
theorem recMergeEffect_eq : ∃ f : State → Nat → State,
    recMergeEffect s c (Machine.core s c) w = chainDone ((List.range (mergeFields w).1).foldl f s) c (mergeAccess 64 w)
      ∧ ∀ t r, RowWork c t (f t r) ∧ ScratchKept t (f t r) c ((mergeFields w).2.2.2 + 64 * r) 64 := by
  refine ⟨_, rfl, fun t r => ?_⟩
  have hstored (m : StatRec) : ScratchKept t (spWrite t c ((mergeFields w).2.2.2 + 64 * r) m.toBytes) c
      ((mergeFields w).2.2.2 + 64 * r) 64 := by
    simpa only [StatRec.toBytes_length] using scratchKept_spWrite t c ((mergeFields w).2.2.2 + 64 * r) m.toBytes
  dsimp only
  split
  · exact ⟨.refl c t, scratchKept_of_eq rfl⟩
  · next m bad _ =>
    cases bad with
    | false => exact ⟨spWrite_rowWork .., hstored m⟩
    | true =>
      have hlog := logUnit_frame (spWrite t c ((mergeFields w).2.2.2 + 64 * r) m.toBytes) c 0x0021 ((mergeFields w).2.2.2 + 64 * r)
      exact ⟨(spWrite_rowWork ..).trans (rowWork_logOnly c hlog), (hstored m).trans (scratchKept_of_eq (logOnly_memories hlog).2.1)⟩

theorem recMergeEffect_ran : ChainRan c (mergeAccess 64 w) s (recMergeEffect s c (Machine.core s c) w)
    ∧ ScratchKept s (recMergeEffect s c (Machine.core s c) w) c (mergeFields w).2.2.2 (64 * (mergeFields w).1) := by
  obtain ⟨f, heff, hstep⟩ := recMergeEffect_eq s c w
  rw [heff]
  exact ⟨(RowWork.foldl (fun t r => (hstep t r).1) s _).chainRan _, scratchKept_records (fun t r => (hstep t r).2) s _⟩

/-- The record that SMXMERGE stores for row `r` (R141). -/
def smxMerged (r : Nat) : List Byte :=
  (smxMergeParts SmxRec.fresh ((List.range (mergeFields w).2.1).map fun p =>
    SmxRec.ofBytes (spRead s c ((mergeFields w).2.2.1 + 32 * (r * (mergeFields w).2.1 + p)) 32))).toBytes

theorem smxMerged_length (r : Nat) : (smxMerged s c w r).length = 32 := SmxRec.toBytes_length _

/-- SMXMERGE stores its records in a run, each folded from what stood there before the word. -/
theorem smxMergeEffect_eq : smxMergeEffect s c (Machine.core s c) w
    = chainDone (storeRecords c (mergeFields w).2.2.2 32 (smxMerged s c w) s (mergeFields w).1) c (mergeAccess 32 w) := rfl

theorem smxMergeEffect_frame : let u := smxMergeEffect s c (Machine.core s c) w
    u = { s with scratch := u.scratch, cores := u.cores } := by
  obtain ⟨b, k, hframe⟩ := storeRecords_frame (c := c) (x := (mergeFields w).2.2.2) (m := 32) (smxMerged s c w) s (mergeFields w).1
  rw [smxMergeEffect_eq, hframe]
  rfl

theorem smxMergeEffect_ran : ChainRan c (mergeAccess 32 w) s (smxMergeEffect s c (Machine.core s c) w) :=
  smxMergeEffect_eq s c w ▸ (storeRecords_rowWork ..).chainRan _

theorem scratchKept_smxMergeEffect :
    ScratchKept s (smxMergeEffect s c (Machine.core s c) w) c (mergeFields w).2.2.2 (32 * (mergeFields w).1) :=
  scratchKept_storeRecords (smxMerged_length s c w) s _

theorem spRead_smxMergeEffect (hin : inScratchpad (mergeAccess 32 w) = true) {r : Nat} (hr : r < (mergeFields w).1) :
    spRead (smxMergeEffect s c (Machine.core s c) w) c ((mergeFields w).2.2.2 + 32 * r) 32 = smxMerged s c w r :=
  spRead_storeRecords (smxMerged_length s c w) s (mergeAccess_inside w (by decide) hin) hr

end

/-- Settles O24: EPI_BIND by the core it leaves, the chain words and RECMERGE by the work on their rows, SMXMERGE by the run of
records that it stores. -/
theorem chainWordsIssue : Obligations.ChainWordsIssue := by
  refine ⟨fun s c w hword hfree hin => ?_, fun s c w hword hfree hin => ?_, fun s c w hword hfree hin => ?_,
    fun s c w hword hfree hin => ?_, fun s c w hword hfree hin => ?_⟩
  · obtain ⟨hheld, hpc, hloops⟩ := closeEpi_keeps (Machine.core s c)
    refine ⟨epiBindEffect s c (Machine.core s c) w, issue_runs hword hfree hin, rfl, coresKept_setCore s c _, ?_⟩
    rw [epiBindEffect, core_setCore_self]
    refine ⟨⟨_, rfl, rfl, rfl, rfl, rfl, fun r hr => mem_board_enterHulls hr⟩, fun e hcur hdrain r hr => ?_, hheld,
      advance_pc_congr hpc hloops⟩
    rw [closeEpi_open hcur hdrain]
    exact board_subset_enterHulls _ _ hr
  · have hran := prologueEffect_ran s c w
    exact ⟨_, issue_runs hword hfree hin, rfl, hran.cores, hran.lpddr, hran.board, hran.place, hran.others⟩
  · have hran := vpassEffect_ran s c w
    exact ⟨_, issue_runs hword hfree hin, rfl, hran.cores, hran.lpddr, hran.board, hran.place, hran.others⟩
  · obtain ⟨hran, hkept⟩ := recMergeEffect_ran s c w
    exact ⟨_, issue_runs hword hfree hin, rfl, hran.cores, hran.lpddr, hran.board, hran.place, hkept⟩
  · have hran := smxMergeEffect_ran s c w
    exact ⟨_, issue_runs hword hfree hin, smxMergeEffect_frame s c w, hran.cores, fun r hr => spRead_smxMergeEffect s c w hin hr,
      scratchKept_smxMergeEffect s c w, hran.place⟩

end Sys2Proof.Proofs
end

section
/-!
SUPPORT. The statements of spec/08_scratchpad_tiers.md settled. First what reads and writes of memories bring and keep, and what a
transfer leaves of the units; then one theorem for each word and event, and last the two states in which the statements fail.
-/
namespace Sys2Proof.Machine

open Sys2Proof.Laws

/-! ## Bytes read, written and zeroed -/

section
variable (m : Mem) (a n : Nat)

@[simp] theorem memRead_length : (memRead m a n).length = n := by simp [memRead, tgetList]

theorem memRead_memWrite_self (bs : List Byte) : memRead (memWrite m a bs) a bs.length = bs := by
  refine List.ext_getElem (memRead_length ..) fun i _ hi => ?_
  have hbyte : (memRead (memWrite m a bs) a bs.length)[i]'(by simpa using hi) = memByte (memWrite m a bs) (a + i) := by
    simp [memRead, tgetList, memByte]
  rw [hbyte, memByte_memWrite, dif_pos (by omega)]
  simp only [Nat.add_sub_cancel_left]

/-- A zeroed byte reads 0, another as before. -/
theorem memByte_memZero (x : Nat) : memByte (memZero m a n) x = if a ≤ x ∧ x < a + n then 0 else memByte m x := by
  induction m with
  | nil => simp [memZero, memByte, tget, memDefault]
  | cons e m ih =>
    obtain ⟨j, v⟩ := e
    by_cases hout : j < a ∨ a + n ≤ j
    · rw [show memZero ((j, v) :: m) a n = (j, v) :: memZero m a n from List.filter_cons_of_pos (by simpa using hout)]
      by_cases hj : j = x
      · simp only [memByte, tget, hj, if_true]
        rw [if_neg (by omega)]
      · simpa only [memByte, tget, hj, if_false] using ih
    · rw [show memZero ((j, v) :: m) a n = memZero m a n from List.filter_cons_of_neg (by simpa using hout), ih]
      by_cases hj : j = x
      · rw [if_pos (by omega), if_pos (by omega)]
      · simp only [memByte, tget, hj, if_false]

end

section
variable (s : State) (c x : Nat) (bs : List Byte)

theorem scratch_spWrite : (spWrite s c x bs).scratch = (spPut s c x bs).scratch := by
  obtain ⟨k, hk⟩ := spWrite_eq_spPut s c x bs
  rw [hk]

/-- A read and the bytes kept after a write into the scratchpad, by whatever changes nothing else of it. -/
theorem scratch_filled {u : State} (hscratch : u.scratch = (spPut s c x bs).scratch) (hin : 0 < bs.length → x + bs.length ≤ spSize) :
    spRead u c x bs.length = bs ∧ ScratchKept s u c x bs.length := by
  have hsame : u.scratch = (spWrite s c x bs).scratch := hscratch.trans (scratch_spWrite ..).symm
  refine ⟨?_, (scratchKept_spWrite s c x bs).trans (scratchKept_of_eq hsame)⟩
  obtain hnone | hsome := Nat.eq_zero_or_pos bs.length
  · rw [List.eq_nil_of_length_eq_zero hnone]
    rfl
  · rw [spRead, hsame]
    exact spRead_spWrite_self s c (hin hsome)

end

/-! ## What a read delivers (R447, R455) -/

section
variable {s : State} {r g o n : Nat} {new old : List Byte}

@[simp] theorem storedBytes_length : (storedBytes s r g o new old).length = new.length := by
  unfold storedBytes
  split <;> simp

@[simp] theorem servedBytes_length : (servedBytes s r g o new old).length = new.length := by
  unfold servedBytes
  dsimp only
  split <;> simp

@[simp] theorem regionRead_length : (regionRead s g o n).length = n := by
  unfold regionRead
  split
  · simp
  · exact memRead_length ..

theorem storedBytes_served (h : refusedAccesses s r g o new.length = 0) : storedBytes s r g o new old = new := if_pos h

/-- Below offset 2^48 the key of a byte names its region: where `readsPoison` finds no segment, no byte is of a poisoned word. -/
theorem isPoisoned_of_clean (hclean : readsPoison s g o n = false) (hend : o + n ≤ 2 ^ 48) {i : Nat} (hi : i < n) :
    isPoisoned s g (o + i) = false := by
  refine Bool.eq_false_iff.mpr fun hword => ?_
  have hnone : ∀ w ∈ s.poison, w / 2 ^ 48 = g → o / 2048 ≤ w % 2 ^ 48 / 2048 → (o + n - 1) / 2048 < w % 2 ^ 48 / 2048 := by
    simpa [readsPoison] using hclean
  have hout := hnone _ (List.contains_iff_mem.mp hword)
  simp only [ldKey] at hout
  omega

theorem servedBytes_whole (hserved : refusedAccesses s r g o new.length = 0) (hclean : readsPoison s g o new.length = false)
    (hend : o + new.length ≤ 2 ^ 48) : servedBytes s r g o new old = new := by
  unfold servedBytes
  rw [storedBytes_served hserved]
  dsimp only
  split
  · rfl
  · refine List.ext_getElem (by simp) fun i _ hi => ?_
    simp [isPoisoned_of_clean hclean hend hi, hi]

end

/-! ## What a transfer leaves of the units (R444, R447) -/

section
variable (s : State) (c i die g o n : Nat) (wr : Bool)

theorem refusedAccesses_congr {s t : State} (h : t.topo = s.topo) (r : Nat) : refusedAccesses t r g o n = refusedAccesses s r g o n := by
  rw [show t = { t with topo := s.topo } by rw [← h]]
  rfl

theorem chargeOne_topo : (chargeOne s i die g o).topo = s.topo := by
  unfold chargeOne
  dsimp only
  split
  · rfl
  · split <;> rw [(counted_event ..).frame]

theorem chargeAll_topo : (chargeAll s i die g n o).topo = s.topo := by
  induction n generalizing s o with
  | zero => rfl
  | succ n ih => exact (ih ..).trans (chargeOne_topo ..)

theorem accessed_topo : (accessed s i die g o n wr).topo = s.topo := by
  unfold accessed
  split
  · rfl
  · dsimp only
    rw [(counted_event ..).frame]
    exact chargeAll_topo ..

theorem topo_loseItems_bumpBy (a k : Nat) (items : List Nat) : (loseItems (bumpBy s a k) i items).topo = s.topo := by
  obtain ⟨r, e, h⟩ := bumpBy_frame s a k
  rw [h]
  rfl

theorem learnFrom_units (r : Nat) : (learnFrom s r g o n).topo.units = s.topo.units :=
  List.foldlRecOn (motive := fun t : State => t.topo.units = s.topo.units) _ _ rfl fun _ ht _ _ => ht

/-- A transfer that is not served whole teaches the group epochs, and a served one teaches it nothing. -/
theorem shortfall_topo : (shortfall s c i g o n wr).topo.units = s.topo.units
    ∧ (refusedAccesses s (c / 64) g o n = 0 → (shortfall s c i g o n wr).topo = s.topo) := by
  unfold shortfall
  dsimp only
  split
  · exact ⟨rfl, fun _ => rfl⟩
  · split
    · have htopo := topo_loseItems_bumpBy s i Reg.TOPO_CNT_UNAVAIL (refusedAccesses s (c / 64) g o n) (workOf (core s c))
      exact ⟨by rw [htopo], fun _ => htopo⟩
    · next hrefused => exact ⟨by rw [learnFrom_units, topo_loseItems_bumpBy], fun hserved => absurd hserved hrefused⟩

theorem transfer_topo : (transfer s c g o n wr).topo.units = s.topo.units
    ∧ (refusedAccesses s (c / 64) g o n = 0 → (transfer s c g o n wr).topo = s.topo) := by
  unfold transfer
  split
  · exact ⟨rfl, fun _ => rfl⟩
  · split
    · exact ⟨rfl, fun _ => rfl⟩
    · next i _ =>
      have hacc := accessed_topo s i (dieOf c) g o n wr
      obtain ⟨hunits, htopo⟩ := shortfall_topo (accessed s i (dieOf c) g o n wr) c i g o n wr
      rw [refusedAccesses_congr g o n hacc] at htopo
      exact ⟨by rw [hunits, hacc], fun hserved => (htopo hserved).trans hacc⟩

end

end Sys2Proof.Machine
end

section
namespace Sys2Proof.Proofs

open Sys2Proof.Machine Sys2Proof.Laws

/-! ## Words and entries that move bytes -/

theorem inScratchpad_single {x n : Nat} {wr : Bool} (h : inScratchpad [⟨x, n, wr⟩] = true) (hn : 0 < n) : x + n ≤ spSize := by
  simpa [inScratchpad, Nat.ne_of_gt hn] using h

/-- The bytes that a read of region `g` at `o` brings to `n` bytes of core `c` at `x`. -/
def broughtBytes (s : State) (c g o x n : Nat) : List Byte := servedBytes s (c / 64) g o (regionRead s g o n) (spRead s c x n)

/-- `u` is `s` after core `c` read `n` bytes of region `g` at `o` to its scratchpad at `x`, and sent copies to the cores `dsts`: a GET or a
prefetch entry. -/
structure Fetched (c g o x n : Nat) (dsts : List Nat) (tag : Option Nat) (s u : State) : Prop where
  frame : u = { s with
    scratch := u.scratch, cores := u.cores, deliveries := u.deliveries, credits := u.credits, steps := u.steps
    regs := u.regs, evt := u.evt, topo := u.topo }
  cores : CoresKept s u c
  bytes : spRead u c x n = broughtBytes s c g o x n
  rest : ScratchKept s u c x n
  topo : refusedAccesses s (c / 64) g o n = 0 → u.topo = s.topo
  sent : u.deliveries = s.deliveries ++ dsts.map fun d =>
    { core := d, tag := tag, addr := x, data := broughtBytes s c g o x n, asker := c / 64
      askerEpoch := (unitSt s 0 (c / 64)).epoch, groupEpoch := (unitSt s 0 (d / 64)).epoch }

section
variable (s : State) (c g o x n : Nat)

@[simp] theorem broughtBytes_length : (broughtBytes s c g o x n).length = n := by simp [broughtBytes]

/-- Where every access is served and no segment read holds a poisoned word, all bytes arrive: below offset 2^48, which every image keeps. -/
theorem broughtBytes_whole {s : State} {c g o n : Nat} (x : Nat) (hserved : refusedAccesses s (c / 64) g o n = 0)
    (hclean : readsPoison s g o n = false) (hend : o + n ≤ 2 ^ 48) : broughtBytes s c g o x n = regionRead s g o n :=
  servedBytes_whole (by simpa using hserved) (by simpa using hclean) (by simpa using hend)

theorem deliveries_deliver {t : State} (hunits : t.topo.units = s.topo.units) (dsts : List Nat) (tag : Option Nat) (bs : List Byte) :
    (deliver t c dsts tag x bs).deliveries = t.deliveries ++ dsts.map fun d =>
      { core := d, tag := tag, addr := x, data := bs, asker := c / 64, askerEpoch := (unitSt s 0 (c / 64)).epoch
        groupEpoch := (unitSt s 0 (d / 64)).epoch } := by
  simp only [deliver, unitSt, hunits]

theorem transfer_core (wr : Bool) (d : Nat) : Machine.core (transfer s c g o n wr) d = Machine.core s d :=
  core_congr (by rw [(transfer_transferred s c g o n wr).frame]) d

end

/-- The bytes are written, copies leave, and the core goes on. -/
theorem fetched_modCore {s t : State} {c g o x n : Nat} (hin : 0 < n → x + n ≤ spSize) {k : Tab Core}
    (ht : t = { spPut (transfer s c g o n false) c x (broughtBytes s c g o x n) with cores := k })
    (hcores : CoresKept s t c) (dsts : List Nat) (tag : Option Nat) (f : Core → Core) :
    Fetched c g o x n dsts tag s (modCore (deliver t c dsts tag x (broughtBytes s c g o x n)) c f) := by
  have hframe := (transfer_transferred s c g o n false).frame
  obtain ⟨hunits, htopo⟩ := transfer_topo s c g o n false
  generalize transfer s c g o n false = v at hframe hunits htopo ht
  have hscratch : v.scratch = s.scratch := by rw [hframe]
  have hdeliveries : v.deliveries = s.deliveries := by rw [hframe]
  obtain ⟨hbytes, hrest⟩ := scratch_filled v c x (broughtBytes s c g o x n)
    (u := modCore (deliver t c dsts tag x (broughtBytes s c g o x n)) c f) (by rw [ht]; rfl) (by simpa using hin)
  rw [broughtBytes_length] at hbytes hrest
  exact {
    frame := by rw [ht, hframe]; rfl
    cores := coresKept_trans hcores (coresKept_modCore _ c f)
    bytes := hbytes
    rest := (scratchKept_of_eq hscratch).trans hrest
    topo := fun hserved => by rw [← htopo hserved, ht]; rfl
    sent := (deliveries_deliver s c x (by rw [ht]; exact hunits) dsts tag _).trans (by rw [ht, ← hdeliveries]; rfl) }

/-- A word that goes outstanding leaves the core that wrote the bytes one further on. -/
theorem startDma_advance {k k' : Core} (h : k' = { k with held := k'.held, rowBounds := k'.rowBounds, dirty := k'.dirty })
    (as : List Access) (tag entry : Option Nat) :
    (startDma k' as tag entry).advance.dma = k.dma ++ [Dma.mk k.nextHolder tag entry]
      ∧ (startDma k' as tag entry).advance.pc = k.advance.pc := by
  rw [h]
  exact ⟨rfl, rfl⟩

end Sys2Proof.Proofs
end

section
namespace Sys2Proof.Proofs

open Sys2Proof.Machine Sys2Proof.Laws

/-! ## GET, PUT and XFER (R153) -/

section
variable {s : State} {c : CoreNo} {k : Core} {w o : Nat} {f : DmaFields} (hf : dmaFields w = f)
include hf

section
variable (ho : f.at_ k = o)
include ho

/-- The effect of a GET of fields `f` at offset `o`. -/
theorem getEffect_eq : getEffect s c k w
    = modCore (deliver (spWrite (transfer s c f.region o f.len false) c f.sp (broughtBytes s c f.region o f.sp f.len)) c
        (otherCores s c f.dset) (some f.tag) f.sp (broughtBytes s c f.region o f.sp f.len)) c
      fun k' => (startDma k' (getReach k w) (some f.tag) none).advance := by
  subst hf ho
  rfl

/-- The effect of a PUT of fields `f` at offset `o`. -/
theorem putEffect_eq : putEffect s c k w
    = modCore (ldWrite (transfer s c f.region o f.len true) f.region o
        (storedBytes s ((c : Nat) / 64) f.region o (spRead s c f.sp f.len) (ldRead s f.region o f.len))) c
      fun k' => (startDma k' (putReach k w) (some f.tag) none).advance := by
  subst hf ho
  rfl

end

section
variable (ho : f.at_ (Machine.core s c) = o)
include ho

theorem issueDma_runs {op : Nat} {reach : Core → Nat → List Access} {eff : State → Core → Nat → State}
    (hword : wordOf s c op = some w) (hfree : rangeHold (Machine.core s c) (reach (Machine.core s c) w) = none)
    (hin : inScratchpad (reach (Machine.core s c) w) = true) (hregion : inRegion s f.region o f.len = true) :
    finish (issueDma s c op reach eff) = .next (settle (eff s (Machine.core s c) w)) := by
  subst hf ho
  simp [issueDma, hword, hfree, hin, hregion, finish, done]

/-- GET: its bytes, its copies, and the word outstanding under its tag. -/
theorem get_issues (hword : wordOf s c 0x50 = some w)
    (hfree : rangeHold (Machine.core s c) (getReach (Machine.core s c) w) = none)
    (hin : inScratchpad (getReach (Machine.core s c) w) = true) (hregion : inRegion s f.region o f.len = true) :
    ∃ u, exec (.get c) s = .next (settle u) ∧ Fetched c f.region o f.sp f.len (otherCores s c f.dset) (some f.tag) s u
      ∧ (Machine.core u c).dma = (Machine.core s c).dma ++ [Dma.mk (Machine.core s c).nextHolder (some f.tag) none]
      ∧ (Machine.core u c).pc = (Machine.core s c).advance.pc := by
  have hinside : 0 < f.len → f.sp + f.len ≤ spSize := hf ▸ inScratchpad_single hin
  obtain ⟨k, hk⟩ := spWrite_eq_spPut (transfer s c f.region o f.len false) c f.sp (broughtBytes s c f.region o f.sp f.len)
  have hrow := spWrite_rowWork (transfer s c f.region o f.len false) c f.sp (broughtBytes s c f.region o f.sp f.len)
  have hown := hrow.own
  rw [transfer_core] at hown
  refine ⟨_, issueDma_runs hf ho hword hfree hin hregion, ?_⟩
  rw [getEffect_eq hf ho, core_modCore_self]
  exact ⟨fetched_modCore hinside hk (fun d hd => (hrow.cores d hd).trans (transfer_core ..)) _ _ _, startDma_advance hown _ _ _⟩

/-- PUT: the bytes that its controllers serve stand in the region, and no other byte of it changes. -/
theorem put_issues (hword : wordOf s c 0x51 = some w)
    (hfree : rangeHold (Machine.core s c) (putReach (Machine.core s c) w) = none)
    (hin : inScratchpad (putReach (Machine.core s c) w) = true) (hregion : inRegion s f.region o f.len = true) :
    ∃ u, exec (.put c) s = .next (settle u)
      ∧ u = { s with
          lpddr := u.lpddr, poison := u.poison, twin := u.twin, cores := u.cores, credits := u.credits, steps := u.steps
          regs := u.regs, evt := u.evt, topo := u.topo }
      ∧ ldRead u f.region o f.len = storedBytes s ((c : Nat) / 64) f.region o (spRead s c f.sp f.len) (ldRead s f.region o f.len)
      ∧ (refusedAccesses s ((c : Nat) / 64) f.region o f.len = 0 →
          u.topo = s.topo ∧ ldRead u f.region o f.len = spRead s c f.sp f.len)
      ∧ CoresKept s u c
      ∧ (∀ a, a < ldKey f.region o ∨ ldKey f.region o + f.len ≤ a → memByte u.lpddr a = memByte s.lpddr a)
      ∧ (Machine.core u c).dma = (Machine.core s c).dma ++ [Dma.mk (Machine.core s c).nextHolder (some f.tag) none]
      ∧ (Machine.core u c).pc = (Machine.core s c).advance.pc := by
  have hframe := (transfer_transferred s c f.region o f.len true).frame
  have hcore := transfer_core s c f.region o f.len true
  obtain ⟨-, htopo⟩ := transfer_topo s c f.region o f.len true
  have hread : (spRead s c f.sp f.len).length = f.len := memRead_length ..
  have hlen := (storedBytes_length (s := s) (r := (c : Nat) / 64) (g := f.region) (o := o) (new := spRead s c f.sp f.len)
    (old := ldRead s f.region o f.len)).trans hread
  have hwhole (hserved : refusedAccesses s ((c : Nat) / 64) f.region o f.len = 0) :
      storedBytes s ((c : Nat) / 64) f.region o (spRead s c f.sp f.len) (ldRead s f.region o f.len) = spRead s c f.sp f.len :=
    storedBytes_served (hread.symm ▸ hserved)
  refine ⟨_, issueDma_runs hf ho hword hfree hin hregion, ?_⟩
  rw [putEffect_eq hf ho, core_modCore_self]
  generalize storedBytes s ((c : Nat) / 64) f.region o (spRead s c f.sp f.len) (ldRead s f.region o f.len) = bs at hlen hwhole
  generalize transfer s c f.region o f.len true = t at hframe hcore htopo
  have hstored : memRead (memWrite t.lpddr (ldKey f.region o) bs) (ldKey f.region o) f.len = bs := hlen ▸ memRead_memWrite_self ..
  have hown : Machine.core (ldWrite t f.region o bs) c = Machine.core s c := hcore c
  refine ⟨by rw [hframe]; rfl, hstored, fun hserved => ⟨htopo hserved, hstored.trans (hwhole hserved)⟩,
    fun d hd => (coresKept_modCore _ (c : Nat) _ d hd).trans (hcore d), fun a ha => ?_, hown ▸ startDma_advance rfl _ _ _⟩
  refine (memByte_memWrite ..).trans ((dif_neg ?_).trans ?_)
  · rw [hlen]
    omega
  · rw [hframe]

end

/-- XFER: the bytes are on their way to the named core of the section. -/
theorem xfer_issues {i t : Nat} (hword : wordOf s c 0x52 = some w)
    (hfree : rangeHold (Machine.core s c) (putReach (Machine.core s c) w) = none)
    (hin : inScratchpad (putReach (Machine.core s c) w) = true)
    (hsect : coreSection s c = some i) (hdest : (sectionCores s i)[f.region]? = some t) :
    ∃ u, exec (.xfer c) s = .next (settle u) ∧ u = { s with cores := u.cores, deliveries := u.deliveries } ∧ CoresKept s u c
      ∧ u.deliveries = s.deliveries
        ++ [{ core := t, tag := some f.tag, addr := f.sp, data := spRead s c f.sp f.len, asker := (c : Nat) / 64
              askerEpoch := (unitSt s 0 ((c : Nat) / 64)).epoch, groupEpoch := (unitSt s 0 (t / 64)).epoch }]
      ∧ (Machine.core u c).pc = (Machine.core s c).advance.pc := by
  subst hf
  have heff : xferEffect s c (Machine.core s c) w
      = modCore (deliver s c [t] (some (dmaFields w).tag) (dmaFields w).sp (spRead s c (dmaFields w).sp (dmaFields w).len)) c
          fun k => (startDma k (putReach (Machine.core s c) w) (some (dmaFields w).tag) none).advance := by
    simp only [xferEffect, hsect, hdest]
  refine ⟨_, issue_runs (reach := putReach) (hold := fun k v => rangeHold k (putReach k v))
    (eff := fun s' k v => xferEffect s' c k v) hword hfree hin, ?_⟩
  rw [heff, core_modCore_self]
  exact ⟨rfl, coresKept_modCore _ (c : Nat) _, rfl, rfl⟩

end

end Sys2Proof.Proofs
end

section
namespace Sys2Proof.Proofs

open Sys2Proof.Machine Sys2Proof.Laws

/-! ## Completions, deliveries and prefetch entries (R147, R154, R156, R444) -/

section
variable {s : State} {c : CoreNo}

/-- R147: the word or entry leaves the outstanding list, its ranges are released, and an entry counts as done. -/
theorem dmaCompletion_releases {n : Nat} {d : Dma} (hd : (Machine.core s c).dma[n]? = some d) :
    ∃ u, exec (.dmaCompletion c n) s = .next (settle u) ∧ u = { s with cores := u.cores } ∧ CoresKept s u c
      ∧ (Machine.core u c).dma = (Machine.core s c).dma.eraseIdx n
      ∧ (Machine.core u c).board = (Machine.core s c).board.filter (fun r => decide (r.holder ≠ d.holder))
      ∧ (∀ e, d.entry = some e → e ∈ (Machine.core u c).pfDone) ∧ (Machine.core u c).pc = (Machine.core s c).pc := by
  have heff : dmaComplete s c n = modCore s c fun k => { releaseHolder k d.holder with
      dma := (releaseHolder k d.holder).dma.eraseIdx n
      pfDone := d.entry.elim (releaseHolder k d.holder).pfDone (insertAsc · (releaseHolder k d.holder).pfDone) } := by
    simp only [dmaComplete, hd]
    cases d.entry <;> rfl
  refine ⟨_, rfl, ?_⟩
  rw [heff, core_modCore_self]
  refine ⟨rfl, coresKept_modCore s c _, rfl, rfl, fun e he => ?_, rfl⟩
  simp [he]

/-- `s` once delivery `d` is no longer under way. -/
def taken (s : State) (d : Delivery) : State := { s with deliveries := s.deliveries.erase d }

section
variable {d : Delivery} (hfirst : s.deliveries.find? (fun x => decide (x.core = (c : Nat))) = some d)
include hfirst

/-- R154: the delivery is written at its address, and counted under its tag. -/
theorem deliveryArrival_writes {t : Nat} (hstale : d.stale s = false) (htag : d.tag = some t)
    (hcount : tget (fun _ => 0) (Machine.core s c).arrive t < 65535) (hin : d.addr + d.data.length ≤ spSize)
    (hclear : sliceClearing (Machine.core s c) [⟨d.addr, d.data.length, true⟩] = false) :
    ∃ u, exec (.deliveryArrival c) s = .next (settle u)
      ∧ u = { s with deliveries := s.deliveries.erase d, scratch := u.scratch, cores := u.cores } ∧ CoresKept s u c
      ∧ spRead u c d.addr d.data.length = d.data ∧ ScratchKept s u c d.addr d.data.length
      ∧ tget (fun _ => 0) (Machine.core u c).arrive t = tget (fun _ => 0) (Machine.core s c).arrive t + 1 := by
  obtain ⟨k, hk⟩ := spWrite_eq_spPut (taken s d) c d.addr d.data
  have hrow := spWrite_rowWork (taken s d) c d.addr d.data
  have harrive : (Machine.core (spWrite (taken s d) c d.addr d.data) c).arrive = (Machine.core s c).arrive := by
    rw [hrow.own]
    rfl
  obtain ⟨hbytes, hrest⟩ := scratch_filled (taken s d) c d.addr d.data (scratch_spWrite ..) fun _ => hin
  have hwritten : deliveryArrive s c = arrival (spWrite (taken s d) c d.addr d.data) c t := by
    simp only [deliveryArrive, hfirst, hstale, hclear, htag, Bool.false_eq_true, if_false]
    rfl
  have heff := hwritten.trans (if_pos (by rw [harrive]; exact hcount))
  rw [harrive] at heff
  refine ⟨_, rfl, ?_⟩
  rw [heff, core_modCore_self]
  refine ⟨by rw [hk]; rfl, coresKept_trans hrow.cores (coresKept_modCore _ (c : Nat) _), hbytes, hrest, ?_⟩
  dsimp only
  exact tget_tset_self ..

/-- R444: a delivery from or to an earlier incarnation of a core group is discarded and counted. -/
theorem deliveryArrival_discards (hstale : d.stale s = true) :
    ∃ u, exec (.deliveryArrival c) s = .next (settle u)
      ∧ u = { s with deliveries := s.deliveries.erase d, regs := u.regs, evt := u.evt }
      ∧ reg u Reg.TOPO_CNT_STALE = min (reg s Reg.TOPO_CNT_STALE + 1) 0xFFFFFFFF ∧ RegsKept s u [Reg.TOPO_CNT_STALE] := by
  have heff : deliveryArrive s c = bump (taken s d) Reg.TOPO_CNT_STALE := by
    simp only [deliveryArrive, taken, hfirst, hstale, if_true]
  obtain ⟨r, v, hframe⟩ := bump_frame (taken s d) Reg.TOPO_CNT_STALE
  refine ⟨_, rfl, ?_⟩
  rw [heff]
  refine ⟨by rw [hframe]; rfl, ?_, regsKept_bumpBy (taken s d) _ 1⟩
  rw [reg_bump _ _ _ (by decide), if_pos rfl, show reg (taken s d) Reg.TOPO_CNT_STALE = reg s Reg.TOPO_CNT_STALE from rfl]

end

theorem core_deliver_spPut (t : State) (c : Nat) (dsts : List Nat) (tag : Option Nat) (x : Nat) (bs : List Byte) (d : Nat) :
    Machine.core (deliver (spPut t c x bs) c dsts tag x bs) d = Machine.core t d := rfl

/-- R156: the next entry of the schedule brings its bytes and is outstanding. -/
theorem prefetchEntry_issues {e : PfEntry} (hnext : (pfEntries s c)[(Machine.core s c).pfStarted]? = some e)
    (htrigger : triggered (Machine.core s c) e = true)
    (hflight : ((Machine.core s c).dma.filter fun d => d.entry.isSome).length < 8)
    (hfree : rangeHold (Machine.core s c) [⟨pfDest s e, e.len, true⟩] = none)
    (hin : inScratchpad [⟨pfDest s e, e.len, true⟩] = true)
    (hregion : inRegion s e.region (pfSource s c e) e.len = true) :
    ∃ u, exec (.prefetchEntry c) s = .next (settle u)
      ∧ Fetched c e.region (pfSource s c e) (pfDest s e) e.len (otherCores s c e.dset) none s u
      ∧ (Machine.core u c).pfStarted = (Machine.core s c).pfStarted + 1
      ∧ (Machine.core u c).dma
        = (Machine.core s c).dma ++ [Dma.mk (Machine.core s c).nextHolder none (some (Machine.core s c).pfStarted)] := by
  have heff : prefetchStart s c = .next (modCore (deliver
      (spPut (transfer s c e.region (pfSource s c e) e.len false) c (pfDest s e)
        (broughtBytes s c e.region (pfSource s c e) (pfDest s e) e.len))
      c (otherCores s c e.dset) none (pfDest s e) (broughtBytes s c e.region (pfSource s c e) (pfDest s e) e.len)) c
      fun k => { startDma (k.forgetBounds (pfDest s e) e.len) [⟨pfDest s e, e.len, true⟩] none (some (Machine.core s c).pfStarted) with
        pfStarted := (Machine.core s c).pfStarted + 1 }) := by
    have hroom := decide_eq_false (Nat.not_le.mpr hflight)
    simp only [prefetchStart, hnext, htrigger, hroom, hfree, hin, hregion, Bool.not_true, Bool.or_false, Bool.false_eq_true, if_false]
    rfl
  have hcore := transfer_core s c e.region (pfSource s c e) e.len false
  refine ⟨_, congrArg finish heff, fetched_modCore (inScratchpad_single hin) rfl (fun d _ => hcore d) _ _ _, ?_⟩
  rw [core_modCore_self, core_deliver_spPut, hcore]
  exact ⟨rfl, rfl⟩

end

/-! ## Slices (R148) -/

/-- `t` is `s` after writes that waited went into core `c`'s scratchpad. -/
structure WroteFills (c : Nat) (s t : State) : Prop where
  frame : t = { s with scratch := t.scratch, cores := t.cores }
  cores : CoresKept s t c
  own : Machine.core t c = { Machine.core s c with rowBounds := (Machine.core t c).rowBounds }

theorem WroteFills.trans {c : Nat} {s t u : State} (h : WroteFills c s t) (g : WroteFills c t u) : WroteFills c s u :=
  ⟨g.frame.trans (by rw [h.frame]), coresKept_trans h.cores g.cores, g.own.trans (by rw [h.own])⟩

theorem wroteFills_foldl (s : State) (c : Nat) (l : List (Nat × List Byte)) :
    WroteFills c s (l.foldl (fun t p => modCore (spPut t c p.1 p.2) c (·.forgetBounds p.1 p.2.length)) s) :=
  List.foldlRecOn l _ ⟨rfl, coresKept_of_eq c rfl, rfl⟩ fun t ht p _ => ht.trans
    ⟨rfl, coresKept_modCore (spPut t c p.1 p.2) c _, by rw [core_modCore_self]; rfl⟩

/-- What waited for cleared slices is written, and the rest waits on. -/
theorem runFills_wrote (s : State) (c : Nat) : WroteFills c (setCore s c { Machine.core s c with
    fills := (Machine.core s c).fills.filter fun p => sliceClearing (Machine.core s c) [⟨p.1, p.2.length, true⟩] }) (runFills s c) := by
  have hwrote := wroteFills_foldl (setCore s c { Machine.core s c with
      fills := (Machine.core s c).fills.filter fun p => sliceClearing (Machine.core s c) [⟨p.1, p.2.length, true⟩] }) c
    ((Machine.core s c).fills.filter fun p => !sliceClearing (Machine.core s c) [⟨p.1, p.2.length, true⟩])
  simpa only [runFills, Bool.not_not] using hwrote

theorem runFills_nil {s : State} {c : Nat} (h : (Machine.core s c).fills = []) :
    runFills s c = setCore s c { Machine.core s c with fills := [] } := by
  simp only [runFills, h]
  rfl

/-- The state in which slice `i` of core `c` is cleared and on, and what waited for it still waits. -/
def sliceOn (s : State) (c i : Nat) : State :=
  modCore { s with scratch := memZero s.scratch (spKey c (65536 * i)) 65536 } c fun k => { k with
    slices := tset (fun _ => SliceSt.off) k.slices i .on }

theorem sliceClearing_congr {k k' : Core} (h : k'.slices = k.slices) (as : List Access) : sliceClearing k' as = sliceClearing k as := by
  simp only [sliceClearing, h]

/-- R148: the slice is on; what waited for it alone waits no longer; where nothing waited, it reads zero. -/
theorem sliceClearDone_opens {s : State} {c : CoreNo} {i : SliceNo}
    (hclearing : tget (fun _ => SliceSt.off) (Machine.core s c).slices i = .clearing) :
    ∃ u, exec (.sliceClearDone c i) s = .next (settle u) ∧ u = { s with scratch := u.scratch, cores := u.cores } ∧ CoresKept s u c
      ∧ tget (fun _ => SliceSt.off) (Machine.core u c).slices i = .on
      ∧ (Machine.core u c).fills
        = (Machine.core s c).fills.filter (fun p => sliceClearing (Machine.core u c) [⟨p.1, p.2.length, true⟩])
      ∧ ((Machine.core s c).fills = [] → ScratchKept s u c (65536 * i) 65536
          ∧ ∀ x : Nat, 65536 * (i : Nat) ≤ x → x < 65536 * ((i : Nat) + 1) → spByte u c x = 0) := by
  have heff : sliceClearDone s c i = runFills (sliceOn s c i) c := if_pos hclearing
  have hon : Machine.core (sliceOn s c i) c = { Machine.core s c with
      slices := tset (fun _ => SliceSt.off) (Machine.core s c).slices i .on } := core_modCore_self ..
  have hwrote := runFills_wrote (sliceOn s c i) c
  have hown := hwrote.own
  rw [core_setCore_self] at hown
  have hslices : (Machine.core (runFills (sliceOn s c i) c) c).slices = (Machine.core (sliceOn s c i) c).slices := by rw [hown]
  have hothers : CoresKept s (sliceOn s c i) c := coresKept_modCore { s with scratch := (sliceOn s c i).scratch } (c : Nat) _
  refine ⟨_, rfl, ?_⟩
  rw [heff]
  refine ⟨hwrote.frame, coresKept_trans hothers (coresKept_trans (coresKept_setCore (sliceOn s c i) (c : Nat) _) hwrote.cores),
    ?_, ?_, fun hnone => ?_⟩
  · rw [hslices, hon]
    dsimp only
    exact tget_tset_self ..
  · simp only [sliceClearing_congr hslices]
    rw [hown, hon]
  · have hbyte (d y : Nat) : spByte (runFills (sliceOn s c i) c) d y
        = if spKey c (65536 * i) ≤ spKey d y ∧ spKey d y < spKey c (65536 * i) + 65536 then 0 else spByte s d y := by
      rw [runFills_nil (by rw [hon]; exact hnone)]
      exact memByte_memZero ..
    have hi := i.isLt
    refine ⟨fun d y hy hout => ?_, fun x hlo hhi => ?_⟩
    · rw [hbyte, if_neg]
      simp only [spKey, spSize] at hy ⊢
      omega
    · rw [hbyte, if_pos (by simp only [spKey]; omega)]

end Sys2Proof.Proofs
end

section
namespace Sys2Proof.Proofs

open Sys2Proof.Machine Sys2Proof.Laws

/-! ## A read past offset 2^48 of its region -/

/-- The first offset whose key names the next region (`ldKey`). -/
def farOffset : Nat := 2 ^ 48

/-- GET: 16 bytes from `farOffset` of region 0 to the start of the scratchpad. -/
def farGet : Nat := 0x50 * 2 ^ 120 + farOffset

/-- The prefetch entry that moves the same bytes. -/
def farEntry : PfEntry :=
  { trigger := 0xFFFF, dset := 0, versioned := false, item := false, region := 0, alloc := 0, dstOff := 0, len := 16, srcOff := farOffset }

/-- An image of one section of one core group, whose table holds `farGet` and whose schedule holds `farEntry`; its one region reaches
past `farOffset`. -/
def farImage : Image := { imageIn [] with
  sections := [{ id := 0, kind := 3, flags := 0, period := 1000, phase := 0, groups := [1], wcet := 1, chanBudget := 0,
                 energyBase := 0, chainBase := 0 }]
  seq := [{ sect := 0, gateCols := 0, gateRows := 0, seed := 0, words := [BitVec.ofNat 128 farGet] }]
  regions := [{ kind := 2, asset := 0xFFFF, size := farOffset + 16 }]
  prefetch := [{ sect := 0, entries := [farEntry] }] }

/-- Core 0 runs from its first word. The byte at `farOffset` is 1, and its word is poisoned; the scratchpad is zero. -/
def farPoisoned : State := { State.reset with
  topo := { TopoSt.reset with fuseGroups := [1], fuseMem := 1, units := [(0, { mode := .available, epoch := 0, at_ := none })] }
  bond := { BondSt.reset with mode := .sealed, image := some farImage }
  lpddr := [(farOffset, 1)]
  poison := [farOffset]
  cores := [(0, { Core.reset with idle := false })] }

/-- Every access of the read is served, and `readsPoison` finds no poisoned word. -/
theorem farRead_clean : refusedAccesses farPoisoned 0 0 farOffset 16 = 0 ∧ readsPoison farPoisoned 0 farOffset 16 = false := by
  decide +kernel

/-- The poisoned word is kept back all the same: its first byte stays 0 where the region holds 1. -/
theorem farRead_short : broughtBytes farPoisoned 0 0 farOffset 0 16 ≠ regionRead farPoisoned 0 farOffset 16 := by
  decide +kernel

/-- Refutes O25: a GET past offset 2^48 of its region does not bring all bytes, though every access is served and `readsPoison` is
false. No image that a load accepts has such a region (check 12). The rest of O25 holds: `get_issues` with `broughtBytes_whole`
below that offset, `put_issues` and `xfer_issues`. -/
theorem not_dmaWordsMoveTheirBytes : ¬ Obligations.DmaWordsMoveTheirBytes := by
  unfold Obligations.DmaWordsMoveTheirBytes
  rintro ⟨hget, -, -⟩
  obtain ⟨u, -, -, -, -, -, hserved, -⟩ :=
    hget farPoisoned 0 farGet (by decide +kernel) (by decide +kernel) (by decide +kernel) (by decide +kernel)
  exact farRead_short ((hserved farRead_clean.1).2 farRead_clean.2)

/-- The prefetch clause of O26 fails like the GET clause of O25: `farEntry` meets its premises and brings the same bytes short. -/
theorem prefetch_farEntry_short : ∃ u, exec (.prefetchEntry 0) farPoisoned = .next (settle u)
    ∧ refusedAccesses farPoisoned 0 farEntry.region (pfSource farPoisoned 0 farEntry) farEntry.len = 0
    ∧ readsPoison farPoisoned farEntry.region (pfSource farPoisoned 0 farEntry) farEntry.len = false
    ∧ spRead u 0 (pfDest farPoisoned farEntry) farEntry.len
      ≠ regionRead farPoisoned farEntry.region (pfSource farPoisoned 0 farEntry) farEntry.len := by
  obtain ⟨u, hexec, hfetched, -⟩ := prefetchEntry_issues (s := farPoisoned) (c := 0) (e := farEntry) (by decide +kernel)
    (by decide +kernel) (by decide +kernel) (by decide +kernel) (by decide +kernel) (by decide +kernel)
  refine ⟨u, hexec, farRead_clean.1, farRead_clean.2, ?_⟩
  exact fun hwhole => farRead_short (hfetched.bytes.symm.trans hwhole)

/-! ## A slice that finishes clearing -/

/-- Core 0 clears slice 3; the first byte of slice 0 is 1. -/
def sliceThreeClearing : State := { State.reset with
  scratch := [(0, 1)]
  cores := [(0, { Core.reset with slices := [(3, .clearing)] })] }

/-- Refutes O26: in its last clause the byte address `x` is a `SliceNo`, as `i` is, so that its bounds are products modulo 6. For slice
3 they take in byte 0, which the same clause says is kept. With a byte address that is a number the clause holds
(`sliceClearDone_opens`), as do those of DMA_COMPLETION and DELIVERY_ARRIVAL, and that of PREFETCH_ENTRY below offset 2^48
(`prefetchEntry_issues`, `broughtBytes_whole`). -/
theorem not_completionsDeliveriesAndSlices : ¬ Obligations.CompletionsDeliveriesAndSlices := by
  unfold Obligations.CompletionsDeliveriesAndSlices
  rintro ⟨-, -, -, -, hslice⟩
  obtain ⟨u, -, -, -, -, -, hclear⟩ := hslice sliceThreeClearing 0 3 (by decide)
  obtain ⟨hzero, hkept⟩ := hclear rfl
  have hcleared : spByte u 0 0 = 0 := hzero 0 (by decide) (by decide)
  have hsame : spByte u 0 0 = spByte sliceThreeClearing 0 0 := hkept 0 0 (by decide) (.inr (.inl (by decide)))
  exact absurd (hsame.symm.trans hcleared) (by decide)

end Sys2Proof.Proofs
end

section
/-!
SUPPORT. The statement of spec/09_vector_search.md settled. First what a candidate list keeps when entries enter it, then what the scan of
a unit and the merge of a request do to the request and leave of the rest.
-/
namespace Sys2Proof.Machine

open Sys2Proof.Laws

/-! ## Candidate lists (R184, R190) -/

theorem selInsert_perm (e : SelEntry) (l : List SelEntry) : List.Perm (selInsert e l) (e :: l) := by
  induction l with
  | nil => exact .refl _
  | cons a l ih =>
    unfold selInsert
    split
    · exact .refl _
    · exact (ih.cons a).trans (.swap e a l)

/-- A candidate list of capacity `cap` (R184): no more entries than that, and each local ID once. -/
structure CandList (cap : Nat) (l : List SelEntry) : Prop where
  bounded : l.length ≤ cap
  distinct : (l.map (·.id)).Nodup

/-- An occurrence that ranks first takes the place of the entry of its ID. -/
theorem CandList.replace {cap : Nat} {l : List SelEntry} (h : CandList cap l) {a e : SelEntry} (ha : a ∈ l) (hid : a.id = e.id) :
    CandList cap (selInsert e (l.erase a)) := by
  have hnew := selInsert_perm e (l.erase a)
  have hold := List.perm_cons_erase ha
  have hhead : (e :: l.erase a).map (·.id) = (a :: l.erase a).map (·.id) := by rw [List.map_cons, List.map_cons, hid]
  have hids : List.Perm ((selInsert e (l.erase a)).map (·.id)) (l.map (·.id)) :=
    ((hnew.map _).trans (.of_eq hhead)).trans (hold.symm.map _)
  have hlength : (selInsert e (l.erase a)).length = l.length := hnew.length_eq.trans hold.length_eq.symm
  exact ⟨Nat.le_trans (Nat.le_of_eq hlength) h.bounded, hids.nodup_iff.mpr h.distinct⟩

/-- An entry of a new ID enters, and the last one leaves a list that is full. -/
theorem CandList.insertNew {cap : Nat} {l : List SelEntry} (h : CandList cap l) {e : SelEntry} (hid : ∀ a ∈ l, a.id ≠ e.id) :
    CandList cap ((selInsert e l).take cap) := by
  have hfresh : e.id ∉ l.map (·.id) := fun hmem => by
    obtain ⟨a, ha, hae⟩ := List.mem_map.mp hmem
    exact hid a ha hae
  have hdistinct : ((selInsert e l).map (·.id)).Nodup :=
    ((selInsert_perm e l).map _).nodup_iff.mpr (List.nodup_cons.mpr ⟨hfresh, h.distinct⟩)
  exact ⟨List.length_take_le cap _, hdistinct.sublist ((List.take_sublist cap _).map _)⟩

theorem CandList.insert {cap : Nat} {l : List SelEntry} (h : CandList cap l) (e : SelEntry) : CandList cap (candInsert cap l e).1 := by
  unfold candInsert
  split
  · next a hfound =>
    split
    · exact h.replace (List.mem_of_find?_eq_some hfound) (by simpa using List.find?_some hfound)
    · exact h
  · next hnone => exact h.insertNew (by simpa using hnone)

theorem CandList.takeUnit {cap : Nat} {l : List SelEntry} (h : CandList cap l) (es : List SelEntry) : CandList cap (takeUnit cap l es).1 :=
  List.foldlRecOn (motive := fun acc : List SelEntry × Nat => CandList cap acc.1) es _ h fun _ hacc e _ => hacc.insert e

/-! ## Requests of the front end -/

section
variable (s : State) (k : Nat) (r : Option Req)

@[simp] theorem reqOf_setReq_self : reqOf (setReq s k r) k = r := tget_tset_self ..

theorem reqOf_setReq_ne {k' : Nat} (h : k' ≠ k) : reqOf (setReq s k r) k' = reqOf s k' := tget_tset_ne _ _ _ h

theorem reqOf_congr {s t : State} (h : t.front = s.front) (k : Nat) : reqOf t k = reqOf s k := by rw [reqOf, reqOf, h]

end

/-! ## Counters that a search raises (R188, R206) -/

/-- `t` is `s` after register words and event counters changed. -/
def CountOnly (s t : State) : Prop := ∃ r e, t = { s with regs := r, evt := e }

theorem CountOnly.refl (s : State) : CountOnly s s := ⟨_, _, rfl⟩

theorem CountOnly.trans {s t u : State} (h : CountOnly s t) (g : CountOnly t u) : CountOnly s u := by
  obtain ⟨r, e, rfl⟩ := h
  obtain ⟨r', e', rfl⟩ := g
  exact ⟨r', e', rfl⟩

theorem countOnly_setBits (s : State) (a m : Nat) : CountOnly s (setBits s a m) := ⟨_, _, rfl⟩

theorem CountOnly.ite {s t u : State} {p : Prop} [Decidable p] (h : CountOnly s t) (g : CountOnly s u) :
    CountOnly s (if p then t else u) := by
  split
  · exact h
  · exact g

end Sys2Proof.Machine
end

section
namespace Sys2Proof.Proofs

open Sys2Proof.Machine Sys2Proof.Laws

/-! ## SCAN_UNIT (R182, R183) -/

/-- `t` is `s` after the reads of a unit were charged on core `c` (R157), whose contexts keep new lines, and its events counted. -/
structure Scanned (c : Nat) (s t : State) : Prop where
  frame : t = { s with
    regs := t.regs, evt := t.evt, credits := t.credits, steps := t.steps, cores := t.cores, topo := t.topo }
  cores : CoresKept s t c
  own : Machine.core t c = { Machine.core s c with lines := (Machine.core t c).lines }

theorem Scanned.trans {c : Nat} {s t u : State} (h : Scanned c s t) (g : Scanned c t u) : Scanned c s u :=
  ⟨g.frame.trans (by rw [h.frame]), coresKept_trans h.cores g.cores, g.own.trans (by rw [h.own])⟩

theorem Transferred.scanned {s t : State} (h : Transferred s t) (c : Nat) : Scanned c s t := by
  have hcores : t.cores = s.cores := by rw [h.frame]
  exact ⟨h.frame.trans (by rw [hcores]), coresKept_of_eq c hcores, by rw [core_congr hcores]⟩

theorem CountOnly.scanned {s t : State} (h : CountOnly s t) (c : Nat) : Scanned c s t := by
  obtain ⟨r, e, rfl⟩ := h
  exact ⟨rfl, coresKept_of_eq c rfl, rfl⟩

theorem scanned_keepLines (s : State) (c : Nat) (f : Core → Tab (List (Option Nat))) :
    Scanned c s (modCore s c fun k => { k with lines := f k }) :=
  ⟨rfl, coresKept_modCore s c _, by rw [core_modCore_self]⟩

theorem chargeUnit_scanned (s : State) (x : Index) (r : Req) (c n page : Nat) (bad : Bool) :
    Scanned c s (chargeUnit s x r c n page bad) := by
  have hread := (transfer_transferred s c x.store (2048 * page) (x.idOff + 4 * x.e) false).scanned c
  unfold chargeUnit
  dsimp only
  split
  · exact hread
  · exact (hread.trans ((Transferred.foldl (fun t o => transfer_transferred t c x.store o 64 false) _ _).scanned c)).trans
      (scanned_keepLines _ c _)

/-- What core `c` gets of a unit (R447, R455): nothing of a segment that is not served whole. -/
def unitRead (s : State) (x : Index) (r : Req) (c page : Nat) (p : Nat × Nat) : UnitOut :=
  if notServed s c x.store (2048 * page) 2048 then { passed := [], sat := 0, bad := false } else unitOut s x r p

/-- `r1` is request `r` once its unit `j` is done: core `c` takes what passed of `o` into its list, and `lost` tells of a part missing. -/
structure Taken (x : Index) (r : Req) (c j : Nat) (o : UnitOut) (lost : Bool) (r1 : Req) : Prop where
  unitDone : j ∈ r1.unitsDone
  short : r1.short = (r.short || lost)
  matched : r1.matched = min (r.matched + o.passed.length) 0xFFFFFFFF
  cands : r1.cands = tset (fun _ => []) r.cands c (takeUnit x.candMax (tget (fun _ => []) r.cands c) o.passed).1

/-- The counters and interrupts of a unit's duplicates, saturated scores and bad segment (R172, R175, R184). -/
theorem countOnly_unitEvents (s : State) (dup sat : Nat) (bad : Bool) :
    let counted := bumpBy (bumpBy s Reg.SEARCH_CNT_DUP dup) Reg.SEARCH_CNT_SCORE_SAT sat
    let raised := if sat = 0 then counted else setBits counted Reg.SEARCH_INT_STATUS 2
    CountOnly s (if bad then setBits (bump raised Reg.SEARCH_CNT_SEG_BAD) Reg.SEARCH_INT_STATUS 4 else raised) := by
  have hcounted := CountOnly.trans (bumpBy_frame s Reg.SEARCH_CNT_DUP dup) (bumpBy_frame _ Reg.SEARCH_CNT_SCORE_SAT sat)
  have hraised := CountOnly.ite (p := sat = 0) hcounted (hcounted.trans (countOnly_setBits _ Reg.SEARCH_INT_STATUS 2))
  exact CountOnly.ite (hraised.trans (countRaise_frame ..)) hraised

/-- A unit that is scanned: the request takes what its core gets of it, and the rest is charged and counted. -/
theorem scanUnit_scanned {s : State} {k j : Nat} {r : Req} {x : Index} {p : Nat × Nat} (hreq : reqOf s k = some r)
    (hindex : pinnedIndex s r.vset = some x) (hunit : (roundUnits s x (roundLists r))[j]? = some p) (hteam : r.team ≠ [])
    (htodo : r.unitsDone.contains j = false) (hresident : r.resident = true) :
    let c := r.team.getD (j % r.team.length) 0
    let page := (listEntry s x (r.probe.getD p.1 (0, 0)).1).1 + p.2
    ∃ r1, Scanned c (setReq s k (some r1)) (scanUnit s k j)
      ∧ Taken x r c j (unitRead s x r c page p) (notServed s c x.store (2048 * page) 2048) r1 := by
  have hscans : ¬(r.team = [] ∨ r.unitsDone.contains j ∨ !r.resident) := by
    rw [htodo, hresident]
    simpa using hteam
  unfold scanUnit
  simp only [hreq, hindex, hunit, if_neg hscans]
  exact ⟨_, (chargeUnit_scanned ..).trans (CountOnly.scanned (countOnly_unitEvents ..) _), mem_insertAsc.mpr (.inl rfl), rfl, rfl, rfl⟩

/-! ## POD_MERGE_START (R204) -/

/-- The merge of a request's own run with those that came is its first-stage result. -/
theorem finishSearch_first (s : State) (k : Nat) (r : Req) : ∃ res,
    CountOnly (setReq s k (some { r with first := some res, resident := false })) (finishSearch s k r)
      ∧ res.entries = (mergeRuns r.search.k (levelThree r :: r.remote.map (·.run))).1.entries ∧ res.shards = 1 + r.remote.length := by
  have hshort {t u : State} (h : CountOnly t u) {p : Prop} [Decidable p] (a : Nat) : CountOnly t (if p then bump u a else u) :=
    CountOnly.ite (h.trans (bump_frame u a)) h
  exact ⟨_, hshort (hshort (CountOnly.refl _) _) _, rfl, rfl⟩

/-- A request that has its result merges no more. -/
theorem mergeDue_first (s : State) {r : Req} (h : r.first.isSome) : mergeDue s r = false := by
  unfold mergeDue
  split
  · rfl
  · rw [Option.isNone_eq_false_iff.mpr h, Bool.false_and]

/-- Settles O30: the scan of a unit by what it does to its request and core, candidate lists by the entries that enter one by one, and the
merge by the result it gives its request. -/
theorem scansFillBoundedCandidateLists : Obligations.ScansFillBoundedCandidateLists := by
  unfold Obligations.ScansFillBoundedCandidateLists
  refine ⟨fun s k r x j p hreq hindex hunit hteam htodo hresident => ?_, fun cap l es hcap hids => ?_, fun s k r hreq hdue => ?_⟩
  · obtain ⟨r1, hscan, hdone, hshort, hmatched, hcands⟩ := scanUnit_scanned hreq hindex hunit hteam htodo hresident
    have hfront := congrArg State.front hscan.frame
    refine ⟨scanUnit s k j, r1, rfl, (reqOf_congr hfront k).trans (reqOf_setReq_self ..), hdone, fun hserved => ?_, fun hlost => ?_,
      fun d hd => ?_, fun k' hk' => (reqOf_congr hfront k').trans (reqOf_setReq_ne s k _ hk'), hscan.cores, hscan.own, ?_⟩
    · rw [unitRead, hserved] at hmatched hcands
      exact ⟨by rw [hshort, hserved, Bool.or_false], hmatched, by rw [hcands, tget_tset_self]; rfl⟩
    · rw [unitRead, hlost] at hmatched hcands
      exact ⟨by rw [hshort, hlost, Bool.or_true], hmatched, by rw [hcands, tget_tset_self]; rfl⟩
    · rw [hcands, tget_tset_ne _ _ _ hd]
    · exact hscan.frame.trans (by rw [hfront]; rfl)
  · have hlist := CandList.takeUnit ⟨hcap, hids⟩ es
    exact ⟨hlist.bounded, hlist.distinct⟩
  · obtain ⟨res, ⟨g, e, hfinish⟩, hentries, hshards⟩ := finishSearch_first s k r
    have hmerge : podMergeStart s k = finishSearch s k r := by simp only [podMergeStart, hreq, hdue, if_true]
    have hfront := congrArg State.front hfinish
    refine ⟨finishSearch s k r, _, res, congrArg done hmerge, (reqOf_congr hfront k).trans (reqOf_setReq_self ..), rfl,
      mergeDue_first _ rfl, hentries, hshards, fun k' hk' => (reqOf_congr hfront k').trans (reqOf_setReq_ne s k _ hk'), ?_⟩
    rw [hfinish]
    rfl

end Sys2Proof.Proofs
end

section
/-!
SUPPORT. The statements of spec/10_selection.md settled. First what a merge of runs, a selection of items and their bytes are; then the
delivery of a run, and the words.
-/
namespace Sys2Proof.Machine

open Sys2Proof.Laws

/-! ## The order of R190 -/

theorem SelEntry.before_trans {a b c : SelEntry} (hab : a.before b = true) (hbc : b.before c = true) : a.before c = true := by
  simp only [SelEntry.before, Bool.or_eq_true, Bool.and_eq_true, decide_eq_true_eq] at hab hbc ⊢
  omega

theorem SelEntry.not_before_self (a : SelEntry) : a.before a = false := by simp [SelEntry.before]

/-- Entries in the order of R190: a later one never comes before an earlier one. -/
abbrev InOrder (l : List SelEntry) : Prop := l.Pairwise fun a b => b.before a = false

theorem InOrder.selInsert {l : List SelEntry} (h : InOrder l) (e : SelEntry) : InOrder (selInsert e l) := by
  induction l with
  | nil => exact List.pairwise_singleton _ e
  | cons a l ih =>
    obtain ⟨hhead, htail⟩ := List.pairwise_cons.mp h
    unfold Machine.selInsert
    split
    · next hfirst =>
      -- what came before `e` would come before `a` too
      have hlater {x : SelEntry} (hx : x.before a = false) : x.before e = false :=
        Bool.eq_false_iff.mpr fun hxe => by simp [SelEntry.before_trans hxe hfirst] at hx
      exact List.pairwise_cons.mpr ⟨List.forall_mem_cons.mpr ⟨hlater a.not_before_self, fun x hx => hlater (hhead x hx)⟩, h⟩
    · next hlast =>
      refine List.pairwise_cons.mpr ⟨fun x hx => ?_, ih htail⟩
      obtain rfl | hx := List.mem_cons.mp ((selInsert_perm e l).mem_iff.mp hx)
      · exact Bool.eq_false_iff.mpr hlast
      · exact hhead x hx

/-! ## The merge of runs (R191, R196) -/

/-- The valid entries of runs, in the order of R190. -/
def orderedEntries (runs : List Run) : List SelEntry :=
  ((runs.map fun r => { r with entries := r.entries.filter SelEntry.isValid }).flatMap (·.entries)).foldl (fun acc e => selInsert e acc) []

theorem inOrder_orderedEntries (runs : List Run) : InOrder (orderedEntries runs) :=
  List.foldlRecOn (motive := InOrder) _ _ .nil fun _ hacc e _ => hacc.selInsert e

theorem foldl_selInsert_perm (es acc : List SelEntry) : List.Perm (es.foldl (fun acc e => selInsert e acc) acc) (es ++ acc) := by
  induction es generalizing acc with
  | nil => exact .refl _
  | cons e es ih => exact (ih _).trans (((selInsert_perm e acc).append_left es).trans List.perm_middle)

theorem mem_orderedEntries {runs : List Run} {e : SelEntry} :
    e ∈ orderedEntries runs ↔ ∃ r ∈ runs, e ∈ r.entries ∧ e.isValid = true := by
  rw [orderedEntries, (foldl_selInsert_perm _ _).mem_iff, List.append_nil, List.mem_flatMap]
  constructor
  · rintro ⟨r', hr', he⟩
    obtain ⟨r, hr, rfl⟩ := List.mem_map.mp hr'
    exact ⟨r, hr, List.mem_filter.mp he⟩
  · rintro ⟨r, hr, he⟩
    exact ⟨_, List.mem_map.mpr ⟨r, hr, rfl⟩, List.mem_filter.mpr he⟩

/-- `res` is what a walk of `es` emits for K = `k` when `out` is emitted already. -/
structure Emitted (k : Nat) (es out res : List SelEntry) : Prop where
  added : ∃ l, l.Sublist es ∧ res = out ++ l
  bounded : out.length ≤ k → res.length ≤ k
  distinct : (out.map SelEntry.gid).Nodup → (res.map SelEntry.gid).Nodup
  complete : res.length < k → ∀ e ∈ es, ∃ o ∈ res, o.gid = e.gid

section
variable {k : Nat} {e : SelEntry} {es out res : List SelEntry}

/-- The walk is over. -/
theorem Emitted.stop (h : k ≤ out.length ∨ es = []) : Emitted k es out out where
  added := ⟨[], List.nil_sublist es, (List.append_nil out).symm⟩
  bounded := id
  distinct := id
  complete := fun hfew e he => by
    obtain hfull | rfl := h
    · omega
    · cases he

/-- An entry is passed over: K are emitted, or one of its global ID. -/
theorem Emitted.pass (h : Emitted k es out res) (hpass : k ≤ out.length ∨ ∃ o ∈ out, o.gid = e.gid) : Emitted k (e :: es) out res := by
  obtain ⟨l, hl, rfl⟩ := h.added
  refine ⟨⟨l, hl.cons e, rfl⟩, h.bounded, h.distinct, fun hfew => List.forall_mem_cons.mpr ⟨?_, h.complete hfew⟩⟩
  obtain hfull | ⟨o, ho, hgid⟩ := hpass
  · rw [List.length_append] at hfew
    omega
  · exact ⟨o, List.mem_append_left l ho, hgid⟩

/-- An entry of a new global ID is emitted. -/
theorem Emitted.emit (h : Emitted k es (out ++ [e]) res) (hroom : out.length < k) (hnew : ∀ o ∈ out, o.gid ≠ e.gid) :
    Emitted k (e :: es) out res := by
  obtain ⟨l, hl, rfl⟩ := h.added
  refine ⟨⟨e :: l, hl.cons_cons e, by simp⟩, fun _ => h.bounded (by rw [List.length_append]; exact hroom), fun hout => h.distinct ?_,
    fun hfew => List.forall_mem_cons.mpr ⟨⟨e, by simp, rfl⟩, h.complete hfew⟩⟩
  rw [List.map_append]
  refine List.nodup_append.mpr ⟨hout, List.pairwise_singleton .., fun g hg g' hg' => ?_⟩
  obtain ⟨o, ho, rfl⟩ := List.mem_map.mp hg
  obtain rfl := List.mem_singleton.mp hg'
  exact hnew o ho

end

theorem mergeWalk_emitted (k : Nat) (es out : List SelEntry) (d t : Nat) : Emitted k es out (mergeWalk k es out d t).1 := by
  induction es generalizing out d t with
  | nil => exact .stop (.inr rfl)
  | cons e es ih =>
    have hdup : (out.any fun o => decide (o.gid = e.gid)) = true ↔ ∃ o ∈ out, o.gid = e.gid := by simp
    unfold mergeWalk
    dsimp only
    split
    · next hroom =>
      split
      · next h => exact (ih ..).pass (.inr (hdup.mp h))
      · next h => exact (ih ..).emit hroom fun o ho hgid => h (hdup.mpr ⟨o, ho, hgid⟩)
    · next hfull =>
      have hk := Nat.not_lt.mp hfull
      split
      · exact .stop (.inl hk)
      · split
        · exact .stop (.inl hk)
        · split
          · exact (ih ..).pass (.inl hk)
          · exact (ih ..).pass (.inl hk)

theorem mergeRuns_emitted (k : Nat) (runs : List Run) : Emitted k (orderedEntries runs) [] (mergeRuns k runs).1.entries :=
  mergeWalk_emitted k (orderedEntries runs) [] 0 0

theorem mergeRuns_sublist (k : Nat) (runs : List Run) : (mergeRuns k runs).1.entries.Sublist (orderedEntries runs) := by
  obtain ⟨l, hl, hres⟩ := (mergeRuns_emitted k runs).added
  exact hres ▸ hl

theorem mergeRuns_length (k : Nat) (runs : List Run) : (mergeRuns k runs).1.entries.length ≤ k :=
  (mergeRuns_emitted k runs).bounded (Nat.zero_le k)

/-- What a merge of runs gives, where a sentinel among their entries (R191) is no entry of theirs. -/
theorem mergeRuns_orderedAndDistinct (k : Nat) (runs : List Run) :
    let m := (mergeRuns k runs).1
    m.entries.length ≤ k ∧ (∀ e ∈ m.entries, ∃ r ∈ runs, e ∈ r.entries) ∧ InOrder m.entries ∧ (m.entries.map SelEntry.gid).Nodup
      ∧ m.tailTies ≤ 0xFFFF ∧ m.dup ≤ 0xFFFFFFFF
      ∧ (m.entries.length < k → ∀ r ∈ runs, ∀ e ∈ r.entries, e.isValid = true → ∃ o ∈ m.entries, o.gid = e.gid) := by
  have hemitted := mergeRuns_emitted k runs
  have hsub := mergeRuns_sublist k runs
  refine ⟨mergeRuns_length k runs, fun e he => ?_, (inOrder_orderedEntries runs).sublist hsub, hemitted.distinct .nil,
    Nat.min_le_right .., Nat.min_le_right .., fun hfew r hr e he hvalid =>
      hemitted.complete hfew e (mem_orderedEntries.mpr ⟨r, hr, he, hvalid⟩)⟩
  obtain ⟨r, hr, hmem, -⟩ := mem_orderedEntries.mp (hsub.subset he)
  exact ⟨r, hr, hmem⟩

end Sys2Proof.Machine

namespace Sys2Proof.Proofs

open Sys2Proof.Machine Sys2Proof.Laws

/-- A run whose one entry is a sentinel. -/
def sentinelRun : Run := { Run.empty with entries := [sentinel] }

/-- Refutes O27: fewer than K = 1 entries come of a run whose one entry is a sentinel, which SEL_MERGE leaves out (R191), and none of
them has its global ID. The rest of O27 holds, and its last clause of every valid entry (`mergeRuns_orderedAndDistinct`). -/
theorem not_mergedRunsAreOrderedAndDistinct : ¬ Obligations.MergedRunsAreOrderedAndDistinct := by
  unfold Obligations.MergedRunsAreOrderedAndDistinct
  intro h
  obtain ⟨-, -, -, -, -, -, hcomplete⟩ := h 1 [sentinelRun]
  have hnone : (mergeRuns 1 [sentinelRun]).1.entries = [] := by decide
  obtain ⟨o, ho, -⟩ := hcomplete (by rw [hnone]; decide) sentinelRun (by simp) sentinel (by simp [sentinelRun])
  rw [hnone] at ho
  cases ho

end Sys2Proof.Proofs
end

section
namespace Sys2Proof.Machine

open Sys2Proof.Laws

/-! ## The items that SEL_TOPK keeps (R195, R196) -/

theorem selInsert_length (e : SelEntry) (l : List SelEntry) : (selInsert e l).length = l.length + 1 := (selInsert_perm e l).length_eq

theorem length_fst_ite_le {α : Type} {p : Prop} [Decidable p] {cap : Nat} {a b : List α × Nat} (ha : a.1.length ≤ cap)
    (hb : b.1.length ≤ cap) : (if p then a else b).1.length ≤ cap := by
  split
  · exact ha
  · exact hb

theorem uniquePass_length (cap : Nat) (last : Option SelEntry) (emitted : List Nat) (items : List SelEntry) :
    (uniquePass cap last emitted items).1.length ≤ cap := by
  refine List.foldlRecOn (motive := fun acc : List SelEntry × Nat => acc.1.length ≤ cap) items _ (Nat.zero_le cap)
    fun acc hacc e _ => ?_
  -- an entry that does not follow, or is held or emitted, leaves the list
  exact length_fst_ite_le hacc (length_fst_ite_le hacc (List.length_take_le ..))

theorem uniqueTopk_length (k : Nat) (items : List SelEntry) : (uniqueTopk k items).1.length ≤ k := by
  unfold uniqueTopk
  split
  · exact uniquePass_length ..
  · exact List.length_take_le ..

theorem dedupPass_length (k : Nat) (items : List SelEntry) : (dedupPass k items).1.length ≤ k := by
  refine List.foldlRecOn (motive := fun acc : List SelEntry × Nat => acc.1.length ≤ k) items _ (Nat.zero_le k)
    fun acc hacc e _ => ?_
  split
  · next a hfound =>
    split
    · have ha := List.mem_of_find?_eq_some hfound
      have hpos := List.length_pos_of_mem ha
      rw [selInsert_length, List.length_erase_of_mem ha]
      omega
    · exact hacc
  · exact List.length_take_le ..

/-- A run of SEL_TOPK has at most K entries. -/
theorem topk_length (unique : Bool) (k : Nat) (all : List SelEntry) (nans : Nat) : (topk unique k all nans).1.entries.length ≤ k := by
  unfold topk
  dsimp only
  split
  · exact uniqueTopk_length ..
  · exact dedupPass_length ..

/-! ## Runs and records as bytes (R194, R205) -/

theorem SelEntry.toBytes_length (e : SelEntry) : e.toBytes.length = 16 := by simp only [SelEntry.toBytes, List.length_append, natLE_length]

theorem flatMap_toBytes_length (es : List SelEntry) : (es.flatMap SelEntry.toBytes).length = 16 * es.length := by
  induction es with
  | nil => rfl
  | cons e es ih => rw [List.flatMap_cons, List.length_append, ih, SelEntry.toBytes_length, List.length_cons]; omega

theorem Run.toBytes_length (r : Run) : r.toBytes.length = 16 + 16 * r.entries.length := by
  simp only [Run.toBytes, List.length_append, natLE_length, flatMap_toBytes_length]

theorem RecordHead.toBytes_length (h : RecordHead) : h.toBytes.length = 64 := by
  simp only [RecordHead.toBytes, List.length_append, natLE_length]

theorem recordBytes_length (h : RecordHead) {es : List SelEntry} (hes : es.length ≤ h.k) : (recordBytes h es).length = 64 + 16 * h.k := by
  rw [recordBytes, List.length_append, RecordHead.toBytes_length, flatMap_toBytes_length, List.length_append, List.length_replicate]
  omega

theorem mergeRecord_length (s : State) (k : Core) (w : Nat) {m : Run × Nat} (short : Bool)
    (hm : m.1.entries.length ≤ bits w 109 97 + 1) : (mergeRecord s k w m short).length = 64 + 16 * (bits w 109 97 + 1) := by
  unfold mergeRecord
  dsimp only
  split <;> exact recordBytes_length _ hm

/-! ## Run slots (R193) -/

section
variable (s : State) (u i : Nat) (r : Option Run)

@[simp] theorem slotRun_setSlot_self : slotRun (setSlot s u i r) u i = r := tget_tset_self ..

theorem slotRun_setSlot_ne {v j : Nat} (h : slotKey v j ≠ slotKey u i) : slotRun (setSlot s u i r) v j = slotRun s v j :=
  tget_tset_ne _ _ _ h

end

/-- `s` with the first `n` run slots of unit `u` emptied. -/
def emptySlots (s : State) (u n : Nat) : State := (List.range n).foldl (fun t i => setSlot t u i none) s

theorem emptySlots_succ (s : State) (u n : Nat) : emptySlots s u (n + 1) = setSlot (emptySlots s u n) u n none := by
  rw [emptySlots, List.range_succ, List.foldl_append]
  rfl

theorem emptySlots_frame (s : State) (u n : Nat) : ∃ sl, emptySlots s u n = { s with sel := { s.sel with slots := sl } } := by
  induction n with
  | zero => exact ⟨_, rfl⟩
  | succ n ih =>
    obtain ⟨sl, h⟩ := ih
    rw [emptySlots_succ, h]
    exact ⟨_, rfl⟩

theorem slotRun_emptySlots (s : State) (u : Nat) {n i : Nat} (hi : i < n) : slotRun (emptySlots s u n) u i = none := by
  induction n with
  | zero => omega
  | succ n ih =>
    rw [emptySlots_succ]
    by_cases hlast : i = n
    · rw [hlast]
      exact slotRun_setSlot_self ..
    · rw [slotRun_setSlot_ne _ _ _ _ (by simp only [slotKey]; omega)]
      exact ih (by omega)

end Sys2Proof.Machine
end

section
namespace Sys2Proof.Proofs

open Sys2Proof.Machine Sys2Proof.Laws

/-! ## Where the run of a selection word goes (Tables 10.2 and 10.3, DEST) -/

/-- `u` is `s` after core `c` put the run `r`, as the bytes `bs`, to where `dest` says, and went on. -/
structure RunPut (c dest slot x : Nat) (bs : List Byte) (r : Run) (s u : State) : Prop where
  frame : u = { s with scratch := u.scratch, cores := u.cores, sel := u.sel }
  cores : CoresKept s u c
  place : (Machine.core u c).pc = (Machine.core s c).advance.pc
  slots : u.sel.slots = s.sel.slots
  stored : dest = 0 → u.sel = s.sel ∧ spRead u c x bs.length = bs ∧ ScratchKept s u c x bs.length
  sent : dest ≠ 0 → u.scratch = s.scratch
  own : dest = 1 → u.sel.flight = s.sel.flight ++ [⟨c, slot, false, r, s.time.beat, learned s (c / 64) 1 (c / 64)⟩]
  above : 2 ≤ dest → u.sel.flight = s.sel.flight ++ [⟨c, slot, true, r, s.time.beat, 0⟩]

section
variable (s : State) (c slot : Nat) {x : Nat} {bs : List Byte} (r : Run) (as : List Access) (tag : Option Nat)

theorem spWrite_runPut (hin : x + bs.length ≤ spSize) :
    RunPut c 0 slot x bs r s (modCore (spWrite s c x bs) c fun k => (startDma k as tag none).advance) := by
  have hwork := spWrite_rowWork s c x bs
  obtain ⟨hread, hkept⟩ := scratch_filled s c x bs
    (u := modCore (spWrite s c x bs) c fun k => (startDma k as tag none).advance) (scratch_spWrite s c x bs) fun _ => hin
  obtain ⟨k, hk⟩ := spWrite_eq_spPut s c x bs
  have hsel : (spWrite s c x bs).sel = s.sel := by rw [hk]; rfl
  exact {
    frame := by rw [hk]; rfl
    cores := coresKept_trans hwork.cores (coresKept_modCore _ c _)
    place := by rw [core_modCore_self]; exact (startDma_advance hwork.own as tag none).2
    slots := congrArg SelSt.slots hsel
    stored := fun _ => ⟨hsel, hread, hkept⟩
    sent := fun h => absurd rfl h
    own := nofun
    above := nofun }

theorem putRun_runPut (dest : Nat) (hin : dest = 0 → x + bs.length ≤ spSize) :
    RunPut c dest slot x bs r s (modCore (putRun s c dest slot x bs r) c fun k => (startDma k as tag none).advance) := by
  have hplace (t : State) (ht : Machine.core t c = Machine.core s c) :
      (Machine.core (modCore t c fun k => (startDma k as tag none).advance) c).pc = (Machine.core s c).advance.pc := by
    rw [core_modCore_self, ht]
    rfl
  match dest with
  | 0 => exact spWrite_runPut s c slot r as tag (hin rfl)
  | 1 =>
    exact { frame := rfl, cores := coresKept_modCore (putRun s c 1 slot x bs r) c _, place := hplace _ rfl, slots := rfl
            stored := nofun, sent := fun _ => rfl, own := fun _ => rfl, above := fun h => absurd h (by omega) }
  | n + 2 =>
    exact { frame := rfl, cores := coresKept_modCore (putRun s c (n + 2) slot x bs r) c _, place := hplace _ rfl, slots := rfl
            stored := nofun, sent := fun _ => rfl, own := fun h => absurd h (by omega), above := fun _ => rfl }

end

/-! ## SEL_TOPK (R195) -/

theorem logUnique_frame (s : State) (u n : Nat) : LogOnly s (logUnique s u n) := by
  induction n generalizing s with
  | zero => exact LogOnly.refl s
  | succ n ih => exact (logErr_frame s _).trans (ih _)

theorem logOnly_bumpBy (s : State) (a k : Nat) : LogOnly s (bumpBy s a k) := by
  obtain ⟨r, e, h⟩ := bumpBy_frame s a k
  exact ⟨r, e, s.err, h⟩

section
variable {s : State} {c w : Nat} (hin : inScratchpad (topkReach (Machine.core s c) w) = true)
include hin

/-- A run of K entries or fewer fits where DEST 0 stores it. -/
theorem topkReach_fits {r : Run} (hr : r.entries.length ≤ bits w 116 104 + 1) (hdest : bits w 48 47 = 0) :
    4 * bits w 40 24 + r.toBytes.length ≤ spSize := by
  have hend : 4 * bits w 40 24 + (16 + 16 * (bits w 116 104 + 1)) ≤ spSize := by
    simp only [topkReach, hdest, if_true, inScratchpad, List.all_cons, List.all_nil, Bool.and_true, Bool.and_eq_true,
      Bool.or_eq_true, decide_eq_true_eq] at hin
    omega
  rw [Run.toBytes_length]
  omega

/-- The effect of a SEL_TOPK: its counts and its log, then the run is put. -/
theorem topkEffect_runPut : ∃ t, LogOnly s t
    ∧ RunPut c (bits w 48 47) (bits w 46 41) (4 * bits w 40 24)
        (topk (bit w 117) (bits w 116 104 + 1) (topkItems s c w).1 (topkItems s c w).2).1.toBytes
        (topk (bit w 117) (bits w 116 104 + 1) (topkItems s c w).1 (topkItems s c w).2).1 t
        (topkEffect s c (Machine.core s c) w) := by
  have hnan := logOnly_bumpBy s Reg.SEL_CNT_NAN (topkItems s c w).2
  have hfits := topkReach_fits hin (topk_length (bit w 117) (bits w 116 104 + 1) (topkItems s c w).1 (topkItems s c w).2)
  refine ⟨_, ?_, putRun_runPut _ c _ _ _ _ _ hfits⟩
  split
  · exact hnan
  · exact ((hnan.trans (logUnique_frame _ _ _)).trans (logOnly_bumpBy _ _ _)).trans (logOnly_setReg _ _ _)

end

theorem selTopk_issues {s : State} {c : CoreNo} {w : Nat} (hword : wordOf s c 0x60 = some w)
    (hfree : rangeHold (Machine.core s c) (topkReach (Machine.core s c) w) = none)
    (hin : inScratchpad (topkReach (Machine.core s c) w) = true) :
    let r := (topk (bit w 117) (bits w 116 104 + 1) (topkItems s c w).1 (topkItems s c w).2).1
    ∃ t u, LogOnly s t ∧ exec (.selTopk c) s = .next (settle u)
      ∧ RunPut c (bits w 48 47) (bits w 46 41) (4 * bits w 40 24) r.toBytes r t u := by
  obtain ⟨t, hlog, hput⟩ := topkEffect_runPut hin
  exact ⟨t, _, hlog, issue_runs hword hfree hin, hput⟩

/-! ## SEL_MERGE (R196) -/

/-- The runs that the slots of a SEL_MERGE hold, merged. -/
def mergedSlots (s : State) (c w : Nat) : Run × Nat :=
  mergeRuns (bits w 109 97 + 1) ((List.range (bits w 119 114 + 1)).filterMap fun i => slotRun s (c / 64) i)

/-- The bytes that a SEL_MERGE with DEST 0 stores: the record with RECORD set, else the run. -/
def mergedBytes (s : State) (c w : Nat) : List Byte :=
  if bit w 67 then mergeRecord s (Machine.core s c) w (mergedSlots s c w) false else (mergedSlots s c w).1.toBytes

section
variable {s : State} {c w : Nat} (hin : inScratchpad (mergeReach (Machine.core s c) w) = true)
include hin

theorem mergeReach_fits (hdest : bits w 96 95 = 0) : 4 * bits w 88 72 + (mergedBytes s c w).length ≤ spSize := by
  have hlen : (mergedSlots s c w).1.entries.length ≤ bits w 109 97 + 1 := mergeRuns_length ..
  have hend := inScratchpad_single (by simpa only [mergeReach, hdest, if_true] using hin) (by omega)
  unfold mergedBytes
  split
  · next hrecord =>
    rw [if_pos hrecord] at hend
    rw [mergeRecord_length _ _ _ _ hlen]
    omega
  · next hrun =>
    rw [if_neg hrun] at hend
    rw [Run.toBytes_length]
    omega

/-- The effect of a SEL_MERGE whose slots all hold runs: its slots are emptied, a tie is counted, and the run is put. -/
theorem selMergeEffect_runPut : ∃ t bs, CountOnly (emptySlots s (c / 64) (bits w 119 114 + 1)) t
    ∧ (bits w 96 95 = 0 → bs = mergedBytes s c w)
    ∧ RunPut c (bits w 96 95) (bits w 94 89) (4 * bits w 88 72) bs (mergedSlots s c w).1 t
        (selMergeEffect s c (Machine.core s c) w) := by
  have hbytes (hdest : bits w 96 95 = 0) : (if (bit w 67 && decide (bits w 96 95 = 0)) = true
      then mergeRecord s (Machine.core s c) w (mergedSlots s c w) false else (mergedSlots s c w).1.toBytes) = mergedBytes s c w := by
    simp only [hdest, decide_true, Bool.and_true]
    rfl
  refine ⟨_, _, ?_, hbytes, putRun_runPut _ c _ _ _ _ _ fun hdest => by rw [hbytes hdest]; exact mergeReach_fits hin hdest⟩
  exact CountOnly.ite (bump_frame _ _) (CountOnly.refl _)

end

theorem selMergeHold_ready {s : State} {c w : Nat} (hready : selMergeReady s c w = true) (k : Core) :
    selMergeHold s c k w = rangeHold k (mergeReach k w) := if_pos hready

theorem selMergeHold_waits {s : State} {c w : Nat} (hwaits : selMergeReady s c w = false) (k : Core) :
    selMergeHold s c k w = some .other := by simp [selMergeHold, hwaits]

theorem selMerge_issues {s : State} {c : CoreNo} {w : Nat} (hword : wordOf s c 0x61 = some w) (hready : selMergeReady s c w = true)
    (hfree : rangeHold (Machine.core s c) (mergeReach (Machine.core s c) w) = none)
    (hin : inScratchpad (mergeReach (Machine.core s c) w) = true) :
    ∃ t u bs, CountOnly (emptySlots s ((c : Nat) / 64) (bits w 119 114 + 1)) t ∧ exec (.selMerge c) s = .next (settle u)
      ∧ (bits w 96 95 = 0 → bs = mergedBytes s c w)
      ∧ RunPut c (bits w 96 95) (bits w 94 89) (4 * bits w 88 72) bs (mergedSlots s c w).1 t u := by
  obtain ⟨t, bs, hcount, hbytes, hput⟩ := selMergeEffect_runPut hin
  exact ⟨t, _, bs, hcount, issue_runs hword ((selMergeHold_ready hready _).trans hfree) hin, hbytes, hput⟩

/-- Nothing issues where the core's place holds another word. -/
theorem issue_elsewhere {s : State} {c op : Nat} {reach : Core → Nat → List Access} {hold : Core → Nat → Option Hold}
    {eff : State → Core → Nat → State} (hnone : wordOf s c op = none) : finish (issue s c op reach hold eff) = .next (settle s) := by
  simp only [issue, hnone]
  rfl

/-- Settles O28: each word is held back, or puts its run to where its DEST says. -/
theorem selectionWordsIssue : Obligations.SelectionWordsIssue := by
  unfold Obligations.SelectionWordsIssue
  refine ⟨fun s c w hword hfree hin => ?_, fun s c w hword hready hfree hin => ?_, fun s c hnone => issue_elsewhere hnone,
    fun s c hnone => issue_elsewhere hnone, fun s c w h hword hheld => issue_held hword hheld,
    fun s c w hword hwaits => issue_held hword (selMergeHold_waits hwaits _)⟩
  · obtain ⟨t, u, ⟨r, e, l, rfl⟩, hexec, hput⟩ := selTopk_issues hword hfree hin
    refine ⟨u, hexec, by rw [hput.frame], hput.cores, hput.place, hput.stored, fun hdest => ?_, fun hdest => ?_⟩
    · exact ⟨hput.sent (by omega), hput.slots, hput.own hdest⟩
    · exact ⟨hput.sent (by omega), hput.slots, hput.above hdest⟩
  · obtain ⟨sl, hempty⟩ := emptySlots_frame s ((c : Nat) / 64) (bits w 119 114 + 1)
    have hnone := fun i => slotRun_emptySlots s ((c : Nat) / 64) (n := bits w 119 114 + 1) (i := i)
    obtain ⟨t, u, bs, ⟨r, e, rfl⟩, hexec, hbytes, hput⟩ := selMerge_issues hword hready hfree hin
    rw [hempty] at hput hnone
    refine ⟨u, hexec, by rw [hput.frame], hput.cores, hput.place, fun i hi => ?_, hput.sent, hput.own, hput.above, fun hdest => ?_⟩
    · rw [slotRun, hput.slots]
      exact hnone i hi
    · obtain ⟨hsel, hread, hkept⟩ := hput.stored hdest
      rw [hbytes hdest] at hread hkept
      exact ⟨by rw [hsel], hread, hkept⟩

end Sys2Proof.Proofs
end

section
namespace Sys2Proof.Proofs

open Sys2Proof.Machine Sys2Proof.Laws

/-! ## RUN_DELIVERY (R194, R200, R444) -/

/-- The run that RUN_DELIVERY takes for unit `u`. -/
def nextRun (s : State) (u : Nat) (parent : Bool) : Option RunFlight :=
  s.sel.flight.find? fun f => decide (f.parent = parent) && (parent || decide (f.core / 64 = u))

/-- `s` with the run `f` no longer on its way. -/
def runTaken (s : State) (f : RunFlight) : State := { s with sel := { s.sel with flight := s.sel.flight.erase f } }

/-- The epoch of unit `u` that a run carries: one to a unit above by what its group knows at arrival (log 70). -/
def sentEpoch (s : State) (u : Nat) (parent : Bool) (f : RunFlight) : Nat :=
  if parent then learned s (f.core / 64) 1 u else f.target

section
variable {s : State} {u : Nat} {parent : Bool} {f : RunFlight} (hnext : nextRun s u parent = some f)
include hnext

/-- R444: the unit answers UNIT_UNAVAILABLE. -/
theorem runDelivery_unavailable (h : (unitSt s 1 u).mode ≠ .available ∨ sentEpoch s u parent f ≠ (unitSt s 1 u).epoch) :
    runDelivery s u parent = bump (learn (runTaken s f) (f.core / 64) 1 u) Reg.TOPO_CNT_UNAVAIL := by
  unfold nextRun at hnext
  unfold runDelivery
  rw [hnext]
  exact if_pos h

section
variable (hmode : (unitSt s 1 u).mode = .available) (hepoch : sentEpoch s u parent f = (unitSt s 1 u).epoch)
include hmode hepoch

/-- A run that its unit takes is discarded when it is stale, and else goes by its slot. -/
theorem runDelivery_available : runDelivery s u parent
    = if staleRun s u f then runTaken s f
      else match slotRun s u f.slot with
        | some _ => setBits (logSel (runTaken s f) 0x0024 u f.slot) Reg.SEL_INT_STATUS 8
        | none => setSlot (runTaken s f) u f.slot (some f.run) := by
  have htaken : ¬((unitSt s 1 u).mode ≠ .available ∨ sentEpoch s u parent f ≠ (unitSt s 1 u).epoch) := by simp [hmode, hepoch]
  unfold nextRun at hnext
  unfold runDelivery
  rw [hnext]
  exact if_neg htaken

theorem runDelivery_stale (hstale : staleRun s u f = true) : runDelivery s u parent = runTaken s f := by
  rw [runDelivery_available hnext hmode hepoch, if_pos hstale]

variable (hfresh : staleRun s u f = false)
include hfresh

theorem runDelivery_enters (hempty : slotRun s u f.slot = none) :
    runDelivery s u parent = setSlot (runTaken s f) u f.slot (some f.run) := by
  rw [runDelivery_available hnext hmode hepoch, hfresh, hempty]
  rfl

theorem runDelivery_drops {r : Run} (hheld : slotRun s u f.slot = some r) :
    runDelivery s u parent = setBits (logSel (runTaken s f) 0x0024 u f.slot) Reg.SEL_INT_STATUS 8 := by
  rw [runDelivery_available hnext hmode hepoch, hfresh, hheld]
  rfl

end

end

/-- A dropped run is logged as SEL_SLOT_BUSY. -/
theorem slotBusy_frame (s : State) (u i : Nat) : LogOnly s (setBits (logSel s 0x0024 u i) Reg.SEL_INT_STATUS 8) :=
  (logErr_frame s _).trans (logOnly_setReg _ _ _)

/-- A group that learned a unit's epoch knows it (R444). -/
theorem learned_learn (s : State) (g cls i : Nat) : learned (learn s g cls i) g cls i = (unitSt s cls i).epoch := by
  rw [learned, show tget (fun _ => none) (learn s g cls i).topo.known (knownKey g cls i) = none from
    tget_tset_self _ s.topo.known _ none]
  rfl

/-- The answer UNIT_UNAVAILABLE counts, and the group learns the unit's epoch (R444). -/
theorem unavailable_answer (s : State) (g i : Nat) :
    let t := bump (learn s g 1 i) Reg.TOPO_CNT_UNAVAIL
    t = { s with regs := t.regs, evt := t.evt, topo := t.topo } ∧ learned t g 1 i = (unitSt s 1 i).epoch
      ∧ reg t Reg.TOPO_CNT_UNAVAIL = min (reg s Reg.TOPO_CNT_UNAVAIL + 1) 0xFFFFFFFF ∧ RegsKept s t [Reg.TOPO_CNT_UNAVAIL] := by
  have hlearned := learned_learn s g 1 i
  have hcount := reg_bump (learn s g 1 i) Reg.TOPO_CNT_UNAVAIL Reg.TOPO_CNT_UNAVAIL (by decide)
  have hkept := regsKept_bumpBy (learn s g 1 i) Reg.TOPO_CNT_UNAVAIL 1
  obtain ⟨r, e, hbump⟩ := bump_frame (learn s g 1 i) Reg.TOPO_CNT_UNAVAIL
  refine ⟨?_, ?_, hcount.trans (if_pos rfl), hkept⟩
  · rw [hbump]
    rfl
  · rw [hbump]
    exact hlearned

/-! ## SFUNC_SLOT_FILL (R130) -/

section
variable {s : State} {c a ver : Nat}

/-- Fewer than four versions leave one of the four slots free. -/
theorem exists_freeSlot {l : List FuncSlot} (hl : l.length < 4) :
    ∃ i, i < 4 ∧ (List.range 4).find? (fun i => !(l.any fun p => decide (p.slot = i))) = some i := by
  cases hfind : (List.range 4).find? (fun i => !(l.any fun p => decide (p.slot = i))) with
  | none =>
    have hused : List.range 4 ⊆ l.map (·.slot) := fun j hj => by
      have hany : (l.any fun p => decide (p.slot = j)) = true := by simpa using List.find?_eq_none.mp hfind j hj
      obtain ⟨p, hp, hslot⟩ := List.any_eq_true.mp hany
      exact List.mem_map.mpr ⟨p, hp, of_decide_eq_true hslot⟩
    have hlen := List.nodup_range.length_le_of_subset hused
    rw [List.length_range, List.length_map] at hlen
    omega
  | some i => exact ⟨i, List.mem_range.mp (List.mem_of_find?_eq_some hfind), rfl⟩

/-- The slots of a core whose versions the asset still has (R58). -/
def keptSlots (s : State) (a c : Nat) : List FuncSlot :=
  (funcSlotsOf s a c).filter fun p => (assetSt s a).versions.any fun v => decide (v.ver = p.ver)

theorem keptSlots_length (s : State) (a c : Nat) : (keptSlots s a c).length ≤ (funcSlotsOf s a c).length := List.length_filter_le ..

/-- A fill that is due charges its reads, and where they are served takes a free slot. -/
theorem sfuncFill_due (hidle : (Machine.core s c).idle = true) (hkind : kindOf s a = some 6) (hcore : (funcCores s a).contains c = true)
    (hver : (verifiedVers s a).contains ver = true) (hnew : ((funcSlotsOf s a c).all fun p => decide (p.ver ≠ ver)) = true)
    (hroom : (funcSlotsOf s a c).length < 4) : ∃ i, i < 4 ∧ sfuncFill s c a ver
      = if !fillServed s c a ver then chargeFill s c a ver
        else { chargeFill s c a ver with
          assets := { (chargeFill s c a ver).assets with
            funcSlots := tset (fun _ => []) s.assets.funcSlots (funcKey a c)
              (keptSlots s a c ++ [{ ver := ver, slot := i, segs := funcTable s a ver }]) } } := by
  obtain ⟨i, hi, hfree⟩ := exists_freeSlot (Nat.lt_of_le_of_lt (keptSlots_length s a c) hroom)
  have hdue : ¬(!(Machine.core s c).idle ∨ kindOf s a ≠ some 6 ∨ !(funcCores s a).contains c ∨ !(verifiedVers s a).contains ver
      ∨ ((funcSlotsOf s a c).any fun p => decide (p.ver = ver))) := by
    rw [hidle, hkind, hcore, hver]
    simpa using hnew
  refine ⟨i, hi, ?_⟩
  unfold sfuncFill
  dsimp only
  rw [if_neg hdue]
  unfold keptSlots at hfree
  rw [hfree]
  rfl

theorem chargeFill_transferred (s : State) (c a ver : Nat) : Transferred s (chargeFill s c a ver) := by
  unfold chargeFill
  split
  · exact transfer_transferred ..
  · exact Transferred.refl s

end

/-! ## Reads that are served whole (R157, R447, R455) -/

/-- `t` is `s` after accesses were charged to their section's credit, or borrowed idle time (R157, R158). -/
def Charged (s t : State) : Prop := ∃ r e k, t = { s with regs := r, evt := e, credits := k }

theorem Charged.refl (s : State) : Charged s s := ⟨_, _, _, rfl⟩

theorem Charged.trans {s t u : State} (h : Charged s t) (g : Charged t u) : Charged s u := by
  obtain ⟨r, e, k, rfl⟩ := h
  obtain ⟨r', e', k', rfl⟩ := g
  exact ⟨r', e', k', rfl⟩

theorem charged_event (s : State) (cls e : Nat) (sect die : Option Nat) (k : Nat) : Charged s (event s cls e sect die k) :=
  ⟨_, _, _, (counted_event s cls e sect die k).frame⟩

theorem charged_credits (s : State) (k : Tab Int) : Charged s { s with credits := k } := ⟨_, _, _, rfl⟩

theorem chargeOne_charged (s : State) (i die g o : Nat) : Charged s (chargeOne s i die g o) := by
  unfold chargeOne
  dsimp only
  split
  · exact charged_credits s _
  · split
    · exact charged_event ..
    · exact (charged_credits s _).trans (charged_event ..)

theorem chargeAll_charged (s : State) (i die g n o : Nat) : Charged s (chargeAll s i die g n o) := by
  induction n generalizing s o with
  | zero => exact Charged.refl s
  | succ n ih => exact (chargeOne_charged s i die g o).trans (ih _ _)

theorem accessed_charged (s : State) (i die g o n : Nat) (wr : Bool) : Charged s (accessed s i die g o n wr) := by
  unfold accessed
  split
  · exact Charged.refl s
  · exact (chargeAll_charged ..).trans (charged_event ..)

section
variable {s : State} {c g o n : Nat}

theorem notServed_eq_false : notServed s c g o n = false ↔ refusedAccesses s (c / 64) g o n = 0 ∧ readsPoison s g o n = false := by
  simp [notServed]

theorem shortfall_served (h : notServed s c g o n = false) (i : Nat) : shortfall s c i g o n false = s := by
  obtain ⟨hrefused, hpoison⟩ := notServed_eq_false.mp h
  exact if_pos ⟨hrefused, .inr (by simp [hpoison])⟩

theorem notServed_of_charged {t : State} (h : Charged s t) : notServed t c g o n = notServed s c g o n := by
  obtain ⟨r, e, k, rfl⟩ := h
  rfl

/-- A read that is served whole only charges its accesses. -/
theorem transfer_served (h : notServed s c g o n = false) : Charged s (transfer s c g o n false) := by
  unfold transfer
  split
  · exact Charged.refl s
  · split
    · exact Charged.refl s
    · next i _ =>
      have hcharged := accessed_charged s i (dieOf c) g o n false
      rw [shortfall_served ((notServed_of_charged hcharged).trans h) i]
      exact hcharged

end

theorem chargeFill_served {s : State} {c a ver : Nat} (h : fillServed s c a ver = true) : Charged s (chargeFill s c a ver) := by
  unfold fillServed at h
  unfold chargeFill
  split
  · next p hplace =>
    rw [hplace] at h
    exact transfer_served (by simpa using h)
  · exact Charged.refl s

/-- Settles O29: the words by the runs that they put, RUN_DELIVERY by what it answers, SFUNC_SLOT_FILL by whether its reads are served. -/
theorem runsAreDeliveredToSlots : Obligations.RunsAreDeliveredToSlots := by
  unfold Obligations.RunsAreDeliveredToSlots
  refine ⟨fun s c w hword hfree hin hdest => ?_, fun s c w hword hready hfree hdest => ?_, fun s u parent f hnext => ?_,
    fun s c a ver hidle hkind hcore hver hnew hroom => ?_⟩
  · obtain ⟨t, u, ⟨r, e, l, rfl⟩, hexec, hput⟩ := selTopk_issues hword hfree hin
    exact ⟨u, _, hexec, hput.own hdest, topk_length ..⟩
  · have hin : inScratchpad (mergeReach (Machine.core s c) w) = true := by simp [mergeReach, hdest, inScratchpad]
    obtain ⟨sl, hempty⟩ := emptySlots_frame s ((c : Nat) / 64) (bits w 119 114 + 1)
    obtain ⟨t, u, bs, ⟨r, e, rfl⟩, hexec, -, hput⟩ := selMerge_issues hword hready hfree hin
    rw [hempty] at hput
    exact ⟨u, _, hexec, hput.above (Nat.le_of_eq hdest.symm), mergeRuns_length ..⟩
  · refine ⟨fun hmode hepoch hfresh hempty => ?_, fun r hmode hepoch hfresh hheld => ?_, fun hmode hepoch hstale => ?_, fun hgone => ?_⟩
    · refine ⟨_, congrArg done (runDelivery_enters hnext hmode hepoch hfresh hempty), rfl, rfl, slotRun_setSlot_self ..,
        fun v i hother hi hslot => slotRun_setSlot_ne (runTaken s f) _ _ _ ?_⟩
      simp only [slotKey]
      omega
    · have hbusy := slotBusy_frame (runTaken s f) u f.slot
      have hraised := regBit_setBits (logSel (runTaken s f) 0x0024 u f.slot) Reg.SEL_INT_STATUS (m := 8) (n := 3) (by decide) (by decide)
      refine ⟨_, congrArg done (runDelivery_drops hnext hmode hepoch hfresh hheld), logOnly_eq hbusy, ?_, hraised⟩
      rw [logOnly_eq hbusy]
      exact hheld
    · exact congrArg done (runDelivery_stale hnext hmode hepoch hstale)
    · obtain ⟨hframe, hlearned, hcount, hkept⟩ := unavailable_answer (runTaken s f) (f.core / 64) u
      exact ⟨_, congrArg done (runDelivery_unavailable hnext hgone), hframe, hlearned, hcount, hkept⟩
  · obtain ⟨i, hi, hfill⟩ := sfuncFill_due hidle hkind hcore hver hnew hroom
    refine ⟨fun hserved => ?_, fun hserved => ?_⟩
    · obtain ⟨r, e, k, hcharged⟩ := chargeFill_served hserved
      rw [hserved, hcharged] at hfill
      refine ⟨_, i, congrArg done hfill, rfl, hi, ?_⟩
      rw [funcSlotsOf]
      simp
    · rw [hserved] at hfill
      refine ⟨_, congrArg done hfill, ?_⟩
      exact (chargeFill_transferred s c a ver).frame

end Sys2Proof.Proofs
end

section
/-!
SUPPORT. The received frames of spec/17_pod_ports.md settled: the stages that a frame passes, what each kind of message does, and a shard's
run at the root.
-/
namespace Sys2Proof.Machine

open Sys2Proof.Laws

/-! ## Peers -/

section
variable (s : State) (n i : Nat) (x : Peer)

@[simp] theorem peerOf_setPeer_self : peerOf (setPeer s n i x) n i = x := tget_tset_self ..

theorem peerOf_congr {s t : State} (h : t.pod = s.pod) : peerOf t n i = peerOf s n i := by rw [peerOf, peerOf, h]

end

/-! ## The stages of R359 -/

/-- `t` is `s` but for register words, event counters and pod ports. -/
def PodCounted (s t : State) : Prop := ∃ r e p, t = { s with regs := r, evt := e, pod := p }

theorem PodCounted.refl (s : State) : PodCounted s s := ⟨_, _, _, rfl⟩

theorem PodCounted.trans {s t u : State} (h : PodCounted s t) (g : PodCounted t u) : PodCounted s u := by
  obtain ⟨r, e, p, rfl⟩ := h
  obtain ⟨r', e', p', rfl⟩ := g
  exact ⟨r', e', p', rfl⟩

theorem PodOnly.podCounted {s t : State} (h : PodOnly s t) : PodCounted s t := by
  obtain ⟨p, rfl⟩ := h
  exact ⟨_, _, p, rfl⟩

theorem CountOnly.podCounted {s t : State} (h : CountOnly s t) : PodCounted s t := by
  obtain ⟨r, e, rfl⟩ := h
  exact ⟨r, e, _, rfl⟩

theorem podCounted_setPeer (s : State) (n i : Nat) (x : Peer) : PodCounted s (setPeer s n i x) := ⟨_, _, _, rfl⟩

theorem podCounted_bump (s : State) (a : Nat) : PodCounted s (bump s a) := CountOnly.podCounted (bump_frame s a)

theorem podCounted_bump64 (s : State) (a k cap : Nat) : PodCounted s (bump64 s a k cap) := CountOnly.podCounted (bump64_frame s a k cap)

theorem bump64_pod (s : State) (a k cap : Nat) : (bump64 s a k cap).pod = s.pod := by
  obtain ⟨r, e, h⟩ := bump64_frame s a k cap
  rw [h]

theorem countEvent_frame (s : State) (a k : Nat) : CountOnly s (countEvent s a k) := by
  unfold countEvent
  split
  · exact event_frame ..
  · exact CountOnly.refl s

theorem policeStage_podCounted (s : State) (n i b colour : Nat) : PodCounted s (policeStage s n i b colour).1 := by
  have hmetered (k : Nat) (m : Meter) (a : Nat) : PodCounted s (countEvent (setMeter s n k m) a 1) :=
    PodCounted.trans ⟨_, _, _, rfl⟩ (CountOnly.podCounted (countEvent_frame ..))
  unfold policeStage
  dsimp only
  split
  · exact PodCounted.refl s
  · split
    · exact PodCounted.refl s
    · split
      · exact hmetered ..
      · exact hmetered ..

theorem takeAck_podCounted (s : State) (n i a : Nat) : PodCounted s (takeAck s n i a) := by
  unfold takeAck
  dsimp only
  split
  · exact podCounted_bump ..
  · split
    · exact PodCounted.refl s
    · split
      · exact podCounted_bump ..
      · split
        · exact (podCounted_setPeer ..).trans (PodOnly.podCounted (pumpPeer_frame ..))
        · exact PodCounted.refl s

/-- A meter that a peer has not asked for polices nothing (R360). -/
theorem policeStage_unmetered {s : State} {n i : Nat} (h : bit (peerOf s n i).ctrl 26 = false) (b colour : Nat) :
    policeStage s n i b colour = (s, some colour) := by
  simp [policeStage, h]

theorem matchPeer_enabled {s : State} {n mac conn i : Nat} (h : matchPeer s n mac conn = some i) : (peerOf s n i).enabled = true := by
  have hmatch := List.find?_some h
  simp only [Bool.and_eq_true] at hmatch
  exact hmatch.1.1

section
variable {s : State} {n : Nat} {f : RxFrame}

/-- The pod header and payload of a frame. -/
def RxFrame.podBytes (f : RxFrame) : List Byte := f.bytes.drop (etherAt f.bytes + 2)

/-- R359: a frame is ignored, dropped before the sequence stage, or goes on to it as one of an enabled peer. -/
theorem receive_cases (s : State) (n : Nat) (f : RxFrame) : receive s n f = .ignored ∨ (∃ t, receive s n f = .dropped t)
    ∨ ∃ t i, PodCounted s t ∧ (peerOf s n i).enabled = true
      ∧ receive s n f = sequenceStage t n i (f.bytes.length + 4) f.podBytes := by
  unfold receive
  dsimp only
  split
  · exact .inl rfl
  · split
    · exact .inr (.inl ⟨_, rfl⟩)
    · split
      · exact .inr (.inl ⟨_, rfl⟩)
      · split
        · exact .inr (.inl ⟨_, rfl⟩)
        · next i hpeer =>
          split
          · exact .inr (.inl ⟨_, rfl⟩)
          · split
            · exact .inr (.inl ⟨_, rfl⟩)
            · split
              · exact .inr (.inl ⟨_, rfl⟩)
              · exact .inr (.inr ⟨_, i, policeStage_podCounted .., matchPeer_enabled hpeer, rfl⟩)

theorem receive_ignored (h : portRuns s n = false) : receive s n f = .ignored := by simp [receive, h]

section
variable (hruns : portRuns s n = true) (hfcs : f.fcs = true)
include hruns hfcs

theorem receive_otherType (h : leNat (slice f.bytes (etherAt f.bytes) 2).reverse ≠ bits (reg s (Reg.POD_ETHERTYPE n)) 15 0) :
    receive s n f = .dropped (bump s (Reg.POD_CNT_ETYPE n)) := by
  simp [receive, hruns, hfcs, h]

variable (htype : leNat (slice f.bytes (etherAt f.bytes) 2).reverse = bits (reg s (Reg.POD_ETHERTYPE n)) 15 0)
include htype

theorem receive_unknownPeer (h : matchPeer s n (leNat (slice f.bytes 6 6).reverse) (le f.podBytes 2 2) = none) :
    receive s n f = .dropped (bump s (Reg.POD_CNT_UNKNOWN_PEER n)) := by
  unfold RxFrame.podBytes at h
  simp [receive, hruns, hfcs, htype, h]

variable {i : Nat} (hpeer : matchPeer s n (leNat (slice f.bytes 6 6).reverse) (le f.podBytes 2 2) = some i)
include hpeer

theorem receive_badHeader (h : headerGood f.podBytes = false) : receive s n f = .dropped (bump s (Reg.POD_CNT_CRC n)) := by
  unfold RxFrame.podBytes at h hpeer
  simp [receive, hruns, hfcs, htype, hpeer, h]

theorem receive_fullBuffer (h : headerGood f.podBytes = true) (hmeter : bit (peerOf s n i).ctrl 26 = false)
    (hfull : bufferDrops s n (f.bytes.length + 4) f.fill (bits (le f.podBytes 1 1) 5 4) = true) :
    receive s n f = .dropped (bump s (Reg.POD_CNT_BUF_DROP n)) := by
  unfold RxFrame.podBytes at h hpeer hfull
  simp [receive, hruns, hfcs, htype, hpeer, h, policeStage_unmetered hmeter, hfull]

end

end

/-! ## The sequence stage (R352, R353, R355) -/

section
variable {s t : State} {n i j b : Nat} {h : List Byte}

/-- A message is complete: its last part is accepted, and the job keys of its peer that expire at its MSG_ID are erased (R413). -/
theorem acceptFrame_message {ty m : Nat} {body : List Byte} (hmsg : acceptFrame s n i b h = .message t j ty m body) :
    ∃ v, PodCounted s v ∧ t = expireSource v (65536 + 256 * n + i) 0 m ∧ j = i
      ∧ (peerOf v n i).rxNext = (le h 8 4 + 1) % 2 ^ 32 ∧ (peerOf v n i).rxMsg = m := by
  unfold acceptFrame at hmsg
  dsimp only at hmsg
  split at hmsg
  · cases hmsg
  · split at hmsg
    · next bs hbody =>
      injection hmsg with ht hi hty hm hbytes
      subst hm
      refine ⟨_, (podCounted_bump64 ..).trans (podCounted_setPeer ..), ht.symm, hi.symm, ?_, ?_⟩
      · rw [peerOf_setPeer_self]
      · rw [peerOf_setPeer_self, hbody]
        rfl
    · cases hmsg

theorem acceptFrame_not_hello : acceptFrame s n i b h ≠ .hello t j := by
  intro hhello
  unfold acceptFrame at hhello
  dsimp only at hhello
  split at hhello
  · cases hhello
  · split at hhello <;> cases hhello

/-- R352, R355: a HELLO of a new epoch is followed by SEQ 1; else the frame is dropped, an ACK, or accepted after its ACK field is taken. -/
theorem sequenceStage_cases (s : State) (n i b : Nat) (h : List Byte) :
    (∃ u, sequenceStage s n i b h = .hello u i ∧ (peerOf u n i).rxNext = 1 ∧ (peerOf u n i).unsynced = false)
      ∨ (∃ u, sequenceStage s n i b h = .dropped u) ∨ (∃ u, sequenceStage s n i b h = .ack u i)
      ∨ sequenceStage s n i b h = acceptFrame (takeAck s n i (le h 12 4)) n i b h := by
  unfold sequenceStage
  dsimp only
  split
  · refine .inl ⟨_, rfl, ?_⟩
    rw [peerOf_congr _ _ (bump64_pod ..), peerOf_setPeer_self]
    exact ⟨rfl, rfl⟩
  · split
    · exact .inr (.inl ⟨_, rfl⟩)
    · split
      · exact .inr (.inr (.inl ⟨_, rfl⟩))
      · split
        · exact .inr (.inr (.inr rfl))
        · split
          · exact .inr (.inl ⟨_, rfl⟩)
          · split
            · exact .inr (.inl ⟨_, rfl⟩)
            · exact .inr (.inl ⟨_, rfl⟩)

theorem sequenceStage_message {ty m : Nat} {body : List Byte} (hmsg : sequenceStage s n i b h = .message t j ty m body) :
    acceptFrame (takeAck s n i (le h 12 4)) n i b h = .message t j ty m body := by
  obtain ⟨u, hstage, -⟩ | ⟨u, hstage⟩ | ⟨u, hstage⟩ | hstage := sequenceStage_cases s n i b h
  · cases hstage.symm.trans hmsg
  · cases hstage.symm.trans hmsg
  · cases hstage.symm.trans hmsg
  · exact hstage.symm.trans hmsg

theorem sequenceStage_hello (hhello : sequenceStage s n i b h = .hello t j) :
    (peerOf t n j).rxNext = 1 ∧ (peerOf t n j).unsynced = false := by
  obtain ⟨u, hstage, hpeer⟩ | ⟨u, hstage⟩ | ⟨u, hstage⟩ | hstage := sequenceStage_cases s n i b h
  · cases hstage.symm.trans hhello
    exact hpeer
  · cases hstage.symm.trans hhello
  · cases hstage.symm.trans hhello
  · exact absurd (hstage.symm.trans hhello) acceptFrame_not_hello

end

section
variable {s t : State} {n i : Nat} {f : RxFrame}

/-- A message is of an enabled peer, whose receive SEQ is past its last frame. -/
theorem receive_message {ty m : Nat} {body : List Byte} (hmsg : receive s n f = .message t i ty m body) :
    ∃ v, PodCounted s v ∧ t = expireSource v (65536 + 256 * n + i) 0 m ∧ (peerOf s n i).enabled = true
      ∧ (peerOf v n i).rxNext = (le f.podBytes 8 4 + 1) % 2 ^ 32 ∧ (peerOf v n i).rxMsg = m := by
  obtain hnone | ⟨u, hdrop⟩ | ⟨u, j, hcounted, henabled, hstage⟩ := receive_cases s n f
  · cases hnone.symm.trans hmsg
  · cases hdrop.symm.trans hmsg
  · rw [hstage] at hmsg
    obtain ⟨v, hv, ht, rfl, hnext, hlast⟩ := acceptFrame_message (sequenceStage_message hmsg)
    exact ⟨v, (hcounted.trans (takeAck_podCounted ..)).trans hv, ht, henabled, hnext, hlast⟩

theorem receive_hello (hhello : receive s n f = .hello t i) : (peerOf t n i).rxNext = 1 ∧ (peerOf t n i).unsynced = false := by
  obtain hnone | ⟨u, hdrop⟩ | ⟨u, j, -, -, hstage⟩ := receive_cases s n f
  · cases hnone.symm.trans hhello
  · cases hdrop.symm.trans hhello
  · exact sequenceStage_hello (hstage ▸ hhello)

end

end Sys2Proof.Machine
end

section
namespace Sys2Proof.Machine

open Sys2Proof.Laws

/-! ## Messages (R350, R357, R358) -/

section
variable {s t : State} {n i m : Nat} {f : RxFrame} {body : List Byte}

/-- REQUEST of a client peer: its checks are those of a host submission (R357). -/
theorem podRequest_message (hmsg : receive s n f = .message t i 0x01 m body) (hclient : (peerOf t n i).client = true) :
    podRequest s n f = if subOpcodeGood (body.take 64) = false ∨ subOpcode (body.take 64) ≠ 1
      then malformed t (.pod n i m (subTag (body.take 64))) (0x01, 0xFFFFFFFF)
      else match checkQuery t (.pod n i m (subTag (body.take 64))) (peerOf t n i).account (body.take 64) (body.drop 64) with
        | .inl r => arrive t r
        | .inr x => malformed (countFail t x) (.pod n i m (subTag (body.take 64))) x := by
  simp only [podRequest, hmsg, hclient, Bool.not_true, Bool.false_eq_true, if_false, Bool.not_eq_true']
    <;> rfl

theorem podCancel_message (hmsg : receive s n f = .message t i 0x02 m body) (hclient : (peerOf t n i).client = true)
    (hgood : subOpcodeGood (body.take 64) = true) (hcancel : subOpcode (body.take 64) = 2) :
    podCancel s n f = cancelSub t (.pod n i m (subTag (body.take 64))) (ofPeer n i) (body.take 64) := by
  simp [podCancel, hmsg, hclient, hgood, hcancel]

theorem selRun_message (hmsg : receive s n f = .message t i 0x10 m body) {r : Req} (hreq : shardReq t body = some r)
    (hroot : isRoot t r = true) : selRun s n f = takeRun t r body := by
  simp [selRun, hmsg, hreq, hroot]

theorem tokReq_message (hmsg : receive s n f = .message t i 0x11 m body) {r : Req} (hreq : shardReq t body = some r) :
    tokReq s n f = answerTokens t n i r body := by
  simp [tokReq, hmsg, hreq]

theorem tokReply_message (hmsg : receive s n f = .message t i 0x12 m body) {r : Req} (hreq : shardReq t body = some r) :
    tokReply s n f = takeReply t r body := by
  simp [tokReply, hmsg, hreq]

section
variable (hnone : shardReq t body = none)
include hnone

theorem selRun_unmatched (hmsg : receive s n f = .message t i 0x10 m body) : selRun s n f = unmatched t n := by
  simp [selRun, hmsg, hnone]

theorem tokReq_unmatched (hmsg : receive s n f = .message t i 0x11 m body) : tokReq s n f = unmatched t n := by
  simp [tokReq, hmsg, hnone]

theorem tokReply_unmatched (hmsg : receive s n f = .message t i 0x12 m body) : tokReply s n f = unmatched t n := by
  simp [tokReply, hmsg, hnone]

end

theorem arrival_lpddr (s : State) (c tag : Nat) : (arrival s c tag).lpddr = s.lpddr := by
  unfold arrival
  dsimp only
  split
  · rfl
  · rw [logUnit, logOnly_eq (logErr_frame ..)]

/-- COLL of a peer module: the message is in its region, and a core may count its arrival. -/
theorem coll_message (hmsg : receive s n f = .message t i 0x30 m body) (hmodule : (peerOf t n i).client = false)
    (hregion : inRegion t (le body 0 2) (le body 8 8) (body.length - 16) = true) :
    (coll s n f true).lpddr = (ldWrite t (le body 0 2) (le body 8 8) (body.drop 16)).lpddr := by
  rw [← List.length_drop] at hregion
  simp only [coll, hmsg, hmodule, hregion, Bool.not_true, Bool.false_eq_true, or_self, if_false, if_true]
  split
  · exact arrival_lpddr ..
  · rfl

end

/-! ## Bytes of LPDDR after a write -/

section
variable {s t : State} {g o : Nat} {bs : List Byte} (h : t.lpddr = (ldWrite s g o bs).lpddr)
include h

theorem ldRead_written : ldRead t g o bs.length = bs := by
  rw [ldRead, h]
  exact memRead_memWrite_self ..

theorem memByte_outside {x : Nat} (hx : x < ldKey g o ∨ ldKey g o + bs.length ≤ x) : memByte t.lpddr x = memByte s.lpddr x := by
  rw [h]
  exact (memByte_memWrite ..).trans (dif_neg (by omega))

end

/-! ## A message whose part 0 was not received (R351, R357) -/

section
variable {s : State} {n i ty : Nat} (m : Nat)

theorem lostMessage_other (h : ty ≠ 0x01) : lostMessage s n i ty m = s := if_neg fun hreq => h hreq.1

theorem lostMessage_module (h : (peerOf s n i).client = false) : lostMessage s n i ty m = s := by simp [lostMessage, h]

theorem lostMessage_client (h : (peerOf s n i).client = true) : lostMessage s n i 0x01 m
    = malformed { s with fresh := s.fresh + 1 } (.pod n i m (Config.free s.fresh % 2 ^ 64)) (0x02, 0xFFFFFFFF) := if_pos ⟨rfl, h⟩

end

/-! ## A shard's run at the root (R204) -/

/-- The root has a run of the shard: its own, or one that came. -/
def RunKnown (s : State) (r : Req) (sid : Nat) : Prop := sid = ownShard s r ∨ ∃ x ∈ r.remote, x.shard = sid

/-- The run comes after the merge was formed, or after its deadline. -/
def RunLate (s : State) (r : Req) (sid : Nat) : Prop := (r.first.isSome = true ∧ ¬RunKnown s r sid) ∨ ∃ d, r.mergeBy = some d ∧ d < now s

/-- The run has another score key than the request's index. -/
def RunOther (s : State) (r : Req) (body : List Byte) : Prop := (pinnedIndex s r.vset).map (·.scoreKey) ≠ some (le body 8 8)

section
variable {s : State} {r : Req} {body : List Byte}

theorem runKnown_iff (s : State) (r : Req) (sid : Nat) :
    (decide (sid = ownShard s r) || r.remote.any fun x => x.shard = sid) = true ↔ RunKnown s r sid := by
  simp [RunKnown]

theorem runLate_iff (s : State) (r : Req) (sid : Nat) :
    ((r.first.isSome && !(decide (sid = ownShard s r) || r.remote.any fun x => x.shard = sid)) || (match r.mergeBy with
      | some d => decide (d < now s)
      | none => false)) = true ↔ RunLate s r sid := by
  rw [Bool.or_eq_true, Bool.and_eq_true, Bool.not_eq_true', ← Bool.not_eq_true, runKnown_iff]
  cases hby : r.mergeBy <;> simp [RunLate, hby]

theorem takeRun_late (hlate : RunLate s r (le body 16 2)) : takeRun s r body
    = setBits (bump (setReq s r.key (some { r with shardLate := true })) Reg.SEL_CNT_SHARD_LATE) Reg.SEL_INT_STATUS 1 :=
  if_pos ((runLate_iff ..).mpr hlate)

section
variable (hintime : ¬RunLate s r (le body 16 2))
include hintime

theorem takeRun_otherKey (hother : RunOther s r body) : takeRun s r body
    = setBits (bump (setReq s r.key (some { r with keyMismatch := true })) Reg.SEL_CNT_KEY_MISMATCH) Reg.SEL_INT_STATUS 2 :=
  (if_neg fun h => hintime ((runLate_iff ..).mp h)).trans (if_pos hother)

variable (hkey : ¬RunOther s r body)
include hkey

theorem takeRun_again (hknown : RunKnown s r (le body 16 2)) :
    takeRun s r body = bump (setReq s r.key (some { r with shardDup := true })) Reg.SEL_CNT_SHARD_DUP :=
  ((if_neg fun h => hintime ((runLate_iff ..).mp h)).trans (if_neg hkey)).trans (if_pos ((runKnown_iff ..).mpr hknown))

theorem takeRun_kept (hnew : ¬RunKnown s r (le body 16 2)) :
    takeRun s r body = setReq s r.key (some { r with remote := r.remote ++ [.mk (le body 16 2) (runOf (body.drop 32))] }) :=
  ((if_neg fun h => hintime ((runLate_iff ..).mp h)).trans (if_neg hkey)).trans (if_neg fun h => hnew ((runKnown_iff ..).mp h))

end

end

/-- The register words that a shard's run may change. -/
def shardWords : List Nat := [Reg.SEL_CNT_SHARD_LATE, Reg.SEL_CNT_KEY_MISMATCH, Reg.SEL_CNT_SHARD_DUP, Reg.SEL_INT_STATUS]

/-- `u` is `s` after request `r` became `r1`, with counts and levels of its shards' runs. -/
structure ShardCounted (s : State) (r r1 : Req) (u : State) : Prop where
  frame : u = { s with regs := u.regs, evt := u.evt, front := u.front }
  kept : RegsKept s u shardWords
  others : ∀ j, j ≠ r.key → reqOf u j = reqOf s j
  own : reqOf u r.key = some r1

section
variable (s : State) (r r1 : Req)

theorem CountOnly.shardCounted {u : State} (h : CountOnly (setReq s r.key (some r1)) u) (hkept : RegsKept s u shardWords) :
    ShardCounted s r r1 u := by
  obtain ⟨g, e, rfl⟩ := h
  exact ⟨rfl, hkept, fun j hj => reqOf_setReq_ne s r.key (some r1) hj, reqOf_setReq_self s r.key (some r1)⟩

variable {a : Nat} (ha : a ∈ shardWords)
include ha

theorem shardCounted_bump : ShardCounted s r r1 (bump (setReq s r.key (some r1)) a) :=
  CountOnly.shardCounted s r r1 (bump_frame ..) (RegsKept.after_bump (fun _ _ _ => rfl) ha)

theorem shardCounted_countRaise (m : Nat) : ShardCounted s r r1 (setBits (bump (setReq s r.key (some r1)) a) Reg.SEL_INT_STATUS m) :=
  CountOnly.shardCounted s r r1 (countRaise_frame ..)
    (RegsKept.after_setBits (RegsKept.after_bump (fun _ _ _ => rfl) ha) (by simp [shardWords]) m)

end

/-- A shard's run changes its request and the registers that count it. -/
theorem takeRun_shardCounted (s : State) (r : Req) (body : List Byte) : ∃ r1, ShardCounted s r r1 (takeRun s r body) := by
  by_cases hlate : RunLate s r (le body 16 2)
  · rw [takeRun_late hlate]
    exact ⟨_, shardCounted_countRaise s r _ (by simp [shardWords]) 1⟩
  · by_cases hother : RunOther s r body
    · rw [takeRun_otherKey hlate hother]
      exact ⟨_, shardCounted_countRaise s r _ (by simp [shardWords]) 2⟩
    · by_cases hknown : RunKnown s r (le body 16 2)
      · rw [takeRun_again hlate hother hknown]
        exact ⟨_, shardCounted_bump s r _ (by simp [shardWords])⟩
      · rw [takeRun_kept hlate hother hknown]
        exact ⟨_, CountOnly.shardCounted s r _ (CountOnly.refl _) fun _ _ _ => rfl⟩

end Sys2Proof.Machine
end

section
namespace Sys2Proof.Proofs

open Sys2Proof Sys2Proof.Machine Sys2Proof.Laws

/-- A port that does not run takes no frame, whatever command brings it. -/
theorem exec_frame_ignored {s : State} {n : PortNo} {f : RxFrame} (h : receive s n f = .ignored) :
    ∀ c ∈ [Instr.podFrameDrop n f, .messagePart n f, .podRequest n f, .podCancel n f, .selRun n f, .tokReq n f, .tokReply n f,
      .coll n f true, .hello n f, .podAck n f], exec c s = .next (settle s) := by
  simp only [List.forall_mem_cons, List.not_mem_nil, false_implies, implies_true, and_true]
  refine ⟨congrArg done ?_, congrArg done ?_, congrArg done ?_, congrArg done ?_, congrArg done ?_, congrArg done ?_, congrArg done ?_,
    congrArg done ?_, congrArg done ?_, congrArg done ?_⟩
  · rw [frameDrop, h]
  · rw [messagePart, h]
  · rw [podRequest, h]
  · rw [podCancel, h]
  · rw [selRun, h]
  · rw [tokReq, h]
  · rw [tokReply, h]
  · rw [coll, h]
  · rw [helloFrame, h]
  · rw [ackFrame, h]

theorem exec_frame_dropped {s t : State} {n : PortNo} {f : RxFrame} (h : receive s n f = .dropped t) :
    exec (.podFrameDrop n f) s = .next (settle t) :=
  congrArg done (by rw [frameDrop, h])

/-- A message changes register words, event counters, pod ports, and the job keys that it erases (R413). -/
theorem message_frame {s v : State} (h : PodCounted s v) (source m : Nat) :
    expireSource v source 0 m = { s with
        regs := (expireSource v source 0 m).regs, evt := (expireSource v source 0 m).evt, pod := (expireSource v source 0 m).pod
        sec := { s.sec with jobKeys := (expireSource v source 0 m).sec.jobKeys } }
      ∧ ∀ k, k ∈ (expireSource v source 0 m).sec.jobKeys → k ∈ s.sec.jobKeys := by
  obtain ⟨r, e, p, rfl⟩ := h
  exact ⟨rfl, fun k hk => (List.mem_filter.mp hk).1⟩

/-- Settles O51: the stages of a frame one by one, a message by its type, and a shard's run by the first test that it fails. -/
theorem podFramesPassTheirStages : Obligations.PodFramesPassTheirStages := by
  unfold Obligations.PodFramesPassTheirStages
  refine ⟨fun s n f hstopped => exec_frame_ignored (receive_ignored hstopped), fun s n f hruns hfcs => ?_,
    fun s t n f i ty m body hmsg => ?_, fun s t n f i => ?_, fun s r body => ?_⟩
  · refine ⟨fun htype => exec_frame_dropped (receive_otherType hruns hfcs htype),
      fun htype hpeer => exec_frame_dropped (receive_unknownPeer hruns hfcs htype hpeer), fun i htype hpeer => ⟨fun hbad => ?_,
        fun hgood hmeter hfull => ?_⟩⟩
    · exact exec_frame_dropped (receive_badHeader hruns hfcs htype hpeer hbad)
    · exact exec_frame_dropped (receive_fullBuffer hruns hfcs htype hpeer hgood hmeter hfull)
  · obtain ⟨v, hcounted, ht, henabled, hnext, hlast⟩ := receive_message hmsg
    obtain ⟨hframe, hkeys⟩ := message_frame hcounted (65536 + 256 * n + i) m
    rw [← ht] at hframe hkeys
    have hpod : t.pod = v.pod := by rw [ht]; rfl
    rw [← peerOf_congr _ _ hpod] at hnext hlast
    refine ⟨⟨hframe, hkeys, henabled, hnext, hlast⟩, ?_, ?_, fun r hreq => ⟨?_, ?_, ?_⟩, fun hnone => ⟨?_, ?_, ?_⟩, ?_⟩
    · rintro rfl hclient
      exact congrArg done (podRequest_message hmsg hclient)
    · rintro rfl hclient hgood hcancel
      exact congrArg done (podCancel_message hmsg hclient hgood hcancel)
    · rintro rfl hroot
      exact congrArg done (selRun_message hmsg hreq hroot)
    · rintro rfl
      exact congrArg done (tokReq_message hmsg hreq)
    · rintro rfl
      exact congrArg done (tokReply_message hmsg hreq)
    · rintro rfl
      exact congrArg done (selRun_unmatched hnone hmsg)
    · rintro rfl
      exact congrArg done (tokReq_unmatched hnone hmsg)
    · rintro rfl
      exact congrArg done (tokReply_unmatched hnone hmsg)
    · rintro rfl hmodule hregion
      have hwritten := coll_message hmsg hmodule hregion
      have hlpddr : t.lpddr = s.lpddr := by rw [hframe]
      rw [← List.length_drop]
      refine ⟨_, rfl, ldRead_written hwritten, fun x hx => ?_⟩
      rw [memByte_outside hwritten hx, hlpddr]
  · refine ⟨fun hpart => congrArg done (by rw [messagePart, hpart]), fun hhello => ⟨congrArg done (by rw [helloFrame, hhello]),
      receive_hello hhello⟩, fun hack => congrArg done (by rw [ackFrame, hack]), fun ty m hlost => ?_⟩
    refine ⟨congrArg done (by rw [frameDrop, hlost]), ?_, lostMessage_other m, lostMessage_module m,
      fun hclient => ⟨_, lostMessage_client m hclient⟩⟩
    rintro rfl
    exact congrArg done (by simp only [podRequest, hlost])
  · obtain ⟨r1, hframe, hkept, hothers, -⟩ := takeRun_shardCounted s r body
    refine ⟨hframe, hkept, hothers, fun hlate => ?_, fun hintime hother => ?_, fun hintime hkey hknown => ?_,
      fun hintime hkey hnew => ?_⟩
    · rw [takeRun_late hlate]
      exact ⟨(shardCounted_countRaise s r _ (by simp [shardWords]) 1).own,
        reg_countRaise_counter (setReq s r.key _) _ _ 1 (by decide) (by decide), regBit_setBits _ _ (by decide) (by decide)⟩
    · rw [takeRun_otherKey hintime hother]
      exact ⟨(shardCounted_countRaise s r _ (by simp [shardWords]) 2).own,
        reg_countRaise_counter (setReq s r.key _) _ _ 2 (by decide) (by decide), regBit_setBits _ _ (by decide) (by decide)⟩
    · rw [takeRun_again hintime hkey hknown]
      exact ⟨(shardCounted_bump s r _ (by simp [shardWords])).own, (reg_bump (setReq s r.key _) _ _ (by decide)).trans (if_pos rfl)⟩
    · rw [takeRun_kept hintime hkey hnew]
      exact ⟨reqOf_setReq_self .., rfl⟩

end Sys2Proof.Proofs
end

section
/-!
SUPPORT. The statements of spec/11_embedding_tables.md, and TFETCH of spec/13_rerank_pack.md, settled. First the two words that gather and
fetch, by where they may store; then the builds of table versions, by the state that each command begins in and that its completion leaves.
-/
namespace Sys2Proof.Proofs

open Sys2Proof.Machine Sys2Proof.Laws

/-! ## TGATHER (R211 to R213) -/

theorem Transferred.rowWork {s t : State} (h : Transferred s t) (c : Nat) : RowWork c s t :=
  .of_eq c (by rw [h.frame]) (by rw [h.frame]) (by rw [h.frame])

theorem freeElems_rowWork (s : State) (c w n : Nat) (l : List Nat) : RowWork c s (freeElems s w n l).1 := by
  induction n generalizing s l with
  | zero => exact .refl c s
  | succ n ih =>
    have htick : RowWork c s (tick s) := .of_eq c rfl rfl rfl
    exact htick.trans (ih _ _)

/-- A bag is gathered in its core: what its keys select is read, and its output row is written. -/
theorem gatherBag_rowWork (s : State) (c : Nat) (f : GatherFields) (b : Nat) : RowWork c s (gatherBag c f s b) := by
  unfold gatherBag
  dsimp only
  split
  · exact (freeElems_rowWork ..).trans (spWrite_rowWork ..)
  · have hread (l : List (Nat × Nat × Nat)) : RowWork c s (l.foldl (fun t r => transfer t c r.1 r.2.1 r.2.2 false) s) :=
      RowWork.foldl (fun _ _ => (transfer_transferred ..).rowWork c) s l
    exact (((hread _).trans (spWrite_rowWork ..)).trans (arithRow_rowWork ..)).trans (rowWork_logOnly c (logOnly_bumpBy ..))

theorem gatherEffect_ran (s : State) (c w : Nat) : ChainRan c (gatherReach s c w) s (gatherEffect s c (Machine.core s c) w) :=
  (RowWork.foldl (fun t b => gatherBag_rowWork t c (gatherFields w) b) s _).chainRan _

/-! ## Writes to a range of LPDDR -/

/-- `t` is `s` after writes of nothing but LPDDR bytes `o` to `o + n` of region `g`: cores, scratchpads and other LPDDR bytes stay. -/
structure StoredIn (g o n : Nat) (s t : State) : Prop where
  cores : t.cores = s.cores
  scratch : t.scratch = s.scratch
  lpddr : ∀ a, (a < ldKey g o ∨ ldKey g o + n ≤ a) → memByte t.lpddr a = memByte s.lpddr a

section
variable {g o n : Nat} {s t u : State}

/-- A change of neither cores, scratchpads nor LPDDR. -/
theorem StoredIn.of_eq (hcores : t.cores = s.cores) (hscratch : t.scratch = s.scratch) (hlpddr : t.lpddr = s.lpddr) :
    StoredIn g o n s t :=
  ⟨hcores, hscratch, fun _ _ => by rw [hlpddr]⟩

theorem StoredIn.refl (s : State) : StoredIn g o n s s := .of_eq rfl rfl rfl

theorem StoredIn.trans (h : StoredIn g o n s t) (k : StoredIn g o n t u) : StoredIn g o n s u :=
  ⟨k.cores.trans h.cores, k.scratch.trans h.scratch, fun a ha => (k.lpddr a ha).trans (h.lpddr a ha)⟩

theorem Transferred.storedIn (h : Transferred s t) : StoredIn g o n s t :=
  .of_eq (by rw [h.frame]) (by rw [h.frame]) (by rw [h.frame])

theorem CountOnly.storedIn (h : CountOnly s t) : StoredIn g o n s t := by
  obtain ⟨r, e, rfl⟩ := h
  exact .of_eq rfl rfl rfl

theorem setReq_storedIn (s : State) (k : Nat) (r : Option Req) : StoredIn g o n s (setReq s k r) := .of_eq rfl rfl rfl

/-- A write within the range. -/
theorem ldWrite_storedIn (s : State) {x : Nat} {bs : List Byte} (hlo : o ≤ x) (hhi : x + bs.length ≤ o + n) :
    StoredIn g o n s (ldWrite s g x bs) :=
  ⟨rfl, rfl, fun a ha => memByte_outside rfl (by simp only [ldKey] at ha ⊢; omega)⟩

end

/-! ## The output of TFETCH (R257) -/

theorem flatMap_natLE_length (l : List Nat) (k : Nat) : (l.flatMap (natLE k)).length = k * l.length := by
  induction l with
  | nil => rfl
  | cons x l ih => rw [List.flatMap_cons, List.length_append, natLE_length, ih, List.length_cons, Nat.mul_succ, Nat.add_comm]

/-- A row is ROW_LEN tokens, whatever its passage has. -/
theorem fetchRow_length (d : List Byte) (q : List Nat) (p : Option (Nat × List Nat)) : (fetchRow d q p).2.length = descRow d := by
  unfold fetchRow
  cases p with
  | none => exact List.length_replicate
  | some p =>
    simp only [List.length_append, List.length_replicate, List.length_take]
    omega

/-- Row `i` of `n`: its header, its tokens and its keep area lie in the output of `n` rows. -/
theorem putRow_storedIn (s : State) (g o : Nat) {n i : Nat} (hn : n ≤ 64) (hi : i < n) (d : List Byte) (q : List Nat)
    (p : Option (Nat × List Nat)) : StoredIn g o (outBytes d n) s (putRow s g o n i d q p) := by
  have hrow : 4 * descRow d * i + 4 * descRow d ≤ 4 * descRow d * n := Nat.mul_le_mul_left _ hi
  have hkeep : (4 * descKeep d + 4) * i + (4 * descKeep d + 4) ≤ (4 * descKeep d + 4) * n := Nat.mul_le_mul_left _ hi
  have htaken : (((p.map (·.2)).getD []).take (descKeep d)).length ≤ descKeep d := List.length_take_le ..
  refine .trans (.trans (.trans (ldWrite_storedIn s (by omega) ?_) (ldWrite_storedIn _ (by omega) ?_))
      (ldWrite_storedIn _ (by omega) ?_)) (ldWrite_storedIn _ (by omega) ?_)
    <;> simp only [outBytes, natLE_length, flatMap_natLE_length, fetchRow_length] <;> omega

/-! ## TFETCH (R256) -/

theorem chargeCandidate_transferred (s : State) (c g id keep : Nat) : Transferred s (chargeCandidate s c g id keep) := by
  unfold chargeCandidate
  dsimp only
  split
  · exact ((transfer_transferred ..).trans (transfer_transferred ..)).trans (transfer_transferred ..)
  · exact (transfer_transferred ..).trans (transfer_transferred ..)
  · exact transfer_transferred ..

theorem countPassage_frame (s : State) (p : Passage) : CountOnly s (countPassage s p) := by
  cases p with
  | absent => exact bump_frame ..
  | bad => exact CountOnly.trans (bump_frame ..) (countOnly_setBits ..)
  | tokens n l => exact CountOnly.refl s

/-- One candidate: what its fetch reads and counts, and its row. -/
theorem fetchOne_storedIn (s : State) (c out region : Nat) {n i : Nat} (hn : n ≤ 64) (hi : i < n) (d : List Byte) (q : List Nat)
    (es : List SelEntry) (k : Option Nat) : StoredIn region out (outBytes d n) s (fetchOne c n out region d q es k s i) := by
  have hput (t : State) (p : Option (Nat × List Nat)) : StoredIn region out (outBytes d n) t (putRow t region out n i d q p) :=
    putRow_storedIn t region out hn hi d q p
  have hfetch (g id : Nat) (p : Passage) : StoredIn region out (outBytes d n) s
      (putRow (countPassage (bump (chargeCandidate s c g id (descKeep d)) Reg.RR_CNT_FETCH) p) region out n i d q p.good) :=
    have hcounted : CountOnly (chargeCandidate s c g id (descKeep d)) _ := CountOnly.trans (bump_frame ..) (countPassage_frame ..)
    ((chargeCandidate_transferred ..).storedIn.trans (CountOnly.storedIn hcounted)).trans (hput ..)
  unfold fetchOne
  dsimp only
  split
  · exact hput ..
  · split
    · exact hfetch ..
    · split
      · split
        · exact hput ..
        · exact hput ..
      · exact (hfetch ..).trans (setReq_storedIn ..)

/-- A TFETCH stores its rows where its output lies, and then its core goes on. -/
theorem fetchEffect_stored (s : State) (c w : Nat) : ∃ t, fetchEffect s c w = chainDone t c (fetchReach s c w)
    ∧ StoredIn (bits w 77 62) (fetchAt (Machine.core s c) w) (outBytes (spRead s c (4 * bits w 111 95) 32) (bits w 119 114 + 1)) s t := by
  have hn : bits w 119 114 + 1 ≤ 64 := by simp only [bits]; omega
  refine ⟨_, rfl, .trans (.trans ?_ (List.foldlRecOn _ _ (.refl _) fun t ht i hi =>
    ht.trans (fetchOne_storedIn t c _ _ hn (List.mem_range.mp hi) _ _ _ _))) (transfer_transferred ..).storedIn⟩
  split
  · exact setReq_storedIn ..
  · exact .refl s

theorem exec_tfetch {s : State} {c : CoreNo} {w : Nat} (hword : wordOf s c 0x4E = some w)
    (hfree : rangeHold (Machine.core s c) (fetchReach s c w) = none) (hin : inScratchpad (fetchReach s c w) = true)
    (hregion : inRegion s (bits w 77 62) (fetchAt (Machine.core s c) w)
      (outBytes (spRead s c (4 * bits w 111 95) 32) (bits w 119 114 + 1)) = true) :
    exec (.tfetch c) s = .next (settle (fetchEffect s c w)) := by
  show execTfetch c s = _
  simp [execTfetch, hword, hfree, hin, hregion, done]

/-- Settles O31: TGATHER by the work on its bags, TFETCH by where its candidates' rows are stored. -/
theorem gatherAndFetchWordsIssue : Obligations.GatherAndFetchWordsIssue := by
  unfold Obligations.GatherAndFetchWordsIssue
  refine ⟨fun s c w hword hfree hin => ?_, fun s c w hword hfree hin hregion => ?_⟩
  · have hran := gatherEffect_ran s c w
    refine ⟨_, issue_runs (reach := fun _ v => gatherReach s c v) (hold := fun k v => rangeHold k (gatherReach s c v))
      (eff := fun t k v => gatherEffect t c k v) hword hfree hin, rfl, hran.lpddr, hran.cores, hran.place, hran.others⟩
  · obtain ⟨t, heffect, hstored⟩ := fetchEffect_stored s c w
    refine ⟨_, exec_tfetch hword hfree hin hregion, rfl, ?_⟩
    rw [heffect, chainDone, core_modCore_self, core_congr hstored.cores]
    exact ⟨hstored.scratch, coresKept_trans (coresKept_of_eq _ hstored.cores) (coresKept_modCore _ (c : Nat) _), rfl, hstored.lpddr⟩

end Sys2Proof.Proofs
end

section
namespace Sys2Proof.Machine

open Sys2Proof.Laws

/-! ## Builds and versions of an asset (R58, R214, R216) -/

section
variable {s t : State} {a x : Nat}

theorem buildOf_congr (h : t.assets.builds = s.assets.builds) (a : Nat) : buildOf t a = buildOf s a := by rw [buildOf, buildOf, h]

theorem assetSt_congr (h : t.assets.table = s.assets.table) (a : Nat) : assetSt t a = assetSt s a := by rw [assetSt, assetSt, h]

theorem buildOf_eq_none_iff : buildOf s a = none ↔ ∀ b ∈ s.assets.builds, b.asset ≠ a := by simp [buildOf, List.find?_eq_none]

variable (s)

theorem buildOf_setBuild_none : buildOf (setBuild s a none) a = none :=
  buildOf_eq_none_iff.mpr fun b hb => by simpa using (List.mem_filter.mp hb).2

theorem buildOf_setBuild_none_ne (h : x ≠ a) : buildOf (setBuild s a none) x = buildOf s x := by
  rw [buildOf, buildOf, setBuild, List.find?_filter]
  congr 1
  funext b
  by_cases hb : b.asset = x <;> simp [hb, h]

/-- The first build of an asset stands behind the others. -/
theorem setBuild_first {s : State} (h : buildOf s a = none) (b : Build) :
    setBuild s a (some b) = { s with assets := { s.assets with builds := s.assets.builds ++ [b] } } := by
  have hall : s.assets.builds.filter (fun y => decide (y.asset ≠ a)) = s.assets.builds :=
    List.filter_eq_self.mpr fun y hy => by simpa using buildOf_eq_none_iff.mp h y hy
  rw [setBuild, hall]

@[simp] theorem assetSt_setAsset_self (y : Asset) : assetSt (setAsset s a y) a = y := tget_tset_self ..

theorem assetSt_setAsset_ne (y : Asset) (h : x ≠ a) : assetSt (setAsset s a y) x = assetSt s x := tget_tset_ne _ _ _ h

/-- Freeing an asset's versions changes the asset table only. -/
theorem reap_table (a : Nat) : reap s a = { s with assets := { s.assets with table := (reap s a).assets.table } } := by
  unfold reap
  dsimp only
  split <;> rfl

theorem reap_builds (a : Nat) : (reap s a).assets.builds = s.assets.builds := by rw [reap_table]

theorem assetSt_reap_ne (h : x ≠ a) : assetSt (reap s a) x = assetSt s x := by
  unfold reap
  dsimp only
  split
  · rfl
  · exact assetSt_setAsset_ne s _ h

/-- R58 takes from an asset the versions that may be freed, and counts them. -/
theorem assetSt_reap (a : Nat) : ∃ n, assetSt (reap s a) a
    = { assetSt s a with versions := (assetSt s a).versions.filter fun v => !freeable s a v, freed := n } := by
  unfold reap
  dsimp only
  split
  · next hnone =>
    have hall : (assetSt s a).versions.filter (fun v => !freeable s a v) = (assetSt s a).versions :=
      List.filter_eq_self.mpr fun v hv => by simpa using List.filter_eq_nil_iff.mp hnone v hv
    exact ⟨(assetSt s a).freed, by rw [hall]⟩
  · exact ⟨_, assetSt_setAsset_self ..⟩

/-- R58 keeps a version that was never current and that none supersedes. -/
theorem not_freeable {v : Version} (hcurrent : v.everCurrent = false) (hsuperseded : v.superseded = false) :
    freeable s a v = false := by simp [freeable, hcurrent, hsuperseded]

theorem slotWrite_assets (a slot o : Nat) (bs : List Byte) : (slotWrite s a slot o bs).assets = s.assets := by
  unfold slotWrite
  split <;> rfl

/-- R216: a closed build is one more version of its asset, in the build's slot, and R58 keeps it. -/
theorem closeBuild_version (b : Build) : ∃ v : Version,
    assetSt (closeBuild s b) b.asset = { assetSt s b.asset with versions := (assetSt s b.asset).versions ++ [v] }
      ∧ v.ver = b.ver ∧ v.slot = b.slot ∧ v.verified = true ∧ freeable (closeBuild s b) b.asset v = false := by
  have hwritten (body : List Byte) : assetSt (slotWrite (setBuild s b.asset none) b.asset b.slot 0 body) b.asset = assetSt s b.asset :=
    assetSt_congr (by rw [slotWrite_assets]; rfl) _
  unfold closeBuild
  dsimp only
  rw [hwritten]
  exact ⟨_, assetSt_setAsset_self .., rfl, rfl, rfl, not_freeable _ rfl rfl⟩

theorem buildOf_closeBuild (b : Build) : buildOf (closeBuild s b) b.asset = none :=
  (buildOf_congr (congrArg AssetSt.builds (slotWrite_assets ..)) _).trans (buildOf_setBuild_none s)

end

/-! ## The TABLE section's work on a batch (R214, R217 to R219) -/

/-- `t` is `s` after work on builds: they change, with the pages that they write, and of the register words only the tables'
counters. -/
structure TableWork (s t : State) : Prop where
  frame : t = { s with
    regs := t.regs, evt := t.evt, lpddr := t.lpddr, poison := t.poison, twin := t.twin
    assets := { s.assets with builds := t.assets.builds } }
  kept : RegsKept s t [Reg.TAB_CNT_PAGES, Reg.TAB_CNT_ROWS, Reg.TAB_CNT_OOR]
  journals : journals t = journals s

section
variable {s t u : State}

theorem TableWork.refl (s : State) : TableWork s s := ⟨rfl, RegsKept.refl s _, rfl⟩

theorem TableWork.trans (h : TableWork s t) (g : TableWork t u) : TableWork s u :=
  ⟨g.frame.trans (by rw [h.frame]), h.kept.trans g.kept, g.journals.trans h.journals⟩

theorem tableSection_congr (h : t.bond = s.bond) : tableSection t = tableSection s := by rw [tableSection, tableSection, h]

theorem TableWork.tableSection (h : TableWork s t) : tableSection t = tableSection s := tableSection_congr (by rw [h.frame])

theorem TableWork.foldl {β : Type} {f : State → β → State} (h : ∀ t x, Machine.tableSection t = none → TableWork t (f t x))
    (hnone : Machine.tableSection s = none) (l : List β) : TableWork s (l.foldl f s) :=
  List.foldlRecOn l f (TableWork.refl s) fun t ht x _ => ht.trans (h t x (ht.tableSection.trans hnone))

variable (s)

theorem tableWork_setBuild (a : Nat) (b : Option Build) : TableWork s (setBuild s a b) := ⟨rfl, fun _ _ _ => rfl, rfl⟩

theorem tableWork_bumpBy {a : Nat} (ha : a ∈ [Reg.TAB_CNT_PAGES, Reg.TAB_CNT_ROWS, Reg.TAB_CNT_OOR]) (k : Nat) :
    TableWork s (bumpBy s a k) := by
  have hkept := (regsKept_bumpBy s a k).mono (List.cons_subset.mpr ⟨ha, List.nil_subset _⟩)
  obtain ⟨r, e, h⟩ := bumpBy_frame s a k
  rw [h] at hkept ⊢
  exact ⟨rfl, hkept, rfl⟩

/-- The segments that a rejoin marks decide nothing of what the module journals. -/
theorem journals_ldWrite (g o : Nat) (bs : List Byte) : journals (ldWrite s g o bs) = journals s := by
  have htwin : (ldWrite s g o bs).twin = markSegments s.twin g o bs.length := rfl
  rw [journals, journals, htwin, markSegments]
  cases hresync : s.twin.resync with
  | none => simp only [hresync]
  | some r =>
    dsimp only
    split
    · rfl
    · simp only [hresync]

theorem tableWork_ldWrite (g o : Nat) (bs : List Byte) : TableWork s (ldWrite s g o bs) :=
  ⟨rfl, fun _ _ _ => rfl, journals_ldWrite s g o bs⟩

theorem tableWork_countApplied (a n : Nat) : TableWork s (countApplied s a n) := by
  unfold countApplied
  split
  · exact tableWork_setBuild ..
  · exact .refl s

end

/-! ## A batch in an image without a TABLE section (log 51) -/

section
variable {s : State} (hnone : tableSection s = none)
include hnone

theorem tableAccess_none (g o n : Nat) (wr : Bool) : tableAccess s g o n wr = s := by rw [tableAccess, hnone]

theorem arithTable_none (e : ArithEv) : arithTable s e = s := by rw [arithTable, hnone]

theorem copyPage_tableWork (t : Emb) (b : Build) (i : Nat) : TableWork s (copyPage s t b i).1 := by
  unfold copyPage
  dsimp only
  split
  · exact .refl s
  · split
    · exact .refl s
    · simp only [tableAccess_none hnone]
      exact ((tableWork_ldWrite ..).trans (tableWork_bumpBy _ (by simp) 1)).trans (tableWork_setBuild ..)

theorem applyRow_tableWork (a : Nat) (h : Batch) (p : Nat × List Val) : TableWork s (applyRow a h s p) := by
  unfold applyRow
  split
  · exact .refl s
  · next b _ =>
    have hcopy := copyPage_tableWork hnone (embAt s a b.base) b (p.1 / max (embAt s a b.base).rpp 1)
    have hcopied := hcopy.tableSection.trans hnone
    simp only [tableAccess_none hcopied]
    rw [arithTable_none]
    · exact ((hcopy.trans (tableWork_ldWrite ..)).trans (tableWork_setBuild ..)).trans (tableWork_bumpBy _ (by simp) 1)
    · exact hcopied

theorem finishBatch_tableWork (x : BatchRun) : TableWork s (finishBatch s x) := by
  have hrows (a : Nat) (h : Batch) (n : Nat) (t : State) (ht : tableSection t = none) (l : List (Nat × List Val)) :
      TableWork t (countApplied (l.foldl (applyRow a h) t) a n) :=
    (TableWork.foldl (fun _ p hp => applyRow_tableWork hp a h p) ht l).trans (tableWork_countApplied ..)
  unfold finishBatch
  dsimp only
  generalize batchRows s x.asset _ _ = r
  have hwork := (TableWork.foldl (fun t (p : Nat × List (Nat × List Val)) ht =>
    hrows p.1 (batchOf x.bytes) (batchOf x.bytes).nent t ht p.2) hnone r.1).trans (tableWork_bumpBy _ (a := Reg.TAB_CNT_OOR) (by simp) r.2.1)
  rw [arithTable_none (hwork.tableSection.trans hnone)]
  exact hwork

end

end Sys2Proof.Machine

namespace Sys2Proof.Proofs

open Sys2Proof.Machine Sys2Proof.Laws

/-! ## The write of TAB_CMD (R216) -/

theorem journal_silent {s : State} (h : journals s = false) (kind reqSeq : Nat) (body : List Byte) :
    journal s kind reqSeq body = (s, none) := by
  simp [journal, journalFor, h]

/-- A module that takes a table command at once and journals nothing. -/
structure TakesTables (s : State) : Prop where
  reached : hostReaches s Reg.TAB_CMD = true
  idle : s.assets.tabBusy = none
  unheld : isHeld s 2 = false
  unpaused : holdsCommands s = false
  silent : journals s = false
  sealedImage : isSealed s = true

/-- What reads BUSY of a command that is begun. -/
def begunCmd (op a base ver code : Nat) : BusyCmd := { code := code, slot := 0, jseq := none, op := op, args := [a, base, ver] }

/-- The command reads BUSY, with its code beside it. -/
def tabBegun (t : State) (op a base ver code : Nat) : State :=
  tabResult { t with
    assets := { t.assets with
      tabBusy := some (begunCmd op a base ver code) } } 1

section
variable {t : State} {op a base ver code : Nat}

theorem reg_tabBegun : reg (tabBegun t op a base ver code) Reg.TAB_RESULT = 1 := reg_setReg_self ..

theorem regsKept_tabBegun : RegsKept t (tabBegun t op a base ver code) [Reg.TAB_RESULT] :=
  fun _ _ hb => reg_setReg_ne _ _ (by simpa using hb)

end

section
variable {s : State} (h : TakesTables s)
include h

/-- A command is begun in the state that its effect leaves, where that state journals nothing either. -/
theorem TakesTables.begins {op code digest : Nat} {t : State} {batch : List Byte}
    (hbatch : (if op = 2 ∧ reg64 s Reg.TAB_UPD_OFFSET + reg64 s Reg.TAB_UPD_LEN ≤ bar4Size
      then stagingRead s (reg64 s Reg.TAB_UPD_OFFSET) (reg64 s Reg.TAB_UPD_LEN) else []) = batch)
    (hrun : tabRun s op (bits (reg s Reg.TAB_ASSET) 15 0) (reg s Reg.TAB_BASE_VER) (reg s Reg.TAB_NEW_VER) batch true = (t, code, digest))
    (hsilent : journals t = false) : host s Reg.TAB_CMD (fun s => tabCmd s op)
      = .next (settle (tabBegun t op (bits (reg s Reg.TAB_ASSET) 15 0) (reg s Reg.TAB_BASE_VER) (reg s Reg.TAB_NEW_VER) code)) := by
  subst hbatch
  rw [host_running _ h.reached, tabCmd]
  simp only [h.idle, h.unheld, h.unpaused, Option.isSome_none, Bool.false_eq_true, or_self, if_false, tabStart, hrun,
    journal_silent hsilent]
  rfl

variable {a : Nat} (hkind : kindOf s a = some 3) (base ver : Nat)
include hkind

theorem TakesTables.run_open {sl : Nat} (hcheck : openCheck s a base ver = 0) (hslot : freeSlotOf s a = some sl) :
    tabRun s 1 a base ver [] true = (openBuild s a base ver sl, 0, 0) := by
  simp [tabRun, h.sealedImage, hkind, hcheck, hslot]

theorem TakesTables.run_apply {batch : List Byte} {t : State} (hstart : startBatch (setReg s Reg.TAB_PROGRESS 0) a batch true = (t, 0)) :
    tabRun s 2 a base ver batch true = (t, 0, 0) := by
  simp [tabRun, h.sealedImage, hkind, hstart]

theorem TakesTables.run_close {b : Build} (hbuild : buildOf s a = some b) :
    tabRun s 3 a base ver [] true = (setReg64 s Reg.TAB_DIGEST (buildDigest s b), 0, buildDigest s b) := by
  simp [tabRun, h.sealedImage, hkind, hbuild]

theorem TakesTables.run_abort {b : Build} (hbuild : buildOf s a = some b) : tabRun s 4 a base ver [] true = (dropBuild s a, 0, 0) := by
  simp [tabRun, h.sealedImage, hkind, hbuild]

end

/-! ## OPEN, APPLY, CLOSE and ABORT (R214, R216 to R218, R220) -/

theorem buildOf_of_openCheck {s : State} {a base ver : Nat} (h : openCheck s a base ver = 0) : buildOf s a = none := by
  unfold openCheck at h
  split at h
  · cases h
  split at h
  · cases h
  split at h
  · omega
  split at h
  · cases h
  split at h
  · cases h
  · next hfree => simpa using (not_or.mp hfree).1

/-- The batch that an APPLY starts. -/
def startedBatch (s : State) (a : Nat) (batch : List Byte) : BatchRun :=
  let t := buildEmb s a
  let n := (batchOf batch).nent
  { asset := a, bytes := batch, left := n, listed := 0
    pages := reservedPages s (batchRows s a t (batchEntries t.dim n batch)).1, own := true }

section
variable {s : State} {a : Nat} {batch : List Byte} (hcheck : applyCheck s a (buildEmb s a) = 0)
  (hgood : batchGood a (buildEmb s a).dim batch = true)
  (hpages : pagesSuffice s (batchRows s a (buildEmb s a) (batchEntries (buildEmb s a).dim (batchOf batch).nent batch)).1 = true)
include hcheck hgood hpages

theorem startBatch_waits (hsect : (tableSection s).isSome = true) :
    startBatch s a batch true = (setBatches s (s.assets.batches ++ [startedBatch s a batch]), 0) := by
  simp [startBatch, hcheck, hgood, hpages, Option.isSome_iff_ne_none.mp hsect, startedBatch]

theorem startBatch_runs (hnone : tableSection s = none) : startBatch s a batch true
    = (finishBatch (setReg s Reg.TAB_PROGRESS (batchOf batch).nent) (startedBatch s a batch), 0) := by
  simp [startBatch, hcheck, hgood, hpages, hnone, startedBatch]

end

section
variable (s : State) (a : Nat)

theorem buildOf_dropBuild : buildOf (dropBuild s a) a = none :=
  (buildOf_congr (reap_builds ..) a).trans (buildOf_setBuild_none s)

/-- A build that is discarded leaves the other assets and their builds, and the current version of its own. -/
theorem dropBuild_other {x : Nat} (h : x ≠ a) : buildOf (dropBuild s a) x = buildOf s x ∧ assetSt (dropBuild s a) x = assetSt s x :=
  ⟨(buildOf_congr (reap_builds ..) x).trans (buildOf_setBuild_none_ne s h), assetSt_reap_ne _ h⟩

theorem journals_dropBuild : journals (dropBuild s a) = journals s := by
  rw [dropBuild, reap_table]
  rfl

theorem current_dropBuild : (assetSt (dropBuild s a) a).current = (assetSt s a).current := by
  obtain ⟨n, hreaped⟩ := assetSt_reap (setBuild s a none) a
  rw [dropBuild, hreaped]
  rfl

end

theorem nent_of_batchGood {a dim : Nat} {batch : List Byte} (h : batchGood a dim batch = true) : (batchOf batch).nent < 2 ^ 32 := by
  simp only [batchGood, Bool.and_eq_true, decide_eq_true_eq] at h
  omega

/-- An APPLY whose batch waits for the steps of the TABLE section. -/
theorem begun_setBatches (s : State) (l : List BatchRun) (op a base ver code : Nat) :
    let u := tabBegun (setBatches (setReg s Reg.TAB_PROGRESS 0) l) op a base ver code
    u = { s with regs := u.regs, assets := { s.assets with batches := l, tabBusy := some (begunCmd op a base ver code) } }
      ∧ reg u Reg.TAB_PROGRESS = 0 ∧ RegsKept s u [Reg.TAB_PROGRESS, Reg.TAB_RESULT] := by
  have hreset : RegsKept s (setReg s Reg.TAB_PROGRESS 0) [Reg.TAB_PROGRESS, Reg.TAB_RESULT] :=
    (RegsKept.refl s _).after_setReg (by simp) 0
  have hbatches : RegsKept (setReg s Reg.TAB_PROGRESS 0) (setBatches (setReg s Reg.TAB_PROGRESS 0) l) [] := fun _ _ _ => rfl
  refine ⟨rfl, ?_, (hreset.trans (hbatches.mono (by simp))).trans (regsKept_tabBegun.mono (by simp))⟩
  rw [regsKept_tabBegun _ (by decide) (by decide), hbatches _ (by decide) (by simp), reg_setReg_self, Nat.zero_mod]

/-- An APPLY whose batch of `n` entries has run. -/
theorem begun_tableWork {s t : State} {n : Nat} (hn : n < 2 ^ 32)
    (h : TableWork (setReg (setReg s Reg.TAB_PROGRESS 0) Reg.TAB_PROGRESS n) t) (op a base ver code : Nat) :
    let u := tabBegun t op a base ver code
    u = { s with
        regs := u.regs, evt := u.evt, lpddr := u.lpddr, poison := u.poison, twin := u.twin
        assets := { s.assets with builds := u.assets.builds, tabBusy := some (begunCmd op a base ver code) } }
      ∧ reg u Reg.TAB_PROGRESS = n := by
  refine ⟨by rw [tabBegun, h.frame]; rfl, ?_⟩
  rw [regsKept_tabBegun _ (by decide) (by decide), h.kept _ (by decide) (by decide), reg_setReg_self, Nat.mod_eq_of_lt hn]

/-- An ABORT, whose build is discarded. -/
theorem begun_dropBuild (s : State) (op a base ver code : Nat) : let u := tabBegun (dropBuild s a) op a base ver code
    u = { s with
      regs := u.regs
      assets := { s.assets with
        table := u.assets.table, builds := u.assets.builds, tabBusy := some (begunCmd op a base ver code) } } := by
  dsimp only
  rw [tabBegun, dropBuild, reap_table]
  rfl

/-! ## TAB_COMMAND_DONE (R216, R220, R447) -/

section
variable {s : State} {b : BusyCmd} (hbusy : s.assets.tabBusy = some b)
include hbusy

theorem tabDone_waits (h : acknowledged s b.jseq = false ∨ applyRuns s = true) : tabDone s = s := by
  rw [tabDone, hbusy]
  exact if_pos (by simpa using h)

variable (hacked : acknowledged s b.jseq = true) (hidle : applyRuns s = false) (hsealed : isSealed s = true)
include hacked hidle hsealed

theorem tabDone_closes {x : Build} (hop : b.op = 3) (hcode : b.code = 0) (hbuild : buildOf s (b.args.headD 0) = some x) :
    tabDone s = tabEnd (reap (closeBuild s x) x.asset) b.code := by
  simp only [tabDone, hbusy, hacked, hidle, hsealed, hop, hcode, hbuild, Bool.not_true, Bool.false_eq_true, or_self, if_false]

theorem tabDone_ends (h : b.op = 3 → b.code = 0 → buildOf s (b.args.headD 0) = none) : tabDone s = tabEnd s b.code := by
  simp only [tabDone, hbusy, hacked, hidle, hsealed, Bool.not_true, Bool.false_eq_true, or_self, if_false]
  split
  · next x hop hcode hbuild => rw [h hop hcode] at hbuild; cases hbuild
  · rfl

end

theorem exec_tabCommandDone {s : State} (h : applyCut s = false) : exec .tabCommandDone s = .next (settle (tabDone s)) := by
  show execTabCommandDone s = _
  simp [execTabCommandDone, h, done]

/-- Nothing reads BUSY any more, and TAB_RESULT holds the command's code. -/
def tabAnswered (s : State) (code : Nat) : State := tabResult { s with assets := { s.assets with tabBusy := none } } code

theorem tabEnd_eq (s : State) (code : Nat) : tabEnd s code = if code = 0 then setBits (tabAnswered s code) Reg.TAB_INT_STATUS 1
    else setBits (bump (tabAnswered s code) Reg.TAB_CNT_REFUSED) Reg.TAB_INT_STATUS (if code = 0x0A then 6 else 2) := rfl

/-- `u` is `s` after a table command ended with a code: nothing reads BUSY, and the result and its interrupt stand. -/
structure TabEnded (code : Nat) (s u : State) : Prop where
  frame : u = { s with regs := u.regs, evt := u.evt, assets := { s.assets with tabBusy := none } }
  result : reg u Reg.TAB_RESULT = code
  done : code = 0 → regBit u Reg.TAB_INT_STATUS 0 = true
  refused : code ≠ 0 → regBit u Reg.TAB_INT_STATUS 1 = true
    ∧ reg u Reg.TAB_CNT_REFUSED = min (reg s Reg.TAB_CNT_REFUSED + 1) 0xFFFFFFFF

theorem tabEnd_ended (s : State) {code : Nat} (hcode : code < 256) : TabEnded code s (tabEnd s code) := by
  have hresult : reg (tabAnswered s code) Reg.TAB_RESULT = code := (reg_setReg_self ..).trans (Nat.mod_eq_of_lt (by omega))
  have hcount : reg (tabAnswered s code) Reg.TAB_CNT_REFUSED = reg s Reg.TAB_CNT_REFUSED := reg_setReg_ne _ _ (by decide)
  rw [tabEnd_eq]
  split
  · next hzero => exact {
      frame := rfl
      result := by rw [reg_setBits, if_neg (by decide), hresult]
      done := fun _ => regBit_setBits _ _ (by decide) (by decide)
      refused := fun hne => absurd hzero hne }
  · next hne => exact {
      frame := by
        obtain ⟨r, e, hframe⟩ := countRaise_frame (tabAnswered s code) Reg.TAB_CNT_REFUSED Reg.TAB_INT_STATUS
          (if code = 0x0A then 6 else 2)
        rw [hframe]
        rfl
      result := (regsKept_countRaise (tabAnswered s code) _ _ _ _ (by decide) (by decide)).trans hresult
      done := fun hzero => absurd hzero hne
      refused := fun _ => ⟨regBit_setBits _ _ (by decide) (by split <;> decide), by
        rw [reg_countRaise_counter _ _ _ _ (by decide) (by decide), hcount]⟩ }

/-- At its end a closed build is a version of its asset, and what R58 then frees is freed. -/
theorem closed_version (s : State) (x : Build) : let t := reap (closeBuild s x) x.asset
    buildOf t x.asset = none ∧ (assetSt t x.asset).current = (assetSt s x.asset).current
      ∧ ∃ v, v ∈ (assetSt t x.asset).versions ∧ v.ver = x.ver ∧ v.slot = x.slot ∧ v.verified = true
        ∧ (assetSt t x.asset).versions
            = ((assetSt s x.asset).versions ++ [v]).filter fun y => !freeable (closeBuild s x) x.asset y := by
  obtain ⟨v, hasset, hver, hslot, hverified, hkept⟩ := closeBuild_version s x
  obtain ⟨n, hreaped⟩ := assetSt_reap (closeBuild s x) x.asset
  rw [hasset] at hreaped
  have hfree : buildOf (reap (closeBuild s x) x.asset) x.asset = none :=
    (buildOf_congr (reap_builds ..) _).trans (buildOf_closeBuild s x)
  dsimp only
  rw [hreaped]
  exact ⟨hfree, rfl, v, List.mem_filter.mpr ⟨by simp, by simp [hkept]⟩, hver, hslot, hverified, rfl⟩

/-- Settles O37: each command by the state that it begins in, and its completion by whether a build closes. -/
theorem tableBuildsRun : Obligations.TableBuildsRun := by
  unfold Obligations.TableBuildsRun
  refine ⟨fun s hreached hidle hunheld hopen hsilent hsealed => ?_, fun s b hbusy hcut hwaits => ?_,
    fun s b hruns hbusy hacked hsealed hcode => ?_⟩
  · have htakes : TakesTables s := ⟨hreached, hidle, hunheld, hopen, hsilent, hsealed⟩
    intro a base ver o n busy hkind
    refine ⟨fun sl hcheck hslot => ?_, fun batch hbatch hcheck hgood hpages => ⟨fun hsect => ?_, fun hnone => ?_⟩,
      fun b hbuild => ⟨?_, ?_⟩⟩
    · have hrun := htakes.run_open hkind base ver hcheck hslot
      rw [openBuild, setBuild_first (buildOf_of_openCheck hcheck)] at hrun
      exact ⟨_, _, htakes.begins (by simp) hrun hsilent, rfl, rfl, rfl, rfl, rfl, rfl, rfl, rfl, reg_tabBegun, regsKept_tabBegun⟩
    · have hrun := htakes.run_apply hkind base ver (startBatch_waits hcheck hgood hpages hsect)
      obtain ⟨hframe, hprogress, hkept⟩ := begun_setBatches s _ 2 a base ver 0
      exact ⟨_, _, htakes.begins (by simpa using hbatch.symm) hrun hsilent, hframe, rfl, rfl, rfl, rfl, rfl, rfl, hprogress, hkept⟩
    · have hrun := htakes.run_apply hkind base ver (startBatch_runs hcheck hgood hpages hnone)
      have hwork := finishBatch_tableWork (s := setReg (setReg s Reg.TAB_PROGRESS 0) Reg.TAB_PROGRESS (batchOf batch).nent) hnone
        (startedBatch (setReg s Reg.TAB_PROGRESS 0) a batch)
      obtain ⟨hframe, hprogress⟩ := begun_tableWork (nent_of_batchGood hgood) hwork 2 a base ver 0
      exact ⟨_, htakes.begins (by simpa using hbatch.symm) hrun (hwork.journals.trans hsilent), hframe, hprogress⟩
    · refine ⟨_, htakes.begins (by simp) (htakes.run_close hkind base ver hbuild) hsilent, rfl, ?_, ?_⟩
      · rw [reg64_of_regsKept regsKept_tabBegun (by decide) (by decide), reg64_setReg64_mod]
      · exact ((regsKept_setReg64 s _ _).mono (by simp)).trans (regsKept_tabBegun.mono (by simp))
    · exact ⟨_, htakes.begins (by simp) (htakes.run_abort hkind base ver hbuild) (journals_dropBuild s a ▸ hsilent), begun_dropBuild s ..,
        buildOf_dropBuild s a, fun x hx => dropBuild_other s a hx, current_dropBuild s a⟩
  · rw [exec_tabCommandDone hcut, tabDone_waits hbusy hwaits]
  · refine ⟨_, exec_tabCommandDone (by simp [applyCut, hruns]), ?_⟩
    by_cases hclose : ∃ x, b.op = 3 ∧ b.code = 0 ∧ buildOf s (b.args.headD 0) = some x
    · obtain ⟨x, hop, hzero, hbuild⟩ := hclose
      have hended := tabEnd_ended (reap (closeBuild s x) x.asset) hcode
      rw [tabDone_closes hbusy hacked hruns hsealed hop hzero hbuild]
      refine ⟨by rw [hended.frame], hended.result, hended.done, fun hne => absurd hzero hne, fun _ _ y hy => ?_,
        fun hother => absurd hother (by simp [hop, hzero])⟩
      rw [hended.frame, Option.some.inj (hy.symm.trans hbuild)]
      exact closed_version s x
    · have hended := tabEnd_ended s hcode
      have hnone (hop : b.op = 3) (hzero : b.code = 0) : buildOf s (b.args.headD 0) = none :=
        Option.eq_none_iff_forall_ne_some.mpr fun x hbuild => hclose ⟨x, hop, hzero, hbuild⟩
      rw [tabDone_ends hbusy hacked hruns hsealed hnone]
      exact ⟨by rw [hended.frame], hended.result, hended.done, hended.refused,
        fun hop hzero x hbuild => absurd ⟨x, hop, hzero, hbuild⟩ hclose, fun _ => hended.frame⟩

end Sys2Proof.Proofs
end

section
/-!
SUPPORT. The invariant of interrupt levels settled: whatever command stands at the front of the queue, a step that goes on ends with
its levels announced (R459).
-/
namespace Sys2Proof.Laws

open Sys2Proof.Machine

/-! ## Outcomes whose next state is settled (R459) -/

/-- Where the outcome is a next state, its interrupt levels are settled. -/
def Settles (o : Out) : Prop := ∀ t, o = .next t → Settled t

theorem settles_done (s : State) : Settles (done s) := fun t h => by
  rw [done_next h]
  exact settle_levels s

theorem settles_doneHost (s : State) : Settles (doneHost s) := settles_done _

theorem settles_finish (o : Out) : Settles (finish o) := fun t h => by
  obtain ⟨u, _, rfl⟩ := finish_cases h
  exact settle_levels u

theorem settles_fault (f : Fault) : Settles (.fault f) := fun _ h => nomatch h

theorem settles_refused (r : Refusal) : Settles (.refused r) := fun _ h => nomatch h

theorem settles_ite {p : Prop} [Decidable p] {a b : Out} (ha : Settles a) (hb : Settles b) : Settles (if p then a else b) := by
  split
  · exact ha
  · exact hb

theorem settles_linked (s : State) {o : Out} (h : Settles o) : Settles (linked s o) := settles_ite h (settles_done _)

/-! ## The commands whose meaning branches before it ends -/

theorem settles_registerWrite (b : Bar) (f off : Nat) (data : List Byte) (s : State) : Settles (execRegisterWrite b f off data s) := by
  refine settles_linked s ?_
  cases b with
  | bar0 => exact settles_ite (settles_refused _) (settles_doneHost _)
  | bar2 => exact settles_doneHost _
  | bar4 => exact settles_done _

theorem settles_badSizeAccess (f off size : Nat) (write : Bool) (s : State) : Settles (execBadSizeAccess f off size write s) :=
  settles_linked s (settles_ite (settles_done _) (settles_done _))

theorem settles_unmappedAccess (a : Aperture) (off size : Nat) (write : Bool) (s : State) :
    Settles (execUnmappedAccess a off size write s) := by
  refine settles_linked s ?_
  split
  · exact settles_done _
  · exact settles_done _
  · split
    · exact settles_done _
    · exact settles_ite (settles_done _) (settles_doneHost _)

theorem settles_tokenise (k : Nat) (s : State) : Settles (execTokenise k s) := by
  unfold execTokenise
  split
  · exact settles_done _
  · exact settles_ite (settles_done _) (settles_done _)

theorem settles_tfetch (c : Nat) (s : State) : Settles (execTfetch c s) := by
  unfold execTfetch
  split
  · exact settles_done _
  · split
    · exact settles_done _
    · exact settles_ite (settles_fault _) (settles_ite (settles_fault _) (settles_done _))

theorem settles_unitReset (named : Option (Nat × Nat)) (s : State) : Settles (execUnitReset named s) := by
  cases named with
  | none => exact settles_ite (settles_done _) (settles_done _)
  | some u => exact settles_done _

theorem settles_mbLockRead (c n : Nat) (s : State) : Settles (execMbLockRead c n s) :=
  settles_ite (settles_done _) (settles_ite (settles_done _) (settles_done _))

/-- R459: a command that takes effect ends with its levels announced. -/
theorem settles_exec (c : Instr) (s : State) : Settles (exec c s) := by
  cases c
  case registerWrite => exact settles_registerWrite _ _ _ _ s
  case registerReadClear | lowHalfRead => exact settles_linked s (settles_doneHost _)
  case badSizeAccess => exact settles_badSizeAccess _ _ _ _ s
  case unmappedAccess => exact settles_unmappedAccess _ _ _ _ s
  case tokenise => exact settles_tokenise _ s
  case tfetch => exact settles_tfetch _ s
  case unitReset => exact settles_unitReset _ s
  case mbLockRead => exact settles_mbLockRead _ _ s
  case maskBuild | sampleToken => exact settles_ite (settles_done _) (settles_done _)
  case submitQuery | submitNop | submitCancel => exact settles_ite (settles_done _) (settles_doneHost _)
  case stepBoundary | replayComplete | hostLinkUp => exact settles_doneHost _
  case cqHeadDoorbell | qEnable | qResync | qReplayFrom => exact settles_ite (settles_doneHost _) (settles_done _)
  case opNop | loop | stepEnd | yield | mma | wload | prepass | epiBind | prologue | vpass | recmerge | smxmerge | get | put | xfer
      | pfWait | dmaWait | arriveWait | prefetchEntry | selTopk | selMerge | tgather => exact settles_finish _
  case undefinedCommand | forceHoldover | reload | bondLoad | bondAbort | bondSeal | bondUnload | stgBegin | stgData | stgEnd | stgAbort
      | swCommit | swCancel | tabOpen | tabApply | tabClose | tabAbort | tsInit | tsWrite | ptPin | ptUnpin | serveCancel
      | serveWinSnapshot | admitOpen | sqDoorbell | qResume | qBind | mbLockRelease | mbDoorbell | restart | peerEnable | podReset
      | podEnable | polCtrl | tcShapeWrite | handover | rejoin | evtFreeze | evtClear | evtSel => exact settles_ite (settles_done _) (settles_done _)
  all_goals exact settles_done _

end Sys2Proof.Laws

namespace Sys2Proof.Proofs

open Sys2Proof Sys2Proof.Machine Sys2Proof.Laws

/-- Settles O2: every next state of a step comes of `done`, which announces the levels. -/
theorem stepKeepsLevelsSettled : Obligations.StepKeepsLevelsSettled := fun s t _ hstep => by
  cases hpending : s.pending with
  | nil => exact settles_done _ t (step_of_nil hpending ▸ hstep)
  | cons c rest => exact settles_exec c _ t (step_of_cons hpending ▸ hstep)

end Sys2Proof.Proofs
end

section
/-!
SUPPORT. The statements of spec/22_monitoring.md on interrupt levels, the error log and the 72/64 code, and the state at reset,
settled.
-/
namespace Sys2Proof.Laws

open Sys2Proof.Machine

/-! ## Which levels are up (R459) -/

theorem thirtyTwo_le_of_mem_ringLevels {s : State} {k : Nat} (h : k ∈ ringLevels s) : 32 ≤ k := by
  obtain ⟨p, -, hp⟩ := List.mem_filterMap.mp h
  dsimp only at hp
  split at hp
  · split at hp
    · cases hp
    · cases hp
      omega
  · split at hp
    · split at hp
      · cases hp
      · cases hp
        omega
    · cases hp

theorem mem_levelsUp_summary {s : State} {k : Nat} (h : k < 32) : k ∈ levelsUp s ↔ k ∈ summary s := by
  have hring : k ∉ ringLevels s := fun hmem => absurd (thirtyTwo_le_of_mem_ringLevels hmem) (by omega)
  simp [levelsUp, hring]

/-- R459: bit k of the summary is the OR of its block's INT_STATUS and INT_ENABLE. -/
theorem mem_levelsUp_block {s : State} {k : Nat} (h : k < 20) :
    k ∈ levelsUp s ↔ ∃ st en, intBlocks[k]? = some (st, en) ∧ Nat.land (reg s st) (reg s en) ≠ 0 := by
  have hne : k ≠ 20 := by omega
  have harith : k ∉ (if arithSummary s = 0 then [] else [20] : List Nat) := by split <;> simp [hne]
  rw [mem_levelsUp_summary (by omega), summary, List.mem_append, or_iff_left harith, List.mem_filter]
  cases hblock : intBlocks[k]? with
  | none => simp
  | some p => simp [h, Prod.ext_iff]

/-- R459: bit 20 follows ARITH_SUMMARY. -/
theorem mem_levelsUp_arith (s : State) : 20 ∈ levelsUp s ↔ arithSummary s ≠ 0 := by
  rw [mem_levelsUp_summary (by omega), summary, List.mem_append]
  by_cases h : arithSummary s = 0 <;> simp [h]

/-! ## What a rise sends (R386, R459) -/

/-- What settling adds to what has left the block. -/
def announced (s : State) : List Emission := ((levelsUp s).filter fun k => !(s.err.levels.contains k)).flatMap (riseMsgs s)

theorem mem_announced {s : State} {e : Emission} :
    e ∈ announced s ↔ ∃ k, (k ∈ levelsUp s ∧ k ∉ s.err.levels) ∧ e ∈ riseMsgs s k := by
  simp [announced, List.mem_flatMap, List.mem_filter]

theorem mem_settle_emitted {s : State} {k : Nat} {e : Emission} (hup : k ∈ levelsUp s) (hnew : k ∉ s.err.levels) (he : e ∈ riseMsgs s k) :
    e ∈ (settle s).emitted :=
  List.mem_append_right _ (mem_announced.mpr ⟨k, ⟨hup, hnew⟩, he⟩)

section
variable {s : State} {k : Nat}

theorem riseMsgs_summary (h : k < 32) : riseMsgs s k = (if s.twin.silent then [] else [.msix 0 (bits (reg s (Reg.ERR_INT_ROUTE k)) 4 0)])
    ++ (if bit (reg s (Reg.ERR_INT_ROUTE k)) 7 then [.i3c k] else []) := by
  simp [riseMsgs, h]

theorem riseMsgs_pair (h : k < 256) :
    riseMsgs s (32 + k) = if s.twin.silent then [] else [.msix (qFn s k) (bits (reg s (Reg.Q_VECTOR k)) 4 0)] := by
  have h32 : ¬ 32 + k < 32 := by omega
  have h512 : 32 + k < 512 := by omega
  simp [riseMsgs, h512, qFn]

theorem riseMsgs_channel : riseMsgs s (512 + k) = if s.twin.silent then [] else [.msix (channelFn s k) (bits (reg s (Reg.MB_VECTOR k)) 4 0)] := by
  have h32 : ¬ 512 + k < 32 := by omega
  simp [riseMsgs, h32]

/-- R386: all that a silent module sends at a rise is an in-band interrupt. -/
theorem riseMsgs_silent (h : s.twin.silent = true) {e : Emission} (he : e ∈ riseMsgs s k) : e = .i3c k := by
  unfold riseMsgs at he
  simp only [h, if_true, List.nil_append] at he
  split at he
  · split at he
    · simpa using he
    · cases he
  · split at he <;> cases he

end

/-- A bit that is set stays set when others are. -/
theorem regBit_setBits_of_regBit {s : State} {a n : Nat} (m : Nat) (hn : n < 32) (h : regBit s a n = true) :
    regBit (setBits s a m) a n = true := by
  unfold regBit at h ⊢
  rw [bit_eq_testBit] at h ⊢
  rw [reg_setBits, if_pos rfl, Nat.testBit_mod_two_pow]
  simp [hn, Nat.lor, h]

/-! ## The error log (R457) -/

section
variable {s t : State}

@[simp] theorem bump_err (s : State) (a : Nat) : (bump s a).err = s.err := by
  obtain ⟨r, e, h⟩ := bump_frame s a
  rw [h]

theorem measureNo_congr (htime : t.time = s.time) (hbond : t.bond = s.bond) (hregs : reg t Reg.BEAT_MEASURE_OBS = reg s Reg.BEAT_MEASURE_OBS) :
    measureNo t = measureNo s := by
  simp [measureNo, measureN, htime, hbond, hregs]

theorem measureNo_logCount (s : State) (x : LogItem) : measureNo (logCount s x) = measureNo s := by
  obtain ⟨r, e, l, h⟩ := logCount_frame s x
  exact measureNo_congr (by rw [h]) (by rw [h]) (regsKept_logCount s x _ (by decide) (by decide))

theorem logCount_err (s : State) (x : LogItem) : (logCount s x).err = s.err := by
  unfold logCount
  split
  · exact bump_err ..
  · rfl

theorem repeated_logCount (s : State) (x y : LogItem) : repeated (logCount s x) y = repeated s y := by
  simp [repeated, logCount_err, measureNo_logCount]

theorem entry_logCount (s : State) (x y : LogItem) : y.entry (logCount s x) = y.entry s := by
  obtain ⟨r, e, l, h⟩ := logCount_frame s x
  rw [h]
  rfl

theorem reg_logCount {x : LogItem} (h : x.cls = 2) : reg (logCount s x) Reg.ERR_CNT_PROTOCOL = min (reg s Reg.ERR_CNT_PROTOCOL + 1) 0xFFFFFFFF := by
  rw [logCount, if_pos h, reg_bump _ _ _ (by decide), if_pos rfl]

theorem reg_logCount_ne {a : Nat} (x : LogItem) (hevt : evtWord a = false) (ha : a ≠ Reg.ERR_CNT_PROTOCOL) :
    reg (logCount s x) a = reg s a := by
  unfold logCount
  split
  · rw [reg_bump _ _ _ hevt, if_neg ha]
  · rfl

/-- The register words that a new entry moves on (R457). -/
def newEntryWords : List Nat := [Reg.ERR_LOG_HEAD, Reg.ERR_LOG_COUNT, Reg.ERR_CNT_OVERWRITTEN, Reg.ERR_INT_STATUS]

theorem regsKept_logNew_words (s : State) (x : LogItem) : RegsKept s (logNew s x) newEntryWords := by
  have entered (e : ErrSt) : RegsKept s { s with err := e } newEntryWords := fun _ _ _ => rfl
  unfold logNew
  dsimp only
  split
  · refine .after_setBits (.after_setReg (.after_setReg (entered _) ?_ _) ?_ _) ?_ _ <;> simp [newEntryWords]
  · refine .after_setBits (.after_bump (.after_setBits (.after_setReg (.after_setReg (entered _) ?_ _) ?_ _) ?_ _) ?_) ?_ _
      <;> simp [newEntryWords]

theorem logNew_err (s : State) (x : LogItem) : (logNew s x).err = { s.err with
    ring := tset (fun _ => none) s.err.ring (reg s Reg.ERR_LOG_HEAD) (some (x.entry s))
    newest := some (reg s Reg.ERR_LOG_HEAD, measureNo s) } := by
  unfold logNew
  dsimp only
  split
  · rfl
  · rw [setBits_err, bump_err]
    rfl

end

/-- R457: a new entry moves the head on and raises LOGGED; it counts as overwriting where its slot held one. -/
theorem reg_logNew (s : State) (x : LogItem) : let u := logNew s x
    reg u Reg.ERR_LOG_HEAD = (reg s Reg.ERR_LOG_HEAD + 1) % 512 ∧ regBit u Reg.ERR_INT_STATUS 0 = true
      ∧ reg u Reg.ERR_CNT_OVERWRITTEN = (if tget (fun _ => none) s.err.ring (reg s Reg.ERR_LOG_HEAD) = none
          then reg s Reg.ERR_CNT_OVERWRITTEN else min (reg s Reg.ERR_CNT_OVERWRITTEN + 1) 0xFFFFFFFF) := by
  have hmod : (reg s Reg.ERR_LOG_HEAD + 1) % 512 % 2 ^ 32 = (reg s Reg.ERR_LOG_HEAD + 1) % 512 := by omega
  dsimp only [logNew]
  split
  · refine ⟨?_, regBit_setBits _ _ (by decide) (by decide), ?_⟩
    · rw [reg_setBits, if_neg (by decide), reg_setReg_ne _ _ (by decide), reg_setReg_self, hmod]
    · rw [reg_setBits, if_neg (by decide), reg_setReg_ne _ _ (by decide), reg_setReg_ne _ _ (by decide)]
      rfl
  · refine ⟨?_, regBit_setBits_of_regBit _ (by decide) ?_, ?_⟩
    · rw [reg_setBits, if_neg (by decide), reg_bump _ _ _ (by decide), if_neg (by decide), reg_setBits, if_neg (by decide),
        reg_setReg_ne _ _ (by decide), reg_setReg_self, hmod]
    · rw [regBit, reg_bump _ _ _ (by decide), if_neg (by decide)]
      exact regBit_setBits _ _ (by decide) (by decide)
    · rw [reg_setBits, if_neg (by decide), reg_bump _ _ _ (by decide), if_pos rfl, reg_setBits, if_neg (by decide),
        reg_setReg_ne _ _ (by decide), reg_setReg_ne _ _ (by decide)]
      rfl

/-- R457: a repeated event adds to the newest entry. -/
theorem logErr_repeats {s : State} {x : LogItem} {slot : Nat} {e : ErrEntry} (hnewest : s.err.newest = some (slot, measureNo s))
    (hslot : tget (fun _ => none) s.err.ring slot = some e)
    (hsame : x.code = e.code ∧ x.die = e.die ∧ x.unit = e.unit ∧ x.addr = e.addr) :
    logErr s x = logRepeat (logCount s x) slot e := by
  have hrep : repeated s x = some (slot, e) := by
    obtain ⟨hcode, hdie, hunit, haddr⟩ := hsame
    simp [repeated, hnewest, hslot, LogItem.repeats, hcode, hdie, hunit, haddr]
  rw [logErr, repeated_logCount, hrep]

/-- R457: any other event takes the next slot. -/
theorem logErr_new {s : State} {x : LogItem} (h : repeated s x = none) : logErr s x = logNew (logCount s x) x := by
  rw [logErr, repeated_logCount, h]

theorem reg_cntProtocol_logErr (s : State) {x : LogItem} (h : x.cls = 2) :
    reg (logErr s x) Reg.ERR_CNT_PROTOCOL = min (reg s Reg.ERR_CNT_PROTOCOL + 1) 0xFFFFFFFF := by
  rw [← reg_logCount h]
  unfold logErr
  split
  · rfl
  · exact regsKept_logNew_words _ x _ (by decide) (by decide)

theorem logErr_log (s : State) (x : LogItem) :
    (logErr s x).err = { s.err with ring := (logErr s x).err.ring, newest := (logErr s x).err.newest } := by
  unfold logErr
  split
  · rw [logRepeat, logCount_err]
  · rw [logNew_err, logCount_err]

end Sys2Proof.Laws

namespace Sys2Proof.Proofs

open Sys2Proof Sys2Proof.Machine Sys2Proof.Laws

/-- Settles O5: each level by the messages of its rise. -/
theorem risenLevelsAreAnnounced : Obligations.RisenLevelsAreAnnounced := fun s => by
  refine ⟨rfl, fun k hk => mem_levelsUp_block hk, mem_levelsUp_arith s, fun k hk hup hnew hloud => ?_, fun q hq hup hnew hloud => ?_,
    fun c _ hup hnew hloud => ?_, announced s, rfl, fun e he => ?_, fun hsilent e he => ?_⟩
  · have hmsgs := riseMsgs_summary (s := s) (show k < 32 by omega)
    exact ⟨mem_settle_emitted hup hnew (by simp [hmsgs, hloud]), fun hroute => mem_settle_emitted hup hnew (by simp [hmsgs, hroute])⟩
  · exact mem_settle_emitted hup hnew (by simp [riseMsgs_pair hq, hloud])
  · exact mem_settle_emitted hup hnew (by simp [riseMsgs_channel, hloud])
  · obtain ⟨k, ⟨hup, hnew⟩, hmsg⟩ := mem_announced.mp he
    exact ⟨k, hup, hnew, hmsg⟩
  · obtain ⟨k, -, hmsg⟩ := mem_announced.mp he
    exact ⟨k, riseMsgs_silent hsilent hmsg⟩

/-- Settles O6: the count, then the newest entry where the event repeats it, else the next slot. -/
theorem logEntryGoesToTheRing : Obligations.LogEntryGoesToTheRing := fun s x _ => by
  refine ⟨?_, regsKept_logErr s x, reg_cntProtocol_logErr s, fun slot e hnewest hslot hsame => ?_, fun hnew => ?_⟩
  · conv_lhs => rw [logOnly_eq (logErr_frame s x), logErr_log]
  · rw [logErr_repeats hnewest hslot hsame]
    simp only [logRepeat, logCount_err]
    exact ⟨tget_tset_self .., fun k hk => tget_tset_ne _ _ _ hk, reg_logCount_ne x (by decide) (by decide), trivial⟩
  · have hcounted : reg (logCount s x) Reg.ERR_LOG_HEAD = reg s Reg.ERR_LOG_HEAD := reg_logCount_ne x (by decide) (by decide)
    have hover : reg (logCount s x) Reg.ERR_CNT_OVERWRITTEN = reg s Reg.ERR_CNT_OVERWRITTEN := reg_logCount_ne x (by decide) (by decide)
    obtain ⟨hmoved, hlogged, hcount⟩ := reg_logNew (logCount s x) x
    rw [logErr_new hnew, logNew_err]
    simp only [logCount_err, hcounted, measureNo_logCount, entry_logCount, hover] at hmoved hcount ⊢
    exact ⟨tget_tset_self .., fun k hk => tget_tset_ne _ _ _ hk, hmoved, trivial, hlogged, hcount⟩

end Sys2Proof.Proofs
end

section
/-!
SUPPORT. The statement of spec/22_monitoring.md on the 72/64 code settled. A stored word is its data bits and its check bits, which share
no place; the syndrome is linear over stored words, and every column of the table has odd weight.
-/
namespace Sys2Proof.Laws

open Sys2Proof.Machine

/-! ## Words built bit by bit -/

/-- Adding a power of two whose bit is clear sets that bit and no other. -/
theorem testBit_add_two_pow {x n : Nat} (h : x.testBit n = false) (k : Nat) :
    (x + 2 ^ n).testBit k = (x.testBit k || decide (n = k)) := by
  rcases Nat.lt_trichotomy k n with hk | rfl | hk
  · rw [Nat.add_comm, Nat.testBit_two_pow_add_gt hk]
    simp [hk.ne']
  · rw [Nat.add_comm, Nat.testBit_two_pow_add_eq, h]
    simp
  · have heven : x / 2 ^ n % 2 = 0 := by simpa [Nat.testBit_eq_decide_div_mod_eq] using h
    have hdiv : (x + 2 ^ n) / 2 ^ (n + 1) = x / 2 ^ (n + 1) := by
      rw [Nat.pow_succ, ← Nat.div_div_eq_div_mul, ← Nat.div_div_eq_div_mul, Nat.add_div_right _ (Nat.two_pow_pos n)]
      omega
    obtain ⟨m, rfl⟩ := Nat.exists_eq_add_of_lt hk
    rw [show n + m + 1 = m + (n + 1) by omega, Nat.testBit_add, hdiv, ← Nat.testBit_add]
    simp
    omega

/-- A word built by adding a power of two for each set bit of a list, no place twice, has those bits. -/
theorem testBit_foldl_add {b : Nat → Bool} {f : Nat → Nat} {l : List Nat} (hf : (l.map f).Nodup) (x : Nat)
    (hx : ∀ i ∈ l, x.testBit (f i) = false) (j : Nat) :
    (l.foldl (fun x i => if b i then x + 2 ^ f i else x) x).testBit j = (x.testBit j || decide (∃ i ∈ l, b i = true ∧ f i = j)) := by
  induction l generalizing x with
  | nil => simp
  | cons i l ih =>
    rw [List.map_cons, List.nodup_cons] at hf
    have hadd := testBit_add_two_pow (hx i List.mem_cons_self)
    rw [List.foldl_cons]
    split
    · next hb =>
      rw [ih hf.2, hadd]
      · simp [hb, Bool.or_assoc]
      · intro k hk
        have hne : f i ≠ f k := fun h => hf.1 (h ▸ List.mem_map_of_mem hk)
        rw [hadd]
        simp [hne, hx k (List.mem_cons_of_mem _ hk)]
    · next hb =>
      rw [ih hf.2 _ fun k hk => hx k (List.mem_cons_of_mem _ hk)]
      simp [hb]

/-! ## The syndrome (R451) -/

/-- The syndrome is linear: it sums the columns of the bits that are set. -/
theorem eccSyndrome_xor (x y : Nat) : eccSyndrome (x ^^^ y) = eccSyndrome x ^^^ eccSyndrome y := by
  have hfold (l : List Nat) (a b : Nat) :
      l.foldl (fun z i => if bit (x ^^^ y) i then Nat.xor z (eccColumns.getD i 0) else z) (a ^^^ b)
        = l.foldl (fun z i => if bit x i then Nat.xor z (eccColumns.getD i 0) else z) a
          ^^^ l.foldl (fun z i => if bit y i then Nat.xor z (eccColumns.getD i 0) else z) b := by
    induction l generalizing a b with
    | nil => rfl
    | cons i l ih =>
      simp only [List.foldl_cons, ← ih]
      congr 1
      simp only [bit_eq_testBit, Nat.testBit_xor]
      cases x.testBit i <;> cases y.testBit i <;> simp [Nat.xor_assoc, Nat.xor_comm, Nat.xor_left_comm]
  exact hfold (List.range 72) 0 0

theorem eccSyndrome_two_pow : ∀ i < 72, eccSyndrome (2 ^ i) = eccColumns.getD i 0 := by decide +kernel

theorem eccSyndrome_lt (x : Nat) : eccSyndrome x < 256 := by
  have hcolumn (i : Nat) : eccColumns.getD i 0 < 2 ^ 8 := by
    by_cases h : i < 72
    · exact (show ∀ i < 72, eccColumns.getD i 0 < 2 ^ 8 by decide) i h
    · rw [List.getD_eq_default _ _ (by simpa [eccColumns] using h)]
      decide
  refine List.foldlRecOn (motive := fun z => z < 2 ^ 8) _ _ (Nat.two_pow_pos 8) fun z hz i _ => ?_
  split
  · exact Nat.xor_lt_two_pow hz (hcolumn i)
  · exact hz

/-! ## A stored word (R450, R451) -/

/-- The check bits of a check byte at their stored places. -/
def eccChecks (c : Nat) : Nat := (List.range 8).foldl (fun y i => if bit c i then y + 2 ^ eccCheckPlace i else y) 0

theorem testBit_eccSpread (d j : Nat) : (eccSpread d).testBit j = decide (∃ i ∈ List.range 64, bit d i = true ∧ eccPlace i = j) := by
  rw [eccSpread, testBit_foldl_add (by decide) 0 (by simp)]
  simp

theorem testBit_eccChecks (c j : Nat) : (eccChecks c).testBit j = decide (∃ i ∈ List.range 8, bit c i = true ∧ eccCheckPlace i = j) := by
  rw [eccChecks, testBit_foldl_add (by decide) 0 (by simp)]
  simp

theorem eccPlace_ne_eccCheckPlace : ∀ i < 64, ∀ j < 8, eccPlace i ≠ eccCheckPlace j := by decide

theorem testBit_eccSpread_checkPlace (d : Nat) {i : Nat} (hi : i < 8) : (eccSpread d).testBit (eccCheckPlace i) = false := by
  rw [testBit_eccSpread, decide_eq_false_iff_not]
  rintro ⟨k, hk, -, hplace⟩
  exact eccPlace_ne_eccCheckPlace k (List.mem_range.mp hk) i hi hplace

/-- No data bit shares a place with a check bit, so the stored word is their sum over single bits. -/
theorem eccStore_eq (d : Nat) : eccStore d = eccSpread d ^^^ eccChecks (eccSyndrome (eccSpread d)) := by
  refine Nat.eq_of_testBit_eq fun j => ?_
  rw [Nat.testBit_xor, testBit_eccChecks]
  dsimp only [eccStore]
  rw [testBit_foldl_add (by decide) _ fun i hi => testBit_eccSpread_checkPlace d (List.mem_range.mp hi)]
  by_cases hcheck : ∃ i ∈ List.range 8, bit (eccSyndrome (eccSpread d)) i = true ∧ eccCheckPlace i = j
  · obtain ⟨i, hi, -, rfl⟩ := hcheck
    rw [testBit_eccSpread_checkPlace d (List.mem_range.mp hi)]
    simp
  · rw [decide_eq_false hcheck]
    simp

/-- The columns of the check bits are the single bits of the check byte. -/
theorem eccSyndrome_eccChecks : ∀ c < 256, eccSyndrome (eccChecks c) = c := by decide +kernel

theorem eccSyndrome_eccStore (d : Nat) : eccSyndrome (eccStore d) = 0 := by
  rw [eccStore_eq, eccSyndrome_xor, eccSyndrome_eccChecks _ (eccSyndrome_lt _), Nat.xor_self]

theorem eccStore_lt (d : Nat) : eccStore d < 2 ^ 72 := by
  refine Nat.lt_pow_two_of_testBit _ fun j hj => ?_
  have hplace : ∀ i < 64, eccPlace i < 72 := by decide
  have hcheck : ∀ i < 8, eccCheckPlace i < 72 := by decide
  rw [eccStore_eq, Nat.testBit_xor, testBit_eccSpread, testBit_eccChecks, decide_eq_false, decide_eq_false]
  · rfl
  · rintro ⟨i, hi, -, rfl⟩
    exact absurd (hcheck i (List.mem_range.mp hi)) (by omega)
  · rintro ⟨i, hi, -, rfl⟩
    exact absurd (hplace i (List.mem_range.mp hi)) (by omega)

theorem testBit_eccData (x j : Nat) : (eccData x).testBit j = (decide (j < 64) && x.testBit (eccPlace j)) := by
  have hbits := testBit_foldl_add (b := fun i => bit x (eccPlace i)) (f := fun i => i) (l := List.range 64) (by decide) 0 (by simp) j
  rw [eccData, hbits]
  by_cases hj : j < 64 <;> simp [bit_eq_testBit, hj]

theorem eccPlace_inj : ∀ i < 64, ∀ j < 64, eccPlace i = eccPlace j → i = j := by decide +kernel

/-- R450: the data bits of a stored word are the word's. -/
theorem eccData_eccStore {d : Nat} (hd : d < 2 ^ 64) : eccData (eccStore d) = d := by
  refine Nat.eq_of_testBit_eq fun j => ?_
  rw [testBit_eccData]
  by_cases hj : j < 64
  · have hnocheck : (eccChecks (eccSyndrome (eccSpread d))).testBit (eccPlace j) = false := by
      rw [testBit_eccChecks, decide_eq_false_iff_not]
      rintro ⟨i, hi, -, hplace⟩
      exact eccPlace_ne_eccCheckPlace j hj i (List.mem_range.mp hi) hplace.symm
    have hdata : (∃ i ∈ List.range 64, bit d i = true ∧ eccPlace i = eccPlace j) ↔ d.testBit j = true := by
      refine ⟨?_, fun h => ⟨j, List.mem_range.mpr hj, by rwa [bit_eq_testBit], rfl⟩⟩
      rintro ⟨i, hi, hbit, hplace⟩
      rwa [← eccPlace_inj i (List.mem_range.mp hi) j hj hplace, ← bit_eq_testBit]
    rw [eccStore_eq, Nat.testBit_xor, hnocheck, testBit_eccSpread, Bool.xor_false, decide_eq_true hj, Bool.true_and, Bool.eq_iff_iff,
      decide_eq_true_iff, hdata]
  · rw [Nat.testBit_lt_two_pow (Nat.lt_of_lt_of_le hd (Nat.pow_le_pow_right (by omega) (by omega)))]
    simp [hj]

/-! ## What a reader finds (R452) -/

theorem eccRead_good {x : Nat} (h : eccSyndrome x = 0) : eccRead x = .good (eccData x) := by simp [eccRead, h]

theorem eccRead_bad {x : Nat} (hne : eccSyndrome x ≠ 0) (h : eccSyndrome x ∉ eccColumns) : eccRead x = .bad (eccSyndrome x) := by
  have hnone : (eccColumns.findIdx? fun c => c = eccSyndrome x) = none := by
    rw [List.findIdx?_eq_none_iff]
    intro c hc
    simpa using fun heq : c = eccSyndrome x => h (heq ▸ hc)
  simp [eccRead, hne, hnone]

theorem eccRead_corrected {x i : Nat} (hi : i < 72) (h : eccSyndrome x = eccColumns.getD i 0) :
    eccRead x = .corrected (eccData (x ^^^ 2 ^ i)) (eccColumns.getD i 0) := by
  have hcolumn : ∀ i < 72, eccColumns.getD i 0 ≠ 0 ∧ (eccColumns.findIdx? fun c => c = eccColumns.getD i 0) = some i := by
    decide +kernel
  obtain ⟨hne, hfound⟩ := hcolumn i hi
  simp only [eccRead, h, hne, if_false, hfound]
  rfl

/-- A stored word with some bits inverted has the syndrome of those bits. -/
theorem eccSyndrome_flipped (d e : Nat) : eccSyndrome (eccStore d ^^^ e) = eccSyndrome e := by
  rw [eccSyndrome_xor, eccSyndrome_eccStore, Nat.zero_xor]

/-- Whether a byte has an odd number of bits set. -/
def oddWeight (x : Nat) : Bool := (List.range 8).foldl (fun b i => b ^^ x.testBit i) false

theorem oddWeight_xor (x y : Nat) : oddWeight (x ^^^ y) = (oddWeight x ^^ oddWeight y) := by
  have hfold (l : List Nat) (a b : Bool) : l.foldl (fun b i => b ^^ (x ^^^ y).testBit i) (a ^^ b)
      = (l.foldl (fun b i => b ^^ x.testBit i) a ^^ l.foldl (fun b i => b ^^ y.testBit i) b) := by
    induction l generalizing a b with
    | nil => rfl
    | cons i l ih =>
      simp only [List.foldl_cons, ← ih, Nat.testBit_xor]
      congr 1
      simp only [Bool.xor_assoc, Bool.xor_left_comm]
  exact hfold (List.range 8) false false

theorem oddWeight_of_mem_eccColumns : ∀ c ∈ eccColumns, oddWeight c = true := by decide

/-- Two columns differ, and their sum has even weight, as no column has: so it is neither 0 nor a column. -/
theorem eccColumns_pair {i j : Nat} (hij : i < j) (hj : j < 72) : let y := eccColumns.getD i 0 ^^^ eccColumns.getD j 0
    y ≠ 0 ∧ y ∉ eccColumns := by
  have hlen : eccColumns.length = 72 := rfl
  have hi : i < eccColumns.length := by omega
  have hj' : j < eccColumns.length := by omega
  rw [List.getD_eq_getElem _ _ hi, List.getD_eq_getElem _ _ hj']
  have hne : eccColumns[i] ≠ eccColumns[j] := fun h =>
    absurd ((List.Nodup.getElem_inj_iff (by decide)).mp h) (by omega)
  refine ⟨fun h => hne (Nat.xor_eq_zero_iff.mp h), fun h => ?_⟩
  have hodd := oddWeight_of_mem_eccColumns _ h
  rw [oddWeight_xor, oddWeight_of_mem_eccColumns _ (List.getElem_mem hi), oddWeight_of_mem_eccColumns _ (List.getElem_mem hj')] at hodd
  cases hodd

/-- The nibbles with two or more bits set. -/
def manyBits : List Nat := [3, 5, 6, 7, 9, 10, 11, 12, 13, 14, 15]

theorem mem_manyBits : ∀ m < 16, (∀ k < 4, m ≠ 2 ^ k) → 0 < m → m ∈ manyBits := by decide

/-- No two or more bits of one nibble sum to 0 or to a column. -/
theorem eccSyndrome_nibble : ∀ n < 18, ∀ m ∈ manyBits,
    eccSyndrome (m * 2 ^ (4 * n)) ≠ 0 ∧ eccSyndrome (m * 2 ^ (4 * n)) ∉ eccColumns := by decide +kernel

end Sys2Proof.Laws

namespace Sys2Proof.Proofs

open Sys2Proof Sys2Proof.Machine Sys2Proof.Laws

/-- Settles O59: the syndrome of an inverted word is that of the bits inverted. -/
theorem singleErrorsAreCorrectedDoubleOnesDetected : Obligations.SingleErrorsAreCorrectedDoubleOnesDetected := by
  refine ⟨fun d hd => ⟨eccStore_lt d, ?_, fun i hi => ?_, fun i j hij hj => ?_, fun n m hn hm hmany hpos => ?_⟩, rfl, by decide⟩
  · rw [eccRead_good (eccSyndrome_eccStore d), eccData_eccStore hd]
  · have hread := eccRead_corrected (x := eccStore d ^^^ 2 ^ i) hi (by rw [eccSyndrome_flipped, eccSyndrome_two_pow i hi])
    rw [Nat.xor_assoc, Nat.xor_self, Nat.xor_zero, eccData_eccStore hd] at hread
    exact hread
  · have hsyndrome : eccSyndrome (eccStore d ^^^ 2 ^ i ^^^ 2 ^ j) = eccColumns.getD i 0 ^^^ eccColumns.getD j 0 := by
      rw [Nat.xor_assoc, eccSyndrome_flipped, eccSyndrome_xor, eccSyndrome_two_pow i (by omega), eccSyndrome_two_pow j hj]
    obtain ⟨hne, hcolumn⟩ := eccColumns_pair hij hj
    rw [← hsyndrome] at hne hcolumn
    exact ⟨_, Nat.mod_eq_of_lt (eccSyndrome_lt _), hne, eccRead_bad hne hcolumn⟩
  · obtain ⟨hne, hcolumn⟩ := eccSyndrome_nibble n hn m (mem_manyBits m hm hmany hpos)
    rw [← eccSyndrome_flipped d] at hne hcolumn
    exact ⟨_, eccRead_bad hne hcolumn⟩

end Sys2Proof.Proofs
end

section
/-!
SUPPORT. The statement about the state after reset settled: its registers read their table's values, and everything beside them is
empty.
-/
namespace Sys2Proof.Proofs

open Sys2Proof Sys2Proof.Machine Sys2Proof.Laws

/-- R459: at reset no level is up, for every INT_STATUS and every ARITH_FLAGS register resets to 0. -/
theorem settled_reset : Settled State.reset := by decide +kernel

/-- Table 16.5: a queue pair is DISABLED at reset. -/
theorem qEnabled_reset : ∀ q < 256, qEnabled State.reset q = false := by decide +kernel

/-- Settles O3: each part of the reset state is read off its definition. -/
theorem resetIsSettledAndUnpowered : Obligations.ResetIsSettledAndUnpowered :=
  ⟨settled_reset, ⟨rfl, rfl, rfl⟩, rfl, fun _ => rfl, rfl, rfl, rfl, rfl, fun _ => rfl, fun _ => ⟨rfl, rfl⟩,
    fun q hq => ⟨qEnabled_reset q hq, rfl, rfl⟩, fun _ => rfl, rfl, fun _ _ => rfl, fun _ => ⟨rfl, rfl⟩, fun _ _ => rfl,
    fun _ _ => rfl, by decide +kernel, rfl⟩

end Sys2Proof.Proofs
end

section
/-!
SUPPORT. The statements on the staging window (spec/16_host_interface.md), on work lists (spec/14_serving.md), and on shares and the
governor at a measure boundary (spec/15_admission_energy.md) settled.
-/
namespace Sys2Proof.Laws

open Sys2Proof.Machine

/-! ## Tables filled from a list -/

theorem tget_foldl_tset {α : Type} [DecidableEq α] (d : Nat → α) (f : Nat → α) (l : List Nat) (t : Tab α) (k : Nat) :
    tget d (l.foldl (fun t a => tset d t a (f a)) t) k = if k ∈ l then f k else tget d t k := by
  induction l generalizing t with
  | nil => simp
  | cons a l ih =>
    rw [List.foldl_cons, ih, tget_tset]
    by_cases hk : k = a
    · subst hk
      simp
    · simp [hk]

/-! ## The work list (R283) -/

/-- R283: the items taken, by induction over the candidates. -/
theorem takeItems_spec (cost : Nat → Int) (n : Nat) (allow : Int) (cand : List Nat) (hallow : 0 ≤ allow) :
    let l := takeItems cost n allow cand
    l = cand.take l.length ∧ l.length ≤ n ∧ (l.map cost).sum ≤ allow
      ∧ ∀ e, l.length < n → cand[l.length]? = some e → allow - (l.map cost).sum < cost e := by
  induction cand generalizing n allow with
  | nil => cases n <;> simp [takeItems, hallow]
  | cons e es ih =>
    cases n with
    | zero => simp [takeItems, hallow]
    | succ n =>
      by_cases hstop : allow < cost e
      · simp [takeItems, hstop, hallow]
      · obtain ⟨hprefix, hlen, hsum, hnext⟩ := ih n (allow - cost e) (by omega)
        simp only [takeItems, hstop, if_false, List.length_cons, List.take_succ_cons, List.map_cons, List.sum_cons]
        refine ⟨congrArg _ hprefix, by omega, by omega, fun x hlt hx => ?_⟩
        have := hnext x (by omega) (by simpa using hx)
        omega

/-! ## Shares (R303) -/

theorem clampTo_bounds {cap : Int} (hcap : 0 ≤ cap) (x : Int) : -cap ≤ clampTo cap x ∧ clampTo cap x ≤ cap := by
  unfold clampTo
  omega

theorem newDeficit_bounds (s : State) (active : List Nat) (c w a : Nat) :
    -((reg64 s Reg.ADMIT_DEF_CAP : Nat) : Int) ≤ newDeficit s active c w a
      ∧ newDeficit s active c w a ≤ ((reg64 s Reg.ADMIT_DEF_CAP : Nat) : Int) := by
  unfold newDeficit
  split
  · exact clampTo_bounds (by omega) _
  · omega

/-- The accounts that were active in the measure that ends. -/
def activeInMeasure (s : State) : List Nat := (activeNow s).foldl (fun l a => insertAsc a l) s.adm.active

theorem deficitOf_shareBoundary (s : State) (a : Nat) : deficitOf (shareBoundary s) a = newDeficit s (activeInMeasure s)
    (sumNat (s.adm.charged.map (·.2))) (sumNat ((activeInMeasure s).map (weightOfAccount s))) a := by
  refine (tget_foldl_tset (fun _ => 0) _ (activeInMeasure s) [] a).trans ?_
  split
  · rfl
  · next h => simp [newDeficit, h, tget]

/-! ## The governor (R310, R316) -/

theorem headroomOf_nonneg (s : State) : 0 ≤ headroomOf s := le_max_left ..

theorem thetaOf_cold {t : Nat} (h : t ≤ 1520) : thetaOf t = 0 := by
  unfold thetaOf
  omega

theorem thetaOf_hot {t : Nat} (h : 1680 ≤ t) : thetaOf t = 65536 := by
  unfold thetaOf
  omega

theorem thetaOf_le (t : Nat) : thetaOf t ≤ 65536 := by
  unfold thetaOf
  omega

theorem marginOf_nonneg (s : State) : 0 ≤ marginOf s :=
  Int.ediv_nonneg (Int.mul_nonneg (headroomOf_nonneg s) (Int.natCast_nonneg _)) (by omega)

/-- R310: the margin is at most the headroom, for θ is at most 1. -/
theorem marginOf_le (s : State) : marginOf s ≤ headroomOf s := by
  refine Int.ediv_le_of_le_mul (by omega) (Int.mul_le_mul_of_nonneg_left ?_ (headroomOf_nonneg s))
  exact_mod_cast thetaOf_le _

theorem marginOf_cold {s : State} (h : bits (reg s Reg.ENERGY_TMAX) 15 0 ≤ 1520) : marginOf s = 0 := by
  simp [marginOf, thetaOf_cold h]

theorem marginOf_hot {s : State} (h : 1680 ≤ bits (reg s Reg.ENERGY_TMAX) 15 0) : marginOf s = headroomOf s := by
  rw [marginOf, thetaOf_hot h]
  exact Int.mul_ediv_cancel _ (by decide)

/-- R316: from any state but STOP and DRAINED the temperature alone decides. -/
theorem thermalOf_free {t : Thermal} (hstop : t ≠ .stop) (hdrained : t ≠ .drained) (x : Nat) :
    thermalOf t x = if x < 1520 then .normal else if x < 1680 then .margin else if x < 1760 then .zero else .stop := by
  cases t with
  | normal | margin | zero => rfl
  | stop => exact absurd rfl hstop
  | drained => exact absurd rfl hdrained

end Sys2Proof.Laws

namespace Sys2Proof.Proofs

open Sys2Proof Sys2Proof.Machine Sys2Proof.Laws

/-- R321: a write that ends within the window is stored whole. -/
theorem stagingWrite_inside (s : State) {off : Nat} {data : List Byte} (h : off + data.length ≤ bar4Size) :
    stagingWrite s 0 off data = { s with staging := memWrite s.staging off data } := by
  rw [stagingWrite, if_pos rfl, List.take_of_length_le (by omega)]

theorem exec_registerWrite_bar4 {s : State} (f : FnNo) (off : Nat) (data : List Byte) (hlink : s.host.linkUp = true) :
    exec (.registerWrite .bar4 f off data) s = .next (settle (stagingWrite s f off data)) := linked_up _ hlink

/-- Settles O8: the bytes are stored by one write of the window's memory. -/
theorem stagingWindowStoresBytes : Obligations.StagingWindowStoresBytes := fun s off data hlink hin hcanon => by
  refine ⟨_, exec_registerWrite_bar4 0 off data hlink, ?_⟩
  rw [show ((0 : FnNo) : Nat) = 0 from rfl, stagingWrite_inside s hin]
  refine ⟨rfl, memRead_memWrite_self .., fun a ha => ?_, mem_wf_write off data hcanon⟩
  rw [memByte_memWrite, dif_neg (by omega)]

/-- Settles O19: by induction over the candidates. -/
theorem workListRespectsItsLimits : Obligations.WorkListRespectsItsLimits := fun cost n allow cand _ hallow =>
  takeItems_spec cost n allow cand hallow

/-- R316, R317: at 110 °C and above a running module stops with a declared FAULT. -/
theorem thermalBoundary_stops {s : State} (hstop : s.energy.thermal ≠ .stop) (hdrained : s.energy.thermal ≠ .drained)
    (hhot : 1760 ≤ bits (reg s Reg.ENERGY_TMAX) 15 0) : thermalBoundary s
      = declareFault (setBits { s with energy := { s.energy with thermal := .stop } } Reg.ENERGY_INT_STATUS 4) 1 := by
  have hthermal : thermalOf s.energy.thermal (bits (reg s Reg.ENERGY_TMAX) 15 0) = .stop := by
    rw [thermalOf_free hstop hdrained, if_neg (by omega), if_neg (by omega), if_neg (by omega)]
  simp only [thermalBoundary, hthermal, hstop.symm, if_false, if_true]
  rfl

/-- Settles O17: each account's deficit, the margin by θ, the thermal state by its range. -/
theorem sharesAndAllowanceAtAMeasure : Obligations.SharesAndAllowanceAtAMeasure := by
  refine ⟨fun s => ⟨rfl, fun a => ?_, fun a ha => ?_, fun a ha => ?_⟩, fun s => ⟨rfl, ?_, ?_, fun h => ?_, fun h => ?_⟩,
    fun t x hstop hdrained => ?_, fun _ => ⟨rfl, rfl⟩, fun s hstop hdrained hhot => thermalBoundary_stops hstop hdrained hhot⟩
  · rw [deficitOf_shareBoundary]
    exact newDeficit_bounds ..
  · rw [deficitOf_shareBoundary, newDeficit, if_neg (by simpa [activeInMeasure] using ha)]
  · rw [deficitOf_shareBoundary, newDeficit, if_pos (by simpa [activeInMeasure] using ha)]
    rfl
  · exact Int.sub_nonneg.mpr (marginOf_le s)
  · exact Int.sub_le_self _ (marginOf_nonneg s)
  · exact (congrArg (headroomOf s - ·) (marginOf_cold h)).trans (Int.sub_zero _)
  · exact (congrArg (headroomOf s - ·) (marginOf_hot h)).trans (Int.sub_self _)
  · rw [thermalOf_free hstop hdrained]
    exact ⟨fun h => by rw [if_pos h], fun h1 h2 => by rw [if_neg (by omega), if_pos h2],
      fun h1 h2 => by rw [if_neg (by omega), if_neg (by omega), if_pos h2],
      fun h => by rw [if_neg (by omega), if_neg (by omega), if_neg (by omega)]⟩

end Sys2Proof.Proofs
end

section
/-!
SUPPORT. The statement on the end of a sequence at a token (spec/12_text_grammar.md, spec/14_serving.md) settled: the reasons in their
order, and what a stop string that a token completes releases.
-/
namespace Sys2Proof.Laws

open Sys2Proof.Machine

/-! ## The reasons in their order (R294) -/

section
variable {q : SeqEntry} {eos ctxMax t : Nat} {stop : Option (Nat × Nat)}

theorem endReason_eos (h : t = eos) : endReason q eos ctxMax t stop = (0x01, 0) := if_pos h

theorem endReason_stopToken {i : Nat} (hne : t ≠ eos) (h : (gtStopToks q.genText).idxOf? t = some i) :
    endReason q eos ctxMax t stop = (0x02, i) := by
  have hfound : (gtStopToks q.genText).findIdx? (fun x => x = t) = some i := h
  simp only [endReason, hne, if_false, hfound]

/-- Where the token is neither EOS nor a stop token, the stop string comes first, then MAX_NEW, then the context. -/
theorem endReason_otherwise (hne : t ≠ eos) (h : t ∉ gtStopToks q.genText) : endReason q eos ctxMax t stop = match stop with
    | some p => (0x03, p.1)
    | none => if q.maxNew ≤ q.genCount then (0x05, 0) else if ctxMax ≤ q.ctxLen + 1 then (0x06, 0) else (0, 0) := by
  have hnone : (gtStopToks q.genText).findIdx? (fun x => x = t) = none := by
    rw [List.findIdx?_eq_none_iff]
    intro x hx
    simpa using fun heq : x = t => h (heq ▸ hx)
  simp only [endReason, hne, if_false, hnone]
  cases stop <;> rfl

end

/-! ## The stop string that a token completes (R240) -/

theorem endsWith_split {x p : List Byte} (h : endsWith x p = true) : x.take (x.length - p.length) ++ p = x := by
  rw [endsWith, Bool.and_eq_true, decide_eq_true_iff, decide_eq_true_iff] at h
  obtain ⟨-, hsuffix⟩ := h
  conv_rhs => rw [← List.take_append_drop (x.length - p.length) x, hsuffix]

theorem stopAt_some {stops : List (List Byte)} {x : List Byte} {i len : Nat} (h : stopAt stops x = some (i, len)) :
    ∃ p, stops[i]? = some p ∧ p ≠ [] ∧ p.length = len ∧ endsWith x p = true := by
  obtain ⟨j, hj, hstop⟩ := List.exists_of_findSome?_eq_some h
  dsimp only at hstop
  split at hstop
  · next hp =>
    obtain ⟨rfl, rfl⟩ := Prod.mk.inj (Option.some.inj hstop)
    have hlt : j < stops.length := List.mem_range.mp hj
    rw [List.getD_eq_getElem _ _ hlt] at hp ⊢
    exact ⟨stops[j], List.getElem?_eq_getElem hlt, hp.1, rfl, hp.2⟩
  · cases hstop

/-- The occurrence ends with the last of the characters counted: the text before it and those characters end with the stop string. -/
theorem findStop_some {stops : List (List Byte)} {x : List Byte} {n : Nat} {cs : List Ch} {i cut len : Nat}
    (h : findStop stops x n cs = some (i, cut, len)) :
    ∃ k, cut = n + k ∧ stopAt stops (x ++ (cs.take k).flatMap (·.bytes)) = some (i, len) := by
  induction cs generalizing x n with
  | nil => cases h
  | cons c cs ih =>
    rw [findStop] at h
    split at h
    · next hstop =>
      cases h
      exact ⟨1, rfl, by simpa using hstop⟩
    · obtain ⟨k, hcut, hstop⟩ := ih h
      exact ⟨k + 1, by omega, by simpa using hstop⟩

/-- R237: the characters that an earlier token completed come first. -/
theorem earlierChars_prefix (pending : List Byte) (cs : List Ch) : earlierChars pending cs ++ cs.drop (earlierChars pending cs).length = cs := by
  unfold earlierChars
  split
  · rfl
  · cases cs with
    | nil => rfl
    | cons c cs =>
      by_cases h : c.src ≤ pending.length <;> simp [h]

/-- The characters up to a stop string's end: the earlier ones, then the token's own. -/
theorem take_earlierChars (pending : List Byte) (cs : List Ch) (k : Nat) : cs.take ((earlierChars pending cs).length + k)
    = earlierChars pending cs ++ (cs.drop (earlierChars pending cs).length).take k := by
  have h := List.take_length_add_append (l₁ := earlierChars pending cs) (l₂ := cs.drop (earlierChars pending cs).length) k
  rwa [earlierChars_prefix] at h

/-- R241: what a completed stop string releases, when the string itself is not included. -/
theorem detok_stop {stops : List (List Byte)} {pending held bytes : List Byte} {i cut : Nat}
    (h : (detok stops false pending held bytes).stop = some (i, cut)) :
    ∃ p own, stops[i]? = some p ∧ p ≠ [] ∧ (detok stops false pending held bytes).held = []
      ∧ (detok stops false pending held bytes).released ++ p = held ++ own
      ∧ own <+: ((utf8Split (pending ++ bytes)).1.flatMap (·.bytes)) := by
  unfold detok at h ⊢
  dsimp only at h ⊢
  split at h
  · next j cut' len hfound =>
    cases h
    obtain ⟨k, hcut, hstop⟩ := findStop_some hfound
    rw [Nat.zero_add] at hcut
    subst hcut
    obtain ⟨p, hp, hne, hlen, hends⟩ := stopAt_some hstop
    rw [List.append_assoc, ← List.flatMap_append, ← take_earlierChars] at hends
    refine ⟨p, ((utf8Split (pending ++ bytes)).1.take ((earlierChars pending (utf8Split (pending ++ bytes)).1).length + cut)).flatMap (·.bytes),
      hp, hne, rfl, ?_, ?_⟩
    · have hsplit := endsWith_split hends
      rw [List.length_append, hlen] at hsplit
      exact hsplit
    · exact List.IsPrefix.flatMap (List.take_prefix _ _) _
  · cases h

end Sys2Proof.Laws

namespace Sys2Proof.Proofs

open Sys2Proof Sys2Proof.Machine Sys2Proof.Laws

/-- Settles O41: the reasons by the tests in their order, the release by the occurrence found. -/
theorem endReasonsFollowTheirOrder : Obligations.EndReasonsFollowTheirOrder := by
  refine ⟨fun q eos ctxMax t stop => ⟨endReason_eos, fun hne i hi => endReason_stopToken hne hi, fun hne hno => ?_⟩,
    fun stops pending held bytes i cut => detok_stop⟩
  rw [endReason_otherwise hne hno]
  refine ⟨fun p hp => by rw [hp], fun hnone hmax => ?_, fun hnone hmax hctx => ?_, fun hnone hmax hctx => ?_⟩
  · rw [hnone]
    exact if_pos hmax
  · rw [hnone]
    exact (if_neg (by omega)).trans (if_pos hctx)
  · rw [hnone]
    exact (if_neg (by omega)).trans (if_neg (by omega))

end Sys2Proof.Proofs
end

section
/-!
SUPPORT. Updates of register words and event counters alone: what a chain of them keeps, and what it leaves in the words it names.
-/
namespace Sys2Proof.Laws

open Sys2Proof.Machine

/-- `t` is `s` but for event counters and the register words of `l`, apart from those that an event may change (R462). -/
structure Tallied (l : List Nat) (s t : State) : Prop where
  frame : t = { s with regs := t.regs, evt := t.evt }
  kept : RegsKept s t l

namespace Tallied

variable {l m : List Nat} {s t u : State} {a : Nat}

theorem refl (l : List Nat) (s : State) : Tallied l s s := ⟨rfl, RegsKept.refl s l⟩

theorem trans (h : Tallied l s t) (g : Tallied l t u) : Tallied l s u := ⟨g.frame.trans (by rw [h.frame]), h.kept.trans g.kept⟩

theorem mono (h : Tallied l s t) (hlm : l ⊆ m) : Tallied m s t := ⟨h.frame, h.kept.mono hlm⟩

theorem setReg (h : Tallied l s t) (v : Nat) (ha : a ∈ l := by simp) : Tallied l s (setReg t a v) :=
  ⟨by rw [h.frame]; rfl, h.kept.after_setReg ha v⟩

theorem setBits (h : Tallied l s t) (m : Nat) (ha : a ∈ l := by simp) : Tallied l s (setBits t a m) := h.setReg _ ha

theorem clearBits (h : Tallied l s t) (m : Nat) (ha : a ∈ l := by simp) : Tallied l s (clearBits t a m) := h.setReg _ ha

theorem putBit (h : Tallied l s t) (n : Nat) (b : Bool) (ha : a ∈ l := by simp) : Tallied l s (putBit t a n b) := by
  unfold Machine.putBit
  split
  · exact h.setBits _ ha
  · exact h.clearBits _ ha

theorem setReg64 (h : Tallied l s t) (v : Nat) (ha : a ∈ l := by simp) (ha4 : a + 4 ∈ l := by simp) : Tallied l s (setReg64 t a v) :=
  (h.setReg _ ha).setReg _ ha4

theorem event (h : Tallied l s t) (cls evt : Nat) (sect die : Option Nat) (k : Nat) : Tallied l s (event t cls evt sect die k) := by
  obtain ⟨r, e, hevent⟩ := event_frame t cls evt sect die k
  exact ⟨by rw [hevent, h.frame], h.kept.trans fun b hb _ => reg_event t cls evt sect die k hb⟩

theorem bumpBy (h : Tallied l s t) (k : Nat) (ha : a ∈ l := by simp) : Tallied l s (bumpBy t a k) := by
  obtain ⟨r, e, hbump⟩ := bumpBy_frame t a k
  exact ⟨by rw [hbump, h.frame], h.kept.trans ((regsKept_bumpBy t a k).mono (by simpa using ha))⟩

theorem bump (h : Tallied l s t) (ha : a ∈ l := by simp) : Tallied l s (bump t a) := h.bumpBy 1 ha

theorem ite {p : Prop} [Decidable p] (h : Tallied l s t) (g : Tallied l s u) : Tallied l s (if p then t else u) := by
  split
  · exact h
  · exact g

theorem reg_eq (h : Tallied l s t) (ha : evtWord a = false := by decide) (hl : a ∉ l := by decide) : reg t a = reg s a := h.kept a ha hl

theorem regBit_eq (h : Tallied l s t) (n : Nat) (ha : evtWord a = false := by decide) (hl : a ∉ l := by decide) :
    regBit t a n = regBit s a n := congrArg (bit · n) (h.reg_eq ha hl)

end Tallied

/-- A counter after an increment, in one word. -/
theorem reg_bumpBy_self (s : State) {a : Nat} (k : Nat) (ha : evtWord a = false := by decide) :
    reg (bumpBy s a k) a = min (reg s a + k) 0xFFFFFFFF := by
  rw [reg_bumpBy s a k a ha, if_pos rfl]

theorem reg_bump_self (s : State) {a : Nat} (ha : evtWord a = false := by decide) : reg (bump s a) a = min (reg s a + 1) 0xFFFFFFFF :=
  reg_bumpBy_self s 1 ha

theorem reg_bumpBy_ne (s : State) {a b : Nat} (k : Nat) (hb : evtWord b = false := by decide) (hne : b ≠ a := by decide) :
    reg (bumpBy s a k) b = reg s b := by
  rw [reg_bumpBy s a k b hb, if_neg hne]

theorem reg_setBits_ne (s : State) {a b : Nat} (m : Nat) (hne : b ≠ a := by decide) : reg (setBits s a m) b = reg s b := reg_setReg_ne s _ hne

end Sys2Proof.Laws
end

section
/-!
SUPPORT. The statement on TOKENISE (spec/12_text_grammar.md) settled: what the text unit makes of a text, what the request takes of
it, and where its tokens are put.
-/
namespace Sys2Proof.Laws

open Sys2Proof.Machine

/-! ## What the text unit makes of a text (R227, R229, R232) -/

section
variable (norm merge : Rd) {strict : Bool} {bs : List Byte}

theorem tokeniseText_malformed {o : Nat} (hstrict : strict = true) (h : illFormedAt bs.length bs 0 = some o) :
    tokeniseText norm merge strict bs = { tokens := [], malformed := some o } := by
  simp only [tokeniseText, hstrict, h]

/-- A text that is not malformed: tokens within the bounds, else none and its mark. -/
theorem tokeniseText_taken (h : strict = false ∨ illFormedAt bs.length bs 0 = none) :
    (tokeniseText norm merge strict bs).malformed = none ∧ (tokeniseText norm merge strict bs).tokens.length ≤ 4096
      ∧ ((tokeniseText norm merge strict bs).tooLong = true → (tokeniseText norm merge strict bs).tokens = []) := by
  unfold tokeniseText
  split
  · next o hill =>
    rcases h with h | h
    · cases h
    · rw [h] at hill
      cases hill
  · dsimp only
    split
    · simp
    · split
      · simp
      · next hshort => exact ⟨rfl, by simpa using hshort, nofun⟩

end

/-- Never more than 4,096 tokens; a text that is malformed or too long has none, and under STRICT what is ill-formed is malformed. -/
theorem tokeniseText_bounds (norm merge : Rd) (strict : Bool) (bs : List Byte) : let o := tokeniseText norm merge strict bs
    o.tokens.length ≤ 4096 ∧ (o.tooLong = true ∨ o.malformed.isSome = true → o.tokens = [])
      ∧ (strict = true → utf8Good bs = false → o.malformed = illFormedAt bs.length bs 0 ∧ o.tokens = [])
      ∧ (strict = false → o.malformed = none) := by
  cases hstrict : strict with
  | false =>
    obtain ⟨hnone, hlen, hlong⟩ := tokeniseText_taken norm merge (strict := false) (bs := bs) (.inl rfl)
    refine ⟨hlen, fun h => hlong (h.resolve_right ?_), nofun, fun _ => hnone⟩
    simp [hnone]
  | true =>
    cases hill : illFormedAt bs.length bs 0 with
    | none =>
      obtain ⟨hnone, hlen, hlong⟩ := tokeniseText_taken norm merge (strict := true) (bs := bs) (.inr hill)
      refine ⟨hlen, fun h => hlong (h.resolve_right ?_), fun _ hbad => ?_, nofun⟩
      · simp [hnone]
      · simp [utf8Good, hill] at hbad
    | some o =>
      dsimp only
      rw [tokeniseText_malformed norm merge rfl hill]
      exact ⟨by simp, fun _ => rfl, fun _ _ => ⟨rfl, rfl⟩, nofun⟩

/-! ## Where its tokens are put (R234; log 65) -/

theorem placeInput_frame (s : State) (k part : Nat) (bs : List Byte) :
    ∃ p w, placeInput s k part bs = { s with lpddr := (placeInput s k part bs).lpddr, poison := p, twin := w } := by
  unfold placeInput
  split
  · exact ⟨_, _, rfl⟩
  · dsimp only
    split
    · exact ⟨_, _, rfl⟩
    · exact ⟨_, _, rfl⟩

theorem placeInput_lpddr_congr {s t : State} (hbond : t.bond = s.bond) (hmem : t.lpddr = s.lpddr) (k part : Nat) (bs : List Byte) :
    (placeInput t k part bs).lpddr = (placeInput s k part bs).lpddr := by
  unfold placeInput
  rw [hbond]
  split
  · exact hmem
  · dsimp only
    split
    · exact hmem
    · simp only [ldWrite, hmem]

@[simp] theorem reg_placeInput (s : State) (k part : Nat) (bs : List Byte) (a : Nat) : reg (placeInput s k part bs) a = reg s a := by
  obtain ⟨p, w, h⟩ := placeInput_frame s k part bs
  rw [h]
  rfl

end Sys2Proof.Laws

namespace Sys2Proof.Proofs

open Sys2Proof Sys2Proof.Machine Sys2Proof.Laws

/-! ## TOKENISE -/

/-- The counters and the bit that TOKENISE may change (Table 12.7). -/
def textWords : List Nat := [Reg.TEXT_CNT_TOKENS, Reg.TEXT_CNT_REPLACED, Reg.TEXT_CNT_STREAMSAFE, Reg.TEXT_CNT_TOO_LONG,
  Reg.TEXT_CNT_MALFORMED, Reg.TEXT_INT_STATUS]

/-- A request with what the text unit made of its text. -/
def textTaken (r : Req) (o : TextOut) : Req := { r with
  lane := false, tokenised := true, tokens := o.tokens, textReplaced := decide (o.replaced ≠ 0)
  textMalformed := o.malformed.isSome, malOffset := o.malformed.getD 0, textTooLong := o.tooLong }

/-- The counters of a text, before its tokens are put. -/
def textCounted (s : State) (o : TextOut) : State :=
  let t := bumpBy (bumpBy (bumpBy s Reg.TEXT_CNT_REPLACED o.replaced) Reg.TEXT_CNT_STREAMSAFE o.safe) Reg.TEXT_CNT_TOKENS o.tokens.length
  if o.tooLong then bump t Reg.TEXT_CNT_TOO_LONG else t

/-- The mark of a text that is refused. -/
def textMarked (s : State) (o : TextOut) : State :=
  if o.malformed.isSome then setBits (bump s Reg.TEXT_CNT_MALFORMED) Reg.TEXT_INT_STATUS 1 else s

/-- The state after the counters, with the tokens put. -/
def textPlaced (s : State) (k : Nat) (r : Req) (o : TextOut) : State :=
  placeInput (textCounted (setReq s k (some (textTaken r o))) o) k 2 (o.tokens.flatMap (natLE 4))

theorem tokenise_eq (s : State) (k : Nat) (r : Req) :
    let o := tokeniseText (pinnedRd s r.vset 1 7) (pinnedRd s r.vset 1 8) r.strict r.input
    tokenise s k r = textMarked (textPlaced s k r o) o := rfl

theorem textCounted_tallied (s : State) (o : TextOut) : Tallied textWords s (textCounted s o) := by
  have hcounts := (((Tallied.refl textWords s).bumpBy (a := Reg.TEXT_CNT_REPLACED) o.replaced (by simp [textWords])).bumpBy
    (a := Reg.TEXT_CNT_STREAMSAFE) o.safe (by simp [textWords])).bumpBy (a := Reg.TEXT_CNT_TOKENS) o.tokens.length (by simp [textWords])
  exact (hcounts.bump (by simp [textWords])).ite hcounts

theorem textMarked_tallied (s : State) (o : TextOut) : Tallied [Reg.TEXT_CNT_MALFORMED, Reg.TEXT_INT_STATUS] s (textMarked s o) :=
  (((Tallied.refl _ s).bump).setBits 1).ite (Tallied.refl _ s)

/-- The three counters after a text: each rises by its amount, and saturates. -/
theorem reg_textCounted (s : State) (o : TextOut) :
    reg (textCounted s o) Reg.TEXT_CNT_TOKENS = min (reg s Reg.TEXT_CNT_TOKENS + o.tokens.length) 0xFFFFFFFF
      ∧ reg (textCounted s o) Reg.TEXT_CNT_REPLACED = min (reg s Reg.TEXT_CNT_REPLACED + o.replaced) 0xFFFFFFFF
      ∧ reg (textCounted s o) Reg.TEXT_CNT_STREAMSAFE = min (reg s Reg.TEXT_CNT_STREAMSAFE + o.safe) 0xFFFFFFFF := by
  have hlong (t : State) : Tallied [Reg.TEXT_CNT_TOO_LONG] t (if o.tooLong then bump t Reg.TEXT_CNT_TOO_LONG else t) :=
    ((Tallied.refl _ t).bump).ite (Tallied.refl _ t)
  dsimp only [textCounted]
  refine ⟨?_, ?_, ?_⟩
  · rw [(hlong _).reg_eq, reg_bumpBy_self, reg_bumpBy_ne, reg_bumpBy_ne]
  · rw [(hlong _).reg_eq, reg_bumpBy_ne, reg_bumpBy_ne, reg_bumpBy_self]
  · rw [(hlong _).reg_eq, reg_bumpBy_ne, reg_bumpBy_self, reg_bumpBy_ne]

/-- Settles O39: the request and the counters by `tokenise`, the tokens' bounds by what the text unit makes of a text. -/
theorem textIsTokenisedIntoItsRequest : Obligations.TextIsTokenisedIntoItsRequest := by
  intro s k r hreq hlane htok hunit
  have hrun : exec (.tokenise k) s = .next (settle (tokenise s k r)) := by
    show execTokenise k s = _
    simp [execTokenise, hreq, hlane, htok, hunit, done]
  have hbounds := tokeniseText_bounds (pinnedRd s r.vset 1 7) (pinnedRd s r.vset 1 8) r.strict r.input
  rw [tokenise_eq] at hrun
  dsimp only at hrun hbounds ⊢
  generalize hout : tokeniseText (pinnedRd s r.vset 1 7) (pinnedRd s r.vset 1 8) r.strict r.input = o at hrun hbounds ⊢
  obtain ⟨hlen, hnone, hill, hlax⟩ := hbounds
  have hcounted := textCounted_tallied (setReq s k (some (textTaken r o))) o
  obtain ⟨htokens, hreplaced, hsafe⟩ := reg_textCounted (setReq s k (some (textTaken r o))) o
  obtain ⟨p, w, hplaced⟩ : ∃ p w, textPlaced s k r o = { textCounted (setReq s k (some (textTaken r o))) o with
      lpddr := (textPlaced s k r o).lpddr, poison := p, twin := w } := placeInput_frame ..
  have hmarked := textMarked_tallied (textPlaced s k r o) o
  have hlpddr : (textPlaced s k r o).lpddr
      = (placeInput s k 2 (o.tokens.flatMap (natLE 4))).lpddr :=
    placeInput_lpddr_congr (by rw [hcounted.frame]; rfl) (by rw [hcounted.frame]; rfl) k 2 _
  have hfront : (textMarked (textPlaced s k r o) o).front
      = (setReq s k (some (textTaken r o))).front := by
    rw [hmarked.frame, hplaced, hcounted.frame]
  refine ⟨_, hrun, ?_, ?_, ?_, fun j hj => ?_, hlen, hnone, hill, hlax, ?_, ?_, ?_, ?_⟩
  · rw [hmarked.frame, hplaced, hcounted.frame]
    rfl
  · rw [hmarked.frame]
    exact hlpddr
  · rw [reqOf_congr hfront, reqOf_setReq_self]
    rfl
  · rw [reqOf_congr hfront, reqOf_setReq_ne _ _ _ hj]
  · rw [hmarked.reg_eq, textPlaced, reg_placeInput, htokens, reg_setReq]
  · rw [hmarked.reg_eq, textPlaced, reg_placeInput, hreplaced, reg_setReq]
  · rw [hmarked.reg_eq, textPlaced, reg_placeInput, hsafe, reg_setReq]
  · intro a ha hl
    rw [(hmarked.mono (m := textWords) (by simp [textWords])).kept a ha hl, textPlaced, reg_placeInput, hcounted.kept a ha hl, reg_setReq]

end Sys2Proof.Proofs
end

section
/-!
SUPPORT. The statement on a port's ingress buffer (spec/17_pod_ports.md) settled: a frame that has passed the stages before it is
dropped, or goes on to the sequence stage.
-/
namespace Sys2Proof.Proofs

open Sys2Proof Sys2Proof.Machine Sys2Proof.Laws

/-- R361: a frame that the policer lets pass meets the buffer, and then the sequence stage. -/
theorem receive_buffered {s t : State} {n : Nat} {f : RxFrame} {i colour : Nat} (hruns : portRuns s n = true) (hfcs : f.fcs = true)
    (htype : leNat (slice f.bytes (etherAt f.bytes) 2).reverse = bits (reg s (Reg.POD_ETHERTYPE n)) 15 0)
    (hpeer : matchPeer s n (leNat (slice f.bytes 6 6).reverse) (le (f.bytes.drop (etherAt f.bytes + 2)) 2 2) = some i)
    (hheader : headerGood (f.bytes.drop (etherAt f.bytes + 2)) = true)
    (hpolice : policeStage s n i (f.bytes.length + 4) (bits (le (f.bytes.drop (etherAt f.bytes + 2)) 1 1) 5 4) = (t, some colour)) :
    receive s n f = if bufferDrops t n (f.bytes.length + 4) f.fill colour then .dropped (bump t (Reg.POD_CNT_BUF_DROP n))
      else sequenceStage t n i (f.bytes.length + 4) (f.bytes.drop (etherAt f.bytes + 2)) := by
  simp [receive, hruns, hfcs, htype, hpeer, hheader, hpolice]

theorem bufferDrops_iff (t : State) (n b fill colour : Nat) : bufferDrops t n b fill colour = true
    ↔ ((colour = 1 ∨ colour = 2) ∧ bits (reg t (Reg.POD_YELLOW_THRESH n)) 12 0 * 1024 ≤ fill) ∨ 4 * 2 ^ 20 < fill + b := by
  simp [bufferDrops]

/-- Settles O52: the stages up to the buffer, then its two tests. -/
theorem ingressBufferDropsFrames : Obligations.IngressBufferDropsFrames := by
  intro s t n f i colour hruns hfcs o h b htype hpeer hheader hpolice
  have hreceive := receive_buffered hruns hfcs htype hpeer hheader hpolice
  refine ⟨fun hdrop => exec_frame_dropped (hreceive.trans (if_pos ((bufferDrops_iff ..).mpr hdrop))), fun hcolour hfits => ?_⟩
  refine hreceive.trans (if_neg fun hdrop => ?_)
  rcases (bufferDrops_iff ..).mp hdrop with hyellow | hfull
  · exact hcolour hyellow
  · exact absurd hfull (by omega)

end Sys2Proof.Proofs
end

section
/-!
SUPPORT. The power path of spec/20_power_supply.md: a state in which the refusals that INPUT_LOSS makes carry a pair's counter over the bit that it raised.
-/
namespace Sys2Proof.Proofs

open Sys2Proof Sys2Proof.Machine Sys2Proof.Laws

/-- A pair number at which Q_CNT_CQ_WAIT is the word of PWR_INT_STATUS. -/
def strayPair : Nat := 22272

/-- A module in hold-up with one queued request, of `strayPair`, and PWR_INT_STATUS at 7. -/
def heldUpWithStray : State := { State.reset with
    regs := [(Reg.PWR_INT_STATUS, 7)]
    plinth := { PlinthSt.reset with mode := .holdup }
    topo := { TopoSt.reset with stage := .ready }
    adm := { AdmitSt.reset with queues := [(0, [{ Req.blank with origin := .host 0 strayPair 0 0 0 0 }])] } }

theorem strayPair_counts_in_int_status : Reg.Q_CNT_CQ_WAIT strayPair = Reg.PWR_INT_STATUS := by decide

theorem exec_inputLoss (s : State) : exec .inputLoss s = done (inputLoss s) := rfl

/-- The refusal's entry cannot be written, so its pair counts: 7 with bit 3 raised becomes 16. -/
theorem inputLoss_heldUpWithStray : regBit (inputLoss heldUpWithStray) Reg.PWR_INT_STATUS 3 = false := by
  decide +kernel

/-- Refutes O57: INPUT_LOSS raises bit 3 of PWR_INT_STATUS and then refuses what is queued. The statement leaves the pair of a queued
request free; the refusal of a request of pair 22,272 adds 1 to the word at that pair's Q_CNT_CQ_WAIT, which is PWR_INT_STATUS, and the
carry clears the bit. -/
theorem not_powerCommandsRun : ¬ Obligations.PowerCommandsRun := by
  unfold Obligations.PowerCommandsRun
  rintro ⟨_, _, hloss, _⟩
  obtain ⟨u, hrun, hraised, _⟩ := (hloss heldUpWithStray).1 rfl (by simp [heldUpWithStray])
  have hregs : (inputLoss heldUpWithStray).regs = u.regs := by
    rw [exec_inputLoss] at hrun
    have hsettled := congrArg State.regs (done_next hrun)
    simpa only [settle_regs] using hsettled.symm
  have hbit : regBit (inputLoss heldUpWithStray) Reg.PWR_INT_STATUS 3 = regBit u Reg.PWR_INT_STATUS 3 := by
    simp only [regBit, reg, hregs]
  rw [inputLoss_heldUpWithStray, hraised] at hbit
  exact absurd hbit (by decide)

end Sys2Proof.Proofs
end

section
/-!
SUPPORT. Checked words and event counters (spec/22_monitoring.md): what counting a corrected or an uncorrectable error leaves of the state, and the theorem
that settles their obligation.
-/
namespace Sys2Proof.Laws

open Sys2Proof.Machine

/-! ## Counting and logging -/

/-- `t` is `s` but for event counters, the error log and the register words of `l`, apart from those that an event may change. -/
structure Noted (l : List Nat) (s t : State) : Prop where
  frame : t = { s with regs := t.regs, evt := t.evt, err := t.err }
  kept : RegsKept s t l

theorem Tallied.noted {l : List Nat} {s t : State} (h : Tallied l s t) : Noted l s t := ⟨by rw [h.frame], h.kept⟩

namespace Noted

variable {l m : List Nat} {s t u : State}

theorem trans (h : Noted l s t) (g : Noted l t u) : Noted l s u := ⟨g.frame.trans (by rw [h.frame]), h.kept.trans g.kept⟩

theorem mono (h : Noted l s t) (hlm : l ⊆ m) : Noted m s t := ⟨h.frame, h.kept.mono hlm⟩

theorem reg_eq {a : Nat} (h : Noted l s t) (ha : evtWord a = false := by decide) (hl : a ∉ l := by decide) : reg t a = reg s a := h.kept a ha hl

end Noted

theorem noted_logErr (s : State) (x : LogItem) : Noted logWords s (logErr s x) := ⟨logOnly_eq (logErr_frame s x), regsKept_logErr s x⟩

/-- Logging leaves the count of corrected errors and the storm of the measure (R464). -/
theorem logErr_storm (s : State) (x : LogItem) :
    (logErr s x).err.ceMeasure = s.err.ceMeasure ∧ (logErr s x).err.storm = s.err.storm := by
  unfold logErr
  split
  · simp only [logRepeat, logCount_err, and_self]
  · simp only [logNew_err, logCount_err, and_self]

/-- A bit that a mask does not hold stays. -/
theorem regBit_setBits_of_not_mem {s : State} {a m n : Nat} (hn : n < 32) (hm : m.testBit n = false) :
    regBit (setBits s a m) a n = regBit s a n := by
  have hor : (Nat.lor (reg s a) m).testBit n = (reg s a).testBit n := by
    rw [show Nat.lor (reg s a) m = reg s a ||| m from rfl, Nat.testBit_or, hm, Bool.or_false]
  rw [regBit, reg_setBits, if_pos rfl, bit_eq_testBit, Nat.testBit_mod_two_pow, hor, regBit, bit_eq_testBit]
  simp [hn]

/-- Logging raises bits 0 and 4 of ERR_INT_STATUS alone. -/
theorem regBit_logErr (s : State) (x : LogItem) {n : Nat} (hn : n < 32) (h0 : Nat.testBit 1 n = false) (h4 : Nat.testBit 16 n = false) :
    regBit (logErr s x) Reg.ERR_INT_STATUS n = regBit s Reg.ERR_INT_STATUS n := by
  have hcount : regBit (logCount s x) Reg.ERR_INT_STATUS n = regBit s Reg.ERR_INT_STATUS n := by
    rw [regBit, reg_logCount_ne x (by decide) (by decide), regBit]
  have hentered (t : State) (e : ErrSt) (v w : Nat) :
      regBit (setBits (setReg (setReg { t with err := e } Reg.ERR_LOG_HEAD v) Reg.ERR_LOG_COUNT w) Reg.ERR_INT_STATUS 1) Reg.ERR_INT_STATUS n
        = regBit t Reg.ERR_INT_STATUS n := by
    rw [regBit_setBits_of_not_mem hn h0, regBit, reg_setReg_ne _ _ (by decide), reg_setReg_ne _ _ (by decide)]
    rfl
  unfold logErr
  split
  · exact hcount
  · unfold logNew
    dsimp only
    split
    · exact (hentered _ _ _ _).trans hcount
    · rw [regBit_setBits_of_not_mem hn h4, regBit, reg_bump _ _ _ (by decide), if_neg (by decide)]
      exact (hentered _ _ _ _).trans hcount

/-! ## Corrected errors (R452, R464) -/

/-- A corrected error after its count and its log entry, before it enters the count of the measure. -/
def ceLogged (s : State) (p : EccPlaceOf) (y : Nat) : State :=
  logErr (event (bump s (ceOf p).2.1) 5 (ceOf p).2.2 none (placeDie s p) 1) (placeItem s p (ceOf p).1 0 y)

theorem countCe_scratchpad (s : State) (c a y : Nat) : countCe s (.scratchpad c a) y = ceStorm (ceLogged s (.scratchpad c a) y) := rfl

theorem countCe_lpddr (s : State) (g o y : Nat) : countCe s (.lpddr g o) y = ceStorm (ceLogged s (.lpddr g o) y) := rfl

section
variable (s : State) (p : EccPlaceOf) (y : Nat)

theorem ceLogged_noted : Noted ((ceOf p).2.1 :: logWords) s (ceLogged s p y) :=
  ((Tallied.refl _ s).bump.event 5 (ceOf p).2.2 none (placeDie s p) 1).noted.trans ((noted_logErr _ _).mono (List.subset_cons_self _ _))

theorem ceLogged_storm : (ceLogged s p y).err.ceMeasure = s.err.ceMeasure ∧ (ceLogged s p y).err.storm = s.err.storm := by
  have herr : (event (bump s (ceOf p).2.1) 5 (ceOf p).2.2 none (placeDie s p) 1).err = s.err := by
    rw [((Tallied.refl [(ceOf p).2.1] s).bump.event 5 (ceOf p).2.2 none (placeDie s p) 1).frame]
  simpa only [ceLogged, herr] using
    logErr_storm (event (bump s (ceOf p).2.1) 5 (ceOf p).2.2 none (placeDie s p) 1) (placeItem s p (ceOf p).1 0 y)

theorem reg_ceLogged (hevt : evtWord (ceOf p).2.1 = false) (hlog : (ceOf p).2.1 ∉ logWords) :
    reg (ceLogged s p y) (ceOf p).2.1 = min (reg s (ceOf p).2.1 + 1) 0xFFFFFFFF := by
  rw [ceLogged, (noted_logErr _ _).kept _ hevt hlog, reg_event _ _ _ _ _ _ hevt, reg_bump_self s hevt]

theorem regBit_ceLogged (hp : (ceOf p).2.1 ≠ Reg.ERR_INT_STATUS) :
    regBit (ceLogged s p y) Reg.ERR_INT_STATUS 3 = regBit s Reg.ERR_INT_STATUS 3 := by
  rw [ceLogged, regBit_logErr _ _ (by decide) (by decide) (by decide), regBit, reg_event _ _ _ _ _ _ (by decide),
    reg_bump _ _ _ (by decide), if_neg (Ne.symm hp), regBit]

theorem ceStorm_noted : Noted [Reg.ERR_INT_STATUS] s (ceStorm s) := by
  unfold ceStorm
  dsimp only
  split
  · exact ⟨rfl, RegsKept.after_setBits (fun _ _ _ => rfl) (by simp) _⟩
  · exact ⟨rfl, fun _ _ _ => rfl⟩

theorem ceStorm_counts : (ceStorm s).err.ceMeasure = s.err.ceMeasure + 1 := by
  unfold ceStorm
  dsimp only
  split <;> rfl

theorem ceStorm_reached (hnew : s.err.storm = false) (hthresh : reg s Reg.ERR_CE_THRESH = s.err.ceMeasure + 1) :
    (ceStorm s).err.storm = true ∧ regBit (ceStorm s) Reg.ERR_INT_STATUS 3 = true := by
  simp only [ceStorm, hnew, hthresh, Bool.not_false, and_self, if_true]
  exact ⟨rfl, regBit_setBits _ _ (by decide) (by decide)⟩

theorem ceStorm_unreached (h : s.err.storm = true ∨ reg s Reg.ERR_CE_THRESH ≠ s.err.ceMeasure + 1) :
    (ceStorm s).err.storm = s.err.storm ∧ regBit (ceStorm s) Reg.ERR_INT_STATUS 3 = regBit s Reg.ERR_INT_STATUS 3 := by
  have hcond : ¬(reg s Reg.ERR_CE_THRESH = s.err.ceMeasure + 1 ∧ !s.err.storm) := by
    rintro ⟨hreached, hstorm⟩
    rcases h with h | h
    · simp [h] at hstorm
    · exact h hreached
  simp only [ceStorm, if_neg hcond, true_and]
  rfl

end

/-! ## Uncorrectable errors (R455) -/

/-- The register words that a group's reset may change, as far as the errors of its scratchpads go. -/
def groupResetWords : List Nat := [Reg.TAB_RESULT, Reg.TAB_INT_STATUS, Reg.TAB_CNT_REFUSED, Reg.TOPO_CNT_UNIT_RESET]

/-- `t` has the time block of `s`, and its register words but for those of a group's reset. -/
structure GroupReset (s t : State) : Prop where
  time : t.time = s.time
  kept : RegsKept s t groupResetWords

namespace GroupReset

variable {s t u : State}

theorem of_eq (htime : t.time = s.time) (hregs : t.regs = s.regs) : GroupReset s t := ⟨htime, fun _ _ _ => by rw [reg, reg, hregs]⟩

theorem refl (s : State) : GroupReset s s := of_eq rfl rfl

theorem trans (h : GroupReset s t) (g : GroupReset t u) : GroupReset s u := ⟨g.time.trans h.time, h.kept.trans g.kept⟩

theorem foldl {β : Type} {f : State → β → State} (h : ∀ t x, GroupReset t (f t x)) (l : List β) (s : State) : GroupReset s (l.foldl f s) :=
  List.foldlRecOn l f (refl s) fun t ht x _ => ht.trans (h t x)

theorem of_tallied {l : List Nat} (h : Tallied l s t) (hl : l ⊆ groupResetWords) : GroupReset s t := ⟨by rw [h.frame], h.kept.mono hl⟩

end GroupReset

theorem groupReset_reap (s : State) (a : Nat) : GroupReset s (reap s a) := by
  unfold reap
  dsimp only
  split
  · exact .refl s
  · exact .of_eq rfl rfl

theorem groupReset_dropBuild (s : State) (a : Nat) : GroupReset s (dropBuild s a) :=
  (GroupReset.of_eq (s := s) (t := setBuild s a none) rfl rfl).trans (groupReset_reap _ a)

theorem groupReset_dropBatch (s : State) (x : BatchRun) : GroupReset s (dropBatch s x) := by
  unfold dropBatch
  dsimp only
  split
  · exact ((groupReset_dropBuild s _).trans (groupReset_dropBuild _ _)).trans (groupReset_dropBuild _ _)
  · exact groupReset_dropBuild s _

theorem groupReset_tabEnd (s : State) (code : Nat) : GroupReset s (tabEnd s code) := by
  let idle : State := { s with assets := { s.assets with tabBusy := none } }
  have hanswered : Tallied groupResetWords idle (tabResult idle code) := (Tallied.refl _ idle).setReg code (by simp [groupResetWords])
  refine (GroupReset.of_eq (s := s) (t := idle) rfl rfl).trans (.of_tallied (l := groupResetWords) ?_ (List.Subset.refl _))
  unfold tabEnd
  dsimp only
  split
  · exact hanswered.setBits 1 (by simp [groupResetWords])
  · exact (hanswered.bump (by simp [groupResetWords])).setBits _ (by simp [groupResetWords])

theorem groupReset_tabUnitReset (s : State) : GroupReset s (tabUnitReset s) := by
  have hdropped : GroupReset s (setBatches (s.assets.batches.foldl dropBatch s) []) :=
    (GroupReset.foldl groupReset_dropBatch _ s).trans (.of_eq rfl rfl)
  unfold tabUnitReset
  dsimp only
  split
  · exact .refl s
  · split
    · exact hdropped.trans (groupReset_tabEnd _ _)
    · exact hdropped

theorem groupReset_groupWorkLost (s : State) (g : Nat) : GroupReset s (groupWorkLost s g) := by
  have hlost (i : Nat) (items : List Nat) : GroupReset s (loseItems s i items) := .of_eq rfl rfl
  have hcandidates (t : State) : GroupReset t (candidatesLost t g) := .of_eq rfl rfl
  unfold groupWorkLost
  dsimp only
  split
  · exact hcandidates s
  · next i _ =>
    refine GroupReset.trans ?_ (hcandidates _)
    split
    · split
      · exact (hlost _ _).trans (groupReset_tabUnitReset _)
      · exact hlost _ _
    · exact hlost _ _

theorem groupReset_powerGroup (s : State) (g : Nat) : GroupReset s (powerGroup s g) :=
  GroupReset.foldl (f := fun s' c => powerSlices (spForget (setCore s' c Core.reset) c) c) (fun _ _ => .of_eq rfl rfl) _ s

theorem groupReset_raiseEpoch (s : State) (cls i : Nat) : GroupReset s (raiseEpoch s cls i) := by
  unfold raiseEpoch
  dsimp only
  split
  · exact .refl s
  · exact .of_eq rfl rfl

theorem groupReset_bumpEpoch (s : State) (cls i : Nat) : GroupReset s (bumpEpoch s cls i) := by
  refine (groupReset_raiseEpoch s cls i).trans ?_
  unfold bumpEpoch
  dsimp only
  split
  · exact .of_eq rfl rfl
  · split
    · refine GroupReset.foldl (fun t g => ?_) _ _
      split
      · exact .refl t
      · exact .of_eq rfl rfl
    · exact .refl _

theorem groupReset_beginReset (s : State) (cls i : Nat) : GroupReset s (beginReset s cls i) :=
  ((groupReset_bumpEpoch s cls i).trans (.of_eq (t := setUnit (bumpEpoch s cls i) cls i _) rfl rfl)).trans
    (.of_tallied (l := groupResetWords) ((Tallied.refl _ _).bump (by simp [groupResetWords])) (List.Subset.refl _))

/-- The reset of a core group that a UE in a scratchpad starts. -/
theorem groupReset_unitReset (s : State) (g : Nat) : GroupReset s (unitReset s 0 g) := by
  unfold unitReset
  split
  · have hruns (t : State) : GroupReset t (runsLost (selectionLost t g) g) := .of_eq rfl rfl
    have hunit (t : State) (u : UnitSt) : GroupReset t (setUnit t 1 g u) := .of_eq rfl rfl
    have hgone := (groupReset_groupWorkLost s g).trans (hruns _)
    have hbegun := (hgone.trans (groupReset_powerGroup _ g)).trans (groupReset_beginReset _ 0 g)
    simp only [unitResetBegin]
    split
    · exact hbegun
    · exact (hbegun.trans (groupReset_bumpEpoch _ 1 g)).trans (hunit _ _)
  · exact .refl s

/-- The register words that the count of a UE changes. -/
def ueWords : List Nat := [Reg.ERR_CNT_UE, Reg.ERR_STATUS, Reg.ERR_INT_STATUS]

/-- A UE of a scratchpad or LPDDR word is counted and seen (R455). -/
theorem countUe_seen {p : EccPlaceOf} (hp : p ≠ .keystone) (s : State) : Tallied ueWords s (countUe s p)
    ∧ reg (countUe s p) Reg.ERR_CNT_UE = min (reg s Reg.ERR_CNT_UE + 1) 0xFFFFFFFF
    ∧ regBit (countUe s p) Reg.ERR_STATUS 1 = true ∧ regBit (countUe s p) Reg.ERR_INT_STATUS 2 = true := by
  let seen := setBits (setBits (bump s Reg.ERR_CNT_UE) Reg.ERR_STATUS 2) Reg.ERR_INT_STATUS 4
  have hcount : countUe s p = event seen 5 ((ceOf p).2.2 + 1) none (placeDie s p) 1 := by
    cases p
    case keystone => exact absurd rfl hp
    all_goals rfl
  have hreg {a : Nat} (ha : evtWord a = false) : reg (countUe s p) a = reg seen a := by rw [hcount, reg_event _ _ _ _ _ _ ha]
  refine ⟨?_, ?_, ?_, ?_⟩
  · rw [hcount]
    refine Tallied.event ?_ _ _ _ _ _
    exact (((Tallied.refl _ s).bump (by simp [ueWords])).setBits 2 (by simp [ueWords])).setBits 4 (by simp [ueWords])
  · rw [hreg (by decide), reg_setBits_ne _ _ (by decide), reg_setBits_ne _ _ (by decide), reg_bump_self s (by decide)]
  · rw [regBit, hreg (by decide), reg_setBits_ne _ _ (by decide)]
    exact regBit_setBits _ _ (by decide) (by decide)
  · rw [regBit, hreg (by decide)]
    exact regBit_setBits _ _ (by decide) (by decide)

theorem markMem_frame (s : State) (hit : Nat → SeqEntry → Bool) : ∃ v, markMem s hit = { s with serve := v } :=
  List.foldlRecOn (motive := fun t : State => ∃ v, t = { s with serve := v }) _ _ ⟨_, rfl⟩ fun t ⟨v, ht⟩ x _ => by
    dsimp only
    split
    · exact ⟨_, by rw [ht]; rfl⟩
    · exact ⟨v, ht⟩

theorem kvError_frame (s : State) (k : KvPool) (o : Nat) : ∃ v, kvError s k o = { s with serve := v } := by
  have hmarked (hit : Nat → Node → Bool) (hit' : Nat → SeqEntry → Bool) : ∃ v, markMem (invalidate s hit) hit' = { s with serve := v } := by
    obtain ⟨v, hv⟩ := markMem_frame (invalidate s hit) hit'
    exact ⟨v, hv⟩
  unfold kvError
  dsimp only
  split
  · exact ⟨_, rfl⟩
  · split
    · exact hmarked _ _
    · split
      · exact markMem_frame s _
      · exact hmarked _ _

/-- A UE of an LPDDR word poisons it, and reaches serving records alone. -/
theorem ueEffect_lpddr_frame (s : State) (g o y : Nat) :
    ∃ v, ueEffect s (.lpddr g o) y = { s with poison := insertAsc (ldKey g o) s.poison, serve := v } := by
  unfold ueEffect
  dsimp only
  split
  · exact ⟨_, rfl⟩
  · split
    · exact ⟨_, rfl⟩
    · split
      · obtain ⟨v, hv⟩ := kvError_frame { s with poison := insertAsc (ldKey g o) s.poison } _ o
        exact ⟨v, hv⟩
      · split
        · obtain ⟨v, hv⟩ := markMem_frame { s with poison := insertAsc (ldKey g o) s.poison } _
          exact ⟨v, hv⟩
        · exact ⟨_, rfl⟩

/-- A UE of a checked word, after its log entry and its count. -/
theorem uncorrectable_eq {p : EccPlaceOf} (hp : p ≠ .keystone) (s : State) (y : Nat) :
    uncorrectable s p y = ueEffect (countUe (logErr s (placeItem s p ((ceOf p).1 + 1) 1 y)) p) p y := by
  cases p
  case keystone => exact absurd rfl hp
  all_goals rfl

/-! ## A word that goes back (R454) -/

theorem spRead_spPut_self {s : State} {c x : Nat} {bs : List Byte} (hin : x + bs.length ≤ spSize) :
    spRead (spPut s c x bs) c x bs.length = bs := by
  have hwritten := spRead_spWrite_self s c hin
  rwa [spRead, scratch_spWrite] at hwritten

theorem scratchKept_spPut (s : State) (c x : Nat) (bs : List Byte) : ScratchKept s (spPut s c x bs) c x bs.length :=
  (scratchKept_spWrite s c x bs).trans (scratchKept_of_eq (scratch_spWrite s c x bs).symm)

/-- What a check of a scratchpad word that reads `d` leaves of the scratchpads. -/
structure ScratchpadReads (dropped : Bool) (d c a : Nat) (s u : State) : Prop where
  written : dropped = false → spRead u c a 8 = natLE 8 d
  overtaken : dropped = true → u.scratch = s.scratch
  rest : ScratchKept s u c a 8

theorem eccWriteBack_scratchpad {s t : State} {c a : Nat} (dropped : Bool) (d : Nat) (hin : a + 8 ≤ spSize) (hst : t.scratch = s.scratch) :
    (∃ m, eccWriteBack t (.scratchpad c a) d dropped = { t with scratch := m })
      ∧ ScratchpadReads dropped d c a s (eccWriteBack t (.scratchpad c a) d dropped) := by
  have hlen : (natLE 8 d).length = 8 := natLE_length 8 d
  have hsame : ScratchKept s t c a 8 := scratchKept_of_eq hst
  cases dropped with
  | true => exact ⟨⟨_, rfl⟩, ⟨by simp, fun _ => hst, hsame⟩⟩
  | false =>
    refine ⟨⟨_, rfl⟩, ⟨fun _ => ?_, by simp, ?_⟩⟩
    · have hread := spRead_spPut_self (s := t) (c := c) (x := a) (bs := natLE 8 d) (by rw [hlen]; exact hin)
      rwa [hlen] at hread
    · have hput := scratchKept_spPut t c a (natLE 8 d)
      rw [hlen] at hput
      exact hsame.trans hput

/-- What a check of an LPDDR word that reads `d` leaves of LPDDR at its place. -/
structure LpddrReads (dropped : Bool) (d g o : Nat) (s u : State) : Prop where
  written : dropped = false → ldRead u g o 8 = natLE 8 d
  overtaken : dropped = true → u.lpddr = s.lpddr

theorem eccWriteBack_lpddr {s t : State} {g o : Nat} (dropped : Bool) (d : Nat) (hst : t.lpddr = s.lpddr) :
    (∃ m, eccWriteBack t (.lpddr g o) d dropped = { t with lpddr := m })
      ∧ LpddrReads dropped d g o s (eccWriteBack t (.lpddr g o) d dropped) := by
  have hlen : (natLE 8 d).length = 8 := natLE_length 8 d
  cases dropped with
  | true => exact ⟨⟨_, rfl⟩, ⟨by simp, fun _ => hst⟩⟩
  | false =>
    refine ⟨⟨_, rfl⟩, ⟨fun _ => ?_, by simp⟩⟩
    have hread := memRead_memWrite_self t.lpddr (ldKey g o) (natLE 8 d)
    rwa [hlen] at hread

/-! ## The end of a check -/

/-- A check ends: at the last word of a full pass its end is stamped. -/
def passed (p : EccPlaceOf) (pass : Bool) (s : State) : State := if pass then passEnds s p else s

/-- The words of the two stamps. -/
def scrubWords : List Nat :=
  [Reg.ERR_SCRUB_SP, Reg.ERR_SCRUB_SP + 4, Reg.ERR_SCRUB_LPDDR, Reg.ERR_SCRUB_LPDDR + 4]

theorem checkWord_eq {s : State} {p : EccPlaceOf} (flips : Nat) (dropped pass : Bool) (h : checkable s p = true) :
    checkWord s p flips dropped pass = passed p pass (match eccRead (Nat.xor (eccStore (placeData s p)) (flips % 2 ^ 72)) with
      | .good d => eccWriteBack (scrubEvent s p) p d dropped
      | .corrected d y => eccWriteBack (countCe (scrubEvent s p) p y) p d dropped
      | .bad y => uncorrectable (scrubEvent s p) p y) := by
  simp only [checkWord, h, Bool.not_true, Bool.false_eq_true, if_false, passed] <;> rfl

theorem scrubEvent_tallied (s : State) (p : EccPlaceOf) : Tallied [] s (scrubEvent s p) := by
  unfold scrubEvent
  split
  · exact (Tallied.refl [] s).event _ _ _ _ _
  · exact (Tallied.refl [] s).event _ _ _ _ _
  · exact .refl [] s

theorem passed_tallied (p : EccPlaceOf) (pass : Bool) (s : State) : Tallied scrubWords s (passed p pass s) := by
  unfold passed passEnds
  split
  · split
    · exact (Tallied.refl _ s).setReg64 _ (by simp [scrubWords]) (by simp [scrubWords])
    · exact (Tallied.refl _ s).setReg64 _ (by simp [scrubWords]) (by simp [scrubWords])
    · exact .refl _ s
  · exact .refl _ s

theorem now_congr {s t : State} (h : t.time = s.time) : now t = now s := by simp only [now, h]

theorem passed_scratchpad {s t : State} (c a : Nat) (h : t.time = s.time) :
    reg64 (passed (.scratchpad c a) true t) Reg.ERR_SCRUB_SP = now s % 2 ^ 64 := by
  rw [← now_congr h]
  exact reg64_setReg64_mod ..

theorem passed_lpddr {s t : State} (g o : Nat) (h : t.time = s.time) :
    reg64 (passed (.lpddr g o) true t) Reg.ERR_SCRUB_LPDDR = now s % 2 ^ 64 := by
  rw [← now_congr h]
  exact reg64_setReg64_mod ..

/-- A checked word in range lies wholly in its scratchpad. -/
theorem scratchpad_in_range {s : State} {c a : Nat} (h : checkable s (.scratchpad c a) = true) : a + 8 ≤ spSize := by
  simp only [checkable, Bool.and_eq_true, decide_eq_true_eq] at h
  obtain ⟨⟨halign, hrange⟩, _⟩ := h
  simp only [spSize] at hrange ⊢
  omega

/-! ## The event counters (R461, R462) -/

theorem evtSelect_defined {s : State} {n v : Nat} (h : eventDefined (bits v 15 8) (bits v 7 0) = true) :
    evtSelect s n v = setCounter (setReg s (Reg.EVT_SEL n) (v % 2 ^ 24)) n 0 := by
  simp [evtSelect, h]

theorem exec_evtSel (s : State) (n : CounterNo) (v : Code32) : exec (.evtSel n v) s = host s (Reg.EVT_SEL n) (evtSelect · n v) := rfl

theorem exec_evtFreeze (s : State) (on : Bool) : exec (.evtFreeze on) s = host s Reg.EVT_CTRL (evtFreeze · on) := rfl

theorem exec_evtClear (s : State) : exec .evtClear s = host s Reg.EVT_CTRL evtClear := rfl

theorem evtSelect_undefined {s : State} {n v : Nat} (h : eventDefined (bits v 15 8) (bits v 7 0) = false) :
    evtSelect s n v = protocol s 0x000A (Reg.EVT_SEL n) 1 := by
  simp [evtSelect, h]

/-- The overflow words of the event counters are the ones that an event may change. -/
theorem evtWord_evtOvf {i : Nat} (h : i < 3) : evtWord (Reg.EVT_OVF i) = true := by
  have hi : i = 0 ∨ i = 1 ∨ i = 2 := by omega
  rcases hi with rfl | rfl | rfl <;> decide

theorem ovfCleared (s : State) : let u := (List.range 3).foldl (fun s' i => setReg s' (Reg.EVT_OVF i) 0) s
    u = { s with regs := u.regs } ∧ RegsKept s u [] ∧ ∀ i, i < 3 → reg u (Reg.EVT_OVF i) = 0 := by
  refine ⟨rfl, fun a ha _ => ?_, fun i hi => ?_⟩
  · have hne {i : Nat} (hi : i < 3) : a ≠ Reg.EVT_OVF i := fun hEq => by simp [hEq, evtWord_evtOvf hi] at ha
    exact ((reg_setReg_ne _ _ (hne (i := 2) (by decide))).trans (reg_setReg_ne _ _ (hne (i := 1) (by decide)))).trans
      (reg_setReg_ne _ _ (hne (i := 0) (by decide)))
  · have hi : i = 0 ∨ i = 1 ∨ i = 2 := by omega
    rcases hi with rfl | rfl | rfl
    · exact (reg_setReg_ne _ _ (by decide)).trans ((reg_setReg_ne _ _ (by decide)).trans (reg_setReg_self ..))
    · exact (reg_setReg_ne _ _ (by decide)).trans (reg_setReg_self ..)
    · exact reg_setReg_self ..

/-- An overflow word after the bit of a counter is set in its own word: the words an event may not change stay. -/
theorem regsKept_ovfBit (s : State) {n : Nat} (hn : n / 32 < 3) : RegsKept s (setBits s (Reg.EVT_OVF (n / 32)) (2 ^ (n % 32))) [] := fun a ha _ =>
  reg_setBits_ne s _ fun hEq => by simp [hEq, evtWord_evtOvf hn] at ha

/-- One more event carries a counter past its last value: it reads 0, and its overflow bit is set, which is announced where enabled. -/
theorem evtAdd_last (s : State) {n : Nat} (hn : n < 96) : let u := evtAdd (setCounter s n (2 ^ 48 - 1)) n 1
    u = { s with regs := u.regs, evt := u.evt } ∧ RegsKept s u [] ∧ tget (fun _ => 0) u.evt.cnt n = 0
      ∧ (∀ m, m ≠ n → tget (fun _ => 0) u.evt.cnt m = tget (fun _ => 0) s.evt.cnt m)
      ∧ regBit u (Reg.EVT_OVF (n / 32)) (n % 32) = true
      ∧ (regBit s (Reg.EVT_OVF_ENABLE (n / 32)) (n % 32) = true → regBit u Reg.EVT_INT_STATUS 0 = true) := by
  have hdiv : n / 32 < 3 := by omega
  have hmod : n % 32 < 32 := by omega
  let s0 : State := { s with evt := { s.evt with cnt := tset (fun _ => 0) (tset (fun _ => 0) s.evt.cnt n (2 ^ 48 - 1)) n 0 } }
  let s1 := setBits s0 (Reg.EVT_OVF (n / 32)) (2 ^ (n % 32))
  have hu : evtAdd (setCounter s n (2 ^ 48 - 1)) n 1
      = if bit (reg s1 (Reg.EVT_OVF_ENABLE (n / 32))) (n % 32) then setBits s1 Reg.EVT_INT_STATUS 1 else s1 := by
    simp [evtAdd, setCounter, s1, s0]
  have hset : regBit s1 (Reg.EVT_OVF (n / 32)) (n % 32) = true := regBit_setBits _ _ hmod Nat.testBit_two_pow_self
  have henable : reg s1 (Reg.EVT_OVF_ENABLE (n / 32)) = reg s (Reg.EVT_OVF_ENABLE (n / 32)) :=
    reg_setBits_ne s0 _ (by simp only [Reg.EVT_OVF_ENABLE, Reg.EVT_OVF]; omega)
  have hkept : RegsKept s s1 [] := regsKept_ovfBit s0 hdiv
  have hint : Reg.EVT_OVF (n / 32) ≠ Reg.EVT_INT_STATUS := by
    simp only [Reg.EVT_OVF, Reg.EVT_INT_STATUS]
    omega
  have hcnt : tget (fun _ => 0) s1.evt.cnt n = 0 ∧ ∀ m, m ≠ n → tget (fun _ => 0) s1.evt.cnt m = tget (fun _ => 0) s.evt.cnt m :=
    ⟨tget_tset_self (fun _ => 0) _ n 0,
      fun m hm => (tget_tset_ne (fun _ => 0) _ 0 hm).trans (tget_tset_ne (fun _ => 0) s.evt.cnt _ hm)⟩
  intro u
  change u = _ at hu
  rw [hu]
  split
  · refine ⟨rfl, fun a ha hl => (reg_setBits_ne s1 1 fun hEq => by simp [hEq, evtWord] at ha).trans (hkept a ha hl), hcnt.1, hcnt.2, ?_,
      fun _ => regBit_setBits _ _ (by decide) (by decide)⟩
    rw [regBit, reg_setBits_ne s1 1 hint]
    exact hset
  · next hquiet => exact ⟨rfl, hkept, hcnt.1, hcnt.2, hset, fun hen => absurd (henable ▸ hen) hquiet⟩

end Sys2Proof.Laws

namespace Sys2Proof.Proofs

open Sys2Proof Sys2Proof.Machine Sys2Proof.Laws

/-! ## Checks of scratchpad words -/

/-- A state that differs from `t` in the scratchpads reads the registers of `t`. -/
theorem reg_of_scratch {t u : State} {m : Mem} (h : u = { t with scratch := m }) (a : Nat) : reg u a = reg t a := by rw [h]; rfl

/-- The same of LPDDR. -/
theorem reg_of_lpddr {t u : State} {m : Mem} (h : u = { t with lpddr := m }) (a : Nat) : reg u a = reg t a := by rw [h]; rfl

section
variable (s : State) (c a : Nat) (dropped pass : Bool) (d y : Nat)

/-- A good scratchpad word goes back as it is. -/
theorem scratchpad_good (hin : a + 8 ≤ spSize) :
    let u := passed (.scratchpad c a) pass (eccWriteBack (scrubEvent s (.scratchpad c a)) (.scratchpad c a) d dropped)
    (pass = true → reg64 u Reg.ERR_SCRUB_SP = now s % 2 ^ 64)
      ∧ reg u Reg.ERR_CNT_CE_SCRATCH = reg s Reg.ERR_CNT_CE_SCRATCH ∧ reg u Reg.ERR_CNT_UE = reg s Reg.ERR_CNT_UE
      ∧ u = { s with regs := u.regs, evt := u.evt, scratch := u.scratch }
      ∧ (dropped = false → spRead u c a 8 = natLE 8 d) ∧ (dropped = true → u.scratch = s.scratch) ∧ ScratchKept s u c a 8 := by
  have hevent := scrubEvent_tallied s (.scratchpad c a)
  obtain ⟨⟨m, hback⟩, hreads⟩ := eccWriteBack_scratchpad (s := s) (t := scrubEvent s (.scratchpad c a)) (c := c) dropped d hin
    (by rw [hevent.frame])
  have hend := passed_tallied (.scratchpad c a) pass (eccWriteBack (scrubEvent s (.scratchpad c a)) (.scratchpad c a) d dropped)
  have hscratch := congrArg State.scratch hend.frame
  refine ⟨fun hpass => ?_, ?_, ?_, ?_, fun hd => ?_, fun hd => ?_, hreads.rest.trans (scratchKept_of_eq hscratch)⟩
  · rw [hpass]
    exact passed_scratchpad c a (by rw [hback, hevent.frame])
  · exact hend.reg_eq.trans ((reg_of_scratch hback _).trans hevent.reg_eq)
  · exact hend.reg_eq.trans ((reg_of_scratch hback _).trans hevent.reg_eq)
  · rw [hend.frame, hback, hevent.frame]
  · exact (congrArg (memRead · _ _) hscratch).trans (hreads.written hd)
  · exact hscratch.trans (hreads.overtaken hd)

/-- A corrected scratchpad word is counted, enters the count of the measure, and goes back corrected. -/
theorem scratchpad_corrected (hin : a + 8 ≤ spSize) :
    let u := passed (.scratchpad c a) pass
      (eccWriteBack (countCe (scrubEvent s (.scratchpad c a)) (.scratchpad c a) y) (.scratchpad c a) d dropped)
    (pass = true → reg64 u Reg.ERR_SCRUB_SP = now s % 2 ^ 64)
      ∧ reg u Reg.ERR_CNT_CE_SCRATCH = min (reg s Reg.ERR_CNT_CE_SCRATCH + 1) 0xFFFFFFFF
      ∧ reg u Reg.ERR_CNT_UE = reg s Reg.ERR_CNT_UE ∧ u.err.ceMeasure = s.err.ceMeasure + 1
      ∧ (s.err.storm = false → reg s Reg.ERR_CE_THRESH = s.err.ceMeasure + 1 →
          u.err.storm = true ∧ regBit u Reg.ERR_INT_STATUS 3 = true)
      ∧ ((s.err.storm = true ∨ reg s Reg.ERR_CE_THRESH ≠ s.err.ceMeasure + 1) →
          u.err.storm = s.err.storm ∧ regBit u Reg.ERR_INT_STATUS 3 = regBit s Reg.ERR_INT_STATUS 3)
      ∧ u = { s with regs := u.regs, evt := u.evt, err := u.err, scratch := u.scratch }
      ∧ (dropped = false → spRead u c a 8 = natLE 8 d) ∧ (dropped = true → u.scratch = s.scratch) ∧ ScratchKept s u c a 8 := by
  have hevent := scrubEvent_tallied s (.scratchpad c a)
  have hlogged : Noted (Reg.ERR_CNT_CE_SCRATCH :: logWords) _ _ := ceLogged_noted (scrubEvent s (.scratchpad c a)) (.scratchpad c a) y
  obtain ⟨hcount, hstorm⟩ := ceLogged_storm (scrubEvent s (.scratchpad c a)) (.scratchpad c a) y
  have hcounter : reg _ Reg.ERR_CNT_CE_SCRATCH = min (reg _ Reg.ERR_CNT_CE_SCRATCH + 1) 0xFFFFFFFF :=
    reg_ceLogged (scrubEvent s (.scratchpad c a)) (.scratchpad c a) y (show evtWord Reg.ERR_CNT_CE_SCRATCH = false by decide) (show Reg.ERR_CNT_CE_SCRATCH ∉ logWords by decide)
  have hbit := regBit_ceLogged (scrubEvent s (.scratchpad c a)) (.scratchpad c a) y (show Reg.ERR_CNT_CE_SCRATCH ≠ Reg.ERR_INT_STATUS by decide)
  rw [countCe_scratchpad]
  generalize ceLogged (scrubEvent s (.scratchpad c a)) (.scratchpad c a) y = l at hlogged hcount hstorm hcounter hbit ⊢
  have hnoted := ceStorm_noted l
  have hcounted : Noted _ s (ceStorm l) :=
    ((hevent.noted.mono (List.nil_subset _)).trans hlogged).trans
      (hnoted.mono (by simp [logWords]))
  obtain ⟨⟨m, hback⟩, hreads⟩ := eccWriteBack_scratchpad (s := s) (t := ceStorm l) (c := c) dropped d hin (by rw [hcounted.frame])
  have hend := passed_tallied (.scratchpad c a) pass (eccWriteBack (ceStorm l) (.scratchpad c a) d dropped)
  have hscratch := congrArg State.scratch hend.frame
  have hsame : (scrubEvent s (.scratchpad c a)).err = s.err := by rw [hevent.frame]
  have herr : (passed (.scratchpad c a) pass (eccWriteBack (ceStorm l) (.scratchpad c a) d dropped)).err = (ceStorm l).err := by
    rw [hend.frame, hback]
  rw [hsame] at hcount hstorm
  have hthresh : reg l Reg.ERR_CE_THRESH = reg s Reg.ERR_CE_THRESH := hlogged.reg_eq.trans hevent.reg_eq
  have hbitEnd : regBit (passed (.scratchpad c a) pass (eccWriteBack (ceStorm l) (.scratchpad c a) d dropped)) Reg.ERR_INT_STATUS 3
      = regBit (ceStorm l) Reg.ERR_INT_STATUS 3 :=
    (hend.regBit_eq 3).trans (congrArg (bit · 3) (reg_of_scratch hback _))
  refine ⟨fun hpass => ?_, ?_, ?_, ?_, fun hnew hreached => ?_, fun hunreached => ?_, ?_, fun hd => ?_, fun hd => ?_,
    hreads.rest.trans (scratchKept_of_eq hscratch)⟩
  · rw [hpass]
    exact passed_scratchpad c a (by rw [hback, hcounted.frame])
  · refine hend.reg_eq.trans ((reg_of_scratch hback _).trans (hnoted.reg_eq.trans (hcounter.trans ?_)))
    rw [hevent.reg_eq]
  · exact hend.reg_eq.trans ((reg_of_scratch hback _).trans hcounted.reg_eq)
  · rw [herr, ceStorm_counts, hcount]
  · rw [herr, hbitEnd]
    exact ceStorm_reached l (hstorm.trans hnew) (by rw [hthresh, hcount, hreached])
  · rw [herr, hbitEnd]
    obtain ⟨hquiet, hlow⟩ := ceStorm_unreached l (by rwa [hthresh, hcount, hstorm])
    exact ⟨hquiet.trans hstorm, hlow.trans (hbit.trans (hevent.regBit_eq 3))⟩
  · rw [hend.frame, hback, hcounted.frame]
  · exact (congrArg (memRead · _ _) hscratch).trans (hreads.written hd)
  · exact hscratch.trans (hreads.overtaken hd)

/-- An uncorrectable scratchpad word is counted and seen, and resets its group. -/
theorem scratchpad_bad :
    let u := passed (.scratchpad c a) pass (uncorrectable (scrubEvent s (.scratchpad c a)) (.scratchpad c a) y)
    (pass = true → reg64 u Reg.ERR_SCRUB_SP = now s % 2 ^ 64)
      ∧ reg u Reg.ERR_CNT_UE = min (reg s Reg.ERR_CNT_UE + 1) 0xFFFFFFFF
      ∧ reg u Reg.ERR_CNT_CE_SCRATCH = reg s Reg.ERR_CNT_CE_SCRATCH
      ∧ regBit u Reg.ERR_STATUS 1 = true ∧ regBit u Reg.ERR_INT_STATUS 2 = true := by
  have hevent := scrubEvent_tallied s (.scratchpad c a)
  rw [uncorrectable_eq (by simp)]
  have hlogged := noted_logErr (scrubEvent s (.scratchpad c a))
    (placeItem (scrubEvent s (.scratchpad c a)) (.scratchpad c a) ((ceOf (.scratchpad c a)).1 + 1) 1 y)
  generalize logErr (scrubEvent s (.scratchpad c a)) _ = l at hlogged ⊢
  obtain ⟨hcounted, hue, hstatus, hint⟩ := countUe_seen (p := .scratchpad c a) (by simp) l
  generalize countUe l (.scratchpad c a) = t at hcounted hue hstatus hint ⊢
  have hreset := groupReset_unitReset t (c / 64)
  have hend := passed_tallied (.scratchpad c a) pass (unitReset t 0 (c / 64))
  have hkept {x : Nat} (hx : evtWord x = false) (hreset' : x ∉ groupResetWords) (hscrub : x ∉ scrubWords) :
      reg (passed (.scratchpad c a) pass (ueEffect t (.scratchpad c a) y)) x = reg t x :=
    (hend.reg_eq hx hscrub).trans (hreset.kept x hx hreset')
  refine ⟨fun hpass => ?_, ?_, ?_, ?_, ?_⟩
  · rw [hpass]
    exact passed_scratchpad c a (hreset.time.trans (by rw [hcounted.frame, hlogged.frame, hevent.frame]))
  · rw [hkept (by decide) (by decide) (by decide), hue, hlogged.reg_eq, hevent.reg_eq]
  · rw [hkept (by decide) (by decide) (by decide), hcounted.reg_eq, hlogged.reg_eq, hevent.reg_eq]
  · rw [regBit, hkept (by decide) (by decide) (by decide)]
    exact hstatus
  · rw [regBit, hkept (by decide) (by decide) (by decide)]
    exact hint

end

/-! ## Checks of LPDDR words -/

section
variable (s : State) (g o : Nat) (dropped pass : Bool) (d y : Nat)

/-- A good LPDDR word goes back as it is. -/
theorem lpddr_good :
    let u := passed (.lpddr g o) pass (eccWriteBack (scrubEvent s (.lpddr g o)) (.lpddr g o) d dropped)
    (pass = true → reg64 u Reg.ERR_SCRUB_LPDDR = now s % 2 ^ 64)
      ∧ u = { s with regs := u.regs, evt := u.evt, lpddr := u.lpddr } ∧ (dropped = false → ldRead u g o 8 = natLE 8 d)
      ∧ (dropped = true → u.lpddr = s.lpddr) := by
  have hevent := scrubEvent_tallied s (.lpddr g o)
  obtain ⟨⟨m, hback⟩, hreads⟩ := eccWriteBack_lpddr (s := s) (t := scrubEvent s (.lpddr g o)) (g := g) (o := o) dropped d
    (by rw [hevent.frame])
  have hend := passed_tallied (.lpddr g o) pass (eccWriteBack (scrubEvent s (.lpddr g o)) (.lpddr g o) d dropped)
  have hlpddr := congrArg State.lpddr hend.frame
  refine ⟨fun hpass => ?_, ?_, fun hd => ?_, fun hd => hlpddr.trans (hreads.overtaken hd)⟩
  · rw [hpass]
    exact passed_lpddr g o (by rw [hback, hevent.frame])
  · rw [hend.frame, hback, hevent.frame]
  · exact (congrArg (memRead · _ _) hlpddr).trans (hreads.written hd)

/-- A corrected LPDDR word is counted and goes back corrected. -/
theorem lpddr_corrected :
    let u := passed (.lpddr g o) pass (eccWriteBack (countCe (scrubEvent s (.lpddr g o)) (.lpddr g o) y) (.lpddr g o) d dropped)
    (pass = true → reg64 u Reg.ERR_SCRUB_LPDDR = now s % 2 ^ 64)
      ∧ reg u Reg.ERR_CNT_CE_LPDDR = min (reg s Reg.ERR_CNT_CE_LPDDR + 1) 0xFFFFFFFF
      ∧ u = { s with regs := u.regs, evt := u.evt, err := u.err, lpddr := u.lpddr }
      ∧ (dropped = false → ldRead u g o 8 = natLE 8 d) ∧ (dropped = true → u.lpddr = s.lpddr) := by
  have hevent := scrubEvent_tallied s (.lpddr g o)
  have hlogged : Noted (Reg.ERR_CNT_CE_LPDDR :: logWords) _ _ := ceLogged_noted (scrubEvent s (.lpddr g o)) (.lpddr g o) y
  have hcounter : reg _ Reg.ERR_CNT_CE_LPDDR = min (reg _ Reg.ERR_CNT_CE_LPDDR + 1) 0xFFFFFFFF :=
    reg_ceLogged (scrubEvent s (.lpddr g o)) (.lpddr g o) y (show evtWord Reg.ERR_CNT_CE_LPDDR = false by decide) (show Reg.ERR_CNT_CE_LPDDR ∉ logWords by decide)
  rw [countCe_lpddr]
  generalize ceLogged (scrubEvent s (.lpddr g o)) (.lpddr g o) y = l at hlogged hcounter ⊢
  have hnoted := ceStorm_noted l
  have hcounted : ceStorm l = { s with regs := (ceStorm l).regs, evt := (ceStorm l).evt, err := (ceStorm l).err } := by
    rw [hnoted.frame, hlogged.frame, hevent.frame]
  obtain ⟨⟨m, hback⟩, hreads⟩ := eccWriteBack_lpddr (s := s) (t := ceStorm l) (g := g) (o := o) dropped d (by rw [hcounted])
  have hend := passed_tallied (.lpddr g o) pass (eccWriteBack (ceStorm l) (.lpddr g o) d dropped)
  have hlpddr := congrArg State.lpddr hend.frame
  refine ⟨fun hpass => ?_, ?_, ?_, fun hd => ?_, fun hd => hlpddr.trans (hreads.overtaken hd)⟩
  · rw [hpass]
    exact passed_lpddr g o (by rw [hback, hcounted])
  · refine hend.reg_eq.trans ((reg_of_lpddr hback _).trans (hnoted.reg_eq.trans (hcounter.trans ?_)))
    rw [hevent.reg_eq]
  · rw [hend.frame, hback, hcounted]
  · exact (congrArg (memRead · _ _) hlpddr).trans (hreads.written hd)

/-- An uncorrectable LPDDR word is counted and poisoned. -/
theorem lpddr_bad :
    let u := passed (.lpddr g o) pass (uncorrectable (scrubEvent s (.lpddr g o)) (.lpddr g o) y)
    (pass = true → reg64 u Reg.ERR_SCRUB_LPDDR = now s % 2 ^ 64)
      ∧ reg u Reg.ERR_CNT_UE = min (reg s Reg.ERR_CNT_UE + 1) 0xFFFFFFFF ∧ ldKey g o ∈ u.poison ∧ u.lpddr = s.lpddr := by
  have hevent := scrubEvent_tallied s (.lpddr g o)
  rw [uncorrectable_eq (by simp)]
  have hlogged := noted_logErr (scrubEvent s (.lpddr g o))
    (placeItem (scrubEvent s (.lpddr g o)) (.lpddr g o) ((ceOf (.lpddr g o)).1 + 1) 1 y)
  generalize logErr (scrubEvent s (.lpddr g o)) _ = l at hlogged ⊢
  obtain ⟨hcounted, hue, _⟩ := countUe_seen (p := .lpddr g o) (by simp) l
  generalize countUe l (.lpddr g o) = t at hcounted hue ⊢
  obtain ⟨v, heffect⟩ := ueEffect_lpddr_frame t g o y
  have hend := passed_tallied (.lpddr g o) pass (ueEffect t (.lpddr g o) y)
  refine ⟨fun hpass => ?_, ?_, ?_, ?_⟩
  · rw [hpass]
    exact passed_lpddr g o (by rw [heffect, hcounted.frame, hlogged.frame, hevent.frame])
  · rw [hend.reg_eq, heffect]
    exact hue.trans (by rw [hlogged.reg_eq, hevent.reg_eq])
  · rw [hend.frame, heffect]
    exact mem_insertAsc.mpr (.inl rfl)
  · rw [hend.frame, heffect, hcounted.frame, hlogged.frame, hevent.frame]

end

/-- Settles O60, by what each outcome of a check, and each command of the counters, leaves. -/
theorem monitoringCommandsRun : Obligations.MonitoringCommandsRun := by
  unfold Obligations.MonitoringCommandsRun
  refine ⟨fun s p flips dropped pass h => ?_, fun s c a flips dropped pass h => ?_, fun s g o flips dropped pass h => ?_,
    fun s n v hreach => ⟨fun hdef => ?_, fun hundef => ?_⟩, fun s hreach => ⟨fun on => ?_, ?_⟩, fun s n => ⟨fun hheld => ?_, fun hlive hsel => ?_⟩⟩
  · exact congrArg done (by simp [checkWord, h])
  · refine ⟨_, congrArg done (checkWord_eq flips dropped pass h), ?_⟩
    have hin := scratchpad_in_range h
    simp only [placeData]
    cases eccRead (Nat.xor (eccStore (spNat s c a 8)) (flips % 2 ^ 72)) with
    | good d => exact scratchpad_good s c a dropped pass d hin
    | corrected d y => exact scratchpad_corrected s c a dropped pass d y hin
    | bad y => exact scratchpad_bad s c a pass y
  · refine ⟨_, congrArg done (checkWord_eq flips dropped pass h), ?_⟩
    simp only [placeData]
    cases eccRead (Nat.xor (eccStore (ldNat s g o 8)) (flips % 2 ^ 72)) with
    | good d => exact lpddr_good s g o dropped pass d
    | corrected d y => exact lpddr_corrected s g o dropped pass d y
    | bad y => exact lpddr_bad s g o pass y
  · refine ⟨_, (exec_evtSel s n v).trans ((host_running _ hreach).trans (congrArg done (evtSelect_defined hdef))), rfl, ?_, ?_, ?_, fun m hm => ?_⟩
    · refine (reg_setReg_self ..).trans (Nat.mod_eq_of_lt ?_)
      have := Nat.mod_lt (v : Nat) (show 0 < 2 ^ 24 by decide)
      omega
    · exact (RegsKept.refl s _).after_setReg (by simp) _
    · exact tget_tset_self (fun _ => 0) s.evt.cnt n 0
    · exact tget_tset_ne (fun _ => 0) s.evt.cnt 0 hm
  · exact (exec_evtSel s n v).trans ((host_running _ hreach).trans (congrArg done (evtSelect_undefined hundef)))
  · refine ⟨_, (exec_evtFreeze s on).trans (host_running _ hreach), ?_, ?_, ?_⟩
    · cases on <;> rfl
    · cases on
      · exact regBit_clearBits_two_pow s _ (by decide)
      · exact regBit_setBits _ _ (by decide) (by decide)
    · cases on
      · exact (RegsKept.refl s _).after_clearBits (by simp) _
      · exact (RegsKept.refl s _).after_setBits (by simp) _
  · obtain ⟨_, hkept, hovf⟩ := ovfCleared s
    exact ⟨_, (exec_evtClear s).trans (host_running _ hreach), rfl, hkept, hovf, fun _ => rfl⟩
  · refine congrArg done ?_
    rcases hheld with h | h <;> simp [evtWrap, h]
  · have hrun : evtWrap s n = evtAdd (setCounter s n (2 ^ 48 - 1)) n 1 := by simp [evtWrap, hlive, hsel]
    exact ⟨_, congrArg done hrun, evtAdd_last s n.isLt⟩

end Sys2Proof.Proofs
end

section
/-!
SUPPORT. The commands of the token store (spec/13_rerank_pack.md, R255): what a command that takes effect changes, its codes, and the theorem that settles
their obligation.
-/
namespace Sys2Proof.Laws

open Sys2Proof.Machine

/-- `t` is `s` after work on the token store: LPDDR with its poison and the segments a rejoin marks, and the replaced blocks. -/
structure StoreWork (s t : State) : Prop where
  frame : t = { s with lpddr := t.lpddr, poison := t.poison, twin := t.twin, assets := { s.assets with tsOld := t.assets.tsOld } }
  journals : journals t = journals s

section
variable {s t u : State}

theorem StoreWork.refl (s : State) : StoreWork s s := ⟨rfl, rfl⟩

theorem StoreWork.trans (h : StoreWork s t) (g : StoreWork t u) : StoreWork s u :=
  ⟨g.frame.trans (by rw [h.frame]), g.journals.trans h.journals⟩

theorem storeWork_ldWrite (s : State) (g o : Nat) (bs : List Byte) : StoreWork s (ldWrite s g o bs) := ⟨rfl, journals_ldWrite s g o bs⟩

theorem storeWork_releaseOld (s : State) : StoreWork s (releaseOld s) := ⟨rfl, rfl⟩

theorem storeWork_tsPut {g b : Nat} {bytes : List Byte} (h : tsPut s g b bytes = some t) : StoreWork s t := by
  have hreplaced (l : List (Nat × Nat × Nat)) : StoreWork s { s with assets := { s.assets with tsOld := l } } := ⟨rfl, rfl⟩
  simp only [tsPut, Option.map_eq_some_iff] at h
  obtain ⟨a, _, rfl⟩ := h
  refine StoreWork.trans (StoreWork.trans ?_ (storeWork_ldWrite _ _ _ _)) (storeWork_ldWrite _ _ _ _)
  split
  · exact hreplaced _
  · exact .refl s

theorem storeWork_tsPutAll {g b : Nat} {l : List (List Byte)} (h : tsPutAll g b l s = some t) : StoreWork s t := by
  induction l generalizing b s with
  | nil =>
    obtain rfl := Option.some.inj h
    exact .refl s
  | cons x l ih =>
    obtain ⟨v, hput, hrest⟩ := Option.bind_eq_some_iff.mp h
    exact (storeWork_tsPut hput).trans (ih hrest)

/-- The outcomes of a store command on a sealed module: it takes effect with code 0, or it is refused and nothing changes. -/
theorem tsRun_cases (hsealed : isSealed s = true) (op : Nat) (batch : List Byte) :
    (∃ t, tsRun s op batch = (t, 0) ∧ StoreWork s t) ∨ ∃ c, tsRun s op batch = (s, c) ∧ 3 ≤ c ∧ c ≤ 6 := by
  unfold tsRun
  dsimp only
  rw [if_neg (by simp [hsealed])]
  split
  · split
    · exact .inr ⟨4, rfl, by decide⟩
    · split
      · exact .inr ⟨6, rfl, by decide⟩
      · exact .inl ⟨_, rfl, storeWork_ldWrite s _ _ _⟩
  · split
    · exact .inr ⟨4, rfl, by decide⟩
    · split
      · exact .inr ⟨4, rfl, by decide⟩
      · split
        · exact .inr ⟨3, rfl, by decide⟩
        · split
          · exact .inr ⟨5, rfl, by decide⟩
          · next hput => exact .inl ⟨_, rfl, (storeWork_tsPutAll hput).trans (storeWork_releaseOld _)⟩

/-- INIT of a whole rank table into a store without a block. -/
theorem tsRun_init (hsealed : isSealed s = true) {batch : List Byte} (hlen : batch.length = 65280)
    (hempty : ∀ b, b < tsDir s (descRegion (fetchDesc s)) → tsBlock s (descRegion (fetchDesc s)) b = none) :
    tsRun s 1 batch = (ldWrite s (descRegion (fetchDesc s)) 0 batch, 0) := by
  have hnone : ((List.range (tsDir s (descRegion (fetchDesc s)))).any fun b => (tsBlock s (descRegion (fetchDesc s)) b).isSome) = false := by
    rw [List.any_eq_false]
    intro b hb
    simp [hempty b (List.mem_range.mp hb)]
  simp [tsRun, hsealed, hlen, hnone]

/-- On a module that journals nothing a store command ends as it takes effect. -/
theorem tsStart_silent (hsilent : journals s = false) {op : Nat} {batch : List Byte} (hrun : StoreWork s (tsRun s op batch).1) :
    tsStart s op batch = tsEnd (tsRun s op batch).1 (tsRun s op batch).2 := by
  unfold tsStart
  dsimp only
  rw [Proofs.journal_silent (hrun.journals.trans hsilent)]

/-- TS_CMD with no store command busy or held. -/
theorem tsCmd_free (hbusy : s.assets.tsBusy = none) (hheld : isHeld s 3 = false) (hholds : holdsCommands s = false)
    (hin : reg64 s Reg.TS_SRC_OFFSET + reg64 s Reg.TS_SRC_LEN ≤ bar4Size) (op : Nat) :
    tsCmd s op = tsStart s op (stagingRead s (reg64 s Reg.TS_SRC_OFFSET) (reg64 s Reg.TS_SRC_LEN)) := by
  simp [tsCmd, hbusy, hheld, hholds, Nat.not_lt.mpr hin]

theorem tsCmd_busy (hbusy : s.assets.tsBusy.isSome = true) (op : Nat) : tsCmd s op = protocol s 0x0005 Reg.TS_CMD 1 := by
  simp [tsCmd, hbusy, busyWrite]

/-- A store command that took effect ends with code 0. -/
theorem tsEnd_done (s : State) : tsEnd s 0 = setReg { s with assets := { s.assets with tsBusy := none } } Reg.TS_RESULT 0 := by
  simp [tsEnd]

/-- A refused store command counts and raises TS_REFUSED. -/
theorem tsEnd_refused (s : State) {c : Nat} (hlo : 3 ≤ c) : tsEnd s c = setBits
    (bump (setReg { s with assets := { s.assets with tsBusy := none } } Reg.TS_RESULT c) Reg.TS_CNT_REFUSED) Reg.RR_INT_STATUS 4 := by
  simp [tsEnd, show 1 < c by omega]

end

end Sys2Proof.Laws

namespace Sys2Proof.Proofs

open Sys2Proof Sys2Proof.Machine Sys2Proof.Laws

theorem exec_ts (s : State) {op : Nat} (h : op = 1 ∨ op = 2) :
    exec (if op = 1 then .tsInit else .tsWrite) s = host s Reg.TS_CMD (tsCmd · op) := by
  rcases h with rfl | rfl <;> rfl

/-- A refused command: what its end leaves. -/
theorem tsEnd_refusal {s : State} {c : Nat} (hbusy : s.assets.tsBusy = none) (hlo : 3 ≤ c) (hhi : c ≤ 6) : let u := tsEnd s c
    u = { s with regs := u.regs, evt := u.evt } ∧ reg u Reg.TS_RESULT = c ∧ regBit u Reg.RR_INT_STATUS 2 = true
      ∧ reg u Reg.TS_CNT_REFUSED = min (reg s Reg.TS_CNT_REFUSED + 1) 0xFFFFFFFF
      ∧ RegsKept s u [Reg.TS_RESULT, Reg.TS_CNT_REFUSED, Reg.RR_INT_STATUS] := by
  have hidle : { s with assets := { s.assets with tsBusy := none } } = s := by rw [← hbusy]
  rw [tsEnd_refused s hlo, hidle]
  have hall : Tallied [Reg.TS_RESULT, Reg.TS_CNT_REFUSED, Reg.RR_INT_STATUS] s
      (setBits (bump (setReg s Reg.TS_RESULT c) Reg.TS_CNT_REFUSED) Reg.RR_INT_STATUS 4) :=
    (((Tallied.refl _ s).setReg c).bump).setBits 4
  refine ⟨hall.frame, ?_, regBit_setBits _ _ (by decide) (by decide), ?_, hall.kept⟩
  · rw [reg_setBits_ne _ _ (by decide), reg_bump _ _ _ (by decide), if_neg (by decide), reg_setReg_self]
    exact Nat.mod_eq_of_lt (by omega)
  · rw [reg_setBits_ne _ _ (by decide), reg_bump_self _ (by decide), reg_setReg_ne _ _ (by decide)]

/-- Settles O38, by the outcomes of a store command. -/
theorem tokenStoreCommandsRun : Obligations.TokenStoreCommandsRun := by
  unfold Obligations.TokenStoreCommandsRun
  refine ⟨fun s hreach hbusy hheld hholds hsilent hsealed => ?_, fun s hreach hbusy c hc => ?_⟩
  · intro o n g batch hin
    have hstart (op : Nat) : tsCmd s op = tsStart s op batch := tsCmd_free hbusy hheld hholds hin op
    have hlen : batch.length = n := memRead_length ..
    refine ⟨fun hn hempty => ?_, fun op hop => ?_⟩
    · have hrun : tsRun s 1 batch = (ldWrite s g 0 batch, 0) := tsRun_init hsealed (hlen.trans hn) hempty
      have hend : tsStart s 1 batch = tsEnd (ldWrite s g 0 batch) 0 := by
        rw [tsStart_silent hsilent (by rw [hrun]; exact storeWork_ldWrite ..), hrun]
      refine ⟨_, (exec_ts s (.inl rfl)).trans ((host_running _ hreach).trans (congrArg done ((hstart 1).trans (hend.trans (tsEnd_done _))))),
        rfl, ?_, fun x hx => ?_, reg_setReg_self .., fun a ha hl => reg_setReg_ne _ _ (by simpa using hl)⟩
      · have hread := memRead_memWrite_self s.lpddr (ldKey g 0) batch
        rwa [hlen, hn] at hread
      · exact (memByte_memWrite s.lpddr (ldKey g 0) batch x).trans (dif_neg (by rw [hlen, hn]; simp only [ldKey] at hx ⊢; omega))
    · intro r
      rcases tsRun_cases hsealed op batch with ⟨t, hrun, hwork⟩ | ⟨c, hrun, hlo, hhi⟩
      · have hend : tsStart s op batch = tsEnd t 0 := by
          rw [tsStart_silent hsilent (by rw [hrun]; exact hwork), hrun]
        refine ⟨_, (exec_ts s hop).trans ((host_running _ hreach).trans (congrArg done ((hstart op).trans (hend.trans (tsEnd_done _))))), ?_⟩
        simp only [r, hrun]
        refine ⟨?_, .inl trivial, by simp, reg_setReg_self .., by simp, fun a _ hl => ?_⟩
        · rw [hwork.frame, hbusy]
          rfl
        · have hne : a ≠ Reg.TS_RESULT := by
            rintro rfl
            simp at hl
          rw [reg_setReg_ne _ _ hne, hwork.frame]
          rfl
      · have hend : tsStart s op batch = tsEnd s c := by
          rw [tsStart_silent hsilent (by rw [hrun]; exact .refl s), hrun]
        obtain ⟨hframe, hresult, hraised, hcount, hkept⟩ := tsEnd_refusal hbusy hlo hhi
        refine ⟨_, (exec_ts s hop).trans ((host_running _ hreach).trans (congrArg done ((hstart op).trans hend))), ?_⟩
        simp only [r, hrun]
        exact ⟨hframe, by omega, fun _ => trivial, hresult, fun _ => ⟨hraised, hcount⟩, hkept⟩
  · have hexec : exec c s = host s Reg.TS_CMD (tsCmd · 1) ∨ exec c s = host s Reg.TS_CMD (tsCmd · 2) := by
      simp only [List.mem_cons, List.not_mem_nil, or_false] at hc
      rcases hc with rfl | rfl
      · exact .inl rfl
      · exact .inr rfl
    rcases hexec with h | h
    · exact h.trans ((host_running _ hreach).trans (congrArg done (tsCmd_busy hbusy 1)))
    · exact h.trans ((host_running _ hreach).trans (congrArg done (tsCmd_busy hbusy 2)))

end Sys2Proof.Proofs
end

section
/-!
SUPPORT. Masks and sampled tokens (spec/12_text_grammar.md, spec/14_serving.md): what the lines that the text and grammar units read leave of the state, that
a sampled token is one of the allowed ones, and the theorem that settles their obligation.
-/
namespace Sys2Proof.Laws

open Sys2Proof.Machine

/-! ## The vocabulary cache (R236) -/

/-- The words that count accesses to the vocabulary cache. -/
def cacheWords : List Nat := [Reg.VC_CNT_HIT, Reg.VC_CNT_MISS]

/-- `t` is `s` after lines were read through the vocabulary cache. No item falls short while nothing is poisoned. -/
structure LinesRead (s t : State) : Prop where
  frame : t = { s with regs := t.regs, evt := t.evt, text := t.text, credits := t.credits, steps := t.steps }
  kept : RegsKept s t cacheWords
  clean : s.poison = [] → t.steps = s.steps

namespace LinesRead

variable {s t u : State}

theorem refl (s : State) : LinesRead s s := ⟨rfl, RegsKept.refl s _, fun _ => rfl⟩

theorem trans (h : LinesRead s t) (g : LinesRead t u) : LinesRead s u :=
  ⟨g.frame.trans (by rw [h.frame]), h.kept.trans g.kept, fun hs => (g.clean (by rw [h.frame]; exact hs)).trans (h.clean hs)⟩

theorem foldl {β : Type} {f : State → β → State} (h : ∀ t x, LinesRead t (f t x)) (l : List β) (s : State) : LinesRead s (l.foldl f s) :=
  List.foldlRecOn l f (refl s) fun t ht x _ => ht.trans (h t x)

theorem of_tallied (h : Tallied cacheWords s t) : LinesRead s t := ⟨by rw [h.frame], h.kept, fun _ => by rw [h.frame]⟩

theorem of_text (s : State) (x : TextSt) : LinesRead s { s with text := x } := ⟨rfl, fun _ _ _ => rfl, fun _ => rfl⟩

theorem of_charge (s : State) (i die g o : Nat) : LinesRead s (chargeOne s i die g o) := by
  have hcredits (k : Tab Int) : LinesRead s { s with credits := k } := ⟨rfl, fun _ _ _ => rfl, fun _ => rfl⟩
  have hevent (t : State) (e : Nat) : LinesRead t (event t 4 e (some i) (some die) 1) := .of_tallied ((Tallied.refl _ t).event ..)
  unfold chargeOne
  dsimp only
  split
  · exact hcredits _
  · split
    · exact hevent s 3
    · exact (hcredits _).trans (hevent _ 2)

end LinesRead

theorem readsPoison_none {s : State} (h : s.poison = []) (g o n : Nat) : readsPoison s g o n = false := by simp [readsPoison, h]

theorem linesRead_cacheLine (s : State) (e line : Nat) : LinesRead s (cacheLine s e line) := by
  have hbump (t : State) {a : Nat} (ha : a ∈ cacheWords) : LinesRead t (bump t a) := .of_tallied ((Tallied.refl _ t).bump ha)
  have hmiss (t : State) (i g o : Nat) : LinesRead t (event (chargeOne (bump t Reg.VC_CNT_MISS) i 0 g o) 4 4 (some i) (some 0) 1) :=
    ((hbump t (by simp [cacheWords])).trans (.of_charge _ i 0 g o)).trans (.of_tallied ((Tallied.refl _ _).event ..))
  unfold cacheLine
  dsimp only
  split
  · exact (LinesRead.of_text s _).trans (hbump _ (by simp [cacheWords]))
  · split
    · split
      · next hbad =>
        -- a poisoned line: not kept in the cache, and the item falls short
        refine ⟨?_, ?_, fun hs => absurd hbad (by simp [readsPoison_none hs])⟩
        · rw [loseItems, (hmiss s _ _ _).frame]
        · exact (hmiss s _ _ _).kept
      · exact (LinesRead.of_text s _).trans (hmiss _ _ _ _)
    · split
      · exact hbump s (by simp [cacheWords])
      · exact (LinesRead.of_text s _).trans (hbump _ (by simp [cacheWords]))

theorem linesRead_cacheSpans (s : State) (e a ver : Nat) (spans : List (Nat × Nat)) : LinesRead s (cacheSpans s e a ver spans) := by
  unfold cacheSpans
  split
  · exact .refl s
  · refine LinesRead.foldl (fun t p => ?_) _ _
    dsimp only
    split
    · exact .refl t
    · exact LinesRead.foldl (fun u i => linesRead_cacheLine u e _) _ _

theorem linesRead_cacheVoc (s : State) (e v : Nat) (ts : List Nat) : LinesRead s (cacheVoc s e v ts) := by
  unfold cacheVoc
  split
  · exact linesRead_cacheSpans ..
  · exact .refl s

theorem linesRead_cacheStack (s : State) (e n : Nat) : LinesRead s (cacheStack s e n) := by
  unfold cacheStack
  split
  · exact .refl s
  · split
    · exact .refl s
    · exact LinesRead.foldl (fun u i => linesRead_cacheLine u e _) _ _

theorem linesRead_tokenLines (s : State) (e t : Nat) : LinesRead s (tokenLines s e t) := by
  have hvoc := linesRead_cacheVoc s e (seqOf s e).vset [t]
  unfold tokenLines
  dsimp only
  split
  · exact (hvoc.trans (linesRead_cacheSpans ..)).trans (linesRead_cacheStack ..)
  · exact hvoc

theorem seqOf_congr {s t : State} (h : t.serve = s.serve) (e : Nat) : seqOf t e = seqOf s e := by rw [seqOf, seqOf, h]

theorem decodeLost_congr {s t : State} (hbond : t.bond = s.bond) (hsteps : t.steps = s.steps) (e : Nat) : decodeLost t e = decodeLost s e := by
  simp only [decodeLost, decodeOf, hbond, hsteps]

theorem LinesRead.seqOf_eq {s t : State} (h : LinesRead s t) (e : Nat) : seqOf t e = seqOf s e := seqOf_congr (by rw [h.frame]) e

theorem LinesRead.decodeLost_eq {s t : State} (h : LinesRead s t) (hs : s.poison = []) (e : Nat) : decodeLost t e = decodeLost s e :=
  decodeLost_congr (by rw [h.frame]) (h.clean hs) e

@[simp] theorem seqOf_setSeq_self (s : State) (e : Nat) (q : SeqEntry) : seqOf (setSeq s e q) e = q := tget_tset_self (fun _ => SeqEntry.reset) _ e q

theorem seqOf_setSeq_ne (s : State) {e j : Nat} (q : SeqEntry) (h : j ≠ e) : seqOf (setSeq s e q) j = seqOf s j :=
  tget_tset_ne (fun _ => SeqEntry.reset) _ q h

theorem seqOf_bumpBy (s : State) (a k e : Nat) : seqOf (bumpBy s a k) e = seqOf s e := by
  obtain ⟨r, v, h⟩ := bumpBy_frame s a k
  exact seqOf_congr (by rw [h]) e

theorem seqOf_bump (s : State) (a e : Nat) : seqOf (bump s a) e = seqOf s e := seqOf_bumpBy s a 1 e

/-! ## Masks (R246) -/

theorem pairwise_buildMask (r v : Rd) (q : Nat) (st : List Nat) : (buildMask r v q st).Pairwise (· < ·) := List.pairwise_lt_range.filter _

theorem lt_of_mem_buildMask {r v : Rd} {q t : Nat} {st : List Nat} (h : t ∈ buildMask r v q st) : t < rdN r 12 4 :=
  List.mem_range.mp (List.mem_filter.mp h).1

/-- The lines that MASK_BUILD of entry `e` reads. -/
def maskLines (s : State) (e : Nat) : State :=
  let q := seqOf s e
  let s2 := cacheSpans s e (gtGrammar q.genText) (versionIn s q.vset (gtGrammar q.genText))
    (maskSpans (gramRd s q) (vocRd s q.vset) q.gstate q.gstack.reverse)
  let s3 := cacheVoc s2 e q.vset ((gramCd (gramRd s q) q.gstate).map (·.1))
  if gramCd (gramRd s q) q.gstate = [] then s3 else cacheStack s3 e q.gstack.reverse.length

theorem linesRead_maskLines (s : State) (e : Nat) : LinesRead s (maskLines s e) := by
  have hvoc := (linesRead_cacheSpans s e (gtGrammar (seqOf s e).genText) (versionIn s (seqOf s e).vset (gtGrammar (seqOf s e).genText))
    (maskSpans (gramRd s (seqOf s e)) (vocRd s (seqOf s e).vset) (seqOf s e).gstate (seqOf s e).gstack.reverse)).trans
      (linesRead_cacheVoc _ e (seqOf s e).vset ((gramCd (gramRd s (seqOf s e)) (seqOf s e).gstate).map (·.1)))
  unfold maskLines
  dsimp only
  split
  · exact hvoc
  · exact hvoc.trans (linesRead_cacheStack ..)

theorem maskBuild_eq (s : State) (e : Nat) : maskBuild s e = if decodeLost (maskLines s e) e then maskLines s e
    else bump (setSeq (maskLines s e) e { seqOf s e with
      mask := some (buildMask (gramRd s (seqOf s e)) (vocRd s (seqOf s e).vset) (seqOf s e).gstate (seqOf s e).gstack.reverse) }) Reg.GRAM_CNT_MASKS := rfl

/-! ## The token of a row (R290 to R292) -/

theorem forall_mem_fst_ite {p : Prop} [Decidable p] {a b : List SelEntry × Nat} {l : List SelEntry} (ha : ∀ x ∈ a.1, x ∈ l)
    (hb : ∀ x ∈ b.1, x ∈ l) : ∀ x ∈ (if p then a else b).1, x ∈ l := by
  split
  · exact ha
  · exact hb

/-- What a pass under UNIQUE keeps comes from its items. -/
theorem mem_of_mem_uniquePass {cap : Nat} {last : Option SelEntry} {emitted : List Nat} {items : List SelEntry} {x : SelEntry}
    (h : x ∈ (uniquePass cap last emitted items).1) : x ∈ items := by
  suffices hall : ∀ x ∈ (uniquePass cap last emitted items).1, x ∈ items from hall x h
  refine List.foldlRecOn (motive := fun acc : List SelEntry × Nat => ∀ x ∈ acc.1, x ∈ items) items _ (by simp) fun acc hacc e he => ?_
  have hinserted : ∀ x ∈ (selInsert e acc.1).take cap, x ∈ items := fun x hx => by
    rcases List.mem_cons.mp ((selInsert_perm e acc.1).mem_iff.mp (List.mem_of_mem_take hx)) with rfl | hx
    · exact he
    · exact hacc x hx
  exact forall_mem_fst_ite hacc (forall_mem_fst_ite hacc hinserted)

theorem mem_of_mem_uniquePasses {items out : List SelEntry} {n : Nat} {x : SelEntry} (h : x ∈ (uniquePasses items n out).1) :
    x ∈ out ∨ x ∈ items := by
  induction n generalizing out with
  | zero => exact .inl h
  | succ n ih =>
    rcases ih h with h | h
    · rcases List.mem_append.mp h with h | h
      · exact .inl h
      · exact .inr (mem_of_mem_uniquePass h)
    · exact .inr h

/-- An entry of a top-K run under UNIQUE is one of its items. -/
theorem mem_of_mem_topk {k nans : Nat} {all : List SelEntry} {x : SelEntry} (h : x ∈ (topk true k all nans).1.entries) : x ∈ all := by
  have hunique : x ∈ (uniqueTopk k (all.filter SelEntry.isValid)).1 := h
  refine (List.mem_filter.mp (?_ : x ∈ all.filter SelEntry.isValid)).1
  unfold uniqueTopk at hunique
  split at hunique
  · exact mem_of_mem_uniquePass hunique
  · rcases mem_of_mem_uniquePasses (List.mem_of_mem_take hunique) with h | h
    · exact absurd h (by simp)
    · exact h

theorem mem_of_pickAt {r acc t : Nat} {l : List (Nat × Nat)} (h : pickAt r acc l = some t) : t ∈ l.map (·.1) := by
  induction l generalizing acc with
  | nil => simp [pickAt] at h
  | cons p l ih =>
    unfold pickAt at h
    split at h
    · simp [(Option.some.inj h).symm]
    · exact List.mem_cons_of_mem _ (ih h)

theorem mem_of_mem_cutTopP {num den all acc : Nat} {l : List (Nat × Nat)} {p : Nat × Nat} (h : p ∈ cutTopP num den all acc l) : p ∈ l := by
  induction l generalizing acc with
  | nil => simp [cutTopP] at h
  | cons x l ih =>
    unfold cutTopP at h
    split at h
    · rw [List.mem_singleton.mp h]
      exact List.mem_cons_self
    · rcases List.mem_cons.mp h with h | h
      · exact List.mem_cons.mpr (.inl h)
      · exact List.mem_cons_of_mem _ (ih h)

/-- A candidate is one of the tokens of the row. -/
theorem mem_of_mem_candidates {q : SeqEntry} {zs : List (Nat × Nat)} {p : Nat × Nat} (h : p ∈ candidates q zs) : p.1 ∈ zs.map (·.1) := by
  have htops (ref : Bool × Int) (ids : List Nat)
      (hp : p ∈ ids.filterMap fun t => (zs.find? fun p => p.1 = t).map fun p => (t, weightOf ref p.2)) : p.1 ∈ zs.map (·.1) := by
    obtain ⟨t, _, ht⟩ := List.mem_filterMap.mp hp
    obtain ⟨z, hz, rfl⟩ := Option.map_eq_some_iff.mp ht
    have heq : z.1 = t := by simpa using List.find?_some hz
    exact List.mem_map.mpr ⟨z, List.mem_of_find?_eq_some hz, heq⟩
  unfold candidates at h
  dsimp only at h
  split at h
  · obtain ⟨z, hz, rfl⟩ := List.mem_map.mp h
    exact List.mem_map.mpr ⟨z, hz, rfl⟩
  · exact htops _ _ h
  · split at h
    · exact htops _ _ (mem_of_mem_cutTopP h)
    · exact htops _ _ h

/-- The token of a row is one of the row's tokens. -/
theorem mem_of_sampleRow {q : SeqEntry} {free t : Nat} {al : List (Nat × Nat)} (h : sampleRow q free al = some t) : t ∈ al.map (·.1) := by
  unfold sampleRow at h
  split at h
  · obtain ⟨x, hx, rfl⟩ := Option.map_eq_some_iff.mp h
    obtain ⟨p, hp, rfl⟩ := List.mem_map.mp (mem_of_mem_topk (List.mem_of_head? hx))
    exact List.mem_map.mpr ⟨p, hp, rfl⟩
  · have hcandidate {p : Nat × Nat} (hp : p ∈ candidates q (al.map fun p => (p.1, zCode q.temperature p.2))) : p.1 ∈ al.map (·.1) := by
      simpa using mem_of_mem_candidates hp
    dsimp only at h
    split at h
    · next x hpick =>
      obtain rfl := Option.some.inj h
      obtain ⟨p, hp, rfl⟩ := List.mem_map.mp (mem_of_pickAt hpick)
      exact hcandidate hp
    · obtain ⟨p, hp, rfl⟩ := Option.map_eq_some_iff.mp h
      exact hcandidate (List.mem_of_getElem? hp)

/-! ## A token is taken (R242, R279) -/

/-- `r` is the entry `q` but for its blocks and its place in the tree. -/
def SeqEntry.TreeOnly (q r : SeqEntry) : Prop :=
  r = { q with nodes := r.nodes, tailNode := r.tailNode, blocks := r.blocks, shared := r.shared }

theorem seqOf_insertBlock (s : State) (e i : Nat) : SeqEntry.TreeOnly (seqOf s e) (seqOf (insertBlock s e i) e) := by
  unfold insertBlock
  dsimp only
  split
  · rw [seqOf_bump, seqOf_setSeq_self]
    rfl
  · rw [seqOf_setSeq_self]
    rfl

theorem seqOf_insertFull (s : State) (e n : Nat) : SeqEntry.TreeOnly (seqOf s e) (seqOf (insertFull s e n) e) := by
  induction n generalizing s with
  | zero => exact rfl
  | succ n ih =>
    unfold insertFull
    dsimp only
    split
    · have hblock := seqOf_insertBlock s e (seqOf s e).nodes.length
      have hrest := ih (insertBlock s e (seqOf s e).nodes.length)
      exact hrest.trans (by rw [hblock])
    · exact rfl

/-- The entry after a token is taken, its place in the tree apart. -/
theorem seqOf_takeToken (s : State) (e t : Nat) : SeqEntry.TreeOnly { seqOf s e with
    ctxLen := (seqOf s e).ctxLen + 1, genCount := (seqOf s e).genCount + 1, lastToken := t, tokens := (seqOf s e).tokens ++ [t]
    journalled := (seqOf s e).journalled + 1, mask := none, listed := false } (seqOf (takeToken s e t) e) := by
  have hfull := seqOf_insertFull (setSeq s e { seqOf s e with
    ctxLen := (seqOf s e).ctxLen + 1, genCount := (seqOf s e).genCount + 1, lastToken := t, tokens := (seqOf s e).tokens ++ [t]
    journalled := (seqOf s e).journalled + 1, mask := none, listed := false }) e 1
  rw [seqOf_setSeq_self] at hfull
  unfold takeToken
  dsimp only
  rw [seqOf_bump]
  exact hfull

/-- The state in which a sampled token is taken: the free value is used up, and a clamped argument marks the entry (R135). -/
def drawn (s : State) (e clamped : Nat) : State :=
  match decodeOf s e with
  | some i => if clamped = 0 then tick s else markItem (arith (tick s) i 0 { sat := clamped }) 8 e
  | none => tick s

theorem drawn_entry (s : State) (e clamped : Nat) : (drawn s e clamped).fresh = s.fresh + 1
    ∧ seqOf (drawn s e clamped) e = { seqOf s e with inexact := (seqOf (drawn s e clamped) e).inexact } := by
  unfold drawn
  split
  · split
    · exact ⟨rfl, rfl⟩
    · next i _ _ =>
      obtain ⟨r, v, l, h⟩ := Proofs.arith_frame (tick s) i 0 { sat := clamped }
      have hmarked : seqOf (markItem (arith (tick s) i 0 { sat := clamped }) 8 e) e = { seqOf s e with inexact := true } := by
        rw [h]
        exact tget_tset_self (fun _ => SeqEntry.reset) _ e _
      refine ⟨by rw [h]; rfl, ?_⟩
      rw [hmarked]
  · exact ⟨rfl, rfl⟩

end Sys2Proof.Laws

namespace Sys2Proof.Proofs

open Sys2Proof Sys2Proof.Machine Sys2Proof.Laws

section
variable {s : State} {e : EntryNo} {logits : List Nat}

/-- MASK_BUILD where it applies. -/
theorem exec_maskBuild (hmode : (seqOf s e).mode = .ready) (hgrammar : (seqOf s e).grammar = true) (hmask : (seqOf s e).mask = none)
    (hlate : (seqOf s e).maskLate = false) (hunit : (unitSt s 5 0).mode = .available) : exec (.maskBuild e) s = done (maskBuild s e) := by
  show execMaskBuild e s = _
  simp [execMaskBuild, hmode, hgrammar, hmask, hlate, hunit]

/-- SAMPLE_TOKEN where it applies. -/
theorem exec_sampleToken (hmode : (seqOf s e).mode = .ready) (hlisted : (seqOf s e).listed = true) (hlost : decodeLost s e = false)
    (hgen : s.twin.genStop = false) : exec (.sampleToken e logits) s = done (endPending (sampleToken s e logits) e) := by
  show execSampleToken e logits s = _
  simp [execSampleToken, hmode, hlisted, hlost, hgen]

end

section
variable {s : State} {e : Nat} {logits : List Nat}

theorem sampleToken_sits (hgrammar : (seqOf s e).grammar = true) (h : (seqOf s e).mask = none ∨ (seqOf s e).maskLate = true) :
    sampleToken s e logits = sitOut s e := by
  rw [sampleToken]
  exact if_pos ⟨hgrammar, h⟩

/-- A sequence that is under no grammar, or has its mask, does not sit out. -/
theorem not_sits (h : (seqOf s e).grammar = true → (seqOf s e).mask ≠ none ∧ (seqOf s e).maskLate = false) :
    ¬((seqOf s e).grammar = true ∧ ((seqOf s e).mask = none ∨ (seqOf s e).maskLate = true)) := by
  rintro ⟨hgrammar, hout⟩
  obtain ⟨hmask, hlate⟩ := h hgrammar
  rcases hout with hout | hout
  · exact hmask hout
  · simp [hlate] at hout

theorem sampleToken_dead (hgrammar : (seqOf s e).grammar = true) (hmask : (seqOf s e).mask = some []) (hlate : (seqOf s e).maskLate = false) :
    sampleToken s e logits = endNoToken s e 0x04 (gramStateWord (seqOf s e)) := by
  rw [sampleToken, if_neg (not_sits fun _ => ⟨by simp [hmask], hlate⟩), if_pos ⟨hgrammar, hmask⟩]

variable (hmask : (seqOf s e).grammar = true → (seqOf s e).mask ≠ none ∧ (seqOf s e).maskLate = false ∧ (seqOf s e).mask ≠ some [])
include hmask

/-- A row that is sampled: NaN ends the sequence, else its token is taken. -/
theorem sampleToken_row : let q := seqOf s e
    let al := allowedLogits (if q.grammar then q.mask else none) logits
    sampleToken s e logits = if al.any fun p => isNan32 p.2 then endNoToken s e 0x07 0
      else match sampleRow q s.fresh al with
        | none => s
        | some t => if decodeLost (tokenLines s e t) e then tokenLines s e t
            else tokenText (takeToken (drawn (tokenLines s e t) e (clampedArgs q al)) e t) e t := by
  have hnot : ¬((seqOf s e).grammar = true ∧ (seqOf s e).mask = some []) := fun h => (hmask h.1).2.2 h.2
  rw [sampleToken, if_neg (not_sits fun h => ⟨(hmask h).1, (hmask h).2.1⟩), if_neg hnot]
  rfl

theorem sampleToken_nan (h : ∃ p ∈ allowedLogits (if (seqOf s e).grammar then (seqOf s e).mask else none) logits, isNan32 p.2 = true) :
    sampleToken s e logits = endNoToken s e 0x07 0 := by
  rw [sampleToken_row hmask]
  exact if_pos (List.any_eq_true.mpr h)

theorem sampleToken_token {t : Nat}
    (h : ∀ p ∈ allowedLogits (if (seqOf s e).grammar then (seqOf s e).mask else none) logits, isNan32 p.2 = false)
    (ht : sampleRow (seqOf s e) s.fresh (allowedLogits (if (seqOf s e).grammar then (seqOf s e).mask else none) logits) = some t) :
    sampleToken s e logits = if decodeLost (tokenLines s e t) e then tokenLines s e t
      else tokenText (takeToken (drawn (tokenLines s e t) e
        (clampedArgs (seqOf s e) (allowedLogits (if (seqOf s e).grammar then (seqOf s e).mask else none) logits))) e t) e t := by
  have hany : ¬((allowedLogits (if (seqOf s e).grammar then (seqOf s e).mask else none) logits).any fun p => isNan32 p.2) = true := fun hn => by
    obtain ⟨p, hp, hnan⟩ := List.any_eq_true.mp hn
    simp [h p hp] at hnan
  rw [sampleToken_row hmask, if_neg hany, ht]

end

theorem sitOut_facts (s : State) (e : Nat) : let u := sitOut s e
    u = { s with regs := u.regs, evt := u.evt, serve := u.serve }
      ∧ seqOf u e = { seqOf s e with skips := min ((seqOf s e).skips + 1) 0xFFFF, listed := false, maskLate := false }
      ∧ (∀ j, j ≠ e → seqOf u j = seqOf s j)
      ∧ reg u Reg.GRAM_CNT_MASK_LATE = min (reg s Reg.GRAM_CNT_MASK_LATE + 1) 0xFFFFFFFF
      ∧ RegsKept s u [Reg.GRAM_CNT_MASK_LATE, Reg.TEXT_INT_STATUS] := by
  let t := setSeq s e { seqOf s e with skips := min ((seqOf s e).skips + 1) 0xFFFF, listed := false, maskLate := false }
  have hcount : Tallied [Reg.GRAM_CNT_MASK_LATE, Reg.TEXT_INT_STATUS] t (sitOut s e) := ((Tallied.refl _ t).bump).setBits 8
  have hserve : (sitOut s e).serve = t.serve := by rw [hcount.frame]
  refine ⟨hcount.frame.trans (by rw [hserve]; rfl), ?_, fun j hj => ?_, ?_, hcount.kept⟩
  · exact (seqOf_congr hserve e).trans (seqOf_setSeq_self ..)
  · exact (seqOf_congr hserve j).trans (seqOf_setSeq_ne s _ hj)
  · exact (reg_setBits_ne _ _ (by decide)).trans (reg_bump_self t (by decide))

theorem maskBuild_facts {s : State} {e : Nat} : let q := seqOf s e
    let m := buildMask (gramRd s q) (vocRd s q.vset) q.gstate q.gstack.reverse
    let u := maskBuild s e
    u = { s with regs := u.regs, evt := u.evt, text := u.text, credits := u.credits, serve := u.serve, steps := u.steps }
      ∧ (∀ j, j ≠ e → seqOf u j = seqOf s j)
      ∧ (decodeLost u e = false → seqOf u e = { q with mask := some m }
          ∧ reg u Reg.GRAM_CNT_MASKS = min (reg s Reg.GRAM_CNT_MASKS + 1) 0xFFFFFFFF)
      ∧ (decodeLost u e = true → seqOf u e = q ∧ reg u Reg.GRAM_CNT_MASKS = reg s Reg.GRAM_CNT_MASKS)
      ∧ (s.poison = [] → decodeLost u e = decodeLost s e ∧ u.steps = s.steps) := by
  intro q m
  have hlines := linesRead_maskLines s e
  have hreg : reg (maskLines s e) Reg.GRAM_CNT_MASKS = reg s Reg.GRAM_CNT_MASKS := hlines.kept _ (by decide) (by decide)
  rw [maskBuild_eq]
  split
  · next hlost =>
    exact ⟨by rw [hlines.frame], fun j _ => hlines.seqOf_eq j, fun h => absurd hlost (by simp [h]), fun _ => ⟨hlines.seqOf_eq e, hreg⟩,
      fun hs => ⟨hlines.decodeLost_eq hs e, hlines.clean hs⟩⟩
  · next hread =>
    have hread : decodeLost (maskLines s e) e = false := by simpa using hread
    obtain ⟨r, v, hbump⟩ := bump_frame (setSeq (maskLines s e) e { q with mask := some m }) Reg.GRAM_CNT_MASKS
    have hlost : decodeLost (bump (setSeq (maskLines s e) e { q with mask := some m }) Reg.GRAM_CNT_MASKS) e = decodeLost (maskLines s e) e :=
      decodeLost_congr (by rw [hbump]; rfl) (by rw [hbump]; rfl) e
    refine ⟨by rw [hbump, setSeq, hlines.frame], fun j hj => ?_, fun _ => ⟨?_, ?_⟩, fun h => ?_, fun hs => ⟨?_, ?_⟩⟩
    · rw [seqOf_bump, seqOf_setSeq_ne _ _ hj, hlines.seqOf_eq]
    · rw [seqOf_bump, seqOf_setSeq_self]
    · rw [reg_bump_self _ (by decide)]
      exact congrArg (fun n => min (n + 1) 0xFFFFFFFF) hreg
    · rw [hlost, hread] at h
      exact absurd h (by decide)
    · rw [hlost, hlines.decodeLost_eq hs]
    · rw [hbump]
      exact hlines.clean hs

/-- Settles O40: what the lines read leave, that a drawn token is allowed, and what taking it leaves of its entry. -/
theorem masksAreBuiltAndTokensSampled : Obligations.MasksAreBuiltAndTokensSampled := by
  unfold Obligations.MasksAreBuiltAndTokensSampled
  refine ⟨fun s e hmode hgrammar hmask hlate hunit => ?_, fun s e logits hmode hlisted hlost hgen => ?_, fun s e h => ?_, fun s e c hending hmode => ?_⟩
  · intro q m
    obtain ⟨hframe, hothers, hbuilt, hshort, hclean⟩ := maskBuild_facts (s := s) (e := e)
    exact ⟨_, exec_maskBuild hmode hgrammar hmask hlate hunit, hframe, hothers, pairwise_buildMask .., fun t => lt_of_mem_buildMask, hbuilt,
      hshort, hclean⟩
  · intro q al
    have hexec := exec_sampleToken (logits := logits) hmode hlisted hlost hgen
    refine ⟨fun hgrammar hsits => ?_, fun hgrammar hmask hlate => ?_, fun hmask => ⟨fun hnan => ?_, fun hgood t ht => ?_⟩⟩
    · rw [sampleToken_sits hgrammar hsits] at hexec
      exact ⟨_, hexec, sitOut_facts s e⟩
    · rw [sampleToken_dead hgrammar hmask hlate] at hexec
      exact hexec
    · rw [sampleToken_nan hmask hnan] at hexec
      exact hexec
    · have hlines := linesRead_tokenLines s e t
      rw [sampleToken_token hmask hgood ht] at hexec
      refine ⟨hlines.seqOf_eq e, fun hs => (hlines.decodeLost_eq hs e).trans hlost, fun hshort => ?_, fun hread => ?_⟩
      · rw [if_pos hshort] at hexec
        exact hexec
      · rw [if_neg (by simp [hread])] at hexec
        obtain ⟨hfresh, hentry⟩ := drawn_entry (tokenLines s e t) e (clampedArgs q al)
        have htaken := seqOf_takeToken (drawn (tokenLines s e t) e (clampedArgs q al)) e t
        rw [hlines.seqOf_eq] at hentry
        refine ⟨drawn (tokenLines s e t) e (clampedArgs q al), hexec, mem_of_sampleRow ht, hfresh.trans (by rw [hlines.frame]), hentry, ?_⟩
        rw [htaken, hentry]
        exact ⟨rfl, rfl, rfl, rfl, rfl, rfl⟩
  · rw [endPending]
    rcases h with h | h
    · rw [h]
    · split
      · rw [if_neg h]
      · rfl
  · rw [endPending, hending]
    exact if_pos hmode

end Sys2Proof.Proofs
end

section
/-!
SUPPORT. Pins, cancels and the window of the sequence table (spec/14_serving.md, R281, R296, R300), and the theorem that settles their obligation.
-/
namespace Sys2Proof.Laws

open Sys2Proof.Machine

/-! ## Numbers read from bytes -/

theorem leNat_lt (bs : List Byte) : leNat bs < 256 ^ bs.length := by
  induction bs with
  | nil => simp [leNat]
  | cons b bs ih =>
    have hb : b.toNat < 256 := b.isLt
    rw [leNat, List.length_cons, Nat.pow_succ]
    omega

theorem le_lt (bs : List Byte) (o n : Nat) : le bs o n < 256 ^ n := by
  have hlen : (slice bs o n).length ≤ n := by
    rw [slice, List.length_take]
    exact Nat.min_le_left ..
  exact Nat.lt_of_lt_of_le (leNat_lt _) (Nat.pow_le_pow_right (by decide) hlen)

/-! ## A run of register words -/

/-- Words written in order at the addresses that `A` gives. -/
def setRegs (A v : Nat → Nat) (s : State) (n : Nat) : State := (List.range n).foldl (fun s' i => setReg s' (A i) (v i)) s

section
variable {A : Nat → Nat} (v : Nat → Nat) (s : State)

theorem setRegs_succ (n : Nat) : setRegs A v s (n + 1) = setReg (setRegs A v s n) (A n) (v n) := by
  simp [setRegs, List.range_succ, List.foldl_append]

theorem setRegs_frame (n : Nat) : setRegs A v s n = { s with regs := (setRegs A v s n).regs } := by
  induction n with
  | zero => rfl
  | succ n ih =>
    rw [setRegs_succ, ih]
    rfl

theorem reg_setRegs_ne (n : Nat) {a : Nat} (h : ∀ i, i < n → a ≠ A i) : reg (setRegs A v s n) a = reg s a := by
  induction n with
  | zero => rfl
  | succ n ih => rw [setRegs_succ, reg_setReg_ne _ _ (h n (Nat.lt_succ_self n)), ih fun i hi => h i (Nat.lt_succ_of_lt hi)]

theorem reg_setRegs (hA : Function.Injective A) {n i : Nat} (h : i < n) : reg (setRegs A v s n) (A i) = v i % 2 ^ 32 := by
  induction n with
  | zero => exact absurd h (by omega)
  | succ n ih =>
    rw [setRegs_succ]
    by_cases hi : i = n
    · rw [hi, reg_setReg_self]
    · rw [reg_setReg_ne _ _ fun hEq => hi (hA hEq), ih (by omega)]

end

/-! ## Pins (R281) -/

/-- Each pin of a path: one more, or one less, at every node on it that is in the tree. -/
def pinned (up : Bool) (n : Nat) (x : Node) : Node := { x with pins := if up then x.pins + n else x.pins - n }

section
variable (s : State) (up : Bool)

theorem nodeOf_setNode_self (i : Nat) (x : Option Node) : nodeOf (setNode s i x) i = x := tget_tset_self (fun _ => none) _ i x

theorem nodeOf_setNode_ne {i j : Nat} (x : Option Node) (h : j ≠ i) : nodeOf (setNode s i x) j = nodeOf s j := tget_tset_ne (fun _ => none) _ x h

/-- One place of a path is pinned. -/
def pinOne (i : Nat) : State :=
  match nodeOf s i with
  | some x => setNode s i (some { x with pins := if up then x.pins + 1 else x.pins - 1 })
  | none => s

theorem pinOne_frame (i : Nat) : pinOne s up i = { s with serve := { s.serve with nodes := (pinOne s up i).serve.nodes } } := by
  unfold pinOne
  split <;> rfl

theorem nodeOf_pinOne (i j : Nat) : nodeOf (pinOne s up i) j = (nodeOf s j).map (pinned up (if i = j then 1 else 0)) := by
  have hnone (o : Option Node) : o.map (pinned up 0) = o := by
    cases o
    case none => rfl
    case some x => cases up <;> rfl
  unfold pinOne
  by_cases hij : i = j
  · subst hij
    cases hnode : nodeOf s i with
    | none => simp [hnode]
    | some x => simp [nodeOf_setNode_self, pinned]
  · rw [if_neg hij, hnone]
    split
    · exact nodeOf_setNode_ne s _ (Ne.symm hij)
    · rfl

theorem pinPath_cons (i : Nat) (l : List Nat) : pinPath s up (i :: l) = pinPath (pinOne s up i) up l := rfl

theorem pinPath_frame (l : List Nat) : pinPath s up l = { s with serve := { s.serve with nodes := (pinPath s up l).serve.nodes } } := by
  induction l generalizing s with
  | nil => rfl
  | cons i l ih =>
    rw [pinPath_cons, ih (pinOne s up i), pinOne_frame s up i]

theorem pinned_pinned (m n : Nat) (x : Node) : pinned up m (pinned up n x) = pinned up (n + m) x := by
  cases up
  · simp [pinned, Nat.sub_sub]
  · simp [pinned, Nat.add_assoc]

theorem nodeOf_pinPath (l : List Nat) (j : Nat) : nodeOf (pinPath s up l) j = (nodeOf s j).map (pinned up (l.count j)) := by
  induction l generalizing s with
  | nil =>
    cases hnode : nodeOf s j with
    | none => exact hnode
    | some x => exact hnode.trans (congrArg some (by cases up <;> rfl))
  | cons i l ih =>
    rw [pinPath_cons, ih, nodeOf_pinOne, Option.map_map]
    refine congrArg (Option.map · (nodeOf s j)) (funext fun x => ?_)
    rw [Function.comp, pinned_pinned, List.count_cons]
    by_cases hij : i = j
    · simp [hij, Nat.add_comm]
    · simp [hij]

end

/-- PT_PIN within its limit, or at it. -/
theorem pinNode_eq (s : State) (n : Nat) : pinNode s n = if reg s Reg.PT_PIN_MAX
      < pinnedNodes s + ((ancestry s 768 n).filter fun i => decide ((nodeOf s i).map (·.pins) = some 0)).length
    then (setBits s Reg.SERVE_INT_STATUS 8, false) else (pinPath s true (ancestry s 768 n), true) := by
  unfold pinNode
  dsimp only
  rw [List.filter_congr (q := fun i => decide ((nodeOf s i).map (·.pins) = some 0)) ?_]
  intro i _
  cases nodeOf s i <;> simp

/-! ## Cancels (R296) -/

theorem cancelRun_silent {s : State} (hsilent : journals s = false) {seq : Nat} {role : Bool} {r : Req}
    (hr : reqOf s (reqKey seq role) = some r) :
    cancelRun s seq role = (setReq s (reqKey seq role) (some { r with cancelled := some (r.cancelled.getD (now s)) }), none) := by
  have hstill (x : Option Req) : journals (setReq s (reqKey seq role) x) = false := hsilent
  unfold cancelRun
  dsimp only
  rw [hr]
  dsimp only
  rw [journalFor, if_neg (by simp [hstill])]
  cases r.cancelled <;> rfl

end Sys2Proof.Laws

namespace Sys2Proof.Proofs

open Sys2Proof Sys2Proof.Machine Sys2Proof.Laws

theorem exec_ptPin (s : State) : exec .ptPin s = host s Reg.PT_PIN_CMD ptPin := rfl

theorem exec_ptUnpin (s : State) : exec .ptUnpin s = host s Reg.PT_PIN_CMD ptUnpin := rfl

theorem exec_serveCancel (s : State) (role : Bool) : exec (.serveCancel role) s = host s Reg.SERVE_CANCEL_CMD (serveCancel · role) := rfl

theorem exec_serveWinSnapshot (s : State) (e : EntryNo) : exec (.serveWinSnapshot e) s = host s Reg.SERVE_WIN_INDEX (winSnapshot · e) := rfl

section
variable {s : State}

/-- A path pinned or unpinned with result 0: what changes. -/
theorem pinPath_result (s : State) (up : Bool) (l : List Nat) : let u := pinResult (pinPath s up l) 0
    u = { s with
      regs := u.regs
      serve := { s.serve with nodes := u.serve.nodes } }
      ∧ reg u Reg.PT_PIN_RESULT = 0 ∧ RegsKept s u [Reg.PT_PIN_RESULT]
      ∧ ∀ i, nodeOf u i = (nodeOf s i).map (pinned up (l.count i)) := by
  have hframe := pinPath_frame s up l
  refine ⟨?_, reg_setReg_self .., fun a _ ha => ?_, nodeOf_pinPath s up l⟩
  · exact (show pinResult (pinPath s up l) 0 = { pinPath s up l with regs := (pinResult (pinPath s up l) 0).regs } from rfl).trans
      (by rw [hframe]; rfl)
  · exact (reg_setReg_ne _ _ (by simpa using ha)).trans (by rw [hframe]; rfl)

theorem ptPin_within {p : Nat × Node} (hnode : nodeByKey s (reg64 s Reg.PT_PIN_KEY) = some p)
    (h : pinnedNodes s + ((ancestry s 768 p.1).filter fun i => decide ((nodeOf s i).map (·.pins) = some 0)).length ≤ reg s Reg.PT_PIN_MAX) :
    ptPin s = pinResult (pinPath s true (ancestry s 768 p.1)) 0 := by
  simp only [ptPin, hnode, pinNode_eq, if_neg (Nat.not_lt.mpr h), if_true]

theorem ptPin_limit {p : Nat × Node} (hnode : nodeByKey s (reg64 s Reg.PT_PIN_KEY) = some p)
    (h : reg s Reg.PT_PIN_MAX < pinnedNodes s + ((ancestry s 768 p.1).filter fun i => decide ((nodeOf s i).map (·.pins) = some 0)).length) :
    ptPin s = pinResult (setBits s Reg.SERVE_INT_STATUS 8) 3 := by
  simp only [ptPin, hnode, pinNode_eq, if_pos h, Bool.false_eq_true, if_false]

theorem no_register_cancel (hfree : ∀ c ∈ s.serve.cancels, c.origin ≠ none) : ¬(s.serve.cancels.any fun c => c.origin.isNone) = true := fun h => by
  obtain ⟨c, hc, horigin⟩ := List.any_eq_true.mp h
  exact hfree c hc (Option.isNone_iff_eq_none.mp horigin)

variable {role : Bool} (hfree : ∀ c ∈ s.serve.cancels, c.origin ≠ none)
include hfree

theorem serveCancel_refused {c : Nat} (hc : cancelCheck' s (reqKey (reg s Reg.SERVE_CANCEL_SEQ) role) (fun _ => true) = c) (h : c ≠ 0) :
    serveCancel s role = setReg s Reg.SERVE_CANCEL_RESULT c := by
  rw [serveCancel, if_neg (no_register_cancel hfree)]
  dsimp only
  rw [hc, if_pos h]

theorem serveCancel_stamps (hsilent : journals s = false) {r : Req} (hr : reqOf s (reqKey (reg s Reg.SERVE_CANCEL_SEQ) role) = some r)
    (hshadow : r.shadow = false) (hended : r.ended = false) : serveCancel s role
      = setReg (setReq s (reqKey (reg s Reg.SERVE_CANCEL_SEQ) role) (some { r with cancelled := some (r.cancelled.getD (now s)) }))
        Reg.SERVE_CANCEL_RESULT 0 := by
  have hc : cancelCheck' s (reqKey (reg s Reg.SERVE_CANCEL_SEQ) role) (fun _ => true) = 0 := by simp [cancelCheck', hr, hshadow, hended]
  rw [serveCancel, if_neg (no_register_cancel hfree)]
  dsimp only
  rw [hc, if_neg (by simp), cancelRun_silent hsilent hr]

end

theorem winSnapshot_eq (s : State) (e : Nat) :
    winSnapshot s e = setRegs Reg.SERVE_WIN (fun i => le (seqOf s e).toBytes (4 * i) 4) (setReg s Reg.SERVE_WIN_INDEX e) 32 := rfl

theorem serveWin_injective : Function.Injective Reg.SERVE_WIN := fun i j h => by
  simp only [Reg.SERVE_WIN] at h
  omega

/-- Settles O43, command by command. -/
theorem pinsCancelsAndWindowsOfSequences : Obligations.PinsCancelsAndWindowsOfSequences := by
  unfold Obligations.PinsCancelsAndWindowsOfSequences
  refine ⟨fun s hreach hnone c hc => ?_, fun s p hreach hnode => ?_, fun s role hreach hsilent hfree => ?_, fun s e hreach => ?_⟩
  · simp only [List.mem_cons, List.not_mem_nil, or_false] at hc
    rcases hc with rfl | rfl
    · exact (exec_ptPin s).trans ((host_running _ hreach).trans (congrArg done (by simp [ptPin, hnone, pinResult])))
    · exact (exec_ptUnpin s).trans ((host_running _ hreach).trans (congrArg done (by simp [ptUnpin, hnone, pinResult])))
  · have hpin := (exec_ptPin s).trans (host_running _ hreach)
    have hunpin := (exec_ptUnpin s).trans (host_running _ hreach)
    refine ⟨fun hwithin => ?_, fun hlimit => ?_, fun hpins => ?_, fun hpins => ?_⟩
    · exact ⟨_, hpin.trans (congrArg done (ptPin_within hnode hwithin)), pinPath_result s true _⟩
    · have hraised : Tallied [Reg.PT_PIN_RESULT, Reg.SERVE_INT_STATUS] s (pinResult (setBits s Reg.SERVE_INT_STATUS 8) 3) :=
        ((Tallied.refl _ s).setBits 8).setReg 3
      refine ⟨_, hpin.trans (congrArg done (ptPin_limit hnode hlimit)), rfl, reg_setReg_self .., ?_, hraised.kept⟩
      rw [regBit, pinResult, reg_setReg_ne _ _ (by decide)]
      exact regBit_setBits _ _ (by decide) (by decide)
    · have hrun : ptUnpin s = pinResult (pinPath s false (ancestry s 768 p.1)) 0 := by simp [ptUnpin, hnode, Nat.pos_iff_ne_zero.mp hpins]
      exact ⟨_, hunpin.trans (congrArg done hrun), pinPath_result s false _⟩
    · exact hunpin.trans (congrArg done (by simp [ptUnpin, hnode, hpins, pinResult]))
  · intro k
    have hcancel := (exec_serveCancel s role).trans (host_running _ hreach)
    refine ⟨fun hother => ?_, fun r hr hshadow => ⟨fun hended => ?_, fun hended => ?_⟩⟩
    · refine hcancel.trans (congrArg done (serveCancel_refused hfree ?_ (by decide)))
      rcases hother with hnone | ⟨r, hr, hshadow⟩
      · simp [cancelCheck', show reqOf s (reqKey (reg s Reg.SERVE_CANCEL_SEQ) role) = none from hnone]
      · simp [cancelCheck', show reqOf s (reqKey (reg s Reg.SERVE_CANCEL_SEQ) role) = some r from hr, hshadow]
    · refine hcancel.trans (congrArg done (serveCancel_refused hfree ?_ (by decide)))
      simp [cancelCheck', show reqOf s (reqKey (reg s Reg.SERVE_CANCEL_SEQ) role) = some r from hr, hshadow, hended]
    · refine ⟨_, hcancel.trans (congrArg done (serveCancel_stamps hfree hsilent hr hshadow hended)), rfl, reg_setReg_self ..,
        fun a _ ha => reg_setReg_ne _ _ (by simpa using ha), ?_, fun j hj => ?_⟩
      · exact reqOf_setReq_self _ _ _
      · exact reqOf_setReq_ne _ _ _ hj
  · refine ⟨_, (exec_serveWinSnapshot s e).trans ((host_running _ hreach).trans (congrArg done (winSnapshot_eq s e))), ?_, ?_, fun i hi => ?_,
      fun a _ ha => ?_⟩
    · exact setRegs_frame _ _ _
    · have hother : ∀ i, i < 32 → Reg.SERVE_WIN_INDEX ≠ Reg.SERVE_WIN i := fun i hi => by
        simp only [Reg.SERVE_WIN_INDEX, Reg.SERVE_WIN]
        omega
      rw [reg_setRegs_ne _ _ _ hother, reg_setReg_self]
      exact Nat.mod_eq_of_lt (Nat.lt_of_lt_of_le e.isLt (by decide))
    · rw [reg_setRegs _ _ serveWin_injective hi]
      exact Nat.mod_eq_of_lt (le_lt ..)
    · have hne : a ≠ Reg.SERVE_WIN_INDEX := fun h => ha (by simp [h])
      have hwin : ∀ i, i < 32 → a ≠ Reg.SERVE_WIN i := fun i hi h => ha (List.mem_cons_of_mem _ (List.mem_map.mpr ⟨i, List.mem_range.mpr hi, h.symm⟩))
      rw [reg_setRegs_ne _ _ _ hwin, reg_setReg_ne _ _ hne]

end Sys2Proof.Proofs
end

section
/-!
SUPPORT. Admission and the drain (spec/15_admission_energy.md, R304 to R308, R317): the boundary that an examination takes, what refusing every queued request
leaves, powered-down groups, and the theorem that settles their obligation.
-/
namespace Sys2Proof.Laws

open Sys2Proof.Machine

/-! ## The boundaries of an examination (R306) -/

/-- Whether a boundary passes every test. -/
def Tests.passes (ok : Bool) (t : Tests) : Bool := ok && t.slot && t.energy && t.deadline

section
variable {ok : Bool} {tests : Nat → Tests} {l : List Nat}

theorem tryBounds_cons (b : Nat) : tryBounds ok tests (b :: l)
    = if Tests.passes ok (tests b) = true then [tests b] else tests b :: tryBounds ok tests l := rfl

/-- A boundary examined is one of those given. -/
theorem mem_of_mem_tryBounds {x : Tests} (h : x ∈ tryBounds ok tests l) : ∃ b ∈ l, x = tests b := by
  induction l with
  | nil => simp [tryBounds] at h
  | cons b l ih =>
    rw [tryBounds_cons] at h
    split at h
    · exact ⟨b, List.mem_cons_self, List.mem_singleton.mp h⟩
    · rcases List.mem_cons.mp h with h | h
      · exact ⟨b, List.mem_cons_self, h⟩
      · obtain ⟨c, hc, hx⟩ := ih h
        exact ⟨c, List.mem_cons_of_mem _ hc, hx⟩

/-- The examination stops at the first boundary that passes: no two of those examined do. -/
theorem eq_of_passes {x y : Tests} (hx : x ∈ tryBounds ok tests l) (hy : y ∈ tryBounds ok tests l) (hpx : Tests.passes ok x = true)
    (hpy : Tests.passes ok y = true) : x = y := by
  induction l with
  | nil => simp [tryBounds] at hx
  | cons b l ih =>
    rw [tryBounds_cons] at hx hy
    split at hx
    · next hb =>
      rw [if_pos hb] at hy
      exact (List.mem_singleton.mp hx).trans (List.mem_singleton.mp hy).symm
    · next hb =>
      rw [if_neg hb] at hy
      rcases List.mem_cons.mp hx with rfl | hx
      · exact absurd hpx hb
      · rcases List.mem_cons.mp hy with rfl | hy
        · exact absurd hpy hb
        · exact ih hx hy

end

/-- The deadline that an examination holds a request to. -/
def deadlineOf (s : State) (r : Req) : Nat := r.deadline.getD (addBeats r.arrival (reg s Reg.ADMIT_DEADLINE_DEFAULT))

/-- The tests that the examination of a head makes. -/
def examination (s : State) (r : Req) : List Tests :=
  tryBounds (resourcesFree s r) (testsAt s r (deadlineOf s r) (entryBoundary s (now s)))
    ((List.range (bits (reg s Reg.ADMIT_DEFER_MAX) 7 0 + 1)).map fun j => entryBoundary s (now s) + j * (planOf s).period)

/-- The verdict when no boundary passes every test. -/
def verdictRefused (s : State) (r : Req) : Verdict :=
  match (examination s r).find? fun x => resourcesFree s r && x.slot && x.energy with
  | some x => .refuse 0x13 x.instant
  | none =>
    if deadlineOf s r < addBeats (now s) (frontL s) then .refuse 0x13 0
    else if (examination s r).any fun x => resourcesFree s r && x.slot && !x.energy then .refuse 0x11 0
    else if deficitOf s r.account < 0 then .refuse 0x10 0
    else .hold

theorem verdict_fst (s : State) (r : Req) : (verdict s r).1
    = match (examination s r).find? (Tests.passes (resourcesFree s r)) with
      | some x => .take x (decide (x.at_ ≠ entryBoundary s (now s)))
      | none => verdictRefused s r := by
  unfold verdict verdictRefused examination deadlineOf
  cases r.deadline <;> rfl

theorem verdict_snd (s : State) (r : Req) : (verdict s r).2 = (examination s r).map (·.at_) := by
  unfold verdict examination deadlineOf
  cases r.deadline <;> rfl

theorem verdictRefused_cases (s : State) (r : Req) :
    verdictRefused s r = .hold ∨ ∃ c p, verdictRefused s r = .refuse c p ∧ (c = 0x10 ∨ c = 0x11 ∨ c = 0x13) := by
  unfold verdictRefused
  split
  · exact .inr ⟨_, _, rfl, by decide⟩
  · split
    · exact .inr ⟨_, _, rfl, by decide⟩
    · split
      · exact .inr ⟨_, _, rfl, by decide⟩
      · split
        · exact .inr ⟨_, _, rfl, by decide⟩
        · exact .inl rfl

/-- A refusal's code. -/
theorem verdict_refuse_code {s : State} {r : Req} {c p : Nat} (h : (verdict s r).1 = .refuse c p) : c = 0x10 ∨ c = 0x11 ∨ c = 0x13 := by
  rw [verdict_fst] at h
  split at h
  · cases h
  · rcases verdictRefused_cases s r with hr | ⟨c', p', hr, hcode⟩
    · rw [hr] at h
      cases h
    · rw [hr] at h
      obtain ⟨rfl, _⟩ := Verdict.refuse.inj h
      exact hcode

/-- A boundary that is taken is among those examined and passes. -/
theorem verdict_take {s : State} {r : Req} {t : Tests} {deferred : Bool} (h : (verdict s r).1 = .take t deferred) :
    t ∈ examination s r ∧ Tests.passes (resourcesFree s r) t = true ∧ deferred = decide (t.at_ ≠ entryBoundary s (now s)) := by
  rw [verdict_fst] at h
  split at h
  · next x hfind =>
    obtain ⟨rfl, rfl⟩ := Verdict.take.inj h
    exact ⟨List.mem_of_find?_eq_some hfind, List.find?_some hfind, rfl⟩
  · rcases verdictRefused_cases s r with hr | ⟨c, p, hr, _⟩
    · rw [hr] at h
      cases h
    · rw [hr] at h
      cases h

/-- The slots that a request may use: none beyond the plan's (R307). -/
theorem testsAt_slot {s : State} {r : Req} {d e b : Nat} (h : (testsAt s r d e b).slot = true) :
    (boundOf s b).used < (planOf s).slots ∧ (boundOf s b).own < ownSlots s := by
  simp only [testsAt, Bool.and_eq_true, decide_eq_true_eq] at h
  obtain ⟨hused, hown⟩ := h
  refine ⟨?_, hown⟩
  split at hused <;> omega

/-! ## Refusing what is queued (R305, R307) -/

/-- `t` is `s` after refusals: registers, event counters, what has left the block, the host port and the pod ports. -/
def Refusals (s t : State) : Prop := ∃ r e m h p, t = { s with regs := r, evt := e, emitted := m, host := h, pod := p }

theorem Refusals.refl (s : State) : Refusals s s := ⟨_, _, _, _, _, rfl⟩

theorem Refusals.trans {s t u : State} (h : Refusals s t) (g : Refusals t u) : Refusals s u := by
  obtain ⟨r, e, m, x, p, rfl⟩ := h
  obtain ⟨r', e', m', x', p', rfl⟩ := g
  exact ⟨r', e', m', x', p', rfl⟩

theorem refusals_setBits (s : State) (a m : Nat) : Refusals s (setBits s a m) := ⟨_, _, _, _, _, rfl⟩

theorem refusals_bump (s : State) (a : Nat) : Refusals s (bump s a) := by
  obtain ⟨r, e, h⟩ := bump_frame s a
  exact ⟨r, e, _, _, _, h⟩

theorem refuse_frame (s : State) (r : Req) (code planned : Nat) : Refusals s (refuse s r code planned) := by
  have hentry : Refusals s (admitEntry s r.origin 0xFFFFFFFF s.twin.role (admitReport code r.account ((now s - r.arrival) / 65536) planned (now s))) := by
    obtain ⟨g, e, m, h, p, hframe⟩ := answer_frame s r.origin 0x01 0xFFFFFFFF
      (admitReport code r.account ((now s - r.arrival) / 65536) planned (now s) ++ natLE 8 r.origin.tag ++ natLE 1 (roleBit s.twin.role))
    exact ⟨g, e, m, h, p, hframe⟩
  unfold refuse
  dsimp only
  split
  · exact (hentry.trans (refusals_bump _ _)).trans (refusals_setBits _ _ _)
  · exact (hentry.trans (refusals_bump _ _)).trans (refusals_setBits _ _ _)
  · exact (hentry.trans (refusals_bump _ _)).trans (refusals_setBits _ _ _)
  · exact hentry.trans (refusals_bump _ _)

theorem refuseAll_frame (s : State) (code : Nat) : ∃ a, Refusals { s with adm := a } (refuseAll s code) :=
  ⟨_, List.foldlRecOn (motive := Refusals _) _ _ (Refusals.refl _) fun _ ht r _ => ht.trans (refuse_frame _ r code 0)⟩

/-- With nothing queued nothing is refused. -/
theorem refuseAll_none {s : State} (h : s.adm.queues = []) (code : Nat) : refuseAll s code = s := by
  simp only [refuseAll, h, List.flatMap_nil, List.foldl_nil]
  rw [← h]

/-- A canonical table of queues that are all empty has no entry. -/
theorem queues_of_empty {s : State} (hempty : ∀ a, queueOf s a = []) (hwf : twf (fun _ => []) s.adm.queues = true) : s.adm.queues = [] := by
  cases hq : s.adm.queues with
  | nil => rfl
  | cons p l =>
    have hhead := hempty p.1
    rw [queueOf, hq, tget, if_pos rfl] at hhead
    rw [hq] at hwf
    simp [twf, twfFrom, hhead] at hwf

/-! ## Groups that are powered down (R148, R317, R443) -/

/-- `t` is `s` after groups were powered down: cores, scratchpads and units. -/
structure PoweredDown (s t : State) : Prop where
  frame : t = { s with cores := t.cores, scratch := t.scratch, topo := t.topo }
  units : t.topo = { s.topo with units := t.topo.units }
  cores : ∀ c, Machine.core s c = Core.reset → Machine.core t c = Core.reset

namespace PoweredDown

variable {s t u : State}

theorem refl (s : State) : PoweredDown s s := ⟨rfl, rfl, fun _ h => h⟩

theorem trans (h : PoweredDown s t) (g : PoweredDown t u) : PoweredDown s u :=
  ⟨g.frame.trans (by rw [h.frame]), g.units.trans (by rw [h.units]), fun c hc => g.cores c (h.cores c hc)⟩

theorem foldl {β : Type} {f : State → β → State} (h : ∀ t x, PoweredDown t (f t x)) (l : List β) (s : State) : PoweredDown s (l.foldl f s) :=
  List.foldlRecOn l f (refl s) fun t ht x _ => ht.trans (h t x)

theorem setUnit (s : State) (cls i : Nat) (x : UnitSt) : PoweredDown s (setUnit s cls i x) := ⟨rfl, rfl, fun _ h => h⟩

end PoweredDown

theorem core_setCore_reset (s : State) (c d : Nat) (h : Machine.core s d = Core.reset ∨ d = c) : Machine.core (setCore s c Core.reset) d = Core.reset := by
  by_cases hd : d = c
  · rw [hd]
    exact core_setCore_self s c _
  · exact (coresKept_setCore s c _ d hd).trans (h.resolve_right hd)

theorem poweredDown_core (s : State) (c : Nat) : PoweredDown s (spForget (setCore s c Core.reset) c) :=
  ⟨rfl, rfl, fun d h => core_setCore_reset s c d (.inl h)⟩

theorem poweredDown_darkGroup (s : State) (g : Nat) : PoweredDown s (darkGroup s g) :=
  PoweredDown.foldl (f := fun s' c => spForget (setCore s' c Core.reset) c) poweredDown_core _ s

/-- Every core that is visited stands at its reset. -/
theorem core_foldl_dark {l : List Nat} {c : Nat} (hc : c ∈ l) (s : State) :
    Machine.core (l.foldl (fun s' c => spForget (setCore s' c Core.reset) c) s) c = Core.reset := by
  induction l generalizing s with
  | nil => simp at hc
  | cons d l ih =>
    rcases List.mem_cons.mp hc with rfl | hc
    · exact (PoweredDown.foldl poweredDown_core l _).cores c (core_setCore_reset s c c (.inr rfl))
    · exact ih hc _

theorem core_darkGroup (s : State) {g c : Nat} (h : c / 64 = g) : Machine.core (darkGroup s g) c = Core.reset :=
  core_foldl_dark (List.mem_map.mpr ⟨c % 64, List.mem_range.mpr (Nat.mod_lt _ (by decide)), by omega⟩) s

theorem poweredDown_settleUnit (s : State) (cls g : Nat) (live : Bool) : PoweredDown s (settleUnit s cls g live) := by
  unfold settleUnit
  split
  · exact .refl s
  · exact .setUnit ..

/-- One group is powered down. -/
theorem poweredDown_group (s : State) (g : Nat) : PoweredDown s (settleUnit (settleUnit (darkGroup s g) 0 g false) 1 g false) :=
  ((poweredDown_darkGroup s g).trans (poweredDown_settleUnit ..)).trans (poweredDown_settleUnit ..)

theorem poweredDown_darkAll (s : State) : PoweredDown s (darkAll s) := PoweredDown.foldl poweredDown_group _ s

theorem core_darkAll {s : State} {g c : Nat} (hg : g ∈ unitsOf s 0) (h : c / 64 = g) : Machine.core (darkAll s) c = Core.reset := by
  suffices hall : ∀ (l : List Nat) (t : State), g ∈ l →
      Machine.core (l.foldl (fun s' g => settleUnit (settleUnit (darkGroup s' g) 0 g false) 1 g false) t) c = Core.reset from hall _ s hg
  intro l
  induction l with
  | nil => simp
  | cons k l ih =>
    intro t hmem
    rcases List.mem_cons.mp hmem with rfl | hmem
    · have hdark := ((poweredDown_settleUnit (darkGroup t g) 0 g false).trans (poweredDown_settleUnit _ 1 g false)).cores c (core_darkGroup t h)
      rw [List.foldl_cons]
      exact (PoweredDown.foldl poweredDown_group l _).cores c hdark
    · exact ih _ hmem

theorem poweredDown_raiseEpoch (s : State) (cls i : Nat) : PoweredDown s (raiseEpoch s cls i) := by
  unfold raiseEpoch
  dsimp only
  split
  · exact .refl s
  · exact .setUnit ..

theorem poweredDown_bumpPowered (s : State) : PoweredDown s (bumpPowered s) :=
  PoweredDown.foldl (fun t c => PoweredDown.foldl (fun u i => poweredDown_raiseEpoch u c i) _ t) _ s

theorem PoweredDown.exists_frame {s t : State} (h : PoweredDown s t) : ∃ c x u, t = { s with cores := c, scratch := x, topo := u } :=
  ⟨_, _, _, h.frame⟩

/-- Groups powered down before and after the thermal state changed. -/
theorem PoweredDown.drained {s p t : State} {e : EnergySt} (h : PoweredDown s p) (g : PoweredDown { p with energy := e } t) :
    ∃ c x u, t = { s with cores := c, scratch := x, topo := u, energy := e } := by
  obtain ⟨c, x, u, rfl⟩ := h.exists_frame
  obtain ⟨c', x', u', rfl⟩ := g.exists_frame
  exact ⟨c', x', u', rfl⟩

theorem PoweredDown.groups_eq {s t : State} (h : PoweredDown s t) : unitsOf t 0 = unitsOf s 0 := by
  have hfuse : t.topo.fuseGroups = s.topo.fuseGroups := by rw [h.units]
  have henabled (d : Nat) : enabledGroups t d = enabledGroups s d := List.filter_congr fun g _ => by rw [groupEnabled, groupEnabled, hfuse]
  simp only [unitsOf, henabled]

end Sys2Proof.Laws

namespace Sys2Proof.Proofs

open Sys2Proof Sys2Proof.Machine Sys2Proof.Laws

theorem exec_drainComplete (s : State) : exec .drainComplete s = done (drainComplete s) := rfl

/-- The module after it entered DRAINED. -/
theorem enterDrained_facts (s : State) : let u := enterDrained s
    u = { s with
        regs := u.regs, cores := u.cores, scratch := u.scratch, topo := u.topo
        energy := { s.energy with thermal := .drained } }
      ∧ regBit u Reg.ENERGY_INT_STATUS 3 = true ∧ RegsKept s u [Reg.ENERGY_INT_STATUS]
      ∧ ∀ g ∈ unitsOf s 0, ∀ c, c / 64 = g → Machine.core u c = Core.reset := by
  let d : State := { bumpPowered s with energy := { s.energy with thermal := .drained } }
  have hpowered := poweredDown_bumpPowered s
  have hdark := poweredDown_darkAll d
  obtain ⟨c', x, u, hframe⟩ := hpowered.drained (e := { s.energy with thermal := .drained }) hdark
  refine ⟨?_, regBit_setBits _ _ (by decide) (by decide), ?_, fun g hg c hc => ?_⟩
  · show setBits (darkAll d) Reg.ENERGY_INT_STATUS 8 = _
    rw [enterDrained, hframe]
    rfl
  · refine RegsKept.after_setBits (fun a _ _ => ?_) (by simp) _
    rw [hframe, reg, reg]
  · show Machine.core (darkAll d) c = Core.reset
    exact core_darkAll ((PoweredDown.groups_eq hpowered).symm ▸ hg) hc

/-- Settles O44. -/
theorem admissionKeepsItsBounds : Obligations.AdmissionKeepsItsBounds := by
  unfold Obligations.AdmissionKeepsItsBounds
  refine ⟨fun s r t deferred htake => ?_, fun s r c p => verdict_refuse_code, fun s hedge hlast hreload hcount hseal hstage hpair hnew => ?_,
    fun s h => ?_, fun s hreach hseal hstandby hfault => ?_, fun s hreach h => ?_, fun s hreach => ?_, fun s hstopped hnot hdone => ?_,
    fun s h => ?_⟩
  · obtain ⟨hmem, hpass, hdeferred⟩ := verdict_take htake
    obtain ⟨b, hb, rfl⟩ := mem_of_mem_tryBounds hmem
    obtain ⟨j, hj, rfl⟩ := List.mem_map.mp hb
    have hall := hpass
    simp only [Tests.passes, Bool.and_eq_true] at hall
    obtain ⟨⟨⟨hfree, hslot⟩, henergy⟩, hdeadline⟩ := hall
    obtain ⟨hused, hown⟩ := testsAt_slot hslot
    simp only [testsAt, Bool.and_eq_true, decide_eq_true_eq] at henergy hdeadline
    refine ⟨hfree, ⟨j, Nat.lt_succ_iff.mp (List.mem_range.mp hj), rfl⟩, hused, hown, henergy.1, rfl, hdeadline, hdeferred, fun b _ hlt hb => ?_⟩
    rw [verdict_snd] at hb
    obtain ⟨x, hx, rfl⟩ := List.mem_map.mp hb
    obtain ⟨b, _, rfl⟩ := mem_of_mem_tryBounds hx
    by_contra hp
    have hpx : Tests.passes (resourcesFree s r) (testsAt s r (deadlineOf s r) (entryBoundary s (now s)) b) = true := by
      rw [Tests.passes, hfree, Bool.true_and]
      exact Bool.of_not_eq_false hp
    have hsame := congrArg Tests.at_ (eq_of_passes hx hmem hpx hpass)
    exact absurd hsame (Nat.ne_of_lt hlt)
  · intro v
    have hrun : admitDecision s = decideHeads (headsInOrder v) v := by
      simp [admitDecision, hedge, hreload, hcount, hseal, hstage, hpair, hnew, Nat.not_lt.mpr hlast, v]
    refine ⟨(exec_admitDecision s).trans (congrArg done hrun), fun h => ?_, fun r rs t deferred h hv => ?_, fun r rs c p h hv => ?_⟩
    · rw [h]
      rfl
    · rw [h]
      simp only [decideHeads, hv]
    · rw [h]
      simp only [decideHeads, hv]
  · refine (exec_admitDecision s).trans (congrArg done ?_)
    rcases h with h | h | h | h | h | h | h | h <;> simp [admitDecision, h]
  · have hset : admitCtrl s true = setBits s Reg.ADMIT_CTRL 1 := by simp [admitCtrl, hseal, hstandby, hfault, putBit]
    refine ⟨_, exec_admitOpen true hreach, ?_, admitOpen_admitCtrl hseal hstandby hfault, ?_⟩
    · rw [hset]
      rfl
    · rw [hset]
      exact (RegsKept.refl s _).after_setBits (by simp) _
  · rw [exec_admitOpen true hreach, admitCtrl_refused h]
  · obtain ⟨a, r, e, m, h, p, hframe⟩ := refuseAll_frame (putBit s Reg.ADMIT_CTRL 0 false) 0x12
    have hfields : admitCtrl s false = { s with adm := a, regs := r, evt := e, emitted := m, host := h, pod := p } := hframe
    refine ⟨_, exec_admitOpen false hreach, queueOf_refuseAll _ _, ?_, ?_, ?_, ?_, ?_, ?_, fun hempty hwf => ?_⟩
    iterate 6 rw [hfields]
    have hnone : admitCtrl s false = clearBits s Reg.ADMIT_CTRL 1 :=
      refuseAll_none (s := putBit s Reg.ADMIT_CTRL 0 false) (queues_of_empty hempty hwf) 0x12
    rw [hnone]
    exact ⟨rfl, regBit_clearBits_two_pow s Reg.ADMIT_CTRL (n := 0) (by decide), (RegsKept.refl s _).after_clearBits (by simp) _⟩
  · have hrun : drainComplete s = enterDrained s := if_pos ⟨hstopped, hnot, by simp [hdone]⟩
    exact ⟨_, (exec_drainComplete s).trans (congrArg done hrun), enterDrained_facts s⟩
  · refine (exec_drainComplete s).trans (congrArg done (if_neg ?_))
    rintro ⟨hstopped, hnot, hdone⟩
    rcases h with ⟨h1, h2⟩ | h | h
    · exact hstopped.elim h1 fun hd => hd h2
    · exact hnot h
    · simp [h] at hdone

end Sys2Proof.Proofs
end

section
/-!
SUPPORT. Queue pairs (spec/16_host_interface.md, R321 to R336): what the writing of held entries leaves of a pair, and the theorem that settles the obligation
of the commands that drive a pair.
-/
namespace Sys2Proof.Laws

open Sys2Proof.Machine

/-! ## Held entries follow (R333, R335) -/

theorem pairOf_setPair_ne (s : State) {q j : Nat} (p : Pair) (h : j ≠ q) : pairOf (setPair s q p) j = pairOf s j :=
  tget_tset_ne (fun _ => Pair.reset) _ p h

/-- `r` is the pair `p` after entries were written at its completion tail, or replayed: a pair that replays nothing goes on so. -/
structure Pair.Written (p r : Pair) : Prop where
  fields : r = { p with
    cqTail := r.cqTail, phase := r.phase, filled := r.filled, since := r.since, timer := r.timer, window := r.window, replay := r.replay }
  still : p.replay = none → r.replay = none

theorem Pair.Written.refl (p : Pair) : Pair.Written p p := ⟨rfl, id⟩

theorem Pair.Written.trans {p r x : Pair} (h : Pair.Written p r) (g : Pair.Written r x) : Pair.Written p x :=
  ⟨g.fields.trans (by rw [h.fields]), fun hp => g.still (h.still hp)⟩

/-- `t` is `s` after entries of pair `q` were written: all but the pairs and what has left the block is as it was, and so are the other pairs. -/
structure Flushed (q : Nat) (s t : State) : Prop where
  frame : t = { s with
    emitted := t.emitted
    host := { s.host with pairs := t.host.pairs } }
  others : ∀ j, j ≠ q → pairOf t j = pairOf s j
  own : Pair.Written (pairOf s q) (pairOf t q)

namespace Flushed

variable {q : Nat} {s t u : State}

theorem refl (q : Nat) (s : State) : Flushed q s s := ⟨rfl, fun _ _ => rfl, .refl _⟩

theorem regs (h : Flushed q s t) : t.regs = s.regs := by rw [h.frame]

theorem trans (h : Flushed q s t) (g : Flushed q t u) : Flushed q s u :=
  ⟨g.frame.trans (by rw [h.frame]), fun j hj => (g.others j hj).trans (h.others j hj), h.own.trans g.own⟩

theorem emit (s : State) (e : Emission) : Flushed q s (emit s e) := ⟨rfl, fun _ _ => rfl, .refl _⟩

theorem setPair (s : State) {p : Pair} (h : Pair.Written (pairOf s q) p) : Flushed q s (setPair s q p) :=
  ⟨rfl, fun _ hj => pairOf_setPair_ne s p hj, by rwa [pairOf_setPair_self]⟩

end Flushed

section
variable (s : State) (q : Nat)

theorem coalMsg_flushed : Flushed q s (coalMsg s q) := by
  unfold coalMsg
  split
  · exact .refl q s
  · exact (Flushed.emit s _).trans (.setPair _ ⟨rfl, id⟩)

theorem coalesce_flushed : Flushed q s (coalesce s q) := by
  unfold coalesce
  dsimp only
  split
  · refine (Flushed.setPair s ?_).trans (coalMsg_flushed _ q)
    exact ⟨rfl, id⟩
  · exact .setPair s ⟨rfl, id⟩

theorem putEntry_flushed (bytes : List Byte) (replayed : Bool) : Flushed q s (putEntry s q bytes replayed) := by
  refine ((Flushed.emit s _).trans (.setPair _ ?_)).trans (coalesce_flushed _ q)
  exact ⟨rfl, id⟩

theorem putBuffer_flushed (c : Cpl) : Flushed q s (putBuffer s q c) := by
  unfold putBuffer
  split
  · exact .emit s _
  · exact .refl q s

theorem nextReplay_none {p : Pair} (h : p.replay = none) : nextReplay p = none := by rw [nextReplay, h]

theorem flushPair_flushed (n : Nat) : Flushed q s (flushPair s q n) := by
  induction n generalizing s with
  | zero => exact .refl q s
  | succ n ih =>
    unfold flushPair
    split
    · exact .refl q s
    · dsimp only
      split
      · next c hreplay =>
        -- a running replay writes its next entry
        have hruns : (pairOf s q).replay ≠ none := fun hnone => by
          rw [nextReplay_none hnone] at hreplay
          cases hreplay
        have hbuffer : Flushed q s (if c.written then s else putBuffer s q c) := by
          split
          · exact .refl q s
          · exact putBuffer_flushed s q c
        have hentry := hbuffer.trans (putEntry_flushed _ q c.bytes true)
        refine Flushed.trans ?_ (ih _)
        refine ⟨by rw [hentry.frame]; rfl, fun j hj => ?_, ?_⟩
        · exact (pairOf_setPair_ne _ _ hj).trans (hentry.others j hj)
        · rw [pairOf_setPair_self]
          exact ⟨by rw [hentry.own.fields], fun hnone => absurd hnone hruns⟩
      · split
        · exact .refl q s
        · split
          · exact .refl q s
          · refine (((putBuffer_flushed s q _).trans (putEntry_flushed _ q _ false)).trans (.setPair _ ?_)).trans (ih _)
            exact ⟨rfl, id⟩

theorem flushAll_flushed : Flushed q s (flushAll s q) := flushPair_flushed s q 8192

/-- A disabled pair writes nothing. -/
theorem flushAll_disabled (h : qEnabled s q = false) : flushAll s q = s := by
  have hcan : canWrite s q = false := by simp [canWrite, h]
  unfold flushAll flushPair
  exact if_pos (by simp [hcan])

/-- With no replay and no held entry nothing follows. -/
theorem flushAll_idle (hreplay : (pairOf s q).replay = none) (hheld : firstHeld (pairOf s q).window = none) : flushAll s q = s := by
  unfold flushAll flushPair
  split
  · rfl
  · simp only [nextReplay_none hreplay, hreplay, hheld, Option.isSome_none, Bool.false_eq_true, if_false]

theorem firstHeld_none {l : List Cpl} (h : ∀ c ∈ l, c.written = true) : firstHeld l = none := by
  induction l with
  | nil => rfl
  | cons c l ih => rw [firstHeld, if_pos (h c List.mem_cons_self), ih fun x hx => h x (List.mem_cons_of_mem _ hx)]

theorem qEnabled_of_regs {t : State} (h : t.regs = s.regs) : qEnabled t q = qEnabled s q := by simp only [qEnabled, regBit, reg, h]

end

/-! ## Control of a pair (R323, R335, R336) -/

/-- The control word of a pair is none that logging or a window refusal counts in. -/
theorem qCtrl_not_logged (q : PairNo) :
    evtWord (Reg.Q_CTRL q) = false ∧ Reg.Q_CTRL q ∉ logWords ∧ Reg.Q_CTRL q ≠ Reg.SEC_CNT_WIN := by
  have hq : (q : Nat) < 256 := q.isLt
  simp only [evtWord, logWords, Reg.Q_CTRL, Reg.EVT_INT_STATUS, Reg.EVT_OVF, Reg.ERR_LOG_HEAD, Reg.ERR_LOG_COUNT, Reg.ERR_CNT_OVERWRITTEN,
    Reg.ERR_CNT_PROTOCOL, Reg.ERR_INT_STATUS, Reg.SEC_CNT_WIN, List.contains_cons, List.contains_nil, Bool.or_false, Bool.or_eq_false_iff,
    beq_eq_false_iff_ne, List.mem_cons, List.not_mem_nil, or_false, not_or]
  refine ⟨⟨?_, ?_, ?_, ?_⟩, ⟨?_, ?_, ?_, ?_, ?_⟩, ?_⟩ <;> omega

theorem qEnabled_protocol (s : State) (q : PairNo) (code off n : Nat) : qEnabled (protocol s code off n) q = qEnabled s q :=
  regBit_of_regsKept (regsKept_protocol s code off n) ⟨(qCtrl_not_logged q).1, (qCtrl_not_logged q).2.1⟩ 0

theorem qEnabled_refusedWindow (s : State) (q : PairNo) (code off n : Nat) :
    qEnabled (protocol (bump s Reg.SEC_CNT_WIN) code off n) q = qEnabled s q := by
  rw [qEnabled_protocol, qEnabled, qEnabled, regBit, regBit, reg_bump _ _ _ (qCtrl_not_logged q).1, if_neg (qCtrl_not_logged q).2.2]

theorem mem_boundPairs {s : State} {f q : Nat} (h : q ∈ boundPairs s f) : qBound s q = true ∧ qFn s q = f := by
  have hq := (List.mem_filter.mp h).2
  simp only [Bool.and_eq_true, decide_eq_true_eq] at hq
  exact hq

end Sys2Proof.Laws

namespace Sys2Proof.Proofs

open Sys2Proof Sys2Proof.Machine Sys2Proof.Laws

theorem doneHost_eq (s : State) : doneHost s = .next (settle (freeEnded s)) := rfl

theorem hostFlush_running {s : State} {off : Nat} (f : State → State) (h : hostReaches s off = true) :
    hostFlush s off f = .next (settle (freeEnded (f s))) := by
  rw [hostFlush, if_pos h, doneHost_eq]

section
variable {s : State}

/-! ## Doorbells (R321, R324) -/

theorem exec_sqDoorbell {f : FnNo} {k : PairNo} (v : Code16) (hreach : hostReaches s (Reg.Q_CTRL 0) = true) :
    exec (.sqDoorbell ⟨f, k⟩ v) s = .next (settle (ring s f k 0 fun q => sqDoorbell s q v (f + 1))) :=
  host_running (fun s => ring s f k 0 fun q => sqDoorbell s q v (f + 1)) hreach

theorem exec_cqHeadDoorbell {f : FnNo} {k : PairNo} (v : Code16) (hreach : hostReaches s (Reg.Q_CTRL 0) = true) :
    exec (.cqHeadDoorbell ⟨f, k⟩ v) s = .next (settle (freeEnded (ring s f k 4 fun q => cqDoorbell s q v (f + 1)))) :=
  hostFlush_running (fun s => ring s f k 4 fun q => cqDoorbell s q v (f + 1)) hreach

theorem ring_pair {f k q : Nat} (h : doorbellPair s f k = some q) (off : Nat) (act : Nat → State) : ring s f k off act = act q := by
  rw [ring, h]

theorem ring_none {f k : Nat} (h : doorbellPair s f k = none) (off : Nat) (act : Nat → State) :
    ring s f k off act = protocol s 0x0004 (4096 * k + off) (f + 1) := by
  rw [ring, h]

theorem doorbellPair_bound {f k q : Nat} (hf : f ≠ 0) (h : doorbellPair s f k = some q) : qBound s q = true ∧ qFn s q = f := by
  rw [doorbellPair, if_neg hf] at h
  exact mem_boundPairs (List.mem_of_getElem? h)

variable {q v n : Nat}

theorem sqDoorbell_moves (hon : qEnabled s q = true) (hv : v < sqSize s q) : sqDoorbell s q v n = setPair s q { pairOf s q with sqTail := v } := by
  simp [sqDoorbell, hon, Nat.not_le.mpr hv]

theorem sqDoorbell_refused (h : qEnabled s q = false ∨ sqSize s q ≤ v) : sqDoorbell s q v n = protocol s 0x0006 (4096 * q) n := by
  rcases h with h | h <;> simp [sqDoorbell, h]

theorem cqDoorbell_moves (hon : qEnabled s q = true) (hv : v < cqSize s q) : cqDoorbell s q v n = flushAll (setPair s q { pairOf s q with
    cqHead := v, filled := (pairOf s q).filled - (v + cqSize s q - (pairOf s q).cqHead) % cqSize s q }) q := by
  simp [cqDoorbell, hon, Nat.not_le.mpr hv]

theorem cqDoorbell_refused (h : qEnabled s q = false ∨ cqSize s q ≤ v) : cqDoorbell s q v n = protocol s 0x0006 (4096 * q + 4) n := by
  rcases h with h | h <;> simp [cqDoorbell, h]

end

/-! ## ENABLE, RESYNC, RESUME, BIND -/

section
variable {s : State} {q : PairNo}

theorem exec_qEnable (on : Bool) (hreach : hostReaches s (Reg.Q_CTRL q) = true) :
    exec (.qEnable q on) s = .next (settle (freeEnded (flushAll (enablePair s q on) q))) :=
  hostFlush_running (fun s => qEnable s q on) hreach

theorem exec_qResync (hreach : hostReaches s (Reg.Q_CTRL q) = true) :
    exec (.qResync q) s = .next (settle (freeEnded (qResync s q))) :=
  hostFlush_running (fun s => qResync s q) hreach

theorem exec_qResume (hreach : hostReaches s (Reg.Q_CTRL q) = true) : exec (.qResume q) s = .next (settle (qResume s q)) :=
  host_running (fun s => qResume s q) hreach

theorem exec_qBind {v : Code32} (hreach : hostReaches s (Reg.Q_BIND q) = true) : exec (.qBind q v) s = .next (settle (qBind s q v)) :=
  host_running (fun s => qBind s q v) hreach

theorem exec_qReplayFrom {d : Code32} (hreach : hostReaches s (Reg.Q_REPLAY_FROM q) = true) :
    exec (.qReplayFrom q d) s = .next (settle (freeEnded (qReplay s q d))) :=
  hostFlush_running (fun s => qReplay s q d) hreach

theorem exec_replayComplete (s : State) (q : PairNo) : exec (.replayComplete q) s = .next (settle (freeEnded (replayComplete s q))) := rfl

theorem exec_coalTimer (s : State) (q : PairNo) : exec (.coalTimer q) s = done (coalTimer s q) := rfl

/-- ENABLE set: the pair is enabled and held entries follow. -/
theorem enablePair_on (hbound : qBound s q = true) (hrings : ringsAllowed s q = true) :
    enablePair s q true = putBit s (Reg.Q_CTRL q) 0 true := by
  simp [enablePair, hbound, hrings]

theorem enablePair_unbound (hoff : qEnabled s q = false) (hbound : qBound s q = false) :
    flushAll (enablePair s q true) q = protocol s 0x0007 (Reg.Q_CTRL q) 1 := by
  have hrefused : enablePair s q true = protocol s 0x0007 (Reg.Q_CTRL q) 1 := by simp [enablePair, hbound]
  rw [hrefused, flushAll_disabled _ _ ((qEnabled_protocol ..).trans hoff)]

theorem enablePair_outside (hoff : qEnabled s q = false) (hbound : qBound s q = true) (hrings : ringsAllowed s q = false) :
    flushAll (enablePair s q true) q = protocol (bump s Reg.SEC_CNT_WIN) 0x0008 (Reg.Q_CTRL q) (qFn s q + 1) := by
  have hrefused : enablePair s q true = protocol (bump s Reg.SEC_CNT_WIN) 0x0008 (Reg.Q_CTRL q) (qFn s q + 1) := by
    simp [enablePair, hbound, hrings]
  rw [hrefused, flushAll_disabled _ _ ((qEnabled_refusedWindow ..).trans hoff)]

/-- A pair that ENABLE's clearing leaves. -/
def disabledPair (s : State) (q : Nat) : State := setPair (clearBits s (Reg.Q_CTRL q) 1) q { pairOf s q with gap := false }

theorem qEnabled_disabledPair (s : State) (q : Nat) : qEnabled (disabledPair s q) q = false :=
  regBit_clearBits_two_pow s (Reg.Q_CTRL q) (n := 0) (by decide)

theorem enablePair_off (s : State) (q : Nat) : flushAll (enablePair s q false) q = disabledPair s q :=
  flushAll_disabled _ _ (qEnabled_disabledPair s q)

theorem qBind_binds {v : Code32} (hoff : qEnabled s q = false)
    (hroom : bit v 31 = true → ((boundPairs s (bits v 21 16)).filter fun x => decide (x ≠ (q : Nat))).length < 16) :
    qBind s q v = (let s1 := setReg s (Reg.Q_BIND q) (Nat.land v 0x803F00FF)
      setPair s1 q { pairOf s1 q with hsnNext := 0, dsnNext := 0, window := [], replay := none, replayResult := 0 }) := by
  have hfull : ¬(bit v 31 = true ∧ ((boundPairs s (bits v 21 16)).filter fun x => decide (x ≠ (q : Nat))).length ≥ 16) := by
    rintro ⟨hv, hlen⟩
    have := hroom hv
    omega
  unfold qBind
  dsimp only
  rw [if_neg (by simp [hoff]), if_neg hfull]

/-! ## Replays and the coalescing timer (R330, R335) -/

theorem qReplay_unknown {d : Nat} (hfree : (pairOf s q).replay = none) (hd : d ≠ (pairOf s q).dsnNext)
    (hnone : ∀ c ∈ (pairOf s q).window, c.dsn ≠ d) : qReplay s q d = setPair s q { pairOf s q with replayResult := 2 } := by
  have hany : ((pairOf s q).window.any fun c => decide (c.dsn = d)) = false := by
    rw [List.any_eq_false]
    intro c hc
    simp [hnone c hc]
  simp [qReplay, hfree, hd, hany]

theorem qReplay_record {d : Nat} (hfree : (pairOf s q).replay = none) {x c : Cpl} (hx : x ∈ (pairOf s q).window) (hxd : x.dsn = d)
    (hc : c ∈ (pairOf s q).window) (hcd : c.dsn = recordStart (pairOf s q) d) :
    qReplay s q d = flushAll (setPair s q { pairOf s q with
      replay := some (recordStart (pairOf s q) d), replayEnd := (pairOf s q).dsnNext }) q := by
  have hany {e : Nat} {y : Cpl} (hy : y ∈ (pairOf s q).window) (hye : y.dsn = e) :
      ((pairOf s q).window.any fun c => decide (c.dsn = e)) = true := List.any_eq_true.mpr ⟨y, hy, by simp [hye]⟩
  simp [qReplay, hfree, hany hx hxd, hany hc hcd]

theorem qReplay_next {d : Nat} (hfree : (pairOf s q).replay = none) (hd : d = (pairOf s q).dsnNext)
    (hnone : ∀ c ∈ (pairOf s q).window, c.dsn ≠ d) :
    qReplay s q d = flushAll (setPair s q { pairOf s q with replay := some d, replayEnd := (pairOf s q).dsnNext }) q := by
  have hany : ((pairOf s q).window.any fun c => decide (c.dsn = d)) = false := by
    rw [List.any_eq_false]
    intro c hc
    simp [hnone c hc]
  have hfind : (pairOf s q).window.find? (fun c => decide (c.dsn = d)) = none := by
    rw [List.find?_eq_none]
    intro c hc
    simp [hnone c hc]
  have hstart : recordStart (pairOf s q) d = d := by rw [recordStart, hfind]
  simp [qReplay, hfree, hstart, hany, ← hd]

theorem replayComplete_ends (h : (pairOf s q).replay = some (pairOf s q).replayEnd) :
    replayComplete s q = flushAll (setPair s q { pairOf s q with replay := none, replayResult := 1 }) q := by
  simp [replayComplete, h]

end

/-- Settles O45, command by command. -/
theorem queuePairsAreDriven : Obligations.QueuePairsAreDriven := by
  unfold Obligations.QueuePairsAreDriven
  refine ⟨fun s f k v q hreach hpair => ?_, fun s f k v hreach => ?_, fun s q hreach => ?_, fun s q v hreach hoff hroom => ?_,
    fun s q d hreach hfree => ?_, fun s q hend => ?_, fun s q b htimer => ?_⟩
  · refine ⟨fun hon hv => ?_, fun h => ?_, fun hon hv => ?_, fun h => ?_⟩
    · rw [exec_sqDoorbell v hreach, ring_pair hpair, sqDoorbell_moves hon hv]
    · rw [exec_sqDoorbell v hreach, ring_pair hpair, sqDoorbell_refused h]
    · intro p t
      have hflush := flushAll_flushed t q
      have hown : pairOf t q = { p with cqHead := v, filled := p.filled - (v + cqSize s q - p.cqHead) % cqSize s q } := pairOf_setPair_self ..
      refine ⟨_, by rw [exec_cqHeadDoorbell v hreach, ring_pair hpair, cqDoorbell_moves hon hv], rfl, ?_, fun j hj => ?_, hflush.regs,
        fun hreplay hwritten => ?_⟩
      · exact (congrArg Pair.cqHead hflush.own.fields).trans (congrArg Pair.cqHead hown)
      · exact (hflush.others j hj).trans (pairOf_setPair_ne s _ hj)
      · exact flushAll_idle t q (by rw [hown]; exact hreplay) (by rw [hown]; exact firstHeld_none hwritten)
    · rw [exec_cqHeadDoorbell v hreach, ring_pair hpair, cqDoorbell_refused h]
  · refine ⟨fun hf => if_pos hf, fun q hf hpair => doorbellPair_bound hf hpair, fun hnone => ⟨?_, ?_⟩⟩
    · rw [exec_sqDoorbell v hreach, ring_none hnone, Nat.add_zero]
    · rw [exec_cqHeadDoorbell v hreach, ring_none hnone]
  · refine ⟨fun hbound hrings => ⟨?_, ?_⟩, fun hoff hbound => ?_, fun hoff hbound hrings => ?_, ?_, fun hon => ?_, ?_⟩
    · rw [exec_qEnable true hreach, enablePair_on hbound hrings]
    · rw [qEnabled_of_regs _ _ (flushAll_flushed _ q).regs]
      exact regBit_setBits s _ (by decide) (by decide)
    · rw [exec_qEnable true hreach, enablePair_unbound hoff hbound]
    · rw [exec_qEnable true hreach, enablePair_outside hoff hbound hrings]
    · refine ⟨_, by rw [exec_qEnable false hreach, enablePair_off], rfl, qEnabled_disabledPair s q, ?_, pairOf_setPair_self ..,
        fun j hj => pairOf_setPair_ne _ _ hj⟩
      exact (RegsKept.refl s _).after_clearBits (by simp) 1
    · let t := setPair s q { pairOf s q with sqHead := 0, cqTail := 0, sqTail := 0, cqHead := 0, filled := 0, phase := true }
      have hrun : qResync s q = flushAll t q := by simp [qResync, resyncPair, hon, t]
      have hfields := (flushAll_flushed t q).own.fields
      have hown : pairOf t q = { pairOf s q with sqHead := 0, cqTail := 0, sqTail := 0, cqHead := 0, filled := 0, phase := true } :=
        pairOf_setPair_self ..
      refine ⟨_, (exec_qResync hreach).trans (by rw [hrun]), rfl, ?_, ?_, ?_⟩
      · exact (congrArg Pair.sqHead hfields).trans (congrArg Pair.sqHead hown)
      · exact (congrArg Pair.sqTail hfields).trans (congrArg Pair.sqTail hown)
      · exact (congrArg Pair.cqHead hfields).trans (congrArg Pair.cqHead hown)
    · exact exec_qResume hreach
  · refine ⟨_, (exec_qBind hreach).trans (congrArg done (qBind_binds hoff hroom)), rfl, ?_, ?_, pairOf_setPair_self ..⟩
    · exact (reg_setReg_self ..).trans (Nat.mod_eq_of_lt (land_word_lt (by decide)))
    · exact (RegsKept.refl s _).after_setReg (by simp) _
  · refine ⟨fun hd hnone => ?_, ?_, fun hd hnone => ?_⟩
    · rw [exec_qReplayFrom hreach, qReplay_unknown hfree hd hnone]
    · rintro ⟨c, hc, hcd, x, hx, hxd⟩
      rw [exec_qReplayFrom hreach, qReplay_record hfree hx hxd hc hcd]
    · rw [exec_qReplayFrom hreach, qReplay_next hfree hd hnone]
  · let t := setPair s q { pairOf s q with replay := none, replayResult := 1 }
    have hflush := flushAll_flushed t q
    have hown : pairOf t q = { pairOf s q with replay := none, replayResult := 1 } := pairOf_setPair_self ..
    refine ⟨_, (exec_replayComplete s q).trans (by rw [replayComplete_ends hend]), rfl, hflush.own.still (by rw [hown]), ?_⟩
    exact (congrArg Pair.replayResult hflush.own.fields).trans (congrArg Pair.replayResult hown)
  · refine ⟨fun hfield hdue hloud => (exec_coalTimer s q).trans (congrArg done ?_), fun h => (exec_coalTimer s q).trans (congrArg done ?_)⟩
    · simp only [coalTimer, htimer, coalMsg, hloud, hfield, hdue, ne_eq, not_false_eq_true, and_self, if_true, Bool.false_eq_true, if_false]
      rfl
    · rcases h with h | h | h <;> simp [coalTimer, htimer, coalMsg, h]

end Sys2Proof.Proofs
end

section
/-!
SUPPORT. Mailbox channels (spec/16_host_interface.md, R339 to R342): what an acknowledgement and a forced release leave, and the theorem that settles the
obligation of locks and messages.
-/
namespace Sys2Proof.Laws

open Sys2Proof.Machine

/-! ## Channels -/

@[simp] theorem chanOf_setChan_self (s : State) (c : Nat) (x : Chan) : chanOf (setChan s c x) c = x := tget_tset_self (fun _ => Chan.reset) _ _ x

theorem chanOf_setChan_ne (s : State) {c d : Nat} (x : Chan) (h : d ≠ c) : chanOf (setChan s c x) d = chanOf s d :=
  tget_tset_ne (fun _ => Chan.reset) _ x h

theorem chanOf_congr {s t : State} (h : t.host = s.host) (c : Nat) : chanOf t c = chanOf s c := by rw [chanOf, chanOf, h]

theorem chanOf_setBits (s : State) (a m c : Nat) : chanOf (setBits s a m) c = chanOf s c := rfl

theorem chanOf_setAck (s : State) (c id code d : Nat) : chanOf (setAck s c id code) d = chanOf s d := rfl

theorem chanOf_bump (s : State) (a c : Nat) : chanOf (bump s a) c = chanOf s c := by
  obtain ⟨r, e, h⟩ := bumpBy_frame s a 1
  exact chanOf_congr (by rw [bump, h]) c

/-! ## The words of a channel -/

section
variable (c : ChanNo)

theorem mbAck_word : evtWord (Reg.MB_ACK c) = false ∧ Reg.MB_ACK c ≠ Reg.MB_INT_STATUS c ∧ Reg.MB_ACK c ≠ Reg.MB_CNT_EXPIRED := by
  have hc : (c : Nat) < 32 := c.isLt
  simp only [evtWord, Reg.MB_ACK, Reg.MB_INT_STATUS, Reg.MB_CNT_EXPIRED, Reg.EVT_INT_STATUS, Reg.EVT_OVF, List.contains_cons, List.contains_nil,
    Bool.or_false, Bool.or_eq_false_iff, beq_eq_false_iff_ne]
  refine ⟨⟨?_, ?_, ?_, ?_⟩, ?_, ?_⟩ <;> omega

theorem mbExpired_word : Reg.MB_CNT_EXPIRED ≠ Reg.MB_ACK c ∧ Reg.MB_CNT_EXPIRED ≠ Reg.MB_INT_STATUS c := by
  simp only [Reg.MB_ACK, Reg.MB_INT_STATUS, Reg.MB_CNT_EXPIRED]
  omega

end

/-! ## Acknowledgements (R341) -/

theorem mbAck_ne_intStatus (c : Nat) : Reg.MB_ACK c ≠ Reg.MB_INT_STATUS c := by
  simp only [Reg.MB_ACK, Reg.MB_INT_STATUS]
  omega

theorem reg_setAck_self (s : State) (c id code : Nat) (h : code < 65536) : reg (setAck s c id code) (Reg.MB_ACK c) = id % 65536 * 65536 + code := by
  rw [setAck, reg_setReg_self]
  exact Nat.mod_eq_of_lt (by omega)

/-- Channel `k` after the acknowledgement of its message with the response `r` at beat `t`. -/
def Chan.acked (k : Chan) (t : Nat) (r : List Byte) : Chan := { k with
    pending := none
    started := false
    lost := false
    done := true
    since := t
    respLen := r.length
    resp := r ++ k.resp.drop r.length }

/-- `u` is `s` after the message `id` of channel `c` was acknowledged with `code` and `resp`. -/
structure Acknowledged (s : State) (c id code : Nat) (resp : List Byte) (u : State) : Prop where
  frame : u = { s with regs := u.regs, host := u.host }
  chan : chanOf u c = Chan.acked (chanOf s c) (now s) (resp.take 256)
  others : ∀ d, d ≠ c → chanOf u d = chanOf s d
  ack : reg u (Reg.MB_ACK c) = id % 65536 * 65536 + code
  raised : regBit u (Reg.MB_INT_STATUS c) 0 = true
  kept : RegsKept s u [Reg.MB_ACK c, Reg.MB_INT_STATUS c]

theorem Acknowledged.pending {s u : State} {c id code : Nat} {resp : List Byte} (h : Acknowledged s c id code resp u) : (chanOf u c).pending = none := by
  rw [h.chan]; rfl

theorem Acknowledged.done {s u : State} {c id code : Nat} {resp : List Byte} (h : Acknowledged s c id code resp u) : (chanOf u c).done = true := by
  rw [h.chan]; rfl

theorem Acknowledged.sec {s u : State} {c id code : Nat} {resp : List Byte} (h : Acknowledged s c id code resp u) : u.sec = s.sec := by rw [h.frame]

/-- A message whose owner keeps the lock, on a module that is not silent, is acknowledged. -/
theorem ackRaw_acknowledged {s : State} {c len id n code : Nat} (resp : List Byte) (hpending : (chanOf s c).pending = some (len, id, n))
    (hlost : (chanOf s c).lost = false) (hsilent : s.twin.silent = false) (hcode : code < 65536) :
    Acknowledged s c id code resp (ackRaw s c code resp) := by
  have heq : ackRaw s c code resp =
      setBits (setAck (setChan s c (Chan.acked (chanOf s c) (now s) (resp.take 256))) c id code) (Reg.MB_INT_STATUS c) 1 := by
    simp only [ackRaw, hpending, hsilent, hlost, Bool.false_eq_true, if_false, Chan.acked]
  rw [heq]
  refine ⟨rfl, chanOf_setChan_self _ _ _, fun d hd => chanOf_setChan_ne _ _ hd, ?_, ?_, ?_⟩
  · rw [reg_setBits_ne _ _ (mbAck_ne_intStatus c), reg_setAck_self _ _ _ _ hcode]
  · exact regBit_setBits _ _ (by decide) rfl
  · have hchan : RegsKept s (setChan s c (Chan.acked (chanOf s c) (now s) (resp.take 256))) [Reg.MB_ACK c, Reg.MB_INT_STATUS c] := fun _ _ _ => rfl
    exact (hchan.after_setReg List.mem_cons_self _).after_setBits (List.mem_cons_of_mem _ List.mem_cons_self) 1

/-! ## Locks (R340) -/

theorem lt_of_chanReach {s : State} {c n : Nat} (h : chanReach s c n = true) : c < 24 := by
  rw [chanReach, Bool.and_eq_true, chanGrants] at h
  obtain ⟨-, hgrants⟩ := h
  split at hgrants
  · omega
  · exact (of_decide_eq_true hgrants).1

theorem exec_mbLockRead {s : State} {c : ChanNo} {n : ReqNo} (hreach : chanReach s c n = true) (hhost : hostReaches s (Reg.MB_LOCK c) = true)
    (hsilent : s.twin.silent = false) :
    exec (.mbLockRead c n) s = .next (settle (emit (lockRead s c n) (.readData (Reg.MB_LOCK c) 4 (lockValue s c n)))) := by
  have hlt := lt_of_chanReach hreach
  change execMbLockRead c n s = _
  unfold execMbLockRead
  rw [if_neg (by omega), if_pos ⟨hreach, hhost, by simp [hsilent]⟩]
  exact done_eq _

theorem exec_mbLockRelease {s : State} {c : ChanNo} {n : ReqNo} (v : Code32) (hreach : chanReach s c n = true)
    (hhost : hostReaches s (Reg.MB_LOCK c) = true) (hsilent : s.twin.silent = false) :
    exec (.mbLockRelease c n v) s = .next (settle (lockWrite s c n v)) := by
  have hlt := lt_of_chanReach hreach
  refine Eq.trans (b := execMbLockRelease c n v s) rfl ?_
  refine (host_running _ hhost).trans ?_
  rw [if_neg (by omega), if_pos ⟨hreach, by simp [hsilent]⟩]

theorem exec_mbDoorbell {s : State} {c : ChanNo} {n : ReqNo} (len : Fin 512) (id : Code16) (hhost : hostReaches s (Reg.MB_DOORBELL c) = true)
    (hlt : (c : Nat) < 24) : exec (.mbDoorbell c n len id) s = .next (settle (doorbell s c n len id)) := by
  refine Eq.trans (b := execMbDoorbell c n len id s) rfl ?_
  refine (host_running _ hhost).trans ?_
  rw [if_neg (by omega)]

theorem lockRead_free {s : State} {c : Nat} (n : Nat) (h : (chanOf s c).owner = none) :
    lockRead s c n = setChan s c { chanOf s c with owner := some n, since := now s } ∧ lockValue s c n = 0 := by simp only [lockRead, lockValue, h, and_self]

theorem lockRead_held {s : State} {c m : Nat} (n : Nat) (h : (chanOf s c).owner = some m) :
    lockRead s c n = (if m = n then s else bump s Reg.MB_CNT_LOCK_DENIED) ∧ lockValue s c n = (if m = n then 0 else m) := by
  simp only [lockRead, lockValue, h, and_self]

/-! ## Forced releases -/

theorem dropPending_unstarted {s : State} {c len id n : Nat} (hpending : (chanOf s c).pending = some (len, id, n)) (hstarted : (chanOf s c).started = false) :
    dropPending s c = if s.twin.silent then s else setAck (setChan s c { chanOf s c with pending := none }) c id 6 := by
  simp only [dropPending, hpending, hstarted, Bool.false_eq_true, if_false]

theorem dropPending_started {s : State} {c : Nat} {p : Nat × Nat × Nat} (hpending : (chanOf s c).pending = some p) (hstarted : (chanOf s c).started = true) :
    dropPending s c = setChan s c { chanOf s c with lost := true } := by
  simp only [dropPending, hpending, hstarted, if_true]

/-- What becomes of a pending message leaves the lock, the areas and the other channels, and every word but MB_ACK. -/
theorem dropPending_kept (s : State) (c : Nat) :
    dropPending s c = { s with
        regs := (dropPending s c).regs
        host := { s.host with chans := (dropPending s c).host.chans } }
      ∧ (chanOf (dropPending s c) c = { chanOf s c with
          pending := (chanOf (dropPending s c) c).pending, lost := (chanOf (dropPending s c) c).lost })
      ∧ (∀ d, d ≠ c → chanOf (dropPending s c) d = chanOf s d)
      ∧ ∀ a, a ≠ Reg.MB_ACK c → reg (dropPending s c) a = reg s a := by
  unfold dropPending
  split
  · exact ⟨rfl, rfl, fun _ _ => rfl, fun _ _ => rfl⟩
  · split
    · exact ⟨rfl, by rw [chanOf_setChan_self], fun _ hd => chanOf_setChan_ne _ _ hd, fun _ _ => rfl⟩
    · split
      · exact ⟨rfl, rfl, fun _ _ => rfl, fun _ _ => rfl⟩
      · refine ⟨rfl, ?_, fun _ hd => chanOf_setChan_ne _ _ hd, fun a ha => reg_setReg_ne _ _ ha⟩
        rw [chanOf_setAck, chanOf_setChan_self]

/-- The state in which a forced release finds the pending message. -/
def expiredLock (s : State) (c : Nat) : State :=
  setBits (bump (setChan s c (chanOf s c).released) Reg.MB_CNT_EXPIRED) (Reg.MB_INT_STATUS c) 2

theorem forceRelease_held {s : State} {c m : Nat} (h : (chanOf s c).owner = some m) : forceRelease s c = dropPending (expiredLock s c) c := by
  unfold forceRelease
  rw [if_neg (by simp [h])]
  rfl

theorem expiredLock_tallied (s : State) (c : ChanNo) :
    Tallied [Reg.MB_CNT_EXPIRED, Reg.MB_INT_STATUS c] (setChan s c (chanOf s c).released) (expiredLock s c) :=
  ((Tallied.refl _ _).bump).setBits _

theorem chanOf_expiredLock_self (s : State) (c : Nat) : chanOf (expiredLock s c) c = (chanOf s c).released := by
  rw [expiredLock, chanOf_setBits, chanOf_bump, chanOf_setChan_self]

theorem chanOf_expiredLock_ne (s : State) {c d : Nat} (h : d ≠ c) : chanOf (expiredLock s c) d = chanOf s d := by
  rw [expiredLock, chanOf_setBits, chanOf_bump, chanOf_setChan_ne _ _ h]

theorem silent_expiredLock (s : State) (c : ChanNo) : (expiredLock s c).twin.silent = s.twin.silent := by rw [(expiredLock_tallied s c).frame]; rfl

theorem regBit_expiredLock (s : State) (c : Nat) : regBit (expiredLock s c) (Reg.MB_INT_STATUS c) 1 = true :=
  regBit_setBits _ _ (by decide) rfl

theorem reg_expiredLock_count (s : State) (c : ChanNo) : reg (expiredLock s c) Reg.MB_CNT_EXPIRED = min (reg s Reg.MB_CNT_EXPIRED + 1) 0xFFFFFFFF := by
  rw [expiredLock, reg_setBits_ne _ _ (mbExpired_word c).2, reg_bump_self]
  rfl

theorem reg_expiredLock_ack (s : State) (c : ChanNo) : reg (expiredLock s c) (Reg.MB_ACK c) = reg s (Reg.MB_ACK c) := by
  obtain ⟨hevt, hint, hcnt⟩ := mbAck_word c
  exact (expiredLock_tallied s c).reg_eq hevt (by simp [hint, hcnt])

/-! ## Doorbells -/

/-- Channel `k` after a doorbell of requester `n` at beat `t`. -/
def Chan.rungBy (k : Chan) (len id n t : Nat) : Chan := { k with
    pending := some (len, id, n)
    started := false
    lost := false
    done := false
    respLen := 0
    since := t
    rung := t }

theorem doorbell_free {s : State} {c : ChanNo} {n : ReqNo} (len : Fin 512) (id : Code16) (hmay : chanMay s c n = true) (hsilent : s.twin.silent = false)
    (hfree : (chanOf s c).pending = none) (hchan : (c : Nat) < 16 ∨ s.sec.session.mode = .opened) :
    doorbell s c n len id = setAck (setChan s c (Chan.rungBy (chanOf s c) len id n (now s))) c 0 0 := by
  have hid : (id : Nat) % 65536 = id := Nat.mod_eq_of_lt id.isLt
  have hclear : ¬(16 ≤ (c : Nat) ∧ s.sec.session.mode ≠ .opened ∧
      (!decide ((c : Nat) = 16 ∧ (le (chanOf s c).data 0 2 = 0x0101 ∨ le (chanOf s c).data 0 2 = 0x0102))) = true) := by
    rintro ⟨hge, hmode, -⟩
    exact hchan.elim (by omega) hmode
  unfold doorbell
  rw [if_neg (by simp [hmay, hsilent]), if_neg (by simp [hfree])]
  exact (if_neg hclear).trans (by rw [hid]; rfl)

theorem doorbell_busy {s : State} {c n : Nat} (len id : Nat) (hmay : chanMay s c n = true) (hsilent : s.twin.silent = false)
    (hbusy : (chanOf s c).pending ≠ none) : doorbell s c n len id = bump s Reg.MB_CNT_BUSY := by
  unfold doorbell
  rw [if_neg (by simp [hmay, hsilent]), if_pos hbusy]

/-! ## The Keystone's answers on a plain channel -/

section
variable {s : State} {c len id n : Nat} {code : Nat}

theorem mbAck_noReport (h : s.sec.report = none) : mbAck s c code = mbAck.ackOther s c code := by simp only [mbAck, h]

theorem ackOther_busy (hpending : (chanOf s c).pending = some (len, id, n)) (hstarted : (chanOf s c).started = false) (hsilent : s.twin.silent = false)
    (hdue : isDue s (addBeats (chanOf s c).rung (measureN s)) = true) : mbAck.ackOther s c 1 = ackRaw s c 1 [] := by
  simp only [mbAck.ackOther, hpending, hstarted, hsilent, hdue, Bool.false_eq_true, or_self, if_false, if_true]

theorem ackOther_notDue (hdue : isDue s (addBeats (chanOf s c).rung (measureN s)) = false) : mbAck.ackOther s c 1 = s := by
  unfold mbAck.ackOther
  split
  · rfl
  · split
    · rfl
    · rw [if_pos rfl, hdue]
      rfl

theorem underSession_plain (hc : c < 16) : underSession s c = false := by
  rw [underSession, decide_eq_false (by omega), Bool.false_and]

theorem messageOf_clear (h : underSession s c = false) (len : Nat) : messageOf s c len = some ((chanOf s c).data.take len) := by
  simp only [messageOf, h, Bool.false_eq_true, if_false]

theorem readMessage_clear (h : underSession s c = false) : readMessage s c = s := by
  simp only [readMessage, h, Bool.false_eq_true, if_false]

theorem ackChan_clear (h : underSession s c = false) (code : Nat) (resp : List Byte) : ackChan s c code resp = ackRaw s c code resp := by
  simp only [ackChan, h, Bool.false_eq_true, if_false]

theorem ackOther_unknown (hc : c < 16) (hpending : (chanOf s c).pending = some (len, id, n)) (hstarted : (chanOf s c).started = false)
    (hsilent : s.twin.silent = false) (hcode : code ≠ 1) (hnext : nextChannel s = some c) (hlow : 2 ≤ len) (hhigh : len ≤ 256)
    (hunknown : [0x0111, 0x0201, 0x0202].contains (le ((chanOf s c).data.take len) 0 2) = false) :
    mbAck.ackOther s c code = ackRaw s c 2 [] := by
  have hdefined : definedOn s c (le ((chanOf s c).data.take len) 0 2) = false := by rw [definedOn, if_pos hc, hunknown]
  have hlen : ¬(len < 2 ∨ 256 < len) := by omega
  have hclear := underSession_plain (s := s) hc
  simp only [mbAck.ackOther, hpending, hstarted, hsilent, hcode, hnext, hlen, messageOf_clear hclear, hdefined, readMessage_clear hclear,
    ackChan_clear hclear,
    Bool.false_eq_true, or_self, ne_eq, not_true_eq_false, Bool.not_false, if_false, if_true]

end

end Sys2Proof.Laws

namespace Sys2Proof.Proofs

open Sys2Proof.Machine Sys2Proof.Laws

/-- The release of a lock that has been held too long. -/
theorem lockExpired_released {s : State} {c : ChanNo} {m : Nat} (howner : (chanOf s c).owner = some m)
    (hdue : isDue s (addBeats (chanOf s c).since (bits (reg s Reg.MB_LOCK_TIMEOUT) 23 0)) = true) :
    exec (.lockExpired c) s = .next (settle (dropPending (expiredLock s c) c)) := by
  have hexpired : lockExpired s c = true := by simp [lockExpired, howner, hdue]
  refine Eq.trans (b := execLockExpired c s) rfl ?_
  unfold execLockExpired
  rw [if_pos hexpired, forceRelease_held howner]
  exact done_eq _

/-- Settles O47: reads, releases and doorbells by their cases; the words a forced release and an acknowledgement write differ by channel. -/
theorem mailboxLocksAndMessages : Obligations.MailboxLocksAndMessages := by
  unfold Obligations.MailboxLocksAndMessages
  refine ⟨fun s c n hreach hhost hsilent => ⟨fun hfree => ?_, fun hown => ?_, fun m hheld hne => ?_, fun hown v hv => ?_, fun v hbad => ?_⟩,
    fun s c m howner hdue => ?_, fun s c n len id hhost hmay hsilent => ⟨fun hfree hchan => ?_, fun hbusy hlt => ?_⟩,
    fun s c code len id n hreport hlt hid hpending hstarted hlost hsilent hcause => ?_, fun s c code hreport hcode hdue => ?_⟩
  · obtain ⟨hread, hvalue⟩ := lockRead_free (n : Nat) hfree
    rw [exec_mbLockRead hreach hhost hsilent, hread, hvalue]
  · obtain ⟨hread, hvalue⟩ := lockRead_held (n : Nat) hown
    rw [exec_mbLockRead hreach hhost hsilent, hread, hvalue, if_pos rfl, if_pos rfl]
  · obtain ⟨hread, hvalue⟩ := lockRead_held (n : Nat) hheld
    rw [exec_mbLockRead hreach hhost hsilent, hread, hvalue, if_neg hne, if_neg hne]
  · rw [exec_mbLockRelease v hreach hhost hsilent, lockWrite, if_pos ⟨hown, hv⟩]
    rfl
  · rw [exec_mbLockRelease v hreach hhost hsilent, lockWrite, if_neg (not_and_or.mpr hbad)]
  · -- a forced release
    obtain ⟨hframe, hchan, hothers, hregs⟩ := dropPending_kept (expiredLock s c) c
    rw [chanOf_expiredLock_self] at hchan
    have hexpired := (expiredLock_tallied s c).frame
    refine ⟨_, lockExpired_released howner hdue, by rw [hframe, hexpired]; rfl, by rw [hchan]; rfl, by rw [hchan]; rfl, by rw [hchan]; rfl,
      fun d hd => (hothers d hd).trans (chanOf_expiredLock_ne s hd), (hregs _ (mbExpired_word c).1).trans (reg_expiredLock_count s c), ?_, ?_, ?_⟩
    · rw [regBit, hregs _ (mbAck_word c).2.1.symm]
      exact regBit_expiredLock s c
    · intro len id k hpending hstarted hid
      have hpending' : (chanOf (expiredLock s c) c).pending = some (len, id, k) := by rw [chanOf_expiredLock_self]; exact hpending
      rw [dropPending_unstarted hpending' (by rw [chanOf_expiredLock_self]; exact hstarted), silent_expiredLock]
      refine ⟨fun hsilent => ?_, fun hsilent => ?_⟩
      · rw [if_neg (by simp [hsilent]), chanOf_setAck, chanOf_setChan_self, reg_setAck_self _ _ _ _ (by decide), Nat.mod_eq_of_lt hid]
        exact ⟨rfl, rfl⟩
      · rw [if_pos hsilent, reg_expiredLock_ack, chanOf_expiredLock_self]
        exact ⟨rfl, rfl⟩
    · intro p hpending hstarted
      rw [dropPending_started (by rw [chanOf_expiredLock_self]; exact hpending) (by rw [chanOf_expiredLock_self]; exact hstarted), chanOf_setChan_self]
      exact ⟨by rw [chanOf_expiredLock_self]; exact hpending, rfl, reg_expiredLock_ack s c⟩
  · have hlt : (c : Nat) < 24 := hchan.elim (by omega) And.left
    refine ⟨_, (exec_mbDoorbell len id hhost hlt).trans (by rw [doorbell_free len id hmay hsilent hfree (hchan.imp_right And.right)]; rfl), rfl,
      (chanOf_setAck _ _ _ _ _).trans (chanOf_setChan_self _ _ _), reg_setAck_self _ _ 0 0 (by decide), fun a _ ha => reg_setReg_ne _ _ (by simpa using ha)⟩
  · rw [exec_mbDoorbell len id hhost hlt, doorbell_busy len id hmay hsilent hbusy]
  · -- BUSY or UNKNOWN_COMMAND
    have hack : mbAck s c code = ackRaw s c (if (code : Nat) = 1 then 1 else 2) [] := by
      rw [mbAck_noReport hreport]
      rcases hcause with ⟨hcode, hdue⟩ | ⟨hcode, hnext, hlow, hhigh, hunknown⟩
      · rw [hcode, if_pos rfl, ackOther_busy hpending hstarted hsilent hdue]
      · rw [if_neg hcode, ackOther_unknown hlt hpending hstarted hsilent hcode hnext hlow hhigh hunknown]
    have hacked : Acknowledged s c id _ [] (mbAck s c code) := hack ▸ ackRaw_acknowledged [] hpending hlost hsilent (by split <;> decide)
    refine ⟨mbAck s c code, done_eq _, hacked.frame, hacked.pending, hacked.done, by rw [hacked.chan]; rfl, by rw [hacked.chan]; rfl,
      by rw [hacked.chan]; rfl, by rw [hacked.ack, Nat.mod_eq_of_lt hid], hacked.raised, hacked.kept⟩
  · have hidle : mbAck s c code = s := by rw [mbAck_noReport hreport, hcode, ackOther_notDue hdue]
    exact (done_eq (mbAck s c code)).trans (by rw [hidle])

end Sys2Proof.Proofs
end

section
/-!
SUPPORT. Resets of the host port and the training of its link (spec/16_host_interface.md, R337; spec/21_bringup_reset.md, R439, R440), and the theorem that
settles their obligation.
-/
namespace Sys2Proof.Laws

open Sys2Proof.Machine

/-! ## Resets of functions (R337) -/

/-- A pair whose function was reset: a gap ends, and submissions not yet taken are dropped. -/
def Pair.dropped (p : Pair) : Pair := { p with
    gap := false
    sqTail := p.sqHead }

/-- The words that the reset of a function may write. -/
def resetWords : List Nat :=
  (List.range 256).map Reg.Q_CTRL ++ ((List.range 32).map Reg.MB_ACK ++ ((List.range 32).map Reg.MB_INT_STATUS ++ [Reg.MB_CNT_EXPIRED]))

theorem qCtrl_mem_resetWords {q : Nat} (h : q < 256) : Reg.Q_CTRL q ∈ resetWords :=
  List.mem_append_left _ (List.mem_map_of_mem (List.mem_range.mpr h))

theorem mbWords_mem_resetWords (c : ChanNo) :
    Reg.MB_ACK c ∈ resetWords ∧ Reg.MB_INT_STATUS c ∈ resetWords ∧ Reg.MB_CNT_EXPIRED ∈ resetWords := by
  have hc : (c : Nat) ∈ List.range 32 := List.mem_range.mpr c.isLt
  exact ⟨List.mem_append_right _ (List.mem_append_left _ (List.mem_map_of_mem hc)),
    List.mem_append_right _ (List.mem_append_right _ (List.mem_append_left _ (List.mem_map_of_mem hc))),
    List.mem_append_right _ (List.mem_append_right _ (List.mem_append_right _ List.mem_cons_self))⟩

/-- A word apart from the areas of the pairs' control and of the mailboxes is none of them. -/
theorem not_mem_resetWords {a : Nat} (hctrl : ∀ q, a ≠ Reg.Q_CTRL q) (hmail : a < Reg.MB_ACK 0) : a ∉ resetWords := by
  simp only [resetWords, List.mem_append, List.mem_map, List.mem_singleton, Reg.MB_ACK, Reg.MB_INT_STATUS, Reg.MB_CNT_EXPIRED] at hmail ⊢
  rintro (⟨q, -, hq⟩ | ⟨c, -, hc⟩ | ⟨c, -, hc⟩ | h)
  · exact hctrl q hq.symm
  all_goals omega

theorem qBind_not_reset {q : Nat} (h : q < 256) : evtWord (Reg.Q_BIND q) = false ∧ Reg.Q_BIND q ∉ resetWords := by
  refine ⟨?_, not_mem_resetWords (fun p hp => ?_) ?_⟩
  · simp only [evtWord, Reg.Q_BIND, Reg.EVT_INT_STATUS, Reg.EVT_OVF, List.contains_cons, List.contains_nil, Bool.or_false, Bool.or_eq_false_iff,
      beq_eq_false_iff_ne]
    omega
  · simp only [Reg.Q_BIND, Reg.Q_CTRL] at hp
    omega
  · simp only [Reg.Q_BIND, Reg.MB_ACK]
    omega

/-- `t` is `s` after the pairs of `P` were reset and the mailbox locks of the channels of `C` freed. -/
structure PortReset (P C : Nat → Prop) (s t : State) : Prop where
  frame : t = { s with
    regs := t.regs
    evt := t.evt
    host := { t.host with linkUp := s.host.linkUp } }
  kept : RegsKept s t resetWords
  dropped : ∀ q, q < 256 → P q → qEnabled t q = false ∧ pairOf t q = Pair.dropped (pairOf s q)
  others : ∀ q, q < 256 → ¬P q → qEnabled t q = qEnabled s q ∧ pairOf t q = pairOf s q
  freed : ∀ c, C c → (chanOf t c).owner = none
  chans : ∀ c, ¬C c → chanOf t c = chanOf s c

/-- No pair, or no channel. -/
def nowhere (_ : Nat) : Prop := False

namespace PortReset

variable {P P' C C' : Nat → Prop} {s t u : State}

theorem refl (s : State) : PortReset nowhere nowhere s s :=
  ⟨rfl, RegsKept.refl s _, fun _ _ h => h.elim, fun _ _ _ => ⟨rfl, rfl⟩, fun _ h => h.elim, fun _ _ => rfl⟩

theorem trans (h : PortReset P C s t) (g : PortReset P' C' t u) : PortReset (fun q => P q ∨ P' q) (fun c => C c ∨ C' c) s u where
  frame := g.frame.trans (by rw [h.frame])
  kept := h.kept.trans g.kept
  dropped q hlt hq := by
    by_cases hq' : P' q
    · obtain ⟨hoff, hpair⟩ := g.dropped q hlt hq'
      refine ⟨hoff, hpair.trans ?_⟩
      by_cases hp : P q
      · rw [(h.dropped q hlt hp).2]; rfl
      · rw [(h.others q hlt hp).2]
    · obtain ⟨hoff, hpair⟩ := h.dropped q hlt (hq.resolve_right hq')
      obtain ⟨hon, hsame⟩ := g.others q hlt hq'
      exact ⟨hon.trans hoff, hsame.trans hpair⟩
  others q hlt hq := by
    obtain ⟨hp, hp'⟩ := not_or.mp hq
    exact ⟨(g.others q hlt hp').1.trans (h.others q hlt hp).1, (g.others q hlt hp').2.trans (h.others q hlt hp).2⟩
  freed c hc := by
    by_cases hc' : C' c
    · exact g.freed c hc'
    · rw [g.chans c hc']
      exact h.freed c (hc.resolve_right hc')
  chans c hc := by
    obtain ⟨h1, h2⟩ := not_or.mp hc
    exact (g.chans c h2).trans (h.chans c h1)

theorem congr (h : PortReset P C s t) (hP : ∀ q, P q ↔ P' q) (hC : ∀ c, C c ↔ C' c) : PortReset P' C' s t := by
  rwa [show P' = P from funext fun q => propext (hP q).symm, show C' = C from funext fun c => propext (hC c).symm]

theorem qBind (h : PortReset P C s t) {q : Nat} (hq : q < 256) : reg t (Reg.Q_BIND q) = reg s (Reg.Q_BIND q) :=
  h.kept _ (qBind_not_reset hq).1 (qBind_not_reset hq).2

theorem boundPairs (h : PortReset P C s t) (f : Nat) : boundPairs t f = boundPairs s f := by
  refine List.filter_congr fun q hq => ?_
  rw [qBound, qBound, qFn, qFn, regBit, regBit, h.qBind (List.mem_range.mp hq)]

end PortReset

theorem resetPair_portReset (s : State) {q : Nat} (h : q < 256) : PortReset (· = q) nowhere s (resetPair s q) where
  frame := rfl
  kept := ((RegsKept.refl s _).after_clearBits (qCtrl_mem_resetWords h) 1)
  dropped j _ hj := by
    subst hj
    exact ⟨regBit_clearBits_two_pow s _ (by decide), pairOf_setPair_self _ _ _⟩
  others j _ hj := by
    refine ⟨?_, pairOf_setPair_ne _ _ hj⟩
    have hne : Reg.Q_CTRL j ≠ Reg.Q_CTRL q := by simp only [Reg.Q_CTRL]; omega
    exact congrArg (bit · 0) (reg_setReg_ne s _ hne)
  freed _ hc := hc.elim
  chans _ _ := rfl

theorem resetPairs_portReset (s : State) (l : List Nat) (h : ∀ q ∈ l, q < 256) : PortReset (· ∈ l) nowhere s (l.foldl resetPair s) := by
  induction l generalizing s with
  | nil => exact (PortReset.refl s).congr (fun _ => by simp [nowhere]) fun _ => Iff.rfl
  | cons q l ih =>
    refine ((resetPair_portReset s (h q List.mem_cons_self)).trans (ih _ fun p hp => h p (List.mem_cons_of_mem q hp))).congr (fun p => ?_) fun c => ?_
    · rw [List.mem_cons]
    · exact or_self_iff

theorem forceRelease_portReset (s : State) (c : ChanNo) : PortReset nowhere (· = (c : Nat)) s (forceRelease s c) := by
  obtain hfree | ⟨m, howner⟩ := Option.eq_none_or_eq_some (chanOf s c).owner
  · rw [show forceRelease s c = s from if_pos hfree]
    exact ⟨rfl, RegsKept.refl s _, fun _ _ h => h.elim, fun _ _ _ => ⟨rfl, rfl⟩, fun d hd => hd ▸ hfree, fun _ _ => rfl⟩
  · rw [forceRelease_held howner]
    obtain ⟨hframe, hchan, hothers, hregs⟩ := dropPending_kept (expiredLock s c) c
    have hexpired := expiredLock_tallied s c
    obtain ⟨hack, hint, hcnt⟩ := mbWords_mem_resetWords c
    have hkept : RegsKept s (dropPending (expiredLock s c) c) resetWords :=
      RegsKept.trans (t := expiredLock s c) (hexpired.kept.mono (by simp [hint, hcnt])) fun a _ ha => hregs a fun e => ha (e ▸ hack)
    have hhost : dropPending (expiredLock s c) c = { s with
        regs := (dropPending (expiredLock s c) c).regs
        evt := (dropPending (expiredLock s c) c).evt
        host := { s.host with chans := (dropPending (expiredLock s c) c).host.chans } } := by
      rw [hframe, hexpired.frame]; rfl
    refine ⟨by rw [hhost], hkept, fun _ _ h => h.elim, fun q hlt _ => ⟨?_, by rw [hhost]; rfl⟩, fun d hd => ?_,
      fun d hd => (hothers d hd).trans (chanOf_expiredLock_ne s hd)⟩
    · -- the words of a forced release are none of a pair's
      have hlow : Reg.Q_CTRL q < Reg.MB_ACK 0 := by simp only [Reg.Q_CTRL, Reg.MB_ACK]; omega
      have hack' : Reg.Q_CTRL q ≠ Reg.MB_ACK c := by simp only [Reg.MB_ACK] at hlow ⊢; omega
      have hint' : Reg.Q_CTRL q ∉ [Reg.MB_CNT_EXPIRED, Reg.MB_INT_STATUS c] := by
        simp only [List.mem_cons, List.not_mem_nil, or_false, Reg.MB_ACK, Reg.MB_CNT_EXPIRED, Reg.MB_INT_STATUS] at hlow ⊢; omega
      exact congrArg (bit · 0) ((hregs _ hack').trans (hexpired.reg_eq (qCtrl_not_logged ⟨q, hlt⟩).1 hint'))
    · rw [hd, hchan, chanOf_expiredLock_self]
      rfl

theorem forceReleases_portReset (s : State) (l : List Nat) (h : ∀ c ∈ l, c < 32) : PortReset nowhere (· ∈ l) s (l.foldl forceRelease s) := by
  induction l generalizing s with
  | nil => exact (PortReset.refl s).congr (fun _ => Iff.rfl) fun _ => by simp [nowhere]
  | cons c l ih =>
    refine ((forceRelease_portReset s ⟨c, h c List.mem_cons_self⟩).trans (ih _ fun d hd => h d (List.mem_cons_of_mem c hd))).congr (fun q => ?_) fun d => ?_
    · exact or_self_iff
    · rw [List.mem_cons]

/-- Whether pair `q` is bound to function `f`. -/
def boundTo (s : State) (f q : Nat) : Prop := q < 256 ∧ qBound s q = true ∧ qFn s q = f

/-- Whether function `f` holds the lock of mailbox channel `c`. -/
def locks (s : State) (f c : Nat) : Prop := c < 32 ∧ (chanOf s c).owner = some (f + 1)

theorem resetFunction_portReset (s : State) (f : Nat) : PortReset (boundTo s f) (locks s f) s (resetFunction s f) := by
  have hpairs := resetPairs_portReset s (boundPairs s f) fun q hq => List.mem_range.mp (List.mem_filter.mp hq).1
  have hlocks := forceReleases_portReset ((boundPairs s f).foldl resetPair s)
    ((List.range 32).filter fun c => decide ((chanOf ((boundPairs s f).foldl resetPair s) c).owner = some (f + 1)))
    fun c hc => List.mem_range.mp (List.mem_filter.mp hc).1
  refine (hpairs.trans hlocks).congr (fun q => ?_) fun c => ?_
  · simp [nowhere, boundTo, boundPairs]
  · simp [nowhere, locks, hpairs.chans c id]

/-- After the reset of the functions below `n`. -/
theorem resetFunctions_portReset (s : State) (n : Nat) :
    PortReset (fun q => ∃ f < n, boundTo s f q) (fun c => ∃ f < n, locks s f c) s ((List.range n).foldl resetFunction s) := by
  induction n with
  | zero => exact (PortReset.refl s).congr (fun _ => by simp [nowhere]) fun _ => by simp [nowhere]
  | succ n ih =>
    rw [List.range_succ, List.foldl_append, List.foldl_cons, List.foldl_nil]
    refine (ih.trans (resetFunction_portReset _ n)).congr (fun q => ?_) fun c => ?_
    · have hbind : boundTo ((List.range n).foldl resetFunction s) n q ↔ boundTo s n q :=
        and_congr_right fun hq => by rw [qBound, qBound, qFn, qFn, regBit, regBit, ih.qBind hq]
      simp only [hbind, Nat.lt_succ_iff_lt_or_eq, or_and_right, exists_or, exists_eq_left]
    · by_cases hheld : ∃ f < n, locks s f c
      · obtain ⟨f, hf, hlock⟩ := hheld
        exact iff_of_true (Or.inl ⟨f, hf, hlock⟩) ⟨f, Nat.lt_succ_of_lt hf, hlock⟩
      · have hlock : locks ((List.range n).foldl resetFunction s) n c ↔ locks s n c := by rw [locks, locks, ih.chans c hheld]
        simp only [hlock, Nat.lt_succ_iff_lt_or_eq, or_and_right, exists_or, exists_eq_left]

theorem linkDown_not_reset : evtWord Reg.HQ_CNT_LINK_DOWN = false ∧ Reg.HQ_CNT_LINK_DOWN ∉ resetWords := by
  refine ⟨by decide, not_mem_resetWords (fun q h => ?_) (by decide)⟩
  simp only [Reg.HQ_CNT_LINK_DOWN, Reg.Q_CTRL] at h
  omega

/-- The state of the block when every function has been reset and the session closed. -/
def portDown (s : State) : State := closeSession ((List.range 64).foldl resetFunction s)

theorem portDown_frame (s : State) : portDown s = { s with
    regs := (portDown s).regs
    evt := (portDown s).evt
    host := { (portDown s).host with linkUp := s.host.linkUp }
    sec := { s.sec with session := Session.reset } } := by
  have hframe := (resetFunctions_portReset s 64).frame
  unfold portDown closeSession setSession
  rw [hframe]

theorem hotReset_eq (s : State) (lost : Bool) : hotReset s lost = { bump (portDown s) Reg.HQ_CNT_LINK_DOWN with
    host := { (bump (portDown s) Reg.HQ_CNT_LINK_DOWN).host with linkUp := false } } := rfl

theorem functionReset_other (s : State) {f : Nat} (h : f ≠ 0) : functionReset s f = resetFunction s f := if_neg h

theorem functionReset_physical (s : State) : functionReset s 0 = closeSession (resetFunction s 0) := by
  rw [functionReset, if_pos rfl]

/-! ## Training (R439, R440) -/

/-- The words that training may write. -/
def trainWords : List Nat := [Reg.TOPO_CNT_TRAIN_FULL, Reg.TOPO_CNT_SAVED_REJECT, Reg.TOPO_INT_STATUS]

/-- Whether unit `u` finds a saved record that it may use. -/
def findsRecord (s : State) (u : TrainUnit) (x : LinkTraining) : Bool :=
  !ignoresRecord s u && (match savedRecord s u with
    | some r => recordUsable s r x.crcBad x.partner x.t16
    | none => false)

/-- The trained unit joins those that have trained. -/
def markTrained (s : State) (u : TrainUnit) : State := { s with
    topo := { s.topo with trained := if s.topo.trained.contains u then s.topo.trained else s.topo.trained ++ [u] } }

theorem trainUnit_eq (s : State) (u : TrainUnit) (x : LinkTraining) : trainUnit s u x =
    let s1 := if findsRecord s u x && x.weak then setBits (bump s Reg.TOPO_CNT_SAVED_REJECT) Reg.TOPO_INT_STATUS 1 else s
    markTrained (if findsRecord s u x && !x.weak then s1 else trainedFull s1 u (recordNow s x.partner x.t16)) u := by
  cases hsaved : savedRecord s u <;> simp only [trainUnit, findsRecord, hsaved, markTrained]

/-- `t` is `s` after unit `u` trained: registers and the topology alone have changed. -/
structure Trained (s : State) (u : TrainUnit) (t : State) : Prop where
  frame : t = { s with
    regs := t.regs
    evt := t.evt
    topo := t.topo }
  kept : RegsKept s t trainWords
  mem : u ∈ t.topo.trained

theorem mem_markTrained (s : State) (u : TrainUnit) : u ∈ (markTrained s u).topo.trained := by
  simp only [markTrained]
  split
  · next h => exact List.contains_iff_mem.mp h
  · exact List.mem_append_right _ List.mem_cons_self

theorem trainedFull_tallied {s t : State} {u : TrainUnit} {r : TrainRec} (h : Tallied trainWords s t) :
    trainedFull t u r = { s with
        regs := (trainedFull t u r).regs
        evt := (trainedFull t u r).evt
        topo := (trainedFull t u r).topo }
      ∧ RegsKept s (trainedFull t u r) trainWords
      ∧ (trainedFull t u r).topo.unsaved = s.topo.unsaved.filter (fun x => decide (x.1 ≠ u)) ++ [(u, r)] := by
  have hbump : Tallied trainWords s (bump t Reg.TOPO_CNT_TRAIN_FULL) := h.bump (by simp [trainWords])
  refine ⟨?_, hbump.kept, ?_⟩
  · unfold trainedFull
    rw [hbump.frame]
  · rw [show (trainedFull t u r).topo.unsaved = (bump t Reg.TOPO_CNT_TRAIN_FULL).topo.unsaved.filter (fun x => decide (x.1 ≠ u)) ++ [(u, r)] from rfl,
      hbump.frame]

section
variable {s : State} {u : TrainUnit} {x : LinkTraining}

/-- A unit that finds no record it may use trains in full. -/
theorem trainUnit_noRecord (h : findsRecord s u x = false) :
    trainUnit s u x = markTrained (trainedFull s u (recordNow s x.partner x.t16)) u := by
  simp only [trainUnit_eq, h, Bool.false_and, Bool.false_eq_true, if_false]

/-- A unit whose record passes its verification pattern trains from it. -/
theorem trainUnit_record (h : findsRecord s u x = true) (hweak : x.weak = false) : trainUnit s u x = markTrained s u := by
  simp only [trainUnit_eq, h, hweak, Bool.and_false, Bool.not_false, Bool.and_true, Bool.false_eq_true, if_false, if_true]

/-- The counts of a record that fails its verification pattern. -/
def recordRejected (s : State) : State := setBits (bump s Reg.TOPO_CNT_SAVED_REJECT) Reg.TOPO_INT_STATUS 1

theorem recordRejected_tallied (s : State) : Tallied trainWords s (recordRejected s) :=
  ((Tallied.refl _ s).bump (by simp [trainWords])).setBits _ (by simp [trainWords])

theorem trainUnit_weak (h : findsRecord s u x = true) (hweak : x.weak = true) :
    trainUnit s u x = markTrained (trainedFull (recordRejected s) u (recordNow s x.partner x.t16)) u := by
  simp only [trainUnit_eq, h, hweak, Bool.and_self, Bool.not_true, Bool.and_false, Bool.false_eq_true, if_false, if_true, recordRejected]

/-- Training changes registers and the topology; the list of records to save takes the new record, or stays. -/
theorem trainUnit_trained (s : State) (u : TrainUnit) (x : LinkTraining) :
    Trained s u (trainUnit s u x)
      ∧ ((trainUnit s u x).topo.unsaved = s.topo.unsaved ∨
        (trainUnit s u x).topo.unsaved = s.topo.unsaved.filter (fun y => decide (y.1 ≠ u)) ++ [(u, recordNow s x.partner x.t16)]) := by
  have hfull {t : State} (h : Tallied trainWords s t) (r : TrainRec) :
      Trained s u (markTrained (trainedFull t u r) u)
        ∧ (markTrained (trainedFull t u r) u).topo.unsaved = s.topo.unsaved.filter (fun y => decide (y.1 ≠ u)) ++ [(u, r)] := by
    obtain ⟨hframe, hkept, hunsaved⟩ := trainedFull_tallied (u := u) (r := r) h
    exact ⟨⟨by unfold markTrained; rw [hframe], hkept, mem_markTrained _ u⟩, hunsaved⟩
  by_cases h : findsRecord s u x = true
  · by_cases hweak : x.weak = true
    · rw [trainUnit_weak h hweak]
      exact (hfull (recordRejected_tallied s) _).imp id Or.inr
    · rw [trainUnit_record h (Bool.eq_false_iff.mpr hweak)]
      exact ⟨⟨rfl, RegsKept.refl s _, mem_markTrained s u⟩, Or.inl rfl⟩
  · rw [trainUnit_noRecord (Bool.eq_false_iff.mpr h)]
    exact (hfull (Tallied.refl _ s) _).imp id Or.inr

end

/-- Held entries of every pair follow. -/
theorem flushAlls_frame (s : State) (l : List Nat) : l.foldl flushAll s = { s with
    emitted := (l.foldl flushAll s).emitted
    host := { s.host with pairs := (l.foldl flushAll s).host.pairs } } := by
  induction l generalizing s with
  | nil => rfl
  | cons q l ih =>
    have hframe := (flushAll_flushed s q).frame
    rw [List.foldl_cons, ih, hframe]

theorem linkTrained_lt (v : Nat) : linkTrained v < 2 ^ 32 := by
  have hlow : bits v 9 0 < 1024 := by unfold bits; omega
  unfold linkTrained
  split <;> omega

theorem linkTrained_degraded (v : Nat) : bit (linkTrained v) 10 = false ↔ bits v 3 0 = 7 ∧ bits v 8 4 = 8 := by
  have hlow : bits v 9 0 < 1024 := by unfold bits; omega
  unfold linkTrained bit
  split
  · next h => exact iff_of_true (decide_eq_false (by omega)) h
  · next h => exact iff_of_false (fun hbit => of_decide_eq_false hbit (by omega)) h

/-! ## The three words and the record of a training -/

section
variable {s : State} {u : TrainUnit} {x : LinkTraining}

theorem findsRecord_ignored (h : ignoresRecord s u = true ∨ savedRecord s u = none) : findsRecord s u x = false := by
  rcases h with h | h
  · rw [findsRecord, h, Bool.not_true, Bool.false_and]
  · simp only [findsRecord, h, Bool.and_false]

theorem findsRecord_usable {r : TrainRec} (hignore : ignoresRecord s u = false) (hsaved : savedRecord s u = some r)
    (husable : recordUsable s r x.crcBad x.partner x.t16 = true) : findsRecord s u x = true := by
  simp only [findsRecord, hignore, hsaved, husable, Bool.not_false, Bool.and_self]

theorem trainUnit_full_counts (h : findsRecord s u x = false) :
    reg (trainUnit s u x) Reg.TOPO_CNT_TRAIN_FULL = min (reg s Reg.TOPO_CNT_TRAIN_FULL + 1) 0xFFFFFFFF
      ∧ (u, recordNow s x.partner x.t16) ∈ (trainUnit s u x).topo.unsaved := by
  rw [trainUnit_noRecord h]
  refine ⟨reg_bump_self s, ?_⟩
  exact (trainedFull_tallied (u := u) (Tallied.refl _ s)).2.2 ▸ List.mem_append_right _ List.mem_cons_self

theorem trainUnit_weak_counts (h : findsRecord s u x = true) (hweak : x.weak = true) :
    reg (trainUnit s u x) Reg.TOPO_CNT_SAVED_REJECT = min (reg s Reg.TOPO_CNT_SAVED_REJECT + 1) 0xFFFFFFFF
      ∧ regBit (trainUnit s u x) Reg.TOPO_INT_STATUS 0 = true
      ∧ (u, recordNow s x.partner x.t16) ∈ (trainUnit s u x).topo.unsaved := by
  rw [trainUnit_weak h hweak]
  have hcount (a : Nat) (ha : evtWord a = false) (hne : a ≠ Reg.TOPO_CNT_TRAIN_FULL) :
      reg (trainedFull (recordRejected s) u (recordNow s x.partner x.t16)) a = reg (recordRejected s) a := reg_bumpBy_ne _ 1 ha hne
  refine ⟨?_, ?_, ?_⟩
  · refine (hcount _ (by decide) (by decide)).trans ?_
    rw [recordRejected, reg_setBits_ne _ _ (by decide), reg_bump_self]
  · refine (congrArg (bit · 0) (hcount _ (by decide) (by decide))).trans ?_
    exact regBit_setBits _ _ (by decide) rfl
  · exact (trainedFull_tallied (u := u) (recordRejected_tallied s)).2.2 ▸ List.mem_append_right _ List.mem_cons_self

/-- The host link as its training leaves it, before held entries follow. -/
def hostTrained (s : State) (link : Nat) (x : LinkTraining) : State :=
  let t := setReg (trainUnit s .hostPort { x with partner := [] }) Reg.HQ_LINK (linkTrained link)
  { t with host := { t.host with linkUp := true } }

theorem hostLinkUp_eq (link : Nat) (h : s.topo.stage ≠ .power) : hostLinkUp s link x = (List.range 256).foldl flushAll (hostTrained s link x) := by
  unfold hostLinkUp
  rw [if_neg h]
  rfl

end

end Sys2Proof.Laws

namespace Sys2Proof.Proofs

open Sys2Proof.Machine Sys2Proof.Laws

theorem exec_functionLevelReset (s : State) (f : FnNo) : exec (.functionLevelReset f) s = .next (settle (functionReset s f)) := rfl

theorem exec_hotReset (s : State) (lost : Bool) : exec (.hotReset lost) s = .next (settle (hotReset s lost)) := rfl

theorem exec_hostLinkUp (s : State) (link : Code32) (x : LinkTraining) :
    exec (.hostLinkUp link x) s = .next (settle (freeEnded (hostLinkUp s link x))) := rfl

/-- The reset of a function, but for the session that that of the physical function closes. -/
theorem functionReset_reached (s : State) (f : FnNo) :
    PortReset (boundTo s f) (locks s f) s (resetFunction s f)
      ∧ (functionReset s f).host = (resetFunction s f).host ∧ (functionReset s f).regs = (resetFunction s f).regs
      ∧ functionReset s f = { resetFunction s f with sec := (functionReset s f).sec }
      ∧ ((f : Nat) ≠ 0 → (functionReset s f).sec = s.sec)
      ∧ ((f : Nat) = 0 → (functionReset s f).sec = { s.sec with session := Session.reset }) := by
  have hreset := resetFunction_portReset s f
  have hsec : (resetFunction s f).sec = s.sec := by rw [hreset.frame]
  by_cases hf : (f : Nat) = 0
  · rw [show functionReset s f = closeSession (resetFunction s f) from if_pos hf]
    exact ⟨hreset, rfl, rfl, rfl, fun h => absurd hf h, fun _ => by rw [← hsec]; rfl⟩
  · rw [functionReset_other s hf]
    exact ⟨hreset, rfl, rfl, rfl, fun _ => hsec, fun h => absurd h hf⟩

/-- With every function reset and the session closed: the pairs bound to a function and the locks that functions held. -/
theorem portDown_reached (s : State) :
    RegsKept s (portDown s) resetWords
      ∧ (∀ q, q < 256 → qBound s q = true → qEnabled (portDown s) q = false ∧ (pairOf (portDown s) q).sqTail = (pairOf s q).sqHead)
      ∧ ∀ c m, c < 32 → (chanOf s c).owner = some m → 1 ≤ m → m ≤ 64 → (chanOf (portDown s) c).owner = none := by
  have hreset := resetFunctions_portReset s 64
  unfold portDown
  generalize (List.range 64).foldl resetFunction s = d at *
  refine ⟨hreset.kept, fun q hq hbound => ?_, fun c m hc howner hlow hhigh => ?_⟩
  · have hfn : qFn s q < 64 := by unfold qFn bits; omega
    exact (hreset.dropped q hq ⟨_, hfn, hq, hbound, rfl⟩).imp id (congrArg Pair.sqTail)
  · exact hreset.freed c ⟨m - 1, by omega, hc, by rw [howner]; congr 1; omega⟩

theorem hotReset_reached (s : State) (lost : Bool) :
    hotReset s lost = { s with
        regs := (hotReset s lost).regs
        evt := (hotReset s lost).evt
        host := (hotReset s lost).host
        sec := { s.sec with session := Session.reset } }
      ∧ (∀ q, q < 256 → qBound s q = true → qEnabled (hotReset s lost) q = false ∧ (pairOf (hotReset s lost) q).sqTail = (pairOf s q).sqHead)
      ∧ (∀ c m, c < 32 → (chanOf s c).owner = some m → 1 ≤ m → m ≤ 64 → (chanOf (hotReset s lost) c).owner = none)
      ∧ reg (hotReset s lost) Reg.HQ_CNT_LINK_DOWN = min (reg s Reg.HQ_CNT_LINK_DOWN + 1) 0xFFFFFFFF
      ∧ (hotReset s lost).host.linkUp = false := by
  obtain ⟨hkept, hpairs, hchans⟩ := portDown_reached s
  have hframe := portDown_frame s
  rw [hotReset_eq]
  generalize portDown s = d at *
  obtain ⟨r, e, hbump⟩ := bumpBy_frame d Reg.HQ_CNT_LINK_DOWN 1
  have hhost : (bump d Reg.HQ_CNT_LINK_DOWN).host = d.host := by rw [bump, hbump]
  refine ⟨?_, fun q hq hbound => ?_, fun c m hc howner hlow hhigh => ?_, ?_, rfl⟩
  · rw [bump, hbump, hframe]
  · obtain ⟨hoff, htail⟩ := hpairs q hq hbound
    have hctrl : Reg.Q_CTRL q ≠ Reg.HQ_CNT_LINK_DOWN := by simp only [Reg.Q_CTRL, Reg.HQ_CNT_LINK_DOWN]; omega
    refine ⟨(congrArg (bit · 0) (reg_bumpBy_ne d 1 (qCtrl_not_logged ⟨q, hq⟩).1 hctrl)).trans hoff, ?_⟩
    rw [hhost]
    exact htail
  · rw [hhost]
    exact hchans c m hc howner hlow hhigh
  · refine (reg_bump_self d).trans ?_
    rw [hkept _ linkDown_not_reset.1 linkDown_not_reset.2]

theorem functionReset_clause (s : State) (f : FnNo) :
    functionReset s f = { s with
        regs := (functionReset s f).regs
        evt := (functionReset s f).evt
        host := (functionReset s f).host
        sec := (functionReset s f).sec }
      ∧ (∀ q, q < 256 → qBound s q = true → qFn s q = (f : Nat) →
          qEnabled (functionReset s f) q = false ∧ pairOf (functionReset s f) q = Pair.dropped (pairOf s q))
      ∧ (∀ q, q < 256 → (qBound s q = false ∨ qFn s q ≠ (f : Nat)) →
          qEnabled (functionReset s f) q = qEnabled s q ∧ pairOf (functionReset s f) q = pairOf s q)
      ∧ (∀ c, c < 32 → (chanOf s c).owner = some ((f : Nat) + 1) → (chanOf (functionReset s f) c).owner = none)
      ∧ (∀ c, c < 32 → (chanOf s c).owner ≠ some ((f : Nat) + 1) → chanOf (functionReset s f) c = chanOf s c)
      ∧ ((f : Nat) ≠ 0 → (functionReset s f).sec = s.sec)
      ∧ ((f : Nat) = 0 → (functionReset s f).sec = { s.sec with session := Session.reset })
      ∧ (functionReset s f).host.linkUp = s.host.linkUp := by
  obtain ⟨hreset, hhost, hregs, hframe, hother, hphysical⟩ := functionReset_reached s f
  generalize functionReset s f = t at *
  generalize resetFunction s f = d at *
  have hpair (q : Nat) : qEnabled t q = qEnabled d q ∧ pairOf t q = pairOf d q := by
    rw [qEnabled_of_regs _ q hregs, pairOf, pairOf, hhost]
    exact ⟨rfl, rfl⟩
  refine ⟨by rw [hframe, hreset.frame], fun q hq hbound hfn => ?_, fun q hq hother => ?_, fun c hc howner => ?_,
    fun c hc howner => ?_, hother, hphysical, by rw [hhost, hreset.frame]⟩
  · rw [(hpair q).1, (hpair q).2]
    exact hreset.dropped q hq ⟨hq, hbound, hfn⟩
  · rw [(hpair q).1, (hpair q).2]
    refine hreset.others q hq fun h => ?_
    rcases hother with hbound | hfn
    · rw [h.2.1] at hbound; cases hbound
    · exact hfn h.2.2
  · rw [chanOf_congr hhost]
    exact hreset.freed c ⟨hc, howner⟩
  · rw [chanOf_congr hhost]
    exact hreset.chans c fun h => howner h.2

theorem hostTrained_reached (s : State) (link : Nat) (x : LinkTraining) :
    hostTrained s link x = { s with
        regs := (hostTrained s link x).regs
        evt := (hostTrained s link x).evt
        host := { s.host with linkUp := true }
        topo := (trainUnit s .hostPort { x with partner := [] }).topo }
      ∧ reg (hostTrained s link x) Reg.HQ_LINK = linkTrained link
      ∧ RegsKept s (hostTrained s link x) (Reg.HQ_LINK :: trainWords) := by
  obtain ⟨htrained, -⟩ := trainUnit_trained s .hostPort { x with partner := [] }
  unfold hostTrained
  generalize trainUnit s .hostPort { x with partner := [] } = t at *
  refine ⟨by rw [htrained.frame]; rfl, (reg_setReg_self t _ _).trans (Nat.mod_eq_of_lt (linkTrained_lt link)), ?_⟩
  exact (htrained.kept.mono (List.subset_cons_self _ _)).after_setReg List.mem_cons_self _

/-- The link after its training, with the entries that follow. -/
theorem hostLinkUp_clause (s : State) (link : Code32) (x : LinkTraining) :
    let t := trainUnit s .hostPort { x with partner := [] }
    let u := (List.range 256).foldl flushAll (hostTrained s link x)
    u = { s with regs := u.regs, evt := u.evt, host := u.host, emitted := u.emitted, topo := t.topo }
      ∧ u.host.linkUp = true ∧ reg u Reg.HQ_LINK = linkTrained link
      ∧ (bit (reg u Reg.HQ_LINK) 10 = false ↔ bits link 3 0 = 7 ∧ bits link 8 4 = 8) ∧ u.host.chans = s.host.chans
      ∧ TrainUnit.hostPort ∈ u.topo.trained
      ∧ (t.topo.unsaved ≠ s.topo.unsaved →
          u.topo.unsaved = s.topo.unsaved.filter (fun y => decide (y.1 ≠ .hostPort)) ++ [(.hostPort, recordNow s [] x.t16)])
      ∧ RegsKept s u [Reg.HQ_LINK, Reg.TOPO_CNT_TRAIN_FULL, Reg.TOPO_CNT_SAVED_REJECT, Reg.TOPO_INT_STATUS] := by
  intro t u
  obtain ⟨htrained, hunsaved⟩ : Trained s .hostPort t ∧ (t.topo.unsaved = s.topo.unsaved ∨
      t.topo.unsaved = s.topo.unsaved.filter (fun y => decide (y.1 ≠ .hostPort)) ++ [(.hostPort, recordNow s [] x.t16)]) :=
    trainUnit_trained s .hostPort { x with partner := [] }
  obtain ⟨hbefore, hlink, hkept⟩ := hostTrained_reached s link x
  rw [show trainUnit s .hostPort { x with partner := [] } = t from rfl] at hbefore
  have hflush : u = _ := flushAlls_frame (hostTrained s link x) (List.range 256)
  change RegsKept s (hostTrained s link x) [Reg.HQ_LINK, Reg.TOPO_CNT_TRAIN_FULL, Reg.TOPO_CNT_SAVED_REJECT, Reg.TOPO_INT_STATUS] at hkept
  clear_value u t
  generalize hostTrained s link x = d at *
  have hreg (a : Nat) : reg u a = reg d a := by rw [reg, reg, hflush]
  have htopo : u.topo = t.topo := by rw [hflush, hbefore]
  refine ⟨by rw [hflush, hbefore], by rw [hflush, hbefore], (hreg _).trans hlink, by rw [hreg, hlink, linkTrained_degraded],
    by rw [hflush, hbefore], ?_, ?_, hkept.trans fun a _ _ => hreg a⟩
  · rw [htopo]
    exact htrained.mem
  · rw [htopo]
    exact fun hchanged => hunsaved.resolve_left hchanged

/-- Settles O48: a reset reaches the pairs and locks of its functions, function by function; training by what it finds saved. -/
theorem portResetsReachTheirFunctions : Obligations.PortResetsReachTheirFunctions := by
  unfold Obligations.PortResetsReachTheirFunctions
  refine ⟨fun s f => ?_, fun s lost => ?_, fun s link x hstage => ?_, fun s x => ⟨fun hstage link => ?_, fun h => ?_, fun r hignore hsaved husable => ?_⟩⟩
  · exact ⟨_, exec_functionLevelReset s f, functionReset_clause s f⟩
  · exact ⟨_, exec_hotReset s lost, hotReset_reached s lost⟩
  · intro t
    exact ⟨_, (exec_hostLinkUp s link x).trans (by rw [hostLinkUp_eq _ hstage]), hostLinkUp_clause s link x⟩
  · exact (exec_hostLinkUp s link x).trans (by rw [hostLinkUp, if_pos hstage])
  · exact trainUnit_full_counts (findsRecord_ignored h)
  · have hfinds : findsRecord s .hostPort x = true := findsRecord_usable hignore hsaved husable
    refine ⟨fun hweak => ?_, fun hweak => trainUnit_weak_counts hfinds hweak⟩
    rw [trainUnit_record hfinds hweak]
    exact ⟨rfl, rfl⟩

end Sys2Proof.Proofs
end

section
/-!
SUPPORT. Commands of the secure session and of job keys (spec/19_security.md, R404, R412, R418): what the Keystone does with a message that it takes in clear,
and the theorem that settles their obligation.
-/
namespace Sys2Proof.Laws

open Sys2Proof.Machine

/-- Channel `c` is the next that the Keystone serves, and the clear message it takes there, of `len` bytes, is of command `code`. -/
structure TakenClear (s : State) (c code len id n : Nat) : Prop where
  loud : s.twin.silent = false
  clear : underSession s c = false
  next : nextChannel s = some c
  pending : (chanOf s c).pending = some (len, id, n)
  kept : (chanOf s c).lost = false
  low : 2 ≤ len
  high : len ≤ 256
  command : le ((chanOf s c).data.take len) 0 2 = code

section
variable {s : State} {c code len id n : Nat}

theorem takeMessage_taken (h : TakenClear s c code len id n) (hdefined : definedOn s c code = true) (act : State → Nat → State) :
    takeMessage s c code act = act s n := by
  obtain ⟨hloud, hclear, hnext, hpending, -, hlow, hhigh, hcommand⟩ := h
  have hlen : ¬(len < 2 ∨ 256 < len) := by omega
  simp only [takeMessage, hpending, hnext, hloud, hlen, messageOf_clear hclear, readMessage_clear hclear, hcommand, hdefined, ne_eq, not_true_eq_false,
    Bool.false_eq_true, or_self, and_self, if_false, if_true]

/-- The acknowledgement of a message taken in clear. -/
theorem TakenClear.acknowledged (h : TakenClear s c code len id n) {t : State} (hhost : t.host = s.host) (hloud : t.twin.silent = s.twin.silent) {answer : Nat}
    (hanswer : answer < 65536) (resp : List Byte) : Acknowledged t c id answer resp (ackRaw t c answer resp) :=
  ackRaw_acknowledged resp (by rw [chanOf_congr hhost]; exact h.pending) (by rw [chanOf_congr hhost]; exact h.kept) (hloud.trans h.loud) hanswer

theorem underSession_closed (h : s.sec.session.mode ≠ .opened) : underSession s c = false := by
  rw [underSession, decide_eq_false h, Bool.and_false]

end

/-! ## Sessions (R404) -/

section
variable {s : State} {len id n : Nat}

theorem sessionCommand_defined (h : s.sec.session.mode ≠ .opened) {code : Nat} (hcode : code = 0x0101 ∨ code = 0x0102) : definedOn s 16 code = true := by
  simp only [definedOn, underSession_closed h]
  rcases hcode with rfl | rfl <;> rfl

/-- The state in which SESSION_OPEN is acknowledged. -/
def handshakeOf (s : State) (nonce : List Byte) (addr : Nat) : State := { s with
    fresh := s.fresh + 3
    sec := { s.sec with session := { Session.reset with
      mode := .handshake
      hostNonce := nonce
      devNonce := Config.random (s.fresh + 1) 32
      ephem := Config.random s.fresh 64 } }
    emitted := s.emitted ++ [.hostWrite 0 addr (certChain ++ kemPublic (Config.random s.fresh 64) ++ Config.random (s.fresh + 1) 32 ++
      identitySign s (s.fresh + 2) (nonce ++ Config.random (s.fresh + 1) 32 ++ kemPublic (Config.random s.fresh 64)))] }

theorem sessionOpen_taken (h : TakenClear s 16 0x0101 len id n) (hclosed : s.sec.session.mode ≠ .opened) (nonce : List Byte) (addr : Nat) :
    sessionOpen s nonce addr true = ackRaw (handshakeOf s nonce addr) 16 0 [] := by
  rw [sessionOpen, takeMessage_taken h (sessionCommand_defined hclosed (Or.inl rfl)), if_neg (by decide : ¬(!true) = true)]
  have hshake : (handshakeOf s nonce addr).sec.session.mode ≠ .opened := by
    change SessMode.handshake ≠ .opened
    decide
  exact ackChan_clear (s := handshakeOf s nonce addr) (underSession_closed hshake) 0 []

/-- The session that SESSION_KEY opens. -/
def openedBy (x : Session) (ct : List Byte) : Session :=
  let k := kdf "OPF-SESS" (kemDecap x.ephem ct ++ x.hostNonce ++ x.devNonce) 64
  { Session.reset with
    mode := .opened
    keyIn := k.take 32
    keyOut := k.drop 32 }

theorem sessionKey_taken (h : TakenClear s 16 0x0102 len id n) (hmode : s.sec.session.mode = .handshake) (ct : List Byte) :
    sessionKey s ct true = setSession (ackRaw s 16 0 []) (openedBy s.sec.session ct) := by
  have hclosed : s.sec.session.mode ≠ .opened := by rw [hmode]; decide
  rw [sessionKey, takeMessage_taken h (sessionCommand_defined hclosed (Or.inr rfl)), if_neg (not_not.mpr hmode),
    if_neg (by decide : ¬(!true) = true), ackChan_clear h.clear]
  rfl

end

/-! ## Job keys (R412) -/

section
variable {s : State} {c len id n : Nat}

theorem jobCommand_defined (hc : c < 16) {code : Nat} (hcode : code = 0x0201 ∨ code = 0x0202) : definedOn s c code = true := by
  rw [definedOn, if_pos hc]
  rcases hcode with rfl | rfl <;> rfl

/-- The handle of slot `i` of generation `g`. -/
def handleOf (s : State) (i g : Nat) : Nat := i + g % 65536 * 32768 + (if s.twin.role = true then 2 ^ 31 else 0)

/-- The key that function `n - 1` opens in slot `i`. -/
def openedKey (s : State) (n i : Nat) (ct : List Byte) : JobKey := {
    handle := handleOf s i (nextGen (tget (fun _ => 0) s.sec.jobGen i))
    source := n - 1
    key := kdf "OPF-JOB" (kemDecap (engineKeys s).kem ct ++ natLE 8 deviceId ++ natLE 8 (n - 1)) 32
    seqAt := s.serve.nextSeq
    marks := sourceMarks s (n - 1) }

/-- The state with that key. -/
def withKey (s : State) (n i : Nat) (ct : List Byte) : State :=
  setJobKey (setSec s { s.sec with jobGen := tset (fun _ => 0) s.sec.jobGen i (nextGen (tget (fun _ => 0) s.sec.jobGen i)) }) i
    (some (openedKey s n i ct))

theorem jobKeyOpen_taken (h : TakenClear s c 0x0201 len id n) (hc : c < 16) (hquiet : journals s = false) {i : Nat} (hfree : freeJobSlot s = some i)
    (ct : List Byte) : jobKeyOpen s c none ct true = ackRaw (withKey s n i ct) c 0 (natLE 4 (openedKey s n i ct).handle) := by
  rw [jobKeyOpen, takeMessage_taken h (jobCommand_defined hc (Or.inl rfl))]
  simp only [Option.isSome_none, Bool.false_eq_true, false_and, if_false, Bool.not_true, Option.any_none, hfree]
  rw [Proofs.journal_silent (by exact hquiet)]
  exact ackChan_clear (s := withKey s n i ct) (underSession_plain hc) 0 _

theorem jobKeyOpen_resetting (h : TakenClear s c 0x0201 len id 1) (hc : c < 16) {p : Nat} (hreset : (unitSt s 3 (p / 256)).mode = .resetting)
    (ct : List Byte) : jobKeyOpen s c (some p) ct true = ackRaw s c 7 [] := by
  rw [jobKeyOpen, takeMessage_taken h (jobCommand_defined hc (Or.inl rfl))]
  simp only [Option.isSome_some, ne_eq, not_true_eq_false, and_false, if_false, Bool.not_true, Bool.false_eq_true, Option.any_some, hreset, decide_true,
    if_true]
  exact ackChan_clear (underSession_plain hc) 7 []

theorem jobKeyClose_unknown (h : TakenClear s c 0x0202 len id n) (hc : c < 16) {handle : Nat} (hnone : jobKeyOf s handle = none) :
    jobKeyClose s c handle = ackRaw s c 0x8004 [] := by
  rw [jobKeyClose, takeMessage_taken h (jobCommand_defined hc (Or.inr rfl))]
  simp only [hnone]
  exact ackChan_clear (underSession_plain hc) _ []

theorem jobKeyClose_owned (h : TakenClear s c 0x0202 len id n) (hc : c < 16) (hquiet : journals s = false) {handle : Nat} {k : JobKey}
    (hsome : jobKeyOf s handle = some k) (hsource : k.source = n - 1 ∨ (65536 ≤ k.source ∧ n = 1)) :
    jobKeyClose s c handle = ackRaw (setJobKey s (bits handle 13 0) none) c 0 [] := by
  rw [jobKeyClose, takeMessage_taken h (jobCommand_defined hc (Or.inr rfl))]
  simp only [hsome]
  rw [if_pos hsource, Proofs.journal_silent (by exact hquiet)]
  exact ackChan_clear (s := setJobKey s (bits handle 13 0) none) (underSession_plain hc) 0 []

theorem jobKeyOf_empty {t : State} {handle : Nat} (h : tget (fun _ => none) t.sec.jobKeys (bits handle 13 0) = none) : jobKeyOf t handle = none := by
  simp only [jobKeyOf, h]

end

end Sys2Proof.Laws

namespace Sys2Proof.Proofs

open Sys2Proof.Machine Sys2Proof.Laws

/-- Settles O49: each command does its act with the message it takes, and acknowledges it. -/
theorem sessionAndJobKeyCommands : Obligations.SessionAndJobKeyCommands := by
  unfold Obligations.SessionAndJobKeyCommands
  refine ⟨fun s nonce addr len id n hloud hclosed hnext hpending hlost hlow hhigh hcode => ?_,
    fun s ct len id n hloud hmode hnext hpending hlost hlow hhigh hcode => ?_,
    fun s c ct len id n i hloud hc hquiet hnext hpending hlost hlow hhigh hcode hn hn' hfree => ?_,
    fun s c p ct len id hloud hc hnext hpending hlost hlow hhigh hcode hreset => ?_,
    fun s c h len id n hloud hc hquiet hnext hpending hlost hlow hhigh hcode => ⟨fun hnone => ?_, fun k hsome hsource => ?_⟩, fun s t hunlocked => ?_⟩
  · have htaken : TakenClear s 16 0x0101 len id n := ⟨hloud, underSession_closed hclosed, hnext, hpending, hlost, hlow, hhigh, hcode⟩
    have hacked := htaken.acknowledged (t := handshakeOf s nonce addr) (answer := 0) rfl rfl (by decide) []
    have hshake : RegsKept s (handshakeOf s nonce addr) [Reg.MB_ACK 16, Reg.MB_INT_STATUS 16] := fun _ _ _ => rfl
    exact ⟨_, congrArg done (sessionOpen_taken htaken hclosed nonce addr), hacked.frame, hacked.pending, hacked.done, hacked.ack.trans (Nat.add_zero _),
      hshake.trans hacked.kept⟩
  · have hclosed : s.sec.session.mode ≠ .opened := by rw [hmode]; decide
    have htaken : TakenClear s 16 0x0102 len id n := ⟨hloud, underSession_closed hclosed, hnext, hpending, hlost, hlow, hhigh, hcode⟩
    have hacked := htaken.acknowledged (t := s) (answer := 0) rfl rfl (by decide) []
    refine ⟨_, congrArg done (sessionKey_taken htaken hmode ct), ?_, ?_, hacked.ack.trans (Nat.add_zero _)⟩
    · rw [hacked.frame]
      rfl
    · exact (congrArg Chan.pending (chanOf_congr rfl 16)).trans hacked.pending
  · have htaken : TakenClear s c 0x0201 len id n := ⟨hloud, underSession_plain hc, hnext, hpending, hlost, hlow, hhigh, hcode⟩
    have hacked := htaken.acknowledged (t := withKey s n i ct) (answer := 0) rfl rfl (by decide) (natLE 4 (openedKey s n i ct).handle)
    have hsec := hacked.sec
    refine ⟨_, congrArg done (jobKeyOpen_taken htaken hc hquiet hfree ct), ?_, ?_, fun j hj => ?_, ?_, ?_, hacked.pending, ?_, hacked.ack.trans (Nat.add_zero _)⟩
    · rw [hacked.frame]
      rfl
    · rw [hsec]
      exact tget_tset_self (fun _ => none) s.sec.jobKeys i (some (openedKey s n i ct))
    · rw [hsec]
      exact tget_tset_ne (fun _ => none) s.sec.jobKeys (some (openedKey s n i ct)) hj
    · rw [hsec]
      rfl
    · rw [hsec]
      rfl
    · rw [hacked.chan]
      have hlen : (natLE 4 (openedKey s n i ct).handle).length = 4 := natLE_length 4 _
      exact (List.take_left' (by rw [List.take_of_length_le (by omega), hlen])).trans (List.take_of_length_le (by omega))
  · have htaken : TakenClear s c 0x0201 len id 1 := ⟨hloud, underSession_plain hc, hnext, hpending, hlost, hlow, hhigh, hcode⟩
    have hacked := htaken.acknowledged (t := s) (answer := 7) rfl rfl (by decide) []
    exact ⟨_, congrArg done (jobKeyOpen_resetting htaken hc hreset ct), hacked.frame, hacked.ack⟩
  · have htaken : TakenClear s c 0x0202 len id n := ⟨hloud, underSession_plain hc, hnext, hpending, hlost, hlow, hhigh, hcode⟩
    have hacked := htaken.acknowledged (t := s) (answer := 0x8004) rfl rfl (by decide) []
    exact ⟨_, congrArg done (jobKeyClose_unknown htaken hc hnone), hacked.frame, hacked.ack⟩
  · have htaken : TakenClear s c 0x0202 len id n := ⟨hloud, underSession_plain hc, hnext, hpending, hlost, hlow, hhigh, hcode⟩
    have hacked := htaken.acknowledged (t := (setJobKey s (bits h 13 0) none)) (answer := 0) rfl rfl (by decide) []
    have hsec := hacked.sec
    refine ⟨_, congrArg done (jobKeyClose_owned htaken hc hquiet hsome hsource), ?_, ?_, ?_, fun j hj => ?_, hacked.ack.trans (Nat.add_zero _)⟩
    · rw [hacked.frame]
      rfl
    · refine jobKeyOf_empty ?_
      rw [hsec]
      exact tget_tset_self (fun _ => none) s.sec.jobKeys (bits h 13 0) none
    · rw [hsec]
      rfl
    · rw [hsec]
      exact tget_tset_ne (fun _ => none) s.sec.jobKeys none hj
  · refine ⟨fun hdue => ⟨congrArg done ?_, ?_⟩, fun hdue => congrArg done ?_⟩
    · simp only [debugExpiry, hunlocked, hdue, if_true, setSec]
    · simp [svcAux]
    · simp only [debugExpiry, hunlocked, hdue, Bool.false_eq_true, if_false]

end Sys2Proof.Proofs
end

section
/-!
SUPPORT. The three memories of a state: which functions of the model leave them as they are, and that the others write them in canonical form.
-/
namespace Sys2Proof.Laws

open Sys2Proof.Machine

/-- The staging window, LPDDR and the scratchpads. -/
def mems (s : State) : Mem × Mem × Mem := (s.staging, s.lpddr, s.scratch)

@[simp] theorem mems_eta (s : State) : (s.staging, s.lpddr, s.scratch) = mems s := rfl

/-- The memories of a state whose other fields are given one by one. -/
@[simp] theorem mems_mk (pending regs latch emitted fresh time bond assets) (m l k : Mem)
    (poison cores credits deliveries steps sel front serve adm energy
    host twin pod sec plinth text topo err evt) :
    mems { pending := pending, regs := regs, latch := latch, emitted := emitted, fresh := fresh, time := time, bond := bond, assets := assets, staging := m,
           lpddr := l, scratch := k, poison := poison, cores := cores, credits := credits, deliveries := deliveries, steps := steps, sel := sel,
           front := front, serve := serve, adm := adm, energy := energy, host := host, twin := twin, pod := pod, sec := sec, plinth := plinth, text := text,
           topo := topo, err := err, evt := evt } = (m, l, k) := rfl

@[simp] theorem mems_ite {p : Prop} [Decidable p] (a b : State) : mems (if p then a else b) = if p then mems a else mems b := by
  split <;> rfl

@[simp] theorem mems_foldl {α : Type} (f : State → α → State) (h : ∀ s x, mems (f s x) = mems s) (l : List α) (s : State) :
    mems (l.foldl f s) = mems s := by
  induction l generalizing s with
  | nil => rfl
  | cons x l ih => rw [List.foldl_cons, ih, h]

/-! ## Machine/Ops -/

@[simp] theorem mems_setReg (s : State) (a v : Nat) : mems (setReg s a v) = mems s := by
  unfold setReg
  simp

@[simp] theorem mems_setReg64 (s : State) (a v : Nat) : mems (setReg64 s a v) = mems s := by
  unfold setReg64
  simp

@[simp] theorem mems_setBits (s : State) (a m : Nat) : mems (setBits s a m) = mems s := by
  unfold setBits
  simp

@[simp] theorem mems_clearBits (s : State) (a m : Nat) : mems (clearBits s a m) = mems s := by
  unfold clearBits
  simp

@[simp] theorem mems_putBit (s : State) (a n : Nat) (b : Bool) : mems (putBit s a n b) = mems s := by
  unfold putBit
  simp

@[simp] theorem mems_putField (s : State) (a hi lo v : Nat) : mems (putField s a hi lo v) = mems s := by
  unfold putField
  simp

@[simp] theorem mems_evtAdd (s : State) (n k : Nat) : mems (evtAdd s n k) = mems s := by
  unfold evtAdd
  simp

@[simp] theorem mems_evtAll (s : State) (cls evt : Nat) (sect die : Option Nat) (k : Nat) (l : List (Nat × Word)) :
    mems (evtAll s cls evt sect die k l) = mems s := by
  induction l generalizing s with
  | nil => rfl
  | cons e l ih =>
    rw [evtAll, ih]
    simp

@[simp] theorem mems_event (s : State) (cls evt : Nat) (sect die : Option Nat) (k : Nat) : mems (event s cls evt sect die k) = mems s := by
  unfold event
  split <;> simp

@[simp] theorem mems_bumpBy (s : State) (a k : Nat) : mems (bumpBy s a k) = mems s := by
  unfold bumpBy
  split <;> simp

@[simp] theorem mems_bump (s : State) (a : Nat) : mems (bump s a) = mems s := by
  unfold bump
  simp

@[simp] theorem mems_bump64 (s : State) (a k cap : Nat) : mems (bump64 s a k cap) = mems s := by
  unfold bump64
  split <;> simp

@[simp] theorem mems_countEvent (s : State) (a k : Nat) : mems (countEvent s a k) = mems s := by
  unfold countEvent
  split <;> simp

@[simp] theorem mems_arithOne (s : State) (i die off n flag evt : Nat) : mems (arithOne s i die off n flag evt) = mems s := by
  unfold arithOne
  simp

@[simp] theorem mems_arith (s : State) (i die : Nat) (e : ArithEv) : mems (arith s i die e) = mems s := by
  unfold arith
  simp

@[simp] theorem mems_logCount (s : State) (x1 : LogItem) : mems (logCount s x1) = mems s := by
  unfold logCount
  simp

@[simp] theorem mems_logRepeat (s : State) (slot : Nat) (e : ErrEntry) : mems (logRepeat s slot e) = mems s := by
  unfold logRepeat
  simp

@[simp] theorem mems_logNew (s : State) (x1 : LogItem) : mems (logNew s x1) = mems s := by
  unfold logNew
  simp

@[simp] theorem mems_logErr (s : State) (x1 : LogItem) : mems (logErr s x1) = mems s := by
  unfold logErr
  split <;> simp

@[simp] theorem mems_protocol (s : State) (code off requester : Nat) : mems (protocol s code off requester) = mems s := by
  unfold protocol
  simp

@[simp] theorem mems_emit (s : State) (e : Emission) : mems (emit s e) = mems s := by
  unfold emit
  simp

@[simp] theorem mems_tick (s : State) : mems (tick s) = mems s := by
  unfold tick
  simp

@[simp] theorem mems_setCore (s : State) (c : Nat) (k : Core) : mems (setCore s c k) = mems s := by
  unfold setCore
  simp

@[simp] theorem mems_modCore (s : State) (c : Nat) (f : Core → Core) : mems (modCore s c f) = mems s := by
  unfold modCore
  simp

@[simp] theorem mems_setUnit (s : State) (cls i : Nat) (u : UnitSt) : mems (setUnit s cls i u) = mems s := by
  unfold setUnit
  simp

@[simp] theorem mems_raiseEpoch (s : State) (cls i : Nat) : mems (raiseEpoch s cls i) = mems s := by
  unfold raiseEpoch
  simp

@[simp] theorem mems_learn (s : State) (g cls i : Nat) : mems (learn s g cls i) = mems s := by
  unfold learn
  simp

@[simp] theorem mems_bumpEpoch (s : State) (cls i : Nat) : mems (bumpEpoch s cls i) = mems s := by
  unfold bumpEpoch
  simp

@[simp] theorem mems_settle (s : State) : mems (settle s) = mems s := by
  unfold settle
  simp

/-! ## Machine/Operands -/

@[simp] theorem mems_advance (s : State) (c : Nat) : mems (advance s c) = mems s := by
  unfold advance
  simp

@[simp] theorem mems_coreEvent (s : State) (c cls e : Nat) : mems (coreEvent s c cls e) = mems s := by
  unfold coreEvent
  simp

@[simp] theorem mems_heldScratch (s : State) (c : Nat) (h : Hold) : mems (heldScratch s c h) = mems s := by
  unfold heldScratch
  split <;> simp

@[simp] theorem mems_held (s : State) (c op : Nat) (h : Hold) : mems (held s c op h) = mems s := by
  unfold held
  dsimp only
  repeat' split
  all_goals simp

@[simp] theorem mems_logUnit (s : State) (c code x : Nat) : mems (logUnit s c code x) = mems s := by
  unfold logUnit
  simp

@[simp] theorem mems_markItem (s : State) (kind item : Nat) : mems (markItem s kind item) = mems s := by
  unfold markItem
  simp

@[simp] theorem mems_markRow (s : State) (c : Nat) (r : RowId) : mems (markRow s c r) = mems s := by
  unfold markRow
  split <;> simp

@[simp] theorem mems_arithCore (s : State) (c : Nat) (e : ArithEv) : mems (arithCore s c e) = mems s := by
  unfold arithCore
  split <;> simp

@[simp] theorem mems_arithRow (s : State) (c : Nat) (r : RowId) (e : ArithEv) : mems (arithRow s c r e) = mems s := by
  unfold arithRow
  simp

/-! ## Machine/Matrix -/

@[simp] theorem mems_prepassEffect (s : State) (c : Nat) (k : Core) (w : Nat) : mems (prepassEffect s c k w) = mems s := by
  unfold prepassEffect
  simp

@[simp] theorem mems_wloadEffect (s : State) (c : Nat) (k : Core) (w : Nat) : mems (wloadEffect s c k w) = mems s := by
  unfold wloadEffect
  simp

@[simp] theorem mems_logViolations (s : State) (c x n : Nat) : mems (logViolations s c x n) = mems s := by
  induction n generalizing s with
  | zero => rfl
  | succ n ih =>
    rw [logViolations, ih]
    simp

@[simp] theorem mems_mmaEffect (s : State) (c : Nat) (k : Core) (w : Nat) : mems (mmaEffect s c k w) = mems s := by
  unfold mmaEffect
  simp

/-! ## Machine/Chain -/

@[simp] theorem mems_keepBound (s : State) (c x n : Nat) (b : Int) : mems (keepBound s c x n b) = mems s := by
  unfold keepBound
  simp

@[simp] theorem mems_epiBindEffect (s : State) (c : Nat) (k : Core) (w : Nat) : mems (epiBindEffect s c k w) = mems s := by
  unfold epiBindEffect
  simp

@[simp] theorem mems_markTruncated (s : State) (c tensor : Nat) (place : List Nat) (row0 : Nat) (outs : List (Nat × Nat × Wacc)) :
    mems (markTruncated s c tensor place row0 outs) = mems s := by
  unfold markTruncated
  simp

@[simp] theorem mems_chainDone (s : State) (c : Nat) (as : List Access) : mems (chainDone s c as) = mems s := by
  unfold chainDone
  simp

/-! ## Machine/Dma -/

@[simp] theorem mems_chargeOne (s : State) (i die g o : Nat) : mems (chargeOne s i die g o) = mems s := by
  unfold chargeOne
  simp

@[simp] theorem mems_chargeAll (s : State) (i die g n o : Nat) : mems (chargeAll s i die g n o) = mems s := by
  induction n generalizing s o with
  | zero => rfl
  | succ n ih =>
    rw [chargeAll, ih]
    simp

@[simp] theorem mems_learnFrom (s : State) (r g o n : Nat) : mems (learnFrom s r g o n) = mems s := by
  unfold learnFrom
  simp

@[simp] theorem mems_loseItems (s : State) (i : Nat) (items : List Nat) : mems (loseItems s i items) = mems s := by
  unfold loseItems
  simp

@[simp] theorem mems_shortfall (s : State) (c i g o n : Nat) (wr : Bool) : mems (shortfall s c i g o n wr) = mems s := by
  unfold shortfall
  simp

@[simp] theorem mems_accessed (s : State) (i die g o n : Nat) (wr : Bool) : mems (accessed s i die g o n wr) = mems s := by
  unfold accessed
  simp

@[simp] theorem mems_transfer (s : State) (c g o n : Nat) (wr : Bool) : mems (transfer s c g o n wr) = mems s := by
  unfold transfer
  (repeat' split) <;> simp

@[simp] theorem mems_deliver (s : State) (c : Nat) (dsts : List Nat) (tag : Option Nat) (x1 : Nat) (bs : List Byte) :
    mems (deliver s c dsts tag x1 bs) = mems s := by
  unfold deliver
  simp

@[simp] theorem mems_xferEffect (s : State) (c : Nat) (k : Core) (w : Nat) : mems (xferEffect s c k w) = mems s := by
  unfold xferEffect
  dsimp only
  split <;> simp

@[simp] theorem mems_waitEffect (s : State) (c : Nat) (x1 : Core) (x2 : Nat) : mems (waitEffect s c x1 x2) = mems s := by
  unfold waitEffect
  simp

@[simp] theorem mems_arriveWaitEffect (s : State) (c : Nat) (k : Core) (w : Nat) : mems (arriveWaitEffect s c k w) = mems s := by
  unfold arriveWaitEffect
  simp

@[simp] theorem mems_dmaComplete (s : State) (c n : Nat) : mems (dmaComplete s c n) = mems s := by
  unfold dmaComplete
  split <;> simp

@[simp] theorem mems_arrival (s : State) (c t : Nat) : mems (arrival s c t) = mems s := by
  unfold arrival
  simp

@[simp] theorem mems_powerSlices (s : State) (c : Nat) : mems (powerSlices s c) = mems s := by
  unfold powerSlices
  simp

/-! ## Machine/Search -/

@[simp] theorem mems_setReq (s : State) (k : Nat) (r : Option Req) : mems (setReq s k r) = mems s := by
  unfold setReq
  simp

@[simp] theorem mems_chargeUnit (s : State) (x1 : Index) (r : Req) (c n page : Nat) (bad : Bool) :
    mems (chargeUnit s x1 r c n page bad) = mems s := by
  unfold chargeUnit
  simp

@[simp] theorem mems_scanUnit (s : State) (k j : Nat) : mems (scanUnit s k j) = mems s := by
  unfold scanUnit
  dsimp only
  repeat' split
  all_goals simp

@[simp] theorem mems_chargeProbe (s : State) (sect : Nat) (r : Req) : mems (chargeProbe s sect r) = mems s := by
  unfold chargeProbe
  dsimp only
  (repeat' split) <;> simp

@[simp] theorem mems_centroidStep (s : State) (k : Nat) (r : Req) : mems (centroidStep s k r) = mems s := by
  unfold centroidStep
  split <;> simp

@[simp] theorem mems_chargeTable (s : State) (sect c : Nat) (x1 : Index) : mems (chargeTable s sect c x1) = mems s := by
  unfold chargeTable
  (repeat' split) <;> simp

@[simp] theorem mems_assignTeam (s : State) (sect k : Nat) (r : Req) : mems (assignTeam s sect k r) = mems s := by
  unfold assignTeam
  split <;> simp

/-! ## Machine/Link -/

@[simp] theorem mems_setVc (s : State) (v : Nat) (x1 : Vc) : mems (setVc s v x1) = mems s := by
  unfold setVc
  simp

@[simp] theorem mems_sendOut (s : State) (v : Nat) (f : Frame) : mems (sendOut s v f) = mems s := by
  unfold sendOut
  simp

@[simp] theorem mems_pump (s : State) (v n : Nat) : mems (pump s v n) = mems s := by
  induction n generalizing s with
  | zero => rfl
  | succ n ih =>
    unfold pump
    dsimp only
    (repeat' split) <;> simp [ih]

@[simp] theorem mems_sendFrame (s : State) (v type : Nat) (payload : List Byte) : mems (sendFrame s v type payload) = mems s := by
  unfold sendFrame
  simp

@[simp] theorem mems_sendIdle (s : State) : mems (sendIdle s) = mems s := by
  unfold sendIdle
  simp

@[simp] theorem mems_sendMbox (s : State) (kind : Nat) (bs : List Byte) : mems (sendMbox s kind bs) = mems s := by
  unfold sendMbox
  simp

@[simp] theorem mems_sendStream (s : State) (n : Nat) (bs : List Byte) : mems (sendStream s n bs) = mems s := by
  induction n generalizing s bs with
  | zero => rfl
  | succ n ih =>
    unfold sendStream
    (repeat' split) <;> simp [ih]

@[simp] theorem mems_journalFor (s : State) (role : Bool) (kind reqSeq : Nat) (body : List Byte) :
    mems (journalFor s role kind reqSeq body).1 = mems s := by
  unfold journalFor
  dsimp only
  (repeat' split) <;> simp

@[simp] theorem mems_journal (s : State) (kind reqSeq : Nat) (body : List Byte) : mems (journal s kind reqSeq body).1 = mems s := by
  simp [journal]

/-! ## Machine/Host -/

@[simp] theorem mems_eraseKeys (s : State) (gone : JobKey → Bool) : mems (eraseKeys s gone) = mems s := by
  unfold eraseKeys
  simp

@[simp] theorem mems_expireSource (s : State) (source place x : Nat) : mems (expireSource s source place x) = mems s := by
  unfold expireSource
  simp

@[simp] theorem mems_expireSeq (s : State) : mems (expireSeq s) = mems s := by
  unfold expireSeq
  simp

@[simp] theorem mems_setPair (s : State) (q : Nat) (p : Pair) : mems (setPair s q p) = mems s := by
  unfold setPair
  simp

@[simp] theorem mems_coalMsg (s : State) (q : Nat) : mems (coalMsg s q) = mems s := by
  unfold coalMsg
  simp

@[simp] theorem mems_coalesce (s : State) (q : Nat) : mems (coalesce s q) = mems s := by
  unfold coalesce
  simp

@[simp] theorem mems_putEntry (s : State) (q : Nat) (bytes : List Byte) (replayed : Bool) : mems (putEntry s q bytes replayed) = mems s := by
  unfold putEntry
  simp

@[simp] theorem mems_putBuffer (s : State) (q : Nat) (c : Cpl) : mems (putBuffer s q c) = mems s := by
  unfold putBuffer
  split <;> simp

@[simp] theorem mems_flushPair (s : State) (q n : Nat) : mems (flushPair s q n) = mems s := by
  induction n generalizing s with
  | zero => rfl
  | succ n ih =>
    unfold flushPair
    dsimp only
    (repeat' split) <;> simp [ih]

@[simp] theorem mems_trimWindow (s : State) (q : Nat) : mems (trimWindow s q) = mems s := by
  unfold trimWindow
  dsimp only
  repeat' split
  all_goals simp

@[simp] theorem mems_postEntry (s : State) (q kind part parts reqSeq hsn : Nat) (buffer : Option (Nat × List Byte)) (payload : List Byte) :
    mems (postEntry s q kind part parts reqSeq hsn buffer payload) = mems s := by
  unfold postEntry
  dsimp only
  (repeat' split) <;> simp

@[simp] theorem mems_postParts (s : State) (q kind parts reqSeq hsn i : Nat) (l : List (List Byte)) :
    mems (postParts s q kind parts reqSeq hsn i l) = mems s := by
  induction l generalizing s i with
  | nil => rfl
  | cons b l ih =>
    rw [postParts, ih]
    simp

@[simp] theorem mems_post (s : State) (q kind reqSeq hsn : Nat) (l : List (List Byte)) : mems (post s q kind reqSeq hsn l) = mems s := by
  simp [post]

@[simp] theorem mems_postResult (s : State) (q reqSeq hsn addr : Nat) (payload buf : List Byte) :
    mems (postResult s q reqSeq hsn addr payload buf) = mems s := by
  unfold postResult
  simp

@[simp] theorem mems_flushAll (s : State) (q : Nat) : mems (flushAll s q) = mems s := by
  unfold flushAll
  simp

@[simp] theorem mems_sqDoorbell (s : State) (q v n : Nat) : mems (sqDoorbell s q v n) = mems s := by
  unfold sqDoorbell
  simp

@[simp] theorem mems_cqDoorbell (s : State) (q v n : Nat) : mems (cqDoorbell s q v n) = mems s := by
  unfold cqDoorbell
  simp

@[simp] theorem mems_coalTimer (s : State) (q : Nat) : mems (coalTimer s q) = mems s := by
  unfold coalTimer
  split <;> simp

@[simp] theorem mems_resyncPair (s : State) (q : Nat) : mems (resyncPair s q) = mems s := by
  unfold resyncPair
  simp

@[simp] theorem mems_qResync (s : State) (q : Nat) : mems (qResync s q) = mems s := by
  unfold qResync
  simp

@[simp] theorem mems_qResume (s : State) (q : Nat) : mems (qResume s q) = mems s := by
  unfold qResume
  simp

@[simp] theorem mems_qBind (s : State) (q v : Nat) : mems (qBind s q v) = mems s := by
  unfold qBind
  simp

@[simp] theorem mems_qReplay (s : State) (q d : Nat) : mems (qReplay s q d) = mems s := by
  unfold qReplay
  simp

@[simp] theorem mems_replayComplete (s : State) (q : Nat) : mems (replayComplete s q) = mems s := by
  unfold replayComplete
  simp

/-! ## Machine/Select -/

@[simp] theorem mems_setSlot (s : State) (u i : Nat) (r : Option Run) : mems (setSlot s u i r) = mems s := by
  unfold setSlot
  simp

@[simp] theorem mems_logSel (s : State) (code u x : Nat) : mems (logSel s code u x) = mems s := by
  unfold logSel
  simp

@[simp] theorem mems_runDelivery (s : State) (u : Nat) (parent : Bool) : mems (runDelivery s u parent) = mems s := by
  unfold runDelivery
  dsimp only
  repeat' split
  all_goals simp

@[simp] theorem mems_logUnique (s : State) (u n : Nat) : mems (logUnique s u n) = mems s := by
  induction n generalizing s with
  | zero => rfl
  | succ n ih =>
    rw [logUnique, ih]
    simp

@[simp] theorem mems_clearUnits (s : State) (gs : List Nat) : mems (clearUnits s gs) = mems s := by
  unfold clearUnits
  simp

@[simp] theorem mems_finishSearch (s : State) (k : Nat) (r : Req) : mems (finishSearch s k r) = mems s := by
  unfold finishSearch
  simp

@[simp] theorem mems_podMergeStart (s : State) (k : Nat) : mems (podMergeStart s k) = mems s := by
  unfold podMergeStart
  split <;> simp

/-! ## Machine/Pod -/

@[simp] theorem mems_setPort (s : State) (n : Nat) (x1 : Port) : mems (setPort s n x1) = mems s := by
  unfold setPort
  simp

@[simp] theorem mems_setPeer (s : State) (n i : Nat) (x1 : Peer) : mems (setPeer s n i x1) = mems s := by
  unfold setPeer
  simp

@[simp] theorem mems_setMeter (s : State) (n i : Nat) (x1 : Meter) : mems (setMeter s n i x1) = mems s := by
  unfold setMeter
  simp

@[simp] theorem mems_setClass (s : State) (n c : Nat) (x1 : Machine.Class) : mems (setClass s n c x1) = mems s := by
  unfold setClass
  simp

@[simp] theorem mems_joinQueue (s : State) (n c : Nat) (bs : List Byte) : mems (joinQueue s n c bs) = mems s := by
  unfold joinQueue
  simp

@[simp] theorem mems_putFrame (s : State) (n i : Nat) (f : PodFrame) : mems (putFrame s n i f) = mems s := by
  unfold putFrame
  simp

@[simp] theorem mems_sendAck (s : State) (n i : Nat) : mems (sendAck s n i) = mems s := by
  unfold sendAck
  simp

@[simp] theorem mems_pumpPeer (s : State) (n i k : Nat) : mems (pumpPeer s n i k) = mems s := by
  induction k generalizing s with
  | zero => rfl
  | succ k ih =>
    unfold pumpPeer
    dsimp only
    (repeat' split) <;> simp [ih]

@[simp] theorem mems_podSend (s : State) (n i type : Nat) (body : List Byte) (token : Bool) : mems (podSend s n i type body token) = mems s := by
  unfold podSend
  simp

@[simp] theorem mems_restartPeer (s : State) (n i : Nat) : mems (restartPeer s n i) = mems s := by
  unfold restartPeer
  simp

@[simp] theorem mems_restart (s : State) (n i : Nat) : mems (restart s n i) = mems s := by
  unfold restart
  simp

@[simp] theorem mems_peerCtrl (s : State) (n i v : Nat) : mems (peerCtrl s n i v) = mems s := by
  unfold peerCtrl
  simp

@[simp] theorem mems_policeStage (s : State) (n i b colour : Nat) : mems (policeStage s n i b colour).1 = mems s := by
  unfold policeStage
  dsimp only
  (repeat' split) <;> simp

@[simp] theorem mems_takeAck (s : State) (n i a : Nat) : mems (takeAck s n i a) = mems s := by
  unfold takeAck
  dsimp only
  (repeat' split) <;> simp

/-- The state that a received frame leaves, where it says one. -/
def rxState : Rx → Option State
  | .ignored => none
  | .dropped s => some s
  | .part s => some s
  | .hello s _ => some s
  | .ack s _ => some s
  | .lost s _ _ _ => some s
  | .message s _ _ _ _ => some s

theorem mems_acceptFrame (s : State) (n i b : Nat) (h : List Byte) : ∀ t ∈ rxState (acceptFrame s n i b h), mems t = mems s := by
  intro t ht
  unfold acceptFrame at ht
  dsimp only at ht
  (repeat' split at ht) <;> cases ht <;> simp

theorem mems_sequenceStage (s : State) (n i b : Nat) (h : List Byte) : ∀ t ∈ rxState (sequenceStage s n i b h), mems t = mems s := by
  intro t ht
  unfold sequenceStage at ht
  dsimp only at ht
  split at ht
  · rw [← Option.some.inj ht]
    simp
  split at ht
  · rw [← Option.some.inj ht]
    simp
  split at ht
  · rw [← Option.some.inj ht]
    simp
  split at ht
  · rw [mems_acceptFrame _ _ _ _ _ t ht, mems_takeAck]
  (repeat' split at ht) <;> rw [← Option.some.inj ht] <;> simp

theorem mems_receive {s : State} {n : Nat} {f : RxFrame} {x : Rx} (hx : receive s n f = x) {t : State} (ht : rxState x = some t) :
    mems t = mems s := by
  subst hx
  unfold receive at ht
  dsimp only at ht
  split at ht
  · cases ht
  split at ht
  · cases ht
    rfl
  split at ht
  · cases ht
    simp
  split at ht
  · cases ht
    simp
  split at ht
  · cases ht
    simp
  split at ht
  · cases ht
    simp
  split at ht
  · cases ht
    simp
  · rw [mems_sequenceStage _ _ _ _ _ t ht, mems_policeStage]

@[simp] theorem mems_messagePart (s : State) (n : Nat) (f : RxFrame) : mems (messagePart s n f) = mems s := by
  unfold messagePart
  split
  · next h => simp [mems_receive h rfl]
  · next h => simp [mems_receive h rfl]
  · rfl

@[simp] theorem mems_helloFrame (s : State) (n : Nat) (f : RxFrame) : mems (helloFrame s n f) = mems s := by
  unfold helloFrame
  split
  · next h => simp [mems_receive h rfl]
  · next h => simp [mems_receive h rfl]
  · rfl

@[simp] theorem mems_ackFrame (s : State) (n : Nat) (f : RxFrame) : mems (ackFrame s n f) = mems s := by
  unfold ackFrame
  split
  · next h => simp [mems_receive h rfl]
  · rfl

@[simp] theorem mems_ackDelay (s : State) (n i : Nat) : mems (ackDelay s n i) = mems s := by
  unfold ackDelay
  simp

@[simp] theorem mems_resend (s : State) (n i : Nat) : mems (resend s n i) = mems s := by
  unfold resend
  simp

@[simp] theorem mems_rtoExpiry (s : State) (n i : Nat) : mems (rtoExpiry s n i) = mems s := by
  unfold rtoExpiry
  simp

@[simp] theorem mems_peerRetry (s : State) (n i : Nat) : mems (peerRetry s n i) = mems s := by
  unfold peerRetry
  simp

@[simp] theorem mems_pendingExpiry (s : State) (n i : Nat) : mems (pendingExpiry s n i) = mems s := by
  unfold pendingExpiry
  simp

@[simp] theorem mems_beginReset (s : State) (cls i : Nat) : mems (beginReset s cls i) = mems s := by
  unfold beginReset
  simp

@[simp] theorem mems_endReset (s : State) (cls i : Nat) (m : UnitMode) : mems (endReset s cls i m) = mems s := by
  unfold endReset
  dsimp only
  split <;> simp

@[simp] theorem mems_podReset (s : State) (n : Nat) : mems (podReset s n) = mems s := by
  unfold podReset
  simp

@[simp] theorem mems_podEnable (s : State) (n : Nat) (on : Bool) : mems (podEnable s n on) = mems s := by
  unfold podEnable
  simp

@[simp] theorem mems_trainedFull (s : State) (u : TrainUnit) (r : TrainRec) : mems (trainedFull s u r) = mems s := by
  unfold trainedFull
  simp

@[simp] theorem mems_trainUnit (s : State) (u : TrainUnit) (x1 : LinkTraining) : mems (trainUnit s u x1) = mems s := by
  unfold trainUnit
  simp

@[simp] theorem mems_podLinkUp (s : State) (n media : Nat) (x1 : LinkTraining) : mems (podLinkUp s n media x1) = mems s := by
  unfold podLinkUp
  simp

@[simp] theorem mems_podLinkDown (s : State) (n : Nat) : mems (podLinkDown s n) = mems s := by
  unfold podLinkDown
  simp

@[simp] theorem mems_polCtrl (s : State) (n i v : Nat) : mems (polCtrl s n i v) = mems s := by
  unfold polCtrl
  simp

@[simp] theorem mems_refillAll (s : State) : mems (refillAll s) = mems s := by
  unfold refillAll
  simp

@[simp] theorem mems_gateChange (s : State) (n : Nat) : mems (gateChange s n) = mems s := by
  unfold gateChange
  dsimp only
  split <;> simp

@[simp] theorem mems_shapeWrite (s : State) (n c off v : Nat) : mems (shapeWrite s n c off v) = mems s := by
  unfold shapeWrite
  simp

@[simp] theorem mems_classCk (s0 : State) (n c : Nat) : mems (classCk s0 n c) = mems s0 := by
  unfold classCk
  dsimp only
  (repeat' split) <;> simp

@[simp] theorem mems_portCk (s : State) (n : Nat) : mems (portCk s n) = mems s := by
  unfold portCk
  dsimp only
  (repeat' split) <;> simp

@[simp] theorem mems_sendHead (s : State) (n c deficit : Nat) : mems (sendHead s n c deficit) = mems s := by
  unfold sendHead
  dsimp only
  (repeat' split) <;> simp

@[simp] theorem mems_frameTransmit (s : State) (n : Nat) : mems (frameTransmit s n) = mems s := by
  unfold frameTransmit
  dsimp only
  repeat' split
  all_goals simp

/-! ## Machine/Assets -/

@[simp] theorem mems_setAsset (s : State) (a : Nat) (x1 : Asset) : mems (setAsset s a x1) = mems s := by
  unfold setAsset
  simp

@[simp] theorem mems_reap (s : State) (a : Nat) : mems (reap s a) = mems s := by
  unfold reap
  simp

@[simp] theorem mems_reapAll (s : State) : mems (reapAll s) = mems s := by
  unfold reapAll
  (repeat' split) <;> simp

@[simp] theorem mems_holdCmd (s : State) (field op : Nat) (args : List Nat) : mems (holdCmd s field op args) = mems s := by
  unfold holdCmd
  simp

@[simp] theorem mems_busyWrite (s : State) (off : Nat) : mems (busyWrite s off) = mems s := by
  unfold busyWrite
  simp

@[simp] theorem mems_assetFail (s : State) : mems (assetFail s) = mems s := by
  unfold assetFail
  simp

@[simp] theorem mems_stgStart (s : State) (op sel o n : Nat) : mems (stgStart s op sel o n) = mems s := by
  unfold stgStart
  simp

@[simp] theorem mems_stgCmd (s : State) (op : Nat) : mems (stgCmd s op) = mems s := by
  unfold stgCmd
  simp

@[simp] theorem mems_stgReport (s : State) (op code : Nat) : mems (stgReport s op code) = mems s := by
  unfold stgReport
  simp

@[simp] theorem mems_chargeFill (s : State) (c a ver : Nat) : mems (chargeFill s c a ver) = mems s := by
  unfold chargeFill
  split <;> simp

@[simp] theorem mems_sfuncFill (s : State) (c a ver : Nat) : mems (sfuncFill s c a ver) = mems s := by
  unfold sfuncFill
  dsimp only
  repeat' split
  all_goals simp

@[simp] theorem mems_setSwitch (s : State) (i : Nat) (x1 : Option Switch) : mems (setSwitch s i x1) = mems s := by
  unfold setSwitch
  simp

@[simp] theorem mems_swResult (s : State) (code slot : Nat) : mems (swResult s code slot) = mems s := by
  unfold swResult
  simp

@[simp] theorem mems_swJournal (s : State) (a ver at_ op slot : Nat) : mems (swJournal s a ver at_ op slot) = mems s := by
  unfold swJournal
  dsimp only
  (repeat' split) <;> simp

@[simp] theorem mems_swCommitRun (s : State) (a ver at_ : Nat) : mems (swCommitRun s a ver at_) = mems s := by
  unfold swCommitRun
  split <;> simp

@[simp] theorem mems_swCancelRun (s : State) (a ver at_ : Nat) : mems (swCancelRun s a ver at_) = mems s := by
  unfold swCancelRun
  split <;> simp

@[simp] theorem mems_swCmd (s : State) (op : Nat) : mems (swCmd s op) = mems s := by
  unfold swCmd
  simp

@[simp] theorem mems_swAcked (s : State) (refused : Option Nat) : mems (swAcked s refused) = mems s := by
  unfold swAcked
  dsimp only
  repeat' split
  all_goals simp

@[simp] theorem mems_makeCurrent (s : State) (a ver : Nat) : mems (makeCurrent s a ver) = mems s := by
  unfold makeCurrent
  simp

@[simp] theorem mems_switchApply (s : State) (i : Nat) : mems (switchApply s i) = mems s := by
  unfold switchApply
  split <;> simp

@[simp] theorem mems_dueSwitches (s : State) : mems (dueSwitches s) = mems s := by
  unfold dueSwitches
  simp

/-! ## Machine/Seq -/

@[simp] theorem mems_loopEffect (s : State) (c : Nat) (k : Core) (w : Nat) : mems (loopEffect s c k w) = mems s := by
  unfold loopEffect
  simp

@[simp] theorem mems_stepEndEffect (s : State) (c : Nat) (k : Core) : mems (stepEndEffect s c k) = mems s := by
  unfold stepEndEffect
  simp

@[simp] theorem mems_offerAgain (s : State) (c : Nat) (k : Core) (items : List Nat) : mems (offerAgain s c k items) = mems s := by
  unfold offerAgain
  split <;> simp

/-! ## Machine/Tables -/

@[simp] theorem mems_freeElems (s : State) (w n : Nat) (l : List Nat) : mems (freeElems s w n l).1 = mems s := by
  induction n generalizing s l with
  | zero => rfl
  | succ n ih =>
    rw [freeElems, ih]
    simp

@[simp] theorem mems_setBuild (s : State) (a : Nat) (b : Option Build) : mems (setBuild s a b) = mems s := by
  unfold setBuild
  simp

@[simp] theorem mems_openBuild (s : State) (a base ver slot : Nat) : mems (openBuild s a base ver slot) = mems s := by
  unfold openBuild
  simp

@[simp] theorem mems_tableAccess (s : State) (g o n : Nat) (wr : Bool) : mems (tableAccess s g o n wr) = mems s := by
  unfold tableAccess
  split <;> simp

@[simp] theorem mems_arithTable (s : State) (e : ArithEv) : mems (arithTable s e) = mems s := by
  unfold arithTable
  split <;> simp

@[simp] theorem mems_countApplied (s : State) (a n : Nat) : mems (countApplied s a n) = mems s := by
  unfold countApplied
  split <;> simp

@[simp] theorem mems_setBatches (s : State) (l : List BatchRun) : mems (setBatches s l) = mems s := by
  unfold setBatches
  simp

@[simp] theorem mems_dropBuild (s : State) (a : Nat) : mems (dropBuild s a) = mems s := by
  unfold dropBuild
  simp

@[simp] theorem mems_tabResult (s : State) (code : Nat) : mems (tabResult s code) = mems s := by
  unfold tabResult
  simp

@[simp] theorem mems_tabEnd (s : State) (code : Nat) : mems (tabEnd s code) = mems s := by
  unfold tabEnd
  simp

@[simp] theorem mems_tabRefused (s : State) (code : Nat) : mems (tabRefused s code) = mems s := by
  unfold tabRefused
  split <;> simp

@[simp] theorem mems_dropBatch (s : State) (x1 : BatchRun) : mems (dropBatch s x1) = mems s := by
  unfold dropBatch
  simp

@[simp] theorem mems_tabUnitReset (s : State) : mems (tabUnitReset s) = mems s := by
  unfold tabUnitReset
  simp

/-! ## Machine/Bond -/

@[simp] theorem mems_setUnitMode (s : State) (cls i : Nat) (m : UnitMode) : mems (setUnitMode s cls i m) = mems s := by
  unfold setUnitMode
  simp

@[simp] theorem mems_bumpEpochs (s : State) (classes : List Nat) : mems (bumpEpochs s classes) = mems s := by
  unfold bumpEpochs
  simp

@[simp] theorem mems_settleUnit (s : State) (cls g : Nat) (live : Bool) : mems (settleUnit s cls g live) = mems s := by
  unfold settleUnit
  simp

@[simp] theorem mems_loadRefused (s : State) : mems (loadRefused s) = mems s := by
  unfold loadRefused
  simp

@[simp] theorem mems_setBond (s : State) (b : BondSt) : mems (setBond s b) = mems s := by
  unfold setBond
  simp

@[simp] theorem mems_bondLoad (s : State) : mems (bondLoad s) = mems s := by
  unfold bondLoad
  simp

@[simp] theorem mems_loadReject (s : State) (b : Bad) : mems (loadReject s b) = mems s := by
  unfold loadReject
  simp

@[simp] theorem mems_setRegBytes (s : State) (a : Nat) (bs : List Byte) : mems (setRegBytes s a bs) = mems s := by
  unfold setRegBytes
  simp

@[simp] theorem mems_publishImage (s : State) (im : Option Image) : mems (publishImage s im) = mems s := by
  unfold publishImage
  simp

@[simp] theorem mems_clearImageState (s : State) : mems (clearImageState s) = mems s := by
  unfold clearImageState
  simp

@[simp] theorem mems_bondAbort (s : State) : mems (bondAbort s) = mems s := by
  unfold bondAbort
  simp

@[simp] theorem mems_currentInitials (s : State) (im : Image) : mems (currentInitials s im) = mems s := by
  unfold currentInitials
  simp

@[simp] theorem mems_sealRefuse (s : State) (code index : Nat) : mems (sealRefuse s code index) = mems s := by
  unfold sealRefuse
  simp

@[simp] theorem mems_setPairMode (s : State) (m : PairMode) : mems (setPairMode s m) = mems s := by
  unfold setPairMode
  simp

@[simp] theorem mems_unloadPair (s : State) : mems (unloadPair s) = mems s := by
  unfold unloadPair
  simp

/-! ## Machine/Text -/

@[simp] theorem mems_textUnitReset (s : State) : mems (textUnitReset s) = mems s := by
  refine mems_foldl _ (fun s p => ?_) _ _
  (repeat' split) <;> simp

@[simp] theorem mems_cacheLine (s : State) (e line : Nat) : mems (cacheLine s e line) = mems s := by
  unfold cacheLine
  split <;> simp

@[simp] theorem mems_cacheSpans (s : State) (e a ver : Nat) (spans : List (Nat × Nat)) : mems (cacheSpans s e a ver spans) = mems s := by
  unfold cacheSpans
  dsimp only
  (repeat' split) <;> simp

@[simp] theorem mems_cacheStack (s : State) (e n : Nat) : mems (cacheStack s e n) = mems s := by
  unfold cacheStack
  dsimp only
  (repeat' split) <;> simp

@[simp] theorem mems_setSeq (s : State) (e : Nat) (q : SeqEntry) : mems (setSeq s e q) = mems s := by
  unfold setSeq
  simp

@[simp] theorem mems_cacheVoc (s : State) (e v : Nat) (ts : List Nat) : mems (cacheVoc s e v ts) = mems s := by
  unfold cacheVoc
  split <;> simp

@[simp] theorem mems_maskBuild (s : State) (e : Nat) : mems (maskBuild s e) = mems s := by
  unfold maskBuild
  simp

@[simp] theorem mems_gramUnitReset (s : State) : mems (gramUnitReset s) = mems s := by
  unfold gramUnitReset
  simp

/-! ## Machine/Deliver -/

@[simp] theorem mems_answer (s : State) (o : Origin) (kind reqSeq : Nat) (payload : List Byte) : mems (answer s o kind reqSeq payload) = mems s := by
  unfold answer
  split <;> simp

@[simp] theorem mems_deliverTo (s : State) (r : Req) (f : State → State) (h : mems (f s) = mems s) : mems (deliverTo s r f) = mems s := by
  unfold deliverTo
  simp [h]

@[simp] theorem mems_admitEntry (s : State) (o : Origin) (reqSeq : Nat) (role : Bool) (report : List Byte) :
    mems (admitEntry s o reqSeq role report) = mems s := by
  unfold admitEntry
  simp

@[simp] theorem mems_admitted (s : State) (r : Req) : mems (admitted s r) = mems s := by
  unfold admitted
  simp

@[simp] theorem mems_sendToken (s : State) (r : Req) (t : TokRec) : mems (sendToken s r t) = mems s := by
  refine mems_deliverTo s r _ ?_
  split <;> simp

@[simp] theorem mems_sendResult (s : State) (r : Req) (parts : List (List Byte)) : mems (sendResult s r parts) = mems s := by
  refine mems_deliverTo s r _ ?_
  dsimp only
  split <;> simp

@[simp] theorem mems_handSend (s : State) (r : Req) (type b : Nat) (head body : List Byte) : mems (handSend s r type b head body) = mems s := by
  unfold handSend
  split <;> simp

@[simp] theorem mems_sendPrompt (s : State) (r : Req) : mems (sendPrompt s r) = mems s := by
  unfold sendPrompt
  simp

/-! ## Machine/Serve -/

@[simp] theorem mems_setVset (s : State) (v : Nat) (l : List (Nat × Nat)) : mems (setVset s v l) = mems s := by
  unfold setVset
  simp

theorem mems_acquireSet (s : State)  : ∀ t ∈ acquireSet s , mems t.1 = mems s := by
  intro t ht
  unfold acquireSet at ht
  dsimp only at ht
  (repeat' split at ht) <;> simp at ht <;> (try subst ht) <;> simp

theorem mems_setWith (s : State) (l : List (Nat × Nat)) : ∀ t ∈ setWith s l, mems t.1 = mems s := by
  intro t ht
  unfold setWith at ht
  split at ht
  · cases ht
    rfl
  · obtain ⟨v, -, rfl⟩ := Option.map_eq_some_iff.mp ht
    simp

@[simp] theorem mems_setCancels (s : State) (l : List PendCancel) : mems (setCancels s l) = mems s := by
  unfold setCancels
  simp

@[simp] theorem mems_releaseOld (s : State) : mems (releaseOld s) = mems s := by
  unfold releaseOld
  simp

@[simp] theorem mems_dropReq (s : State) (k : Nat) (r : Req) : mems (dropReq s k r) = mems s := by
  unfold dropReq
  split <;> simp

@[simp] theorem mems_freeEnded (s : State) : mems (freeEnded s) = mems s := by
  refine mems_foldl _ (fun s p => ?_) _ _
  split <;> simp

@[simp] theorem mems_endReq (s : State) (k : Nat) : mems (endReq s k) = mems s := by
  unfold endReq
  split <;> simp

@[simp] theorem mems_setBlocks (s : State) (l : List Nat) : mems (setBlocks s l) = mems s := by
  unfold setBlocks
  simp

@[simp] theorem mems_setNode (s : State) (n : Nat) (x1 : Option Node) : mems (setNode s n x1) = mems s := by
  unfold setNode
  simp

@[simp] theorem mems_setBucket (s : State) (b : Nat) (l : Option Nat) : mems (setBucket s b l) = mems s := by
  unfold setBucket
  simp

@[simp] theorem mems_linkNode (s : State) (n : Nat) (x1 : Node) : mems (linkNode s n x1) = mems s := by
  unfold linkNode
  dsimp only
  split <;> simp

@[simp] theorem mems_unlinkNode (s : State) (n : Nat) (x1 : Node) : mems (unlinkNode s n x1) = mems s := by
  unfold unlinkNode
  simp

@[simp] theorem mems_evictFor (s : State) (need n : Nat) : mems (evictFor s need n) = mems s := by
  induction n generalizing s with
  | zero => rfl
  | succ n ih =>
    unfold evictFor
    (repeat' split) <;> simp [ih]

@[simp] theorem mems_takeBlock (s : State) (e : Nat) : mems (takeBlock s e) = mems s := by
  unfold takeBlock
  simp

@[simp] theorem mems_growBlocks (s : State) (e n k : Nat) : mems (growBlocks s e n k) = mems s := by
  induction k generalizing s with
  | zero => rfl
  | succ k ih =>
    unfold growBlocks
    (repeat' split) <;> simp [ih]

@[simp] theorem mems_collisions (s : State) (n : Nat) : mems (collisions s n) = mems s := by
  unfold collisions
  simp

@[simp] theorem mems_walkTree (s : State) (e key : Nat) (ts : List Nat) (i n : Nat) : mems (walkTree s e key ts i n) = mems s := by
  induction n generalizing s key i with
  | zero => rfl
  | succ n ih =>
    unfold walkTree
    dsimp only
    (repeat' split) <;> simp [ih]

@[simp] theorem mems_insertBlock (s : State) (e i : Nat) : mems (insertBlock s e i) = mems s := by
  unfold insertBlock
  dsimp only
  split <;> simp

@[simp] theorem mems_insertFull (s : State) (e n : Nat) : mems (insertFull s e n) = mems s := by
  induction n generalizing s with
  | zero => rfl
  | succ n ih =>
    unfold insertFull
    (repeat' split) <;> simp [ih]

@[simp] theorem mems_pinPath (s : State) (up : Bool) (l : List Nat) : mems (pinPath s up l) = mems s := by
  refine mems_foldl _ (fun s n => ?_) _ _
  split <;> simp

@[simp] theorem mems_pinNode (s : State) (n : Nat) : mems (pinNode s n).1 = mems s := by
  unfold pinNode
  dsimp only
  (repeat' split) <;> simp

@[simp] theorem mems_pinResult (s : State) (c : Nat) : mems (pinResult s c) = mems s := by
  unfold pinResult
  simp

@[simp] theorem mems_ptPin (s : State) : mems (ptPin s) = mems s := by
  unfold ptPin
  dsimp only
  (repeat' split) <;> simp

@[simp] theorem mems_ptUnpin (s : State) : mems (ptUnpin s) = mems s := by
  unfold ptUnpin
  split <;> simp

@[simp] theorem mems_releaseSeq (s : State) (e : Nat) : mems (releaseSeq s e) = mems s := by
  unfold releaseSeq
  simp only [mems_setSeq, mems_setBlocks]
  refine mems_foldl _ (fun s n => ?_) _ _
  split <;> simp

@[simp] theorem mems_countReason (s : State) (reason : Nat) : mems (countReason s reason) = mems s := by
  unfold countReason
  split <;> simp

@[simp] theorem mems_keepSampled (s : State) (q : SeqEntry) : mems (keepSampled s q) = mems s := by
  unfold keepSampled
  simp

@[simp] theorem mems_endSeq (s : State) (e tsn reason : Nat) : mems (endSeq s e tsn reason) = mems s := by
  unfold endSeq
  simp

@[simp] theorem mems_sendRecord (s : State) (q : SeqEntry) (t : TokRec) : mems (sendRecord s q t) = mems s := by
  unfold sendRecord
  split <;> simp

@[simp] theorem mems_endNoToken (s : State) (e reason gram : Nat) : mems (endNoToken s e reason gram) = mems s := by
  unfold endNoToken
  simp

@[simp] theorem mems_takeToken (s : State) (e t : Nat) : mems (takeToken s e t) = mems s := by
  unfold takeToken
  simp

@[simp] theorem mems_tokenText (s : State) (e t : Nat) : mems (tokenText s e t) = mems s := by
  unfold tokenText
  simp

@[simp] theorem mems_tokenLines (s : State) (e t : Nat) : mems (tokenLines s e t) = mems s := by
  unfold tokenLines
  simp

@[simp] theorem mems_sitOut (s : State) (e : Nat) : mems (sitOut s e) = mems s := by
  unfold sitOut
  simp

@[simp] theorem mems_sampleToken (s : State) (e : Nat) (logits : List Nat) : mems (sampleToken s e logits) = mems s := by
  unfold sampleToken
  dsimp only
  repeat' split
  all_goals simp

@[simp] theorem mems_endPending (s : State) (e : Nat) : mems (endPending s e) = mems s := by
  unfold endPending
  split <;> simp

@[simp] theorem mems_sendBlocks (s : State) (r : Req) (q : SeqEntry) : mems (sendBlocks s r q) = mems s := by
  unfold sendBlocks
  simp

@[simp] theorem mems_prefillDone (s : State) (e : Nat) : mems (prefillDone s e) = mems s := by
  unfold prefillDone
  dsimp only
  (repeat' split) <;> simp

@[simp] theorem mems_endEmpty (s : State) (e : Nat) : mems (endEmpty s e) = mems s := by
  unfold endEmpty
  simp

@[simp] theorem mems_lookupEntry (s : State) (e : Nat) : mems (lookupEntry s e) = mems s := by
  unfold lookupEntry
  simp

@[simp] theorem mems_settleTree (s : State) : mems (settleTree s) = mems s := by
  unfold settleTree
  simp

@[simp] theorem mems_enterPrefill (s : State) (e : Nat) (prompt : List Nat) : mems (enterPrefill s e prompt) = mems s := by
  unfold enterPrefill
  simp

@[simp] theorem mems_replayText (s : State) (e : Nat) (ts : List Nat) : mems (replayText s e ts) = mems s := by
  unfold replayText
  simp

@[simp] theorem mems_replaySeq (s : State) (e : Nat) (prompt : List Nat) : mems (replaySeq s e prompt) = mems s := by
  unfold replaySeq
  simp

@[simp] theorem mems_cancelRun (s : State) (seq : Nat) (role : Bool) : mems (cancelRun s seq role).1 = mems s := by
  unfold cancelRun
  dsimp only
  (repeat' split) <;> simp

@[simp] theorem mems_serveCancel (s : State) (role : Bool) : mems (serveCancel s role) = mems s := by
  unfold serveCancel
  dsimp only
  (repeat' split) <;> simp

@[simp] theorem mems_cancelEntry (s : State) (o : Origin) (code target : Nat) : mems (cancelEntry s o code target) = mems s := by
  unfold cancelEntry
  simp

@[simp] theorem mems_settleCancels (s : State) (all : Bool) : mems (settleCancels s all) = mems s := by
  refine (mems_foldl _ (fun s c => ?_) _ _).trans (mems_setCancels s _)
  split <;> simp

@[simp] theorem mems_winSnapshot (s : State) (e : Nat) : mems (winSnapshot s e) = mems s := by
  unfold winSnapshot
  simp

/-! ## Machine/Rerank -/

@[simp] theorem mems_countPassage (s : State) (x : Passage) : mems (countPassage s x) = mems s := by
  cases x <;> simp [countPassage]

@[simp] theorem mems_tsEnd (s : State) (code : Nat) : mems (tsEnd s code) = mems s := by
  unfold tsEnd
  simp

@[simp] theorem mems_tsAcked (s : State) : mems (tsAcked s) = mems s := by
  unfold tsAcked
  split <;> simp

@[simp] theorem mems_chargeCandidate (s : State) (c g id keep : Nat) : mems (chargeCandidate s c g id keep) = mems s := by
  unfold chargeCandidate
  split <;> simp

@[simp] theorem mems_shardSend (s : State) (r : Req) (shard type : Nat) (body : List Byte) : mems (shardSend s r shard type body) = mems s := by
  unfold shardSend
  simp

@[simp] theorem mems_unmatched (s : State) (n : Nat) : mems (unmatched s n) = mems s := by
  unfold unmatched
  simp

@[simp] theorem mems_sendRun (s : State) (r : Req) : mems (sendRun s r) = mems s := by
  unfold sendRun
  simp

@[simp] theorem mems_takeRun (s : State) (r : Req) (body : List Byte) : mems (takeRun s r body) = mems s := by
  unfold takeRun
  simp

@[simp] theorem mems_selRun (s : State) (n : Nat) (f : RxFrame) : mems (selRun s n f) = mems s := by
  unfold selRun
  split
  · next h =>
    (repeat' split) <;> simp [mems_receive h rfl]
  · rfl

@[simp] theorem mems_askShards (s : State) (r : Req) : mems (askShards s r) = mems s := by
  unfold askShards
  simp

@[simp] theorem mems_answerTokens (s : State) (n i : Nat) (r : Req) (body : List Byte) : mems (answerTokens s n i r body) = mems s := by
  unfold answerTokens
  simp

@[simp] theorem mems_tokReq (s : State) (n : Nat) (f : RxFrame) : mems (tokReq s n f) = mems s := by
  unfold tokReq
  split
  · next h =>
    (repeat' split) <;> simp [mems_receive h rfl]
  · rfl

@[simp] theorem mems_fetchBegin (s : State) (r : Req) (b : Nat) : mems (fetchBegin s r b) = mems s := by
  unfold fetchBegin
  split <;> simp

@[simp] theorem mems_fetchEnd (s : State) (r : Req) (last : Bool) : mems (fetchEnd s r last) = mems s := by
  unfold fetchEnd
  simp

@[simp] theorem mems_scoreRows (s : State) (k sect : Nat) (logits : List (Option Nat)) : mems (scoreRows s k sect logits) = mems s := by
  unfold scoreRows
  split <;> simp

@[simp] theorem mems_rerankSelect (s : State) (r : Req) : mems (rerankSelect s r) = mems s := by
  unfold rerankSelect
  split <;> simp

@[simp] theorem mems_packReq (s : State) (k : Nat) (full : Bool) : mems (packReq s k full) = mems s := by
  unfold packReq
  dsimp only
  repeat' split
  all_goals simp

/-! ## Machine/Admit -/

@[simp] theorem mems_chargeItems (s : State) (account : Option Nat) (sect key n : Nat) : mems (chargeItems s account sect key n) = mems s := by
  unfold chargeItems
  split <;> simp

@[simp] theorem mems_chargeItem (s : State) (account : Option Nat) (sect key : Nat) : mems (chargeItem s account sect key) = mems s := by
  unfold chargeItem
  simp

@[simp] theorem mems_setQueue (s : State) (a : Nat) (l : List Req) : mems (setQueue s a l) = mems s := by
  unfold setQueue
  simp

@[simp] theorem mems_markActive (s : State) (a : Nat) : mems (markActive s a) = mems s := by
  unfold markActive
  simp

@[simp] theorem mems_refuse (s : State) (r : Req) (code planned : Nat) : mems (refuse s r code planned) = mems s := by
  unfold refuse
  split <;> simp

@[simp] theorem mems_arrive (s : State) (r : Req) : mems (arrive s r) = mems s := by
  unfold arrive
  simp

@[simp] theorem mems_refuseAll (s : State) (code : Nat) : mems (refuseAll s code) = mems s := by
  unfold refuseAll
  simp

@[simp] theorem mems_admitCtrl (s : State) (on : Bool) : mems (admitCtrl s on) = mems s := by
  unfold admitCtrl
  simp

@[simp] theorem mems_setBound (s : State) (b : Nat) (x1 : Bound) : mems (setBound s b x1) = mems s := by
  unfold setBound
  simp

@[simp] theorem mems_examined (s : State) (b : Nat) : mems (examined s b) = mems s := by
  unfold examined
  simp

@[simp] theorem mems_takeEntry (s : State) (r : Req) : mems (takeEntry s r).1 = mems s := by
  unfold takeEntry
  dsimp only
  (repeat' split) <;> simp

@[simp] theorem mems_journalAccept (s : State) (k : Nat) (newSet : Bool) : mems (journalAccept s k newSet) = mems s := by
  unfold journalAccept
  dsimp only
  (repeat' split) <;> simp

@[simp] theorem mems_releaseAdmits (s : State) (all : Bool) : mems (releaseAdmits s all) = mems s := by
  unfold releaseAdmits
  simp

@[simp] theorem mems_leaveQueue (s : State) (r : Req) : mems (leaveQueue s r) = mems s := by
  unfold leaveQueue
  simp

@[simp] theorem mems_edgeUsed (s : State) : mems (edgeUsed s) = mems s := by
  unfold edgeUsed
  simp

@[simp] theorem mems_bumpPowered (s : State) : mems (bumpPowered s) = mems s := by
  unfold bumpPowered
  simp

/-! ## Machine/Mailbox -/

@[simp] theorem mems_setChan (s : State) (c : Nat) (x1 : Chan) : mems (setChan s c x1) = mems s := by
  unfold setChan
  simp

@[simp] theorem mems_lockRead (s : State) (c n : Nat) : mems (lockRead s c n) = mems s := by
  unfold lockRead
  split <;> simp

@[simp] theorem mems_lockWrite (s : State) (c n v : Nat) : mems (lockWrite s c n v) = mems s := by
  unfold lockWrite
  simp

@[simp] theorem mems_setAck (s : State) (c id code : Nat) : mems (setAck s c id code) = mems s := by
  unfold setAck
  simp

@[simp] theorem mems_dropPending (s : State) (c : Nat) : mems (dropPending s c) = mems s := by
  unfold dropPending
  split <;> simp

@[simp] theorem mems_forceRelease (s : State) (c : Nat) : mems (forceRelease s c) = mems s := by
  unfold forceRelease
  simp

@[simp] theorem mems_ackRaw (s : State) (c code : Nat) (resp : List Byte) : mems (ackRaw s c code resp) = mems s := by
  unfold ackRaw
  split <;> simp

@[simp] theorem mems_setSession (s : State) (x1 : Session) : mems (setSession s x1) = mems s := by
  unfold setSession
  simp

@[simp] theorem mems_closeSession (s : State) : mems (closeSession s) = mems s := by
  unfold closeSession
  simp

@[simp] theorem mems_ackChan (s : State) (c code : Nat) (resp : List Byte) : mems (ackChan s c code resp) = mems s := by
  unfold ackChan
  simp

@[simp] theorem mems_refuseSession (s : State) (c : Nat) : mems (refuseSession s c) = mems s := by
  unfold refuseSession
  simp

@[simp] theorem mems_readMessage (s : State) (c : Nat) : mems (readMessage s c) = mems s := by
  unfold readMessage
  simp

@[simp] theorem mems_takeMessage (s : State) (c code : Nat) {act : State → Nat → State} (h : ∀ t n, mems (act t n) = mems t) :
    mems (takeMessage s c code act) = mems s := by
  unfold takeMessage
  (repeat' split) <;> simp [h]

@[simp] theorem mems_doorbell (s : State) (c n len id : Nat) : mems (doorbell s c n len id) = mems s := by
  unfold doorbell
  simp

/-! ## Machine/Submit -/

@[simp] theorem mems_malformed (s : State) (o : Origin) (f : Fail) : mems (malformed s o f) = mems s := by
  unfold malformed
  simp

@[simp] theorem mems_countFail (s : State) (f : Fail) : mems (countFail s f) = mems s := by
  unfold countFail
  simp

@[simp] theorem mems_cancelSub (s : State) (o : Origin) (own : Req → Bool) (e : List Byte) : mems (cancelSub s o own e) = mems s := by
  unfold cancelSub
  dsimp only
  (repeat' split) <;> simp

@[simp] theorem mems_headOn (s : State) (q : Nat) : mems (headOn s q) = mems s := by
  unfold headOn
  simp

@[simp] theorem mems_takeSubmission (s : State) (q : Nat) (e : List Byte) {f : State → State} (h : ∀ t, mems (f t) = mems t) :
    mems (takeSubmission s q e f) = mems s := by
  unfold takeSubmission
  dsimp only
  (repeat' split) <;> simp [h]

@[simp] theorem mems_hostMalformed (s : State) (q : Nat) (o : Origin) (f : Fail) : mems (hostMalformed s q o f) = mems s := by
  unfold hostMalformed
  simp

@[simp] theorem mems_submitQuery (s : State) (q : Nat) (e d : List Byte) (ok : Bool) : mems (submitQuery s q e d ok) = mems s := by
  unfold submitQuery
  dsimp only
  repeat' split
  all_goals simp

@[simp] theorem mems_lostMessage (s : State) (n i ty msg : Nat) : mems (lostMessage s n i ty msg) = mems s := by
  unfold lostMessage
  simp

@[simp] theorem mems_podRequest (s : State) (n : Nat) (f : RxFrame) : mems (podRequest s n f) = mems s := by
  unfold podRequest
  split
  · next h =>
    dsimp only
    (repeat' split) <;> simp [mems_receive h rfl]
  · next h => simp [mems_receive h rfl]
  · rfl

@[simp] theorem mems_podCancel (s : State) (n : Nat) (f : RxFrame) : mems (podCancel s n f) = mems s := by
  unfold podCancel
  split
  · next h =>
    dsimp only
    (repeat' split) <;> simp [mems_receive h rfl]
  · rfl

@[simp] theorem mems_frameDrop (s : State) (n : Nat) (f : RxFrame) : mems (frameDrop s n f) = mems s := by
  unfold frameDrop
  split
  · next h => simp [mems_receive h rfl]
  · next h => simp [mems_receive h rfl]
  · rfl

@[simp] theorem mems_rerankLate (s : State) (r : Req) : mems (rerankLate s r) = mems s := by
  unfold rerankLate
  split <;> simp

@[simp] theorem mems_completeFront (s : State) (k : Nat) : mems (completeFront s k) = mems s := by
  unfold completeFront
  dsimp only
  repeat' split
  all_goals simp

@[simp] theorem mems_releaseResult (s : State) (k : Nat) (r : Req) : mems (releaseResult s k r) = mems s := by
  unfold releaseResult
  dsimp only
  (repeat' split) <;> simp

@[simp] theorem mems_completionInstant (s : State) (k : Nat) : mems (completionInstant s k) = mems s := by
  unfold completionInstant
  dsimp only
  repeat' split
  all_goals simp

/-! ## Machine/HostPort -/

@[simp] theorem mems_enablePair (s : State) (q : Nat) (on : Bool) : mems (enablePair s q on) = mems s := by
  unfold enablePair
  simp

@[simp] theorem mems_qEnable (s : State) (q : Nat) (on : Bool) : mems (qEnable s q on) = mems s := by
  unfold qEnable
  simp

@[simp] theorem mems_ring (s : State) (f k off : Nat) {act : Nat → State} (h : ∀ q, mems (act q) = mems s) : mems (ring s f k off act) = mems s := by
  unfold ring
  split
  · simp
  · exact h _

@[simp] theorem mems_resetPair (s : State) (q : Nat) : mems (resetPair s q) = mems s := by
  unfold resetPair
  simp

@[simp] theorem mems_resetFunction (s : State) (f : Nat) : mems (resetFunction s f) = mems s := by
  unfold resetFunction
  simp

@[simp] theorem mems_functionReset (s : State) (f : Nat) : mems (functionReset s f) = mems s := by
  unfold functionReset
  simp

@[simp] theorem mems_hotReset (s : State) (x1 : Bool) : mems (hotReset s x1) = mems s := by
  unfold hotReset
  simp

@[simp] theorem mems_hostLinkUp (s0 : State) (link : Nat) (x1 : LinkTraining) : mems (hostLinkUp s0 link x1) = mems s0 := by
  unfold hostLinkUp
  simp

/-! ## Machine/Pairing -/

@[simp] theorem mems_setTwin (s : State) (t : TwinSt) : mems (setTwin s t) = mems s := by
  unfold setTwin
  simp

@[simp] theorem mems_ackReleases (s : State) : mems (ackReleases s) = mems s := by
  unfold ackReleases
  dsimp only
  split <;> simp

@[simp] theorem mems_lossReleases (s : State) : mems (lossReleases s) = mems s := by
  unfold lossReleases
  dsimp only
  split <;> simp

@[simp] theorem mems_dropShadows (s : State) : mems (dropShadows s) = mems s := by
  refine mems_foldl _ (fun s p => ?_) _ _
  split <;> simp

@[simp] theorem mems_discardCopy (s : State) (r : Resync) : mems (discardCopy s r) = mems s := by
  unfold discardCopy
  dsimp only
  split <;> simp

@[simp] theorem mems_dropPendingSeal (s : State) : mems (dropPendingSeal s) = mems s := by
  unfold dropPendingSeal
  simp

@[simp] theorem mems_declareFault (s : State) (cause : Nat) : mems (declareFault s cause) = mems s := by
  unfold declareFault
  simp

@[simp] theorem mems_takeAckCred (s : State) (v ack cred : Nat) : mems (takeAckCred s v ack cred) = mems s := by
  unfold takeAckCred
  simp

@[simp] theorem mems_takeHeader (s : State) (f : FiricRx) : mems (takeHeader s f) = mems s := by
  unfold takeHeader
  simp

@[simp] theorem mems_badFrame (s : State) : mems (badFrame s) = mems s := by
  unfold badFrame
  simp

@[simp] theorem mems_firicUe (s : State) (syndrome : Nat) : mems (firicUe s syndrome) = mems s := by
  unfold firicUe
  simp

@[simp] theorem mems_receiveFiric (s : State) (f : FiricRx) (type : Nat) {act : State → List Byte → State} (h : ∀ t p, mems (act t p) = mems t) :
    mems (receiveFiric s f type act) = mems s := by
  unfold receiveFiric
  dsimp only
  (repeat' split) <;> simp [h]

/-! ## Machine/Security -/

@[simp] theorem mems_setSec (s : State) (x1 : SecSt) : mems (setSec s x1) = mems s := by
  unfold setSec
  simp

@[simp] theorem mems_sessionOpen (s : State) (nonce : List Byte) (addr : Nat) (ok : Bool) : mems (sessionOpen s nonce addr ok) = mems s :=
  mems_takeMessage _ _ _ fun t n => by
    dsimp only
    (repeat' split) <;> simp

@[simp] theorem mems_sessionKey (s : State) (ct : List Byte) (ok : Bool) : mems (sessionKey s ct ok) = mems s :=
  mems_takeMessage _ _ _ fun t n => by
    dsimp only
    (repeat' split) <;> simp

@[simp] theorem mems_sessionClose (s : State) (c : Nat) : mems (sessionClose s c) = mems s :=
  mems_takeMessage _ _ _ fun t n => by
    simp

@[simp] theorem mems_getReport (s : State) (c : Nat) (nonce : List Byte) (addr : Nat) : mems (getReport s c nonce addr) = mems s :=
  mems_takeMessage _ _ _ fun t n => by
    dsimp only
    (repeat' split) <;> simp

@[simp] theorem mems_finishReport (s : State) (c : Nat) (nonce : List Byte) (addr : Nat) (ok : Bool) :
    mems (finishReport s c nonce addr ok) = mems s := by
  unfold finishReport
  simp

@[simp] theorem mems_mbAck_ackOther (s : State) (c code : Nat) : mems (mbAck.ackOther s c code) = mems s := by
  unfold mbAck.ackOther
  (repeat' split) <;> simp

@[simp] theorem mems_mbAck (s : State) (c code : Nat) : mems (mbAck s c code) = mems s := by
  unfold mbAck
  (repeat' split) <;> simp

@[simp] theorem mems_setAssetKeys (s : State) (l : List AssetKey) : mems (setAssetKeys s l) = mems s := by
  unfold setAssetKeys
  simp

@[simp] theorem mems_installKey (s : State) (k : AssetKey) : mems (installKey s k) = mems s := by
  unfold installKey
  simp

@[simp] theorem mems_keyRelease (s : State) (c : Nat) (o : List Byte) (ok : Bool) : mems (keyRelease s c o ok) = mems s :=
  mems_takeMessage _ _ _ fun t n => by
    (repeat' split) <;> simp

@[simp] theorem mems_keyRevoke (s : State) (c id : Nat) : mems (keyRevoke s c id) = mems s :=
  mems_takeMessage _ _ _ fun t n => by
    (repeat' split) <;> simp

@[simp] theorem mems_enrollRoot (s : State) (c : Nat) (key sig : List Byte) (ok : Bool) : mems (enrollRoot s c key sig ok) = mems s :=
  mems_takeMessage _ _ _ fun t n => by
    (repeat' split) <;> simp

@[simp] theorem mems_setFloor (s : State) (c id floor : Nat) (sig : List Byte) (ok : Bool) : mems (setFloor s c id floor sig ok) = mems s :=
  mems_takeMessage _ _ _ fun t n => by
    (repeat' split) <;> simp

@[simp] theorem mems_debugExpiry (s : State) : mems (debugExpiry s) = mems s := by
  unfold debugExpiry
  split <;> simp

@[simp] theorem mems_setJobKey (s : State) (i : Nat) (k : Option JobKey) : mems (setJobKey s i k) = mems s := by
  unfold setJobKey
  simp

@[simp] theorem mems_jobKeyOpen (s : State) (c : Nat) (peer : Option Nat) (ct : List Byte) (ok : Bool) : mems (jobKeyOpen s c peer ct ok) = mems s :=
  mems_takeMessage _ _ _ fun t n => by
    dsimp only
    (repeat' split) <;> simp

@[simp] theorem mems_jobKeyClose (s : State) (c h : Nat) : mems (jobKeyClose s c h) = mems s :=
  mems_takeMessage _ _ _ fun t n => by
    (repeat' split) <;> simp

/-! ## Machine/Twin -/

@[simp] theorem mems_applyVset (s : State) (j : JEntry) : mems (applyVset s j) = mems s := by
  unfold applyVset
  simp

@[simp] theorem mems_applySwitch (s : State) (j : JEntry) : mems (applySwitch s j) = mems s := by
  unfold applySwitch
  dsimp only
  repeat' split
  all_goals simp

@[simp] theorem mems_applyCancel (s : State) (j : JEntry) : mems (applyCancel s j) = mems s := by
  unfold applyCancel
  dsimp only
  split <;> simp

@[simp] theorem mems_applyTokens (s : State) (j : JEntry) : mems (applyTokens s j) = mems s := by
  unfold applyTokens
  dsimp only
  repeat' split
  all_goals simp

@[simp] theorem mems_applyResult (s : State) (j : JEntry) : mems (applyResult s j) = mems s := by
  unfold applyResult
  dsimp only
  split <;> simp

@[simp] theorem mems_applyEnd (s : State) (j : JEntry) : mems (applyEnd s j) = mems s := by
  unfold applyEnd
  dsimp only
  split <;> simp

@[simp] theorem mems_noteJob (s : State) (slot : Nat) : mems (noteJob s slot) = mems s := by
  unfold noteJob
  split <;> simp

@[simp] theorem mems_noteKey (s : State) (id : Nat) : mems (noteKey s id) = mems s := by
  unfold noteKey
  split <;> simp

@[simp] theorem mems_applyKey (s : State) (j : JEntry) : mems (applyKey s j) = mems s := by
  unfold applyKey
  dsimp only
  repeat' split
  all_goals simp

@[simp] theorem mems_withPages (s : State) (a : Nat) : mems (withPages s a) = mems s := by
  unfold withPages
  split <;> simp

@[simp] theorem mems_applyAssetState (s : State) (j : JEntry) : mems (applyAssetState s j) = mems s := by
  unfold applyAssetState
  simp

@[simp] theorem mems_applyBuildState (s : State) (j : JEntry) : mems (applyBuildState s j) = mems s := by
  unfold applyBuildState
  dsimp only
  split <;> simp

@[simp] theorem mems_passEntry (s : State) (j : JEntry) (rest : List Byte) : mems (passEntry s j rest) = mems s := by
  unfold passEntry
  simp

@[simp] theorem mems_sendCtrl (s : State) (op pass jseq count : Nat) (digest : List Byte) : mems (sendCtrl s op pass jseq count digest) = mems s := by
  unfold sendCtrl
  simp

@[simp] theorem mems_setResync (s : State) (r : Resync) : mems (setResync s r) = mems s := by
  unfold setResync
  simp

@[simp] theorem mems_takeVerdict (s : State) (verdict : Option Bool) : mems (takeVerdict s verdict) = mems s := by
  unfold takeVerdict
  split <;> simp

@[simp] theorem mems_checkSplit (s : State) : mems (checkSplit s) = mems s := by
  unfold checkSplit
  simp

@[simp] theorem mems_takeHeartbeat (s : State) (p : List Byte) : mems (takeHeartbeat s p) = mems s := by
  unfold takeHeartbeat
  simp

@[simp] theorem mems_takeIdentity (s : State) (good : Bool) (part variant : Nat) (roots : List Byte) (unlocked : Bool) (id : Nat)
    (kem : List Byte) : mems (takeIdentity s good part variant roots unlocked id kem) = mems s := by
  unfold takeIdentity
  simp

@[simp] theorem mems_takeCiphertext (s : State) (ct : List Byte) : mems (takeCiphertext s ct) = mems s := by
  unfold takeCiphertext
  dsimp only
  repeat' split
  all_goals simp

@[simp] theorem mems_sendSegment (s : State) (x1 : Nat) : mems (sendSegment s x1) = mems s := by
  unfold sendSegment
  simp

@[simp] theorem mems_startPass (s : State) (r : Resync) (segs : List Nat) : mems (startPass s r segs) = mems s := by
  unfold startPass
  simp

@[simp] theorem mems_beginSource (s : State) : mems (beginSource s) = mems s := by
  unfold beginSource
  simp

@[simp] theorem mems_rejoin (s : State) : mems (rejoin s) = mems s := by
  unfold rejoin
  simp

@[simp] theorem mems_takeMbox (m : TwinMsg) (s : State) (p : List Byte) : mems (takeMbox m s p) = mems s := by
  cases m with
  | channel c data =>
    unfold takeMbox
    dsimp only
    split
    · exact mems_setChan s c _
    · rfl
  | _ => simp [takeMbox]

@[simp] theorem mems_sendState (s : State) (r : Resync) : mems (sendState s r) = mems s := by
  simp only [sendState, mems_bumpBy, mems_setResync, mems_sendCtrl, mems_sendStream]

@[simp] theorem mems_passDone (s : State) : mems (passDone s) = mems s := by
  unfold passDone
  split <;> simp

@[simp] theorem mems_receiveCtrl (s : State) (f : FiricRx) (op : Nat) {act : State → Resync → List Byte → State}
    (h : ∀ t r p, mems (act t r p) = mems t) : mems (receiveCtrl s f op act) = mems s := by
  unfold receiveCtrl
  split
  · rfl
  · refine mems_receiveFiric _ _ _ fun t p => ?_
    split
    · exact h _ _ _
    · rfl

@[simp] theorem mems_linkUpFiric (s0 : State) (peerSolo : Bool) (x1 : LinkTraining) : mems (linkUpFiric s0 peerSolo x1) = mems s0 := by
  unfold linkUpFiric
  simp

@[simp] theorem mems_adopt (s : State) (k : Nat) : mems (adopt s k) = mems s := by
  unfold adopt
  dsimp only
  repeat' split
  all_goals simp

@[simp] theorem mems_ownShadows (s : State) : mems (ownShadows s) = mems s := by
  unfold ownShadows
  simp

@[simp] theorem mems_takeover (s : State) : mems (takeover s) = mems s := by
  unfold takeover
  simp

/-! ## Machine/Boundary -/

@[simp] theorem mems_scanEnded (s : State) (sect i : Nat) (r : Req) : mems (scanEnded s sect i r) = mems s := by
  unfold scanEnded
  simp

@[simp] theorem mems_selectEnded (s : State) (i : Nat) (r : Req) : mems (selectEnded s i r) = mems s := by
  unfold selectEnded
  simp

@[simp] theorem mems_frontEnded (x1 : Section) (io : StepIn) (lost : List Nat) (s : State) (it : Nat × Nat) :
    mems (frontEnded x1 io lost s it) = mems s := by
  unfold frontEnded
  dsimp only
  repeat' split
  all_goals simp

@[simp] theorem mems_scanStarted (s : State) (sect i : Nat) (r : Req) : mems (scanStarted s sect i r) = mems s := by
  unfold scanStarted
  dsimp only
  repeat' split
  all_goals simp

@[simp] theorem mems_mergeStarted (s : State) (b : Nat) (r : Req) : mems (mergeStarted s b r) = mems s := by
  unfold mergeStarted
  simp

@[simp] theorem mems_frontStarted (x1 : Section) (b : Nat) (s : State) (it : Nat × Nat) : mems (frontStarted x1 b s it) = mems s := by
  unfold frontStarted
  dsimp only
  repeat' split
  all_goals simp

@[simp] theorem mems_prefillRan (s : State) (e n : Nat) : mems (prefillRan s e n) = mems s := by
  unfold prefillRan
  simp

@[simp] theorem mems_journalTokens (s : State) (role : Bool) (seq first : Nat) (ts : List Nat) :
    mems (journalTokens s role seq first ts) = mems s := by
  unfold journalTokens
  simp

@[simp] theorem mems_tokensEntry (s : State) (e : Nat) : mems (tokensEntry s e) = mems s := by
  unfold tokensEntry
  simp

@[simp] theorem mems_stepTokens (s : State) : mems (stepTokens s) = mems s := by
  unfold stepTokens
  simp

@[simp] theorem mems_chargeRan (x1 : Section) (s : State) (w : Nat × Nat × Nat) : mems (chargeRan x1 s w) = mems s := by
  unfold chargeRan
  simp

@[simp] theorem mems_callerItem (x1 : Section) (s : State) (w : Nat × Nat × Nat) : mems (callerItem x1 s w) = mems s := by
  unfold callerItem
  simp

@[simp] theorem mems_unlist (s : State) (kind : Nat) : mems (unlist s kind) = mems s := by
  unfold unlist
  simp

@[simp] theorem mems_settleEnd (s : State) (x1 : Section) (e reason : Nat) : mems (settleEnd s x1 e reason) = mems s := by
  unfold settleEnd
  simp

@[simp] theorem mems_endAtBoundary (s : State) (x : Section) (b : Nat) : mems (endAtBoundary s x b) = mems s := by
  unfold endAtBoundary
  split
  · rfl
  · refine mems_foldl _ (fun s e => ?_) _ _
    split <;> simp

@[simp] theorem mems_callerEnded (s : State) (x1 : Section) (b : Nat) : mems (callerEnded s x1 b) = mems s := by
  unfold callerEnded
  simp

@[simp] theorem mems_deferItems (s : State) (es : List Nat) : mems (deferItems s es) = mems s := by
  unfold deferItems
  simp

@[simp] theorem mems_listItem (x1 : Section) (s : State) (e : Nat) : mems (listItem x1 s e) = mems s := by
  unfold listItem
  simp

@[simp] theorem mems_setWork (s : State) (i : Nat) (w : List (Nat × Nat × Nat)) : mems (setWork s i w) = mems s := by
  unfold setWork
  simp

@[simp] theorem mems_callerStarted (s : State) (x1 : Section) (b : Nat) (late : List Nat) : mems (callerStarted s x1 b late) = mems s := by
  unfold callerStarted
  simp

@[simp] theorem mems_tableStarted (s : State) (x1 : Section) (b : Nat) : mems (tableStarted s x1 b) = mems s := by
  unfold tableStarted
  simp

@[simp] theorem mems_openStep (s : State) (i b : Nat) : mems (openStep s i b) = mems s := by
  unfold openStep
  simp

@[simp] theorem mems_gatesFirst (s : State) : mems (gatesFirst s) = mems s := by
  unfold gatesFirst
  simp

/-! ## Machine/Power -/

@[simp] theorem mems_setPlinth (s : State) (p : PlinthSt) : mems (setPlinth s p) = mems s := by
  unfold setPlinth
  simp

@[simp] theorem mems_sampleInto (s : State) (cal : Nat → Nat × Nat × Int) (v i t : Nat) : mems (sampleInto s cal v i t) = mems s := by
  unfold sampleInto
  simp

@[simp] theorem mems_uvWarn (s : State) : mems (uvWarn s) = mems s := by
  unfold uvWarn
  simp

@[simp] theorem mems_peakLimit (s : State) : mems (peakLimit s) = mems s := by
  unfold peakLimit
  simp

theorem mems_withEnergy (s : State) (e : EnergySt) : mems { s with energy := e } = mems s := rfl

@[simp] theorem mems_acceptRecord (s : State) (b : List Byte) : mems (acceptRecord s b) = mems s := by
  unfold acceptRecord
  extract_lets s1 s2 s3 s4
  refine (mems_setPlinth _ _).trans ((mems_withEnergy s4 _).trans ?_)
  simp only [s4, s3, s2, s1, mems_setReg64, mems_setReg]

@[simp] theorem mems_plinthRecord (s : State) (crossed : Option (List Byte)) : mems (plinthRecord s crossed) = mems s := by
  unfold plinthRecord
  simp

@[simp] theorem mems_inputValid (s : State) : mems (inputValid s) = mems s := by
  unfold inputValid
  simp

@[simp] theorem mems_railFail (s : State) : mems (railFail s) = mems s := by
  unfold railFail
  simp

@[simp] theorem mems_powerRetry (s : State) : mems (powerRetry s) = mems s := by
  unfold powerRetry
  simp

@[simp] theorem mems_inputLoss (s : State) : mems (inputLoss s) = mems s := by
  unfold inputLoss
  simp

/-! ## Machine/Bringup -/

@[simp] theorem mems_setStage (s : State) (x1 : BringUp) : mems (setStage s x1) = mems s := by
  unfold setStage
  simp

@[simp] theorem mems_halt (s : State) (code index : Nat) : mems (halt s code index) = mems s := by
  unfold halt
  simp

@[simp] theorem mems_setIdent (s : State) (b : List Byte) : mems (setIdent s b) = mems s := by
  unfold setIdent
  simp

@[simp] theorem mems_takeFuses (s : State) (b : List Byte) : mems (takeFuses s b) = mems s := by
  unfold takeFuses
  simp

@[simp] theorem mems_boot (s : State) (b : List Byte) (fw : Nat → Bool × Nat × List Byte) (active floor : Nat) :
    mems (boot s b fw active floor) = mems s := by
  unfold boot
  dsimp only
  repeat' split
  all_goals simp

@[simp] theorem mems_resetRelease (s : State) (b : List Byte) (fw : Nat → Bool × Nat × List Byte) (active floor : Nat) :
    mems (resetRelease s b fw active floor) = mems s := by
  unfold resetRelease
  simp

@[simp] theorem mems_discoveryDone (s : State) (d : Discovery) : mems (discoveryDone s d) = mems s := by
  unfold discoveryDone
  dsimp only
  (repeat' split) <;> simp

@[simp] theorem mems_trainingDone (s : State) (t : Training) : mems (trainingDone s t) = mems s := by
  unfold trainingDone
  dsimp only
  (repeat' split) <;> simp

@[simp] theorem mems_trainingRecordWrite (s : State) (u : TrainUnit) : mems (trainingRecordWrite s u) = mems s := by
  unfold trainingRecordWrite
  dsimp only
  repeat' split
  all_goals simp

@[simp] theorem mems_timeWaitDone (s : State) : mems (timeWaitDone s) = mems s := by
  unfold timeWaitDone
  simp

@[simp] theorem mems_candidatesLost (s : State) (g : Nat) : mems (candidatesLost s g) = mems s := by
  unfold candidatesLost
  simp

@[simp] theorem mems_groupWorkLost (s : State) (g : Nat) : mems (groupWorkLost s g) = mems s := by
  unfold groupWorkLost
  dsimp only
  repeat' split
  all_goals simp

@[simp] theorem mems_selectionLost (s : State) (g : Nat) : mems (selectionLost s g) = mems s := by
  unfold selectionLost
  simp

@[simp] theorem mems_runsLost (s : State) (g : Nat) : mems (runsLost s g) = mems s := by
  unfold runsLost
  simp

@[simp] theorem mems_endWithGroup (s : State) (g : Nat) : mems (endWithGroup s g) = mems s := by
  unfold endWithGroup
  simp

/-! ## Machine/Monitor -/

@[simp] theorem mems_ceStorm (s : State) : mems (ceStorm s) = mems s := by
  unfold ceStorm
  simp

@[simp] theorem mems_countCe (s : State) (p : EccPlaceOf) (syndrome : Nat) : mems (countCe s p syndrome) = mems s := by
  unfold countCe
  split <;> simp

@[simp] theorem mems_countUe (s : State) (p : EccPlaceOf) : mems (countUe s p) = mems s := by
  unfold countUe
  split <;> simp

@[simp] theorem mems_fatal (s : State) (p : EccPlaceOf) (syndrome : Nat) : mems (fatal s p syndrome) = mems s := by
  unfold fatal
  simp

@[simp] theorem mems_markMem (s : State) (hit : Nat → SeqEntry → Bool) : mems (markMem s hit) = mems s := by
  unfold markMem
  simp

@[simp] theorem mems_invalidate (s : State) (hit : Nat → Node → Bool) : mems (invalidate s hit) = mems s := by
  unfold invalidate
  simp

@[simp] theorem mems_kvError (s : State) (k : KvPool) (o : Nat) : mems (kvError s k o) = mems s := by
  unfold kvError
  simp

@[simp] theorem mems_passEnds (s : State) (x : EccPlaceOf) : mems (passEnds s x) = mems s := by
  cases x <;> simp [passEnds]

@[simp] theorem mems_scrubEvent (s : State) (p : EccPlaceOf) : mems (scrubEvent s p) = mems s := by
  unfold scrubEvent
  split <;> simp

@[simp] theorem mems_setCounter (s : State) (n v : Nat) : mems (setCounter s n v) = mems s := by
  unfold setCounter
  simp

@[simp] theorem mems_evtSelect (s : State) (n v : Nat) : mems (evtSelect s n v) = mems s := by
  unfold evtSelect
  simp

@[simp] theorem mems_evtFreeze (s : State) (on : Bool) : mems (evtFreeze s on) = mems s := by
  unfold evtFreeze
  simp

@[simp] theorem mems_evtClear (s : State) : mems (evtClear s) = mems s := by
  unfold evtClear
  simp

@[simp] theorem mems_evtWrap (s : State) (n : Nat) : mems (evtWrap s n) = mems s := by
  unfold evtWrap
  simp

@[simp] theorem mems_evtSnapshot (s : State) : mems (evtSnapshot s) = mems s := by
  unfold evtSnapshot
  simp

/-! ## Machine/Time -/

@[simp] theorem mems_setTime (s : State) (t : TimeSt) : mems (setTime s t) = mems s := by
  unfold setTime
  simp

@[simp] theorem mems_timeFault (s : State) (c : FaultCause) : mems (timeFault s c) = mems s := by
  unfold timeFault
  simp

@[simp] theorem mems_wrapNear (s : State) : mems (wrapNear s) = mems s := by
  unfold wrapNear
  simp

@[simp] theorem mems_wrapFault (s : State) : mems (wrapFault s) = mems s := by
  unfold wrapFault
  simp

@[simp] theorem mems_wrapHold (s : State) : mems (wrapHold s) = mems s := by
  unfold wrapHold
  simp

@[simp] theorem mems_wrapTests (s : State) : mems (wrapTests s) = mems s := by
  unfold wrapTests
  simp

@[simp] theorem mems_slip (s : State) : mems (slip s) = mems s := by
  unfold slip
  simp

@[simp] theorem mems_boundarySlip (s : State) : mems (boundarySlip s) = mems s := by
  unfold boundarySlip
  simp

@[simp] theorem mems_passCk (s : State) (k : Nat) : mems (passCk s k) = mems s := by
  induction k generalizing s with
  | zero => rfl
  | succ k ih =>
    unfold passCk
    (repeat' split) <;> simp [ih]

@[simp] theorem mems_creditSection (s : State) (x1 : Section) : mems (creditSection s x1) = mems s := by
  unfold creditSection
  simp

@[simp] theorem mems_creditAll (s : State) : mems (creditAll s) = mems s := by
  unfold creditAll
  (repeat' split) <;> simp

@[simp] theorem mems_localBeat (s : State) : mems (localBeat s) = mems s := by
  unfold localBeat
  simp

@[simp] theorem mems_beatEdge (s : State) : mems (beatEdge s) = mems s := by
  unfold beatEdge
  simp

@[simp] theorem mems_idleCk (s : State) : mems (idleCk s) = mems s := by
  unfold idleCk
  simp

@[simp] theorem mems_holdoverEnter (s : State) : mems (holdoverEnter s) = mems s := by
  unfold holdoverEnter
  simp

@[simp] theorem mems_beatLoss (s : State) : mems (beatLoss s) = mems s := by
  unfold beatLoss
  dsimp only
  split <;> simp

@[simp] theorem mems_beatLost (s : State) : mems (beatLost s) = mems s := by
  unfold beatLost
  simp

@[simp] theorem mems_beatBack (s : State) : mems (beatBack s) = mems s := by
  unfold beatBack
  simp

@[simp] theorem mems_beatReturn (s : State) : mems (beatReturn s) = mems s := by
  unfold beatReturn
  simp

@[simp] theorem mems_forceHoldover (s : State) (on : Bool) : mems (forceHoldover s on) = mems s := by
  unfold forceHoldover
  simp

@[simp] theorem mems_measureMarker (s : State) : mems (measureMarker s) = mems s := by
  unfold measureMarker
  simp

@[simp] theorem mems_frameCompare (s : State) (c m : Nat) : mems (frameCompare s c m) = mems s := by
  unfold frameCompare
  dsimp only
  repeat' split
  all_goals simp

@[simp] theorem mems_relock (s : State) : mems (relock s) = mems s := by
  unfold relock
  simp

@[simp] theorem mems_holdoverExit (s : State) (o : Int) : mems (holdoverExit s o) = mems s := by
  unfold holdoverExit
  simp

@[simp] theorem mems_tcLost (s : State) : mems (tcLost s) = mems s := by
  unfold tcLost
  simp

@[simp] theorem mems_slewDone (s : State) : mems (slewDone s) = mems s := by
  unfold slewDone
  simp

@[simp] theorem mems_reload (s : State) : mems (reload s) = mems s := by
  unfold reload
  simp

/-! ## Machine/Measure -/

@[simp] theorem mems_beatMeasured (s : State) (hz : Nat) : mems (beatMeasured s hz) = mems s := by
  unfold beatMeasured
  simp

@[simp] theorem mems_cleanCount (s : State) : mems (cleanCount s) = mems s := by
  unfold cleanCount
  simp

@[simp] theorem mems_cadenceSeen (s : State) : mems (cadenceSeen s) = mems s := by
  unfold cadenceSeen
  simp

@[simp] theorem mems_learnRatio (s : State) (locked : Bool) (cycles : Nat) : mems (learnRatio s locked cycles) = mems s := by
  unfold learnRatio
  simp

@[simp] theorem mems_beatBoundary (s : State) (hz cycles : Nat) : mems (beatBoundary s hz cycles) = mems s := by
  unfold beatBoundary
  simp

@[simp] theorem mems_shareBoundary (s : State) : mems (shareBoundary s) = mems s := by
  unfold shareBoundary
  simp

@[simp] theorem mems_recalibrate (s : State) (m : Int) (p : Int × List Nat × Int × Nat) : mems (recalibrate s m p) = mems s := by
  unfold recalibrate
  simp

@[simp] theorem mems_energyReading (s : State) : mems (energyReading s) = mems s := by
  unfold energyReading
  split <;> simp

@[simp] theorem mems_closePrediction (s : State) (fBar : Int) : mems (closePrediction s fBar) = mems s := by
  unfold closePrediction
  simp

@[simp] theorem mems_allowance (s : State) : mems (allowance s) = mems s := by
  unfold allowance
  simp

@[simp] theorem mems_thermalBoundary (s : State) : mems (thermalBoundary s) = mems s := by
  unfold thermalBoundary
  simp

@[simp] theorem mems_governor (s : State) : mems (governor s) = mems s := by
  unfold governor
  simp

@[simp] theorem mems_recordMissed (s : State) : mems (recordMissed s) = mems s := by
  unfold recordMissed
  simp

@[simp] theorem mems_plinthBoundary (s : State) : mems (plinthBoundary s) = mems s := by
  unfold plinthBoundary
  simp

@[simp] theorem mems_enterPaired (s : State) (bitsSet : Nat) : mems (enterPaired s bitsSet) = mems s := by
  unfold enterPaired
  simp

@[simp] theorem mems_heartbeatCount (s : State) : mems (heartbeatCount s) = mems s := by
  unfold heartbeatCount
  simp

@[simp] theorem mems_heartbeatSend (s0 : State) : mems (heartbeatSend s0) = mems s0 := by
  unfold heartbeatSend
  simp

@[simp] theorem mems_dropOld (s : State) : mems (dropOld s) = mems s := by
  unfold dropOld
  simp

/-! ## Machine/Registers -/

@[simp] theorem mems_clearWords (s : State) (b n : Nat) : mems (clearWords s b n) = mems s := by
  induction n generalizing s b with
  | zero => rfl
  | succ n ih =>
    rw [clearWords, ih]
    simp

theorem mems_clearMeter (s : State) (n b : Nat) : ∀ t ∈ clearMeter s n b, mems t = mems s := by
  intro t ht
  unfold clearMeter at ht
  dsimp only at ht
  (repeat' split at ht) <;> simp at ht <;> (try subst ht) <;> simp

@[simp] theorem mems_afterRead (s : State) (r : RegRow) (b : Nat) : mems (afterRead s r b) = mems s := by
  unfold afterRead
  split
  · split
    · next t h => exact mems_clearMeter s _ _ t h
    · simp
  · rfl

@[simp] theorem mems_setLatch (s : State) (b v : Nat) : mems (setLatch s b v) = mems s := by
  unfold setLatch
  simp

@[simp] theorem mems_readWord (s : State) (n off : Nat) : mems (readWord s n off).2 = mems s := by
  unfold readWord
  dsimp only
  (repeat' split) <;> simp

@[simp] theorem mems_readChannel (s : State) (n off : Nat) : mems (readChannel s n off).2 = mems s := by
  unfold readChannel
  dsimp only
  (repeat' split) <;> simp

@[simp] theorem mems_readAt (s : State) (n off : Nat) : mems (readAt s n off).2 = mems s := by
  unfold readAt
  split <;> simp

@[simp] theorem mems_readWide (s : State) (n off : Nat) : mems (readWide s n off).2 = mems s := by
  unfold readWide
  dsimp only
  (repeat' split) <;> simp

@[simp] theorem mems_readDebug (s : State) (size : Nat) : mems (readDebug s size).2 = mems s := by
  unfold readDebug
  split <;> simp

@[simp] theorem mems_readBar (s : State) (f off size : Nat) : mems (readBar s f off size).2 = mems s := by
  unfold readBar
  (repeat' split) <;> simp

@[simp] theorem mems_hostRead (s : State) (f off size : Nat) : mems (hostRead s f off size) = mems s := by
  unfold hostRead
  simp

@[simp] theorem mems_beatCtrl (s : State) (v : Nat) : mems (beatCtrl s v) = mems s := by
  unfold beatCtrl
  simp

@[simp] theorem mems_twinCtrl (s : State) (v : Nat) : mems (twinCtrl s v) = mems s := by
  unfold twinCtrl
  simp

@[simp] theorem mems_evtCtrl (s : State) (v : Nat) : mems (evtCtrl s v) = mems s := by
  unfold evtCtrl
  simp

@[simp] theorem mems_accountWrite (s : State) (off v : Nat) : mems (accountWrite s off v) = mems s := by
  unfold accountWrite
  simp

@[simp] theorem mems_ceilingWrite (s : State) (v : Nat) : mems (ceilingWrite s v) = mems s := by
  unfold ceilingWrite
  simp

@[simp] theorem mems_sizeWrite (s : State) (n q v : Nat) : mems (sizeWrite s n q v) = mems s := by
  unfold sizeWrite
  simp

@[simp] theorem mems_pairCtrl (s : State) (q v : Nat) : mems (pairCtrl s q v) = mems s := by
  unfold pairCtrl
  simp

@[simp] theorem mems_hsnWrite (s : State) (n q v : Nat) : mems (hsnWrite s n q v) = mems s := by
  unfold hsnWrite
  simp

theorem mems_pairWrite (s : State) (n off v : Nat) : ∀ t ∈ pairWrite s n off v, mems t = mems s := by
  intro t ht
  unfold pairWrite at ht
  dsimp only at ht
  (repeat' split at ht) <;> simp at ht <;> (try subst ht) <;> simp

@[simp] theorem mems_dataWrite (s : State) (n c o v : Nat) : mems (dataWrite s n c o v) = mems s := by
  unfold dataWrite
  simp

@[simp] theorem mems_peerWrite (s : State) (n : Nat) (f : Peer → Peer) : mems (peerWrite s n f) = mems s := by
  unfold peerWrite
  simp

theorem mems_meterWrite (s : State) (n off v : Nat) : ∀ t ∈ meterWrite s n off v, mems t = mems s := by
  intro t ht
  unfold meterWrite at ht
  dsimp only at ht
  (repeat' split at ht) <;> simp at ht <;> (try subst ht) <;> simp

theorem mems_peerWindow (s : State) (n off v : Nat) : ∀ t ∈ peerWindow s n off v, mems t = mems s := by
  intro t ht
  unfold peerWindow at ht
  (repeat' split at ht) <;> cases ht <;> simp

@[simp] theorem mems_portCtrl (s : State) (n v : Nat) : mems (portCtrl s n v) = mems s := by
  unfold portCtrl
  simp

theorem mems_classWrite (s : State) (n o v : Nat) : ∀ t ∈ classWrite s n o v, mems t = mems s := by
  intro t ht
  unfold classWrite at ht
  dsimp only at ht
  (repeat' split at ht) <;> simp at ht <;> (try subst ht) <;> simp

theorem mems_portWrite (s : State) (off v : Nat) : ∀ t ∈ portWrite s off v, mems t = mems s := by
  intro t ht
  unfold portWrite at ht
  dsimp only at ht
  split at ht
  · split at ht
    · cases ht
      simp
    · cases ht
  · split at ht
    · exact mems_classWrite s _ _ _ t ht
    · split at ht
      · exact mems_meterWrite s _ _ _ t ht
      · exact mems_peerWindow s _ _ _ t ht

@[simp] theorem mems_winWrite (s : State) (limit high : Bool) (v : Nat) : mems (winWrite s limit high v) = mems s := by
  unfold winWrite
  simp

theorem mems_secWrite (s : State) (off v : Nat) : ∀ t ∈ secWrite s off v, mems t = mems s := by
  intro t ht
  unfold secWrite at ht
  (repeat' split at ht) <;> cases ht <;> simp

@[simp] theorem mems_lkRefused (s : State) (n off : Nat) : mems (lkRefused s n off) = mems s := by
  unfold lkRefused
  simp

@[simp] theorem mems_codeWrite (s : State) (r : RegRow) (n off d v : Nat) : mems (codeWrite s r n off d v) = mems s := by
  unfold codeWrite
  split <;> simp

@[simp] theorem mems_doorbellWrite (s : State) (f off : Nat) (data : List Byte) : mems (doorbellWrite s f off data) = mems s := by
  unfold doorbellWrite
  dsimp only
  (repeat' split) <;> simp

@[simp] theorem mems_pageAccess (s : State) (f off size : Nat) (write : Bool) : mems (pageAccess s f off size write) = mems s := by
  unfold pageAccess
  simp

/-! ## Machine/Step -/

@[simp] theorem mems_State_withFetchWord (s : State) (nbits w : Nat) : mems (State.withFetchWord s nbits w) = mems s := by
  unfold State.withFetchWord
  split <;> simp

end Sys2Proof.Laws
end

section
/-!
SUPPORT. The memories in canonical form: every function of the model that writes one writes it by `memWrite` or `memZero`.
-/
namespace Sys2Proof.Laws

open Sys2Proof.Machine

/-- Three memories in canonical form. -/
def Canon (m : Mem × Mem × Mem) : Prop := twf memDefault m.1 = true ∧ twf memDefault m.2.1 = true ∧ twf memDefault m.2.2 = true

theorem canon_mems (s : State) : Canon (mems s) ↔ MemoriesCanonical s := Iff.rfl

theorem canon_staging {a b c : Mem} (n : Nat) (l : List Byte) (h : Canon (a, b, c)) : Canon (memWrite a n l, b, c) :=
  ⟨mem_wf_write n l h.1, h.2.1, h.2.2⟩

theorem canon_lpddr {a b c : Mem} (n : Nat) (l : List Byte) (h : Canon (a, b, c)) : Canon (a, memWrite b n l, c) :=
  ⟨h.1, mem_wf_write n l h.2.1, h.2.2⟩

theorem canon_lpddr_zero {a b c : Mem} (n k : Nat) (h : Canon (a, b, c)) : Canon (a, memZero b n k, c) :=
  ⟨h.1, mem_wf_zero n k h.2.1, h.2.2⟩

theorem canon_scratch {a b c : Mem} (n : Nat) (l : List Byte) (h : Canon (a, b, c)) : Canon (a, b, memWrite c n l) :=
  ⟨h.1, h.2.1, mem_wf_write n l h.2.2⟩

theorem canon_scratch_zero {a b c : Mem} (n k : Nat) (h : Canon (a, b, c)) : Canon (a, b, memZero c n k) :=
  ⟨h.1, h.2.1, mem_wf_zero n k h.2.2⟩

theorem canon_lpddr_nil {a b c : Mem} (h : Canon (a, b, c)) : Canon (a, [], c) := ⟨h.1, rfl, h.2.2⟩

theorem canon_nil : Canon ([], [], []) := ⟨rfl, rfl, rfl⟩

theorem canon_ite {p : Prop} [Decidable p] {a b : State} (ha : Canon (mems a)) (hb : Canon (mems b)) : Canon (mems (if p then a else b)) := by
  split
  · exact ha
  · exact hb

theorem canon_foldl {α : Type} (f : State → α → State) (hf : ∀ s x, Canon (mems s) → Canon (mems (f s x))) (l : List α) {s : State}
    (h : Canon (mems s)) : Canon (mems (l.foldl f s)) := by
  induction l generalizing s with
  | nil => exact h
  | cons x l ih => exact ih (hf s x h)

/-! ## Machine/Ops -/

@[simp] theorem canon_spPut (s : State) (c x : Nat) (bs : List Byte) (h : Canon (mems s)) : Canon (mems (spPut s c x bs)) := canon_scratch _ _ h

@[simp] theorem canon_spWrite (s : State) (c x : Nat) (bs : List Byte) (h : Canon (mems s)) : Canon (mems (spWrite s c x bs)) := by
  unfold spWrite
  simp [h]

@[simp] theorem canon_ldWrite (s : State) (g o : Nat) (bs : List Byte) (h : Canon (mems s)) : Canon (mems (ldWrite s g o bs)) := canon_lpddr _ _ h

/-! ## Machine/Operands -/

@[simp] theorem canon_spPutElem (s : State) (c x : Nat) (f : Fmt) (i code : Nat) (h : Canon (mems s)) : Canon (mems (spPutElem s c x f i code)) := by
  unfold spPutElem
  simp [h]

/-! ## Machine/Special -/

@[simp] theorem canon_smxMergeEffect (s : State) (c : Nat) (k : Core) (w : Nat) (h : Canon (mems s)) : Canon (mems (smxMergeEffect s c k w)) := by
  unfold smxMergeEffect
  simp only [mems_modCore]
  exact canon_foldl _ (fun s r h => by simp [h]) _ h

/-! ## Machine/Chain -/

@[simp] theorem canon_statRow (s : State) (c : Nat) (st : Stage) (r : RowId) (b : Int) (j0 : Nat) (vs : List (Option Val)) (h : Canon (mems s)) :
    Canon (mems (statRow s c st r b j0 vs)) := by
  unfold statRow
  simp [h]

@[simp] theorem canon_rowBuffer (s : State) (c b pitch row j : Nat) (vs : List (Option Val)) (h : Canon (mems s)) :
    Canon (mems (rowBuffer s c b pitch row j vs)) := by
  induction vs generalizing s j with
  | nil => exact h
  | cons v vs ih =>
    unfold rowBuffer
    refine ih _ _ ?_
    cases v <;> simp [h]

@[simp] theorem canon_smxStage (s : State) (c : Nat) (st : Stage) (r : RowId) (tile pitch : Nat) (vs : List (Option Val)) (h : Canon (mems s)) :
    Canon (mems (smxStage s c st r tile pitch vs).1) := by
  unfold smxStage
  simp [h]

@[simp] theorem canon_stageRow (s : State) (c : Nat) (st : Stage) (r : RowId) (tile pitch j0 : Nat) (vs : List (Option Val)) (h : Canon (mems s)) :
    Canon (mems (stageRow s c st r tile pitch j0 vs).1) := by
  unfold stageRow
  (repeat' split) <;> simp [h]

@[simp] theorem canon_stagesRow (s : State) (c : Nat) (r : RowId) (b : Int) (tile pitch j0 : Nat) (l : List Stage) (o : RowOut)
    (h : Canon (mems s)) : Canon (mems (stagesRow s c r b tile pitch j0 l o).1) := by
  induction l generalizing s o with
  | nil => exact h
  | cons st l ih =>
    rw [stagesRow]
    dsimp only
    split
    · exact ih _ _ (by simp [h])
    · exact ih _ _ (by simp [h])

@[simp] theorem canon_storeRow (s : State) (c : Nat) (d : Store) (row j0 : Nat) (o : RowOut) (h : Canon (mems s)) :
    Canon (mems (storeRow s c d row j0 o)) := by
  unfold storeRow
  dsimp only
  split
  · refine canon_spWrite _ _ _ _ (canon_foldl _ (fun s i h => by simp [h]) _ (canon_foldl _ (fun s i h => ?_) _ h))
    split <;> simp [h]
  · refine canon_foldl _ (fun s i h => ?_) _ h
    split <;> simp [h]

@[simp] theorem canon_epilogueRow (s : State) (c : Nat) (ch : Chain) (e : EpiSt) (a : Int) (row j0 n : Nat) (vs : List (Option Val))
    (h : Canon (mems s)) : Canon (mems (epilogueRow s c ch e a row j0 n vs)) := by
  unfold epilogueRow
  (repeat' split) <;> simp [h]

@[simp] theorem canon_drainInto (s : State) (c a t : Nat) (ch : Chain) (e : EpiSt) (h : Canon (mems s)) : Canon (mems (drainInto s c a t ch e)) := by
  unfold drainInto
  dsimp only
  split
  · simp [h]
  · simp only [mems_modCore]
    exact canon_foldl _ (fun s i h => by simp [h]) _ (by simp [h])

@[simp] theorem canon_drainEffect (s : State) (c : Nat) (h : Canon (mems s)) : Canon (mems (drainEffect s c)) := by
  unfold drainEffect
  dsimp only
  (repeat' split) <;> simp [h]

@[simp] theorem canon_passRow (s : State) (c : Nat) (ch : Chain) (p : PassFields) (r : RowId) (h : Canon (mems s)) :
    Canon (mems (passRow s c ch p r).1) := by
  unfold passRow
  simp [h]

@[simp] theorem canon_storeBlockRow (s : State) (c : Nat) (f : Fmt) (p : PassFields) (row : Nat) (o : RowOut) (h : Canon (mems s)) :
    Canon (mems (storeBlockRow s c f p row o)) := by
  unfold storeBlockRow
  dsimp only
  split
  · exact canon_foldl _ (fun s i h => by simp [h]) _ (canon_foldl _ (fun s i h => by simp [h]) _ h)
  · exact canon_foldl _ (fun s i h => by simp [h]) _ h

@[simp] theorem canon_prologueEffect (s : State) (c : Nat) (k : Core) (w : Nat) (h : Canon (mems s)) : Canon (mems (prologueEffect s c k w)) := by
  unfold prologueEffect
  dsimp only
  split
  · simp [h]
  · simp only [mems_chainDone]
    exact canon_foldl _ (fun s r h => canon_storeBlockRow _ _ _ _ _ _ (canon_passRow _ _ _ _ _ h)) _ h

@[simp] theorem canon_vpassEffect (s : State) (c : Nat) (k : Core) (w : Nat) (h : Canon (mems s)) : Canon (mems (vpassEffect s c k w)) := by
  unfold vpassEffect
  dsimp only
  split
  · simp [h]
  · simp only [mems_chainDone]
    refine canon_foldl _ (fun s r h => ?_) _ h
    rw [mems_keepBound]
    exact canon_storeRow _ _ _ _ _ _ (canon_passRow _ _ _ _ _ h)

@[simp] theorem canon_recMergeEffect (s : State) (c : Nat) (k : Core) (w : Nat) (h : Canon (mems s)) : Canon (mems (recMergeEffect s c k w)) := by
  unfold recMergeEffect
  simp only [mems_chainDone]
  refine canon_foldl _ (fun s i h => ?_) _ h
  split
  · exact h
  · split <;> simp [h]

/-! ## Machine/Dma -/

@[simp] theorem canon_getEffect (s : State) (c : Nat) (k : Core) (w : Nat) (h : Canon (mems s)) : Canon (mems (getEffect s c k w)) := by
  unfold getEffect
  simp [h]

@[simp] theorem canon_putEffect (s : State) (c : Nat) (k : Core) (w : Nat) (h : Canon (mems s)) : Canon (mems (putEffect s c k w)) := by
  unfold putEffect
  simp [h]

@[simp] theorem canon_deliveryArrive (s : State) (c : Nat) (h : Canon (mems s)) : Canon (mems (deliveryArrive s c)) := by
  unfold deliveryArrive
  split
  · exact h
  split
  · simp [h]
  split
  · simp [h]
  dsimp only
  split
  · rw [mems_arrival]
    refine canon_spWrite _ _ _ _ ?_
    simp [h]
  · refine canon_spWrite _ _ _ _ ?_
    simp [h]

@[simp] theorem canon_spForget (s : State) (c : Nat) (h : Canon (mems s)) : Canon (mems (spForget s c)) := canon_scratch_zero _ _ h

@[simp] theorem canon_spFill (s : State) (c x : Nat) (bs : List Byte) (h : Canon (mems s)) : Canon (mems (spFill s c x bs)) := by
  unfold spFill
  (repeat' split) <;> simp [h]

@[simp] theorem canon_runFills (s : State) (c : Nat) (h : Canon (mems s)) : Canon (mems (runFills s c)) := by
  unfold runFills
  exact canon_foldl _ (fun s i h => by simp [h]) _ (by simp [h])

@[simp] theorem canon_sliceClearDone (s : State) (c i : Nat) (h : Canon (mems s)) : Canon (mems (sliceClearDone s c i)) := by
  unfold sliceClearDone
  split
  · refine canon_runFills _ _ ?_
    rw [mems_modCore]
    exact canon_scratch_zero _ _ h
  · exact h

@[simp] theorem canon_writeBack (s : State) (c yp : Nat) (h : Canon (mems s)) : Canon (mems (writeBack s c yp)) := by
  unfold writeBack
  simp only [mems_modCore, mems_event]
  exact canon_foldl _ (fun s i h => by simp [h]) _ h

@[simp] theorem canon_restore (s : State) (c yp : Nat) (h : Canon (mems s)) : Canon (mems (restore s c yp)) := by
  exact canon_foldl _ (fun s i h => by simp [h]) _ h

@[simp] theorem canon_zeroHandover (s : State) (c : Nat) (h : Canon (mems s)) : Canon (mems (zeroHandover s c)) := by
  unfold zeroHandover
  simp only [mems_modCore, mems_event]
  refine canon_foldl _ (fun s a h => ?_) _ h
  exact canon_scratch_zero _ _ h

@[simp] theorem canon_handover (s : State) (c yp : Nat) (g : Option Segment) (h : Canon (mems s)) : Canon (mems (handover s c yp g)) := by
  unfold handover
  dsimp only
  split
  · rw [mems_modCore]
    exact canon_ite (by simp [h]) (by simp [h])
  · refine canon_restore _ _ _ ?_
    rw [mems_modCore]
    exact canon_ite (by simp [h]) (by simp [h])

/-! ## Machine/Select -/

@[simp] theorem canon_putRun (s : State) (c dest slot x : Nat) (bytes : List Byte) (r : Run) (h : Canon (mems s)) :
    Canon (mems (putRun s c dest slot x bytes r)) := by
  unfold putRun
  (repeat' split) <;> simp [h]

@[simp] theorem canon_topkEffect (s : State) (c : Nat) (k : Core) (w : Nat) (h : Canon (mems s)) : Canon (mems (topkEffect s c k w)) := by
  unfold topkEffect
  simp [h]

@[simp] theorem canon_selMergeRun (s : State) (c : Nat) (k : Core) (w : Nat) (short : Bool) (h : Canon (mems s)) :
    Canon (mems (selMergeRun s c k w short)) := by
  unfold selMergeRun
  simp [h]

@[simp] theorem canon_selMergeEffect (s : State) (c : Nat) (k : Core) (w : Nat) (h : Canon (mems s)) : Canon (mems (selMergeEffect s c k w)) := by
  unfold selMergeEffect
  simp [h]

@[simp] theorem canon_endMerge (s : State) (c : Nat) (h : Canon (mems s)) : Canon (mems (endMerge s c)) := by
  unfold endMerge
  (repeat' split) <;> simp [h]

/-! ## Machine/Pod -/

@[simp] theorem canon_coll (s : State) (n : Nat) (f : RxFrame) (sameImage : Bool) (h : Canon (mems s)) : Canon (mems (coll s n f sameImage)) := by
  unfold coll
  split
  · next hrx =>
    have ht := mems_receive hrx rfl
    split
    · simp [ht, h]
    · dsimp only
      split
      · rw [mems_arrival]
        exact canon_ite (by simp [ht, h]) (by simp [ht, h])
      · exact canon_ite (by simp [ht, h]) (by simp [ht, h])
  · exact h

/-! ## Machine/Assets -/

@[simp] theorem canon_slotWrite (s : State) (a slot o : Nat) (bs : List Byte) (h : Canon (mems s)) : Canon (mems (slotWrite s a slot o bs)) := by
  unfold slotWrite
  split
  · exact canon_lpddr _ _ h
  · exact h

@[simp] theorem canon_slotZero (s : State) (a slot n : Nat) (h : Canon (mems s)) : Canon (mems (slotZero s a slot n)) := by
  unfold slotZero
  split
  · exact canon_lpddr_zero _ _ h
  · exact h

@[simp] theorem canon_setStaging (s : State) (g : Option Staging) (h : Canon (mems s)) : Canon (mems (setStaging s g)) := by
  unfold setStaging
  simp [h]

@[simp] theorem canon_stgDiscard (s : State) (g : Staging) (h : Canon (mems s)) : Canon (mems (stgDiscard s g)) := by
  unfold stgDiscard
  simp [h]

@[simp] theorem canon_stgBegin (s : State) (x1 : StgCmd) (h : Canon (mems s)) : Canon (mems (stgBegin s x1).1) := by
  unfold stgBegin
  dsimp only
  (repeat' split) <;> simp [h]

@[simp] theorem canon_stgAppend (s : State) (g : Staging) (p : List Byte) (chunks : Nat) (last : Bool) (h : Canon (mems s)) :
    Canon (mems (stgAppend s g p chunks last)) := by
  unfold stgAppend
  simp [h]

@[simp] theorem canon_stgPiece (s : State) (x1 : StgCmd) (h : Canon (mems s)) : Canon (mems (stgPiece s x1).1) := by
  unfold stgPiece
  dsimp only
  (repeat' split) <;> simp [h]

@[simp] theorem canon_makeResident (s : State) (g : Staging) (kind : Nat) (h : Canon (mems s)) : Canon (mems (makeResident s g kind)) := by
  unfold makeResident
  simp only [mems_setAsset]
  exact canon_foldl _ (fun s i h => by simp [h]) _ (by simp [h])

@[simp] theorem canon_stgFinish (s : State) (h : Canon (mems s)) : Canon (mems (stgFinish s).1) := by
  unfold stgFinish
  dsimp only
  (repeat' split) <;> simp [h]

@[simp] theorem canon_stgAbort (s : State) (h : Canon (mems s)) : Canon (mems (stgAbort s).1) := by
  unfold stgAbort
  (repeat' split) <;> simp [h]

@[simp] theorem canon_stgEffect (s : State) (x1 : StgCmd) (h : Canon (mems s)) : Canon (mems (stgEffect s x1).1) := by
  unfold stgEffect
  (repeat' split) <;> simp [h]

@[simp] theorem canon_stgComplete (s : State) (h : Canon (mems s)) : Canon (mems (stgComplete s)) := by
  unfold stgComplete
  (repeat' split) <;> simp [h]

/-! ## Machine/Seq -/

@[simp] theorem canon_yieldEffect (s : State) (c : Nat) (k : Core) (w : Nat) (h : Canon (mems s)) : Canon (mems (yieldEffect s c k w)) := by
  unfold yieldEffect
  (repeat' split) <;> simp [h]

/-! ## Machine/Tables -/

@[simp] theorem canon_gatherBag (c : Nat) (f : GatherFields) (s : State) (b : Nat) (h : Canon (mems s)) : Canon (mems (gatherBag c f s b)) := by
  unfold gatherBag
  dsimp only
  (repeat' split) <;> simp [h]

@[simp] theorem canon_gatherEffect (s : State) (c : Nat) (k : Core) (w : Nat) (h : Canon (mems s)) : Canon (mems (gatherEffect s c k w)) := by
  unfold gatherEffect
  simp only [mems_modCore]
  exact canon_foldl _ (fun s i h => by simp [h]) _ h

@[simp] theorem canon_copyPage (s : State) (t : Emb) (b : Build) (i : Nat) (h : Canon (mems s)) : Canon (mems (copyPage s t b i).1) := by
  unfold copyPage
  dsimp only
  (repeat' split) <;> simp [h]

@[simp] theorem canon_applyRow (a : Nat) (b : Batch) (s : State) (p : Nat × List Val) (h : Canon (mems s)) : Canon (mems (applyRow a b s p)) := by
  unfold applyRow
  split
  · exact h
  · simp [h]

@[simp] theorem canon_finishBatch (s : State) (x : BatchRun) (h : Canon (mems s)) : Canon (mems (finishBatch s x)) := by
  unfold finishBatch
  simp only [mems_arithTable, mems_bumpBy]
  refine canon_foldl _ (fun s p h => ?_) _ h
  rw [mems_countApplied]
  exact canon_foldl _ (fun s i h => by simp [h]) _ h

@[simp] theorem canon_startBatch (s : State) (a : Nat) (batch : List Byte) (own : Bool) (h : Canon (mems s)) :
    Canon (mems (startBatch s a batch own).1) := by
  unfold startBatch
  dsimp only
  (repeat' split) <;> simp [h]

@[simp] theorem canon_tableEnded (s : State) (h : Canon (mems s)) : Canon (mems (tableEnded s)) := by
  unfold tableEnded
  exact canon_foldl _ (fun s i h => by simp [h]) _ (by simp [h])

@[simp] theorem canon_closeBuild (s : State) (b : Build) (h : Canon (mems s)) : Canon (mems (closeBuild s b)) := by
  unfold closeBuild
  simp [h]

@[simp] theorem canon_tabRun (s : State) (op a base ver : Nat) (batch : List Byte) (own : Bool) (h : Canon (mems s)) :
    Canon (mems (tabRun s op a base ver batch own).1) := by
  unfold tabRun
  dsimp only
  (repeat' split) <;> simp [h]

@[simp] theorem canon_tabStart (s : State) (op a base ver : Nat) (batch : List Byte) (h : Canon (mems s)) :
    Canon (mems (tabStart s op a base ver batch)) := by
  unfold tabStart
  simp [h]

@[simp] theorem canon_tabCmd (s : State) (op : Nat) (h : Canon (mems s)) : Canon (mems (tabCmd s op)) := by
  unfold tabCmd
  (repeat' split) <;> simp [h]

@[simp] theorem canon_tabDone (s : State) (h : Canon (mems s)) : Canon (mems (tabDone s)) := by
  unfold tabDone
  (repeat' split) <;> simp [h]

/-! ## Machine/Bond -/

@[simp] theorem canon_powerGroup (s : State) (g : Nat) (h : Canon (mems s)) : Canon (mems (powerGroup s g)) := by
  exact canon_foldl _ (fun s i h => by simp [h]) _ h

@[simp] theorem canon_darkGroup (s : State) (g : Nat) (h : Canon (mems s)) : Canon (mems (darkGroup s g)) := by
  exact canon_foldl _ (fun s i h => by simp [h]) _ h

@[simp] theorem canon_placeGroups (s : State) (h : Canon (mems s)) : Canon (mems (placeGroups s)) := by
  refine canon_foldl _ (fun s i h => ?_) _ h
  dsimp only
  split <;> simp [h]

@[simp] theorem canon_darkAll (s : State) (h : Canon (mems s)) : Canon (mems (darkAll s)) := by
  exact canon_foldl _ (fun s i h => by simp [h]) _ h

@[simp] theorem canon_loadAccept (s : State) (b : List Byte) (h : Canon (mems s)) : Canon (mems (loadAccept s b)) := by
  unfold loadAccept
  simp [h]

@[simp] theorem canon_loadComplete (s : State) (twinBytes : List Byte) (h : Canon (mems s)) : Canon (mems (loadComplete s twinBytes)) := by
  unfold loadComplete
  dsimp only
  (repeat' split) <;> simp [h]

@[simp] theorem canon_fillPinned (s : State) (cores : List Nat) (h : Canon (mems s)) : Canon (mems (fillPinned s cores)) := by
  exact canon_foldl _ (fun s c h => canon_foldl _ (fun s i h => by simp [h]) _ h) _ h

@[simp] theorem canon_sealNow (s : State) (h : Canon (mems s)) : Canon (mems (sealNow s)) := by
  unfold sealNow
  (repeat' split) <;> simp [h]

@[simp] theorem canon_bondSeal (s : State) (h : Canon (mems s)) : Canon (mems (bondSeal s)) := by
  unfold bondSeal
  (repeat' split) <;> simp [h]

@[simp] theorem canon_bondUnload (s : State) (h : Canon (mems s)) : Canon (mems (bondUnload s)) := by
  unfold bondUnload
  (repeat' split) <;> simp [h]

/-! ## Machine/Text -/

@[simp] theorem canon_placeInput (s : State) (k part : Nat) (bs : List Byte) (h : Canon (mems s)) : Canon (mems (placeInput s k part bs)) := by
  unfold placeInput
  dsimp only
  (repeat' split) <;> simp [h]

@[simp] theorem canon_placeInputs (s : State) (k : Nat) (r : Req) (h : Canon (mems s)) : Canon (mems (placeInputs s k r)) := by
  exact canon_placeInput _ _ _ _ (canon_placeInput _ _ _ _ (canon_placeInput _ _ _ _ h))

@[simp] theorem canon_tokenise (s : State) (k : Nat) (r : Req) (h : Canon (mems s)) : Canon (mems (tokenise s k r)) := by
  unfold tokenise
  simp [h]

/-! ## Machine/Rerank -/

theorem canon_tsPut (s : State) (g b : Nat) (bytes : List Byte) (h : Canon (mems s)) : ∀ t ∈ tsPut s g b bytes, Canon (mems t) := by
  intro t ht
  obtain ⟨a, -, rfl⟩ := Option.map_eq_some_iff.mp ht
  refine canon_ldWrite _ _ _ _ (canon_ldWrite _ _ _ _ ?_)
  split <;> simp [h]

theorem canon_tsPutAll (g b : Nat) (l : List (List Byte)) (s : State) (h : Canon (mems s)) : ∀ t ∈ tsPutAll g b l s, Canon (mems t) := by
  induction l generalizing b s with
  | nil =>
    intro t ht
    cases ht
    exact h
  | cons x l ih =>
    intro t ht
    obtain ⟨u, hu, ht⟩ := Option.bind_eq_some_iff.mp ht
    exact ih _ u (canon_tsPut s g b x h u hu) t ht

@[simp] theorem canon_tsRun (s : State) (op : Nat) (batch : List Byte) (h : Canon (mems s)) : Canon (mems (tsRun s op batch).1) := by
  unfold tsRun
  dsimp only
  split
  · exact h
  split
  · (repeat' split) <;> simp [h]
  split
  · exact h
  split
  · exact h
  split
  · exact h
  split
  · exact h
  · next t ht =>
    rw [mems_releaseOld]
    exact canon_tsPutAll _ _ _ s h t ht

@[simp] theorem canon_tsStart (s : State) (op : Nat) (batch : List Byte) (h : Canon (mems s)) : Canon (mems (tsStart s op batch)) := by
  unfold tsStart
  dsimp only
  (repeat' split) <;> simp [h]

@[simp] theorem canon_tsCmd (s : State) (op : Nat) (h : Canon (mems s)) : Canon (mems (tsCmd s op)) := by
  unfold tsCmd
  (repeat' split) <;> simp [h]

@[simp] theorem canon_putRow (s : State) (g o n i : Nat) (d : List Byte) (q : List Nat) (p : Option (Nat × List Nat)) (h : Canon (mems s)) :
    Canon (mems (putRow s g o n i d q p)) := by
  exact canon_ldWrite _ _ _ _ (canon_ldWrite _ _ _ _ (canon_ldWrite _ _ _ _ (canon_ldWrite _ _ _ _ h)))

@[simp] theorem canon_fetchOne (c n out region : Nat) (d : List Byte) (q : List Nat) (es : List SelEntry) (k : Option Nat) (s : State) (i : Nat)
    (h : Canon (mems s)) : Canon (mems (fetchOne c n out region d q es k s i)) := by
  unfold fetchOne
  (repeat' split) <;> simp [h]

@[simp] theorem canon_fetchEffect (s : State) (c w : Nat) (h : Canon (mems s)) : Canon (mems (fetchEffect s c w)) := by
  unfold fetchEffect
  simp only [mems_modCore, mems_transfer]
  refine canon_foldl _ (fun s i h => by simp [h]) _ ?_
  split <;> simp [h]

@[simp] theorem canon_putReplyRow (s : State) (r : Req) (f : Fetched) (h : Canon (mems s)) : Canon (mems (putReplyRow s r f)) := by
  unfold putReplyRow
  (repeat' split) <;> simp [h]

@[simp] theorem canon_takeReply (s : State) (r : Req) (body : List Byte) (h : Canon (mems s)) : Canon (mems (takeReply s r body)) := by
  unfold takeReply
  dsimp only
  refine canon_ite h (canon_ite (by simp [h]) ?_)
  exact canon_foldl _ (fun s f h => by simp [h]) _ (by simp [h])

@[simp] theorem canon_tokReply (s : State) (n : Nat) (f : RxFrame) (h : Canon (mems s)) : Canon (mems (tokReply s n f)) := by
  unfold tokReply
  split
  · next hrx =>
    have ht := mems_receive hrx rfl
    split <;> simp [ht, h]
  · exact h

/-! ## Machine/Admit -/

@[simp] theorem canon_accept (s : State) (r : Req) (t : Tests) (deferred : Bool) (h : Canon (mems s)) : Canon (mems (accept s r t deferred)) := by
  unfold accept
  split
  · exact h
  · next hset =>
    have hmems := mems_acquireSet s _ hset
    simp only [mems_journalAccept, mems_bump]
    refine canon_placeInputs _ _ _ ?_
    simp [hmems, h]

@[simp] theorem canon_decideHeads (l : List Req) (s : State) (h : Canon (mems s)) : Canon (mems (decideHeads l s)) := by
  induction l generalizing s with
  | nil => exact h
  | cons r l ih =>
    unfold decideHeads
    dsimp only
    split
    · simp [h]
    · simp [h]
    · exact ih _ (by simp [h])

@[simp] theorem canon_admitDecision (s : State) (h : Canon (mems s)) : Canon (mems (admitDecision s)) := by
  unfold admitDecision
  (repeat' split) <;> simp [h]

@[simp] theorem canon_enterDrained (s : State) (h : Canon (mems s)) : Canon (mems (enterDrained s)) := by
  unfold enterDrained
  simp [h]

@[simp] theorem canon_drainComplete (s : State) (h : Canon (mems s)) : Canon (mems (drainComplete s)) := by
  unfold drainComplete
  (repeat' split) <;> simp [h]

/-! ## Machine/Pairing -/

@[simp] theorem canon_runHeld (s : State) (x : HeldCmd) (h : Canon (mems s)) : Canon (mems (runHeld s x)) := by
  unfold runHeld
  dsimp only
  (repeat' split) <;> simp [h]

@[simp] theorem canon_releaseHeld (s : State) (h : Canon (mems s)) : Canon (mems (releaseHeld s)) := by
  exact canon_foldl _ (fun s x h => by simp [h]) _ (by simp [h])

@[simp] theorem canon_endCopy (s : State) (h : Canon (mems s)) : Canon (mems (endCopy s)) := by
  unfold endCopy
  (repeat' split) <;> simp [h]

@[simp] theorem canon_pairLost (s : State) (h : Canon (mems s)) : Canon (mems (pairLost s)) := by
  unfold pairLost
  dsimp only
  (repeat' split) <;> simp [h]

@[simp] theorem canon_linkDown (s : State) (h : Canon (mems s)) : Canon (mems (linkDown s)) := by
  unfold linkDown
  dsimp only
  (repeat' split) <;> simp [h]

@[simp] theorem canon_firicRto (s : State) (v : Nat) (h : Canon (mems s)) : Canon (mems (firicRto s v)) := by
  unfold firicRto
  dsimp only
  (repeat' split) <;> simp [h]

/-! ## Machine/Security -/

@[simp] theorem canon_unlock (s : State) (token : List Byte) (expiry : Nat) (h : Canon (mems s)) : Canon (mems (unlock s token expiry)) := by
  unfold unlock
  simp [h]

theorem canon_takeMessage (s : State) (c code : Nat) {act : State → Nat → State} (hact : ∀ t n, Canon (mems t) → Canon (mems (act t n)))
    (h : Canon (mems s)) : Canon (mems (takeMessage s c code act)) := by
  unfold takeMessage
  split
  · exact h
  · (repeat' split) <;> simp [h, hact]

@[simp] theorem canon_debugUnlock (s : State) (c i : Nat) (nonce : List Byte) (expiry : Nat) (sig : List Byte) (ok : Bool) (h : Canon (mems s)) :
    Canon (mems (debugUnlock s c i nonce expiry sig ok)) := by
  refine canon_takeMessage _ _ _ (fun t n h => ?_) h
  dsimp only
  (repeat' split) <;> simp [h]

/-! ## Machine/Twin -/

@[simp] theorem canon_bookShadow (s : State) (r : Req) (fromState : Bool) (h : Canon (mems s)) : Canon (mems (bookShadow s r fromState)) := by
  unfold bookShadow
  split
  · exact h
  · next hset =>
    have hmems := mems_setWith s _ _ hset
    dsimp only
    (repeat' split) <;> simp [hmems, h]

@[simp] theorem canon_applyAccept (s : State) (j : JEntry) (h : Canon (mems s)) : Canon (mems (applyAccept s j)) := by
  unfold applyAccept
  (repeat' split) <;> simp [h]

@[simp] theorem canon_applyTable (s : State) (j : JEntry) (h : Canon (mems s)) : Canon (mems (applyTable s j)) := by
  unfold applyTable
  dsimp only
  (repeat' split) <;> simp [h]

@[simp] theorem canon_applyStore (s : State) (j : JEntry) (h : Canon (mems s)) : Canon (mems (applyStore s j)) := by
  unfold applyStore
  simp [h]

@[simp] theorem canon_applyEntry (s : State) (j : JEntry) (h : Canon (mems s)) : Canon (mems (applyEntry s j)) := by
  unfold applyEntry
  (repeat' split) <;> simp [h]

@[simp] theorem canon_applyHead (s : State) (h : Canon (mems s)) : Canon (mems (applyHead s)) := by
  unfold applyHead
  (repeat' split) <;> simp [h]

@[simp] theorem canon_applyKind (s : State) (kind : Nat) (h : Canon (mems s)) : Canon (mems (applyKind s kind)) := by
  unfold applyKind
  (repeat' split) <;> simp [h]

@[simp] theorem canon_applyAll (s : State) (n : Nat) (h : Canon (mems s)) : Canon (mems (applyAll s n)) := by
  induction n generalizing s with
  | zero => exact h
  | succ n ih =>
    unfold applyAll
    split
    · exact h
    · exact ih _ (by simp [h])

@[simp] theorem canon_finishState (s : State) (h : Canon (mems s)) : Canon (mems (finishState s)) := by
  unfold finishState
  split
  · exact h
  split
  · exact h
  split
  · exact h
  · dsimp only
    split <;> simp [h]

theorem canon_receiveFiric (s : State) (f : FiricRx) (type : Nat) {act : State → List Byte → State}
    (hact : ∀ t p, Canon (mems t) → Canon (mems (act t p))) (h : Canon (mems s)) : Canon (mems (receiveFiric s f type act)) := by
  unfold receiveFiric
  dsimp only
  (repeat' split) <;> simp [h, hact]

@[simp] theorem canon_firicJournal (s : State) (f : FiricRx) (verdict : Option Bool) (h : Canon (mems s)) :
    Canon (mems (firicJournal s f verdict)) := by
  unfold firicJournal
  refine canon_receiveFiric _ _ _ (fun t p h => by simp [h]) ?_
  split <;> simp [h]

@[simp] theorem canon_resyncData (s : State) (p : List Byte) (h : Canon (mems s)) : Canon (mems (resyncData s p)) := by
  unfold resyncData
  (repeat' split) <;> simp [h]

@[simp] theorem canon_stateAck (s : State) (r : Resync) (p : List Byte) (h : Canon (mems s)) : Canon (mems (stateAck s r p)) := by
  unfold stateAck
  (repeat' split) <;> simp [h]

/-! ## Machine/Boundary -/

@[simp] theorem canon_overrun (s : State) (x : Section) (h : Canon (mems s)) : Canon (mems (overrun s x)) := by
  unfold overrun
  dsimp only
  have hmerge (l : List Nat) (t : State) (h : Canon (mems t)) : Canon (mems (l.foldl endMerge t)) := canon_foldl _ (fun s i h => by simp [h]) _ h
  split
  · exact hmerge _ _ (by simp [h])
  · simp only [mems_setBits, mems_bump]
    exact hmerge _ _ (by simp [h])

@[simp] theorem canon_restartCore (x1 : Section) (deal : List (Nat × List (List Nat))) (listed : List Nat) (s : State) (c : Nat)
    (h : Canon (mems s)) : Canon (mems (restartCore x1 deal listed s c)) := by
  unfold restartCore
  (repeat' split) <;> simp [h]

@[simp] theorem canon_tableStepEnded (s : State) (x1 : Section) (h : Canon (mems s)) : Canon (mems (tableStepEnded s x1)) := by
  unfold tableStepEnded
  simp [h]

@[simp] theorem canon_beginStep (s : State) (x : Section) (b : Nat) (io : StepIn) (h : Canon (mems s)) : Canon (mems (beginStep s x b io)) := by
  unfold beginStep
  refine canon_foldl _ (fun s i h => by simp [h]) _ ?_
  (repeat' split) <;> simp [h]

@[simp] theorem canon_endStep (s : State) (x1 : Section) (b : Nat) (io : StepIn) (h : Canon (mems s)) : Canon (mems (endStep s x1 b io)) := by
  unfold endStep
  (repeat' split) <;> simp [h]

@[simp] theorem canon_stepBoundary (s : State) (i : Nat) (io : StepIn) (h : Canon (mems s)) : Canon (mems (stepBoundary s i io)) := by
  unfold stepBoundary
  (repeat' split) <;> simp [h]

/-! ## Machine/Power -/

@[simp] theorem canon_powerDown (s : State) (m : PowerMode)  : Canon (mems (powerDown s m)) := canon_nil

@[simp] theorem canon_uvTrip (s : State) (h : Canon (mems s)) : Canon (mems (uvTrip s)) := by
  unfold uvTrip
  (repeat' split) <;> simp [h]

@[simp] theorem canon_railShutdown (s : State) (h : Canon (mems s)) : Canon (mems (railShutdown s)) := by
  unfold railShutdown
  (repeat' split) <;> simp [h]

@[simp] theorem canon_ovTrip (s : State) (h : Canon (mems s)) : Canon (mems (ovTrip s)) := by
  unfold ovTrip
  (repeat' split) <;> simp [h]

/-! ## Machine/Bringup -/

@[simp] theorem canon_memInitDone (s : State) (failed : Option Nat) (h : Canon (mems s)) : Canon (mems (memInitDone s failed)) := by
  unfold memInitDone
  split
  · exact h
  split
  · simp [h]
  · simp [canon_lpddr_nil h]

@[simp] theorem canon_warmReset (s : State) (b : List Byte) (fw : Nat → Bool × Nat × List Byte) (active floor : Nat) (h : Canon (mems s)) :
    Canon (mems (warmReset s b fw active floor)) := by
  unfold warmReset
  split
  · exact h
  · have hwarm : Canon (mems (warmState s)) := canon_nil
    dsimp only
    split <;> simp [hwarm]

@[simp] theorem canon_unitResetBegin (s : State) (cls i : Nat) (h : Canon (mems s)) : Canon (mems (unitResetBegin s cls i)) := by
  unfold unitResetBegin
  (repeat' split) <;> simp [h]

@[simp] theorem canon_unitReset (s : State) (cls i : Nat) (h : Canon (mems s)) : Canon (mems (unitReset s cls i)) := by
  unfold unitReset
  (repeat' split) <;> simp [h]

@[simp] theorem canon_hostUnitReset (s : State) (h : Canon (mems s)) : Canon (mems (hostUnitReset s)) := by
  unfold hostUnitReset
  dsimp only
  (repeat' split) <;> simp [h]

@[simp] theorem canon_refillPinned (s : State) (g : Nat) (h : Canon (mems s)) : Canon (mems (refillPinned s g)) := by
  unfold refillPinned
  (repeat' split) <;> simp [h]

@[simp] theorem canon_unitReturn (s : State) (cls i : Nat) (h : Canon (mems s)) : Canon (mems (unitReturn s cls i)) := by
  unfold unitReturn
  (repeat' split) <;> simp [h]

/-! ## Machine/Monitor -/

@[simp] theorem canon_eccWriteBack (s : State) (p : EccPlaceOf) (data : Nat) (dropped : Bool) (h : Canon (mems s)) :
    Canon (mems (eccWriteBack s p data dropped)) := by
  unfold eccWriteBack
  split
  · exact h
  split
  · simp [h]
  · exact canon_lpddr _ _ h
  · exact h

@[simp] theorem canon_ueEffect (s : State) (p : EccPlaceOf) (syndrome : Nat) (h : Canon (mems s)) : Canon (mems (ueEffect s p syndrome)) := by
  unfold ueEffect
  (repeat' split) <;> simp [h]

@[simp] theorem canon_uncorrectable (s : State) (p : EccPlaceOf) (syndrome : Nat) (h : Canon (mems s)) :
    Canon (mems (uncorrectable s p syndrome)) := by
  unfold uncorrectable
  (repeat' split) <;> simp [h]

@[simp] theorem canon_checkWord (s : State) (p : EccPlaceOf) (flips : Nat) (dropped pass : Bool) (h : Canon (mems s)) :
    Canon (mems (checkWord s p flips dropped pass)) := by
  unfold checkWord
  (repeat' split) <;> simp [h]

/-! ## Machine/Time -/

@[simp] theorem canon_timeoutsDue (s : State) (h : Canon (mems s)) : Canon (mems (timeoutsDue s)) := by
  unfold timeoutsDue
  dsimp only
  refine canon_foldl _ (fun s v h => by simp [h]) _ ?_
  simp [h]

@[simp] theorem canon_loadDue (s : State) (h : Canon (mems s)) : Canon (mems (loadDue s)) := by
  unfold loadDue
  simp [h]

@[simp] theorem canon_countLoad (s : State) (c raw iv : Nat) (h : Canon (mems s)) : Canon (mems (countLoad s c raw iv)) := by
  unfold countLoad
  dsimp only
  (repeat' split) <;> simp [h]

@[simp] theorem canon_framePair (s : State) (c raw : Nat) (h : Canon (mems s)) : Canon (mems (framePair s c raw)) := by
  unfold framePair
  (repeat' split) <;> simp [h]

@[simp] theorem canon_frameUse (s : State) (c raw m : Nat) (h : Canon (mems s)) : Canon (mems (frameUse s c raw m)) := by
  unfold frameUse
  (repeat' split) <;> simp [h]

@[simp] theorem canon_timecodeFrame (s : State) (b : List Byte) (h : Canon (mems s)) : Canon (mems (timecodeFrame s b)) := by
  unfold timecodeFrame
  dsimp only
  (repeat' split) <;> simp [h]

/-! ## Machine/Measure -/

@[simp] theorem canon_pairBoundary (s : State) (h : Canon (mems s)) : Canon (mems (pairBoundary s)) := by
  unfold pairBoundary
  (repeat' split) <;> simp [h]

@[simp] theorem canon_measureBoundary (s : State) (hz cycles : Nat) (h : Canon (mems s)) : Canon (mems (measureBoundary s hz cycles)) := by
  unfold measureBoundary
  (repeat' split) <;> simp [h]

/-! ## Machine/Registers -/

@[simp] theorem canon_commandRun (s : State) (x : CmdReg) (c : Nat) (h : Canon (mems s)) : Canon (mems (commandRun s x c)) := by
  cases x <;> unfold commandRun <;> dsimp only <;> (repeat' split) <;> simp [h]

@[simp] theorem canon_commandWrite (s : State) (x1 : CmdReg) (v : Nat) (h : Canon (mems s)) : Canon (mems (commandWrite s x1 v)) := by
  unfold commandWrite
  (repeat' split) <;> simp [h]

@[simp] theorem canon_warmNow (s : State) (h : Canon (mems s)) : Canon (mems (warmNow s)) := by
  unfold warmNow
  simp [h]

@[simp] theorem canon_topoCtrl (s : State) (v : Nat) (h : Canon (mems s)) : Canon (mems (topoCtrl s v)) := by
  unfold topoCtrl
  (repeat' split) <;> simp [h]

theorem canon_controlWrite (s : State) (off v : Nat) (h : Canon (mems s)) : ∀ t ∈ controlWrite s off v, Canon (mems t) := by
  have hsome {u : State} (hu : Canon (mems u)) : ∀ t ∈ some u, Canon (mems t) := fun t ht => Option.some.inj ht ▸ hu
  unfold controlWrite
  iterate 10
    split
    · refine hsome ?_
      (repeat' split) <;> simp [h]
  intro t ht
  obtain ⟨n, -, rfl⟩ := Option.map_eq_some_iff.mp ht
  simp [h]

theorem canon_specialWrite (s : State) (n off v : Nat) (h : Canon (mems s)) : ∀ t ∈ specialWrite s n off v, Canon (mems t) := by
  intro t ht
  unfold specialWrite at ht
  split at ht
  · rw [← Option.some.inj ht]
    exact canon_commandWrite _ _ _ h
  split at ht
  · rwa [mems_pairWrite s n off v t ht]
  split at ht
  · rwa [mems_portWrite s off v t ht]
  split at ht
  · rwa [mems_secWrite s off v t ht]
  · exact canon_controlWrite s off v h t ht

@[simp] theorem canon_writeWord (s : State) (n off v : Nat) (h : Canon (mems s)) : Canon (mems (writeWord s n off v)) := by
  unfold writeWord
  split
  · simp [h]
  split
  · next t ht => exact canon_specialWrite s n off v h t ht
  · simp [h]

@[simp] theorem canon_writeChannel (s : State) (n off v : Nat) (h : Canon (mems s)) : Canon (mems (writeChannel s n off v)) := by
  unfold writeChannel
  dsimp only
  (repeat' split) <;> simp [h]

@[simp] theorem canon_writeAt (s : State) (n off v : Nat) (h : Canon (mems s)) : Canon (mems (writeAt s n off v)) := by
  unfold writeAt
  (repeat' split) <;> simp [h]

@[simp] theorem canon_writeWide (s : State) (n off v : Nat) (h : Canon (mems s)) : Canon (mems (writeWide s n off v)) := by
  unfold writeWide
  (repeat' split) <;> simp [h]

@[simp] theorem canon_writeBar (s : State) (f off : Nat) (data : List Byte) (h : Canon (mems s)) : Canon (mems (writeBar s f off data)) := by
  unfold writeBar
  (repeat' split) <;> simp [h]

@[simp] theorem canon_stagingWrite (s : State) (f off : Nat) (data : List Byte) (h : Canon (mems s)) : Canon (mems (stagingWrite s f off data)) := by
  unfold stagingWrite
  split
  · exact canon_staging _ _ h
  · exact h

/-! ## Outcomes -/

/-- Where the outcome is a next state, its memories are in canonical form. -/
def Keeps (o : Out) : Prop := ∀ t, o = .next t → Canon (mems t)

section
variable {s : State}

theorem keeps_next (h : Canon (mems s)) : Keeps (.next s) := fun _ ht => by
  cases ht
  exact h

theorem keeps_done (h : Canon (mems s)) : Keeps (done s) := fun _ ht => by
  rw [done_next ht, mems_settle]
  exact h

theorem keeps_doneHost (h : Canon (mems s)) : Keeps (doneHost s) := keeps_done (by simp [h])

theorem keeps_finish {o : Out} (h : Keeps o) : Keeps (finish o) := fun t ht => by
  obtain ⟨u, hu, rfl⟩ := finish_cases ht
  rw [mems_settle]
  exact h u hu

theorem keeps_fault (f : Fault) : Keeps (.fault f) := fun _ ht => nomatch ht

theorem keeps_refused (r : Refusal) : Keeps (.refused r) := fun _ ht => nomatch ht

theorem keeps_ite {p : Prop} [Decidable p] {a b : Out} (ha : Keeps a) (hb : Keeps b) : Keeps (if p then a else b) := by
  split
  · exact ha
  · exact hb

theorem keeps_host {off : Nat} {f : State → State} (h : Canon (mems s)) (hf : Canon (mems (f s))) : Keeps (host s off f) :=
  keeps_ite (keeps_done hf) (keeps_done h)

theorem keeps_hostFlush {off : Nat} {f : State → State} (h : Canon (mems s)) (hf : Canon (mems (f s))) : Keeps (hostFlush s off f) :=
  keeps_ite (keeps_doneHost hf) (keeps_done h)

theorem keeps_linked {o : Out} (h : Canon (mems s)) (ho : Keeps o) : Keeps (linked s o) := keeps_ite ho (keeps_done h)

theorem keeps_issue {c op : Nat} {reach : Core → Nat → List Access} {hold : Core → Nat → Option Hold} {eff : State → Core → Nat → State}
    (h : Canon (mems s)) (heff : ∀ k w, Canon (mems (eff s k w))) : Keeps (issue s c op reach hold eff) := by
  unfold issue
  split
  · exact keeps_next h
  split
  · exact keeps_next (by simp [h])
  · exact keeps_ite (keeps_next (heff _ _)) (keeps_fault _)

theorem keeps_issueDma {c op : Nat} {reach : Core → Nat → List Access} {eff : State → Core → Nat → State} (h : Canon (mems s))
    (heff : ∀ k w, Canon (mems (eff s k w))) : Keeps (issueDma s c op reach eff) := by
  unfold issueDma
  split
  · exact keeps_next h
  split
  · exact keeps_next (by simp [h])
  · exact keeps_ite (keeps_fault _) (keeps_ite (keeps_next (heff _ _)) (keeps_fault _))

theorem keeps_prefetchStart (c : Nat) (h : Canon (mems s)) : Keeps (prefetchStart s c) := by
  unfold prefetchStart
  dsimp only
  split
  · exact keeps_next h
  refine keeps_ite (keeps_next h) ?_
  split
  · exact keeps_next (by simp [h])
  · exact keeps_ite (keeps_fault _) (keeps_ite (keeps_fault _) (keeps_next (by simp [h])))

end

end Sys2Proof.Laws
end

section
/-!
SUPPORT. Every command keeps the three memories in canonical form, and the theorem that settles the obligation saying so.
-/
namespace Sys2Proof.Laws

open Sys2Proof.Machine

section
variable {s : State}

/-! ## The commands whose meaning branches before it ends -/

theorem keeps_registerWrite (b : Bar) (f off : Nat) (data : List Byte) (h : Canon (mems s)) : Keeps (execRegisterWrite b f off data s) := by
  refine keeps_linked h ?_
  cases b with
  | bar0 => exact keeps_ite (keeps_refused _) (keeps_doneHost (by simp [h]))
  | bar2 => exact keeps_doneHost (by simp [h])
  | bar4 => exact keeps_done (by simp [h])

theorem keeps_badSizeAccess (f off size : Nat) (write : Bool) (h : Canon (mems s)) : Keeps (execBadSizeAccess f off size write s) :=
  keeps_linked h (keeps_ite (keeps_done h) (keeps_done (canon_ite (by simp [h]) (by simp [h]))))

theorem keeps_unmappedAccess (a : Aperture) (off size : Nat) (write : Bool) (h : Canon (mems s)) :
    Keeps (execUnmappedAccess a off size write s) := by
  refine keeps_linked h ?_
  split
  · exact keeps_done (canon_ite h (by simp [h]))
  · exact keeps_done (canon_ite h (by simp [h]))
  · split
    · exact keeps_done h
    · exact keeps_ite (keeps_done h) (keeps_doneHost (canon_ite (by simp [h]) (by simp [h])))

theorem keeps_tokenise (k : Nat) (h : Canon (mems s)) : Keeps (execTokenise k s) := by
  unfold execTokenise
  split
  · exact keeps_done h
  · exact keeps_ite (keeps_done (by simp [h])) (keeps_done h)

theorem keeps_tfetch (c : Nat) (h : Canon (mems s)) : Keeps (execTfetch c s) := by
  unfold execTfetch
  split
  · exact keeps_done h
  · split
    · exact keeps_done (by simp [h])
    · exact keeps_ite (keeps_fault _) (keeps_ite (keeps_fault _) (keeps_done (by simp [h])))

theorem keeps_unitReset (named : Option (Nat × Nat)) (h : Canon (mems s)) : Keeps (execUnitReset named s) := by
  cases named with
  | none => exact keeps_host h (by simp [h])
  | some u => exact keeps_done (by simp [h])

theorem keeps_mbLockRead (c n : Nat) (h : Canon (mems s)) : Keeps (execMbLockRead c n s) :=
  keeps_ite (keeps_done (by simp [h])) (keeps_ite (keeps_done (by simp [h])) (keeps_done (by simp [h])))

theorem canon_takeSubmission {q : Nat} {e : List Byte} {f : State → State} (h : Canon (mems s))
    (hf : ∀ u, Canon (mems u) → Canon (mems (f u))) : Canon (mems (takeSubmission s q e f)) := by
  unfold takeSubmission
  dsimp only
  refine canon_ite ?_ (canon_ite (by simp [h]) (by simp [h]))
  rw [mems_expireSource]
  exact hf _ (by simp [h])

/-- A submission taken from a ring: the memories are as its handling leaves them. -/
theorem keeps_taken {p : Prop} [Decidable p] {q : Nat} {e : List Byte} {f : State → State} (h : Canon (mems s))
    (hf : ∀ u, Canon (mems u) → Canon (mems (f u))) : Keeps (if p then done s else doneHost (takeSubmission s q e f)) :=
  keeps_ite (keeps_done h) (keeps_doneHost (canon_takeSubmission h hf))

theorem canon_receiveCtrl (f : FiricRx) (op : Nat) {act : State → Resync → List Byte → State} (h : Canon (mems s))
    (hact : ∀ u r p, Canon (mems u) → Canon (mems (act u r p))) : Canon (mems (receiveCtrl s f op act)) := by
  unfold receiveCtrl
  split
  · exact h
  refine canon_receiveFiric _ _ _ (fun u p hu => ?_) h
  split
  · exact hact _ _ _ hu
  · exact hu

end

/-- A command that takes effect leaves the memories in canonical form. -/
theorem keeps_exec (c : Instr) {s : State} (h : Canon (mems s)) : Keeps (exec c s) := by
  cases c
  case registerWrite => exact keeps_registerWrite _ _ _ _ h
  case registerReadClear | lowHalfRead => exact keeps_linked h (keeps_doneHost (by simp [h]))
  case badSizeAccess => exact keeps_badSizeAccess _ _ _ _ h
  case unmappedAccess => exact keeps_unmappedAccess _ _ _ _ h
  case tokenise => exact keeps_tokenise _ h
  case tfetch => exact keeps_tfetch _ h
  case unitReset => exact keeps_unitReset _ h
  case mbLockRead => exact keeps_mbLockRead _ _ h
  case maskBuild | sampleToken => exact keeps_ite (keeps_done (by simp [h])) (keeps_done h)
  case submitQuery => exact keeps_taken h fun u hu => by simp [hu]
  case submitNop => exact keeps_taken h fun u hu => canon_ite (by simp [hu]) (by simp [hu])
  case submitCancel => exact keeps_taken h fun u hu => canon_ite (by simp [hu]) (by simp [hu])
  case tabCommandDone => exact keeps_done (canon_ite (by simp [h]) (by simp [h]))
  case stepBoundary | replayComplete | hostLinkUp => exact keeps_doneHost (by simp [h])
  case cqHeadDoorbell | qEnable | qResync | qReplayFrom =>
    simp only [exec, execCqHeadDoorbell, execQEnable, execQResync, execQReplayFrom]
    exact keeps_hostFlush h (by simp [h])
  case prefetchEntry => exact keeps_finish (keeps_prefetchStart _ h)
  case get | put => exact keeps_finish (keeps_issueDma h fun k w => by simp [h])
  case opNop | loop | stepEnd | yield | mma | wload | prepass | epiBind | prologue | vpass | recmerge | smxmerge | xfer
      | pfWait | dmaWait | arriveWait | selTopk | selMerge | tgather => exact keeps_finish (keeps_issue h fun k w => by simp [h])
  case undefinedCommand | forceHoldover | reload | bondLoad | bondAbort | bondSeal | bondUnload | stgBegin | stgData | stgEnd | stgAbort
      | swCommit | swCancel | tabOpen | tabApply | tabClose | tabAbort | tsInit | tsWrite | ptPin | ptUnpin | serveCancel
      | serveWinSnapshot | admitOpen | sqDoorbell | qResume | qBind | mbLockRelease | mbDoorbell | restart | peerEnable | podReset
      | podEnable | polCtrl | tcShapeWrite | handover | rejoin | evtFreeze | evtClear | evtSel =>
    simp only [exec, execUndefinedCommand, execForceHoldover, execReload, execBondLoad, execBondAbort, execBondSeal, execBondUnload,
      execStgBegin, execStgData, execStgEnd, execStgAbort, execSwCommit, execSwCancel, execTabOpen, execTabApply, execTabClose,
      execTabAbort, execTsInit, execTsWrite, execPtPin, execPtUnpin, execServeCancel, execServeWinSnapshot, execAdmitOpen,
      execSqDoorbell, execQResume, execQBind, execMbLockRelease, execMbDoorbell, execRestart, execPeerEnable, execPodReset,
      execPodEnable, execPolCtrl, execTcShapeWrite, execHandover, execRejoin, execEvtFreeze, execEvtClear, execEvtSel]
    exact keeps_host h (by simp [h])
  case passStart | passEnd | stateBegin | stateEnd =>
    exact keeps_done (canon_receiveCtrl _ _ h fun u r p hu => canon_ite hu (by simp [hu]))
  case resyncData => exact keeps_done (canon_receiveFiric _ _ _ (fun u p hu => canon_resyncData u p hu) h)
  case stateAck => exact keeps_done (canon_receiveCtrl _ _ h fun u r p hu => canon_stateAck u r p hu)
  case resyncAbort => exact keeps_done (canon_receiveCtrl _ _ h fun u _ _ hu => canon_endCopy u hu)
  all_goals
    refine keeps_done ?_
    simp [h]

end Sys2Proof.Laws

namespace Sys2Proof.Proofs

open Sys2Proof Sys2Proof.Machine Sys2Proof.Laws

/-- Settles O4: the model writes its memories by `memWrite` and `memZero` alone, which keep the canonical form. -/
theorem stepKeepsMemoriesCanonical : Obligations.StepKeepsMemoriesCanonical := fun s t hs hstep => by
  cases hpending : s.pending with
  | nil => exact keeps_done (s := idleCk s) (by simpa using (canon_mems s).2 hs) t ((step_of_nil hpending).symm.trans hstep)
  | cons c rest => exact keeps_exec c (s := { s with pending := rest }) hs t (step_of_cons hpending ▸ hstep)

end Sys2Proof.Proofs
end

section
/-!
SUPPORT. What a release of held commands, a refusal of what waits and a frame sent leave as it is: the security engine, the time, the bring-up state, and
of the twin all but its channels and the contents of a copy in progress.
-/
namespace Sys2Proof.Laws

open Sys2Proof.Machine

/-- The twin without its channels, and whether a copy is in progress. -/
def twinAside (t : TwinSt) : TwinSt × Bool := ({ t with vcs := [], resync := none }, t.resync.isSome)

/-- The security engine, the time, the bring-up state and the twin aside from its channels and the contents of a copy. -/
def aside (s : State) : SecSt × TimeSt × TopoSt × TwinSt × Bool := (s.sec, s.time, s.topo, twinAside s.twin)

@[simp] theorem aside_eta (s : State) : (s.sec, s.time, s.topo, twinAside s.twin) = aside s := rfl

/-- What stands aside of a state whose fields are given one by one. -/
@[simp] theorem aside_mk (pending regs latch emitted fresh time bond assets) (m l k : Mem)
    (poison cores credits deliveries steps sel front serve adm energy
    host twin pod sec plinth text topo err evt) :
    aside { pending := pending, regs := regs, latch := latch, emitted := emitted, fresh := fresh, time := time, bond := bond, assets := assets, staging := m,
            lpddr := l, scratch := k, poison := poison, cores := cores, credits := credits, deliveries := deliveries, steps := steps, sel := sel,
            front := front, serve := serve, adm := adm, energy := energy, host := host, twin := twin, pod := pod, sec := sec, plinth := plinth, text := text,
            topo := topo, err := err, evt := evt } = (sec, time, topo, twinAside twin) := rfl

@[simp] theorem aside_ite {p : Prop} [Decidable p] (a b : State) : aside (if p then a else b) = if p then aside a else aside b := by
  split <;> rfl

@[simp] theorem aside_foldl {α : Type} (f : State → α → State) (h : ∀ s x, aside (f s x) = aside s) (l : List α) (s : State) :
    aside (l.foldl f s) = aside s := by
  induction l generalizing s with
  | nil => rfl
  | cons x l ih => rw [List.foldl_cons, ih, h]

/-! ## Machine/Ops -/

@[simp] theorem aside_setReg (s : State) (a v : Nat) : aside (setReg s a v) = aside s := by
  unfold setReg
  simp

@[simp] theorem aside_setReg64 (s : State) (a v : Nat) : aside (setReg64 s a v) = aside s := by
  unfold setReg64
  simp

@[simp] theorem aside_setBits (s : State) (a m : Nat) : aside (setBits s a m) = aside s := by
  unfold setBits
  simp

@[simp] theorem aside_evtAdd (s : State) (n k : Nat) : aside (evtAdd s n k) = aside s := by
  unfold evtAdd
  simp

@[simp] theorem aside_evtAll (s : State) (cls evt : Nat) (sect die : Option Nat) (k : Nat) (l : List (Nat × Word)) :
    aside (evtAll s cls evt sect die k l) = aside s := by
  induction l generalizing s with
  | nil => rfl
  | cons e l ih =>
    rw [evtAll, ih]
    simp

@[simp] theorem aside_event (s : State) (cls evt : Nat) (sect die : Option Nat) (k : Nat) : aside (event s cls evt sect die k) = aside s := by
  unfold event
  split <;> simp

@[simp] theorem aside_bumpBy (s : State) (a k : Nat) : aside (bumpBy s a k) = aside s := by
  unfold bumpBy
  dsimp only
  repeat' split
  all_goals simp

@[simp] theorem aside_bump (s : State) (a : Nat) : aside (bump s a) = aside s := by
  unfold bump
  simp

@[simp] theorem aside_arithOne (s : State) (i die off n flag evt : Nat) : aside (arithOne s i die off n flag evt) = aside s := by
  unfold arithOne
  simp

@[simp] theorem aside_arith (s : State) (i die : Nat) (e : ArithEv) : aside (arith s i die e) = aside s := by
  unfold arith
  simp

@[simp] theorem aside_emit (s : State) (e : Emission) : aside (emit s e) = aside s := by
  unfold emit
  simp

@[simp] theorem aside_tick (s : State) : aside (tick s) = aside s := by
  unfold tick
  simp

@[simp] theorem twinAside_markSegments (t : TwinSt) (g o n : Nat) : twinAside (markSegments t g o n) = twinAside t := by
  unfold markSegments
  split
  · rfl
  · next r h => split <;> simp [twinAside, h]

@[simp] theorem aside_ldWrite (s : State) (g o : Nat) (bs : List Byte) : aside (ldWrite s g o bs) = aside s := by
  unfold ldWrite
  simp

@[simp] theorem aside_settle (s : State) : aside (settle s) = aside s := by
  unfold settle
  simp

/-! ## Machine/Operands -/

@[simp] theorem aside_coreEvent (s : State) (c cls e : Nat) : aside (coreEvent s c cls e) = aside s := by
  unfold coreEvent
  simp

@[simp] theorem aside_heldScratch (s : State) (c : Nat) (h : Hold) : aside (heldScratch s c h) = aside s := by
  unfold heldScratch
  (repeat' split) <;> simp

@[simp] theorem aside_held (s : State) (c op : Nat) (h : Hold) : aside (held s c op h) = aside s := by
  unfold held
  dsimp only
  repeat' split
  all_goals simp

/-! ## Machine/Dma -/

@[simp] theorem aside_chargeOne (s : State) (i die g o : Nat) : aside (chargeOne s i die g o) = aside s := by
  unfold chargeOne
  simp

@[simp] theorem aside_chargeAll (s : State) (i die g n o : Nat) : aside (chargeAll s i die g n o) = aside s := by
  induction n generalizing s o with
  | zero => rfl
  | succ n ih =>
    rw [chargeAll, ih]
    simp

@[simp] theorem aside_accessed (s : State) (i die g o n : Nat) (wr : Bool) : aside (accessed s i die g o n wr) = aside s := by
  unfold accessed
  simp

/-! ## Machine/Search -/

@[simp] theorem aside_setReq (s : State) (k : Nat) (r : Option Req) : aside (setReq s k r) = aside s := by
  unfold setReq
  simp

/-! ## Machine/Link -/

@[simp] theorem aside_setVc (s : State) (v : Nat) (x : Vc) : aside (setVc s v x) = aside s := rfl

@[simp] theorem aside_sendOut (s : State) (v : Nat) (f : Frame) : aside (sendOut s v f) = aside s := by
  unfold sendOut
  simp

@[simp] theorem aside_pump (s : State) (v n : Nat) : aside (pump s v n) = aside s := by
  induction n generalizing s with
  | zero => rfl
  | succ n ih =>
    unfold pump
    dsimp only
    (repeat' split) <;> simp [ih]

@[simp] theorem aside_sendFrame (s : State) (v type : Nat) (payload : List Byte) : aside (sendFrame s v type payload) = aside s := by
  unfold sendFrame
  simp

@[simp] theorem aside_sendMbox (s : State) (kind : Nat) (bs : List Byte) : aside (sendMbox s kind bs) = aside s := by
  unfold sendMbox
  simp

@[simp] theorem aside_sendStream (s : State) (n : Nat) (bs : List Byte) : aside (sendStream s n bs) = aside s := by
  induction n generalizing s bs with
  | zero => rfl
  | succ n ih =>
    unfold sendStream
    (repeat' split) <;> simp [ih]

@[simp] theorem aside_journalFor (s : State) (role : Bool) (kind reqSeq : Nat) (body : List Byte) :
    aside (journalFor s role kind reqSeq body).1 = aside s := by
  unfold journalFor
  dsimp only
  (repeat' split) <;> simp

@[simp] theorem aside_journal (s : State) (kind reqSeq : Nat) (body : List Byte) : aside (journal s kind reqSeq body).1 = aside s := by
  simp [journal]

/-! ## Machine/Host -/

@[simp] theorem aside_setPair (s : State) (q : Nat) (p : Pair) : aside (setPair s q p) = aside s := by
  unfold setPair
  simp

@[simp] theorem aside_coalMsg (s : State) (q : Nat) : aside (coalMsg s q) = aside s := by
  unfold coalMsg
  simp

@[simp] theorem aside_coalesce (s : State) (q : Nat) : aside (coalesce s q) = aside s := by
  unfold coalesce
  simp

@[simp] theorem aside_putEntry (s : State) (q : Nat) (bytes : List Byte) (replayed : Bool) : aside (putEntry s q bytes replayed) = aside s := by
  unfold putEntry
  simp

@[simp] theorem aside_putBuffer (s : State) (q : Nat) (c : Cpl) : aside (putBuffer s q c) = aside s := by
  unfold putBuffer
  (repeat' split) <;> simp

@[simp] theorem aside_flushPair (s : State) (q n : Nat) : aside (flushPair s q n) = aside s := by
  induction n generalizing s with
  | zero => rfl
  | succ n ih =>
    unfold flushPair
    dsimp only
    (repeat' split) <;> simp [ih]

@[simp] theorem aside_trimWindow (s : State) (q : Nat) : aside (trimWindow s q) = aside s := by
  unfold trimWindow
  dsimp only
  repeat' split
  all_goals simp

@[simp] theorem aside_postEntry (s : State) (q kind part parts reqSeq hsn : Nat) (buffer : Option (Nat × List Byte)) (payload : List Byte) :
    aside (postEntry s q kind part parts reqSeq hsn buffer payload) = aside s := by
  unfold postEntry
  dsimp only
  repeat' split
  all_goals simp

@[simp] theorem aside_postParts (s : State) (q kind parts reqSeq hsn i : Nat) (l : List (List Byte)) :
    aside (postParts s q kind parts reqSeq hsn i l) = aside s := by
  induction l generalizing s i with
  | nil => rfl
  | cons b l ih =>
    rw [postParts, ih]
    simp

@[simp] theorem aside_post (s : State) (q kind reqSeq hsn : Nat) (l : List (List Byte)) : aside (post s q kind reqSeq hsn l) = aside s := by
  simp [post]

/-! ## Machine/Pod -/

@[simp] theorem aside_setPeer (s : State) (n i : Nat) (x1 : Peer) : aside (setPeer s n i x1) = aside s := by
  unfold setPeer
  simp

@[simp] theorem aside_setClass (s : State) (n c : Nat) (x1 : Machine.Class) : aside (setClass s n c x1) = aside s := by
  unfold setClass
  simp

@[simp] theorem aside_joinQueue (s : State) (n c : Nat) (bs : List Byte) : aside (joinQueue s n c bs) = aside s := by
  unfold joinQueue
  simp

@[simp] theorem aside_putFrame (s : State) (n i : Nat) (f : PodFrame) : aside (putFrame s n i f) = aside s := by
  unfold putFrame
  simp

@[simp] theorem aside_pumpPeer (s : State) (n i k : Nat) : aside (pumpPeer s n i k) = aside s := by
  induction k generalizing s with
  | zero => rfl
  | succ k ih =>
    unfold pumpPeer
    dsimp only
    (repeat' split) <;> simp [ih]

@[simp] theorem aside_podSend (s : State) (n i type : Nat) (body : List Byte) (token : Bool) : aside (podSend s n i type body token) = aside s := by
  unfold podSend
  simp

/-! ## Machine/Assets -/

@[simp] theorem aside_setAsset (s : State) (a : Nat) (x1 : Asset) : aside (setAsset s a x1) = aside s := by
  unfold setAsset
  simp

@[simp] theorem aside_reap (s : State) (a : Nat) : aside (reap s a) = aside s := by
  unfold reap
  simp

@[simp] theorem aside_reapAll (s : State) : aside (reapAll s) = aside s := by
  unfold reapAll
  (repeat' split) <;> simp

@[simp] theorem aside_stgStart (s : State) (op sel o n : Nat) : aside (stgStart s op sel o n) = aside s := by
  unfold stgStart
  simp

@[simp] theorem aside_setSwitch (s : State) (i : Nat) (x1 : Option Switch) : aside (setSwitch s i x1) = aside s := by
  unfold setSwitch
  simp

@[simp] theorem aside_swResult (s : State) (code slot : Nat) : aside (swResult s code slot) = aside s := by
  unfold swResult
  simp

@[simp] theorem aside_swJournal (s : State) (a ver at_ op slot : Nat) : aside (swJournal s a ver at_ op slot) = aside s := by
  unfold swJournal
  dsimp only
  repeat' split
  all_goals simp

@[simp] theorem aside_swCommitRun (s : State) (a ver at_ : Nat) : aside (swCommitRun s a ver at_) = aside s := by
  unfold swCommitRun
  (repeat' split) <;> simp

@[simp] theorem aside_swCancelRun (s : State) (a ver at_ : Nat) : aside (swCancelRun s a ver at_) = aside s := by
  unfold swCancelRun
  (repeat' split) <;> simp

@[simp] theorem aside_swAcked (s : State) (refused : Option Nat) : aside (swAcked s refused) = aside s := by
  unfold swAcked
  dsimp only
  repeat' split
  all_goals simp

/-! ## Machine/Tables -/

@[simp] theorem aside_setBuild (s : State) (a : Nat) (b : Option Build) : aside (setBuild s a b) = aside s := by
  unfold setBuild
  simp

@[simp] theorem aside_openBuild (s : State) (a base ver slot : Nat) : aside (openBuild s a base ver slot) = aside s := by
  unfold openBuild
  simp

@[simp] theorem aside_tableAccess (s : State) (g o n : Nat) (wr : Bool) : aside (tableAccess s g o n wr) = aside s := by
  unfold tableAccess
  (repeat' split) <;> simp

@[simp] theorem aside_copyPage (s : State) (t : Emb) (b : Build) (i : Nat) : aside (copyPage s t b i).1 = aside s := by
  unfold copyPage
  dsimp only
  (repeat' split) <;> simp

@[simp] theorem aside_arithTable (s : State) (e : ArithEv) : aside (arithTable s e) = aside s := by
  unfold arithTable
  (repeat' split) <;> simp

@[simp] theorem aside_applyRow (a : Nat) (h : Batch) (s : State) (p : Nat × List Val) : aside (applyRow a h s p) = aside s := by
  unfold applyRow
  dsimp only
  repeat' split
  all_goals simp

@[simp] theorem aside_countApplied (s : State) (a n : Nat) : aside (countApplied s a n) = aside s := by
  unfold countApplied
  (repeat' split) <;> simp

@[simp] theorem aside_setBatches (s : State) (l : List BatchRun) : aside (setBatches s l) = aside s := by
  unfold setBatches
  simp

@[simp] theorem aside_finishBatch (s : State) (x1 : BatchRun) : aside (finishBatch s x1) = aside s := by
  unfold finishBatch
  simp

@[simp] theorem aside_startBatch (s : State) (a : Nat) (batch : List Byte) (own : Bool) : aside (startBatch s a batch own).1 = aside s := by
  unfold startBatch
  dsimp only
  (repeat' split) <;> simp

@[simp] theorem aside_dropBuild (s : State) (a : Nat) : aside (dropBuild s a) = aside s := by
  unfold dropBuild
  simp

@[simp] theorem aside_tabRun (s : State) (op a base ver : Nat) (batch : List Byte) (own : Bool) :
    aside (tabRun s op a base ver batch own).1 = aside s := by
  unfold tabRun
  dsimp only
  (repeat' split) <;> simp

@[simp] theorem aside_tabResult (s : State) (code : Nat) : aside (tabResult s code) = aside s := by
  unfold tabResult
  simp

@[simp] theorem aside_tabStart (s : State) (op a base ver : Nat) (batch : List Byte) : aside (tabStart s op a base ver batch) = aside s := by
  unfold tabStart
  simp

/-! ## Machine/Bond -/

@[simp] theorem aside_setBond (s : State) (b : BondSt) : aside (setBond s b) = aside s := by
  unfold setBond
  simp

@[simp] theorem aside_loadReject (s : State) (b : Bad) : aside (loadReject s b) = aside s := by
  unfold loadReject
  simp

@[simp] theorem aside_sealRefuse (s : State) (code index : Nat) : aside (sealRefuse s code index) = aside s := by
  unfold sealRefuse
  simp

/-! ## Machine/Text -/

@[simp] theorem aside_setSeq (s : State) (e : Nat) (q : SeqEntry) : aside (setSeq s e q) = aside s := by
  unfold setSeq
  simp

/-! ## Machine/Deliver -/

@[simp] theorem aside_answer (s : State) (o : Origin) (kind reqSeq : Nat) (payload : List Byte) :
    aside (answer s o kind reqSeq payload) = aside s := by
  unfold answer
  (repeat' split) <;> simp

@[simp] theorem aside_deliverTo (s : State) (r : Req) (f : State → State) (h : aside (f s) = aside s) : aside (deliverTo s r f) = aside s := by
  unfold deliverTo
  simp [h]

@[simp] theorem aside_admitEntry (s : State) (o : Origin) (reqSeq : Nat) (role : Bool) (report : List Byte) :
    aside (admitEntry s o reqSeq role report) = aside s := by
  unfold admitEntry
  simp

@[simp] theorem aside_admitted (s : State) (r : Req) : aside (admitted s r) = aside s := by
  unfold admitted
  simp

/-! ## Machine/Serve -/

@[simp] theorem aside_setCancels (s : State) (l : List PendCancel) : aside (setCancels s l) = aside s := by
  unfold setCancels
  simp

@[simp] theorem aside_releaseOld (s : State) : aside (releaseOld s) = aside s := by
  unfold releaseOld
  simp

@[simp] theorem aside_dropReq (s : State) (k : Nat) (r : Req) : aside (dropReq s k r) = aside s := by
  unfold dropReq
  dsimp only
  repeat' split
  all_goals simp

@[simp] theorem aside_freeEnded (s : State) : aside (freeEnded s) = aside s := by
  refine aside_foldl _ (fun s p => ?_) _ _
  split <;> simp

@[simp] theorem aside_cancelEntry (s : State) (o : Origin) (code target : Nat) : aside (cancelEntry s o code target) = aside s := by
  unfold cancelEntry
  simp

@[simp] theorem aside_settleCancels (s : State) (all : Bool) : aside (settleCancels s all) = aside s := by
  refine (aside_foldl _ (fun s c => ?_) _ _).trans (aside_setCancels s _)
  split <;> simp

/-! ## Machine/Rerank -/

theorem aside_tsPut (s : State) (g b : Nat) (bytes : List Byte) : ∀ t ∈ tsPut s g b bytes, aside t = aside s := by
  intro t ht
  obtain ⟨a, -, rfl⟩ := Option.map_eq_some_iff.mp ht
  refine (aside_ldWrite _ _ _ _).trans ((aside_ldWrite _ _ _ _).trans ?_)
  split <;> simp

theorem aside_tsPutAll (g b : Nat) (l : List (List Byte)) (s : State) : ∀ t ∈ tsPutAll g b l s, aside t = aside s := by
  induction l generalizing b s with
  | nil =>
    intro t ht
    cases ht
    rfl
  | cons x l ih =>
    intro t ht
    obtain ⟨u, hu, ht⟩ := Option.bind_eq_some_iff.mp ht
    rw [ih _ _ t ht, aside_tsPut _ _ _ _ u hu]

@[simp] theorem aside_tsRun (s : State) (op : Nat) (batch : List Byte) : aside (tsRun s op batch).1 = aside s := by
  unfold tsRun
  dsimp only
  split
  · rfl
  split
  · (repeat' split) <;> simp
  split
  · rfl
  split
  · rfl
  split
  · rfl
  split
  · rfl
  · next u hu =>
    rw [aside_releaseOld]
    exact aside_tsPutAll _ _ _ _ u hu

@[simp] theorem aside_tsEnd (s : State) (code : Nat) : aside (tsEnd s code) = aside s := by
  unfold tsEnd
  simp

@[simp] theorem aside_tsStart (s : State) (op : Nat) (batch : List Byte) : aside (tsStart s op batch) = aside s := by
  unfold tsStart
  dsimp only
  split <;> simp

/-! ## Machine/Admit -/

@[simp] theorem aside_refuse (s : State) (r : Req) (code planned : Nat) : aside (refuse s r code planned) = aside s := by
  unfold refuse
  dsimp only
  repeat' split
  all_goals simp

@[simp] theorem aside_refuseAll (s : State) (code : Nat) : aside (refuseAll s code) = aside s := by
  unfold refuseAll
  simp

@[simp] theorem aside_releaseAdmits (s : State) (all : Bool) : aside (releaseAdmits s all) = aside s := by
  unfold releaseAdmits
  simp

/-! ## Machine/Pairing -/

@[simp] theorem aside_lossReleases (s : State) : aside (lossReleases s) = aside s := by
  unfold lossReleases
  dsimp only
  repeat' split
  all_goals simp

@[simp] theorem aside_runHeld (s : State) (h : HeldCmd) : aside (runHeld s h) = aside s := by
  unfold runHeld
  dsimp only
  repeat' split
  all_goals simp

@[simp] theorem aside_releaseHeld (s : State) : aside (releaseHeld s) = aside s := by
  unfold releaseHeld
  simp

@[simp] theorem aside_dropShadows (s : State) : aside (dropShadows s) = aside s := by
  refine aside_foldl _ (fun s p => ?_) _ _
  split <;> simp

/-! ## Machine/Twin -/

@[simp] theorem aside_sendCtrl (s : State) (op pass jseq count : Nat) (digest : List Byte) :
    aside (sendCtrl s op pass jseq count digest) = aside s := by
  unfold sendCtrl
  simp

end Sys2Proof.Laws
end

section
/-!
SUPPORT. Leaving the pair (R382, R396, Table 19.5): what the end of a copy, the loss of the pair secret and the loss of the link leave of the twin and of
the security engine.
-/
namespace Sys2Proof.Laws

open Sys2Proof.Machine

section
variable {s u : State}

/-! ## What equality aside says of each part -/

theorem sec_of_aside (h : aside u = aside s) : u.sec = s.sec := congrArg (·.1) h

theorem time_of_aside (h : aside u = aside s) : u.time = s.time := congrArg (·.2.1) h

theorem topo_of_aside (h : aside u = aside s) : u.topo = s.topo := congrArg (·.2.2.1) h

/-- The twin is as it was but for its channels and a copy's contents. -/
theorem twin_of_aside (h : aside u = aside s) : u.twin = { s.twin with vcs := u.twin.vcs, resync := u.twin.resync } := by
  have htwin : ({ u.twin with vcs := [], resync := none } : TwinSt) = { s.twin with vcs := [], resync := none } := congrArg (·.2.2.2.1) h
  exact congrArg (fun t : TwinSt => { t with vcs := u.twin.vcs, resync := u.twin.resync }) htwin

theorem resync_of_aside (h : aside u = aside s) : u.twin.resync.isSome = s.twin.resync.isSome := congrArg (·.2.2.2.2) h

theorem resync_none_of_aside (h : aside u = aside s) (hs : s.twin.resync = none) : u.twin.resync = none := by
  rw [← Option.isNone_iff_eq_none, ← Option.not_isSome, resync_of_aside h, hs]
  rfl

/-- What is said of the twin without its channels and a copy's contents stays. -/
theorem kept_of_aside {α : Type} (f : TwinSt → α) (hf : ∀ t v r, f { t with vcs := v, resync := r } = f t) (h : aside u = aside s) : f u.twin = f s.twin := by
  rw [twin_of_aside h, hf]

theorem mode_of_aside (h : aside u = aside s) : u.twin.mode = s.twin.mode := kept_of_aside TwinSt.mode (fun _ _ _ => rfl) h

theorem linkUp_of_aside (h : aside u = aside s) : u.twin.linkUp = s.twin.linkUp := kept_of_aside TwinSt.linkUp (fun _ _ _ => rfl) h

theorem stream_of_aside (h : aside u = aside s) : u.twin.stream = s.twin.stream := kept_of_aside TwinSt.stream (fun _ _ _ => rfl) h

/-! ## The end of a copy (R396) -/

/-- The pair state that the end of a copy leaves. -/
def modeAfterCopy (t : TwinSt) : PairMode :=
  match t.resync with
  | none => t.mode
  | some r => if r.source then .solo else .attested

/-- What the end of a copy leaves of the twin and of the security engine: keys can only go. -/
structure CopyEnded (s u : State) : Prop where
  resync : u.twin.resync = none
  linkUp : u.twin.linkUp = s.twin.linkUp
  mode : u.twin.mode = modeAfterCopy s.twin
  sec : u.sec = { s.sec with jobKeys := u.sec.jobKeys, assetKeys := u.sec.assetKeys }
  jobs : s.sec.jobKeys = [] → u.sec.jobKeys = []
  keys : s.sec.assetKeys = [] → u.sec.assetKeys = []

theorem CopyEnded.of_aside (h : CopyEnded s u) {v : State} (hv : aside v = aside u) : CopyEnded s v := by
  obtain ⟨hresync, hlink, hmode, hsec, hjobs, hkeys⟩ := h
  have hkept := sec_of_aside hv
  refine ⟨resync_none_of_aside hv hresync, (linkUp_of_aside hv).trans hlink, (mode_of_aside hv).trans hmode, ?_, ?_, ?_⟩
  · rw [hkept]
    exact hsec
  · rwa [hkept]
  · rwa [hkept]

theorem filter_of_nil {α : Type} {l : List α} (p : α → Bool) (h : l = []) : l.filter p = [] := by
  rw [h]
  rfl

/-- What the destination discards of the twin and of the keys. -/
def discarded (s : State) (r : Resync) : State :=
  let s1 := dropShadows s
  setTwin { s1 with
    sec := { s1.sec with
      jobKeys := s1.sec.jobKeys.filter fun p => !r.jobs.contains p.1
      assetKeys := s1.sec.assetKeys.filter fun (k : AssetKey) => !r.keys.contains k.id } } { s1.twin with
    stream := []
    vmap := [] }

theorem aside_discardCopy (s : State) (r : Resync) : aside (discardCopy s r) = aside (discarded s r) := by
  unfold discardCopy
  dsimp only
  split
  · rfl
  · simp only [aside_mk]
    rfl

/-- The twin out of a copy, before the source's held commands run or the destination discards what it has. -/
def outOfCopy (s : State) (m : PairMode) : State :=
  setPairMode (setTwin s { s.twin with
    resync := none
    joinReady := false
    peerSeal := false }) m

theorem endCopy_none (h : s.twin.resync = none) : endCopy s = s := by simp only [endCopy, h]

theorem endCopy_some {r : Resync} (h : s.twin.resync = some r) :
    endCopy s = if r.source then releaseHeld (outOfCopy s .solo) else discardCopy (outOfCopy s .attested) r := by
  simp only [endCopy, h]
  rfl

theorem endCopy_ended (s : State) : CopyEnded s (endCopy s) := by
  cases hresync : s.twin.resync with
  | none =>
    rw [endCopy_none hresync]
    exact ⟨hresync, rfl, by simp only [modeAfterCopy, hresync], rfl, id, id⟩
  | some r =>
    rw [endCopy_some hresync]
    split
    · next hsource =>
      have hout : CopyEnded s (outOfCopy s .solo) := ⟨rfl, rfl, by simp only [modeAfterCopy, hresync, hsource, if_true]; rfl, rfl, id, id⟩
      exact hout.of_aside (aside_releaseHeld _)
    · next hsource =>
      refine CopyEnded.of_aside (u := discarded (outOfCopy s .attested) r) ?_ (aside_discardCopy _ _)
      have hdrop := aside_dropShadows (outOfCopy s .attested)
      have hsec : (dropShadows (outOfCopy s .attested)).sec = s.sec := (sec_of_aside hdrop).trans rfl
      have hnone : (dropShadows (outOfCopy s .attested)).twin.resync = none := resync_none_of_aside hdrop rfl
      have hlink : (dropShadows (outOfCopy s .attested)).twin.linkUp = s.twin.linkUp := (linkUp_of_aside hdrop).trans rfl
      have hmode : (dropShadows (outOfCopy s .attested)).twin.mode = .attested := (mode_of_aside hdrop).trans rfl
      refine ⟨hnone, hlink, hmode.trans ?_, ?_, fun h => ?_, fun h => ?_⟩
      · simp only [modeAfterCopy, hresync, hsource]
        rfl
      · exact congrArg (fun c : SecSt => { c with jobKeys := (discarded (outOfCopy s .attested) r).sec.jobKeys,
                                                  assetKeys := (discarded (outOfCopy s .attested) r).sec.assetKeys }) hsec
      · exact filter_of_nil _ (hsec ▸ h)
      · exact filter_of_nil _ (hsec ▸ h)

/-! ## The pair secret goes (Table 19.5) -/

/-- The pair state that the loss of the pair secret leaves. -/
def modeAfterLoss (m : PairMode) : PairMode :=
  if m = .solo then .solo else if m = .draining then .draining else .absent

/-- What the loss of the pair secret leaves. -/
structure PairLost (s u : State) : Prop where
  resync : u.twin.resync = none
  linkUp : u.twin.linkUp = s.twin.linkUp
  stream : u.twin.stream = []
  mode : u.twin.mode = modeAfterLoss (modeAfterCopy s.twin)
  sec : u.sec = { s.sec with pairSecret := none, share := none, jobKeys := u.sec.jobKeys, assetKeys := u.sec.assetKeys }
  jobs : s.sec.jobKeys = [] → u.sec.jobKeys = []
  keys : s.sec.assetKeys = [] → u.sec.assetKeys = []

theorem PairLost.of_aside (h : PairLost s u) {v : State} (hv : aside v = aside u) : PairLost s v := by
  obtain ⟨hresync, hlink, hstream, hmode, hsec, hjobs, hkeys⟩ := h
  have hkept := sec_of_aside hv
  refine ⟨resync_none_of_aside hv hresync, (linkUp_of_aside hv).trans hlink, (stream_of_aside hv).trans hstream, (mode_of_aside hv).trans hmode, ?_, ?_, ?_⟩
  · rw [hkept]
    exact hsec
  · rwa [hkept]
  · rwa [hkept]

theorem dropPendingSeal_ended (h : CopyEnded s u) : CopyEnded s (dropPendingSeal u) := by
  unfold dropPendingSeal
  split
  · obtain ⟨hresync, hlink, hmode, hsec, hjobs, hkeys⟩ := h
    exact CopyEnded.of_aside (u := setTwin u { u.twin with sealPending := false }) ⟨hresync, hlink, hmode, hsec, hjobs, hkeys⟩ (aside_sealRefuse _ _ _)
  · exact h

/-- The twin and the security engine without the pair secret. -/
def withoutSecret (s : State) : State :=
  let s2 := { s with
    sec := { s.sec with
      pairSecret := none
      share := none } }
  setTwin s2 { s2.twin with
    peerSeal := false
    stream := []
    peerState := 0 }

theorem pairLost_eq (s : State) : pairLost s = lossReleases (
    match (withoutSecret (dropPendingSeal (endCopy s))).twin.mode with
    | .solo => withoutSecret (dropPendingSeal (endCopy s))
    | .draining => withoutSecret (dropPendingSeal (endCopy s))
    | _ => setPairMode (withoutSecret (dropPendingSeal (endCopy s))) .absent) := rfl

theorem pairLost_lost (s : State) : PairLost s (pairLost s) := by
  rw [pairLost_eq]
  refine PairLost.of_aside ?_ (aside_lossReleases _)
  obtain ⟨hresync, hlink, hmode, hsec, hjobs, hkeys⟩ := dropPendingSeal_ended (endCopy_ended s)
  generalize dropPendingSeal (endCopy s) = v at *
  have hsecret : (withoutSecret v).sec
      = { s.sec with pairSecret := none, share := none, jobKeys := (withoutSecret v).sec.jobKeys, assetKeys := (withoutSecret v).sec.assetKeys } :=
    congrArg (fun c : SecSt => { c with pairSecret := none, share := none }) hsec
  have hkept : (withoutSecret v).twin.mode = modeAfterCopy s.twin := hmode
  split
  · next h => exact ⟨hresync, hlink, rfl, by rw [← hkept, h]; rfl, hsecret, hjobs, hkeys⟩
  · next h => exact ⟨hresync, hlink, rfl, by rw [← hkept, h]; rfl, hsecret, hjobs, hkeys⟩
  · next hsolo hdraining => exact ⟨hresync, hlink, rfl, by rw [← hkept, modeAfterLoss, if_neg hsolo, if_neg hdraining]; rfl, hsecret, hjobs, hkeys⟩

end

end Sys2Proof.Laws
end

section
/-!
SUPPORT. Commands under an open session (spec/19_security.md, R403 to R411, R418): what the Keystone does with a message that it opens.
-/
namespace Sys2Proof.Laws

open Sys2Proof.Machine

section
variable {s : State} {c len id n : Nat}

/-- Channel `c` is the next that the Keystone serves, a secure channel of an open session whose message may hold a sealed command. -/
structure TakenSealed (s : State) (c len id n : Nat) : Prop where
  loud : s.twin.silent = false
  session : underSession s c = true
  secure : 16 ≤ c
  next : nextChannel s = some c
  pending : (chanOf s c).pending = some (len, id, n)
  low : 20 ≤ len
  high : len ≤ 256

/-- The commands of an open session. -/
def sessionCommands : List Nat := [0x0103, 0x0111, 0x0120, 0x0121, 0x0130, 0x0131, 0x0140]

theorem TakenSealed.defined (h : TakenSealed s c len id n) {code : Nat} (hcode : code ∈ sessionCommands) : definedOn s c code = true := by
  have hsecure := h.secure
  rw [definedOn, if_neg (by omega), if_pos h.session]
  exact List.contains_iff_mem.mpr hcode

theorem readMessage_sealed (h : underSession s c = true) : readMessage s c = setSession s { s.sec.session with ctrIn := s.sec.session.ctrIn + 1 } := by
  rw [readMessage, if_pos h]

theorem takeMessage_refused (h : TakenSealed s c len id n) (hnone : messageOf s c len = none) (code : Nat) (act : State → Nat → State) :
    takeMessage s c code act = refuseSession s c := by
  obtain ⟨hloud, -, -, hnext, hpending, hlow, hhigh⟩ := h
  have hlen : ¬(len < 2 ∨ 256 < len) := by omega
  simp only [takeMessage, hpending, hnext, hloud, hlen, hnone, ne_eq, not_true_eq_false, Bool.false_eq_true, or_self, if_false]

theorem takeMessage_sealed (h : TakenSealed s c len id n) {m : List Byte} (hsome : messageOf s c len = some m) {code : Nat} (hcode : code ∈ sessionCommands)
    (act : State → Nat → State) : takeMessage s c code act = if le m 0 2 = code then act (readMessage s c) n else s := by
  have hdefined := h.defined hcode
  obtain ⟨hloud, -, -, hnext, hpending, hlow, hhigh⟩ := h
  have hlen : ¬(len < 2 ∨ 256 < len) := by omega
  simp only [takeMessage, hpending, hnext, hloud, hlen, hsome, hdefined, and_true, ne_eq, not_true_eq_false, Bool.false_eq_true, or_self, if_false]

/-- After SESSION_CLOSE the acknowledgement goes in clear. -/
theorem ackChan_closed (t : State) (code : Nat) (resp : List Byte) :
    ackChan (setSession t Session.reset) c code resp = ackRaw (setSession t Session.reset) c code resp :=
  ackChan_clear (underSession_closed (by change SessMode.closed ≠ .opened; decide)) code resp

/-- GET_REPORT on a module that signs none: the one report begins. -/
def reportBegun (r : State) (c : Nat) (nonce : List Byte) (addr : Nat) : State :=
  let t := setSec r { r.sec with
    report := some (c, nonce, addr)
    session := { r.sec.session with nonces := r.sec.session.nonces ++ [nonce] } }
  setChan t c { chanOf t c with started := true }

end

/-! ## What each command does with the state `r` in which its message is used up -/

/-- A Boolean refusal, and the one that the statement writes. -/
theorem ite_not_eq {α : Type} (b : Bool) (x y : α) : (if (!b) = true then x else y) = if b = false then x else y := by
  cases b <;> rfl

/-- The security engine once DEBUG_UNLOCK has erased its keys and closed the session. -/
def erased (s : State) (token : List Byte) (expiry : Nat) : State :=
  setSec s { s.sec with
    assetKeys := []
    jobKeys := []
    session := Session.reset
    unlocked := some expiry
    token := token }

theorem unlock_eq (s : State) (token : List Byte) (expiry : Nat) : unlock s token expiry
    = setBits (setBits (setPairMode (pairLost (erased s token expiry)) .absent) Reg.SEC_INT_STATUS 8) Reg.BOND_INT_STATUS 256 := rfl

/-- DEBUG_UNLOCK erases every key, ends the session and the pair, and has SVC_AUX drive the trace clock (R418). -/
theorem unlock_clears (s : State) (token : List Byte) (expiry : Nat) :
    let u := unlock s token expiry
    u.sec.assetKeys = [] ∧ u.sec.jobKeys = [] ∧ u.sec.session = Session.reset ∧ u.sec.pairSecret = none ∧ u.twin.mode = .absent
      ∧ u.sec.unlocked = some expiry ∧ svcAux u = .traceClock ∧ regBit u Reg.SEC_INT_STATUS 3 = true ∧ regBit u Reg.BOND_INT_STATUS 8 = true := by
  rw [unlock_eq]
  obtain ⟨-, -, -, -, hsec, hjobs, hkeys⟩ := pairLost_lost (erased s token expiry)
  have hunlocked : (pairLost (erased s token expiry)).sec.unlocked = some expiry := congrArg SecSt.unlocked hsec
  have hsession : (pairLost (erased s token expiry)).sec.session = Session.reset := congrArg SecSt.session hsec
  have hsecret : (pairLost (erased s token expiry)).sec.pairSecret = none := congrArg SecSt.pairSecret hsec
  have hjobs := hjobs rfl
  have hkeys := hkeys rfl
  generalize pairLost (erased s token expiry) = v at *
  refine ⟨hkeys, hjobs, hsession, hsecret, rfl, hunlocked, if_pos (Option.isSome_iff_exists.mpr ⟨expiry, hunlocked⟩), ?_,
    regBit_setBits _ _ (by decide) (by decide)⟩
  have hbit := regBit_setBits (setPairMode v .absent) Reg.SEC_INT_STATUS (m := 8) (n := 3) (by decide) (by decide)
  rwa [regBit, reg_setBits_ne]

end Sys2Proof.Laws

namespace Sys2Proof.Proofs

open Sys2Proof.Machine Sys2Proof.Laws

/-- Settles O50: the message on the channel is opened once, and each command is what it does in the state that has used it up. -/
theorem sessionMessagesRunTheirCommand : Obligations.SessionMessagesRunTheirCommand := by
  unfold Obligations.SessionMessagesRunTheirCommand
  refine ⟨fun s c len id n hloud hmode hsecure hnext hpending hlow hhigh => ?_, fun s token t => ?_, fun s c code id len n resp hpending hlost hloud hcode => ?_⟩
  · intro r run
    have hsession : underSession s c = true := by simp [underSession, hsecure, hmode]
    have htaken : TakenSealed s c len id n := ⟨hloud, hsession, hsecure, hnext, hpending, hlow, hhigh⟩
    have hrun (code : Nat) (hcode : code ∈ sessionCommands) (act : State → Nat → State) (t : State) (hact : act r n = t) :
        done (takeMessage s c code act) = .next (settle (run code t)) := by
      rw [← hact, done_eq]
      cases hm : messageOf s c len with
      | none => simp only [takeMessage_refused htaken hm, run, hm]
      | some m => simp only [takeMessage_sealed htaken hm hcode, run, hm, readMessage_sealed hsession, r]
    refine ⟨hrun 0x0103 (by decide) _ _ (ackChan_closed r 0 []),
      fun nonce addr hreport => ⟨reportBegun r c nonce addr, ?_, rfl, rfl, chanOf_setChan_self _ _ _, rfl⟩,
      fun o ok => hrun 0x0120 (by decide) _ _ ?_, fun i => hrun 0x0121 (by decide) _ _ rfl,
      fun key sig ok => hrun 0x0130 (by decide) _ _ ?_, fun i f sig ok => hrun 0x0131 (by decide) _ _ ?_,
      fun i nonce t sig ok => hrun 0x0140 (by decide) _ _ ?_⟩
    · refine hrun 0x0111 (by decide) _ _ ?_
      have hidle : ¬r.sec.report.isSome = true := by simp [r, setSession, hreport]
      have hsealed : underSession r c = true := hsession
      simp only [hidle, hsealed, if_true]
      rfl
    · have hopen : openRelease r o = openRelease s o := rfl
      cases ok with
      | false => rfl
      | true =>
        cases hkey : openRelease s o with
        | none => simp only [hopen, hkey, Bool.not_true, Bool.false_eq_true, Bool.true_eq_false, if_false]
        | some k =>
          simp only [hopen, hkey, Bool.not_true, Bool.false_eq_true, Bool.true_eq_false, if_false, Bool.not_eq_true']
          rfl
    · simp only [Bool.not_eq_true']
      rfl
    · simp only [ite_not_eq]
      rfl
    · simp only [Bool.not_eq_true']
      rfl
  · exact unlock_clears s token t
  · have hacked := ackRaw_acknowledged resp hpending hlost hloud hcode
    have hlen : (resp.take 256).length = min 256 resp.length := List.length_take
    refine ⟨hacked.frame, hacked.pending, hacked.done, ?_, ?_, hacked.ack, hacked.raised⟩
    · rw [hacked.chan, ← hlen]
      rfl
    · rw [hacked.chan, ← hlen]
      exact List.take_left

end Sys2Proof.Proofs
end

section
/-!
SUPPORT. The channels of the Firic link (R382): what starting the queued frames of one leaves.
-/
namespace Sys2Proof.Laws

open Sys2Proof.Machine

section
variable {s t u : State} {v w k : Nat}

@[simp] theorem vcOf_setVc_self (s : State) (v : Nat) (x : Vc) : vcOf (setVc s v x) v = x := tget_tset_self ..

theorem vcOf_setVc_ne (x : Vc) (h : w ≠ v) : vcOf (setVc s v x) w = vcOf s w := tget_tset_ne _ _ _ h

theorem vcOf_congr (h : t.twin.vcs = s.twin.vcs) (v : Nat) : vcOf t v = vcOf s v := by rw [vcOf, vcOf, h]

/-- A counter stands at its width's most at the utmost. -/
theorem min_reg (s : State) (a : Nat) : min (reg s a + 0) 0xFFFFFFFF = reg s a := Nat.min_eq_left (Nat.le_of_lt_succ (reg_lt s a))

/-! ## One frame starts -/

/-- The channel once its first queued frame has started, `n` flits long. -/
def startedVc (c : Vc) (f : Frame) (q : List Frame) (n at_ : Nat) : Vc :=
  { c with
    queue := q
    again := c.again - 1
    out := c.out ++ [f]
    sent := (c.sent + n) % 65536
    since := if c.out = [] ∧ c.again = 0 then at_ else c.since }

/-- The state once the first queued frame `f` of channel `v` has started. -/
def started (s : State) (v : Nat) (f : Frame) (q : List Frame) : State :=
  let s0 := if 0 < (vcOf s v).again then bump s Reg.TWIN_CNT_RETX else s
  sendOut (setVc s0 v (startedVc (vcOf s v) f q (flits (wireLen s f)) (now s))) v f

/-- Whether the credit of channel `v` allows a frame. -/
def allowed (s : State) (v : Nat) (f : Frame) : Prop :=
  s.twin.linkUp ∧ ((vcOf s v).sent + 65536 - (vcOf s v).cred % 65536) % 65536 + flits (wireLen s f) ≤ vcBuffer v

theorem pump_nil (h : (vcOf s v).queue = []) (n : Nat) : pump s v n = s := by
  cases n with
  | zero => rfl
  | succ n => simp only [pump, h]

theorem pump_started {f : Frame} {q : List Frame} (h : (vcOf s v).queue = f :: q) (hallow : allowed s v f) (n : Nat) :
    pump s v (n + 1) = pump (started s v f q) v n := by
  simp only [pump, h]
  exact if_pos hallow

theorem pump_stopped {f : Frame} {q : List Frame} (h : (vcOf s v).queue = f :: q) (hallow : ¬allowed s v f) (n : Nat) : pump s v n = s := by
  cases n with
  | zero => rfl
  | succ n =>
    simp only [pump, h]
    exact if_neg hallow

/-! ## Frames started (R382) -/

/-- The first `k` queued frames of channel `v` have started, in order: those sent before counted, none beyond the credit. -/
structure Pumped (s : State) (v k : Nat) (u : State) : Prop where
  frame : u = { s with regs := u.regs, evt := u.evt, twin := { s.twin with vcs := u.twin.vcs }, emitted := u.emitted }
  kept : RegsKept s u [Reg.TWIN_CNT_RETX]
  others : ∀ w, w ≠ v → vcOf u w = vcOf s w
  bounded : k ≤ (vcOf s v).queue.length
  chan : vcOf u v = { vcOf s v with
    queue := (vcOf s v).queue.drop k
    again := (vcOf s v).again - k
    out := (vcOf s v).out ++ (vcOf s v).queue.take k
    sent := (vcOf u v).sent
    since := (vcOf u v).since }
  counted : reg u Reg.TWIN_CNT_RETX = min (reg s Reg.TWIN_CNT_RETX + min k (vcOf s v).again) 0xFFFFFFFF
  same : k = 0 → u = s
  credit : 0 < k → ((vcOf u v).sent + 65536 - (vcOf s v).cred % 65536) % 65536 ≤ vcBuffer v

theorem Pumped.refl (s : State) (v : Nat) : Pumped s v 0 s where
  frame := rfl
  kept := RegsKept.refl s _
  others _ _ := rfl
  bounded := Nat.zero_le _
  chan := by rw [List.take_zero, List.append_nil, List.drop_zero, Nat.sub_zero]
  counted := by rw [Nat.zero_min, min_reg]
  same _ := rfl
  credit h := absurd h (Nat.lt_irrefl 0)

theorem started_pumped (f : Frame) {q : List Frame} (h : (vcOf s v).queue = f :: q) (hallow : allowed s v f) : Pumped s v 1 (started s v f q) := by
  have hbump : Tallied [Reg.TWIN_CNT_RETX] s (if 0 < (vcOf s v).again then bump s Reg.TWIN_CNT_RETX else s) :=
    ((Tallied.refl _ _).bump).ite (Tallied.refl _ _)
  have hchan : vcOf (started s v f q) v = startedVc (vcOf s v) f q (flits (wireLen s f)) (now s) := vcOf_setVc_self ..
  refine ⟨?_, hbump.kept, fun w hw => ?_, ?_, ?_, ?_, nofun, fun _ => ?_⟩
  · unfold started
    generalize (if 0 < (vcOf s v).again then bump s Reg.TWIN_CNT_RETX else s) = s0 at hbump
    rw [hbump.frame]
    rfl
  · exact (vcOf_setVc_ne _ hw).trans (vcOf_congr (congrArg (·.twin.vcs) hbump.frame) w)
  · rw [h]
    exact Nat.succ_le_succ (Nat.zero_le _)
  · rw [hchan, h]
    rfl
  · change reg (if 0 < (vcOf s v).again then bump s Reg.TWIN_CNT_RETX else s) Reg.TWIN_CNT_RETX = _
    split
    · next hagain => rw [Nat.min_eq_left hagain, reg_bump_self]
    · next hagain => rw [Nat.eq_zero_of_not_pos hagain, Nat.min_zero, min_reg]
  · obtain ⟨-, hcredit⟩ := hallow
    rw [hchan]
    change ((((vcOf s v).sent + flits (wireLen s f)) % 65536) + 65536 - (vcOf s v).cred % 65536) % 65536 ≤ vcBuffer v
    omega

theorem Pumped.trans {i j : Nat} (h : Pumped s v i t) (g : Pumped t v j u) : Pumped s v (i + j) u := by
  obtain ⟨hframe, hkept, hothers, hbounded, hchan, hcounted, hsame, hcredit⟩ := h
  obtain ⟨gframe, gkept, gothers, gbounded, gchan, gcounted, gsame, gcredit⟩ := g
  have hqueue : (vcOf t v).queue = (vcOf s v).queue.drop i := congrArg Vc.queue hchan
  have hagain : (vcOf t v).again = (vcOf s v).again - i := congrArg Vc.again hchan
  have hcred : (vcOf t v).cred = (vcOf s v).cred := (congrArg Vc.cred hchan).trans rfl
  rw [hqueue, List.length_drop] at gbounded
  refine ⟨gframe.trans (by rw [hframe]), hkept.trans gkept, fun w hw => (gothers w hw).trans (hothers w hw), by omega, ?_, ?_, fun hzero => ?_, fun hpos => ?_⟩
  · rw [gchan, hchan]
    simp only [List.drop_drop, List.append_assoc, List.take_add, Nat.sub_sub]
  · rw [gcounted, hcounted, hagain]
    omega
  · rw [gsame (by omega), hsame (by omega)]
  · by_cases hj : 0 < j
    · rw [← hcred]
      exact gcredit hj
    · rw [gsame (by omega)]
      exact hcredit (by omega)

theorem pump_pumped (s : State) (v n : Nat) : ∃ k, Pumped s v k (pump s v n) := by
  induction n generalizing s with
  | zero => exact ⟨0, Pumped.refl s v⟩
  | succ n ih =>
    cases hqueue : (vcOf s v).queue with
    | nil =>
      rw [pump_nil hqueue]
      exact ⟨0, Pumped.refl s v⟩
    | cons f q =>
      by_cases hallow : allowed s v f
      · obtain ⟨k, hk⟩ := ih (started s v f q)
        rw [pump_started hqueue hallow]
        exact ⟨1 + k, (started_pumped f hqueue hallow).trans hk⟩
      · rw [pump_stopped hqueue hallow]
        exact ⟨0, Pumped.refl s v⟩

/-! ## Frames sent -/

/-- `u` is `s` after frames were sent: its channels, what has left the block, and the count of frames sent again. -/
structure Sent (s u : State) : Prop where
  frame : u = { s with regs := u.regs, evt := u.evt, twin := { s.twin with vcs := u.twin.vcs }, emitted := u.emitted }
  kept : RegsKept s u [Reg.TWIN_CNT_RETX]

theorem Sent.refl (s : State) : Sent s s := ⟨rfl, RegsKept.refl s _⟩

theorem Sent.trans (h : Sent s t) (g : Sent t u) : Sent s u := ⟨g.frame.trans (by rw [h.frame]), h.kept.trans g.kept⟩

theorem Sent.foldl {α : Type} {f : State → α → State} (h : ∀ t x, Sent t (f t x)) (l : List α) (s : State) : Sent s (l.foldl f s) :=
  List.foldlRecOn l f (Sent.refl s) fun t ht x _ => ht.trans (h t x)

theorem Sent.resync (h : Sent s u) : u.twin.resync = s.twin.resync := congrArg (·.twin.resync) h.frame

theorem sent_setVc (s : State) (v : Nat) (x : Vc) : Sent s (setVc s v x) := ⟨rfl, RegsKept.refl s _⟩

theorem Pumped.sent (h : Pumped s v k u) : Sent s u := ⟨h.frame, h.kept⟩

theorem sent_pump (s : State) (v n : Nat) : Sent s (pump s v n) := by
  obtain ⟨k, hk⟩ := pump_pumped s v n
  exact hk.sent

theorem sent_sendFrame (s : State) (v type : Nat) (p : List Byte) : Sent s (sendFrame s v type p) := (sent_setVc s v _).trans (sent_pump _ _ _)

theorem sent_sendMbox (s : State) (kind : Nat) (bs : List Byte) : Sent s (sendMbox s kind bs) := by
  unfold sendMbox
  split
  · exact sent_sendFrame ..
  · exact Sent.refl s

theorem sent_sendCtrl (s : State) (op pass jseq count : Nat) (digest : List Byte) : Sent s (sendCtrl s op pass jseq count digest) := sent_sendFrame ..

theorem sent_sendStream (s : State) (n : Nat) (bs : List Byte) : Sent s (sendStream s n bs) := by
  induction n generalizing s bs with
  | zero => exact Sent.refl s
  | succ n ih =>
    unfold sendStream
    split
    · exact Sent.refl s
    · exact (sent_sendFrame ..).trans (ih _ _)

end

end Sys2Proof.Laws
end

section
/-!
SUPPORT. The register word ADMIT_CTRL, which holds OPEN: no answer, refusal or frame sent touches it.
-/
namespace Sys2Proof.Laws

open Sys2Proof.Machine

/-- The word ADMIT_CTRL. -/
def admitWord (s : State) : Nat := reg s Reg.ADMIT_CTRL

theorem admitWord_congr {s t : State} (h : t.regs = s.regs) :
    admitWord t = admitWord s := congrArg (fun r => (tget regReset r Reg.ADMIT_CTRL).toNat) h

@[simp] theorem reg_admitCtrl (s : State) : reg s Reg.ADMIT_CTRL = admitWord s := rfl

@[simp] theorem admitWord_mk (pending regs latch emitted fresh time bond assets) (m l k : Mem)
    (poison cores credits deliveries steps sel front serve adm
    energy host twin pod sec plinth text topo err evt) :
    admitWord { pending := pending, regs := regs, latch := latch, emitted := emitted, fresh := fresh, time := time, bond := bond, assets := assets,
                staging := m, lpddr := l, scratch := k, poison := poison, cores := cores, credits := credits, deliveries := deliveries, steps := steps,
                sel := sel, front := front, serve := serve, adm := adm, energy := energy, host := host, twin := twin, pod := pod, sec := sec,
                plinth := plinth, text := text, topo := topo, err := err, evt := evt } = (tget regReset regs Reg.ADMIT_CTRL).toNat := rfl

@[simp] theorem admitWord_eta (s : State) : (tget regReset s.regs Reg.ADMIT_CTRL).toNat = admitWord s := rfl

@[simp] theorem admitWord_foldl {α : Type} (f : State → α → State) (h : ∀ s x, admitWord (f s x) = admitWord s) (l : List α) (s : State) :
    admitWord (l.foldl f s) = admitWord s := by
  induction l generalizing s with
  | nil => rfl
  | cons x l ih => rw [List.foldl_cons, ih, h]

@[simp] theorem admitWord_ite {p : Prop} [Decidable p] (a b : State) : admitWord (if p then a else b) = if p then admitWord a else admitWord b := by
  split <;> rfl

@[simp] theorem admitWord_setBits {s : State} {a m : Nat} (h : Reg.ADMIT_CTRL ≠ a) : admitWord (setBits s a m) = admitWord s := reg_setBits_ne _ _ h

@[simp] theorem admitWord_bump {s : State} {a : Nat} (h : Reg.ADMIT_CTRL ≠ a) : admitWord (bump s a) = admitWord s := reg_bumpBy_ne _ _ (by decide) h

@[simp] theorem admitCtrl_ne_lost (q : Nat) : Reg.ADMIT_CTRL ≠ Reg.Q_CNT_LOST q := by
  unfold Reg.ADMIT_CTRL Reg.Q_CNT_LOST
  omega

@[simp] theorem admitCtrl_ne_cqWait (q : Nat) : Reg.ADMIT_CTRL ≠ Reg.Q_CNT_CQ_WAIT q := by
  unfold Reg.ADMIT_CTRL Reg.Q_CNT_CQ_WAIT
  omega

@[simp] theorem admitCtrl_ne_qInt (q : Nat) : Reg.ADMIT_CTRL ≠ Reg.Q_INT_STATUS q := by
  unfold Reg.ADMIT_CTRL Reg.Q_INT_STATUS
  omega

/-! ## Machine/Ops -/

@[simp] theorem admitWord_emit (s : State) (e : Emission) : admitWord (emit s e) = admitWord s := by
  unfold emit
  simp

/-! ## Machine/Link -/

@[simp] theorem admitWord_setVc (s : State) (v : Nat) (x : Vc) : admitWord (setVc s v x) = admitWord s := rfl

@[simp] theorem admitWord_sendOut (s : State) (v : Nat) (f : Frame) : admitWord (sendOut s v f) = admitWord s := by
  unfold sendOut
  simp

@[simp] theorem admitWord_pump (s : State) (v n : Nat) : admitWord (pump s v n) = admitWord s := by
  induction n generalizing s with
  | zero => rfl
  | succ n ih =>
    unfold pump
    dsimp only
    (repeat' split) <;> simp [ih, show Reg.ADMIT_CTRL ≠ Reg.TWIN_CNT_RETX by decide]

@[simp] theorem admitWord_sendFrame (s : State) (v type : Nat) (payload : List Byte) : admitWord (sendFrame s v type payload) = admitWord s := by
  unfold sendFrame
  simp

/-! ## Machine/Host -/

@[simp] theorem admitWord_setPair (s : State) (q : Nat) (p : Pair) : admitWord (setPair s q p) = admitWord s := by
  unfold setPair
  simp

@[simp] theorem admitWord_coalMsg (s : State) (q : Nat) : admitWord (coalMsg s q) = admitWord s := by
  unfold coalMsg
  simp

@[simp] theorem admitWord_coalesce (s : State) (q : Nat) : admitWord (coalesce s q) = admitWord s := by
  unfold coalesce
  simp

@[simp] theorem admitWord_putEntry (s : State) (q : Nat) (bytes : List Byte) (replayed : Bool) :
    admitWord (putEntry s q bytes replayed) = admitWord s := by
  unfold putEntry
  simp

@[simp] theorem admitWord_putBuffer (s : State) (q : Nat) (c : Cpl) : admitWord (putBuffer s q c) = admitWord s := by
  unfold putBuffer
  (repeat' split) <;> simp

@[simp] theorem admitWord_flushPair (s : State) (q n : Nat) : admitWord (flushPair s q n) = admitWord s := by
  induction n generalizing s with
  | zero => rfl
  | succ n ih =>
    unfold flushPair
    dsimp only
    (repeat' split) <;> simp [ih]

@[simp] theorem admitWord_trimWindow (s : State) (q : Nat) : admitWord (trimWindow s q) = admitWord s := by
  unfold trimWindow
  dsimp only
  repeat' split
  all_goals simp

@[simp] theorem admitWord_postEntry (s : State) (q kind part parts reqSeq hsn : Nat) (buffer : Option (Nat × List Byte)) (payload : List Byte) :
    admitWord (postEntry s q kind part parts reqSeq hsn buffer payload) = admitWord s := by
  unfold postEntry
  dsimp only
  repeat' split
  all_goals simp

@[simp] theorem admitWord_postParts (s : State) (q kind parts reqSeq hsn i : Nat) (l : List (List Byte)) :
    admitWord (postParts s q kind parts reqSeq hsn i l) = admitWord s := by
  induction l generalizing s i with
  | nil => rfl
  | cons b l ih =>
    rw [postParts, ih]
    simp

@[simp] theorem admitWord_post (s : State) (q kind reqSeq hsn : Nat) (l : List (List Byte)) :
    admitWord (post s q kind reqSeq hsn l) = admitWord s := by
  simp [post]

/-! ## Machine/Pod -/

@[simp] theorem admitWord_setPeer (s : State) (n i : Nat) (x1 : Peer) : admitWord (setPeer s n i x1) = admitWord s := by
  unfold setPeer
  simp

@[simp] theorem admitWord_setClass (s : State) (n c : Nat) (x1 : Machine.Class) : admitWord (setClass s n c x1) = admitWord s := by
  unfold setClass
  simp

@[simp] theorem admitWord_joinQueue (s : State) (n c : Nat) (bs : List Byte) : admitWord (joinQueue s n c bs) = admitWord s := by
  unfold joinQueue
  simp

@[simp] theorem admitWord_putFrame (s : State) (n i : Nat) (f : PodFrame) : admitWord (putFrame s n i f) = admitWord s := by
  unfold putFrame
  simp

@[simp] theorem admitWord_pumpPeer (s : State) (n i k : Nat) : admitWord (pumpPeer s n i k) = admitWord s := by
  induction k generalizing s with
  | zero => rfl
  | succ k ih =>
    unfold pumpPeer
    dsimp only
    (repeat' split) <;> simp [ih]

@[simp] theorem admitWord_podSend (s : State) (n i type : Nat) (body : List Byte) (token : Bool) :
    admitWord (podSend s n i type body token) = admitWord s := by
  unfold podSend
  simp

/-! ## Machine/Deliver -/

@[simp] theorem admitWord_answer (s : State) (o : Origin) (kind reqSeq : Nat) (payload : List Byte) :
    admitWord (answer s o kind reqSeq payload) = admitWord s := by
  unfold answer
  (repeat' split) <;> simp

@[simp] theorem admitWord_admitEntry (s : State) (o : Origin) (reqSeq : Nat) (role : Bool) (report : List Byte) :
    admitWord (admitEntry s o reqSeq role report) = admitWord s := by
  unfold admitEntry
  simp

/-! ## Machine/Admit -/

@[simp] theorem admitWord_refuse (s : State) (r : Req) (code planned : Nat) : admitWord (refuse s r code planned) = admitWord s := by
  have hentry := admitWord_admitEntry s r.origin 0xFFFFFFFF s.twin.role (admitReport code r.account ((now s - r.arrival) / 65536) planned (now s))
  unfold refuse
  generalize admitEntry s r.origin 0xFFFFFFFF s.twin.role _ = t at hentry
  rw [← hentry]
  dsimp only
  split
  · exact (admitWord_setBits (by decide)).trans (admitWord_bump (by decide))
  · exact (admitWord_setBits (by decide)).trans (admitWord_bump (by decide))
  · exact (admitWord_setBits (by decide)).trans (admitWord_bump (by decide))
  · exact admitWord_bump (by decide)

@[simp] theorem admitWord_refuseAll (s : State) (code : Nat) : admitWord (refuseAll s code) = admitWord s := by
  unfold refuseAll
  simp

end Sys2Proof.Laws
end

section
/-!
SUPPORT. The events of the pair (spec/18_twin.md, R382 to R395, R439, R480): retransmission, the loss and the return of the link, declared faults, the
passes of a copy, and the declaration.
-/
namespace Sys2Proof.Laws

open Sys2Proof.Machine

section
variable {s t u : State}

theorem watchdogDue_iff (s : State) : watchdogDue s = true ↔ hasCount s = true ∧ s.twin.fedAt + 2 * measureN s ≤ s.time.rawBeats := by
  simp [watchdogDue]

theorem firicRtoDue_iff (s : State) (v : Nat) : firicRtoDue s v = true ↔ ((vcOf s v).out ≠ [] ∨ 0 < (vcOf s v).again)
    ∧ isDue s (addBeats (vcOf s v).since (bits (reg s Reg.TWIN_RTO) 15 0)) = true := by
  simp [firicRtoDue]

theorem declareDue_iff (s : State) : declareDue s = true ↔ s.twin.joined = true ∧ s.time.ck = 0 ∧ s.time.beat % max (measureN s) 1 = 0
    ∧ (3 ≤ s.twin.missed ∨ s.twin.faultSeen = true) := by
  simp [declareDue, and_assoc]

/-! ## Retransmission (R382) -/

theorem firicRto_off {v : Nat} (h : s.twin.linkUp = false ∨ firicRtoDue s v = false) : firicRto s v = s := by
  rcases h with h | h <;> simp [firicRto, h]

/-- The channel whose unacknowledged frames wait to be sent again. -/
def rewound (c : Vc) (at_ : Nat) : Vc :=
  { c with
    timeouts := c.timeouts + 1
    since := at_
    queue := c.out ++ c.queue
    again := c.out.length + c.again
    out := [] }

theorem firicRto_due {v : Nat} (hup : s.twin.linkUp = true) (hdue : firicRtoDue s v = true) : firicRto s v =
    if 250 ≤ (vcOf s v).timeouts + 1 then linkDown s
    else pump (setVc s v (rewound (vcOf s v) (now s))) v ((vcOf s v).out.length + (vcOf s v).queue.length + 1) := by
  have hgo : ¬((!s.twin.linkUp) = true ∨ (!firicRtoDue s v) = true) := by simp [hup, hdue]
  rw [firicRto, if_neg hgo]
  rfl

theorem firicRto_clause (s : State) (v : VcNo) :
    ((s.twin.linkUp = false ∨ firicRtoDue s v = false) → exec (.firicRto v) s = .next (settle s))
      ∧ (firicRtoDue s v = true ↔ ((vcOf s v).out ≠ [] ∨ 0 < (vcOf s v).again)
          ∧ isDue s (addBeats (vcOf s v).since (bits (reg s Reg.TWIN_RTO) 15 0)) = true)
      ∧ (s.twin.linkUp = true → firicRtoDue s v = true → 250 ≤ (vcOf s v).timeouts + 1 →
          exec (.firicRto v) s = exec .firicLinkDown s)
      ∧ (s.twin.linkUp = true → firicRtoDue s v = true → (vcOf s v).timeouts + 1 < 250 →
          let c := vcOf s v
          ∃ u k, exec (.firicRto v) s = .next (settle u)
            ∧ u = { s with regs := u.regs, evt := u.evt, twin := { s.twin with vcs := u.twin.vcs }, emitted := u.emitted }
            ∧ (vcOf u v).out = (c.out ++ c.queue).take k ∧ (vcOf u v).queue = (c.out ++ c.queue).drop k
            ∧ k ≤ (c.out ++ c.queue).length ∧ (vcOf u v).again = c.out.length + c.again - k
            ∧ reg u Reg.TWIN_CNT_RETX = min (reg s Reg.TWIN_CNT_RETX + min k (c.out.length + c.again)) 0xFFFFFFFF
            ∧ RegsKept s u [Reg.TWIN_CNT_RETX] ∧ (vcOf u v).timeouts = c.timeouts + 1
            ∧ (∀ w, w ≠ (v : Nat) → vcOf u w = vcOf s w)) := by
  have hexec (u : State) (h : firicRto s v = u) : exec (.firicRto v) s = .next (settle u) := h ▸ rfl
  refine ⟨fun h => hexec s (firicRto_off h), firicRtoDue_iff s v, fun hup hdue hlast => ?_, fun hup hdue hmore => ?_⟩
  · exact hexec _ (by rw [firicRto_due hup hdue, if_pos hlast])
  · intro c
    obtain ⟨k, hpump⟩ := pump_pumped (setVc s v (rewound c (now s))) v (c.out.length + c.queue.length + 1)
    refine ⟨_, k, hexec _ (by rw [firicRto_due hup hdue, if_neg (by omega)]), ?_⟩
    have hsent := hpump.sent
    obtain ⟨-, -, hothers, hbounded, hchan, hcounted, -, -⟩ := hpump
    rw [vcOf_setVc_self] at hbounded hchan hcounted
    generalize pump (setVc s v (rewound c (now s))) v (c.out.length + c.queue.length + 1) = u at *
    refine ⟨((sent_setVc s v _).trans hsent).frame, ?_, ?_, hbounded, ?_, hcounted, ((sent_setVc s v _).trans hsent).kept, ?_,
      fun w hw => (hothers w hw).trans (vcOf_setVc_ne _ hw)⟩
    · exact (congrArg Vc.out hchan).trans (List.nil_append _)
    · exact congrArg Vc.queue hchan
    · exact congrArg Vc.again hchan
    · exact congrArg Vc.timeouts hchan

/-! ## The link is lost (R382) -/

theorem linkDown_off (h : s.twin.linkUp = false) : linkDown s = s := by simp [linkDown, h]

/-- The module once its link is down, before a LOAD from the twin is rejected. -/
def unlinked (s : State) : State :=
  let v := pairLost (setTwin s { s.twin with linkUp := false })
  setTwin v { v.twin with vcs := [] }

theorem linkDown_eq (h : s.twin.linkUp = true) : linkDown s =
    setBits (if (unlinked s).bond.mode = .checking ∧ (unlinked s).bond.fromTwin then loadReject (unlinked s) (0x0A, 6, 0xFFFF) else unlinked s)
      Reg.TWIN_INT_STATUS 8 := by
  simp only [linkDown, h, Bool.not_true, Bool.false_eq_true, if_false]
  rfl

/-- The end of a LOAD from the twin leaves the twin and the security engine as they are. -/
theorem rejected_kept (v : State) (p : Prop) [Decidable p] (b : Bad) (a m : Nat) :
    (setBits (if p then loadReject v b else v) a m).twin = v.twin ∧ (setBits (if p then loadReject v b else v) a m).sec = v.sec := by
  split <;> exact ⟨rfl, rfl⟩

theorem linkDown_clause (s : State) : (s.twin.linkUp = false → exec .firicLinkDown s = .next (settle s))
      ∧ (s.twin.linkUp = true → ∃ u, exec .firicLinkDown s = .next (settle u) ∧ u.twin.linkUp = false ∧ u.sec.pairSecret = none
          ∧ u.sec.share = none ∧ u.twin.resync = none ∧ regBit u Reg.TWIN_INT_STATUS 3 = true ∧ u.twin.vcs = [] ∧ u.twin.stream = []
          ∧ (s.twin.resync = none → u.twin.mode = (if s.twin.mode = .solo then .solo else if s.twin.mode = .draining then .draining else .absent))
          ∧ (∀ r, s.twin.resync = some r → u.twin.mode = (if r.source = true then .solo else .absent))) := by
  have hexec : exec .firicLinkDown s = .next (settle (linkDown s)) := rfl
  refine ⟨fun h => by rw [hexec, linkDown_off h], fun h => ⟨_, hexec, ?_⟩⟩
  have hlost := pairLost_lost (setTwin s { s.twin with linkUp := false })
  have hunlinked : (linkDown s).twin = (unlinked s).twin ∧ (linkDown s).sec = (unlinked s).sec := by
    rw [linkDown_eq h]
    exact rejected_kept ..
  have hbit : regBit (linkDown s) Reg.TWIN_INT_STATUS 3 = true := by
    rw [linkDown_eq h]
    exact regBit_setBits _ _ (by decide) (by decide)
  obtain ⟨htwin, hsec⟩ := hunlinked
  generalize linkDown s = u at *
  obtain ⟨hresync, hlink, hstream, hmode, hsecret, -, -⟩ := hlost
  unfold unlinked at htwin hsec
  generalize pairLost (setTwin s { s.twin with linkUp := false }) = v at *
  rw [htwin, hsec]
  refine ⟨hlink, congrArg SecSt.pairSecret hsecret, congrArg SecSt.share hsecret, hresync, hbit, rfl, hstream, fun hnone => ?_, fun r hsome => ?_⟩
  · refine hmode.trans ?_
    simp only [modeAfterCopy, setTwin, hnone]
    rfl
  · refine hmode.trans ?_
    simp only [modeAfterCopy, setTwin, hsome]
    split <;> rfl

/-! ## The link comes up (R441) -/

theorem aside_putBit (s : State) (a n : Nat) (b : Bool) : aside (putBit s a n b) = aside s := by
  unfold putBit
  split
  · exact aside_setBits ..
  · exact aside_setReg ..

theorem aside_admitCtrl (s : State) (on : Bool) : aside (admitCtrl s on) = aside s := by
  unfold admitCtrl
  split
  · split
    · rfl
    · exact aside_putBit ..
  · exact (aside_refuseAll _ _).trans (aside_putBit ..)

theorem regBit_admitCtrl_closed (s : State) : regBit (admitCtrl s false) Reg.ADMIT_CTRL 0 = false := by
  have hclear : regBit (putBit s Reg.ADMIT_CTRL 0 false) Reg.ADMIT_CTRL 0 = false := regBit_clearBits_two_pow s _ (by decide)
  have hword : admitWord (refuseAll (putBit s Reg.ADMIT_CTRL 0 false) 0x12) = admitWord (putBit s Reg.ADMIT_CTRL 0 false) := admitWord_refuseAll _ _
  exact (congrArg (bit · 0) hword).trans hclear

/-- A split of two SOLO modules takes role B to DRAINING; the rest of the twin stays. -/
theorem aside_checkSplit (s : State) : aside (checkSplit s)
    = aside (if s.twin.mode = .solo ∧ s.twin.peerState = 5 ∧ s.twin.role = true then setPairMode s .draining else s) := by
  unfold checkSplit
  split
  · exact aside_admitCtrl _ _
  · rfl

theorem linkUpFiric_off {peerSolo : Bool} {x : LinkTraining} (h : s.topo.fuseTwin = false ∨ s.twin.linkUp = true ∨ linksTrain s = false) :
    linkUpFiric s peerSolo x = s := by
  have hoff : (!s.topo.fuseTwin) = true ∨ s.twin.linkUp = true ∨ (!linksTrain s) = true := by simpa using h
  rw [linkUpFiric, if_pos hoff]

/-- The module once the link has trained, before it looks at what its twin is. -/
def linkBegun (s : State) (peerSolo : Bool) (x : LinkTraining) : State :=
  let v := trainUnit s .firic x
  setTwin v { v.twin with
    linkUp := true
    linkEpoch := (v.twin.linkEpoch + 1) % 65536
    vcs := []
    stream := []
    vmap := []
    faultSeen := v.twin.faultSeen && v.twin.joined
    peerState := if peerSolo then 5 else 0 }

/-- An ABSENT module begins to pair. -/
def pairBegun (v : State) : State := if v.twin.mode = .absent then setPairMode v .linking else v

theorem aside_linkUpFiric {peerSolo : Bool} {x : LinkTraining} (hfuse : s.topo.fuseTwin = true) (hdown : s.twin.linkUp = false)
    (htrain : linksTrain s = true) : aside (linkUpFiric s peerSolo x) = aside (checkSplit (pairBegun (linkBegun s peerSolo x))) := by
  have hgo : ¬((!s.topo.fuseTwin) = true ∨ s.twin.linkUp = true ∨ (!linksTrain s) = true) := by simp [hfuse, hdown, htrain]
  rw [linkUpFiric, if_neg hgo]
  exact (aside_sendMbox _ _ _).trans (aside_tick _)

theorem linkUp_clause (s : State) (peerSolo : Bool) (x : LinkTraining) :
    ((s.topo.fuseTwin = false ∨ s.twin.linkUp = true ∨ linksTrain s = false) →
        exec (.firicLinkUp peerSolo x) s = .next (settle s))
      ∧ (s.topo.fuseTwin = true → s.twin.linkUp = false → linksTrain s = true →
        ∃ u, exec (.firicLinkUp peerSolo x) s = .next (settle u) ∧ u.twin.linkUp = true ∧ u.topo = (trainUnit s .firic x).topo
          ∧ u.twin.linkEpoch = (s.twin.linkEpoch + 1) % 65536 ∧ u.twin.stream = [] ∧ u.twin.vmap = []
          ∧ u.twin.peerState = (if peerSolo then 5 else 0)
          ∧ u.twin.mode = (if s.twin.mode = .absent then .linking
              else if s.twin.mode = .solo ∧ peerSolo = true ∧ s.twin.role = true then .draining else s.twin.mode)) := by
  have hexec : exec (.firicLinkUp peerSolo x) s = .next (settle (linkUpFiric s peerSolo x)) := rfl
  refine ⟨fun h => by rw [hexec, linkUpFiric_off h], fun hfuse hdown htrain => ⟨_, hexec, ?_⟩⟩
  have haside := (aside_linkUpFiric (peerSolo := peerSolo) (x := x) hfuse hdown htrain).trans (aside_checkSplit _)
  generalize linkUpFiric s peerSolo x = u at haside
  obtain ⟨⟨hframe, -, -⟩, -⟩ := trainUnit_trained s .firic x
  unfold linkBegun at haside
  have htwin : (trainUnit s .firic x).twin = s.twin := congrArg (·.twin) hframe
  generalize trainUnit s .firic x = v at *
  rw [linkUp_of_aside haside, topo_of_aside haside, stream_of_aside haside, mode_of_aside haside,
    kept_of_aside TwinSt.linkEpoch (fun _ _ _ => rfl) haside, kept_of_aside TwinSt.vmap (fun _ _ _ => rfl) haside,
    kept_of_aside TwinSt.peerState (fun _ _ _ => rfl) haside]
  by_cases habsent : s.twin.mode = .absent
  · simp [pairBegun, setTwin, setPairMode, htwin, habsent]
  · cases peerSolo
    · simp [pairBegun, setTwin, htwin, habsent]
    · by_cases hsplit : s.twin.mode = .solo ∧ s.twin.role = true
      · simp [pairBegun, setTwin, setPairMode, htwin, hsplit]
      · simp [pairBegun, setTwin, htwin, habsent, hsplit]

/-! ## FAULT declared (R386, R387, R480) -/

theorem declareFault_again {cause : Nat} (h : cause ∈ s.twin.declared) : declareFault s cause = s := by
  rw [declareFault, if_pos (List.contains_iff_mem.mpr h)]

/-- The twin's record of a declared cause. -/
def declaredFault (s : State) (cause : Nat) : State :=
  setTwin s { s.twin with
    declared := s.twin.declared ++ [cause]
    genStop := s.twin.genStop || decide (s.twin.mode = .paired) || stopsSequences cause
    silent := s.twin.silent || decide (cause = 2) }

/-- Admission closed under a declared cause. -/
def faultClosed (s : State) (cause : Nat) : State :=
  refuseAll (putBit (declaredFault s cause) Reg.ADMIT_CTRL 0 false) (if heatStop (declaredFault s cause) then 0x11 else 0x12)

theorem sent_whether (p : Prop) [Decidable p] (s : State) (v type : Nat) (b : List Byte) : Sent s (if p then sendFrame s v type b else s) := by
  split
  · exact sent_sendFrame ..
  · exact Sent.refl s

theorem declareFault_sent {cause : Nat} (h : cause ∉ s.twin.declared) : Sent (faultClosed s cause) (declareFault s cause) := by
  have hnew : ¬s.twin.declared.contains cause = true := fun hmem => h (List.contains_iff_mem.mp hmem)
  rw [declareFault, if_neg hnew]
  exact sent_whether ..

theorem aside_faultClosed (s : State) (cause : Nat) : aside (faultClosed s cause) = aside (declaredFault s cause) :=
  (aside_refuseAll _ _).trans (aside_putBit ..)

theorem regBit_faultClosed (s : State) (cause : Nat) : regBit (faultClosed s cause) Reg.ADMIT_CTRL 0 = false := by
  have hclear : regBit (putBit (declaredFault s cause) Reg.ADMIT_CTRL 0 false) Reg.ADMIT_CTRL 0 = false := regBit_clearBits_two_pow _ _ (by decide)
  exact (congrArg (bit · 0) (admitWord_refuseAll (putBit (declaredFault s cause) Reg.ADMIT_CTRL 0 false) _)).trans hclear

theorem queues_refuseAll (s : State) (code : Nat) : (refuseAll s code).adm.queues = [] :=
  List.foldlRecOn (motive := fun t : State => t.adm.queues = []) _ (fun t r => refuse t r code 0) rfl
    fun t ht r _ => (congrArg AdmitSt.queues (refuse_adm t r code 0)).trans ht

theorem declareFault_clause {cause : Nat} (hcause : cause = 2 ∨ cause = 4) (h : cause ∉ s.twin.declared) :
    let u := declareFault s cause
    u.twin.declared = s.twin.declared ++ [cause]
      ∧ regBit u Reg.ADMIT_CTRL 0 = false ∧ u.adm.queues = []
      ∧ (u.twin.genStop = true ↔ s.twin.genStop = true ∨ s.twin.mode = .paired ∨ cause = 2)
      ∧ (u.twin.silent = true ↔ s.twin.silent = true ∨ cause = 2) := by
  intro u
  have hsent : Sent (faultClosed s cause) u := declareFault_sent h
  have htwin (f : TwinSt → List Nat × Bool × Bool) (hf : ∀ t v r, f { t with vcs := v, resync := r } = f t) : f u.twin = f (declaredFault s cause).twin :=
    (congrArg (f ·.twin) hsent.frame).trans ((hf _ _ _).trans (kept_of_aside f hf (aside_faultClosed s cause)))
  have hparts := htwin (fun t => (t.declared, t.genStop, t.silent)) fun _ _ _ => rfl
  obtain ⟨hdeclared, hrest⟩ := Prod.mk.inj hparts
  obtain ⟨hstop, hsilent⟩ := Prod.mk.inj hrest
  have hstops : stopsSequences cause = true ↔ cause = 2 := by
    rcases hcause with rfl | rfl <;> decide
  refine ⟨hdeclared, ?_, ?_, ?_, ?_⟩
  · rw [regBit, hsent.kept _ (by decide) (by decide)]
    exact regBit_faultClosed s cause
  · exact (congrArg (·.adm.queues) hsent.frame).trans (queues_refuseAll _ _)
  · rw [hstop]
    simp only [declaredFault, setTwin, Bool.or_eq_true, decide_eq_true_eq, hstops, or_assoc]
  · rw [hsilent]
    simp only [declaredFault, setTwin, Bool.or_eq_true, decide_eq_true_eq]

/-! ## REJOIN and the passes of a copy (R394, R395) -/

theorem Sent.frame_twin (h : Sent s u) : u = { s with regs := u.regs, evt := u.evt, twin := u.twin, emitted := u.emitted } := by
  rw [h.frame]

theorem rejoin_clause (s : State) (hreach : hostReaches s Reg.TWIN_CTRL = true) :
    (s.twin.mode = .attested → s.bond.mode = .loaded → s.bond.fromTwin = true → s.twin.peerState = 5 →
        ∃ u, exec .rejoin s = .next (settle u) ∧ u = { s with regs := u.regs, evt := u.evt, twin := u.twin, emitted := u.emitted }
          ∧ RegsKept s u [Reg.TWIN_CNT_RETX] ∧ u.twin.mode = .resync ∧ u.twin.resync = some (Resync.begin_ false))
      ∧ ((s.twin.mode ≠ .attested ∨ s.bond.mode ≠ .loaded ∨ s.bond.fromTwin = false ∨ s.twin.peerState ≠ 5) →
        exec .rejoin s = .next (settle s)) := by
  have hexec : exec .rejoin s = .next (settle (rejoin s)) := host_running rejoin hreach
  refine ⟨fun hmode hloaded hfrom hpeer => ⟨_, hexec, ?_⟩, fun h => ?_⟩
  · have hsent : Sent (setResync (setPairMode s .resync) (Resync.begin_ false)) (rejoin s) := by
      rw [rejoin, if_pos ⟨hmode, hloaded, hfrom, hpeer⟩]
      exact sent_sendMbox ..
    exact ⟨hsent.frame_twin, hsent.kept, congrArg (·.twin.mode) hsent.frame, hsent.resync⟩
  · rw [hexec, rejoin, if_neg]
    rintro ⟨hmode, hloaded, hfrom, hpeer⟩
    rcases h with h | h | h | h
    · exact h hmode
    · exact h hloaded
    · rw [h] at hfrom
      cases hfrom
    · exact h hpeer

theorem passDone_none (h : s.twin.resync = none) : passDone s = s := by simp only [passDone, h]

theorem passDone_off {r : Resync} (h : s.twin.resync = some r) (hoff : r.source = false ∨ r.sent = true ∨ passSent s = false) : passDone s = s := by
  have hoff : (!r.source) = true ∨ r.sent = true ∨ (!passSent s) = true := by simpa using hoff
  simp only [passDone, h, if_pos hoff]

theorem passDone_on {r : Resync} (h : s.twin.resync = some r) (hsource : r.source = true) (hsent : r.sent = false) (hpass : passSent s = true) :
    passDone s =
      let segs := r.marked.filter fun x => (coveredRegions s).contains (x / 2 ^ 40)
      let s1 := sendCtrl s 2 (r.pass % 256) 0 segs.length []
      if r.final then sendState s1 r else startPass s1 { r with final := decide (segs.length ≤ 4096) } segs := by
  have hon : ¬((!r.source) = true ∨ r.sent = true ∨ (!passSent s) = true) := by simp [hsource, hsent, hpass]
  simp only [passDone, h, if_neg hon]

theorem twin_bumpBy (s : State) (a k : Nat) : (bumpBy s a k).twin = s.twin := by
  obtain ⟨r, e, h⟩ := bumpBy_frame s a k
  rw [h]

theorem resync_sendState (s : State) (r : Resync) : ∃ es, (sendState s r).twin.resync = some { r with sent := true, entries := es } := by
  refine ⟨stateEntries s, ?_⟩
  unfold sendState
  dsimp only
  rw [twin_bumpBy]
  rfl

theorem resync_startPass (s : State) (r : Resync) (segs : List Nat) : (startPass s r segs).twin.resync = some { r with pass := r.pass + 1, marked := [] } :=
  ((sent_sendCtrl _ _ _ _ _ _).trans (Sent.foldl (fun t _ => sent_sendFrame t _ _ _) segs _)).resync

theorem passDone_clause (s : State) :
    (s.twin.resync = none → exec .resyncPassDone s = .next (settle s))
      ∧ (∀ r, s.twin.resync = some r →
        ((r.source = false ∨ r.sent = true ∨ passSent s = false) → exec .resyncPassDone s = .next (settle s))
        ∧ (r.source = true → r.sent = false → passSent s = true →
          let segs := r.marked.filter fun x => (coveredRegions s).contains (x / 2 ^ 40)
          ∃ u, exec .resyncPassDone s = .next (settle u)
            ∧ (r.final = true → ∃ q, u.twin.resync = some q ∧ q.sent = true ∧ q.pass = r.pass)
            ∧ (r.final = false → u.twin.resync = some { r with pass := r.pass + 1, marked := [], final := decide (segs.length ≤ 4096) }))) := by
  have hexec : exec .resyncPassDone s = .next (settle (passDone s)) := rfl
  refine ⟨fun h => by rw [hexec, passDone_none h], fun r h => ⟨fun hoff => by rw [hexec, passDone_off h hoff], fun hsource hsent hpass => ⟨_, hexec, ?_⟩⟩⟩
  rw [passDone_on h hsource hsent hpass]
  refine ⟨fun hfinal => ?_, fun hfinal => ?_⟩
  · rw [if_pos hfinal]
    obtain ⟨es, hes⟩ := resync_sendState (sendCtrl s 2 (r.pass % 256) 0 (r.marked.filter fun x => (coveredRegions s).contains (x / 2 ^ 40)).length []) r
    exact ⟨_, hes, rfl, rfl⟩
  · rw [if_neg (by simp [hfinal])]
    exact resync_startPass ..

/-! ## The declaration (R388, R389) -/

/-- The module alone, with what waited for its twin released. -/
def declaredAlone (s : State) : State := lossReleases (setPairMode { s with twin := { s.twin with joined := false, faultSeen := false } } .solo)

/-- The requests that are shadows. -/
def shadowKeys (s : State) : List Nat := (s.front.reqs.filter fun p => p.2.any fun (r : Req) => r.shadow).map (·.1)

/-- The counts and the stamp of a declaration. -/
def takeoverCounted (s s1 : State) : State :=
  setBits (bumpBy (setReg64 s1 Reg.TWIN_TAKEOVER_TIME (now s)) Reg.TWIN_CNT_TAKEOVER 1) Reg.TWIN_INT_STATUS 1

/-- Whether the module is its pair's standby by TWIN_MODE. -/
def standbyHere (s : State) : Bool := if s.twin.role then decide (bits (reg s Reg.TWIN_MODE) 1 0 = 1) else decide (bits (reg s Reg.TWIN_MODE) 1 0 = 2)

/-- The declaration's register effects on the module `s1` alone. -/
def takeoverRegs (s s1 : State) : State :=
  let s2 := takeoverCounted s s1
  if standbyHere s ∧ isSealed s2 ∧ s2.twin.declared = [] then putBit s2 Reg.ADMIT_CTRL 0 true else s2

/-- The words that a declaration writes. -/
def takeoverWords : List Nat :=
  [Reg.TWIN_TAKEOVER_TIME, Reg.TWIN_TAKEOVER_TIME + 4, Reg.TWIN_CNT_TAKEOVER, Reg.TWIN_INT_STATUS, Reg.ADMIT_CTRL]

theorem aside_declaredAlone (s : State) :
    aside (declaredAlone s) = aside (setPairMode { s with twin := { s.twin with joined := false, faultSeen := false } } .solo) := aside_lossReleases _

theorem now_declaredAlone (s : State) : now (declaredAlone s) = now s := by
  rw [now, time_of_aside (aside_declaredAlone s)]
  rfl

theorem shadowKeys_of {f : Nat × Option Req → Bool} (hf : ∀ p, f p = p.2.any fun (r : Req) => r.shadow) : (s.front.reqs.filter f).map (·.1) = shadowKeys s :=
  congrArg (List.map _) (List.filter_congr fun p _ => hf p)

theorem takeover_eq (s : State) : takeover s = freeEnded ((shadowKeys s).foldl adopt (ownShadows (takeoverRegs s (declaredAlone s)))) := by
  unfold takeover
  dsimp only
  refine congrArg freeEnded (Eq.trans (congrArg (List.foldl adopt _) (shadowKeys_of fun p => ?_))
    (congrArg (fun v => List.foldl adopt (ownShadows v) (shadowKeys s)) ?_))
  · cases p.2 <;> rfl
  · unfold takeoverRegs takeoverCounted
    rw [← now_declaredAlone s]
    rfl

/-- The count and the bit that follow the stamp of a declaration leave it. -/
theorem takeoverTail_kept (s : State) :
    RegsKept s (setBits (bumpBy s Reg.TWIN_CNT_TAKEOVER 1) Reg.TWIN_INT_STATUS 1) [Reg.TWIN_CNT_TAKEOVER, Reg.TWIN_INT_STATUS] :=
  (((Tallied.refl _ s).bumpBy 1).setBits 1).kept

theorem takeoverCounted_tallied (s s1 : State) : Tallied takeoverWords s1 (takeoverCounted s s1) :=
  ((((Tallied.refl _ s1).setReg64 _ (by simp [takeoverWords]) (by simp [takeoverWords])).bumpBy 1 (by simp [takeoverWords]))).setBits _ (by simp [takeoverWords])

theorem takeoverRegs_tallied (s s1 : State) : Tallied takeoverWords s1 (takeoverRegs s s1) :=
  ((takeoverCounted_tallied s s1).putBit 0 true (by simp [takeoverWords])).ite (takeoverCounted_tallied s s1)

/-- Opening admission changes no other word. -/
theorem reg_takeoverRegs (s s1 : State) {a : Nat} (h : a ≠ Reg.ADMIT_CTRL) : reg (takeoverRegs s s1) a = reg (takeoverCounted s s1) a := by
  unfold takeoverRegs
  dsimp only
  split
  · exact reg_setBits_ne _ _ h
  · rfl

theorem admitOpen_takeoverRegs {s1 : State} (hsealed : isSealed s1 = true) (hfree : s1.twin.declared = [])
    (hmode : bits (reg s Reg.TWIN_MODE) 1 0 = if s.twin.role = true then 1 else 2) : admitOpen (takeoverRegs s s1) = true := by
  have hstandby : standbyHere s = true := by
    unfold standbyHere
    rw [hmode]
    cases s.twin.role <;> rfl
  have hframe := (takeoverCounted_tallied s s1).frame
  have hcounted : isSealed (takeoverCounted s s1) = true ∧ (takeoverCounted s s1).twin.declared = [] := by
    rw [hframe]
    exact ⟨hsealed, hfree⟩
  have hopen : takeoverRegs s s1 = putBit (takeoverCounted s s1) Reg.ADMIT_CTRL 0 true := if_pos ⟨hstandby, hcounted⟩
  rw [hopen]
  exact regBit_setBits _ _ (by decide) (by decide)

theorem takeover_clause (s : State) : (declareDue s = true ↔ s.twin.joined = true ∧ s.time.ck = 0 ∧ s.time.beat % max (measureN s) 1 = 0
          ∧ (3 ≤ s.twin.missed ∨ s.twin.faultSeen = true))
      ∧ (declareDue s = false → exec .twinFailDeclare s = .next (settle s))
      ∧ (declareDue s = true →
        let s1 := lossReleases (setPairMode { s with twin := { s.twin with joined := false, faultSeen := false } } .solo)
        let keys := (s.front.reqs.filter fun p => p.2.any fun (r : Req) => r.shadow).map (·.1)
        ∃ v, v = { s1 with regs := v.regs, evt := v.evt } ∧ reg64 v Reg.TWIN_TAKEOVER_TIME = now s % 2 ^ 64
          ∧ regBit v Reg.TWIN_INT_STATUS 0 = true ∧ s1.twin.mode = .solo ∧ s1.twin.joined = false
          ∧ reg v Reg.TWIN_CNT_TAKEOVER = min (reg s1 Reg.TWIN_CNT_TAKEOVER + 1) 0xFFFFFFFF
          ∧ (isSealed s1 = true → s1.twin.declared = [] → bits (reg s Reg.TWIN_MODE) 1 0 = (if s.twin.role = true then 1 else 2) →
              admitOpen v = true)
          ∧ RegsKept s1 v [Reg.TWIN_TAKEOVER_TIME, Reg.TWIN_TAKEOVER_TIME + 4, Reg.TWIN_CNT_TAKEOVER, Reg.TWIN_INT_STATUS, Reg.ADMIT_CTRL]
          ∧ exec .twinFailDeclare s = .next (settle (freeEnded (keys.foldl adopt (ownShadows v))))) := by
  have hexec : exec .twinFailDeclare s = .next (settle (if declareDue s then takeover s else s)) := rfl
  refine ⟨declareDue_iff s, fun h => by rw [hexec, if_neg (by simp [h])], fun h => ⟨takeoverRegs s (declaredAlone s), ?_⟩⟩
  have haside := aside_declaredAlone s
  have htallied := takeoverRegs_tallied s (declaredAlone s)
  have hmode : (declaredAlone s).twin.mode = .solo := (mode_of_aside haside).trans rfl
  have hjoined : (declaredAlone s).twin.joined = false := (kept_of_aside TwinSt.joined (fun _ _ _ => rfl) haside).trans rfl
  refine ⟨htallied.frame, ?_, ?_, hmode, hjoined, ?_, fun hsealed hfree htwin => ?_, htallied.kept, ?_⟩
  · rw [reg64, reg_takeoverRegs _ _ (by decide), reg_takeoverRegs _ _ (by decide)]
    exact (reg64_of_regsKept (takeoverTail_kept _) (by decide) (by decide)).trans (reg64_setReg64_mod _ _ _)
  · rw [regBit, reg_takeoverRegs _ _ (by decide)]
    exact regBit_setBits _ _ (by decide) (by decide)
  · rw [reg_takeoverRegs _ _ (by decide), takeoverCounted, reg_setBits_ne _ _ (by decide), reg_bumpBy_self, setReg64, reg_setReg_ne _ _ (by decide),
      reg_setReg_ne _ _ (by decide)]
    rfl
  · exact admitOpen_takeoverRegs hsealed hfree htwin
  · rw [hexec, if_pos h, takeover_eq]
    rfl

/-! ## The shadows (R389) -/

theorem adopt_none {k : Nat} (h : reqOf s k = none) : adopt s k = s := by simp only [adopt, h]

theorem adopt_clause (s : State) (k : Nat) (r : Req) (h : reqOf s k = some r) :
    (r.ended = true → adopt s k = s)
      ∧ (r.ended = false → r.resulted = false → adopt s k = completionInstant s k)
      ∧ (∀ p e, r.ended = false → r.resulted = true → r.packed = true → r.pack = some p → r.ast = some e →
          (p.dest = 3 → adopt s k = enterPrefill (sendPrompt s r) e r.prompt)
          ∧ (p.dest ≠ 3 → adopt s k = replaySeq s e r.prompt)) := by
  refine ⟨fun hended => ?_, fun hended hresult => ?_, fun p e hended hresult hpacked hpack hast => ⟨fun hdest => ?_, fun hdest => ?_⟩⟩
  · simp [adopt, h, hended]
  · simp [adopt, h, hended, hresult]
  · simp [adopt, h, hended, hresult, hpacked, hpack, hast, hdest]
  · simp [adopt, h, hended, hresult, hpacked, hpack, hast, hdest]

/-- A table whose every entry is replaced reads the replaced entry. -/
theorem tget_map {α : Type} (g : Option α → Option α) (l : Tab (Option α)) {k : Nat} {x : α} (h : tget (fun _ => none) l k = some x) :
    tget (fun _ => none) (l.map fun p => (p.1, g p.2)) k = g (some x) := by
  induction l with
  | nil => cases h
  | cons p l ih =>
    obtain ⟨j, v⟩ := p
    by_cases hj : j = k
    · rw [tget, if_pos hj] at h
      rw [List.map_cons, tget, if_pos hj, h]
    · rw [tget, if_neg hj] at h
      rw [List.map_cons, tget, if_neg hj]
      exact ih h

theorem ownShadows_clause (s : State) (k : Nat) (r : Req) (h : tget (fun _ => none) s.front.reqs k = some r) :
    tget (fun _ => none) (ownShadows s).front.reqs k = some (if r.shadow = true then { r with shadow := false, adopted := true } else r) :=
  tget_map (Option.map fun (r : Req) => if r.shadow then { r with shadow := false, adopted := true } else r) s.front.reqs h

end

end Sys2Proof.Laws

namespace Sys2Proof.Proofs

open Sys2Proof.Machine Sys2Proof.Laws

theorem faults_clause (s : State) (c : Instr) (cause : Nat) (hc : (c, cause) ∈ [(Instr.watchdogFire, 2), (.handover, 4)])
    (hreach : c = .handover → hostReaches s Reg.TWIN_CTRL = true)
    (hdue : c = .watchdogFire → hasCount s = true ∧ s.twin.fedAt + 2 * measureN s ≤ s.time.rawBeats) :
    exec c s = .next (settle (declareFault s cause)) ∧ (cause = 2 ∨ cause = 4) := by
  simp only [List.mem_cons, Prod.mk.injEq, List.not_mem_nil, or_false] at hc
  rcases hc with ⟨rfl, rfl⟩ | ⟨rfl, rfl⟩
  · refine ⟨?_, .inl rfl⟩
    change done (if watchdogDue s then declareFault s 2 else s) = _
    rw [if_pos ((watchdogDue_iff s).2 (hdue rfl))]
    rfl
  · exact ⟨host_running (fun s => declareFault s 4) (hreach rfl), .inr rfl⟩

/-- Settles O56: each event by its own lemma; what a release of held commands, a refusal or a frame sent leaves as it is comes of `aside`. -/
theorem pairEventsRun : Obligations.PairEventsRun := by
  unfold Obligations.PairEventsRun
  refine ⟨firicRto_clause, linkDown_clause, linkUp_clause, fun s c cause hc hreach hdue => ?_, fun s h => ?_, rejoin_clause, passDone_clause,
    takeover_clause, adopt_clause, fun s k h => adopt_none h, ownShadows_clause⟩
  · obtain ⟨hexec, hcause⟩ := faults_clause s c cause hc hreach hdue
    exact ⟨fun h => by rw [hexec, declareFault_again h], fun h => ⟨_, hexec, declareFault_clause hcause h⟩⟩
  · have hnot : ¬watchdogDue s = true := fun hdue => by
      obtain ⟨hcount, hfed⟩ := (watchdogDue_iff s).1 hdue
      rcases h with h | h
      · rw [h] at hcount
        cases hcount
      · omega
    change done (if watchdogDue s then declareFault s 2 else s) = _
    rw [if_neg hnot]
    rfl

end Sys2Proof.Proofs
end

section
/-!
SUPPORT. Frames that arrive over the Firic link (spec/18_twin.md, R380 to R382, R385, R394): what is read from the words, bad frames, acknowledgements,
and the effect of each type.
-/
namespace Sys2Proof.Laws

open Sys2Proof.Machine

section
variable {s t u : State} {f : FiricRx} {ty : Nat} {act : State → List Byte → State}

/-! ## Uncorrectable words (R380, R455) -/

/-- The words that uncorrectable words of a frame change. -/
def firicUeWords : List Nat := logWords ++ [Reg.ERR_CNT_UE, Reg.ERR_STATUS]

theorem firicUe_noted (s : State) (y : Nat) : Noted firicUeWords s (firicUe s y) := by
  have hlog : Noted firicUeWords s (logErr s { code := 0x0046, cls := 1, syndrome := y }) := (noted_logErr s _).mono (List.subset_append_left ..)
  exact hlog.trans (((Tallied.refl firicUeWords _).bump (by decide)).setBits 2 (by decide) |>.setBits 4 (by decide)).noted

theorem firicUe_counts (s : State) (y : Nat) : reg (firicUe s y) Reg.ERR_CNT_UE = min (reg s Reg.ERR_CNT_UE + 1) 0xFFFFFFFF
    ∧ regBit (firicUe s y) Reg.ERR_STATUS 1 = true ∧ regBit (firicUe s y) Reg.ERR_INT_STATUS 2 = true := by
  have hlog : reg (logErr s { code := 0x0046, cls := 1, syndrome := y }) Reg.ERR_CNT_UE = reg s Reg.ERR_CNT_UE :=
    (noted_logErr s _).kept _ (by decide) (by decide)
  refine ⟨?_, ?_, regBit_setBits _ _ (by decide) (by decide)⟩
  · rw [firicUe, reg_setBits_ne _ _ (by decide), reg_setBits_ne _ _ (by decide), reg_bump_self, hlog]
  · rw [firicUe, regBit, reg_setBits_ne _ _ (by decide)]
    exact regBit_setBits _ _ (by decide) (by decide)

theorem firicUes_noted (l : List Nat) (s : State) : Noted firicUeWords s (l.foldl firicUe s) :=
  List.foldlRecOn l firicUe (Tallied.refl _ s).noted fun _ ht y _ => ht.trans (firicUe_noted _ y)

theorem firicUes_count (l : List Nat) (s : State) : reg (l.foldl firicUe s) Reg.ERR_CNT_UE = min (reg s Reg.ERR_CNT_UE + l.length) 0xFFFFFFFF := by
  induction l generalizing s with
  | nil => exact (min_reg s _).symm
  | cons y l ih =>
    rw [List.foldl_cons, ih, (firicUe_counts s y).1, List.length_cons]
    omega

theorem firicUes_bits {l : List Nat} (h : l ≠ []) (s : State) :
    regBit (l.foldl firicUe s) Reg.ERR_STATUS 1 = true ∧ regBit (l.foldl firicUe s) Reg.ERR_INT_STATUS 2 = true := by
  obtain ⟨l, y, rfl⟩ := List.eq_nil_or_concat l |>.resolve_left h
  rw [List.concat_eq_append, List.foldl_append]
  exact (firicUe_counts (l.foldl firicUe s) y).2

/-! ## Bad frames (R380, R416) -/

/-- The words of a frame counted, corrected and uncorrectable. -/
def wordsCounted (s : State) (f : FiricRx) : State := f.ues.foldl firicUe (bumpBy s Reg.TWIN_CNT_CORR f.corrected)

theorem wordsCounted_intact (h : f.intact = true) (s : State) : wordsCounted s f = bumpBy s Reg.TWIN_CNT_CORR f.corrected := by
  simp only [FiricRx.intact, Bool.and_eq_true, decide_eq_true_eq] at h
  obtain ⟨-, hues⟩ := h
  rw [wordsCounted, hues]
  rfl

theorem openPayload_congr (hsec : t.sec = s.sec) (htwin : t.twin = s.twin) (f : FiricRx) : openPayload t f = openPayload s f := by
  unfold openPayload linkKey vcOf
  rw [hsec, htwin]

theorem wordsCounted_noted (s : State) (f : FiricRx) : Noted (Reg.TWIN_CNT_CORR :: firicUeWords) s (wordsCounted s f) :=
  ((Tallied.refl _ s).bumpBy f.corrected).noted.trans ((firicUes_noted f.ues _).mono (List.subset_cons_self ..))

theorem openPayload_wordsCounted (s : State) (f : FiricRx) : openPayload (wordsCounted s f) f = openPayload s f :=
  openPayload_congr (congrArg (·.sec) (wordsCounted_noted s f).frame) (congrArg (·.twin) (wordsCounted_noted s f).frame) f

theorem receiveFiric_down (h : s.twin.linkUp = false) : receiveFiric s f ty act = s := by simp [receiveFiric, h]

theorem receiveFiric_eq (hup : s.twin.linkUp = true) (hmine : f.intact = false ∨ f.type = ty) : receiveFiric s f ty act =
    if f.intact = false ∨ f.vc ≠ typeVc ty then badFrame (wordsCounted s f)
    else if ty = 0x3F then takeHeader (wordsCounted s f) f
    else
      match openPayload s f with
      | none => badFrame (wordsCounted s f)
      | some p =>
        let s1 := takeHeader (wordsCounted s f) f
        let c := vcOf s1 f.vc
        let s2 := setVc s1 f.vc { c with freed := c.freed + flits f.payload.length }
        if f.seq ≠ (c.accepted + 1) % 2 ^ 32 then sendIdle s2
        else act (setVc s2 f.vc { vcOf s2 f.vc with
          rxWraps := if f.seq = 0xFFFFFFFF then c.rxWraps + 1 else c.rxWraps
          accepted := f.seq }) p := by
  have htaken : ¬((!s.twin.linkUp) = true ∨ (f.intact = true ∧ f.type ≠ ty)) := by
    rintro (h | ⟨hintact, htype⟩)
    · simp [hup] at h
    · rcases hmine with h | h
      · simp [h] at hintact
      · exact htype h
  have hopen := openPayload_wordsCounted s f
  unfold wordsCounted at *
  unfold receiveFiric
  rw [if_neg htaken]
  simp only [hopen, Bool.not_eq_true'] <;> rfl

theorem receiveFiric_bad (hup : s.twin.linkUp = true)
    (h : f.intact = false ∨ (f.type = ty ∧ (f.vc ≠ typeVc ty ∨ (ty ≠ 0x3F ∧ openPayload s f = none)))) :
    receiveFiric s f ty act = badFrame (wordsCounted s f) := by
  rw [receiveFiric_eq hup (h.imp id And.left)]
  by_cases hbad : f.intact = false ∨ f.vc ≠ typeVc ty
  · rw [if_pos hbad]
  · obtain ⟨hintact, hvc⟩ := not_or.mp hbad
    obtain ⟨-, htag⟩ := h.resolve_left hintact
    obtain ⟨hcoded, hnone⟩ := htag.resolve_left hvc
    rw [if_neg hbad, if_neg hcoded, hnone]

theorem badFrame_clause (s : State) (f : FiricRx) :
    let u := badFrame (wordsCounted s f)
    u = { s with regs := u.regs, evt := u.evt, err := u.err }
      ∧ reg u Reg.TWIN_CNT_CORR = min (reg s Reg.TWIN_CNT_CORR + f.corrected) 0xFFFFFFFF
      ∧ reg u Reg.TWIN_CNT_BAD_FRAME = min (reg s Reg.TWIN_CNT_BAD_FRAME + 1) 0xFFFFFFFF
      ∧ (f.ues = [] → u.err = s.err ∧ RegsKept s u [Reg.TWIN_CNT_CORR, Reg.TWIN_CNT_BAD_FRAME])
      ∧ (f.ues ≠ [] → reg u Reg.ERR_CNT_UE = min (reg s Reg.ERR_CNT_UE + f.ues.length) 0xFFFFFFFF
        ∧ regBit u Reg.ERR_STATUS 1 = true ∧ regBit u Reg.ERR_INT_STATUS 2 = true) := by
  have hcount := wordsCounted_noted s f
  have hues := firicUes_noted f.ues (bumpBy s Reg.TWIN_CNT_CORR f.corrected)
  have hbad : Tallied [Reg.TWIN_CNT_BAD_FRAME] (wordsCounted s f) (badFrame (wordsCounted s f)) := (Tallied.refl _ _).bump
  refine ⟨?_, ?_, ?_, fun hnone => ?_, fun hsome => ⟨?_, ?_, ?_⟩⟩
  · exact hbad.noted.frame.trans (by rw [hcount.frame])
  · rw [hbad.reg_eq (a := Reg.TWIN_CNT_CORR), wordsCounted, hues.kept _ (by decide) (by decide), reg_bumpBy_self]
  · rw [badFrame, reg_bump_self, hcount.kept _ (by decide) (by decide)]
  · have hcounted : Tallied [Reg.TWIN_CNT_CORR, Reg.TWIN_CNT_BAD_FRAME] s (badFrame (wordsCounted s f)) := by
      rw [wordsCounted, hnone]
      exact ((Tallied.refl _ s).bumpBy _).bump
    exact ⟨congrArg (·.err) hcounted.frame, hcounted.kept⟩
  · rw [hbad.reg_eq (a := Reg.ERR_CNT_UE), wordsCounted, firicUes_count, reg_bumpBy_ne _ _ (by decide) (by decide)]
  · rw [hbad.regBit_eq (a := Reg.ERR_STATUS), wordsCounted]
    exact (firicUes_bits hsome _).1
  · rw [hbad.regBit_eq (a := Reg.ERR_INT_STATUS), wordsCounted]
    exact (firicUes_bits hsome _).2

/-! ## The frame that the words hold -/

theorem frame_clause (x : FiricWords) :
    let b := (x.words.map eccRead).flatMap fun r => natLE 8 (readWord64 r)
    let n := le b 2 2
    x.frame.type = le b 0 1 ∧ x.frame.vc = bits (le b 1 1) 1 0 ∧ x.frame.seq = le b 4 4 ∧ x.frame.payload = slice b 32 n
      ∧ (x.frame.intact = true ↔ (∀ r ∈ x.words.map eccRead, ∀ y, r ≠ .bad y) ∧ x.words.length = 32 * flits n ∧ n ≤ 65500
          ∧ le b (32 + n) 4 = crc32c (b.take (32 + n))) := by
  intro b n
  have hues : x.frame.ues = [] ↔ ∀ r ∈ x.words.map eccRead, ∀ y, r ≠ .bad y := by
    refine List.filterMap_eq_nil_iff.trans (forall₂_congr fun r _ => ?_)
    cases r <;> simp
  have hgood : x.frame.good = (decide (x.words.length = 32 * flits n) && decide (n ≤ 65500)
      && decide (le b (32 + n) 4 = crc32c (b.take (32 + n)))) := rfl
  refine ⟨rfl, rfl, rfl, rfl, ?_⟩
  rw [FiricRx.intact, hgood]
  simp only [Bool.and_eq_true, decide_eq_true_eq, hues, and_assoc]
  tauto

/-! ## Acknowledgements (R382) -/

/-- The frames of a channel to send again that an acknowledgement does not cover. -/
def uncovered (c : Vc) (ack : Nat) : List Frame := (c.queue.take c.again).filter fun x => !covers ack x.seq

/-- The channel after an acknowledgement. -/
def acknowledgedVc (c : Vc) (ack at_ : Nat) : Vc :=
  if (c.out ++ c.queue.take c.again).any fun x => covers ack x.seq then { c with
    acked := ack
    out := c.out.filter fun x => !covers ack x.seq
    queue := uncovered c ack ++ c.queue.drop c.again
    again := (uncovered c ack).length
    timeouts := 0
    since := at_ }
  else c

theorem takeAckCred_eq (s : State) (v ack cred : Nat) : takeAckCred s v ack cred =
    pump (setVc s v { acknowledgedVc (vcOf s v) ack (now s) with cred := cred }) v ((acknowledgedVc (vcOf s v) ack (now s)).queue.length + 1) := rfl

/-- What an acknowledgement leaves waiting, and how much of it counts as it goes out again. -/
theorem acknowledgedVc_frames (c : Vc) (ack at_ : Nat) :
    (acknowledgedVc c ack at_).out = c.out.filter (fun x => !covers ack x.seq)
      ∧ (acknowledgedVc c ack at_).queue = uncovered c ack ++ c.queue.drop c.again
      ∧ ∀ k, k ≤ (acknowledgedVc c ack at_).queue.length → min k (acknowledgedVc c ack at_).again = min k (uncovered c ack).length := by
  unfold acknowledgedVc
  split
  · exact ⟨rfl, rfl, fun _ _ => rfl⟩
  · next h =>
    have hnone (x : Frame) (hx : x ∈ c.out ++ c.queue.take c.again) : covers ack x.seq = false := by
      simp only [List.any_eq_true, not_exists, not_and, Bool.not_eq_true] at h
      exact h x hx
    have hout : c.out.filter (fun x => !covers ack x.seq) = c.out :=
      List.filter_eq_self.mpr fun x hx => by rw [hnone x (List.mem_append_left _ hx)]; rfl
    have hwait : uncovered c ack = c.queue.take c.again :=
      List.filter_eq_self.mpr fun x hx => by rw [hnone x (List.mem_append_right _ hx)]; rfl
    rw [hout, hwait, List.take_append_drop]
    refine ⟨rfl, rfl, fun k hk => ?_⟩
    rw [List.length_take]
    omega

theorem acknowledgedVc_covered {c : Vc} {ack : Nat} (h : ∃ x ∈ c.out ++ c.queue.take c.again, covers ack x.seq = true) (at_ : Nat) :
    (acknowledgedVc c ack at_).acked = ack ∧ (acknowledgedVc c ack at_).timeouts = 0 := by
  rw [acknowledgedVc, if_pos (List.any_eq_true.mpr h)]
  exact ⟨rfl, rfl⟩

theorem acknowledgedVc_stale {c : Vc} {ack : Nat} (h : ∀ x ∈ c.out ++ c.queue.take c.again, covers ack x.seq = false) (at_ : Nat) :
    acknowledgedVc c ack at_ = c := by
  refine if_neg fun hany => ?_
  obtain ⟨x, hx, hcovers⟩ := List.any_eq_true.mp hany
  rw [h x hx] at hcovers
  cases hcovers

theorem takeAckCred_clause (s : State) (v ack cred : Nat) :
    let u := takeAckCred s v ack cred
    let c := vcOf s v
    let wait := (c.queue.take c.again).filter fun x => !covers ack x.seq
    let left := wait ++ c.queue.drop c.again
    u = { s with regs := u.regs, evt := u.evt, twin := { s.twin with vcs := u.twin.vcs }, emitted := u.emitted }
      ∧ RegsKept s u [Reg.TWIN_CNT_RETX] ∧ (vcOf u v).cred = cred ∧ (∀ w, w ≠ v → vcOf u w = vcOf s w)
      ∧ ((∃ x ∈ c.out ++ c.queue.take c.again, covers ack x.seq = true) → (vcOf u v).acked = ack ∧ (vcOf u v).timeouts = 0)
      ∧ ((∀ x ∈ c.out ++ c.queue.take c.again, covers ack x.seq = false) →
          (vcOf u v).acked = c.acked ∧ (vcOf u v).timeouts = c.timeouts)
      ∧ ∃ k, (vcOf u v).out = c.out.filter (fun x => !covers ack x.seq) ++ left.take k ∧ (vcOf u v).queue = left.drop k
        ∧ reg u Reg.TWIN_CNT_RETX = min (reg s Reg.TWIN_CNT_RETX + min k wait.length) 0xFFFFFFFF
        ∧ (0 < k → left ≠ [] → ((vcOf u v).sent + 65536 - cred % 65536) % 65536 ≤ vcBuffer v) := by
  intro u c wait left
  obtain ⟨hout, hqueue, hagain⟩ := acknowledgedVc_frames c ack (now s)
  obtain ⟨k, hpump⟩ := pump_pumped (setVc s v { acknowledgedVc c ack (now s) with cred := cred }) v ((acknowledgedVc c ack (now s)).queue.length + 1)
  rw [← takeAckCred_eq] at hpump
  have hsent := (sent_setVc s v { acknowledgedVc c ack (now s) with cred := cred }).trans hpump.sent
  obtain ⟨-, -, hothers, hbounded, hchan, hcounted, -, hcredit⟩ := hpump
  rw [vcOf_setVc_self] at hbounded hchan hcounted hcredit
  change Sent s u at hsent
  change vcOf u v = _ at hchan
  refine ⟨hsent.frame, hsent.kept, congrArg Vc.cred hchan, fun w hw => (hothers w hw).trans (vcOf_setVc_ne _ hw), fun h => ?_, fun h => ?_, k, ?_, ?_, ?_,
    fun hpos _ => hcredit hpos⟩
  · obtain ⟨hacked, htimeouts⟩ := acknowledgedVc_covered h (now s)
    exact ⟨(congrArg Vc.acked hchan).trans hacked, (congrArg Vc.timeouts hchan).trans htimeouts⟩
  · have hstale := acknowledgedVc_stale h (now s)
    have hacked : (acknowledgedVc c ack (now s)).acked = c.acked := congrArg Vc.acked hstale
    have htimeouts : (acknowledgedVc c ack (now s)).timeouts = c.timeouts := congrArg Vc.timeouts hstale
    exact ⟨(congrArg Vc.acked hchan).trans hacked, (congrArg Vc.timeouts hchan).trans htimeouts⟩
  · refine (congrArg Vc.out hchan).trans ?_
    rw [hout, hqueue]
    rfl
  · refine (congrArg Vc.queue hchan).trans ?_
    rw [hqueue]
    rfl
  · refine hcounted.trans ?_
    rw [hagain k hbounded]
    rfl

/-! ## Heartbeats (R385, R393) -/

theorem checkSplit_off (h : s.twin.mode ≠ .solo ∨ s.twin.peerState ≠ 5 ∨ s.twin.role = false) : checkSplit s = s := by
  refine if_neg ?_
  rintro ⟨hmode, hpeer, hrole⟩
  rcases h with h | h | h
  · exact h hmode
  · exact h hpeer
  · rw [h] at hrole
    cases hrole

theorem checkSplit_on (hmode : s.twin.mode = .solo) (hpeer : s.twin.peerState = 5) (hrole : s.twin.role = true) :
    checkSplit s = admitCtrl (setPairMode s .draining) false := if_pos ⟨hmode, hpeer, hrole⟩

/-- The twin's record of a heartbeat. -/
def heartbeatTwin (t : TwinSt) (p : List Byte) : TwinSt :=
  { t with hbCounted := true, peerDegraded := decide (bits (le p 8 1) 2 0 ≠ 1), peerState := bits (le p 10 1) 2 0,
           peerMode := bits (le p 11 1) 1 0, peerDigest := le p 16 8 }

/-- The module with a heartbeat recorded, and a skew counted. -/
def heartbeatSeen (s : State) (p : List Byte) : State :=
  if s.time.mode = .locked ∧ bits (le p 8 1) 2 0 = 1 ∧ le p 0 8 ≠ lastBoundary s then
    setBits (bump (setTwin s (heartbeatTwin s.twin p)) Reg.TWIN_CNT_SKEW) Reg.TWIN_INT_STATUS 0x20
  else setTwin s (heartbeatTwin s.twin p)

theorem takeHeartbeat_eq (s : State) (p : List Byte) : takeHeartbeat s p = checkSplit (heartbeatSeen s p) := rfl

theorem heartbeatSeen_tallied (s : State) (p : List Byte) :
    Tallied [Reg.TWIN_CNT_SKEW, Reg.TWIN_INT_STATUS] (setTwin s (heartbeatTwin s.twin p)) (heartbeatSeen s p) :=
  ((Tallied.refl _ _).bump.setBits _).ite (Tallied.refl _ _)

theorem takeHeartbeat_clause (t : State) (p : List Byte) :
    let u := takeHeartbeat t p
    let w := { t.twin with hbCounted := true, peerDegraded := decide (bits (le p 8 1) 2 0 ≠ 1), peerState := bits (le p 10 1) 2 0,
                           peerMode := bits (le p 11 1) 1 0, peerDigest := le p 16 8 }
    ((t.twin.mode ≠ .solo ∨ bits (le p 10 1) 2 0 ≠ 5 ∨ t.twin.role = false) →
      u = { t with regs := u.regs, evt := u.evt, twin := w }
        ∧ RegsKept t u [Reg.TWIN_CNT_SKEW, Reg.TWIN_INT_STATUS]
        ∧ (t.time.mode = .locked → bits (le p 8 1) 2 0 = 1 → le p 0 8 ≠ lastBoundary t →
            reg u Reg.TWIN_CNT_SKEW = min (reg t Reg.TWIN_CNT_SKEW + 1) 0xFFFFFFFF ∧ regBit u Reg.TWIN_INT_STATUS 5 = true)
        ∧ ((t.time.mode ≠ .locked ∨ bits (le p 8 1) 2 0 ≠ 1 ∨ le p 0 8 = lastBoundary t) → u.regs = t.regs))
    ∧ (t.twin.mode = .solo → bits (le p 10 1) 2 0 = 5 → t.twin.role = true →
      u.twin.mode = .draining ∧ regBit u Reg.ADMIT_CTRL 0 = false) := by
  have hseen := heartbeatSeen_tallied t p
  have htwin : (heartbeatSeen t p).twin = heartbeatTwin t.twin p := congrArg (·.twin) hseen.frame
  refine ⟨fun halone => ?_, fun hmode hpeer hrole => ?_⟩
  · have hkept : takeHeartbeat t p = heartbeatSeen t p := by
      rw [takeHeartbeat_eq]
      refine checkSplit_off ?_
      rw [htwin]
      exact halone
    rw [hkept]
    refine ⟨hseen.frame, hseen.kept, fun hlocked hpeer hskew => ?_, fun hnone => ?_⟩
    · rw [heartbeatSeen, if_pos ⟨hlocked, hpeer, hskew⟩]
      refine ⟨?_, regBit_setBits _ _ (by decide) (by decide)⟩
      rw [reg_setBits_ne _ _ (by decide), reg_bump_self]
      rfl
    · rw [heartbeatSeen, if_neg]
      · rfl
      · rintro ⟨hlocked, hpeer, hskew⟩
        exact hnone.elim (· hlocked) (·.elim (· hpeer) hskew)
  · have hsplit : takeHeartbeat t p = admitCtrl (setPairMode (heartbeatSeen t p) .draining) false := by
      rw [takeHeartbeat_eq]
      refine checkSplit_on ?_ ?_ ?_ <;> rw [htwin]
      · exact hmode
      · exact hpeer
      · exact hrole
    rw [hsplit]
    exact ⟨(mode_of_aside (aside_admitCtrl _ _)).trans rfl, regBit_admitCtrl_closed _⟩

/-! ## Copied segments (R394) -/

theorem resyncData_clause (t : State) (p : List Byte) :
    (t.twin.mode ≠ .paired → ∀ r, t.twin.resync = some r → r.source = false →
      let u := resyncData t p
      ldRead u (le p 0 2) (le p 8 8) (p.length - 16) = p.drop 16
        ∧ u.twin = { t.twin with resync := some { r with left := r.left - 1 } }
        ∧ (∀ x, x < ldKey (le p 0 2) (le p 8 8) ∨ ldKey (le p 0 2) (le p 8 8) + (p.length - 16) ≤ x →
            memByte u.lpddr x = memByte t.lpddr x))
    ∧ (t.twin.mode ≠ .paired → ∀ r, t.twin.resync = some r → r.source = true → resyncData t p = t) := by
  have hlen : p.length - 16 = (p.drop 16).length := List.length_drop.symm
  refine ⟨fun hmode r hresync hsource => ?_, fun hmode r hresync hsource => ?_⟩
  · have hdata : resyncData t p = ldWrite (setResync t { r with left := r.left - 1 }) (le p 0 2) (le p 8 8) (p.drop 16) := by
      simp [resyncData, hmode, hresync, hsource]
    rw [hdata, hlen]
    refine ⟨ldRead_written rfl, ?_, fun x hx => ?_⟩
    · simp [ldWrite, markSegments, setResync, setTwin, hsource]
    · exact memByte_outside rfl hx
  · simp [resyncData, hmode, hresync, hsource]

/-! ## Frames accepted in order (R381, R382) -/

theorem receiveCtrl_down {op : Nat} {act : State → Resync → List Byte → State} (h : s.twin.linkUp = false) : receiveCtrl s f op act = s := by
  unfold receiveCtrl
  split
  · rfl
  · exact receiveFiric_down h

/-- A RESYNC_CTRL frame that names its operation. -/
theorem receiveCtrl_eq {op : Nat} {p : List Byte} {act : State → Resync → List Byte → State} (hopen : openPayload s f = some p) (hop : le p 0 1 = op) :
    receiveCtrl s f op act = receiveFiric s f 0x21 fun s p =>
      match s.twin.resync with
      | some r => act s r p
      | none => s := by
  have hmine : ¬(f.intact && (openPayload s f).any fun p => decide (le p 0 1 ≠ op)) = true := by simp [hopen, hop]
  rw [receiveCtrl, if_neg hmine] <;> rfl

/-- The state once frame `f` has been accepted in order, `s1` being the state with its header taken. -/
def accepted (s1 : State) (f : FiricRx) : State :=
  let c := vcOf s1 f.vc
  let s2 := setVc s1 f.vc { c with freed := c.freed + flits f.payload.length }
  setVc s2 f.vc { vcOf s2 f.vc with
    rxWraps := if f.seq = 0xFFFFFFFF then c.rxWraps + 1 else c.rxWraps
    accepted := f.seq }

theorem accepted_frame (s1 : State) (f : FiricRx) :
    accepted s1 f = { s1 with twin := { s1.twin with vcs := (accepted s1 f).twin.vcs } } := rfl

theorem accepted_vc (s1 : State) (f : FiricRx) : vcOf (accepted s1 f) f.vc =
    { vcOf s1 f.vc with freed := (vcOf s1 f.vc).freed + flits f.payload.length, accepted := f.seq,
                        rxWraps := if f.seq = 0xFFFFFFFF then (vcOf s1 f.vc).rxWraps + 1 else (vcOf s1 f.vc).rxWraps } := by
  rw [accepted, vcOf_setVc_self, vcOf_setVc_self]

theorem accepted_ne (s1 : State) (f : FiricRx) {v : Nat} (h : v ≠ f.vc) : vcOf (accepted s1 f) v = vcOf s1 v :=
  (vcOf_setVc_ne _ h).trans (vcOf_setVc_ne _ h)

section
variable (hup : s.twin.linkUp = true) (hintact : f.intact = true) (hvc : f.vc = typeVc f.type)
include hup hintact hvc

theorem receiveFiric_idle (hty : f.type = 0x3F) : receiveFiric s f 0x3F act = takeHeader (bumpBy s Reg.TWIN_CNT_CORR f.corrected) f := by
  have hgood : ¬(f.intact = false ∨ f.vc ≠ typeVc 0x3F) := by simp [hintact, hvc, hty]
  rw [receiveFiric_eq hup (.inr hty), if_neg hgood, if_pos rfl, wordsCounted_intact hintact]

theorem receiveFiric_opened (hty : f.type = ty) (hcoded : ty ≠ 0x3F) {p : List Byte} (hopen : openPayload s f = some p) :
    receiveFiric s f ty act =
      let s1 := takeHeader (bumpBy s Reg.TWIN_CNT_CORR f.corrected) f
      let c := vcOf s1 f.vc
      if f.seq ≠ (c.accepted + 1) % 2 ^ 32 then sendIdle (setVc s1 f.vc { c with freed := c.freed + flits f.payload.length })
      else act (accepted s1 f) p := by
  have hgood : ¬(f.intact = false ∨ f.vc ≠ typeVc ty) := by simp [hintact, hvc, hty]
  rw [receiveFiric_eq hup (.inr hty), if_neg hgood, if_neg hcoded, wordsCounted_intact hintact, hopen] <;> rfl

theorem receiveFiric_inOrder (hty : f.type = ty) (hcoded : ty ≠ 0x3F) {p : List Byte} (hopen : openPayload s f = some p)
    (hseq : f.seq = ((vcOf (takeHeader (bumpBy s Reg.TWIN_CNT_CORR f.corrected) f) f.vc).accepted + 1) % 2 ^ 32) :
    receiveFiric s f ty act = act (accepted (takeHeader (bumpBy s Reg.TWIN_CNT_CORR f.corrected) f) f) p := by
  rw [receiveFiric_opened hup hintact hvc hty hcoded hopen]
  exact if_neg (not_not.mpr hseq)

end

end

end Sys2Proof.Laws

namespace Sys2Proof.Proofs

open Sys2Proof.Machine Sys2Proof.Laws

theorem twinFrame_down (s : State) (f : FiricWords) (m : TwinMsg) (c : Instr)
    (hc : c ∈ [Instr.firicHeartbeat f, .firicFault f, .firicMbox f m, .firicJournal f none,
        .resyncData f, .passStart f, .passEnd f, .stateBegin f, .stateEnd f, .stateAck f, .resyncAbort f, .firicIdle f])
    (hdown : s.twin.linkUp = false) : exec c s = .next (settle s) := by
  have hframe (ty : Nat) (act : State → List Byte → State) : done (receiveFiric s f.frame ty act) = .next (settle s) := by
    rw [receiveFiric_down hdown]
    rfl
  have hctrl (op : Nat) (act : State → Resync → List Byte → State) : done (receiveCtrl s f.frame op act) = .next (settle s) := by
    rw [receiveCtrl_down hdown]
    rfl
  have hjournal : firicJournal s f.frame none = s := by
    unfold firicJournal
    rw [if_neg (by simp [hdown])]
    exact receiveFiric_down hdown
  simp only [List.mem_cons, List.not_mem_nil, or_false] at hc
  rcases hc with rfl | rfl | rfl | rfl | rfl | rfl | rfl | rfl | rfl | rfl | rfl | rfl
  · exact hframe ..
  · exact hframe ..
  · exact hframe ..
  · exact congrArg done hjournal
  · exact hframe ..
  · exact hctrl ..
  · exact hctrl ..
  · exact hctrl ..
  · exact hctrl ..
  · exact hctrl ..
  · exact hctrl ..
  · exact hframe ..

/-- The JOURNAL frame without a verdict is a frame like the others. -/
theorem firicJournal_none (s : State) (f : FiricRx) : firicJournal s f none = receiveFiric s f 0x01 fun s p =>
    finishState (setTwin s { s.twin with stream := s.twin.stream ++ p }) := by
  unfold firicJournal takeVerdict
  rw [ite_self]

theorem twinFrame_bad (s : State) (x : FiricWords) (m : TwinMsg) (c : Instr) (ty : Nat)
    (hc : (c, ty) ∈ [(Instr.firicHeartbeat x, 0x10), (.firicFault x, 0x11),
        (.firicMbox x m, 0x12), (.firicJournal x none, 0x01), (.resyncData x, 0x20), (.firicIdle x, 0x3F)])
    (hup : s.twin.linkUp = true)
    (hbad : x.frame.intact = false ∨ (x.frame.type = ty ∧ (x.frame.vc ≠ typeVc ty ∨ (ty ≠ 0x3F ∧ openPayload s x.frame = none)))) :
    exec c s = .next (settle (badFrame (wordsCounted s x.frame))) := by
  have hframe (act : State → List Byte → State) : done (receiveFiric s x.frame ty act) = .next (settle (badFrame (wordsCounted s x.frame))) := by
    rw [receiveFiric_bad hup hbad]
    rfl
  simp only [List.mem_cons, Prod.mk.injEq, List.not_mem_nil, or_false] at hc
  rcases hc with ⟨rfl, rfl⟩ | ⟨rfl, rfl⟩ | ⟨rfl, rfl⟩ | ⟨rfl, rfl⟩ | ⟨rfl, rfl⟩ | ⟨rfl, rfl⟩
  · exact hframe _
  · exact hframe _
  · exact hframe _
  · exact (congrArg done (firicJournal_none s x.frame)).trans (hframe _)
  · exact hframe _
  · exact hframe _

theorem twinFrame_accepted (s : State) (x : FiricWords) (hup : s.twin.linkUp = true) (hintact : x.frame.intact = true)
    (hvc : x.frame.vc = typeVc x.frame.type) :
    let f := x.frame
    let s1 := takeHeader (bumpBy s Reg.TWIN_CNT_CORR f.corrected) f
    let c := vcOf s1 f.vc
    (f.type = 0x3F → exec (.firicIdle x) s = .next (settle s1))
    ∧ (f.type = 0x10 → (openPayload s f).isSome = true → f.seq ≠ (c.accepted + 1) % 2 ^ 32 →
        exec (.firicHeartbeat x) s
          = .next (settle (sendIdle (setVc s1 f.vc { c with freed := c.freed + flits f.payload.length }))))
    ∧ (∀ p, f.seq = (c.accepted + 1) % 2 ^ 32 → openPayload s f = some p →
      ∃ t, t = { s1 with twin := { s1.twin with vcs := t.twin.vcs } }
        ∧ vcOf t f.vc = { c with freed := c.freed + flits f.payload.length, accepted := f.seq,
                                 rxWraps := if f.seq = 0xFFFFFFFF then c.rxWraps + 1 else c.rxWraps }
        ∧ (∀ v, v ≠ f.vc → vcOf t v = vcOf s1 v)
        ∧ (f.type = 0x10 → exec (.firicHeartbeat x) s = .next (settle (takeHeartbeat t p)))
        ∧ (f.type = 0x11 → ∃ u, exec (.firicFault x) s = .next (settle u)
            ∧ u = { t with regs := u.regs, twin := { t.twin with faultSeen := true, lastCause := le p 0 1 } }
            ∧ regBit u Reg.TWIN_INT_STATUS 2 = true ∧ RegsKept t u [Reg.TWIN_INT_STATUS])
        ∧ (f.type = 0x12 → ∀ m, exec (.firicMbox x m) s = .next (settle (takeMbox m t p)))
        ∧ (f.type = 0x01 → exec (.firicJournal x none) s
            = .next (settle (finishState { t with twin := { t.twin with stream := t.twin.stream ++ p } })))
        ∧ (f.type = 0x20 → exec (.resyncData x) s = .next (settle (resyncData t p)))
        ∧ (f.type = 0x21 → ∀ r, t.twin.resync = some r →
          (le p 0 1 = 1 → r.source = false →
            exec (.passStart x) s = .next (settle (setResync t { r with pass := le p 1 1, left := le p 8 8 })))
          ∧ (le p 0 1 = 2 → r.source = false → exec (.passEnd x) s = .next (settle (setResync t { r with left := 0 })))
          ∧ (le p 0 1 = 3 → r.source = false →
            exec (.stateBegin x) s = .next (settle (setResync t { r with final := true, entries := [] })))
          ∧ (le p 0 1 = 4 → r.source = false →
            exec (.stateEnd x) s = .next (settle (finishState (setResync t { r with ending := some (le p 4 4, le p 8 8, slice p 16 16) }))))
          ∧ (le p 0 1 = 6 → r.source = true → r.sent = true → r.agreed = false →
            exec (.stateAck x) s = .next (settle (
              if slice p 16 16 = stateDigest r.entries then releaseHeld (setResync t { r with final := false, agreed := true })
              else endCopy (sendCtrl t 5 (r.pass % 256) 0 0 []))))
          ∧ (le p 0 1 = 5 → exec (.resyncAbort x) s = .next (settle (endCopy t))))) := by
  intro f s1 c
  refine ⟨fun hty => ?_, fun hty hopen hseq => ?_, fun p hseq hopen => ⟨accepted s1 f, accepted_frame s1 f, accepted_vc s1 f, fun v => accepted_ne s1 f, ?_⟩⟩
  · exact congrArg done (receiveFiric_idle hup hintact hvc hty)
  · obtain ⟨p, hopen⟩ := Option.isSome_iff_exists.mp hopen
    refine congrArg done ((receiveFiric_opened hup hintact hvc hty (by decide) hopen).trans ?_)
    exact if_pos hseq
  · have htaken {ty : Nat} (hty : f.type = ty) (hcoded : ty ≠ 0x3F) (act : State → List Byte → State) :
        done (receiveFiric s f ty act) = .next (settle (act (accepted s1 f) p)) :=
      congrArg done (receiveFiric_inOrder hup hintact hvc hty hcoded hopen hseq)
    generalize accepted s1 f = t at htaken ⊢
    refine ⟨fun hty => htaken hty (by decide) _, fun hty => ⟨_, htaken hty (by decide) _, rfl, regBit_setBits _ _ (by decide) (by decide), ?_⟩,
      fun hty m => htaken hty (by decide) _, fun hty => ?_, fun hty => htaken hty (by decide) _, fun hty r hresync => ?_⟩
    · exact fun a _ ha => reg_setBits_ne _ _ fun e => ha (e ▸ List.mem_singleton_self _)
    · exact (congrArg done (firicJournal_none s f)).trans (htaken hty (by decide) _)
    · have hctrl {op : Nat} (hop : le p 0 1 = op) {act : State → Resync → List Byte → State} {u : State} (hu : act t r p = u) :
          done (receiveCtrl s f op act) = .next (settle u) := by
        rw [receiveCtrl_eq hopen hop]
        refine (htaken hty (by decide) _).trans ?_
        simp only [hresync, hu]
      refine ⟨fun hop hdest => hctrl hop ?_, fun hop hdest => hctrl hop ?_, fun hop hdest => hctrl hop ?_, fun hop hdest => hctrl hop ?_,
        fun hop hsource hsent hfresh => hctrl hop ?_, fun hop => hctrl hop rfl⟩
      · exact if_neg (by simp [hdest])
      · exact if_neg (by simp [hdest])
      · exact if_neg (by simp [hdest])
      · exact if_neg (by simp [hdest])
      · exact if_neg (by simp [hsource, hsent, hfresh])

/-- Settles O55: what is read of the words, then the bad frames, the frames in order and the others, each by its own lemma. -/
theorem twinFramesAreAcceptedInOrder : Obligations.TwinFramesAreAcceptedInOrder := by
  unfold Obligations.TwinFramesAreAcceptedInOrder
  exact ⟨twinFrame_down, frame_clause, fun s x m c ty hc hup hbad => ⟨_, twinFrame_bad s x m c ty hc hup hbad, badFrame_clause s x.frame⟩,
    twinFrame_accepted, takeAckCred_clause, takeHeartbeat_clause, resyncData_clause⟩

end Sys2Proof.Proofs
end

section
/-!
SUPPORT. Peers and ports of the pod (spec/17_pod_ports.md, R353 to R372): timers, restarts, resets, links, shapers, gates and transmission.
-/
namespace Sys2Proof.Laws

open Sys2Proof.Machine

section
variable {s t u : State} {n i c : Nat}

/-! ## What an update of the pod ports leaves -/

@[simp] theorem portOf_setPort_self (s : State) (n : Nat) (x : Port) : portOf (setPort s n x) n = x := tget_tset_self ..

@[simp] theorem classOf_setClass_self (s : State) (n c : Nat) (x : Machine.Class) : classOf (setClass s n c x) n c = x := tget_tset_self ..

@[simp] theorem unitSt_setUnit_self (s : State) (cls i : Nat) (x : UnitSt) : unitSt (setUnit s cls i x) cls i = x := tget_tset_self ..

theorem portOf_congr (h : t.pod = s.pod) (n : Nat) : portOf t n = portOf s n := by rw [portOf, portOf, h]

theorem classOf_congr (h : t.pod = s.pod) (n c : Nat) : classOf t n c = classOf s n c := by rw [classOf, classOf, h]

theorem unitSt_congr (h : t.topo.units = s.topo.units) (cls i : Nat) : unitSt t cls i = unitSt s cls i := by rw [unitSt, unitSt, h]

theorem pod_bumpBy (s : State) (a k : Nat) : (bumpBy s a k).pod = s.pod := by
  obtain ⟨r, e, h⟩ := bumpBy_frame s a k
  rw [h]

/-- Registers, event counters and pod ports alone have changed, as the statements write it. -/
theorem podCounted_eq (h : Machine.PodCounted s t) : t = { s with regs := t.regs, evt := t.evt, pod := t.pod } := by
  obtain ⟨r, e, p, rfl⟩ := h
  rfl

/-- A frame to a peer leaves of it all but its count of frames to acknowledge. -/
theorem peerOf_putFrame (s : State) (n i : Nat) (f : PodFrame) : peerOf (putFrame s n i f) n i = { peerOf s n i with unacked := 0 } := tget_tset_self ..

theorem regsKept_setBits_self (s : State) (a m : Nat) : RegsKept s (setBits s a m) [a] :=
  fun _ _ hb => reg_setBits_ne _ _ fun e => hb (e ▸ List.mem_singleton_self _)

/-! ## Timers (R353, R354) -/

theorem ackDelay_clause (s : State) (n i : Nat) :
    let p := peerOf s n i
    (p.enabled = true → 0 < p.unacked →
      (16 ≤ p.unacked ∨ isDue s (addBeats p.ackSince (bits (reg s (Reg.POD_ACK_DELAY n)) 7 0)) = true) →
      ackDelay s n i = sendAck s n i ∧ (peerOf (sendAck s n i) n i).unacked = 0)
    ∧ ((p.enabled = false ∨ p.unacked = 0
        ∨ (p.unacked < 16 ∧ isDue s (addBeats p.ackSince (bits (reg s (Reg.POD_ACK_DELAY n)) 7 0)) = false)) →
      ackDelay s n i = s) := by
  intro p
  have hsent : peerOf (sendAck s n i) n i = { p with unacked := 0 } := tget_tset_self ..
  refine ⟨fun hon hsome hdue => ⟨if_pos ⟨hon, hsome, hdue⟩, congrArg Peer.unacked hsent⟩, fun h => if_neg ?_⟩
  rintro ⟨hon, hsome, hdue⟩
  rcases h with h | h | ⟨hfew, hnot⟩
  · exact Bool.false_ne_true (h.symm.trans hon)
  · exact absurd hsome (h ▸ Nat.lt_irrefl 0)
  · rcases hdue with hdue | hdue
    · exact absurd hdue (Nat.not_le.mpr hfew)
    · exact Bool.false_ne_true (hnot.symm.trans hdue)

/-- `u` is `s` after frames of peer `i` went out again: each counted, the peer's frames and state as they were. -/
structure Resent (s : State) (n i k : Nat) (u : State) : Prop where
  frame : Machine.PodCounted s u
  out : (peerOf u n i).out = (peerOf s n i).out
  timeouts : (peerOf u n i).timeouts = (peerOf s n i).timeouts
  down : (peerOf u n i).down = (peerOf s n i).down
  counted : reg u (Reg.POD_CNT_RETX n) = min (reg s (Reg.POD_CNT_RETX n) + k) 0xFFFFFFFF

theorem Resent.refl (s : State) (n i : Nat) : Resent s n i 0 s := ⟨Machine.PodCounted.refl s, rfl, rfl, rfl, (min_reg s _).symm⟩

theorem Resent.next {k : Nat} (h : Resent s n i k t) (f : PodFrame) (hword : evtWord (Reg.POD_CNT_RETX n) = false) :
    Resent s n i (k + 1) (bump (putFrame t n i f) (Reg.POD_CNT_RETX n)) := by
  obtain ⟨hframe, hout, htimeouts, hdown, hcounted⟩ := h
  have hpeer : peerOf (bump (putFrame t n i f) (Reg.POD_CNT_RETX n)) n i = { peerOf t n i with unacked := 0 } :=
    (Machine.peerOf_congr (n := n) (i := i) (pod_bumpBy _ _ 1)).trans (peerOf_putFrame ..)
  refine ⟨(hframe.trans (Machine.PodOnly.podCounted (podOnly_putFrame t n i f))).trans (Machine.podCounted_bump _ _), ?_, ?_, ?_, ?_⟩
  · rw [hpeer, ← hout]
  · rw [hpeer, ← htimeouts]
  · rw [hpeer, ← hdown]
  · rw [reg_bump_self _ hword]
    change min (reg t (Reg.POD_CNT_RETX n) + 1) _ = _
    rw [hcounted]
    omega

theorem resent_foldl (s : State) (n i : Nat) (hword : evtWord (Reg.POD_CNT_RETX n) = false) (l : List PodFrame) {k : Nat} (h : Resent s n i k t) :
    Resent s n i (k + l.length) (l.foldl (fun s' f => bump (putFrame s' n i f) (Reg.POD_CNT_RETX n)) t) := by
  induction l generalizing t k with
  | nil => exact h
  | cons f l ih =>
    rw [List.foldl_cons, List.length_cons, Nat.add_comm l.length 1, ← Nat.add_assoc]
    exact ih (h.next f hword)

theorem retx_word (n : PortNo) : evtWord (Reg.POD_CNT_RETX n) = false := by
  revert n
  decide

/-- R354: every outstanding frame goes out again. -/
theorem resend_resent (s : State) (n : PortNo) (i : Nat) :
    Resent (setPeer s n i { peerOf s n i with rtoSince := now s }) n i (peerOf s n i).out.length (resend s n i) := by
  have h := resent_foldl _ n i (retx_word n) (peerOf s n i).out (Resent.refl (setPeer s n i { peerOf s n i with rtoSince := now s }) n i)
  rwa [Nat.zero_add] at h

theorem rtoExpiry_off (h : (peerOf s n i).out = [] ∨ (peerOf s n i).down = true
    ∨ isDue s (addBeats (peerOf s n i).rtoSince (bits (reg s (Reg.POD_RTO n)) 15 0)) = false) : rtoExpiry s n i = s := by
  refine if_pos ?_
  simpa [afterBeats] using h

theorem rtoExpiry_due (hout : (peerOf s n i).out ≠ []) (hup : (peerOf s n i).down = false)
    (hdue : isDue s (addBeats (peerOf s n i).rtoSince (bits (reg s (Reg.POD_RTO n)) 15 0)) = true) : rtoExpiry s n i =
      if bits (reg s (Reg.POD_RETRY_MAX n)) 7 0 ≤ (peerOf s n i).timeouts + 1 then
        setBits (setPeer s n i { peerOf s n i with
          down := true
          timeouts := (peerOf s n i).timeouts + 1
          rtoSince := now s }) (Reg.POD_INT_STATUS n) 2
      else resend (setPeer s n i { peerOf s n i with timeouts := (peerOf s n i).timeouts + 1 }) n i := by
  refine if_neg ?_
  simp [afterBeats, hout, hup, hdue]

theorem rtoExpiry_clause (s : State) (n : PortNo) (i : Nat) :
    let p := peerOf s n i
    p.out ≠ [] → p.down = false → isDue s (addBeats p.rtoSince (bits (reg s (Reg.POD_RTO n)) 15 0)) = true →
      (bits (reg s (Reg.POD_RETRY_MAX n)) 7 0 ≤ p.timeouts + 1 →
        ∃ u, rtoExpiry s n i = u ∧ u = { s with regs := u.regs, pod := u.pod }
          ∧ peerOf u n i = { p with down := true, timeouts := p.timeouts + 1, rtoSince := now s }
          ∧ regBit u (Reg.POD_INT_STATUS n) 1 = true ∧ RegsKept s u [Reg.POD_INT_STATUS n])
      ∧ (p.timeouts + 1 < bits (reg s (Reg.POD_RETRY_MAX n)) 7 0 →
        ∃ u, rtoExpiry s n i = u ∧ u = { s with regs := u.regs, evt := u.evt, pod := u.pod }
          ∧ (peerOf u n i).out = p.out ∧ (peerOf u n i).timeouts = p.timeouts + 1
          ∧ reg u (Reg.POD_CNT_RETX n) = min (reg s (Reg.POD_CNT_RETX n) + p.out.length) 0xFFFFFFFF) := by
  intro p hout hup hdue
  rw [rtoExpiry_due hout hup hdue]
  refine ⟨fun hlast => ?_, fun hmore => ?_⟩
  · rw [if_pos hlast]
    exact ⟨_, rfl, rfl, tget_tset_self .., regBit_setBits _ _ (by decide) (by decide), regsKept_setBits_self _ _ _⟩
  · rw [if_neg (Nat.not_le.mpr hmore)]
    have hpeer : peerOf (setPeer s n i { p with timeouts := p.timeouts + 1 }) n i = { p with timeouts := p.timeouts + 1 } := tget_tset_self ..
    have hresent := resend_resent (setPeer s n i { p with timeouts := p.timeouts + 1 }) n i
    rw [hpeer] at hresent
    obtain ⟨hframe, hframes, htimeouts, -, hcounted⟩ := hresent
    have hself : peerOf (setPeer (setPeer s n i { p with timeouts := p.timeouts + 1 }) n i
        { p with timeouts := p.timeouts + 1, rtoSince := now (setPeer s n i { p with timeouts := p.timeouts + 1 }) }) n i
        = { p with timeouts := p.timeouts + 1, rtoSince := now (setPeer s n i { p with timeouts := p.timeouts + 1 }) } := tget_tset_self ..
    rw [hself] at hframes htimeouts
    exact ⟨_, rfl, podCounted_eq (Machine.PodCounted.trans ⟨_, _, _, rfl⟩ hframe), hframes, htimeouts, hcounted⟩

theorem peerRetry_clause (s : State) (n : PortNo) (i : Nat) :
    let p := peerOf s n i
    (p.down = true → isDue s (addBeats p.rtoSince (16 * bits (reg s (Reg.POD_RTO n)) 15 0)) = true →
      peerRetry s n i = resend s n i ∧ (peerOf (resend s n i) n i).down = true)
    ∧ ((p.down = false ∨ isDue s (addBeats p.rtoSince (16 * bits (reg s (Reg.POD_RTO n)) 15 0)) = false) → peerRetry s n i = s) := by
  intro p
  refine ⟨fun hdown hdue => ⟨if_pos ⟨hdown, hdue⟩, ?_⟩, fun h => if_neg ?_⟩
  · have hself : peerOf (setPeer s n i { p with rtoSince := now s }) n i = { p with rtoSince := now s } := tget_tset_self ..
    rw [(resend_resent s n i).down, hself]
    exact hdown
  · rintro ⟨hdown, hdue⟩
    rcases h with h | h
    · exact Bool.false_ne_true (h.symm.trans hdown)
    · exact Bool.false_ne_true (h.symm.trans hdue)

/-! ## Token records that waited too long (R354) -/

theorem messageCount_nil : messageCount [] = 0 := rfl

theorem messageCount_pos {l : List PodFrame} {f : PodFrame} (hf : f ∈ l) (htype : f.type ≠ 0x3E) : messageCount l ≠ 0 := by
  have hmem : f.msgId ∈ (l.filter fun f => decide (f.type ≠ 0x3E)).map (·.msgId) :=
    List.mem_map_of_mem (List.mem_filter.mpr ⟨hf, decide_eq_true htype⟩)
  unfold messageCount
  cases hids : (l.filter fun f => decide (f.type ≠ 0x3E)).map (·.msgId) with
  | nil => exact absurd (hids ▸ hmem) List.not_mem_nil
  | cons m l => simp [List.eraseDups_cons]

theorem pendingExpiry_clause (s : State) (n i : Nat) :
    let p := peerOf s n i
    (p.client = true →
      let old (f : PodFrame) : Bool := f.token && isDue s (addBeats f.since (64 * measureN s))
      (∃ f ∈ p.waiting, old f = true ∧ f.type ≠ 0x3E) →
      ∃ u, pendingExpiry s n i = u ∧ u = { s with regs := u.regs, evt := u.evt, pod := u.pod }
        ∧ peerOf u n i = { p with waiting := p.waiting.filter fun f => !old f }
        ∧ regBit u (Reg.POD_INT_STATUS n) 2 = true)
    ∧ ((p.client = false ∨ ∀ f ∈ p.waiting, f.token = false ∨ isDue s (addBeats f.since (64 * measureN s)) = false) →
      pendingExpiry s n i = s) := by
  intro p
  refine ⟨fun hclient => ?_, fun h => if_pos ?_⟩
  · intro old hold
    refine ⟨_, rfl, ?_⟩
    obtain ⟨f, hf, hdue, htype⟩ := hold
    have hgone : messageCount (p.waiting.filter old) ≠ 0 := messageCount_pos (List.mem_filter.mpr ⟨hf, hdue⟩) htype
    have hexpired : pendingExpiry s n i = setBits (bumpBy (setPeer s n i { p with waiting := p.waiting.filter fun f => !old f }) (Reg.POD_CNT_LOST n)
        (messageCount (p.waiting.filter old))) (Reg.POD_INT_STATUS n) 4 :=
      if_neg (not_or.mpr ⟨by simp [p, hclient], hgone⟩)
    rw [hexpired]
    refine ⟨?_, ?_, regBit_setBits _ _ (by decide) (by decide)⟩
    · obtain ⟨r, e, hbump⟩ := bumpBy_frame (setPeer s n i { p with waiting := p.waiting.filter fun f => !old f }) (Reg.POD_CNT_LOST n)
        (messageCount (p.waiting.filter old))
      rw [hbump]
      rfl
    · exact (Machine.peerOf_congr (n := n) (i := i) (pod_bumpBy (setPeer s n i { p with waiting := p.waiting.filter fun f => !old f }) _ _)).trans (tget_tset_self ..)
  · rcases h with h | h
    · exact .inl (by simp [p, h])
    · refine .inr ?_
      have hnone : p.waiting.filter (fun f => f.token && afterBeats s f.since (64 * measureN s)) = [] :=
        List.filter_eq_nil_iff.mpr fun f hf => by
          rcases h f hf with h | h <;> simp [afterBeats, h]
      exact congrArg messageCount hnone

/-! ## Restarting a stream (R355) -/

/-- The HELLO that a restarted stream begins with. -/
def helloOut (s : State) : PodFrame :=
  { type := 0x3E, seq := 0, msgId := 0, part := 0, parts := 1, payload := [], since := now s, token := false }

/-- The peer whose stream begins anew, its HELLO waiting. -/
def restarted (p : Peer) (s : State) : Peer :=
  { p with
    down := false
    epoch := (p.epoch + 1) % 65536
    unsynced := true
    txNext := 0
    txAcked := 0xFFFFFFFF
    out := []
    waiting := [helloOut s]
    partial_ := none
    timeouts := 0
    rtoSince := now s }

/-- A HELLO that waits alone goes out at once. -/
theorem pumpPeer_hello {p : Peer} {f : PodFrame} (hpeer : peerOf s n i = p) (hwait : p.waiting = [f]) (hon : p.enabled = true) (hup : p.down = false)
    (hout : p.out = []) : peerOf (pumpPeer s n i 1) n i =
      { p with waiting := [], out := [{ f with seq := p.txNext }], txNext := (p.txNext + 1) % 2 ^ 32, rtoSince := now s, unacked := 0 } := by
  have hgo : ¬((!p.enabled) = true ∨ p.down = true ∨ 512 ≤ p.out.length) := by simp [hon, hup, hout]
  simp only [pumpPeer, hpeer, hwait, if_neg hgo]
  rw [peerOf_putFrame, Machine.peerOf_setPeer_self, hout, if_pos rfl]
  rfl

theorem restartPeer_clause (s : State) (n i : Nat) (hon : (peerOf s n i).enabled = true) :
    let p := peerOf s n i
    let q := peerOf (restartPeer s n i) n i
    q.epoch = (p.epoch + 1) % 65536 ∧ q.unsynced = true ∧ q.txNext = 1 ∧ q.out.map (·.seq) = [0] ∧ q.waiting = [] ∧ q.down = false
      ∧ q.rxNext = p.rxNext ∧ q.partial_ = none := by
  intro p q
  have hq : ∃ v : State, q = peerOf (pumpPeer (setPeer v n i (restarted p s)) n i 1) n i := ⟨_, rfl⟩
  obtain ⟨v, hv⟩ := hq
  have hpump := pumpPeer_hello (Machine.peerOf_setPeer_self v n i (restarted p s)) rfl hon rfl rfl
  rw [hv, hpump]
  exact ⟨rfl, rfl, rfl, rfl, rfl, rfl, rfl, rfl⟩

theorem peerCtrl_off (v : Nat) (hoff : (peerOf s n i).enabled = false) : peerCtrl s n i v =
    if bit v 0 = true then restartPeer (setPeer s n i { peerOf s n i with ctrl := Nat.land v 0x7FFFF1F }) n i
    else setPeer s n i { peerOf s n i with ctrl := Nat.land v 0x7FFFF1F } :=
  if_neg (by simp [hoff])

theorem peerCtrl_on (v : Nat) (hon : (peerOf s n i).enabled = true) : peerCtrl s n i v =
    if bit v 0 = true then s else setPeer s n i { peerOf s n i with ctrl := (peerOf s n i).ctrl - 1 } :=
  if_pos hon

theorem exec_restart_off {n : PortNo} {i : PeerNo} (hoff : (peerOf s n i).enabled = false) : exec (.restart n i) s = .next (settle s) := by
  have hnone : restart s n i = s := if_neg (by simp [hoff])
  change (if hostReaches s (Reg.PEER_CMD n) then done (restart s n i) else done s) = _
  rw [hnone, ite_self]
  rfl

/-! ## Resets and ENABLE of a port (R356, R369) -/

/-- The unit once its epoch has been raised, once an edge (R443). -/
theorem unitSt_raiseEpoch (s : State) (cls i : Nat) : unitSt (raiseEpoch s cls i) cls i =
    if (unitSt s cls i).at_ = some (edgeNow s) then unitSt s cls i
    else { unitSt s cls i with epoch := ((unitSt s cls i).epoch + 1) % 65536, at_ := some (edgeNow s) } := by
  unfold raiseEpoch
  dsimp only
  split
  · rfl
  · exact unitSt_setUnit_self ..

theorem raiseEpoch_topo (s : State) (cls i : Nat) : raiseEpoch s cls i = { s with topo := (raiseEpoch s cls i).topo } := by
  unfold raiseEpoch
  dsimp only
  split <;> rfl

/-- The reset of a port's unit begins. -/
theorem beginReset_port (s : State) (i : Nat) :
    beginReset s 3 i = { s with regs := (beginReset s 3 i).regs, evt := (beginReset s 3 i).evt, topo := (beginReset s 3 i).topo }
      ∧ unitSt (beginReset s 3 i) 3 i = { unitSt (raiseEpoch s 3 i) 3 i with mode := .resetting }
      ∧ reg (beginReset s 3 i) Reg.TOPO_CNT_UNIT_RESET = min (reg s Reg.TOPO_CNT_UNIT_RESET + 1) 0xFFFFFFFF := by
  have hbegin : beginReset s 3 i =
      bump (setUnit (raiseEpoch s 3 i) 3 i { unitSt (raiseEpoch s 3 i) 3 i with mode := .resetting }) Reg.TOPO_CNT_UNIT_RESET := rfl
  have hraise := raiseEpoch_topo s 3 i
  rw [hbegin]
  generalize raiseEpoch s 3 i = v at *
  obtain ⟨r, e, hbump⟩ := bump_frame (setUnit v 3 i { unitSt v 3 i with mode := .resetting }) Reg.TOPO_CNT_UNIT_RESET
  refine ⟨?_, ?_, ?_⟩
  · rw [hbump, hraise]
    rfl
  · rw [hbump]
    exact unitSt_setUnit_self v 3 i _
  · rw [reg_bump_self, hraise]
    rfl

theorem podReset_clause (s : State) (n : PortNo) (hrun : (unitSt s 3 n).mode = .available) :
    ∃ u, podReset s n = u ∧ u = { s with regs := u.regs, evt := u.evt, pod := u.pod, topo := u.topo }
      ∧ (unitSt u 3 n).mode = .resetting
      ∧ ((unitSt s 3 n).at_ ≠ some (edgeNow s) → (unitSt u 3 n).epoch = ((unitSt s 3 n).epoch + 1) % 65536)
      ∧ ((unitSt s 3 n).at_ = some (edgeNow s) → (unitSt u 3 n).epoch = (unitSt s 3 n).epoch)
      ∧ (portOf u n).linkUp = false ∧ u.pod.peers = s.pod.peers ∧ u.pod.classes = s.pod.classes
      ∧ reg u Reg.TOPO_CNT_UNIT_RESET = min (reg s Reg.TOPO_CNT_UNIT_RESET + 1) 0xFFFFFFFF := by
  have hreset : podReset s n = setPort (beginReset s 3 n) n { portOf (beginReset s 3 n) n with linkUp := false, media := 0, busy := none } :=
    if_neg (by simp [hrun])
  obtain ⟨hframe, hunit, hcount⟩ := beginReset_port s n
  refine ⟨_, rfl, ?_⟩
  rw [hreset]
  generalize beginReset s 3 n = v at *
  have hunit : unitSt (setPort v n { portOf v n with linkUp := false, media := 0, busy := none }) 3 n
      = { unitSt (raiseEpoch s 3 n) 3 n with mode := .resetting } := hunit
  rw [hunit, unitSt_raiseEpoch]
  refine ⟨?_, rfl, fun hfirst => ?_, fun hagain => ?_, ?_, ?_, ?_, hcount⟩
  · rw [hframe]
    rfl
  · rw [if_neg hfirst]
  · rw [if_pos hagain]
  · rw [portOf_setPort_self]
  · exact congrArg (·.pod.peers) hframe
  · exact congrArg (·.pod.classes) hframe

theorem podEnable_clause (s : State) (n : PortNo) (on : Bool) : podEnable s n on = { s with regs := (podEnable s n on).regs }
    ∧ regBit (podEnable s n on) (Reg.POD_CTRL n) 0 = on ∧ RegsKept s (podEnable s n on) [Reg.POD_CTRL n] := by
  have hkept (v : Nat) : RegsKept s (setReg s (Reg.POD_CTRL n) v) [Reg.POD_CTRL n] := fun a _ ha => reg_setReg_ne _ _ fun e => ha (e ▸ List.mem_singleton_self _)
  cases on with
  | false => exact ⟨rfl, regBit_clearBits_two_pow _ _ (by decide), hkept _⟩
  | true => exact ⟨rfl, regBit_setBits _ _ (by decide) (by decide), hkept _⟩

/-! ## The link of a port (R345, R441) -/

theorem units_trainedFull (s : State) (u : TrainUnit) (r : TrainRec) : (trainedFull s u r).topo.units = s.topo.units := by
  obtain ⟨g, e, hbump⟩ := bump_frame s Reg.TOPO_CNT_TRAIN_FULL
  change (bump s Reg.TOPO_CNT_TRAIN_FULL).topo.units = _
  rw [hbump]

/-- Training leaves the resettable units as they are. -/
theorem units_trainUnit (s : State) (u : TrainUnit) (x : LinkTraining) : (trainUnit s u x).topo.units = s.topo.units := by
  by_cases h : findsRecord s u x = true
  · by_cases hweak : x.weak = true
    · rw [trainUnit_weak h hweak]
      refine (units_trainedFull (recordRejected s) u (recordNow s x.partner x.t16)).trans ?_
      rw [(recordRejected_tallied s).frame]
    · rw [trainUnit_record h (Bool.eq_false_iff.mpr hweak)]
      rfl
  · rw [trainUnit_noRecord (Bool.eq_false_iff.mpr h)]
    exact units_trainedFull s u (recordNow s x.partner x.t16)

/-- The port's link is up, its unit trained. -/
def podLinked (s : State) (n : Nat) (media : Nat) (x : LinkTraining) : State :=
  setPort (trainUnit s (.podPort n) x) n { portOf s n with linkUp := true, media := media }

theorem podLinkUp_off {media : Nat} {x : LinkTraining} (h : linksTrain s = false ∨ bit s.topo.fusePods n = false ∨ (portOf s n).linkUp = true) :
    podLinkUp s n media x = s := by
  refine if_pos ?_
  simpa using h

theorem podLinkUp_on {media : Nat} {x : LinkTraining} (htrain : linksTrain s = true) (hfuse : bit s.topo.fusePods n = true)
    (hdown : (portOf s n).linkUp = false) : podLinkUp s n media x =
      if (unitSt s 3 n).mode = .resetting then endReset (podLinked s n media x) 3 n .available else podLinked s n media x := by
  have hgo : ¬((!linksTrain s) = true ∨ (!bit s.topo.fusePods n) = true ∨ (portOf s n).linkUp = true) := by simp [htrain, hfuse, hdown]
  obtain ⟨⟨hframe, -, -⟩, -⟩ := trainUnit_trained s (.podPort n) x
  have hport : portOf (trainUnit s (.podPort n) x) n = portOf s n := portOf_congr (congrArg (·.pod) hframe) n
  have hunit : unitSt (podLinked s n media x) 3 n = unitSt s 3 n := unitSt_congr (units_trainUnit s (.podPort n) x) 3 n
  rw [podLinkUp, if_neg hgo]
  dsimp only
  rw [hport]
  change (if (unitSt (podLinked s n media x) 3 n).mode = .resetting then _ else _) = _
  rw [hunit]
  rfl

/-- A unit returns to service (R446). -/
theorem endReset_returned (s : State) (cls i : Nat) (m : UnitMode) :
    endReset s cls i m = { s with regs := (endReset s cls i m).regs, topo := (endReset s cls i m).topo }
      ∧ unitSt (endReset s cls i m) cls i = { unitSt s cls i with mode := m } ∧ regBit (endReset s cls i m) Reg.TOPO_INT_STATUS 3 = true := by
  have hbit : regBit (setBits (setUnit s cls i { unitSt s cls i with mode := m }) Reg.TOPO_INT_STATUS 8) Reg.TOPO_INT_STATUS 3 = true :=
    regBit_setBits _ _ (by decide) (by decide)
  unfold endReset
  dsimp only
  split
  · refine ⟨rfl, unitSt_setUnit_self s cls i _, ?_⟩
    exact (congrArg (bit · 3) (reg_setReg_ne _ _ (by decide))).trans hbit
  · exact ⟨rfl, unitSt_setUnit_self s cls i _, hbit⟩

theorem returned_frame {v w : State} (h : w = { v with regs := w.regs, topo := w.topo })
    (g : v = { s with regs := v.regs, evt := v.evt, pod := v.pod, topo := v.topo }) :
    w = { s with regs := w.regs, evt := w.evt, pod := w.pod, topo := w.topo } := by
  have hevt : w.evt = v.evt := congrArg (·.evt) h
  have hpod : w.pod = v.pod := congrArg (·.pod) h
  rw [hevt, hpod]
  exact h.trans (by rw [g])

theorem podLinkUp_clause (s : State) (n : PortNo) (media : Fin 8) (x : LinkTraining) :
    (linksTrain s = true → bit s.topo.fusePods n = true → (portOf s n).linkUp = false → (unitSt s 3 n).mode ≠ .resetting →
        podLinkUp s n media x = setPort (trainUnit s (.podPort n) x) n { portOf s n with linkUp := true, media := (media : Nat) })
      ∧ (linksTrain s = true → bit s.topo.fusePods n = true → (portOf s n).linkUp = false → (unitSt s 3 n).mode = .resetting →
        ∃ u, podLinkUp s n media x = u ∧ u = { s with regs := u.regs, evt := u.evt, pod := u.pod, topo := u.topo }
          ∧ portOf u n = { portOf s n with linkUp := true, media := (media : Nat) } ∧ (unitSt u 3 n).mode = .available
          ∧ (unitSt u 3 n).epoch = (unitSt s 3 n).epoch ∧ regBit u Reg.TOPO_INT_STATUS 3 = true)
      ∧ ((linksTrain s = false ∨ bit s.topo.fusePods n = false ∨ (portOf s n).linkUp = true) → podLinkUp s n media x = s) := by
  refine ⟨fun htrain hfuse hdown hrun => ?_, fun htrain hfuse hdown hreset => ⟨_, rfl, ?_⟩, podLinkUp_off⟩
  · rw [podLinkUp_on htrain hfuse hdown, if_neg hrun]
    rfl
  · rw [podLinkUp_on htrain hfuse hdown, if_pos hreset]
    obtain ⟨hframe, hunit, hbit⟩ := endReset_returned (podLinked s n media x) 3 n .available
    obtain ⟨⟨htrained, -, -⟩, -⟩ := trainUnit_trained s (.podPort n) x
    have hport : portOf (podLinked s n media x) n = { portOf s n with linkUp := true, media := (media : Nat) } := portOf_setPort_self ..
    have hkept : unitSt (podLinked s n media x) 3 n = unitSt s 3 n := unitSt_congr (units_trainUnit s (.podPort n) x) 3 n
    have hlinked : podLinked s n media x = { s with
        regs := (podLinked s n media x).regs, evt := (podLinked s n media x).evt, pod := (podLinked s n media x).pod,
        topo := (podLinked s n media x).topo } := by
      unfold podLinked
      rw [htrained]
      rfl
    rw [hunit, hkept]
    exact ⟨returned_frame hframe hlinked, (portOf_congr (congrArg (·.pod) hframe) n).trans hport, rfl, rfl, hbit⟩

theorem podLinkDown_clause (s : State) (n : PortNo) (hup : (portOf s n).linkUp = true) :
    ∃ u, podLinkDown s n = u ∧ u = { s with regs := u.regs, pod := u.pod }
      ∧ portOf u n = { portOf s n with linkUp := false, busy := none } ∧ regBit u (Reg.POD_INT_STATUS n) 0 = true
      ∧ RegsKept s u [Reg.POD_INT_STATUS n] := by
  rw [podLinkDown, if_pos hup]
  exact ⟨_, rfl, rfl, portOf_setPort_self .., regBit_setBits _ _ (by decide) (by decide), regsKept_setBits_self _ _ _⟩

/-! ## Gates (R363, R364) -/

theorem overrun_word (n : PortNo) : evtWord (Reg.POD_CNT_GATE_OVERRUN n) = false ∧ Reg.POD_CNT_GATE_OVERRUN n ≠ Reg.POD_INT_STATUS n := by
  revert n
  decide

/-- The port with its gates of the beat. -/
def gatesSet (s : State) (n : Nat) : State :=
  setPort s n { portOf s n with
    gateEntry := (gatesAt s n s.time.beat).1
    gates := (gatesAt s n s.time.beat).2 }

/-- A frame whose gate closes counts. -/
def gateOverrun (s : State) (n : Nat) : State := setBits (bump (gatesSet s n) (Reg.POD_CNT_GATE_OVERRUN n)) (Reg.POD_INT_STATUS n) 8

theorem gateChange_eq (s : State) (n : Nat) : gateChange s n =
    match (portOf s n).busy with
    | some (c, _) => if bit (portOf s n).gates c ∧ !bit (gatesAt s n s.time.beat).2 c then gateOverrun s n else gatesSet s n
    | none => gatesSet s n := rfl

theorem gateChange_cases (s : State) (n : Nat) : gateChange s n = gatesSet s n ∨ gateChange s n = gateOverrun s n := by
  rw [gateChange_eq]
  split
  · split
    · exact .inr rfl
    · exact .inl rfl
  · exact .inl rfl

theorem gateChange_closed {p : Nat × Nat} (hbusy : (portOf s n).busy = some p) (hopen : bit (portOf s n).gates p.1 = true)
    (hclosed : bit (gatesAt s n s.time.beat).2 p.1 = false) : gateChange s n = gateOverrun s n := by
  obtain ⟨c, t⟩ := p
  have hcloses : bit (portOf s n).gates c = true ∧ (!bit (gatesAt s n s.time.beat).2 c) = true := ⟨hopen, congrArg (!·) hclosed⟩
  rw [gateChange_eq, hbusy]
  exact if_pos hcloses

theorem gateOverrun_bumped (s : State) (n : Nat) : gateOverrun s n = { gatesSet s n with regs := (gateOverrun s n).regs, evt := (gateOverrun s n).evt } := by
  unfold gateOverrun
  obtain ⟨r, e, hbump⟩ := bump_frame (gatesSet s n) (Reg.POD_CNT_GATE_OVERRUN n)
  rw [hbump]
  rfl

theorem gateChange_clause (s : State) (n : PortNo) :
    ∃ u, gateChange s n = u ∧ u = { s with regs := u.regs, evt := u.evt, pod := u.pod }
      ∧ (portOf u n).gateEntry = (gatesAt s n s.time.beat).1 ∧ (portOf u n).gates = (gatesAt s n s.time.beat).2
      ∧ (∀ c t, (portOf s n).busy = some (c, t) → bit (portOf s n).gates c = true → bit (gatesAt s n s.time.beat).2 c = false →
          reg u (Reg.POD_CNT_GATE_OVERRUN n) = min (reg s (Reg.POD_CNT_GATE_OVERRUN n) + 1) 0xFFFFFFFF) := by
  have hset : gateChange s n = { s with regs := (gateChange s n).regs, evt := (gateChange s n).evt, pod := (gateChange s n).pod }
      ∧ (gateChange s n).pod = (gatesSet s n).pod := by
    rcases gateChange_cases s n with h | h
    · rw [h]
      exact ⟨rfl, rfl⟩
    · rw [h]
      have hpod : (gateOverrun s n).pod = (gatesSet s n).pod := congrArg (·.pod) (gateOverrun_bumped s n)
      rw [hpod]
      exact ⟨gateOverrun_bumped s n, rfl⟩
  obtain ⟨hframe, hpod⟩ := hset
  have hport : portOf (gateChange s n) n = { portOf s n with gateEntry := (gatesAt s n s.time.beat).1, gates := (gatesAt s n s.time.beat).2 } :=
    (portOf_congr hpod n).trans (portOf_setPort_self ..)
  refine ⟨_, rfl, hframe, congrArg Port.gateEntry hport, congrArg Port.gates hport, fun c t hbusy hopen hclosed => ?_⟩
  obtain ⟨hword, hne⟩ := overrun_word n
  rw [gateChange_closed hbusy hopen hclosed, gateOverrun, reg_setBits_ne _ _ hne, reg_bump_self _ hword]
  rfl

/-! ## Shapers (R366) -/

/-- The write of one shaper register. -/
def shaped (s : State) (n c a v : Nat) : State := setClass (setReg s a v) n c { classOf (setReg s a v) n c with fresh := true }

theorem shaped_clause (s : State) (n c a v : Nat) : shaped s n c a v = { s with regs := (shaped s n c a v).regs, pod := (shaped s n c a v).pod }
    ∧ classOf (shaped s n c a v) n c = { classOf s n c with fresh := true } := ⟨rfl, classOf_setClass_self ..⟩

theorem reg_shaped (s : State) (n c a v : Nat) (hv : v < 2 ^ 32) : reg (shaped s n c a v) a = v ∧ RegsKept s (shaped s n c a v) [a] := by
  refine ⟨?_, fun b _ hb => reg_setReg_ne _ _ fun e => hb (e ▸ List.mem_singleton_self _)⟩
  exact (reg_setReg_self s a v).trans (Nat.mod_eq_of_lt hv)

theorem shapeWrite_clause (s : State) (n c off v : Nat) :
    let u := shapeWrite s n c off v
    u = { s with regs := u.regs, pod := u.pod }
      ∧ classOf u n c = { classOf s n c with fresh := true }
      ∧ (off = 0 → reg u (Reg.TC_SHAPE_CTRL n c) = v % 4 ∧ RegsKept s u [Reg.TC_SHAPE_CTRL n c])
      ∧ (off = 4 → reg u (Reg.TC_IDLE_SLOPE n c) = min (v % 2 ^ 17) 100000 ∧ RegsKept s u [Reg.TC_IDLE_SLOPE n c])
      ∧ (off = 8 → reg u (Reg.TC_HI_CREDIT n c) = v % 2 ^ 24 ∧ RegsKept s u [Reg.TC_HI_CREDIT n c])
      ∧ (off = 12 → reg u (Reg.TC_LO_CREDIT n c) = v % 2 ^ 24 ∧ RegsKept s u [Reg.TC_LO_CREDIT n c]) := by
  have hwrite : ∃ a w, shapeWrite s n c off v = shaped s n c a w := by
    unfold shapeWrite
    dsimp only
    (repeat' split) <;> exact ⟨_, _, rfl⟩
  refine ⟨?_, ?_, ?_, ?_, ?_, ?_⟩
  · obtain ⟨a, w, h⟩ := hwrite
    rw [h]
    exact (shaped_clause s n c a w).1
  · obtain ⟨a, w, h⟩ := hwrite
    rw [h]
    exact (shaped_clause s n c a w).2
  · rintro rfl
    exact reg_shaped s n c (Reg.TC_SHAPE_CTRL n c) (v % 4) (by omega)
  · rintro rfl
    exact reg_shaped s n c (Reg.TC_IDLE_SLOPE n c) (min (v % 2 ^ 17) 100000) (by omega)
  · rintro rfl
    exact reg_shaped s n c (Reg.TC_HI_CREDIT n c) (v % 2 ^ 24) (by omega)
  · rintro rfl
    exact reg_shaped s n c (Reg.TC_LO_CREDIT n c) (v % 2 ^ 24) (by omega)

/-! ## Transmission (R367) -/

/-- No frame is eligible whose class holds but frames that joined at this edge (R368). -/
theorem classEligible_joined (h : (classOf s n c).queue.length ≤ (classOf s n c).joined) : classEligible s n c = false := by
  unfold classEligible
  dsimp only
  split
  · rfl
  · rw [decide_eq_false (Nat.not_lt.mpr h), Bool.false_and, Bool.false_and]

/-- One byte is below 256. -/
theorem leNat_byte {l : List Byte} (h : l.length ≤ 1) : leNat l < 256 := by
  match l, h with
  | [], _ => exact Nat.zero_lt_succ _
  | [b], _ => simpa [leNat] using b.isLt

theorem assetNat_byte (s : State) (a ver o : Nat) : assetNat s a ver o 1 < 256 := by
  refine leNat_byte ?_
  unfold assetRead
  split
  · simp [ldRead]
  · exact Nat.zero_le _

theorem gateSpan_lt {l : List (Nat × Nat)} (h : ∀ p ∈ l, p.1 < 256) (p i : Nat) : (gateSpan l p i).2 < 256 := by
  induction l generalizing p i with
  | nil => exact Nat.lt_succ_self 255
  | cons e l ih =>
    rw [gateSpan]
    split
    · exact h e List.mem_cons_self
    · exact ih (fun p hp => h p (List.mem_cons_of_mem _ hp)) _ _

theorem gateList_lt {ph : Nat} {es : List (Nat × Nat)} (h : gateList s n = some (ph, es)) : ∀ p ∈ es, p.1 < 256 := by
  unfold gateList at h
  dsimp only at h
  split at h
  · cases h
  · split at h
    · cases h
    · obtain ⟨-, rfl⟩ := Prod.mk.inj (Option.some.inj h)
      intro p hp
      obtain ⟨i, -, rfl⟩ := List.mem_map.mp hp
      exact assetNat_byte ..

/-- A gate list has eight gates. -/
theorem gatesAt_lt (s : State) (n b : Nat) : (gatesAt s n b).2 < 256 := by
  unfold gatesAt
  split
  · exact Nat.lt_succ_self 255
  · next h =>
    dsimp only
    split
    · exact Nat.lt_succ_self 255
    · exact gateSpan_lt (gateList_lt h) _ _

/-- No class beyond the eighth has a gate. -/
theorem gateOpen_beyond (h : 8 ≤ c) (t : Nat) : gateOpen s n c t = false := by
  have hclosed : bit (gatesAt s n s.time.beat).2 c = false := by
    rw [bit_eq_testBit]
    exact Nat.testBit_lt_two_pow (Nat.lt_of_lt_of_le (gatesAt_lt s n s.time.beat) (Nat.pow_le_pow_right Nat.two_pos h))
  refine Bool.eq_false_iff.mpr fun hall => ?_
  have hfirst := List.all_eq_true.mp hall 0 (List.mem_range.mpr (Nat.succ_pos _))
  rw [Nat.add_zero, hclosed] at hfirst
  cases hfirst

theorem classEligible_beyond (h : 8 ≤ c) : classEligible s n c = false := by
  unfold classEligible
  dsimp only
  split
  · rfl
  · rw [gateOpen_beyond h, Bool.and_false, Bool.false_and]

/-- With no eligible class to follow, the class with the turn is not eligible either. -/
theorem classEligible_of_none (h : nextEligible s n c = none) : classEligible s n c = false := by
  by_cases hc : c < 8
  · have hlast := List.find?_eq_none.mp h c (List.mem_map.mpr ⟨7, by decide, by omega⟩)
    exact Bool.eq_false_iff.mpr hlast
  · exact classEligible_beyond (Nat.le_of_not_lt hc)

/-- What a class without eligible frames, or whose deficit does not suffice, leaves to the next. -/
theorem frameTransmit_running (hrun : portRuns s n = true) (hidle : (portOf s n).busy = none) (hloud : s.twin.silent = false) :
    frameTransmit s n =
      let c := (portOf s n).turn
      let k := classOf s n c
      let need := match k.queue with
        | f :: _ => f.length + 4
        | [] => 0
      if classEligible s n c ∧ need ≤ k.deficit then sendHead s n c k.deficit
      else
        match nextEligible s n c with
        | none => s
        | some d => sendHead s n d (min ((classOf s n d).deficit + quantum s n d) (quantum s n d + 9216)) := by
  refine if_neg ?_
  simp [hrun, hidle, hloud]

theorem frameTransmit_clause (s : State) (n : Nat) (hrun : portRuns s n = true) (hidle : (portOf s n).busy = none) (hloud : s.twin.silent = false) :
    let c := (portOf s n).turn
    (∀ f q, (classOf s n c).queue = f :: q → classEligible s n c = true → f.length + 4 ≤ (classOf s n c).deficit →
      frameTransmit s n = sendHead s n c (classOf s n c).deficit)
    ∧ (∀ d, (classEligible s n c = false ∨ ∃ f q, (classOf s n c).queue = f :: q ∧ (classOf s n c).deficit < f.length + 4) →
      nextEligible s n c = some d →
      frameTransmit s n = sendHead s n d (min ((classOf s n d).deficit + quantum s n d) (quantum s n d + 9216)))
    ∧ (nextEligible s n c = none → frameTransmit s n = s) := by
  intro c
  rw [frameTransmit_running hrun hidle hloud]
  refine ⟨fun f q hqueue heligible hdeficit => ?_, fun d h hnext => ?_, fun hnone => ?_⟩
  · refine if_pos ⟨heligible, ?_⟩
    rw [hqueue]
    exact hdeficit
  · refine (if_neg ?_).trans ?_
    · rintro ⟨heligible, hneed⟩
      rcases h with h | ⟨f, q, hqueue, hshort⟩
      · exact Bool.false_ne_true (h.symm.trans heligible)
      · rw [hqueue] at hneed
        exact absurd hneed (Nat.not_le.mpr hshort)
    · rw [hnext]
  · refine (if_neg ?_).trans ?_
    · rintro ⟨heligible, -⟩
      exact Bool.false_ne_true ((classEligible_of_none hnone).symm.trans heligible)
    · rw [hnone]

/-- The port with class `c`'s head frame on the wire, before it is counted. -/
def headTaken (s : State) (n c deficit : Nat) (f : List Byte) (q : List (List Byte)) : State :=
  let s1 := setClass s n c { classOf s n c with
    queue := q
    deficit := if q = [] then 0 else deficit - (f.length + 4) }
  setPort s1 n { portOf s1 n with
    busy := some (c, frameCk f.length)
    turn := c }

theorem sendHead_eq {deficit : Nat} {f : List Byte} {q : List (List Byte)} (h : (classOf s n c).queue = f :: q) : sendHead s n c deficit =
    emit (bump64 (bump (headTaken s n c deficit f q) (Reg.TC_CNT_FRAMES n c)) (Reg.POD_CNT_TX_BYTES n) (f.length + 4) (2 ^ 64 - 1)) (.podFrame n c f) := by
  simp only [sendHead, h]
  rfl

theorem sendHead_clause (s : State) (n c deficit : Nat) (f : List Byte) (q : List (List Byte)) (h : (classOf s n c).queue = f :: q) :
    let u := sendHead s n c deficit
    u = { s with regs := u.regs, evt := u.evt, pod := u.pod, emitted := s.emitted ++ [.podFrame n c f] }
      ∧ classOf u n c = { classOf s n c with queue := q, deficit := if q = [] then 0 else deficit - (f.length + 4) }
      ∧ portOf u n = { portOf s n with busy := some (c, frameCk f.length), turn := c } := by
  have hcounted : ∃ r e, sendHead s n c deficit = emit { headTaken s n c deficit f q with regs := r, evt := e } (.podFrame n c f) := by
    rw [sendHead_eq h]
    obtain ⟨r, e, hbump⟩ := bump_frame (headTaken s n c deficit f q) (Reg.TC_CNT_FRAMES n c)
    rw [hbump]
    obtain ⟨r', e', hbump64⟩ := bump64_frame { headTaken s n c deficit f q with regs := r, evt := e } (Reg.POD_CNT_TX_BYTES n) (f.length + 4) (2 ^ 64 - 1)
    exact ⟨r', e', by rw [hbump64]⟩
  obtain ⟨r, e, hsent⟩ := hcounted
  rw [hsent]
  refine ⟨rfl, ?_, ?_⟩
  · exact classOf_setClass_self s n c _
  · exact portOf_setPort_self ..

end

end Sys2Proof.Laws

namespace Sys2Proof.Proofs

open Sys2Proof.Machine Sys2Proof.Laws

theorem next_of_eq {x u : State} (h : x = u) : done x = .next (settle u) := h ▸ rfl

theorem next_of_exists {x : State} {P : State → Prop} (h : ∃ u, x = u ∧ P u) : ∃ u, done x = .next (settle u) ∧ P u := by
  obtain ⟨u, hu, hP⟩ := h
  exact ⟨u, next_of_eq hu, hP⟩

theorem peer_clause (s : State) (n : PortNo) (i : PeerNo) :
    let p := peerOf s n i
    (p.enabled = true → 0 < p.unacked →
      (16 ≤ p.unacked ∨ isDue s (addBeats p.ackSince (bits (reg s (Reg.POD_ACK_DELAY n)) 7 0)) = true) →
      exec (.ackDelayExpiry n i) s = .next (settle (sendAck s n i)) ∧ (peerOf (sendAck s n i) n i).unacked = 0)
    ∧ ((p.enabled = false ∨ p.unacked = 0
        ∨ (p.unacked < 16 ∧ isDue s (addBeats p.ackSince (bits (reg s (Reg.POD_ACK_DELAY n)) 7 0)) = false)) →
      exec (.ackDelayExpiry n i) s = .next (settle s))
    ∧ (p.out ≠ [] → p.down = false → isDue s (addBeats p.rtoSince (bits (reg s (Reg.POD_RTO n)) 15 0)) = true →
      (bits (reg s (Reg.POD_RETRY_MAX n)) 7 0 ≤ p.timeouts + 1 →
        ∃ u, exec (.podRtoExpiry n i) s = .next (settle u) ∧ u = { s with regs := u.regs, pod := u.pod }
          ∧ peerOf u n i = { p with down := true, timeouts := p.timeouts + 1, rtoSince := now s }
          ∧ regBit u (Reg.POD_INT_STATUS n) 1 = true ∧ RegsKept s u [Reg.POD_INT_STATUS n])
      ∧ (p.timeouts + 1 < bits (reg s (Reg.POD_RETRY_MAX n)) 7 0 →
        ∃ u, exec (.podRtoExpiry n i) s = .next (settle u) ∧ u = { s with regs := u.regs, evt := u.evt, pod := u.pod }
          ∧ (peerOf u n i).out = p.out ∧ (peerOf u n i).timeouts = p.timeouts + 1
          ∧ reg u (Reg.POD_CNT_RETX n) = min (reg s (Reg.POD_CNT_RETX n) + p.out.length) 0xFFFFFFFF))
    ∧ ((p.out = [] ∨ p.down = true ∨ isDue s (addBeats p.rtoSince (bits (reg s (Reg.POD_RTO n)) 15 0)) = false) →
      exec (.podRtoExpiry n i) s = .next (settle s))
    ∧ (p.down = true → isDue s (addBeats p.rtoSince (16 * bits (reg s (Reg.POD_RTO n)) 15 0)) = true →
      exec (.peerRetry n i) s = .next (settle (resend s n i)) ∧ (peerOf (resend s n i) n i).down = true)
    ∧ ((p.down = false ∨ isDue s (addBeats p.rtoSince (16 * bits (reg s (Reg.POD_RTO n)) 15 0)) = false) →
      exec (.peerRetry n i) s = .next (settle s))
    ∧ (p.client = true →
      let old (f : PodFrame) : Bool := f.token && isDue s (addBeats f.since (64 * measureN s))
      (∃ f ∈ p.waiting, old f = true ∧ f.type ≠ 0x3E) →
      ∃ u, exec (.pendingExpiry n i) s = .next (settle u) ∧ u = { s with regs := u.regs, evt := u.evt, pod := u.pod }
        ∧ peerOf u n i = { p with waiting := p.waiting.filter fun f => !old f }
        ∧ regBit u (Reg.POD_INT_STATUS n) 2 = true)
    ∧ ((p.client = false ∨ ∀ f ∈ p.waiting, f.token = false ∨ isDue s (addBeats f.since (64 * measureN s)) = false) →
      exec (.pendingExpiry n i) s = .next (settle s))
    ∧ (p.enabled = true → hostReaches s (Reg.PEER_CMD n) = true →
      exec (.restart n i) s = .next (settle (restartPeer s n i)))
    ∧ (p.enabled = false → exec (.restart n i) s = .next (settle s))
    ∧ (∀ v : Code32, hostReaches s (Reg.PEER_CTRL n) = true → p.enabled = false →
      let t := setPeer s n i { p with ctrl := Nat.land v 0x7FFFF1F }
      exec (.peerEnable n i v) s = .next (settle (if bit v 0 = true then restartPeer t n i else t)))
    ∧ (∀ v : Code32, hostReaches s (Reg.PEER_CTRL n) = true → p.enabled = true →
      exec (.peerEnable n i v) s
        = .next (settle (if bit v 0 = true then s else setPeer s n i { p with ctrl := p.ctrl - 1 }))) := by
  intro p
  obtain ⟨hack, hackOff⟩ := ackDelay_clause s n i
  obtain ⟨hretry, hretryOff⟩ := peerRetry_clause s n i
  obtain ⟨hpending, hpendingOff⟩ := pendingExpiry_clause s n i
  refine ⟨fun hon hsome hdue => ?_, fun h => next_of_eq (hackOff h), fun hout hup hdue => ?_, fun h => next_of_eq (rtoExpiry_off h), fun hdown hdue => ?_,
    fun h => next_of_eq (hretryOff h), fun hclient => ?_, fun h => next_of_eq (hpendingOff h), fun hon hreach => ?_, exec_restart_off,
    fun v hreach hoff => ?_, fun v hreach hon => ?_⟩
  · obtain ⟨hsent, hzero⟩ := hack hon hsome hdue
    exact ⟨next_of_eq hsent, hzero⟩
  · obtain ⟨hlast, hmore⟩ := rtoExpiry_clause s n i hout hup hdue
    exact ⟨fun h => next_of_exists (hlast h), fun h => next_of_exists (hmore h)⟩
  · obtain ⟨hresend, hkept⟩ := hretry hdown hdue
    exact ⟨next_of_eq hresend, hkept⟩
  · intro old hold
    exact next_of_exists (hpending hclient hold)
  · refine (host_running (fun s => restart s n i) hreach).trans (next_of_eq ?_)
    exact if_pos hon
  · exact (host_running (fun s => peerCtrl s n i v) hreach).trans (next_of_eq (peerCtrl_off v hoff))
  · exact (host_running (fun s => peerCtrl s n i v) hreach).trans (next_of_eq (peerCtrl_on v hon))

/-- Settles O53: the timers, the restarts, the resets, the links, the shapers, the gates and transmission, each by its own lemma. -/
theorem podPortsAndPeersRun : Obligations.PodPortsAndPeersRun := by
  unfold Obligations.PodPortsAndPeersRun
  refine ⟨fun s n i => peer_clause s n i, restartPeer_clause,
    fun s n hreach => ⟨fun hrun => ?_, fun on => ⟨_, host_running (fun s => podEnable s n on) hreach, podEnable_clause s n on⟩⟩,
    fun s n media x => ?_, fun s n i v hreach => host_running (fun s => polCtrl s n i v) hreach,
    fun s n c off v hreach => ⟨_, host_running (fun s => shapeWrite s n c off v) hreach, shapeWrite_clause s n c off v⟩,
    fun s n hrun hidle hloud => ?_, fun s n c h => classEligible_joined h, sendHead_clause⟩
  · obtain ⟨u, hu, hP⟩ := podReset_clause s n hrun
    exact ⟨u, (host_running (fun s => podReset s n) hreach).trans (next_of_eq hu), hP⟩
  · obtain ⟨hon, hreset, hoff⟩ := podLinkUp_clause s n media x
    exact ⟨fun htrain hfuse hdown hrun => next_of_eq (hon htrain hfuse hdown hrun), fun htrain hfuse hdown hres => next_of_exists (hreset htrain hfuse hdown hres),
      fun h => next_of_eq (hoff h), fun hup => next_of_exists (podLinkDown_clause s n hup), next_of_exists (gateChange_clause s n)⟩
  · obtain ⟨hturn, hnext, hnone⟩ := frameTransmit_clause s n hrun hidle hloud
    exact ⟨fun f q hqueue heligible hdeficit => next_of_eq (hturn f q hqueue heligible hdeficit),
      fun d h hd => next_of_eq (hnext d h hd), fun h => next_of_eq (hnone h)⟩

end Sys2Proof.Proofs
end
